-- ==== Sys2Proof/Word.lean ====
section
/-! DEFINITION. The words of the machine and the identifiers of its parts (R4, R19, R20), and the type of a sparse table.
A table lists only the keys whose value differs from the table's own default, in rising order of the key. -/

namespace Sys2Proof

/-- A 64-bit register or address value (R4). -/
abbrev Word := BitVec 64

/-- A byte of memory (R4). -/
abbrev Byte := BitVec 8

/-- A vector register (R213). -/
abbrev VWord := BitVec 512

/-- A sparse table from natural keys: listed keys strictly rising, no listed value equal to the default. -/
abbrev SMap (α : Type) := List (Nat × α)

/-- A core identifier: the R20 layout with the k field zero, as a number. -/
abbrev CoreId := Nat

/-- A context identifier: the R20 layout, as a number. -/
abbrev CtxId := Nat

/-- A cluster, named by the R20 identifier of its core 0 with k = 0. -/
abbrev ClusterId := Nat

end Sys2Proof
end

