-- ==== Sys2Proof/Syntax.lean ====
section
/-! DEFINITION. The operations and events of the module: operand types and the one inductive type Instr, a constructor for
every row of spec/opcode_table.json. -/

namespace Sys2Proof

/-- g0 to g31 (R145). -/
abbrev GReg := Fin 32
/-- v0 to v7 (R145). -/
abbrev VReg := Fin 8
/-- k0 to k3 (R145). -/
abbrev KReg := Fin 4
/-- h0 to h7 (R145). -/
abbrev HReg := Fin 8
/-- s0 to s7 (R183). -/
abbrev SReg := Fin 8
/-- Tensor table index t0 to t63 (R151). -/
abbrev TIdx := Fin 64

/-- Element type suffixes (R153); the code 0x0, no suffix, is no element type. -/
inductive ElemTy where
  | i8 | i16 | i32 | i64 | n8 | n16 | n32 | n64 | f32 | f16 | bf16 | l8a | l8b | l4
  deriving DecidableEq, Repr

/-- Memory space of an access (R91). -/
inductive Space where
  | localS | clusterS | global | remoteS
  deriving DecidableEq, Repr

/-- Ordering qualifier of a memory instruction (R148). -/
inductive MemOrd where
  | none | acq | rel | ar
  deriving DecidableEq, Repr

/-- Wait-count field (R101). -/
inductive WaitCount where
  | none | near | far | mem
  deriving DecidableEq, Repr

/-- Full/empty qualifier (R95): for a load .FW (wait) and .FC (clear), for a store .SE (set) and .EE (empty). -/
inductive FeQual where
  | plain | first | second
  deriving DecidableEq, Repr

/-- The address and qualifier fields of F64M and F96M (R148), the offset apart. -/
structure MemAddr where
  a : GReg
  c : GReg
  ord : MemOrd
  wc : WaitCount
  fe : FeQual
  seg : SReg
  space : Space
  deriving DecidableEq, Repr

/-- FENCE scopes (R154). -/
inductive FenceScope where
  | ctx | core | cluster | die | module | domain | g
  deriving DecidableEq, Repr

/-- VCMP conditions (R154). -/
inductive CmpCond where
  | eq | ne | lt | le | gt | ge
  deriving DecidableEq, Repr

/-- SQVOTE operations (R154). -/
inductive VoteOp where
  | any | all | count
  deriving DecidableEq, Repr

/-- Reduction and scan operations (R154). -/
inductive RedOp where
  | add | min | max | band | bor | bxor
  deriving DecidableEq, Repr

/-- VEMAP operations (R229). -/
inductive MapOp where
  | copy | add | sub | mul | min | max | band | bor | bxor | abs | neg
  deriving DecidableEq, Repr

/-- QCVT operations (R245). -/
inductive QcvtOp where
  | copy | tr | bf16 | f16
  deriving DecidableEq, Repr

/-- MMA shapes (R241). -/
inductive MmaShape where
  | s1x4 | s2x2 | s4x1 | quad
  deriving DecidableEq, Repr

/-- TSET field codes (R236). -/
inductive TField where
  | base | scale | rows | cols | stride | extra | seg | valid
  deriving DecidableEq, Repr

/-- KMOV forms by q (R224): mask from general, general from mask, mask from mask. -/
inductive KMovForm where
  | kg (d : KReg) (a : GReg)
  | gk (d : GReg) (a : KReg)
  | kk (d a : KReg)
  deriving DecidableEq, Repr

/-- The CSR directory (R177). -/
inductive Csr where
  | cstat | cmode | cfemask | cwlim | ctrap | cepc | ceaddr | cvec
  | cword0 | cword1 | cword2 | cword3
  | cid | ccycle | cquota | csplit | cspill | covf | cpost
  deriving DecidableEq, Repr

/-- Wait and signal fields of an engine command (R151, R155). -/
structure WaitSig where
  we : Bool
  wth : BitVec 16
  wmb : BitVec 8
  sinc : BitVec 8
  smb : BitVec 8
  deriving DecidableEq, Repr

/-- The sidings of a core (R40). -/
inductive Siding where
  | alu | mul | idiv | fdiv | vec | ls
  deriving DecidableEq, Repr

/-- The engines a core uses: its matrix, vector and copy engine and its collective engine (R233, R254). -/
inductive EngineKind where
  | matrix | vector | copy | collective
  deriving DecidableEq, Repr

/-- What a scrubber visits: a core's S, P or Q, or HBM (R400). -/
inductive ScrubTarget where
  | coreS (core : CoreId)
  | coreP (core : CoreId)
  | coreQ (core : CoreId)
  | hbm
  deriving DecidableEq, Repr

/-- A log or save area with an uncorrectable error (R422): a core's undo buffer, a die's undo region, the seal-store area that is current or
the one being written, a port's overflow ring, a die's hold queue, a job's page table. -/
inductive Damage where
  | undoBuffer (core : CoreId)
  | undoRegion (die : Fin 36)
  | sealStore (current : Bool)
  | ring (port : ClusterId)
  | holdQueue (die : Fin 36)
  | pageTable (job : Nat)
  deriving DecidableEq, Repr

/-- Domain-wide faults (R423), and the errors that R422 makes urgent. A die-to-die link goes by its number as a mesh link. -/
inductive DomainFaultKind where
  | memoryPort (cluster : ClusterId)
  | router (cluster : ClusterId)
  | dieLink (link : Nat)
  | ilufosko (port : Fin 48)
  | urgentLog (d : Damage)
  deriving DecidableEq, Repr

/-- Fatal errors (R435). -/
inductive FatalKind where
  | rollbackRead | unroutable | diePowerOff
  deriving DecidableEq, Repr

/-- The two paths to the management window (R335). -/
inductive Path where
  | ilufosko | bus
  deriving DecidableEq, Repr

/-- What a debugger may read, and at INVASIVE level write (R345); of a dump, the doubleword at an offset of a die's region. -/
inductive DebugTarget where
  | g (ctx : CtxId) (r : GReg)
  | v (ctx : CtxId) (r : VReg)
  | k (ctx : CtxId) (r : KReg)
  | h (ctx : CtxId) (r : HReg)
  | seg (ctx : CtxId) (r : SReg)
  | pc (ctx : CtxId)
  | csr (ctx : CtxId) (c : Csr)
  | sByte (core : CoreId) (off : Nat)
  | pByte (core : CoreId) (off : Nat)
  | qByte (core : CoreId) (off : Nat)
  | gByte (job va : Nat)
  | dump (die : Fin 36) (off : Nat)
  deriving DecidableEq, Repr

/-- A firmware image of the module flash (R338): its header, which holds the public keys and the security version, its body, and the two
signatures. -/
structure FlashImage where
  header : List Byte
  body : List Byte
  rsaSignature : List Byte
  slhSignature : List Byte
  deriving DecidableEq, Repr

/-- What the module controller changes of a cluster's clock and limits (R292 to R294): it orders a step n; the LDO settles at the ordered
step; the FLL switches to it; it sets the budget B, the threshold in degrees Celsius, or the voltage in mV of a step in its table. -/
inductive ClusterChange where
  | step (n : Fin 41)
  | ldo
  | fll
  | budget (b : Nat)
  | threshold (t : Nat)
  | voltage (n : Fin 41) (mv : Nat)
  deriving DecidableEq, Repr

/-- What happens to a router's slot tables (R24): dispatch writes an entry of the shadow copy of an output port, a network cycle passes, or
the shadow replaces the active table. -/
inductive RouterChange where
  | write (out : Fin 5) (entry : Fin 64) (v : BitVec 16)
  | cycle
  | swap
  deriving DecidableEq, Repr

/-- A flit at a router's output port: the input it came on; its flow when it is scheduled; otherwise whether it is of the copy and collective
class; and the cluster it goes to (R24 to R26). -/
structure MeshFlit where
  inp : Fin 5
  flow : Option (BitVec 12)
  copy : Bool
  dst : ClusterId
  deriving DecidableEq, Repr

/-- The classes of Ilufosko flits (R330). -/
inductive FlitClass where
  | control | scheduled | copy | best
  deriving DecidableEq, Repr

/-- An Ilufosko flit of 256 bytes (R330): the fields of its header, of which `tag` is a destination core identifier or a memory address
tag, its payload of 232 bytes and its CRC-64. -/
structure Flit where
  cls : FlitClass
  dst : BitVec 9
  tag : BitVec 64
  seq : BitVec 12
  payload : BitVec 1856
  crc : BitVec 64
  deriving DecidableEq, Repr

/-- What happens to an Ilufosko port (R331 to R333): it is declared down; the module controller reserves a slot of its frame for a flow or
frees it, or writes the entry of its fabric interface's route table for a module; an endpoint hands its interface a flit, of a flow
when it is scheduled. -/
inductive PortChange where
  | down
  | reserve (slot : Fin 64) (flow : Option (BitVec 12))
  | route (dst : BitVec 9) (ports : List (Fin 48))
  | send (source : BitVec 64) (flow : Option (BitVec 12)) (f : Flit)
  deriving DecidableEq, Repr

/-- An access of the host (R334, R335): a write or a read of the management window, or a global write of a job's data; or the next write to
the window of a program on the module, which a commit has released (R117). -/
inductive HostAccess where
  | write (off : Nat) (v : Word)
  | read (off : Nat)
  | global (job va size data : Nat)
  | program
  deriving DecidableEq, Repr

/-- One constructor per row of spec/opcode_table.json, in the table's order: the Dwezar instructions, then the events of the
module (spec/95_what_each_step_holds.md). -/
inductive Instr where
  /-- ADD (R161). -/
  | add (d a b : GReg)
  /-- SUB (R161). -/
  | sub (d a b : GReg)
  /-- AND (R161). -/
  | iand (d a b : GReg)
  /-- OR (R161). -/
  | ior (d a b : GReg)
  /-- XOR (R161). -/
  | ixor (d a b : GReg)
  /-- SHL (R161). -/
  | shl (d a b : GReg)
  /-- SHR (R161). -/
  | shr (d a b : GReg)
  /-- SRA (R161). -/
  | sra (d a b : GReg)
  /-- ROL (R161). -/
  | rol (d a b : GReg)
  /-- MIN (R161). -/
  | min (d a b : GReg)
  /-- MAX (R161). -/
  | max (d a b : GReg)
  /-- MINN (R161). -/
  | minn (d a b : GReg)
  /-- MAXN (R161). -/
  | maxn (d a b : GReg)
  /-- SLT (R161). -/
  | slt (d a b : GReg)
  /-- SLTN (R161). -/
  | sltn (d a b : GReg)
  /-- SEQ (R161). -/
  | seq (d a b : GReg)
  /-- SNE (R161). -/
  | sne (d a b : GReg)
  /-- ADDW (R161). -/
  | addw (d a b : GReg)
  /-- SUBW (R161). -/
  | subw (d a b : GReg)
  /-- SEL (R161). -/
  | sel (d a b c : GReg)
  /-- CLZ (R161). -/
  | clz (d a : GReg)
  /-- CTZ (R161). -/
  | ctz (d a : GReg)
  /-- POPC (R161). -/
  | popc (d a : GReg)
  /-- ABS (R161). -/
  | abs (d a : GReg)
  /-- SEXT (R161). -/
  | sext (ty : ElemTy) (d a : GReg)
  /-- ZEXT (R161). -/
  | zext (ty : ElemTy) (d a : GReg)
  /-- ADDI (R162). -/
  | addi (d a : GReg) (imm : BitVec 20)
  /-- ANDI (R162). -/
  | andi (d a : GReg) (imm : BitVec 20)
  /-- ORI (R162). -/
  | ori (d a : GReg) (imm : BitVec 20)
  /-- XORI (R162). -/
  | xori (d a : GReg) (imm : BitVec 20)
  /-- SHLI (R162). -/
  | shli (d a : GReg) (sh : BitVec 6)
  /-- SHRI (R162). -/
  | shri (d a : GReg) (sh : BitVec 6)
  /-- SRAI (R162). -/
  | srai (d a : GReg) (sh : BitVec 6)
  /-- ROLI (R162). -/
  | roli (d a : GReg) (sh : BitVec 6)
  /-- SLTI (R162). -/
  | slti (d a : GReg) (imm : BitVec 20)
  /-- LI (R162). -/
  | li (d : GReg) (imm : BitVec 20)
  /-- BFX (R163). -/
  | bfx (d a : GReg) (pos w1 : BitVec 6)
  /-- BFI (R163). -/
  | bfi (d a : GReg) (pos w1 : BitVec 6)
  /-- LIL (R164). -/
  | lil (d : GReg) (imm : BitVec 64)
  /-- LPC (R164). -/
  | lpc (d : GReg) (disp : BitVec 32)
  /-- MUL (R165). -/
  | mul (d a b : GReg)
  /-- MULH (R165). -/
  | mulh (d a b : GReg)
  /-- MULHN (R165). -/
  | mulhn (d a b : GReg)
  /-- MULW (R165). -/
  | mulw (d a b : GReg)
  /-- MAD (R165). -/
  | mad (d a b c : GReg)
  /-- DIV (R166). -/
  | div (d a b : GReg)
  /-- DIVN (R166). -/
  | divn (d a b : GReg)
  /-- REM (R166). -/
  | rem (d a b : GReg)
  /-- REMN (R166). -/
  | remn (d a b : GReg)
  /-- FADD (R168). -/
  | fadd (d a b : GReg)
  /-- FSUB (R168). -/
  | fsub (d a b : GReg)
  /-- FMUL (R168). -/
  | fmul (d a b : GReg)
  /-- FFMA (R168). -/
  | ffma (d a b c : GReg)
  /-- FMIN (R170). -/
  | fmin (d a b : GReg)
  /-- FMAX (R170). -/
  | fmax (d a b : GReg)
  /-- FEQ (R170). -/
  | feq (d a b : GReg)
  /-- FLT (R170). -/
  | flt (d a b : GReg)
  /-- FLE (R170). -/
  | fle (d a b : GReg)
  /-- FCVTI (R169). -/
  | fcvti (ty : ElemTy) (d a : GReg)
  /-- FCVTF (R169). -/
  | fcvtf (ty : ElemTy) (d a : GReg)
  /-- FCLASS (R170). -/
  | fclass (d a : GReg)
  /-- FDIV (R168). -/
  | fdiv (d a b : GReg)
  /-- FSQRT (R168). -/
  | fsqrt (d a : GReg)
  /-- BR (R171). -/
  | br (disp : BitVec 32)
  /-- BRL (R171). -/
  | brl (d : GReg) (disp : BitVec 32)
  /-- BEQ (R171). -/
  | beq (a b : GReg) (disp : BitVec 32)
  /-- BNE (R171). -/
  | bne (a b : GReg) (disp : BitVec 32)
  /-- BLT (R171). -/
  | blt (a b : GReg) (disp : BitVec 32)
  /-- BGE (R171). -/
  | bge (a b : GReg) (disp : BitVec 32)
  /-- BLTN (R171). -/
  | bltn (a b : GReg) (disp : BitVec 32)
  /-- BGEN (R171). -/
  | bgen (a b : GReg) (disp : BitVec 32)
  /-- JR (R172). -/
  | jr (a : GReg)
  /-- JRL (R172). -/
  | jrl (d a : GReg)
  /-- LOOP (R174). -/
  | loop (a : GReg) (disp : BitVec 32)
  /-- LOOPI (R174). -/
  | loopi (cnt : BitVec 25) (disp : BitVec 32)
  /-- NOP (R175). -/
  | nop
  /-- YIELD (R175). -/
  | yield
  /-- TEND (R67). -/
  | tend
  /-- LDB (R191). -/
  | ldb (d : GReg) (m : MemAddr) (off : BitVec 12)
  /-- LDBN (R191). -/
  | ldbn (d : GReg) (m : MemAddr) (off : BitVec 12)
  /-- LDH (R191). -/
  | ldh (d : GReg) (m : MemAddr) (off : BitVec 12)
  /-- LDHN (R191). -/
  | ldhn (d : GReg) (m : MemAddr) (off : BitVec 12)
  /-- LDW (R191). -/
  | ldw (d : GReg) (m : MemAddr) (off : BitVec 12)
  /-- LDWN (R191). -/
  | ldwn (d : GReg) (m : MemAddr) (off : BitVec 12)
  /-- LDD (R191). -/
  | ldd (d : GReg) (m : MemAddr) (off : BitVec 12)
  /-- LDG (R191). -/
  | ldg (d : GReg) (m : MemAddr) (off : BitVec 12)
  /-- LDV (R191). -/
  | ldv (d : VReg) (m : MemAddr) (off : BitVec 12)
  /-- LDB_F96M (R191). -/
  | ldbF96m (d : GReg) (m : MemAddr) (off : BitVec 40)
  /-- LDBN_F96M (R191). -/
  | ldbnF96m (d : GReg) (m : MemAddr) (off : BitVec 40)
  /-- LDH_F96M (R191). -/
  | ldhF96m (d : GReg) (m : MemAddr) (off : BitVec 40)
  /-- LDHN_F96M (R191). -/
  | ldhnF96m (d : GReg) (m : MemAddr) (off : BitVec 40)
  /-- LDW_F96M (R191). -/
  | ldwF96m (d : GReg) (m : MemAddr) (off : BitVec 40)
  /-- LDWN_F96M (R191). -/
  | ldwnF96m (d : GReg) (m : MemAddr) (off : BitVec 40)
  /-- LDD_F96M (R191). -/
  | lddF96m (d : GReg) (m : MemAddr) (off : BitVec 40)
  /-- LDG_F96M (R191). -/
  | ldgF96m (d : GReg) (m : MemAddr) (off : BitVec 40)
  /-- LDV_F96M (R191). -/
  | ldvF96m (d : VReg) (m : MemAddr) (off : BitVec 40)
  /-- STB (R192). -/
  | stb (d : GReg) (m : MemAddr) (off : BitVec 12)
  /-- STH (R192). -/
  | sth (d : GReg) (m : MemAddr) (off : BitVec 12)
  /-- STW (R192). -/
  | stw (d : GReg) (m : MemAddr) (off : BitVec 12)
  /-- STD (R192). -/
  | std (d : GReg) (m : MemAddr) (off : BitVec 12)
  /-- STG (R192). -/
  | stg (d : GReg) (m : MemAddr) (off : BitVec 12)
  /-- STV (R192). -/
  | stv (d : VReg) (m : MemAddr) (off : BitVec 12)
  /-- STB_F96M (R192). -/
  | stbF96m (d : GReg) (m : MemAddr) (off : BitVec 40)
  /-- STH_F96M (R192). -/
  | sthF96m (d : GReg) (m : MemAddr) (off : BitVec 40)
  /-- STW_F96M (R192). -/
  | stwF96m (d : GReg) (m : MemAddr) (off : BitVec 40)
  /-- STD_F96M (R192). -/
  | stdF96m (d : GReg) (m : MemAddr) (off : BitVec 40)
  /-- STG_F96M (R192). -/
  | stgF96m (d : GReg) (m : MemAddr) (off : BitVec 40)
  /-- STV_F96M (R192). -/
  | stvF96m (d : VReg) (m : MemAddr) (off : BitVec 40)
  /-- LR (R193). -/
  | lr (d : GReg) (m : MemAddr) (off : BitVec 12)
  /-- SC (R193). -/
  | sc (d b : GReg) (m : MemAddr) (off : BitVec 12)
  /-- AMOADD (R196). -/
  | amoadd (d b : GReg) (dd : Bool) (m : MemAddr) (off : BitVec 12)
  /-- AMOAND (R196). -/
  | amoand (d b : GReg) (dd : Bool) (m : MemAddr) (off : BitVec 12)
  /-- AMOOR (R196). -/
  | amoor (d b : GReg) (dd : Bool) (m : MemAddr) (off : BitVec 12)
  /-- AMOXOR (R196). -/
  | amoxor (d b : GReg) (dd : Bool) (m : MemAddr) (off : BitVec 12)
  /-- AMOMIN (R196). -/
  | amomin (d b : GReg) (dd : Bool) (m : MemAddr) (off : BitVec 12)
  /-- AMOMAX (R196). -/
  | amomax (d b : GReg) (dd : Bool) (m : MemAddr) (off : BitVec 12)
  /-- AMOMINN (R196). -/
  | amominn (d b : GReg) (dd : Bool) (m : MemAddr) (off : BitVec 12)
  /-- AMOMAXN (R196). -/
  | amomaxn (d b : GReg) (dd : Bool) (m : MemAddr) (off : BitVec 12)
  /-- AMOSWP (R196). -/
  | amoswp (d b : GReg) (dd : Bool) (m : MemAddr) (off : BitVec 12)
  /-- AMOCAS (R196). -/
  | amocas (d b : GReg) (dd : Bool) (m : MemAddr) (off : BitVec 12)
  /-- AMOFADD (R196). -/
  | amofadd (d b : GReg) (dd : Bool) (m : MemAddr) (off : BitVec 12)
  /-- LR_F96M (R193). -/
  | lrF96m (d : GReg) (m : MemAddr) (off : BitVec 40)
  /-- SC_F96M (R193). -/
  | scF96m (d b : GReg) (m : MemAddr) (off : BitVec 40)
  /-- AMOADD_F96M (R196). -/
  | amoaddF96m (d b : GReg) (dd : Bool) (m : MemAddr) (off : BitVec 40)
  /-- AMOAND_F96M (R196). -/
  | amoandF96m (d b : GReg) (dd : Bool) (m : MemAddr) (off : BitVec 40)
  /-- AMOOR_F96M (R196). -/
  | amoorF96m (d b : GReg) (dd : Bool) (m : MemAddr) (off : BitVec 40)
  /-- AMOXOR_F96M (R196). -/
  | amoxorF96m (d b : GReg) (dd : Bool) (m : MemAddr) (off : BitVec 40)
  /-- AMOMIN_F96M (R196). -/
  | amominF96m (d b : GReg) (dd : Bool) (m : MemAddr) (off : BitVec 40)
  /-- AMOMAX_F96M (R196). -/
  | amomaxF96m (d b : GReg) (dd : Bool) (m : MemAddr) (off : BitVec 40)
  /-- AMOMINN_F96M (R196). -/
  | amominnF96m (d b : GReg) (dd : Bool) (m : MemAddr) (off : BitVec 40)
  /-- AMOMAXN_F96M (R196). -/
  | amomaxnF96m (d b : GReg) (dd : Bool) (m : MemAddr) (off : BitVec 40)
  /-- AMOSWP_F96M (R196). -/
  | amoswpF96m (d b : GReg) (dd : Bool) (m : MemAddr) (off : BitVec 40)
  /-- AMOCAS_F96M (R196). -/
  | amocasF96m (d b : GReg) (dd : Bool) (m : MemAddr) (off : BitVec 40)
  /-- AMOFADD_F96M (R196). -/
  | amofaddF96m (d b : GReg) (dd : Bool) (m : MemAddr) (off : BitVec 40)
  /-- RNDCLOSE (R198). -/
  | rndclose
  /-- FENCE (R199). -/
  | fence (scope : FenceScope)
  /-- WAITRS (R195). -/
  | waitrs
  /-- WAITC (R200). -/
  | waitc (mask : BitVec 3)
  /-- MBINC (R201). -/
  | mbinc (i : BitVec 8) (v : BitVec 16)
  /-- MBINC_REMOTE (R201). -/
  | mbincRemote (i : BitVec 8) (v : BitVec 16) (a : GReg)
  /-- MBWAIT (R201). -/
  | mbwait (i : BitVec 8) (v : BitVec 16)
  /-- MBRD (R201). -/
  | mbrd (d : GReg) (i : BitVec 8)
  /-- MBSET (R201). -/
  | mbset (i : BitVec 8) (v : BitVec 16)
  /-- CHSEND (R203). -/
  | chsend (d a : GReg)
  /-- CHRECV (R204). -/
  | chrecv (d a : GReg)
  /-- SENDN (R205). -/
  | sendn (d a : GReg)
  /-- RECVN (R206). -/
  | recvn (d a b : GReg)
  /-- SQOPEN (R207). -/
  | sqopen (gang : Bool) (d : HReg) (a : GReg) (n : BitVec 24) (b : GReg)
  /-- SQJOIN (R208). -/
  | sqjoin (a : HReg) (b : GReg)
  /-- SQLEAVE (R85). -/
  | sqleave (a : HReg)
  /-- SQCLOSE (R208). -/
  | sqclose (d : GReg) (a : HReg)
  /-- SQBAR (R84). -/
  | sqbar (a : HReg)
  /-- SQARRIVE (R84). -/
  | sqarrive (d : GReg) (a : HReg)
  /-- SQWAIT (R84). -/
  | sqwait (a : HReg)
  /-- SQVOTE (R87). -/
  | sqvote (op : VoteOp) (d : GReg) (a : HReg) (b : GReg)
  /-- SQRED (R209). -/
  | sqred (op : RedOp) (ty : ElemTy) (d : GReg) (a : HReg) (b : GReg)
  /-- SQSCAN (R209). -/
  | sqscan (op : RedOp) (ty : ElemTy) (d : GReg) (a : HReg) (b : GReg)
  /-- SQINFO (R210). -/
  | sqinfo (self : Bool) (d : GReg) (a : HReg)
  /-- SEALPT (R212). -/
  | sealpt
  /-- SEAL (R212). -/
  | seal
  /-- SPLITRD (R212). -/
  | splitrd (d : GReg)
  /-- VADD (R216). -/
  | vadd (ty : ElemTy) (d a b : VReg) (m : Option KReg)
  /-- VSUB (R216). -/
  | vsub (ty : ElemTy) (d a b : VReg) (m : Option KReg)
  /-- VMUL (R216). -/
  | vmul (ty : ElemTy) (d a b : VReg) (m : Option KReg)
  /-- VFMA (R216). -/
  | vfma (ty : ElemTy) (d a b c : VReg) (m : Option KReg)
  /-- VMIN (R216). -/
  | vmin (ty : ElemTy) (d a b : VReg) (m : Option KReg)
  /-- VMAX (R216). -/
  | vmax (ty : ElemTy) (d a b : VReg) (m : Option KReg)
  /-- VABS (R216). -/
  | vabs (ty : ElemTy) (d a : VReg) (m : Option KReg)
  /-- VNEG (R216). -/
  | vneg (ty : ElemTy) (d a : VReg) (m : Option KReg)
  /-- VAND (R216). -/
  | vand (ty : ElemTy) (d a b : VReg) (m : Option KReg)
  /-- VOR (R216). -/
  | vor (ty : ElemTy) (d a b : VReg) (m : Option KReg)
  /-- VXOR (R216). -/
  | vxor (ty : ElemTy) (d a b : VReg) (m : Option KReg)
  /-- VSHL (R216). -/
  | vshl (ty : ElemTy) (d a b : VReg) (m : Option KReg)
  /-- VSHR (R216). -/
  | vshr (ty : ElemTy) (d a b : VReg) (m : Option KReg)
  /-- VSRA (R216). -/
  | vsra (ty : ElemTy) (d a b : VReg) (m : Option KReg)
  /-- VCMP (R217). -/
  | vcmp (cond : CmpCond) (ty : ElemTy) (d : KReg) (a b : VReg) (m : Option KReg)
  /-- VSEL (R216). -/
  | vsel (ty : ElemTy) (d a b : VReg) (c : KReg)
  /-- VBCAST (R218). -/
  | vbcast (ty : ElemTy) (d : VReg) (a : GReg) (m : Option KReg)
  /-- VEXT (R218). -/
  | vext (ty : ElemTy) (d : GReg) (a : VReg) (b : GReg)
  /-- VINS (R218). -/
  | vins (ty : ElemTy) (d : VReg) (a b : GReg)
  /-- VSHUF (R218). -/
  | vshuf (ty : ElemTy) (d a b : VReg) (m : Option KReg)
  /-- VRED (R219). -/
  | vred (op : RedOp) (ty : ElemTy) (d : GReg) (a : VReg) (m : Option KReg)
  /-- VSCAN (R219). -/
  | vscan (op : RedOp) (ty : ElemTy) (d a : VReg) (m : Option KReg)
  /-- VCMPRS (R220). -/
  | vcmprs (ty : ElemTy) (d a : VReg) (m : Option KReg)
  /-- VRCP (R221). -/
  | vrcp (ty : ElemTy) (d a : VReg) (m : Option KReg)
  /-- VRSQ (R221). -/
  | vrsq (ty : ElemTy) (d a : VReg) (m : Option KReg)
  /-- VEX2 (R221). -/
  | vex2 (ty : ElemTy) (d a : VReg) (m : Option KReg)
  /-- VLG2 (R221). -/
  | vlg2 (ty : ElemTy) (d a : VReg) (m : Option KReg)
  /-- VLDX (R226). -/
  | vldx (d b : VReg) (m : MemAddr) (off : BitVec 12)
  /-- VSTX (R226). -/
  | vstx (d b : VReg) (m : MemAddr) (off : BitVec 12)
  /-- KAND (R224). -/
  | kand (d a b : KReg)
  /-- KOR (R224). -/
  | kor (d a b : KReg)
  /-- KXOR (R224). -/
  | kxor (d a b : KReg)
  /-- KNOT (R224). -/
  | knot (d a : KReg)
  /-- KMOV (R224). -/
  | kmov (f : KMovForm)
  /-- KPOP (R224). -/
  | kpop (d : GReg) (a : KReg)
  /-- KSET (R224). -/
  | kset (d : KReg) (a : GReg)
  /-- VCVT (R222). -/
  | vcvt (ty ty2 : ElemTy) (d a : VReg) (m : Option KReg)
  /-- VLOG (R223). -/
  | vlog (ty : ElemTy) (d a : VReg) (b : GReg) (m : Option KReg)
  /-- VEXP (R223). -/
  | vexp (ty : ElemTy) (d a : VReg) (b : GReg) (m : Option KReg)
  /-- VEMAP (R229). -/
  | vemap (op : MapOp) (td ta tb : TIdx) (w : WaitSig)
  /-- VERED (R230). -/
  | vered (op : RedOp) (td ta : TIdx) (w : WaitSig)
  /-- VESCAN (R230). -/
  | vescan (op : RedOp) (td ta : TIdx) (w : WaitSig)
  /-- VECVT (R231). -/
  | vecvt (td ta : TIdx) (w : WaitSig)
  /-- TDEF (R236). -/
  | tdef (t : TIdx) (a : GReg) (imm : BitVec 20)
  /-- TRD (R236). -/
  | trd (d : GReg) (t : TIdx) (q : Fin 4)
  /-- TSET (R236). -/
  | tset (field : TField) (t : TIdx) (a : GReg)
  /-- PCLAIM (R238). -/
  | pclaim (d a : GReg) (i n1 : BitVec 7)
  /-- PREL (R238). -/
  | prel (a : GReg) (i n1 : BitVec 7)
  /-- QCLAIM (R238). -/
  | qclaim (d a : GReg) (i n1 : BitVec 7)
  /-- QREL (R238). -/
  | qrel (a : GReg) (i n1 : BitVec 7)
  /-- MMA (R242). -/
  | mma (shape : MmaShape) (z : Bool) (td ta tb : TIdx) (w : WaitSig)
  /-- MMAG (R243). -/
  | mmag (shape : MmaShape) (z : Bool) (td ta tb : TIdx) (a : GReg) (w : WaitSig)
  /-- QZERO (R244). -/
  | qzero (td : TIdx) (w : WaitSig)
  /-- PLOAD (R240). -/
  | pload (t : Bool) (td ta : TIdx) (w : WaitSig)
  /-- QLD (R245). -/
  | qld (td ta : TIdx) (w : WaitSig)
  /-- QST (R245). -/
  | qst (td ta : TIdx) (w : WaitSig)
  /-- QSTL (R245). -/
  | qstl (td ta : TIdx) (w : WaitSig)
  /-- QCVT (R245). -/
  | qcvt (op : QcvtOp) (td ta : TIdx) (w : WaitSig)
  /-- CPY (R247). -/
  | cpy (td ta : TIdx) (w : WaitSig)
  /-- CPYX (R248). -/
  | cpyx (pull rs : Bool) (td ta : TIdx) (a : GReg) (w : WaitSig)
  /-- BCLOSE (R253). -/
  | bclose (scope : FenceScope) (d : GReg)
  /-- BWAIT_REL (R253). -/
  | bwaitRel (n : BitVec 4)
  /-- BWAIT_LAND (R253). -/
  | bwaitLand (n : BitVec 4)
  /-- CSTAGE (R252). -/
  | cstage (d : GReg) (n : BitVec 20)
  /-- EWAIT (R253). -/
  | ewait (mask : BitVec 4)
  /-- CREDUCE (R255). -/
  | creduce (op : RedOp) (h : HReg) (root : GReg) (td ta : TIdx) (w : WaitSig)
  /-- CBCAST (R255). -/
  | cbcast (h : HReg) (root : GReg) (td ta : TIdx) (w : WaitSig)
  /-- CALLRED (R255). -/
  | callred (op : RedOp) (h : HReg) (td ta : TIdx) (w : WaitSig)
  /-- CGATHER (R255). -/
  | cgather (h : HReg) (td ta : TIdx) (w : WaitSig)
  /-- CSRRD (R176). -/
  | csrrd (d : GReg) (csr : Csr)
  /-- CSRWR (R176). -/
  | csrwr (d : GReg) (csr : Csr) (a : GReg)
  /-- CSRSET (R176). -/
  | csrset (d : GReg) (csr : Csr) (a : GReg)
  /-- CSRCLR (R176). -/
  | csrclr (d : GReg) (csr : Csr) (a : GReg)
  /-- TRAP (R180). -/
  | trap (n : BitVec 20)
  /-- BRK (R180). -/
  | brk (n : BitVec 20)
  /-- HALT (R181). -/
  | halt
  /-- RTE (R182). -/
  | rte
  /-- SEGLD (R183). -/
  | segld (d : SReg) (a b : GReg)
  /-- SEGRD (R183). -/
  | segrd (d : GReg) (a : SReg) (q : Bool)
  /-- IDRD (R184). -/
  | idrd (d : GReg)
  /-- CTXSAVE (R186). -/
  | ctxsave (a : GReg)
  /-- CTXLOAD (R186). -/
  | ctxload (a : GReg)
  /-- LAP_START (R51). -/
  | lapStart (core : CoreId)
  /-- SIDING_OUTPUT_REENTRY (R46). -/
  | sidingOutputReentry (core : CoreId) (siding : Siding)
  /-- TAPE_RESULT_INJECTION (R297). -/
  | tapeResultInjection (ctx : CtxId)
  /-- INSTRUCTION_RETIRE (R47). -/
  | instructionRetire (ctx : CtxId)
  /-- TAG_FREE (R38). -/
  | tagFree (ctx : CtxId)
  /-- FETCH_BLOCK_ARRIVAL (R63). -/
  | fetchBlockArrival (ctx : CtxId) (block : Nat)
  /-- CONTEXT_REJOIN (R53). -/
  | contextRejoin (ctx : CtxId)
  /-- PRECISE_TRAP_TAKEN (R353). -/
  | preciseTrapTaken (ctx : CtxId)
  /-- IMPRECISE_TRAP_TAKEN (R357). -/
  | impreciseTrapTaken (ctx : CtxId)
  /-- DISCARDED_WRITE (R397). -/
  | discardedWrite (ctx : CtxId) (out : Bool) (addr : BitVec 52)
  /-- TIMING_REPLAY (R361). -/
  | timingReplay (core : CoreId) (stage : Fin 8)
  /-- DETECTOR_RATE_REPORT (R363). -/
  | detectorRateReport (core : CoreId)
  /-- PRIORITY_PREEMPTION (R289). -/
  | priorityPreemption (core : CoreId)
  /-- CORE_RESTORE (R289). -/
  | coreRestore (core : CoreId)
  /-- QUOTA_PREEMPTION (R291). -/
  | quotaPreemption (ctx : CtxId)
  /-- QUOTA_REFILL (R291). -/
  | quotaRefill (job : Nat)
  /-- DEBUGGER_HALT (R364). -/
  | debuggerHalt (ctx : CtxId)
  /-- DEBUGGER_RESUME (R366). -/
  | debuggerResume (ctx : CtxId)
  /-- BPADDR_WRITE (R365). -/
  | bpaddrWrite (core : CoreId) (n : Fin 4) (v : Word)
  /-- BPCTL_WRITE (R365). -/
  | bpctlWrite (core : CoreId) (n : Fin 4) (v : Word)
  /-- CORE_REMAP (R18). -/
  | coreRemap (cluster : ClusterId) (c : Fin 32) (phys : Fin 34)
  /-- CORE_RETIREMENT (R402). -/
  | coreRetirement (core : CoreId)
  /-- REMOTE_WRITE_ARRIVAL (R439). -/
  | remoteWriteArrival (msg : Nat)
  /-- POSTED_STORE_ACK (R100). -/
  | postedStoreAck (msg : Nat)
  /-- REMOTE_REQUEST_ARRIVAL (R188). -/
  | remoteRequestArrival (msg : Nat)
  /-- REMOTE_REPLY_ARRIVAL (R188). -/
  | remoteReplyArrival (msg : Nat)
  /-- HOME_ACCESS (R106). -/
  | homeAccess (msg : Nat)
  /-- FULL_EMPTY_SERVE (R96). -/
  | fullEmptyServe (core : CoreId) (granule : Nat)
  /-- RETRY_NOTICE (R96). -/
  | retryNotice (msg : Nat)
  /-- GRANULE_ARRIVAL (R203). -/
  | granuleArrival (msg : Nat)
  /-- DELIVERY_ACK (R203). -/
  | deliveryAck (msg : Nat)
  /-- GRANULE_RETURN (R203). -/
  | granuleReturn (msg : Nat)
  /-- REFILL_REFUSED (R203). -/
  | refillRefused (msg : Nat)
  /-- REFILL_REQUEST (R204). -/
  | refillRequest (msg : Nat)
  /-- CHANNEL_REFILL (R203). -/
  | channelRefill (core : CoreId) (record : Nat)
  /-- NAMED_MESSAGE_ARRIVAL (R205). -/
  | namedMessageArrival (msg : Nat)
  /-- DETERMINISTIC_UPDATE_ARRIVAL (R197). -/
  | deterministicUpdateArrival (msg : Nat)
  /-- ROUND_CLOSE_VOTE (R198). -/
  | roundCloseVote (msg : Nat)
  /-- ROUND_CLOSE (R198). -/
  | roundClose (launch : Nat)
  /-- ROUND_APPLY (R197). -/
  | roundApply (launch : Nat) (port : ClusterId)
  /-- ROUND_COMPLETE (R198). -/
  | roundComplete (launch : Nat)
  /-- FENCE_STAMP_REQUEST (R199). -/
  | fenceStampRequest (msg : Nat)
  /-- FENCE_STAMP_RETURN (R266). -/
  | fenceStampReturn (msg : Nat)
  /-- SQUAD_ANSWER (R440). -/
  | squadAnswer (msg : Nat)
  /-- SQUAD_MESSAGE_ARRIVAL (R208). -/
  | squadMessageArrival (msg : Nat)
  /-- GENERATION_COMPLETE (R83). -/
  | generationComplete (handle : BitVec 16)
  /-- SQUAD_DEPARTURE (R408). -/
  | squadDeparture (ctx : CtxId) (handle : BitVec 16)
  /-- ENGINE_COMMAND_START (R155). -/
  | engineCommandStart (core : CoreId) (e : EngineKind)
  /-- RESERVATION_GRANT (R292). -/
  | reservationGrant (cluster : ClusterId)
  /-- ENGINE_COMMAND_COMPLETE (R233). -/
  | engineCommandComplete (core : CoreId) (e : EngineKind)
  /-- SCHEDULE_ENTRY_FIRE (R251). -/
  | scheduleEntryFire (core : CoreId)
  /-- PAGE_WAIT (R394). -/
  | pageWait (ctx : CtxId)
  /-- PAGE_WAKE (R394). -/
  | pageWake (page : Nat) (discard : Bool)
  /-- HOME_MOVE (R107). -/
  | homeMove (page : Nat) (port : ClusterId)
  /-- SCRUB (R400). -/
  | scrub (t : ScrubTarget) (line : Nat)
  /-- WAIT_LIMIT (R404). -/
  | waitLimit (ctx : CtxId)
  /-- SEAL_INTERVAL (R115). -/
  | sealInterval (job : Nat)
  /-- SEAL_PREPARE (R114). -/
  | sealPrepare (die : Fin 36)
  /-- DIE_READY (R114). -/
  | dieReady (die : Fin 36)
  /-- SEAL_READY (R114). -/
  | sealReady
  /-- SEAL_COMMIT (R114). -/
  | sealCommit (die : Fin 36)
  /-- SEAL_ABORT (R427). -/
  | sealAbort
  /-- RESEAL_TIMER (R427). -/
  | resealTimer
  /-- ROLLBACK (R426). -/
  | rollback
  /-- CONTAINMENT (R424). -/
  | containment (job : Nat) (cluster : ClusterId)
  /-- DOMAIN_FAULT (R423). -/
  | domainFault (f : DomainFaultKind)
  /-- CORE_FAULT (R422). -/
  | coreFault (core : CoreId)
  /-- WATCHDOG_STAGE_1 (R429). -/
  | watchdogStage1 (job queue : Nat)
  /-- WATCHDOG_STAGE_2 (R429). -/
  | watchdogStage2 (job queue : Nat)
  /-- WATCHDOG_STAGE_3 (R429). -/
  | watchdogStage3 (job queue : Nat)
  /-- REPLICA_DIGEST (R430). -/
  | replicaDigest (job phase : Nat) (partner : BitVec 384)
  /-- PROVISIONAL_SEAL (R431). -/
  | provisionalSeal
  /-- INFIELD_TEST (R432). -/
  | infieldTest (cluster : ClusterId) (kernel : FlashImage) (signature : Word)
  /-- THERMAL_READING (R294). -/
  | thermalReading (cluster : ClusterId) (quarters : Nat)
  /-- THROTTLE_STEP (R294). -/
  | throttleStep (cluster : ClusterId)
  /-- CURRENT_SAMPLE (R434). -/
  | currentSample (die : Fin 36) (percent : Nat) (atUs : Nat)
  /-- FATAL_ERROR (R435). -/
  | fatalError (f : FatalKind) (die : Fin 36)
  /-- FREQUENCY_CHANGE (R293). -/
  | frequencyChange (cluster : ClusterId) (c : ClusterChange)
  /-- ROUTER_TABLE_SWAP (R24). -/
  | routerTableSwap (cluster : ClusterId) (c : RouterChange)
  /-- MESH_FLIT_RETRY (R362). -/
  | meshFlitRetry (link : Nat) (flit : Option MeshFlit) (crcOk : Bool)
  /-- ILUFOSKO_FLIT_RECEIVE (R332). -/
  | ilufoskoFlitReceive (port : Fin 48) (flit : Option Flit)
  /-- ILUFOSKO_NAK (R332). -/
  | ilufoskoNak (port : Fin 48) (ack : Bool) (seq : BitVec 12)
  /-- ILUFOSKO_PORT_DOWN (R332). -/
  | ilufoskoPortDown (port : Fin 48) (c : PortChange)
  /-- COMMAND_READ (R283). -/
  | commandRead (job queue : Nat)
  /-- LAUNCH (R285). -/
  | launch (job queue : Nat)
  /-- GRAPH (R72). -/
  | graph (job queue : Nat)
  /-- WAITVAL (R285). -/
  | waitval (job queue : Nat)
  /-- WAITVAL_SATISFIED (R438). -/
  | waitvalSatisfied (job queue : Nat)
  /-- WRITEVAL (R285). -/
  | writeval (job queue : Nat)
  /-- CANCEL_LAUNCH (R74). -/
  | cancelLaunch (job queue : Nat)
  /-- CANCEL_GRAPH (R65). -/
  | cancelGraph (job queue : Nat)
  /-- CANCEL_PHASE (R65). -/
  | cancelPhase (job queue : Nat)
  /-- CANCEL_JOB (R281). -/
  | cancelJob (job queue : Nat)
  /-- SEALREQ (R285). -/
  | sealreq (job queue : Nat)
  /-- COMMAND_FENCE (R285). -/
  | commandFence (job queue : Nat)
  /-- LAUNCH_START (R72). -/
  | launchStart (launch : Nat)
  /-- CORE_PREPARATION (R70). -/
  | corePreparation (launch : Nat) (core : CoreId)
  /-- UNIT_START (R71). -/
  | unitStart (ctx : CtxId)
  /-- BATON_START (R76). -/
  | batonStart (job phase : Nat)
  /-- BATON_VISIT (R76). -/
  | batonVisit (job phase : Nat)
  /-- BATON_RETURN (R77). -/
  | batonReturn (job phase : Nat)
  /-- PHASE_END_NOTICE (R77). -/
  | phaseEndNotice (job phase : Nat) (die : Fin 36)
  /-- JOBEND_EFFECT (R281). -/
  | jobendEffect (job : Nat)
  /-- JOB_END (R281). -/
  | jobEnd (job : Nat)
  /-- MDOM (R335). -/
  | mdom (v : Word)
  /-- MLOCK (R337). -/
  | mlock (path : Path) (v : Word)
  /-- MLOCK_TIMEOUT (R337). -/
  | mlockTimeout
  /-- DOORBELL (R283). -/
  | doorbell (v : Word)
  /-- JOBNEW (R280). -/
  | jobnew (v : Word)
  /-- QRESET (R286). -/
  | qreset (v : Word)
  /-- JOBEND (R281). -/
  | jobend (v : Word)
  /-- WINDOW_WRITE (R335). -/
  | windowWrite (path : Path) (a : HostAccess)
  /-- POWER_ON (R339). -/
  | powerOn (path : Path)
  /-- POWER_IDLE (R348). -/
  | powerIdle (path : Path)
  /-- POWER_STANDBY (R348). -/
  | powerStandby (path : Path)
  /-- POWER_OFF (R348). -/
  | powerOff (path : Path)
  /-- DEBUG_OFF (R345). -/
  | debugOff (path : Path)
  /-- DEBUG_NON_INVASIVE (R345). -/
  | debugNonInvasive (path : Path)
  /-- DEBUG_INVASIVE (R347). -/
  | debugInvasive (path : Path)
  /-- LIFECYCLE_DEPLOYED (R344). -/
  | lifecycleDeployed (path : Path)
  /-- LIFECYCLE_VENDOR_DEBUG (R347). -/
  | lifecycleVendorDebug (path : Path)
  /-- LIFECYCLE_RMA (R344). -/
  | lifecycleRma (path : Path)
  /-- LIFECYCLE_RETIRED (R344). -/
  | lifecycleRetired (path : Path)
  /-- NONCE (R342). -/
  | nonce (path : Path)
  /-- ATTEST (R341). -/
  | attest (path : Path)
  /-- KEYLOAD (R343). -/
  | keyload (path : Path)
  /-- EXTEND (R340). -/
  | extend (path : Path) (reg : Nat)
  /-- MREQ_MALFORMED (R337). -/
  | mreqMalformed (path : Path) (v : Word)
  /-- POWER_ON_BOOT (R338). -/
  | powerOnBoot
  /-- PIPE_CYCLE (R44). -/
  | pipeCycle (core : CoreId)
  /-- BATCH_RELEASED (R253). -/
  | batchReleased (ctx : CtxId) (num : Nat)
  /-- DEBUGGER_STEP (R345). -/
  | debuggerStep (ctx : CtxId)
  /-- DEBUGGER_WRITE (R345). -/
  | debuggerWrite (t : DebugTarget) (v : Option VWord)
  /-- NEW_IMAGE (R338). -/
  | newImage (slot : Bool) (img : FlashImage)
  deriving DecidableEq, Repr

end Sys2Proof
end

