-- ==== Sys2Proof/WellFormed.lean ====
section
/-! DEFINITION. The well-formed instructions: the operand values that an encoding of spec/07 to 11 can hold (R145 to R154 and
each entry). An event of the module has no words, so it is no well-formed instruction. -/

namespace Sys2Proof

/-- The integer types I of R213. -/
def ElemTy.isI : ElemTy → Bool
  | .i8 | .i16 | .i32 | .i64 | .n8 | .n16 | .n32 | .n64 => true
  | .f32 | .f16 | .bf16 | .l8a | .l8b | .l4 => false

/-- The IEEE types F of R213. -/
def ElemTy.isF : ElemTy → Bool
  | .f32 | .f16 | .bf16 => true
  | .i8 | .i16 | .i32 | .i64 | .n8 | .n16 | .n32 | .n64 | .l8a | .l8b | .l4 => false

/-- The log types of VLOG and VEXP (R223). -/
def ElemTy.isLog : ElemTy → Bool
  | .l8a | .l8b | .l4 => true
  | .i8 | .i16 | .i32 | .i64 | .n8 | .n16 | .n32 | .n64 | .f32 | .f16 | .bf16 => false

/-- I or F. -/
def ElemTy.isIF (t : ElemTy) : Bool := t.isI || t.isF

/-- The types of SEXT (R161). -/
def ElemTy.isSx (t : ElemTy) : Bool := t == .i8 || t == .i16 || t == .i32

/-- The types of ZEXT (R161). -/
def ElemTy.isZx (t : ElemTy) : Bool := t == .n8 || t == .n16 || t == .n32

/-- The types of FCVTI and FCVTF (R169). -/
def ElemTy.isCvt (t : ElemTy) : Bool := t == .i32 || t == .i64 || t == .n32 || t == .n64

/-- The types of SQRED and SQSCAN (R209). -/
def ElemTy.isSq (t : ElemTy) : Bool := t.isCvt || t.isF

/-- and, or and xor accept no IEEE type (R209, R219). -/
def redOk (op : RedOp) (t : ElemTy) : Bool := !t.isF || op == .add || op == .min || op == .max

/-- The first register of a pair is even (R152, R203 to R206). -/
def even (d : GReg) : Bool := d.val % 2 == 0

/-- ord of a load or LR, and of a store or SC (R152). -/
def MemOrd.acqOnly (o : MemOrd) : Bool := o == .none || o == .acq
def MemOrd.relOnly (o : MemOrd) : Bool := o == .none || o == .rel

/-- The memory fields name a segment in space 0b10 only, a second base in space 0b11 only, and a full/empty qualifier where
the instruction takes one and the space is not global (R148, R152, R370). -/
def MemAddr.wf (m : MemAddr) (fe : Bool) : Bool :=
  (m.space == .global || m.seg == 0) && (m.space == .remoteS || m.c == 0) &&
    (m.fe == .plain || (fe && m.space != .global))

/-- The wait fields are zero where WE is, and SMB is where SINC is (R151). -/
def WaitSig.wf (w : WaitSig) : Bool :=
  (w.we || (w.wth == 0 && w.wmb == 0)) && (w.sinc != 0 || w.smb == 0)

/-- The VEMAP operations that use B (R229). -/
def MapOp.usesB : MapOp → Bool
  | .copy | .abs | .neg => false
  | .add | .sub | .mul | .min | .max | .band | .bor | .bxor => true

/-- Well-formed: an instruction that words encode. -/
def Instr.wf : Instr → Bool
  | .add _ _ _ | .sub _ _ _ | .iand _ _ _ | .ior _ _ _ | .ixor _ _ _ | .shl _ _ _ | .shr _ _ _ | .sra _ _ _
   | .rol _ _ _ | .min _ _ _ | .max _ _ _ | .minn _ _ _ | .maxn _ _ _ | .slt _ _ _ | .sltn _ _ _ | .seq _ _ _
   | .sne _ _ _ | .addw _ _ _ | .subw _ _ _ | .sel _ _ _ _ | .clz _ _ | .ctz _ _ | .popc _ _ | .abs _ _ | .addi _ _ _
   | .andi _ _ _ | .ori _ _ _ | .xori _ _ _ | .shli _ _ _ | .shri _ _ _ | .srai _ _ _ | .roli _ _ _ | .slti _ _ _
   | .li _ _ | .lil _ _ | .lpc _ _ | .mul _ _ _ | .mulh _ _ _ | .mulhn _ _ _ | .mulw _ _ _ | .mad _ _ _ _ | .div _ _ _
   | .divn _ _ _ | .rem _ _ _ | .remn _ _ _ | .fadd _ _ _ | .fsub _ _ _ | .fmul _ _ _ | .ffma _ _ _ _ | .fmin _ _ _
   | .fmax _ _ _ | .feq _ _ _ | .flt _ _ _ | .fle _ _ _ | .fclass _ _ | .fdiv _ _ _ | .fsqrt _ _ | .br _ | .brl _ _
   | .beq _ _ _ | .bne _ _ _ | .blt _ _ _ | .bge _ _ _ | .bltn _ _ _ | .bgen _ _ _ | .jr _ | .jrl _ _ | .loop _ _
   | .loopi _ _ | .nop | .yield | .tend | .rndclose | .fence _ | .waitrs | .mbinc _ _ | .mbincRemote _ _ _
   | .mbwait _ _ | .mbrd _ _ | .mbset _ _ | .sqjoin _ _ | .sqleave _ | .sqclose _ _ | .sqbar _ | .sqarrive _ _
   | .sqwait _ | .sqvote _ _ _ _ | .sqinfo _ _ _ | .sealpt | .seal | .splitrd _ | .kand _ _ _ | .kor _ _ _
   | .kxor _ _ _ | .knot _ _ | .kmov _ | .kpop _ _ | .kset _ _ | .tdef _ _ _ | .trd _ _ _ | .tset _ _ _
   | .pclaim _ _ _ _ | .prel _ _ _ | .qclaim _ _ _ _ | .qrel _ _ _ | .bwaitRel _ | .bwaitLand _ | .cstage _ _
   | .csrrd _ _ | .csrwr _ _ _ | .csrset _ _ _ | .csrclr _ _ _ | .trap _ | .brk _ | .halt | .rte | .segld _ _ _
   | .segrd _ _ _ | .idrd _ | .ctxsave _ | .ctxload _ => true
  | .sext ty _ _ => ty.isSx
  | .zext ty _ _ => ty.isZx
  | .bfx _ _ p w | .bfi _ _ p w => decide (p.toNat + w.toNat < 64)
  | .fcvti ty _ _ | .fcvtf ty _ _ => ty.isCvt
  | .ldb _ m _ | .ldbn _ m _ | .ldh _ m _ | .ldhn _ m _ | .ldw _ m _ | .ldwn _ m _ | .ldd _ m _ | .ldv _ m _
   | .ldbF96m _ m _ | .ldbnF96m _ m _ | .ldhF96m _ m _ | .ldhnF96m _ m _ | .ldwF96m _ m _ | .ldwnF96m _ m _
   | .lddF96m _ m _ | .ldvF96m _ m _ => m.wf true && m.ord.acqOnly
  | .ldg d m _ | .ldgF96m d m _ => even d && m.wf true && m.ord.acqOnly
  | .stb _ m _ | .sth _ m _ | .stw _ m _ | .std _ m _ | .stv _ m _ | .stbF96m _ m _ | .sthF96m _ m _ | .stwF96m _ m _
   | .stdF96m _ m _ | .stvF96m _ m _ => m.wf true && m.ord.relOnly
  | .stg d m _ | .stgF96m d m _ => even d && m.wf true && m.ord.relOnly
  | .lr _ m _ | .lrF96m _ m _ => m.wf false && m.ord.acqOnly
  | .sc _ _ m _ | .scF96m _ _ m _ | .vstx _ _ m _ => m.wf false && m.ord.relOnly
  | .amoadd _ _ _ m _ | .amoand _ _ _ m _ | .amoor _ _ _ m _ | .amoxor _ _ _ m _ | .amomin _ _ _ m _
   | .amomax _ _ _ m _ | .amominn _ _ _ m _ | .amomaxn _ _ _ m _ | .amoswp _ _ _ m _ | .amocas _ _ _ m _
   | .amofadd _ _ _ m _ | .amoaddF96m _ _ _ m _ | .amoandF96m _ _ _ m _ | .amoorF96m _ _ _ m _ | .amoxorF96m _ _ _ m _
   | .amominF96m _ _ _ m _ | .amomaxF96m _ _ _ m _ | .amominnF96m _ _ _ m _ | .amomaxnF96m _ _ _ m _
   | .amoswpF96m _ _ _ m _ | .amocasF96m _ _ _ m _ | .amofaddF96m _ _ _ m _ => m.wf false
  | .waitc q => q != 0
  | .chsend d _ | .chrecv d _ | .sendn d _ => even d
  | .recvn d _ _ => even d
  | .sqopen _ _ _ n _ => n != 0
  | .sqred op ty _ _ _ | .sqscan op ty _ _ _ => ty.isSq && redOk op ty
  | .vadd ty _ _ _ _ | .vsub ty _ _ _ _ | .vmul ty _ _ _ _ | .vmin ty _ _ _ _ | .vmax ty _ _ _ _ | .vand ty _ _ _ _
   | .vor ty _ _ _ _ | .vxor ty _ _ _ _ | .vshuf ty _ _ _ _ => ty.isIF
  | .vfma ty _ _ _ _ _ => ty.isIF
  | .vabs ty _ _ _ | .vneg ty _ _ _ | .vbcast ty _ _ _ | .vcmprs ty _ _ _ => ty.isIF
  | .vshl ty _ _ _ _ | .vshr ty _ _ _ _ | .vsra ty _ _ _ _ => ty.isI
  | .vcmp _ ty _ _ _ _ => ty.isIF
  | .vsel ty _ _ _ _ => ty.isIF
  | .vext ty _ _ _ | .vins ty _ _ _ => ty.isIF
  | .vred op ty _ _ _ | .vscan op ty _ _ _ => ty.isIF && redOk op ty
  | .vrcp ty _ _ _ | .vrsq ty _ _ _ | .vex2 ty _ _ _ | .vlg2 ty _ _ _ => ty.isF
  | .vldx _ _ m _ => m.wf false && m.ord.acqOnly
  | .vcvt ty ty2 _ _ _ => ty.isIF && ty2.isIF
  | .vlog ty _ _ _ _ | .vexp ty _ _ _ _ => ty.isLog
  | .vemap op _ _ tb w => w.wf && (op.usesB || tb.val == 0)
  | .vered _ _ _ w | .vescan _ _ _ w | .qcvt _ _ _ w => w.wf
  | .vecvt _ _ w | .qld _ _ w | .qst _ _ w | .qstl _ _ w | .cpy _ _ w => w.wf
  | .mma _ _ _ _ _ w => w.wf
  | .mmag sh _ td _ _ _ w => w.wf && (decide (sh ≠ .quad) && decide (td.val ≤ 60))
  | .qzero _ w => w.wf
  | .pload _ _ _ w => w.wf
  | .cpyx _ _ _ _ _ w => w.wf
  | .bclose op _ => decide (op ≠ .g)
  | .ewait n => n != 0
  | .creduce _ _ _ _ _ w => w.wf
  | .cbcast _ _ _ _ w => w.wf
  | .callred _ _ _ _ w => w.wf
  | .cgather _ _ _ w => w.wf
  | .lapStart _ | .sidingOutputReentry _ _ | .tapeResultInjection _ | .instructionRetire _ | .tagFree _
   | .fetchBlockArrival _ _ | .contextRejoin _ | .preciseTrapTaken _ | .impreciseTrapTaken _ | .discardedWrite _ _ _
   | .timingReplay _ _ | .detectorRateReport _ | .priorityPreemption _ | .coreRestore _ | .quotaPreemption _
   | .quotaRefill _ | .debuggerHalt _ | .debuggerResume _ | .bpaddrWrite _ _ _ | .bpctlWrite _ _ _ | .coreRemap _ _ _
   | .coreRetirement _ | .remoteWriteArrival _ | .postedStoreAck _ | .remoteRequestArrival _ | .remoteReplyArrival _
   | .homeAccess _ | .fullEmptyServe _ _ | .retryNotice _ | .granuleArrival _ | .deliveryAck _ | .granuleReturn _
   | .refillRefused _ | .refillRequest _ | .channelRefill _ _ | .namedMessageArrival _ | .deterministicUpdateArrival _
   | .roundCloseVote _ | .roundClose _ | .roundApply _ _ | .roundComplete _ | .fenceStampRequest _
   | .fenceStampReturn _ | .squadAnswer _ | .squadMessageArrival _ | .generationComplete _ | .squadDeparture _ _
   | .engineCommandStart _ _ | .reservationGrant _ | .engineCommandComplete _ _ | .scheduleEntryFire _ | .pageWait _
   | .pageWake _ _ | .homeMove _ _ | .scrub _ _ | .waitLimit _ | .sealInterval _ | .sealPrepare _ | .dieReady _
   | .sealReady | .sealCommit _ | .sealAbort | .resealTimer | .rollback | .containment _ _ | .domainFault _
   | .coreFault _ | .watchdogStage1 _ _ | .watchdogStage2 _ _ | .watchdogStage3 _ _ | .replicaDigest _ _ _
   | .provisionalSeal | .infieldTest _ _ _ | .thermalReading _ _ | .throttleStep _ | .currentSample _ _ _
   | .fatalError _ _ | .frequencyChange _ _ | .routerTableSwap _ _ | .meshFlitRetry _ _ _ | .ilufoskoFlitReceive _ _
   | .ilufoskoNak _ _ _ | .ilufoskoPortDown _ _ | .commandRead _ _ | .launch _ _ | .graph _ _ | .waitval _ _
   | .waitvalSatisfied _ _ | .writeval _ _ | .cancelLaunch _ _ | .cancelGraph _ _ | .cancelPhase _ _ | .cancelJob _ _
   | .sealreq _ _ | .commandFence _ _ | .launchStart _ | .corePreparation _ _ | .unitStart _ | .batonStart _ _
   | .batonVisit _ _ | .batonReturn _ _ | .phaseEndNotice _ _ _ | .jobendEffect _ | .jobEnd _ | .mdom _ | .mlock _ _
   | .mlockTimeout | .doorbell _ | .jobnew _ | .qreset _ | .jobend _ | .windowWrite _ _ | .powerOn _ | .powerIdle _
   | .powerStandby _ | .powerOff _ | .debugOff _ | .debugNonInvasive _ | .debugInvasive _ | .lifecycleDeployed _
   | .lifecycleVendorDebug _ | .lifecycleRma _ | .lifecycleRetired _ | .nonce _ | .attest _ | .keyload _ | .extend _ _
   | .mreqMalformed _ _ | .powerOnBoot | .pipeCycle _ | .batchReleased _ _ | .debuggerStep _ | .debuggerWrite _ _
   | .newImage _ _ => false

end Sys2Proof
end

