-- ==== Sys2Proof/Decode.lean ====
section
/-! DEFINITION. The decoder (R140 to R158, R370, R371): from the words at an instruction start to an instruction or to the
reason why they are none; and after it the encoder, written from the same tables.

A word is a natural number below 2^32. A row of the opcode map (R157) is a `Form`: what each field of its format may hold,
and the instruction those fields stand for. -/

namespace Sys2Proof

/-- Why a word sequence is not an instruction, with the word and bit of the first offending field (R370). -/
structure Illegal where
  reason : Nat
  word : Nat
  bit : Nat
  deriving DecidableEq, Repr

/-- ceaddr of ILLEGAL_ENCODING (R370); `loff` is LOFF, 0 but for reason 10. -/
def Illegal.ceaddr (e : Illegal) (loff : Nat) : Word :=
  BitVec.ofNat 64 (e.reason + 256 * (e.word % 4) + 1024 * (e.bit % 32) + 2 ^ 32 * (loff % 2 ^ 32))

/-! ### Formats (R144 to R151) -/

/-- Bits hi:lo of a word, as a number. -/
def bits (w lo width : Nat) : Nat := w / 2 ^ lo % 2 ^ width

/-- The named formats. -/
inductive Format where
  | f64r | f64i | f64m | f96m | f96b | f128l | f128e
  deriving DecidableEq, Repr

/-- Words of a format (R140, R146 to R151). -/
def Format.words : Format → Nat
  | .f64r | .f64i | .f64m => 2
  | .f96m | .f96b => 3
  | .f128l | .f128e => 4

/-- Format of a major opcode's cell (R156, R157); none for a reserved opcode. -/
def formatOf (op : Nat) : Option Format :=
  match op with
  | 0x01 | 0x20 | 0x21 | 0x30 | 0x31 | 0x42 | 0x44 | 0x56 | 0x57 | 0x69 | 0x6A | 0x6C | 0x78 | 0x79 | 0x7A | 0x7C | 0x98
  | 0xD2 => some .f64r
  | 0x02 | 0x68 | 0x6B | 0xB0 | 0xB1 | 0xC1 | 0xD0 | 0xD1 => some .f64i
  | 0x50 | 0x52 | 0x54 | 0x7B => some .f64m
  | 0x51 | 0x53 | 0x55 => some .f96m
  | 0x04 | 0x40 | 0x41 | 0x43 => some .f96b
  | 0x03 => some .f128l
  | 0xA0 | 0xB2 | 0xB3 | 0xB4 | 0xC0 | 0xC2 => some .f128e
  | _ => none

/-- Fields of F64R (R146). -/
structure FR where
  d : Nat := 0
  a : Nat := 0
  b : Nat := 0
  c : Nat := 0
  ty : Nat := 0
  ty2 : Nat := 0
  km : Nat := 0
  msk : Nat := 0
  q : Nat := 0

/-- Fields of F64I (R147). -/
structure FI where
  d : Nat := 0
  a : Nat := 0
  b : Nat := 0
  imm : Nat := 0
  aux : Nat := 0

/-- Fields of F64M and F96M (R148); dd is function bit 6 of an atomic (R157). -/
structure FM where
  d : Nat := 0
  a : Nat := 0
  b : Nat := 0
  dd : Nat := 0
  off : Nat := 0
  space : Nat := 0
  seg : Nat := 0
  fe : Nat := 0
  wc : Nat := 0
  ord : Nat := 0
  c : Nat := 0

/-- Fields of F96B (R149). -/
structure FB where
  d : Nat := 0
  a : Nat := 0
  b : Nat := 0
  disp : Nat := 0
  cnt : Nat := 0

/-- Fields of F128L (R150). -/
structure FL where
  d : Nat := 0
  a : Nat := 0
  b : Nat := 0
  imm : Nat := 0

/-- Fields of F128E (R151). -/
structure FE where
  d : Nat := 0
  a : Nat := 0
  b : Nat := 0
  td : Nat := 0
  ta : Nat := 0
  tb : Nat := 0
  mode : Nat := 0
  wmb : Nat := 0
  wth : Nat := 0
  we : Nat := 0
  smb : Nat := 0
  sinc : Nat := 0

/-- The fields read from the words of a F64R instruction. -/
def FR.read (w0 w1 : Nat) : FR :=
  { d := bits w0 10 5, a := bits w0 15 5, b := bits w0 20 5, c := bits w1 3 5, ty := bits w1 8 4, ty2 := bits w1 12 4,
    km := bits w1 16 2, msk := bits w1 18 1, q := bits w1 19 3 }

def FI.read (w0 w1 : Nat) : FI :=
  { d := bits w0 10 5, a := bits w0 15 5, b := bits w0 20 5, imm := bits w1 3 20, aux := bits w1 23 8 }

/-- `amo` says that function bit 6 is .D. -/
def FM.read (amo : Bool) (w0 w1 offHi : Nat) : FM :=
  { d := bits w0 10 5, a := bits w0 15 5, b := bits w0 20 5, dd := if amo then bits w0 31 1 else 0,
    off := bits w1 3 12 + 2 ^ 12 * offHi, space := bits w1 15 2, seg := bits w1 17 3, fe := bits w1 20 2, wc := bits w1 22 2,
    ord := bits w1 24 2, c := bits w1 26 5 }

def FB.read (w0 w1 w2 : Nat) : FB :=
  { d := bits w0 10 5, a := bits w0 15 5, b := bits w0 20 5, disp := bits w1 3 29 + 2 ^ 29 * bits w2 3 3,
    cnt := bits w2 6 25 }

def FL.read (w0 w1 w2 w3 : Nat) : FL :=
  { d := bits w0 10 5, a := bits w0 15 5, b := bits w0 20 5,
    imm := bits w1 3 29 + 2 ^ 29 * bits w2 3 29 + 2 ^ 58 * bits w3 3 6 }

def FE.read (w0 w1 w2 w3 : Nat) : FE :=
  { d := bits w0 10 5, a := bits w0 15 5, b := bits w0 20 5, td := bits w1 3 6, ta := bits w1 9 6, tb := bits w1 15 6,
    mode := bits w1 21 11, wmb := bits w2 3 8, wth := bits w2 11 16, we := bits w2 27 1, smb := bits w3 3 8,
    sinc := bits w3 11 8 }

/-! ### What a row accepts (R145, R152, R153, R160, R215, R370) -/

/-- The register file a field names (R145). -/
inductive RegFile where
  /-- no register: the field is zero -/
  | unused
  | g
  /-- an even g register, the first of a pair -/
  | pair
  | v | k | h | s
  /-- named by no file because another field offends (KMOV with q of 3 and above) -/
  | open
  deriving DecidableEq, Repr

/-- The reason a register field offends, if it does (R370 reasons 3 and 4). -/
def RegFile.bad : RegFile → Nat → Option Nat
  | .unused, n => if n = 0 then none else some 3
  | .g, _ => none
  | .pair, n => if n % 2 = 0 then none else some 4
  | .v, n | .h, n | .s, n => if n < 8 then none else some 4
  | .k, n => if n < 4 then none else some 4
  | .open, _ => none

/-- Registers of word 0. -/
structure Regs where
  d : RegFile := .unused
  a : RegFile := .unused
  b : RegFile := .unused

/-- What an F64R row accepts. -/
structure AccR extends Regs where
  c : RegFile := .unused
  ty : Nat → Bool := (· == 0)
  ty2 : Nat → Bool := (· == 0)
  q : Nat → Bool := (· == 0)
  /-- accepts a lane mask -/
  mask : Bool := false
  /-- and, or and xor exclude the IEEE types (R209, R219) -/
  red : Bool := false
  /-- d and a name the files that q selects (R224) -/
  byQ : Bool := false

/-- What an F64I row accepts. -/
structure AccI extends Regs where
  /-- bits of imm20 that the row uses, from bit 0 -/
  immBits : Nat := 0
  imm : Nat → Nat → Bool := fun _ _ => true
  aux : Nat → Bool := (· == 0)
  /-- pos + w at most 64 (R163) -/
  field : Bool := false

/-- What a memory row accepts (R152). -/
structure AccM extends Regs where
  fe : Bool := false
  ord : Nat → Bool
  dd : Bool := false

/-- What an F96B row accepts. -/
structure AccB extends Regs where
  cnt : Bool := false

/-- What an F128E row accepts: the tensors it uses and its MODE. -/
structure AccE extends Regs where
  td : Bool := true
  ta : Bool := true
  /-- TB is used with this MODE -/
  tb : Nat → Bool := fun _ => false
  mode : Nat → Bool := (· == 0)
  /-- TD at most 60 and no QUAD (R243) -/
  groups : Bool := false

/-- A row of the opcode map: its accepted fields and the instruction they stand for. -/
inductive Form where
  | r (acc : AccR) (mk : FR → Instr)
  | i (acc : AccI) (mk : FI → Instr)
  | m (acc : AccM) (mk : FM → Instr)
  | b (acc : AccB) (mk : FB → Instr)
  | l (acc : Regs) (mk : FL → Instr)
  | e (acc : AccE) (mk : FE → Instr)

/-! ### The checks, by position (R371) -/

/-- The first of a list of findings. -/
def firstOf : List (Option Illegal) → Option Illegal
  | [] => none
  | some e :: _ => some e
  | none :: rest => firstOf rest

/-- A finding of a reason at a place, when the condition offends. -/
def finding (offends : Bool) (reason word bit : Nat) : Option Illegal :=
  if offends then some ⟨reason, word, bit⟩ else none

/-- A finding of a register field. -/
def regFinding (f : RegFile) (n word bit : Nat) : Option Illegal := (f.bad n).map (⟨·, word, bit⟩)

/-- The findings of word 0's register fields. -/
def Regs.findings (r : Regs) (d a b : Nat) : List (Option Illegal) :=
  [regFinding r.d d 0 10, regFinding r.a a 0 15, regFinding r.b b 0 20]

/-- The files of KMOV's d and a by q (R224). -/
def kmovFiles : Nat → RegFile × RegFile
  | 0 => (.k, .g)
  | 1 => (.g, .k)
  | 2 => (.k, .k)
  | _ => (.open, .open)

def AccR.check (acc : AccR) (f : FR) (w1 : Nat) : Option Illegal :=
  let r : Regs := if acc.byQ then { d := (kmovFiles f.q).1, a := (kmovFiles f.q).2, b := acc.b } else acc.toRegs
  firstOf (r.findings f.d f.a f.b ++
    [regFinding acc.c f.c 1 3,
     finding (!acc.ty f.ty) 4 1 8,
     finding (!acc.ty2 f.ty2) 4 1 12,
     finding (!acc.mask && f.km != 0) 3 1 16,
     finding (!acc.mask && f.msk != 0) 3 1 18,
     finding (acc.mask && f.msk == 0 && f.km != 0) 5 1 18,
     finding (!acc.q f.q) 4 1 19,
     finding (acc.red && decide (9 ≤ f.ty) && decide (3 ≤ f.q)) 5 1 19,
     finding (bits w1 22 10 != 0) 3 1 22])

def AccI.check (acc : AccI) (f : FI) (w1 : Nat) : Option Illegal :=
  firstOf (acc.toRegs.findings f.d f.a f.b ++
    [finding (!acc.imm f.imm f.aux) 4 1 3,
     finding (acc.field && decide (64 < f.imm % 64 + (f.imm / 64 % 64 + 1))) 5 1 9,
     finding (f.imm / 2 ^ acc.immBits != 0) 3 1 (3 + acc.immBits),
     finding (!acc.aux f.aux) 4 1 23,
     finding (bits w1 31 1 != 0) 3 1 31])

/-- The checks of format M. fe = 0b11 is reported as a field code that the entry does not list, reason 4, and every other breach of R152 as
reason 5: R370 would let either reason name it (DESIGN CHOICE, log entry 15). -/
def AccM.check (acc : AccM) (f : FM) (w1 w2 : Nat) : Option Illegal :=
  firstOf (acc.toRegs.findings f.d f.a f.b ++
    [finding (!acc.dd && f.dd != 0) 5 0 25,
     finding (f.seg != 0 && f.space != 2) 5 1 17,
     finding (f.fe == 3) 4 1 20,
     finding (f.fe != 0 && (!acc.fe || f.space == 2)) 5 1 20,
     finding (!acc.ord f.ord) 5 1 24,
     finding (f.c != 0 && f.space != 3) 5 1 26,
     finding (bits w1 31 1 != 0) 3 1 31,
     finding (bits w2 31 1 != 0) 3 2 31])

def AccB.check (acc : AccB) (f : FB) (w2 : Nat) : Option Illegal :=
  firstOf (acc.toRegs.findings f.d f.a f.b ++
    [finding (!acc.cnt && f.cnt != 0) 3 2 6,
     finding (bits w2 31 1 != 0) 3 2 31])

def checkL (acc : Regs) (f : FL) (w3 : Nat) : Option Illegal :=
  firstOf (acc.findings f.d f.a f.b ++ [finding (bits w3 9 23 != 0) 3 3 9])

def AccE.check (acc : AccE) (f : FE) (w2 w3 : Nat) : Option Illegal :=
  firstOf (acc.toRegs.findings f.d f.a f.b ++
    [finding (!acc.td && f.td != 0) 3 1 3,
     finding (acc.groups && decide (60 < f.td)) 4 1 3,
     finding (!acc.ta && f.ta != 0) 3 1 9,
     finding (!acc.tb f.mode && f.tb != 0) 3 1 15,
     finding (!acc.mode f.mode) 4 1 21,
     finding (acc.groups && decide (f.mode / 512 = 3)) 5 1 21,
     finding (f.we == 0 && (f.wth != 0 || f.wmb != 0)) 5 2 27,
     finding (bits w2 28 4 != 0) 3 2 28,
     finding (f.sinc == 0 && f.smb != 0) 5 3 11,
     finding (bits w3 19 13 != 0) 3 3 19])

/-- Check the words of a row and give its instruction. `w` gives the words of the instruction, `fmt` its format. -/
def Form.read (form : Form) (fmt : Format) (w : Nat → Nat) : Except Illegal Instr :=
  let ans (e : Option Illegal) (i : Instr) : Except Illegal Instr := match e with | some e => .error e | none => .ok i
  match form with
  | .r acc mk => let f := FR.read (w 0) (w 1); ans (acc.check f (w 1)) (mk f)
  | .i acc mk => let f := FI.read (w 0) (w 1); ans (acc.check f (w 1)) (mk f)
  | .m acc mk =>
    let w2 := if fmt = .f96m then w 2 else 0
    let f := FM.read (decide (bits (w 0) 2 8 = 0x54 ∨ bits (w 0) 2 8 = 0x55)) (w 0) (w 1) (bits w2 3 28)
    ans (acc.check f (w 1) w2) (mk f)
  | .b acc mk => let f := FB.read (w 0) (w 1) (w 2); ans (acc.check f (w 2)) (mk f)
  | .l acc mk => let f := FL.read (w 0) (w 1) (w 2) (w 3); ans (checkL acc f (w 3)) (mk f)
  | .e acc mk => let f := FE.read (w 0) (w 1) (w 2) (w 3); ans (acc.check f (w 2) (w 3)) (mk f)

/-! ### Operands from field values -/

abbrev gr (n : Nat) : GReg := Fin.ofNat 32 n
abbrev vr (n : Nat) : VReg := Fin.ofNat 8 n
abbrev kr (n : Nat) : KReg := Fin.ofNat 4 n
abbrev hr (n : Nat) : HReg := Fin.ofNat 8 n
abbrev sr (n : Nat) : SReg := Fin.ofNat 8 n
abbrev ti (n : Nat) : TIdx := Fin.ofNat 64 n

/-- The lane mask of mk and km (R146). -/
def maskOf (mk km : Nat) : Option KReg := if mk = 0 then none else some (kr km)

/-- mk and km of a lane mask. -/
def mkOf : Option KReg → Nat
  | none => 0
  | some _ => 1
def kmOf : Option KReg → Nat
  | none => 0
  | some k => k.val

/-- Codes of R153. -/
def ElemTy.code : ElemTy → Nat
  | .i8 => 1 | .i16 => 2 | .i32 => 3 | .i64 => 4 | .n8 => 5 | .n16 => 6 | .n32 => 7 | .n64 => 8
  | .f32 => 9 | .f16 => 10 | .bf16 => 11 | .l8a => 12 | .l8b => 13 | .l4 => 14

def elemTy : Nat → ElemTy
  | 2 => .i16 | 3 => .i32 | 4 => .i64 | 5 => .n8 | 6 => .n16 | 7 => .n32 | 8 => .n64
  | 9 => .f32 | 10 => .f16 | 11 => .bf16 | 12 => .l8a | 13 => .l8b | 14 => .l4 | _ => .i8

/-- Codes of R154. -/
def FenceScope.code : FenceScope → Nat
  | .ctx => 0 | .core => 1 | .cluster => 2 | .die => 3 | .module => 4 | .domain => 5 | .g => 6

def fenceScope : Nat → FenceScope
  | 1 => .core | 2 => .cluster | 3 => .die | 4 => .module | 5 => .domain | 6 => .g | _ => .ctx

def CmpCond.code : CmpCond → Nat
  | .eq => 0 | .ne => 1 | .lt => 2 | .le => 3 | .gt => 4 | .ge => 5

def cmpCond : Nat → CmpCond
  | 1 => .ne | 2 => .lt | 3 => .le | 4 => .gt | 5 => .ge | _ => .eq

def VoteOp.code : VoteOp → Nat
  | .any => 0 | .all => 1 | .count => 2

def voteOp : Nat → VoteOp
  | 1 => .all | 2 => .count | _ => .any

def RedOp.code : RedOp → Nat
  | .add => 0 | .min => 1 | .max => 2 | .band => 3 | .bor => 4 | .bxor => 5

def redOp : Nat → RedOp
  | 1 => .min | 2 => .max | 3 => .band | 4 => .bor | 5 => .bxor | _ => .add

/-- OP of VEMAP (R229). -/
def MapOp.code : MapOp → Nat
  | .copy => 0 | .add => 1 | .sub => 2 | .mul => 3 | .min => 4 | .max => 5 | .band => 6 | .bor => 7 | .bxor => 8
  | .abs => 9 | .neg => 10

def mapOp : Nat → MapOp
  | 1 => .add | 2 => .sub | 3 => .mul | 4 => .min | 5 => .max | 6 => .band | 7 => .bor | 8 => .bxor | 9 => .abs
  | 10 => .neg | _ => .copy

/-- Operation of QCVT (R245). -/
def QcvtOp.code : QcvtOp → Nat
  | .copy => 0 | .tr => 1 | .bf16 => 2 | .f16 => 3

def qcvtOp : Nat → QcvtOp
  | 1 => .tr | 2 => .bf16 | 3 => .f16 | _ => .copy

/-- Shapes of MMA (R241). -/
def MmaShape.code : MmaShape → Nat
  | .s1x4 => 0 | .s2x2 => 1 | .s4x1 => 2 | .quad => 3

def mmaShape : Nat → MmaShape
  | 1 => .s2x2 | 2 => .s4x1 | 3 => .quad | _ => .s1x4

/-- TSET field codes (R236). -/
def TField.code : TField → Nat
  | .base => 0 | .scale => 1 | .rows => 2 | .cols => 3 | .stride => 4 | .extra => 5 | .seg => 6 | .valid => 7

def tField : Nat → TField
  | 1 => .scale | 2 => .rows | 3 => .cols | 4 => .stride | 5 => .extra | 6 => .seg | 7 => .valid | _ => .base

/-- CSR numbers (R177). -/
def Csr.code : Csr → Nat
  | .cstat => 0x00 | .cmode => 0x01 | .cfemask => 0x02 | .cwlim => 0x03 | .ctrap => 0x08 | .cepc => 0x09
  | .ceaddr => 0x0A | .cvec => 0x0B | .cword0 => 0x0C | .cword1 => 0x0D | .cword2 => 0x0E | .cword3 => 0x0F
  | .cid => 0x10 | .ccycle => 0x11 | .cquota => 0x12 | .csplit => 0x13 | .cspill => 0x14 | .covf => 0x15 | .cpost => 0x16

def csrOf : Nat → Csr
  | 0x01 => .cmode | 0x02 => .cfemask | 0x03 => .cwlim | 0x08 => .ctrap | 0x09 => .cepc | 0x0A => .ceaddr
  | 0x0B => .cvec | 0x0C => .cword0 | 0x0D => .cword1 | 0x0E => .cword2 | 0x0F => .cword3 | 0x10 => .cid
  | 0x11 => .ccycle | 0x12 => .cquota | 0x13 => .csplit | 0x14 => .cspill | 0x15 => .covf | 0x16 => .cpost
  | _ => .cstat

/-- The CSR numbers of the directory (R177). -/
def isCsr (n : Nat) : Bool := decide (n ≤ 3) || decide (8 ≤ n ∧ n ≤ 0x16)

/-- Spaces (R91). -/
def Space.code : Space → Nat
  | .localS => 0 | .clusterS => 1 | .global => 2 | .remoteS => 3

def spaceOf : Nat → Space
  | 1 => .clusterS | 2 => .global | 3 => .remoteS | _ => .localS

def MemOrd.code : MemOrd → Nat
  | .none => 0 | .acq => 1 | .rel => 2 | .ar => 3

def memOrd : Nat → MemOrd
  | 1 => .acq | 2 => .rel | 3 => .ar | _ => .none

def WaitCount.code : WaitCount → Nat
  | .none => 0 | .near => 1 | .far => 2 | .mem => 3

def waitCount : Nat → WaitCount
  | 1 => .near | 2 => .far | 3 => .mem | _ => .none

def FeQual.code : FeQual → Nat
  | .plain => 0 | .first => 1 | .second => 2

def feQual : Nat → FeQual
  | 1 => .first | 2 => .second | _ => .plain

/-- The address and qualifiers of the memory fields (R148). -/
def FM.addr (f : FM) : MemAddr :=
  { a := gr f.a, c := gr f.c, ord := memOrd f.ord, wc := waitCount f.wc, fe := feQual f.fe, seg := sr f.seg,
    space := spaceOf f.space }

/-- The memory fields of an address and its qualifiers. -/
def FM.ofAddr (d b dd off : Nat) (m : MemAddr) : FM :=
  { d := d, a := m.a.val, b := b, dd := dd, off := off, space := m.space.code, seg := m.seg.val, fe := m.fe.code,
    wc := m.wc.code, ord := m.ord.code, c := m.c.val }

/-- The wait and signal fields (R151). -/
def FE.waitSig (f : FE) : WaitSig :=
  { we := decide (f.we = 1), wth := BitVec.ofNat 16 f.wth, wmb := BitVec.ofNat 8 f.wmb, sinc := BitVec.ofNat 8 f.sinc,
    smb := BitVec.ofNat 8 f.smb }

/-- The engine command fields of wait and signal, tensors and MODE. -/
def FE.ofCmd (a b td ta tb mode : Nat) (w : WaitSig) : FE :=
  { a := a, b := b, td := td, ta := ta, tb := tb, mode := mode, wmb := w.wmb.toNat, wth := w.wth.toNat, we := w.we.toNat,
    smb := w.smb.toNat, sinc := w.sinc.toNat }

/-! ### Accepted codes -/

/-- I of R213. -/
def isI (t : Nat) : Bool := decide (1 ≤ t ∧ t ≤ 8)
/-- I and F of R213. -/
def isIF (t : Nat) : Bool := decide (1 ≤ t ∧ t ≤ 11)
/-- F of R213. -/
def isF (t : Nat) : Bool := decide (9 ≤ t ∧ t ≤ 11)
/-- The log codes of R223. -/
def isLog (t : Nat) : Bool := decide (12 ≤ t ∧ t ≤ 14)
/-- The types of FCVTI and FCVTF (R169). -/
def isCvt (t : Nat) : Bool := t == 3 || t == 4 || t == 7 || t == 8
/-- The types of SQRED and SQSCAN (R209). -/
def isSq (t : Nat) : Bool := t == 3 || t == 4 || t == 7 || t == 8 || t == 9 || t == 10 || t == 11
/-- Codes 0 to 5. -/
def isSix (q : Nat) : Bool := decide (q ≤ 5)
/-- ord none or ACQ, and none or REL (R152). -/
def ordAcq (o : Nat) : Bool := o == 0 || o == 1
def ordRel (o : Nat) : Bool := o == 0 || o == 2
def ordAny (_ : Nat) : Bool := true
/-- MODE of VEMAP, of VERED and VESCAN, of MMA, of CREDUCE and CALLRED (R229, R230, R241, R254). -/
def modeMap (m : Nat) : Bool := m % 128 == 0 && decide (m / 128 ≤ 10)
def modeRed (m : Nat) : Bool := m % 128 == 0 && decide (m / 128 ≤ 5)
def modeMma (m : Nat) : Bool := m % 256 == 0
def modeColl (m : Nat) : Bool := m % 256 == 0 && decide (m / 256 ≤ 5)
/-- TB is used by VEMAP with this MODE, or the operation is no operation (R229). -/
def mapUsesB (m : Nat) : Bool := !(m / 128 == 0 || m / 128 == 9 || m / 128 == 10)

/-! ### The opcode map (R157), a row a line -/

/-- Cell AluR, opcode 0x01 (R157). -/
def cellAluR (fn : Nat) : Option Form :=
  match fn with
  | 0 => some (.r { d := .g, a := .g, b := .g } fun f => .add (gr f.d) (gr f.a) (gr f.b))
  | 1 => some (.r { d := .g, a := .g, b := .g } fun f => .sub (gr f.d) (gr f.a) (gr f.b))
  | 2 => some (.r { d := .g, a := .g, b := .g } fun f => .iand (gr f.d) (gr f.a) (gr f.b))
  | 3 => some (.r { d := .g, a := .g, b := .g } fun f => .ior (gr f.d) (gr f.a) (gr f.b))
  | 4 => some (.r { d := .g, a := .g, b := .g } fun f => .ixor (gr f.d) (gr f.a) (gr f.b))
  | 5 => some (.r { d := .g, a := .g, b := .g } fun f => .shl (gr f.d) (gr f.a) (gr f.b))
  | 6 => some (.r { d := .g, a := .g, b := .g } fun f => .shr (gr f.d) (gr f.a) (gr f.b))
  | 7 => some (.r { d := .g, a := .g, b := .g } fun f => .sra (gr f.d) (gr f.a) (gr f.b))
  | 8 => some (.r { d := .g, a := .g, b := .g } fun f => .rol (gr f.d) (gr f.a) (gr f.b))
  | 9 => some (.r { d := .g, a := .g, b := .g } fun f => .min (gr f.d) (gr f.a) (gr f.b))
  | 10 => some (.r { d := .g, a := .g, b := .g } fun f => .max (gr f.d) (gr f.a) (gr f.b))
  | 11 => some (.r { d := .g, a := .g, b := .g } fun f => .minn (gr f.d) (gr f.a) (gr f.b))
  | 12 => some (.r { d := .g, a := .g, b := .g } fun f => .maxn (gr f.d) (gr f.a) (gr f.b))
  | 13 => some (.r { d := .g, a := .g, b := .g } fun f => .slt (gr f.d) (gr f.a) (gr f.b))
  | 14 => some (.r { d := .g, a := .g, b := .g } fun f => .sltn (gr f.d) (gr f.a) (gr f.b))
  | 15 => some (.r { d := .g, a := .g, b := .g } fun f => .seq (gr f.d) (gr f.a) (gr f.b))
  | 16 => some (.r { d := .g, a := .g, b := .g } fun f => .sne (gr f.d) (gr f.a) (gr f.b))
  | 17 => some (.r { d := .g, a := .g, b := .g } fun f => .addw (gr f.d) (gr f.a) (gr f.b))
  | 18 => some (.r { d := .g, a := .g, b := .g } fun f => .subw (gr f.d) (gr f.a) (gr f.b))
  | 19 => some (.r { d := .g, a := .g, b := .g, c := .g } fun f => .sel (gr f.d) (gr f.a) (gr f.b) (gr f.c))
  | 20 => some (.r { d := .g, a := .g } fun f => .clz (gr f.d) (gr f.a))
  | 21 => some (.r { d := .g, a := .g } fun f => .ctz (gr f.d) (gr f.a))
  | 22 => some (.r { d := .g, a := .g } fun f => .popc (gr f.d) (gr f.a))
  | 23 => some (.r { d := .g, a := .g } fun f => .abs (gr f.d) (gr f.a))
  | 24 => some (.r { d := .g, a := .g, ty := fun t => decide (1 ≤ t ∧ t ≤ 3) } fun f => .sext (elemTy f.ty) (gr f.d) (gr f.a))
  | 25 => some (.r { d := .g, a := .g, ty := fun t => decide (5 ≤ t ∧ t ≤ 7) } fun f => .zext (elemTy f.ty) (gr f.d) (gr f.a))
  | _ => none

/-- Cell AluI, opcode 0x02 (R157). -/
def cellAluI (fn : Nat) : Option Form :=
  match fn with
  | 0 => some (.i { d := .g, a := .g, immBits := 20 } fun f => .addi (gr f.d) (gr f.a) (BitVec.ofNat 20 f.imm))
  | 2 => some (.i { d := .g, a := .g, immBits := 20 } fun f => .andi (gr f.d) (gr f.a) (BitVec.ofNat 20 f.imm))
  | 3 => some (.i { d := .g, a := .g, immBits := 20 } fun f => .ori (gr f.d) (gr f.a) (BitVec.ofNat 20 f.imm))
  | 4 => some (.i { d := .g, a := .g, immBits := 20 } fun f => .xori (gr f.d) (gr f.a) (BitVec.ofNat 20 f.imm))
  | 5 => some (.i { d := .g, a := .g, immBits := 6 } fun f => .shli (gr f.d) (gr f.a) (BitVec.ofNat 6 f.imm))
  | 6 => some (.i { d := .g, a := .g, immBits := 6 } fun f => .shri (gr f.d) (gr f.a) (BitVec.ofNat 6 f.imm))
  | 7 => some (.i { d := .g, a := .g, immBits := 6 } fun f => .srai (gr f.d) (gr f.a) (BitVec.ofNat 6 f.imm))
  | 8 => some (.i { d := .g, a := .g, immBits := 6 } fun f => .roli (gr f.d) (gr f.a) (BitVec.ofNat 6 f.imm))
  | 13 => some (.i { d := .g, a := .g, immBits := 20 } fun f => .slti (gr f.d) (gr f.a) (BitVec.ofNat 20 f.imm))
  | 32 => some (.i { d := .g, immBits := 20 } fun f => .li (gr f.d) (BitVec.ofNat 20 f.imm))
  | 33 => some (.i { d := .g, a := .g, immBits := 12, field := true } fun f => .bfx (gr f.d) (gr f.a) (BitVec.ofNat 6 f.imm) (BitVec.ofNat 6 (f.imm / 64)))
  | 34 => some (.i { d := .g, a := .g, immBits := 12, field := true } fun f => .bfi (gr f.d) (gr f.a) (BitVec.ofNat 6 f.imm) (BitVec.ofNat 6 (f.imm / 64)))
  | _ => none

/-- Cell Lil, opcode 0x03 (R157). -/
def cellLil (fn : Nat) : Option Form :=
  match fn with
  | 0 => some (.l { d := .g } fun f => .lil (gr f.d) (BitVec.ofNat 64 f.imm))
  | _ => none

/-- Cell Lpc, opcode 0x04 (R157). -/
def cellLpc (fn : Nat) : Option Form :=
  match fn with
  | 0 => some (.b { d := .g } fun f => .lpc (gr f.d) (BitVec.ofNat 32 f.disp))
  | _ => none

/-- Cell Mul, opcode 0x20 (R157). -/
def cellMul (fn : Nat) : Option Form :=
  match fn with
  | 0 => some (.r { d := .g, a := .g, b := .g } fun f => .mul (gr f.d) (gr f.a) (gr f.b))
  | 1 => some (.r { d := .g, a := .g, b := .g } fun f => .mulh (gr f.d) (gr f.a) (gr f.b))
  | 2 => some (.r { d := .g, a := .g, b := .g } fun f => .mulhn (gr f.d) (gr f.a) (gr f.b))
  | 3 => some (.r { d := .g, a := .g, b := .g } fun f => .mulw (gr f.d) (gr f.a) (gr f.b))
  | 4 => some (.r { d := .g, a := .g, b := .g, c := .g } fun f => .mad (gr f.d) (gr f.a) (gr f.b) (gr f.c))
  | _ => none

/-- Cell Div, opcode 0x21 (R157). -/
def cellDiv (fn : Nat) : Option Form :=
  match fn with
  | 0 => some (.r { d := .g, a := .g, b := .g } fun f => .div (gr f.d) (gr f.a) (gr f.b))
  | 1 => some (.r { d := .g, a := .g, b := .g } fun f => .divn (gr f.d) (gr f.a) (gr f.b))
  | 2 => some (.r { d := .g, a := .g, b := .g } fun f => .rem (gr f.d) (gr f.a) (gr f.b))
  | 3 => some (.r { d := .g, a := .g, b := .g } fun f => .remn (gr f.d) (gr f.a) (gr f.b))
  | _ => none

/-- Cell Fp, opcode 0x30 (R157). -/
def cellFp (fn : Nat) : Option Form :=
  match fn with
  | 0 => some (.r { d := .g, a := .g, b := .g } fun f => .fadd (gr f.d) (gr f.a) (gr f.b))
  | 1 => some (.r { d := .g, a := .g, b := .g } fun f => .fsub (gr f.d) (gr f.a) (gr f.b))
  | 2 => some (.r { d := .g, a := .g, b := .g } fun f => .fmul (gr f.d) (gr f.a) (gr f.b))
  | 3 => some (.r { d := .g, a := .g, b := .g, c := .g } fun f => .ffma (gr f.d) (gr f.a) (gr f.b) (gr f.c))
  | 4 => some (.r { d := .g, a := .g, b := .g } fun f => .fmin (gr f.d) (gr f.a) (gr f.b))
  | 5 => some (.r { d := .g, a := .g, b := .g } fun f => .fmax (gr f.d) (gr f.a) (gr f.b))
  | 6 => some (.r { d := .g, a := .g, b := .g } fun f => .feq (gr f.d) (gr f.a) (gr f.b))
  | 7 => some (.r { d := .g, a := .g, b := .g } fun f => .flt (gr f.d) (gr f.a) (gr f.b))
  | 8 => some (.r { d := .g, a := .g, b := .g } fun f => .fle (gr f.d) (gr f.a) (gr f.b))
  | 9 => some (.r { d := .g, a := .g, ty := isCvt } fun f => .fcvti (elemTy f.ty) (gr f.d) (gr f.a))
  | 10 => some (.r { d := .g, a := .g, ty := isCvt } fun f => .fcvtf (elemTy f.ty) (gr f.d) (gr f.a))
  | 11 => some (.r { d := .g, a := .g } fun f => .fclass (gr f.d) (gr f.a))
  | _ => none

/-- Cell Fdiv, opcode 0x31 (R157). -/
def cellFdiv (fn : Nat) : Option Form :=
  match fn with
  | 0 => some (.r { d := .g, a := .g, b := .g } fun f => .fdiv (gr f.d) (gr f.a) (gr f.b))
  | 1 => some (.r { d := .g, a := .g } fun f => .fsqrt (gr f.d) (gr f.a))
  | _ => none

/-- Cell Br, opcode 0x40 (R157). -/
def cellBr (fn : Nat) : Option Form :=
  match fn with
  | 0 => some (.b {} fun f => .br (BitVec.ofNat 32 f.disp))
  | 1 => some (.b { d := .g } fun f => .brl (gr f.d) (BitVec.ofNat 32 f.disp))
  | _ => none

/-- Cell Bcc, opcode 0x41 (R157). -/
def cellBcc (fn : Nat) : Option Form :=
  match fn with
  | 0 => some (.b { a := .g, b := .g } fun f => .beq (gr f.a) (gr f.b) (BitVec.ofNat 32 f.disp))
  | 1 => some (.b { a := .g, b := .g } fun f => .bne (gr f.a) (gr f.b) (BitVec.ofNat 32 f.disp))
  | 2 => some (.b { a := .g, b := .g } fun f => .blt (gr f.a) (gr f.b) (BitVec.ofNat 32 f.disp))
  | 3 => some (.b { a := .g, b := .g } fun f => .bge (gr f.a) (gr f.b) (BitVec.ofNat 32 f.disp))
  | 4 => some (.b { a := .g, b := .g } fun f => .bltn (gr f.a) (gr f.b) (BitVec.ofNat 32 f.disp))
  | 5 => some (.b { a := .g, b := .g } fun f => .bgen (gr f.a) (gr f.b) (BitVec.ofNat 32 f.disp))
  | _ => none

/-- Cell Jr, opcode 0x42 (R157). -/
def cellJr (fn : Nat) : Option Form :=
  match fn with
  | 0 => some (.r { a := .g } fun f => .jr (gr f.a))
  | 1 => some (.r { d := .g, a := .g } fun f => .jrl (gr f.d) (gr f.a))
  | _ => none

/-- Cell Loop, opcode 0x43 (R157). -/
def cellLoop (fn : Nat) : Option Form :=
  match fn with
  | 0 => some (.b { a := .g } fun f => .loop (gr f.a) (BitVec.ofNat 32 f.disp))
  | 1 => some (.b { cnt := true } fun f => .loopi (BitVec.ofNat 25 f.cnt) (BitVec.ofNat 32 f.disp))
  | _ => none

/-- Cell Misc, opcode 0x44 (R157). -/
def cellMisc (fn : Nat) : Option Form :=
  match fn with
  | 0 => some (.r {} fun _ => .nop)
  | 1 => some (.r {} fun _ => .yield)
  | 2 => some (.r {} fun _ => .tend)
  | _ => none

/-- Cell Ld, opcode 0x50 (R157). -/
def cellLd (fn : Nat) : Option Form :=
  match fn with
  | 0 => some (.m { d := .g, a := .g, fe := true, ord := ordAcq } fun f => .ldb (gr f.d) f.addr (BitVec.ofNat 12 f.off))
  | 1 => some (.m { d := .g, a := .g, fe := true, ord := ordAcq } fun f => .ldbn (gr f.d) f.addr (BitVec.ofNat 12 f.off))
  | 2 => some (.m { d := .g, a := .g, fe := true, ord := ordAcq } fun f => .ldh (gr f.d) f.addr (BitVec.ofNat 12 f.off))
  | 3 => some (.m { d := .g, a := .g, fe := true, ord := ordAcq } fun f => .ldhn (gr f.d) f.addr (BitVec.ofNat 12 f.off))
  | 4 => some (.m { d := .g, a := .g, fe := true, ord := ordAcq } fun f => .ldw (gr f.d) f.addr (BitVec.ofNat 12 f.off))
  | 5 => some (.m { d := .g, a := .g, fe := true, ord := ordAcq } fun f => .ldwn (gr f.d) f.addr (BitVec.ofNat 12 f.off))
  | 6 => some (.m { d := .g, a := .g, fe := true, ord := ordAcq } fun f => .ldd (gr f.d) f.addr (BitVec.ofNat 12 f.off))
  | 7 => some (.m { d := .pair, a := .g, fe := true, ord := ordAcq } fun f => .ldg (gr f.d) f.addr (BitVec.ofNat 12 f.off))
  | 8 => some (.m { d := .v, a := .g, fe := true, ord := ordAcq } fun f => .ldv (vr f.d) f.addr (BitVec.ofNat 12 f.off))
  | _ => none

/-- Cell Ld96, opcode 0x51 (R157). -/
def cellLd96 (fn : Nat) : Option Form :=
  match fn with
  | 0 => some (.m { d := .g, a := .g, fe := true, ord := ordAcq } fun f => .ldbF96m (gr f.d) f.addr (BitVec.ofNat 40 f.off))
  | 1 => some (.m { d := .g, a := .g, fe := true, ord := ordAcq } fun f => .ldbnF96m (gr f.d) f.addr (BitVec.ofNat 40 f.off))
  | 2 => some (.m { d := .g, a := .g, fe := true, ord := ordAcq } fun f => .ldhF96m (gr f.d) f.addr (BitVec.ofNat 40 f.off))
  | 3 => some (.m { d := .g, a := .g, fe := true, ord := ordAcq } fun f => .ldhnF96m (gr f.d) f.addr (BitVec.ofNat 40 f.off))
  | 4 => some (.m { d := .g, a := .g, fe := true, ord := ordAcq } fun f => .ldwF96m (gr f.d) f.addr (BitVec.ofNat 40 f.off))
  | 5 => some (.m { d := .g, a := .g, fe := true, ord := ordAcq } fun f => .ldwnF96m (gr f.d) f.addr (BitVec.ofNat 40 f.off))
  | 6 => some (.m { d := .g, a := .g, fe := true, ord := ordAcq } fun f => .lddF96m (gr f.d) f.addr (BitVec.ofNat 40 f.off))
  | 7 => some (.m { d := .pair, a := .g, fe := true, ord := ordAcq } fun f => .ldgF96m (gr f.d) f.addr (BitVec.ofNat 40 f.off))
  | 8 => some (.m { d := .v, a := .g, fe := true, ord := ordAcq } fun f => .ldvF96m (vr f.d) f.addr (BitVec.ofNat 40 f.off))
  | _ => none

/-- Cell St, opcode 0x52 (R157). -/
def cellSt (fn : Nat) : Option Form :=
  match fn with
  | 0 => some (.m { d := .g, a := .g, fe := true, ord := ordRel } fun f => .stb (gr f.d) f.addr (BitVec.ofNat 12 f.off))
  | 1 => some (.m { d := .g, a := .g, fe := true, ord := ordRel } fun f => .sth (gr f.d) f.addr (BitVec.ofNat 12 f.off))
  | 2 => some (.m { d := .g, a := .g, fe := true, ord := ordRel } fun f => .stw (gr f.d) f.addr (BitVec.ofNat 12 f.off))
  | 3 => some (.m { d := .g, a := .g, fe := true, ord := ordRel } fun f => .std (gr f.d) f.addr (BitVec.ofNat 12 f.off))
  | 4 => some (.m { d := .pair, a := .g, fe := true, ord := ordRel } fun f => .stg (gr f.d) f.addr (BitVec.ofNat 12 f.off))
  | 5 => some (.m { d := .v, a := .g, fe := true, ord := ordRel } fun f => .stv (vr f.d) f.addr (BitVec.ofNat 12 f.off))
  | _ => none

/-- Cell St96, opcode 0x53 (R157). -/
def cellSt96 (fn : Nat) : Option Form :=
  match fn with
  | 0 => some (.m { d := .g, a := .g, fe := true, ord := ordRel } fun f => .stbF96m (gr f.d) f.addr (BitVec.ofNat 40 f.off))
  | 1 => some (.m { d := .g, a := .g, fe := true, ord := ordRel } fun f => .sthF96m (gr f.d) f.addr (BitVec.ofNat 40 f.off))
  | 2 => some (.m { d := .g, a := .g, fe := true, ord := ordRel } fun f => .stwF96m (gr f.d) f.addr (BitVec.ofNat 40 f.off))
  | 3 => some (.m { d := .g, a := .g, fe := true, ord := ordRel } fun f => .stdF96m (gr f.d) f.addr (BitVec.ofNat 40 f.off))
  | 4 => some (.m { d := .pair, a := .g, fe := true, ord := ordRel } fun f => .stgF96m (gr f.d) f.addr (BitVec.ofNat 40 f.off))
  | 5 => some (.m { d := .v, a := .g, fe := true, ord := ordRel } fun f => .stvF96m (vr f.d) f.addr (BitVec.ofNat 40 f.off))
  | _ => none

/-- Cell Amo, opcode 0x54 (R157). -/
def cellAmo (fn : Nat) : Option Form :=
  match fn with
  | 0 => some (.m { d := .g, a := .g, ord := ordAcq } fun f => .lr (gr f.d) f.addr (BitVec.ofNat 12 f.off))
  | 1 => some (.m { d := .g, a := .g, b := .g, ord := ordRel } fun f => .sc (gr f.d) (gr f.b) f.addr (BitVec.ofNat 12 f.off))
  | 2 => some (.m { d := .g, a := .g, b := .g, ord := ordAny, dd := true } fun f => .amoadd (gr f.d) (gr f.b) (decide (f.dd = 1)) f.addr (BitVec.ofNat 12 f.off))
  | 3 => some (.m { d := .g, a := .g, b := .g, ord := ordAny, dd := true } fun f => .amoand (gr f.d) (gr f.b) (decide (f.dd = 1)) f.addr (BitVec.ofNat 12 f.off))
  | 4 => some (.m { d := .g, a := .g, b := .g, ord := ordAny, dd := true } fun f => .amoor (gr f.d) (gr f.b) (decide (f.dd = 1)) f.addr (BitVec.ofNat 12 f.off))
  | 5 => some (.m { d := .g, a := .g, b := .g, ord := ordAny, dd := true } fun f => .amoxor (gr f.d) (gr f.b) (decide (f.dd = 1)) f.addr (BitVec.ofNat 12 f.off))
  | 6 => some (.m { d := .g, a := .g, b := .g, ord := ordAny, dd := true } fun f => .amomin (gr f.d) (gr f.b) (decide (f.dd = 1)) f.addr (BitVec.ofNat 12 f.off))
  | 7 => some (.m { d := .g, a := .g, b := .g, ord := ordAny, dd := true } fun f => .amomax (gr f.d) (gr f.b) (decide (f.dd = 1)) f.addr (BitVec.ofNat 12 f.off))
  | 8 => some (.m { d := .g, a := .g, b := .g, ord := ordAny, dd := true } fun f => .amominn (gr f.d) (gr f.b) (decide (f.dd = 1)) f.addr (BitVec.ofNat 12 f.off))
  | 9 => some (.m { d := .g, a := .g, b := .g, ord := ordAny, dd := true } fun f => .amomaxn (gr f.d) (gr f.b) (decide (f.dd = 1)) f.addr (BitVec.ofNat 12 f.off))
  | 10 => some (.m { d := .g, a := .g, b := .g, ord := ordAny, dd := true } fun f => .amoswp (gr f.d) (gr f.b) (decide (f.dd = 1)) f.addr (BitVec.ofNat 12 f.off))
  | 11 => some (.m { d := .g, a := .g, b := .g, ord := ordAny, dd := true } fun f => .amocas (gr f.d) (gr f.b) (decide (f.dd = 1)) f.addr (BitVec.ofNat 12 f.off))
  | 12 => some (.m { d := .g, a := .g, b := .g, ord := ordAny, dd := true } fun f => .amofadd (gr f.d) (gr f.b) (decide (f.dd = 1)) f.addr (BitVec.ofNat 12 f.off))
  | _ => none

/-- Cell Amo96, opcode 0x55 (R157). -/
def cellAmo96 (fn : Nat) : Option Form :=
  match fn with
  | 0 => some (.m { d := .g, a := .g, ord := ordAcq } fun f => .lrF96m (gr f.d) f.addr (BitVec.ofNat 40 f.off))
  | 1 => some (.m { d := .g, a := .g, b := .g, ord := ordRel } fun f => .scF96m (gr f.d) (gr f.b) f.addr (BitVec.ofNat 40 f.off))
  | 2 => some (.m { d := .g, a := .g, b := .g, ord := ordAny, dd := true } fun f => .amoaddF96m (gr f.d) (gr f.b) (decide (f.dd = 1)) f.addr (BitVec.ofNat 40 f.off))
  | 3 => some (.m { d := .g, a := .g, b := .g, ord := ordAny, dd := true } fun f => .amoandF96m (gr f.d) (gr f.b) (decide (f.dd = 1)) f.addr (BitVec.ofNat 40 f.off))
  | 4 => some (.m { d := .g, a := .g, b := .g, ord := ordAny, dd := true } fun f => .amoorF96m (gr f.d) (gr f.b) (decide (f.dd = 1)) f.addr (BitVec.ofNat 40 f.off))
  | 5 => some (.m { d := .g, a := .g, b := .g, ord := ordAny, dd := true } fun f => .amoxorF96m (gr f.d) (gr f.b) (decide (f.dd = 1)) f.addr (BitVec.ofNat 40 f.off))
  | 6 => some (.m { d := .g, a := .g, b := .g, ord := ordAny, dd := true } fun f => .amominF96m (gr f.d) (gr f.b) (decide (f.dd = 1)) f.addr (BitVec.ofNat 40 f.off))
  | 7 => some (.m { d := .g, a := .g, b := .g, ord := ordAny, dd := true } fun f => .amomaxF96m (gr f.d) (gr f.b) (decide (f.dd = 1)) f.addr (BitVec.ofNat 40 f.off))
  | 8 => some (.m { d := .g, a := .g, b := .g, ord := ordAny, dd := true } fun f => .amominnF96m (gr f.d) (gr f.b) (decide (f.dd = 1)) f.addr (BitVec.ofNat 40 f.off))
  | 9 => some (.m { d := .g, a := .g, b := .g, ord := ordAny, dd := true } fun f => .amomaxnF96m (gr f.d) (gr f.b) (decide (f.dd = 1)) f.addr (BitVec.ofNat 40 f.off))
  | 10 => some (.m { d := .g, a := .g, b := .g, ord := ordAny, dd := true } fun f => .amoswpF96m (gr f.d) (gr f.b) (decide (f.dd = 1)) f.addr (BitVec.ofNat 40 f.off))
  | 11 => some (.m { d := .g, a := .g, b := .g, ord := ordAny, dd := true } fun f => .amocasF96m (gr f.d) (gr f.b) (decide (f.dd = 1)) f.addr (BitVec.ofNat 40 f.off))
  | 12 => some (.m { d := .g, a := .g, b := .g, ord := ordAny, dd := true } fun f => .amofaddF96m (gr f.d) (gr f.b) (decide (f.dd = 1)) f.addr (BitVec.ofNat 40 f.off))
  | _ => none

/-- Cell Rnd, opcode 0x56 (R157). -/
def cellRnd (fn : Nat) : Option Form :=
  match fn with
  | 0 => some (.r {} fun _ => .rndclose)
  | _ => none

/-- Cell Ord, opcode 0x57 (R157). -/
def cellOrd (fn : Nat) : Option Form :=
  match fn with
  | 0 => some (.r { q := fun q => decide (q ≤ 6) } fun f => .fence (fenceScope f.q))
  | 1 => some (.r {} fun _ => .waitrs)
  | 2 => some (.r { q := fun q => q != 0 } fun f => .waitc (BitVec.ofNat 3 f.q))
  | _ => none

/-- Cell Mbx, opcode 0x68 (R157). -/
def cellMbx (fn : Nat) : Option Form :=
  match fn with
  | 0 => some (.i { immBits := 16, aux := fun _ => true } fun f => .mbinc (BitVec.ofNat 8 f.aux) (BitVec.ofNat 16 f.imm))
  | 1 => some (.i { a := .g, immBits := 16, aux := fun _ => true } fun f => .mbincRemote (BitVec.ofNat 8 f.aux) (BitVec.ofNat 16 f.imm) (gr f.a))
  | 2 => some (.i { immBits := 16, aux := fun _ => true } fun f => .mbwait (BitVec.ofNat 8 f.aux) (BitVec.ofNat 16 f.imm))
  | 3 => some (.i { d := .g, aux := fun _ => true } fun f => .mbrd (gr f.d) (BitVec.ofNat 8 f.aux))
  | 4 => some (.i { immBits := 16, aux := fun _ => true } fun f => .mbset (BitVec.ofNat 8 f.aux) (BitVec.ofNat 16 f.imm))
  | _ => none

/-- Cell Chn, opcode 0x69 (R157). -/
def cellChn (fn : Nat) : Option Form :=
  match fn with
  | 0 => some (.r { d := .pair, a := .g } fun f => .chsend (gr f.d) (gr f.a))
  | 1 => some (.r { d := .pair, a := .g } fun f => .chrecv (gr f.d) (gr f.a))
  | 2 => some (.r { d := .pair, a := .g } fun f => .sendn (gr f.d) (gr f.a))
  | 3 => some (.r { d := .pair, a := .g, b := .g } fun f => .recvn (gr f.d) (gr f.a) (gr f.b))
  | _ => none

/-- Cell Sq, opcode 0x6A (R157). -/
def cellSq (fn : Nat) : Option Form :=
  match fn with
  | 0 => some (.r { a := .h, b := .g } fun f => .sqjoin (hr f.a) (gr f.b))
  | 1 => some (.r { a := .h } fun f => .sqleave (hr f.a))
  | 2 => some (.r { d := .g, a := .h } fun f => .sqclose (gr f.d) (hr f.a))
  | 3 => some (.r { a := .h } fun f => .sqbar (hr f.a))
  | 4 => some (.r { d := .g, a := .h } fun f => .sqarrive (gr f.d) (hr f.a))
  | 5 => some (.r { a := .h } fun f => .sqwait (hr f.a))
  | 6 => some (.r { d := .g, a := .h, b := .g, q := fun q => decide (q ≤ 2) } fun f => .sqvote (voteOp f.q) (gr f.d) (hr f.a) (gr f.b))
  | 7 => some (.r { d := .g, a := .h, b := .g, ty := isSq, q := isSix, red := true } fun f => .sqred (redOp f.q) (elemTy f.ty) (gr f.d) (hr f.a) (gr f.b))
  | 8 => some (.r { d := .g, a := .h, b := .g, ty := isSq, q := isSix, red := true } fun f => .sqscan (redOp f.q) (elemTy f.ty) (gr f.d) (hr f.a) (gr f.b))
  | 9 => some (.r { d := .g, a := .h, q := fun q => decide (q ≤ 1) } fun f => .sqinfo (decide (f.q = 1)) (gr f.d) (hr f.a))
  | _ => none

/-- Cell Sqop, opcode 0x6B (R157). -/
def cellSqop (fn : Nat) : Option Form :=
  match fn with
  | 0 => some (.i { d := .h, a := .g, b := .g, immBits := 20, imm := fun n x => !(n == 0 && x / 2 % 16 == 0), aux := fun x => decide (x < 32) } fun f => .sqopen (decide (f.aux % 2 = 1)) (hr f.d) (gr f.a) (BitVec.ofNat 24 (f.imm + 2 ^ 20 * (f.aux / 2))) (gr f.b))
  | _ => none

/-- Cell Spl, opcode 0x6C (R157). -/
def cellSpl (fn : Nat) : Option Form :=
  match fn with
  | 0 => some (.r {} fun _ => .sealpt)
  | 1 => some (.r {} fun _ => .seal)
  | 2 => some (.r { d := .g } fun f => .splitrd (gr f.d))
  | _ => none

/-- Cell Var, opcode 0x78 (R157). -/
def cellVar (fn : Nat) : Option Form :=
  match fn with
  | 0 => some (.r { d := .v, a := .v, b := .v, ty := isIF, mask := true } fun f => .vadd (elemTy f.ty) (vr f.d) (vr f.a) (vr f.b) (maskOf f.msk f.km))
  | 1 => some (.r { d := .v, a := .v, b := .v, ty := isIF, mask := true } fun f => .vsub (elemTy f.ty) (vr f.d) (vr f.a) (vr f.b) (maskOf f.msk f.km))
  | 2 => some (.r { d := .v, a := .v, b := .v, ty := isIF, mask := true } fun f => .vmul (elemTy f.ty) (vr f.d) (vr f.a) (vr f.b) (maskOf f.msk f.km))
  | 3 => some (.r { d := .v, a := .v, b := .v, c := .v, ty := isIF, mask := true } fun f => .vfma (elemTy f.ty) (vr f.d) (vr f.a) (vr f.b) (vr f.c) (maskOf f.msk f.km))
  | 4 => some (.r { d := .v, a := .v, b := .v, ty := isIF, mask := true } fun f => .vmin (elemTy f.ty) (vr f.d) (vr f.a) (vr f.b) (maskOf f.msk f.km))
  | 5 => some (.r { d := .v, a := .v, b := .v, ty := isIF, mask := true } fun f => .vmax (elemTy f.ty) (vr f.d) (vr f.a) (vr f.b) (maskOf f.msk f.km))
  | 6 => some (.r { d := .v, a := .v, ty := isIF, mask := true } fun f => .vabs (elemTy f.ty) (vr f.d) (vr f.a) (maskOf f.msk f.km))
  | 7 => some (.r { d := .v, a := .v, ty := isIF, mask := true } fun f => .vneg (elemTy f.ty) (vr f.d) (vr f.a) (maskOf f.msk f.km))
  | 8 => some (.r { d := .v, a := .v, b := .v, ty := isIF, mask := true } fun f => .vand (elemTy f.ty) (vr f.d) (vr f.a) (vr f.b) (maskOf f.msk f.km))
  | 9 => some (.r { d := .v, a := .v, b := .v, ty := isIF, mask := true } fun f => .vor (elemTy f.ty) (vr f.d) (vr f.a) (vr f.b) (maskOf f.msk f.km))
  | 10 => some (.r { d := .v, a := .v, b := .v, ty := isIF, mask := true } fun f => .vxor (elemTy f.ty) (vr f.d) (vr f.a) (vr f.b) (maskOf f.msk f.km))
  | 11 => some (.r { d := .v, a := .v, b := .v, ty := isI, mask := true } fun f => .vshl (elemTy f.ty) (vr f.d) (vr f.a) (vr f.b) (maskOf f.msk f.km))
  | 12 => some (.r { d := .v, a := .v, b := .v, ty := isI, mask := true } fun f => .vshr (elemTy f.ty) (vr f.d) (vr f.a) (vr f.b) (maskOf f.msk f.km))
  | 13 => some (.r { d := .v, a := .v, b := .v, ty := isI, mask := true } fun f => .vsra (elemTy f.ty) (vr f.d) (vr f.a) (vr f.b) (maskOf f.msk f.km))
  | 14 => some (.r { d := .k, a := .v, b := .v, ty := isIF, q := isSix, mask := true } fun f => .vcmp (cmpCond f.q) (elemTy f.ty) (kr f.d) (vr f.a) (vr f.b) (maskOf f.msk f.km))
  | 15 => some (.r { d := .v, a := .v, b := .v, c := .k, ty := isIF } fun f => .vsel (elemTy f.ty) (vr f.d) (vr f.a) (vr f.b) (kr f.c))
  | _ => none

/-- Cell Vprm, opcode 0x79 (R157). -/
def cellVprm (fn : Nat) : Option Form :=
  match fn with
  | 0 => some (.r { d := .v, a := .g, ty := isIF, mask := true } fun f => .vbcast (elemTy f.ty) (vr f.d) (gr f.a) (maskOf f.msk f.km))
  | 1 => some (.r { d := .g, a := .v, b := .g, ty := isIF } fun f => .vext (elemTy f.ty) (gr f.d) (vr f.a) (gr f.b))
  | 2 => some (.r { d := .v, a := .g, b := .g, ty := isIF } fun f => .vins (elemTy f.ty) (vr f.d) (gr f.a) (gr f.b))
  | 3 => some (.r { d := .v, a := .v, b := .v, ty := isIF, mask := true } fun f => .vshuf (elemTy f.ty) (vr f.d) (vr f.a) (vr f.b) (maskOf f.msk f.km))
  | 4 => some (.r { d := .g, a := .v, ty := isIF, q := isSix, mask := true, red := true } fun f => .vred (redOp f.q) (elemTy f.ty) (gr f.d) (vr f.a) (maskOf f.msk f.km))
  | 5 => some (.r { d := .v, a := .v, ty := isIF, q := isSix, mask := true, red := true } fun f => .vscan (redOp f.q) (elemTy f.ty) (vr f.d) (vr f.a) (maskOf f.msk f.km))
  | 6 => some (.r { d := .v, a := .v, ty := isIF, mask := true } fun f => .vcmprs (elemTy f.ty) (vr f.d) (vr f.a) (maskOf f.msk f.km))
  | _ => none

/-- Cell Vfn, opcode 0x7A (R157). -/
def cellVfn (fn : Nat) : Option Form :=
  match fn with
  | 0 => some (.r { d := .v, a := .v, ty := isF, mask := true } fun f => .vrcp (elemTy f.ty) (vr f.d) (vr f.a) (maskOf f.msk f.km))
  | 1 => some (.r { d := .v, a := .v, ty := isF, mask := true } fun f => .vrsq (elemTy f.ty) (vr f.d) (vr f.a) (maskOf f.msk f.km))
  | 2 => some (.r { d := .v, a := .v, ty := isF, mask := true } fun f => .vex2 (elemTy f.ty) (vr f.d) (vr f.a) (maskOf f.msk f.km))
  | 3 => some (.r { d := .v, a := .v, ty := isF, mask := true } fun f => .vlg2 (elemTy f.ty) (vr f.d) (vr f.a) (maskOf f.msk f.km))
  | _ => none

/-- Cell Vgs, opcode 0x7B (R157). -/
def cellVgs (fn : Nat) : Option Form :=
  match fn with
  | 0 => some (.m { d := .v, a := .g, b := .v, ord := ordAcq } fun f => .vldx (vr f.d) (vr f.b) f.addr (BitVec.ofNat 12 f.off))
  | 1 => some (.m { d := .v, a := .g, b := .v, ord := ordRel } fun f => .vstx (vr f.d) (vr f.b) f.addr (BitVec.ofNat 12 f.off))
  | _ => none

/-- Cell Msk, opcode 0x7C (R157). -/
def cellMsk (fn : Nat) : Option Form :=
  match fn with
  | 0 => some (.r { d := .k, a := .k, b := .k } fun f => .kand (kr f.d) (kr f.a) (kr f.b))
  | 1 => some (.r { d := .k, a := .k, b := .k } fun f => .kor (kr f.d) (kr f.a) (kr f.b))
  | 2 => some (.r { d := .k, a := .k, b := .k } fun f => .kxor (kr f.d) (kr f.a) (kr f.b))
  | 3 => some (.r { d := .k, a := .k } fun f => .knot (kr f.d) (kr f.a))
  | 4 => some (.r { byQ := true, q := fun q => decide (q ≤ 2) } fun f => .kmov (match f.q with
      | 0 => .kg (kr f.d) (gr f.a)
      | 1 => .gk (gr f.d) (kr f.a)
      | _ => .kk (kr f.d) (kr f.a)))
  | 5 => some (.r { d := .g, a := .k } fun f => .kpop (gr f.d) (kr f.a))
  | 6 => some (.r { d := .k, a := .g } fun f => .kset (kr f.d) (gr f.a))
  | _ => none

/-- Cell Cvt, opcode 0x98 (R157). -/
def cellCvt (fn : Nat) : Option Form :=
  match fn with
  | 0 => some (.r { d := .v, a := .v, ty := isIF, mask := true, ty2 := isIF } fun f => .vcvt (elemTy f.ty) (elemTy f.ty2) (vr f.d) (vr f.a) (maskOf f.msk f.km))
  | 1 => some (.r { d := .v, a := .v, b := .g, ty := isLog, mask := true } fun f => .vlog (elemTy f.ty) (vr f.d) (vr f.a) (gr f.b) (maskOf f.msk f.km))
  | 2 => some (.r { d := .v, a := .v, b := .g, ty := isLog, mask := true } fun f => .vexp (elemTy f.ty) (vr f.d) (vr f.a) (gr f.b) (maskOf f.msk f.km))
  | _ => none

/-- Cell Veng, opcode 0xA0 (R157). -/
def cellVeng (fn : Nat) : Option Form :=
  match fn with
  | 0 => some (.e { tb := mapUsesB, mode := modeMap } fun f => .vemap (mapOp (f.mode / 128)) (ti f.td) (ti f.ta) (ti f.tb) f.waitSig)
  | 1 => some (.e { mode := modeRed } fun f => .vered (redOp (f.mode / 128)) (ti f.td) (ti f.ta) f.waitSig)
  | 2 => some (.e { mode := modeRed } fun f => .vescan (redOp (f.mode / 128)) (ti f.td) (ti f.ta) f.waitSig)
  | 3 => some (.e {} fun f => .vecvt (ti f.td) (ti f.ta) f.waitSig)
  | _ => none

/-- Cell Ttab, opcode 0xB0 (R157). -/
def cellTtab (fn : Nat) : Option Form :=
  match fn with
  | 0 => some (.i { a := .g, immBits := 20, aux := fun x => decide (x < 64) } fun f => .tdef (ti f.aux) (gr f.a) (BitVec.ofNat 20 f.imm))
  | 1 => some (.i { d := .g, immBits := 2, aux := fun x => decide (x < 64) } fun f => .trd (gr f.d) (ti f.aux) (Fin.ofNat 4 f.imm))
  | 2 => some (.i { a := .g, immBits := 4, imm := fun n _ => decide (n % 16 < 8), aux := fun x => decide (x < 64) } fun f => .tset (tField f.imm) (ti f.aux) (gr f.a))
  | _ => none

/-- Cell Clm, opcode 0xB1 (R157). -/
def cellClm (fn : Nat) : Option Form :=
  match fn with
  | 0 => some (.i { d := .g, a := .g, immBits := 7, aux := fun x => decide (x < 128) } fun f => .pclaim (gr f.d) (gr f.a) (BitVec.ofNat 7 f.imm) (BitVec.ofNat 7 f.aux))
  | 1 => some (.i { a := .g, immBits := 7, aux := fun x => decide (x < 128) } fun f => .prel (gr f.a) (BitVec.ofNat 7 f.imm) (BitVec.ofNat 7 f.aux))
  | 2 => some (.i { d := .g, a := .g, immBits := 7, aux := fun x => decide (x < 128) } fun f => .qclaim (gr f.d) (gr f.a) (BitVec.ofNat 7 f.imm) (BitVec.ofNat 7 f.aux))
  | 3 => some (.i { a := .g, immBits := 7, aux := fun x => decide (x < 128) } fun f => .qrel (gr f.a) (BitVec.ofNat 7 f.imm) (BitVec.ofNat 7 f.aux))
  | _ => none

/-- Cell Mma, opcode 0xB2 (R157). -/
def cellMma (fn : Nat) : Option Form :=
  match fn with
  | 0 => some (.e { tb := fun _ => true, mode := modeMma } fun f => .mma (mmaShape (f.mode / 512)) (decide (f.mode / 256 % 2 = 1)) (ti f.td) (ti f.ta) (ti f.tb) f.waitSig)
  | 1 => some (.e { a := .g, tb := fun _ => true, mode := modeMma, groups := true } fun f => .mmag (mmaShape (f.mode / 512)) (decide (f.mode / 256 % 2 = 1)) (ti f.td) (ti f.ta) (ti f.tb) (gr f.a) f.waitSig)
  | 2 => some (.e { ta := false } fun f => .qzero (ti f.td) f.waitSig)
  | _ => none

/-- Cell Pld, opcode 0xB3 (R157). -/
def cellPld (fn : Nat) : Option Form :=
  match fn with
  | 0 => some (.e { mode := fun m => m % 1024 == 0 } fun f => .pload (decide (f.mode / 1024 = 1)) (ti f.td) (ti f.ta) f.waitSig)
  | _ => none

/-- Cell Qmv, opcode 0xB4 (R157). -/
def cellQmv (fn : Nat) : Option Form :=
  match fn with
  | 0 => some (.e {} fun f => .qld (ti f.td) (ti f.ta) f.waitSig)
  | 1 => some (.e {} fun f => .qst (ti f.td) (ti f.ta) f.waitSig)
  | 2 => some (.e {} fun f => .qstl (ti f.td) (ti f.ta) f.waitSig)
  | 3 => some (.e { mode := fun m => m % 512 == 0 } fun f => .qcvt (qcvtOp (f.mode / 512)) (ti f.td) (ti f.ta) f.waitSig)
  | _ => none

/-- Cell Cpy, opcode 0xC0 (R157). -/
def cellCpy (fn : Nat) : Option Form :=
  match fn with
  | 0 => some (.e {} fun f => .cpy (ti f.td) (ti f.ta) f.waitSig)
  | 1 => some (.e { a := .g, mode := fun m => m % 512 == 0 } fun f => .cpyx (decide (f.mode / 1024 = 1)) (decide (f.mode / 512 % 2 = 1)) (ti f.td) (ti f.ta) (gr f.a) f.waitSig)
  | _ => none

/-- Cell Bat, opcode 0xC1 (R157). -/
def cellBat (fn : Nat) : Option Form :=
  match fn with
  | 0 => some (.i { d := .g, aux := isSix } fun f => .bclose (fenceScope f.aux) (gr f.d))
  | 1 => some (.i { immBits := 4 } fun f => .bwaitRel (BitVec.ofNat 4 f.imm))
  | 2 => some (.i { immBits := 4 } fun f => .bwaitLand (BitVec.ofNat 4 f.imm))
  | 3 => some (.i { d := .g, immBits := 20 } fun f => .cstage (gr f.d) (BitVec.ofNat 20 f.imm))
  | 4 => some (.i { immBits := 4, imm := fun n _ => n % 16 != 0 } fun f => .ewait (BitVec.ofNat 4 f.imm))
  | _ => none

/-- Cell Coll, opcode 0xC2 (R157). -/
def cellColl (fn : Nat) : Option Form :=
  match fn with
  | 0 => some (.e { a := .h, b := .g, mode := modeColl } fun f => .creduce (redOp (f.mode / 256)) (hr f.a) (gr f.b) (ti f.td) (ti f.ta) f.waitSig)
  | 1 => some (.e { a := .h, b := .g } fun f => .cbcast (hr f.a) (gr f.b) (ti f.td) (ti f.ta) f.waitSig)
  | 2 => some (.e { a := .h, mode := modeColl } fun f => .callred (redOp (f.mode / 256)) (hr f.a) (ti f.td) (ti f.ta) f.waitSig)
  | 3 => some (.e { a := .h } fun f => .cgather (hr f.a) (ti f.td) (ti f.ta) f.waitSig)
  | _ => none

/-- Cell Csr, opcode 0xD0 (R157). -/
def cellCsr (fn : Nat) : Option Form :=
  match fn with
  | 0 => some (.i { d := .g, aux := isCsr } fun f => .csrrd (gr f.d) (csrOf f.aux))
  | 1 => some (.i { d := .g, a := .g, aux := isCsr } fun f => .csrwr (gr f.d) (csrOf f.aux) (gr f.a))
  | 2 => some (.i { d := .g, a := .g, aux := isCsr } fun f => .csrset (gr f.d) (csrOf f.aux) (gr f.a))
  | 3 => some (.i { d := .g, a := .g, aux := isCsr } fun f => .csrclr (gr f.d) (csrOf f.aux) (gr f.a))
  | _ => none

/-- Cell Trp, opcode 0xD1 (R157). -/
def cellTrp (fn : Nat) : Option Form :=
  match fn with
  | 0 => some (.i { immBits := 20 } fun f => .trap (BitVec.ofNat 20 f.imm))
  | 1 => some (.i { immBits := 20 } fun f => .brk (BitVec.ofNat 20 f.imm))
  | 2 => some (.i {} fun _ => .halt)
  | 3 => some (.i {} fun _ => .rte)
  | _ => none

/-- Cell Sys, opcode 0xD2 (R157). -/
def cellSys (fn : Nat) : Option Form :=
  match fn with
  | 0 => some (.r { d := .s, a := .g, b := .g } fun f => .segld (sr f.d) (gr f.a) (gr f.b))
  | 1 => some (.r { d := .g, a := .s, q := fun q => decide (q ≤ 1) } fun f => .segrd (gr f.d) (sr f.a) (decide (f.q = 1)))
  | 2 => some (.r { d := .g } fun f => .idrd (gr f.d))
  | 3 => some (.r { a := .g } fun f => .ctxsave (gr f.a))
  | 4 => some (.r { a := .g } fun f => .ctxload (gr f.a))
  | _ => none

/-- The row of a major opcode and a function value (R157); the .D bit of an atomic is not part of the value. -/
def rowOf (op fn : Nat) : Option Form :=
  match op with
  | 0x01 => cellAluR fn
  | 0x02 => cellAluI fn
  | 0x03 => cellLil fn
  | 0x04 => cellLpc fn
  | 0x20 => cellMul fn
  | 0x21 => cellDiv fn
  | 0x30 => cellFp fn
  | 0x31 => cellFdiv fn
  | 0x40 => cellBr fn
  | 0x41 => cellBcc fn
  | 0x42 => cellJr fn
  | 0x43 => cellLoop fn
  | 0x44 => cellMisc fn
  | 0x50 => cellLd fn
  | 0x51 => cellLd96 fn
  | 0x52 => cellSt fn
  | 0x53 => cellSt96 fn
  | 0x54 => cellAmo (fn % 64)
  | 0x55 => cellAmo96 (fn % 64)
  | 0x56 => cellRnd fn
  | 0x57 => cellOrd fn
  | 0x68 => cellMbx fn
  | 0x69 => cellChn fn
  | 0x6A => cellSq fn
  | 0x6B => cellSqop fn
  | 0x6C => cellSpl fn
  | 0x78 => cellVar fn
  | 0x79 => cellVprm fn
  | 0x7A => cellVfn fn
  | 0x7B => cellVgs fn
  | 0x7C => cellMsk fn
  | 0x98 => cellCvt fn
  | 0xA0 => cellVeng fn
  | 0xB0 => cellTtab fn
  | 0xB1 => cellClm fn
  | 0xB2 => cellMma fn
  | 0xB3 => cellPld fn
  | 0xB4 => cellQmv fn
  | 0xC0 => cellCpy fn
  | 0xC1 => cellBat fn
  | 0xC2 => cellColl fn
  | 0xD0 => cellCsr fn
  | 0xD1 => cellTrp fn
  | 0xD2 => cellSys fn
  | _ => none

/-! ### Decoding -/

/-- The first continuation word, from word `i` on, that lacks the 0b100 marker (R141). -/
def badMarker (w : Nat → Nat) : Nat → Nat → Option Nat
  | _, 0 => none
  | i, n + 1 => if w i % 8 = 4 then badMarker w (i + 1) n else some i

/-- Decode the words from an instruction start to the end of its 32-byte block: the instruction and its number of words, or
the reason, tested in the order 9, 1, 8, 7, 6, 2 and then by position (R371). -/
def decode (ws : List Nat) : Except Illegal (Instr × Nat) :=
  let w (i : Nat) : Nat := ws.getD i 0
  let op := bits (w 0) 2 8
  if w 0 % 4 = 0 then .error ⟨9, 0, 0⟩
  else match formatOf op with
    | none => .error ⟨1, 0, 2⟩
    | some fmt =>
      if w 0 % 4 + 1 ≠ fmt.words then .error ⟨8, 0, 0⟩
      else if ws.length < fmt.words then .error ⟨7, ws.length, 0⟩
      else match badMarker w 1 (fmt.words - 1) with
        | some i => .error ⟨6, i, 0⟩
        | none => match rowOf op (bits (w 0) 25 7) with
          | none => .error ⟨2, 0, 25⟩
          | some form => match form.read fmt w with
            | .error e => .error e
            | .ok i => .ok (i, fmt.words)

/-! ### Encoding -/

/-- An instruction's format fields with its major opcode and function value; none for an event. -/
inductive Fields where
  | r (op fn : Nat) (f : FR)
  | i (op fn : Nat) (f : FI)
  | m (op fn : Nat) (f : FM)
  | b (op fn : Nat) (f : FB)
  | l (op fn : Nat) (f : FL)
  | e (op fn : Nat) (f : FE)
  | none

/-- The fields of an instruction (R157 and each entry). -/
def Instr.fields : Instr → Fields
  | .add d a b => .r 0x01 0 { d := d.val, a := a.val, b := b.val }
  | .sub d a b => .r 0x01 1 { d := d.val, a := a.val, b := b.val }
  | .iand d a b => .r 0x01 2 { d := d.val, a := a.val, b := b.val }
  | .ior d a b => .r 0x01 3 { d := d.val, a := a.val, b := b.val }
  | .ixor d a b => .r 0x01 4 { d := d.val, a := a.val, b := b.val }
  | .shl d a b => .r 0x01 5 { d := d.val, a := a.val, b := b.val }
  | .shr d a b => .r 0x01 6 { d := d.val, a := a.val, b := b.val }
  | .sra d a b => .r 0x01 7 { d := d.val, a := a.val, b := b.val }
  | .rol d a b => .r 0x01 8 { d := d.val, a := a.val, b := b.val }
  | .min d a b => .r 0x01 9 { d := d.val, a := a.val, b := b.val }
  | .max d a b => .r 0x01 10 { d := d.val, a := a.val, b := b.val }
  | .minn d a b => .r 0x01 11 { d := d.val, a := a.val, b := b.val }
  | .maxn d a b => .r 0x01 12 { d := d.val, a := a.val, b := b.val }
  | .slt d a b => .r 0x01 13 { d := d.val, a := a.val, b := b.val }
  | .sltn d a b => .r 0x01 14 { d := d.val, a := a.val, b := b.val }
  | .seq d a b => .r 0x01 15 { d := d.val, a := a.val, b := b.val }
  | .sne d a b => .r 0x01 16 { d := d.val, a := a.val, b := b.val }
  | .addw d a b => .r 0x01 17 { d := d.val, a := a.val, b := b.val }
  | .subw d a b => .r 0x01 18 { d := d.val, a := a.val, b := b.val }
  | .sel d a b c => .r 0x01 19 { d := d.val, a := a.val, b := b.val, c := c.val }
  | .clz d a => .r 0x01 20 { d := d.val, a := a.val }
  | .ctz d a => .r 0x01 21 { d := d.val, a := a.val }
  | .popc d a => .r 0x01 22 { d := d.val, a := a.val }
  | .abs d a => .r 0x01 23 { d := d.val, a := a.val }
  | .sext ty d a => .r 0x01 24 { ty := ty.code, d := d.val, a := a.val }
  | .zext ty d a => .r 0x01 25 { ty := ty.code, d := d.val, a := a.val }
  | .addi d a imm => .i 0x02 0 { d := d.val, a := a.val, imm := imm.toNat }
  | .andi d a imm => .i 0x02 2 { d := d.val, a := a.val, imm := imm.toNat }
  | .ori d a imm => .i 0x02 3 { d := d.val, a := a.val, imm := imm.toNat }
  | .xori d a imm => .i 0x02 4 { d := d.val, a := a.val, imm := imm.toNat }
  | .shli d a sh => .i 0x02 5 { d := d.val, a := a.val, imm := sh.toNat }
  | .shri d a sh => .i 0x02 6 { d := d.val, a := a.val, imm := sh.toNat }
  | .srai d a sh => .i 0x02 7 { d := d.val, a := a.val, imm := sh.toNat }
  | .roli d a sh => .i 0x02 8 { d := d.val, a := a.val, imm := sh.toNat }
  | .slti d a imm => .i 0x02 13 { d := d.val, a := a.val, imm := imm.toNat }
  | .li d imm => .i 0x02 32 { d := d.val, imm := imm.toNat }
  | .bfx d a p w => .i 0x02 33 { d := d.val, a := a.val, imm := p.toNat + 64 * w.toNat }
  | .bfi d a p w => .i 0x02 34 { d := d.val, a := a.val, imm := p.toNat + 64 * w.toNat }
  | .lil d imm => .l 0x03 0 { d := d.val, imm := imm.toNat }
  | .lpc d disp => .b 0x04 0 { d := d.val, disp := disp.toNat }
  | .mul d a b => .r 0x20 0 { d := d.val, a := a.val, b := b.val }
  | .mulh d a b => .r 0x20 1 { d := d.val, a := a.val, b := b.val }
  | .mulhn d a b => .r 0x20 2 { d := d.val, a := a.val, b := b.val }
  | .mulw d a b => .r 0x20 3 { d := d.val, a := a.val, b := b.val }
  | .mad d a b c => .r 0x20 4 { d := d.val, a := a.val, b := b.val, c := c.val }
  | .div d a b => .r 0x21 0 { d := d.val, a := a.val, b := b.val }
  | .divn d a b => .r 0x21 1 { d := d.val, a := a.val, b := b.val }
  | .rem d a b => .r 0x21 2 { d := d.val, a := a.val, b := b.val }
  | .remn d a b => .r 0x21 3 { d := d.val, a := a.val, b := b.val }
  | .fadd d a b => .r 0x30 0 { d := d.val, a := a.val, b := b.val }
  | .fsub d a b => .r 0x30 1 { d := d.val, a := a.val, b := b.val }
  | .fmul d a b => .r 0x30 2 { d := d.val, a := a.val, b := b.val }
  | .ffma d a b c => .r 0x30 3 { d := d.val, a := a.val, b := b.val, c := c.val }
  | .fmin d a b => .r 0x30 4 { d := d.val, a := a.val, b := b.val }
  | .fmax d a b => .r 0x30 5 { d := d.val, a := a.val, b := b.val }
  | .feq d a b => .r 0x30 6 { d := d.val, a := a.val, b := b.val }
  | .flt d a b => .r 0x30 7 { d := d.val, a := a.val, b := b.val }
  | .fle d a b => .r 0x30 8 { d := d.val, a := a.val, b := b.val }
  | .fcvti ty d a => .r 0x30 9 { ty := ty.code, d := d.val, a := a.val }
  | .fcvtf ty d a => .r 0x30 10 { ty := ty.code, d := d.val, a := a.val }
  | .fclass d a => .r 0x30 11 { d := d.val, a := a.val }
  | .fdiv d a b => .r 0x31 0 { d := d.val, a := a.val, b := b.val }
  | .fsqrt d a => .r 0x31 1 { d := d.val, a := a.val }
  | .br disp => .b 0x40 0 { disp := disp.toNat }
  | .brl d disp => .b 0x40 1 { d := d.val, disp := disp.toNat }
  | .beq a b disp => .b 0x41 0 { a := a.val, b := b.val, disp := disp.toNat }
  | .bne a b disp => .b 0x41 1 { a := a.val, b := b.val, disp := disp.toNat }
  | .blt a b disp => .b 0x41 2 { a := a.val, b := b.val, disp := disp.toNat }
  | .bge a b disp => .b 0x41 3 { a := a.val, b := b.val, disp := disp.toNat }
  | .bltn a b disp => .b 0x41 4 { a := a.val, b := b.val, disp := disp.toNat }
  | .bgen a b disp => .b 0x41 5 { a := a.val, b := b.val, disp := disp.toNat }
  | .jr a => .r 0x42 0 { a := a.val }
  | .jrl d a => .r 0x42 1 { d := d.val, a := a.val }
  | .loop a disp => .b 0x43 0 { a := a.val, disp := disp.toNat }
  | .loopi cnt disp => .b 0x43 1 { cnt := cnt.toNat, disp := disp.toNat }
  | .nop => .r 0x44 0 {}
  | .yield => .r 0x44 1 {}
  | .tend => .r 0x44 2 {}
  | .ldb d m off => .m 0x50 0 (.ofAddr d.val 0 0 off.toNat m)
  | .ldbn d m off => .m 0x50 1 (.ofAddr d.val 0 0 off.toNat m)
  | .ldh d m off => .m 0x50 2 (.ofAddr d.val 0 0 off.toNat m)
  | .ldhn d m off => .m 0x50 3 (.ofAddr d.val 0 0 off.toNat m)
  | .ldw d m off => .m 0x50 4 (.ofAddr d.val 0 0 off.toNat m)
  | .ldwn d m off => .m 0x50 5 (.ofAddr d.val 0 0 off.toNat m)
  | .ldd d m off => .m 0x50 6 (.ofAddr d.val 0 0 off.toNat m)
  | .ldg d m off => .m 0x50 7 (.ofAddr d.val 0 0 off.toNat m)
  | .ldv d m off => .m 0x50 8 (.ofAddr d.val 0 0 off.toNat m)
  | .ldbF96m d m off => .m 0x51 0 (.ofAddr d.val 0 0 off.toNat m)
  | .ldbnF96m d m off => .m 0x51 1 (.ofAddr d.val 0 0 off.toNat m)
  | .ldhF96m d m off => .m 0x51 2 (.ofAddr d.val 0 0 off.toNat m)
  | .ldhnF96m d m off => .m 0x51 3 (.ofAddr d.val 0 0 off.toNat m)
  | .ldwF96m d m off => .m 0x51 4 (.ofAddr d.val 0 0 off.toNat m)
  | .ldwnF96m d m off => .m 0x51 5 (.ofAddr d.val 0 0 off.toNat m)
  | .lddF96m d m off => .m 0x51 6 (.ofAddr d.val 0 0 off.toNat m)
  | .ldgF96m d m off => .m 0x51 7 (.ofAddr d.val 0 0 off.toNat m)
  | .ldvF96m d m off => .m 0x51 8 (.ofAddr d.val 0 0 off.toNat m)
  | .stb d m off => .m 0x52 0 (.ofAddr d.val 0 0 off.toNat m)
  | .sth d m off => .m 0x52 1 (.ofAddr d.val 0 0 off.toNat m)
  | .stw d m off => .m 0x52 2 (.ofAddr d.val 0 0 off.toNat m)
  | .std d m off => .m 0x52 3 (.ofAddr d.val 0 0 off.toNat m)
  | .stg d m off => .m 0x52 4 (.ofAddr d.val 0 0 off.toNat m)
  | .stv d m off => .m 0x52 5 (.ofAddr d.val 0 0 off.toNat m)
  | .stbF96m d m off => .m 0x53 0 (.ofAddr d.val 0 0 off.toNat m)
  | .sthF96m d m off => .m 0x53 1 (.ofAddr d.val 0 0 off.toNat m)
  | .stwF96m d m off => .m 0x53 2 (.ofAddr d.val 0 0 off.toNat m)
  | .stdF96m d m off => .m 0x53 3 (.ofAddr d.val 0 0 off.toNat m)
  | .stgF96m d m off => .m 0x53 4 (.ofAddr d.val 0 0 off.toNat m)
  | .stvF96m d m off => .m 0x53 5 (.ofAddr d.val 0 0 off.toNat m)
  | .lr d m off => .m 0x54 0 (.ofAddr d.val 0 0 off.toNat m)
  | .sc d b m off => .m 0x54 1 (.ofAddr d.val b.val 0 off.toNat m)
  | .amoadd d b dd m off => .m 0x54 2 (.ofAddr d.val b.val dd.toNat off.toNat m)
  | .amoand d b dd m off => .m 0x54 3 (.ofAddr d.val b.val dd.toNat off.toNat m)
  | .amoor d b dd m off => .m 0x54 4 (.ofAddr d.val b.val dd.toNat off.toNat m)
  | .amoxor d b dd m off => .m 0x54 5 (.ofAddr d.val b.val dd.toNat off.toNat m)
  | .amomin d b dd m off => .m 0x54 6 (.ofAddr d.val b.val dd.toNat off.toNat m)
  | .amomax d b dd m off => .m 0x54 7 (.ofAddr d.val b.val dd.toNat off.toNat m)
  | .amominn d b dd m off => .m 0x54 8 (.ofAddr d.val b.val dd.toNat off.toNat m)
  | .amomaxn d b dd m off => .m 0x54 9 (.ofAddr d.val b.val dd.toNat off.toNat m)
  | .amoswp d b dd m off => .m 0x54 10 (.ofAddr d.val b.val dd.toNat off.toNat m)
  | .amocas d b dd m off => .m 0x54 11 (.ofAddr d.val b.val dd.toNat off.toNat m)
  | .amofadd d b dd m off => .m 0x54 12 (.ofAddr d.val b.val dd.toNat off.toNat m)
  | .lrF96m d m off => .m 0x55 0 (.ofAddr d.val 0 0 off.toNat m)
  | .scF96m d b m off => .m 0x55 1 (.ofAddr d.val b.val 0 off.toNat m)
  | .amoaddF96m d b dd m off => .m 0x55 2 (.ofAddr d.val b.val dd.toNat off.toNat m)
  | .amoandF96m d b dd m off => .m 0x55 3 (.ofAddr d.val b.val dd.toNat off.toNat m)
  | .amoorF96m d b dd m off => .m 0x55 4 (.ofAddr d.val b.val dd.toNat off.toNat m)
  | .amoxorF96m d b dd m off => .m 0x55 5 (.ofAddr d.val b.val dd.toNat off.toNat m)
  | .amominF96m d b dd m off => .m 0x55 6 (.ofAddr d.val b.val dd.toNat off.toNat m)
  | .amomaxF96m d b dd m off => .m 0x55 7 (.ofAddr d.val b.val dd.toNat off.toNat m)
  | .amominnF96m d b dd m off => .m 0x55 8 (.ofAddr d.val b.val dd.toNat off.toNat m)
  | .amomaxnF96m d b dd m off => .m 0x55 9 (.ofAddr d.val b.val dd.toNat off.toNat m)
  | .amoswpF96m d b dd m off => .m 0x55 10 (.ofAddr d.val b.val dd.toNat off.toNat m)
  | .amocasF96m d b dd m off => .m 0x55 11 (.ofAddr d.val b.val dd.toNat off.toNat m)
  | .amofaddF96m d b dd m off => .m 0x55 12 (.ofAddr d.val b.val dd.toNat off.toNat m)
  | .rndclose => .r 0x56 0 {}
  | .fence op => .r 0x57 0 { q := op.code }
  | .waitrs => .r 0x57 1 {}
  | .waitc q => .r 0x57 2 { q := q.toNat }
  | .mbinc i v => .i 0x68 0 { imm := v.toNat, aux := i.toNat }
  | .mbincRemote i v a => .i 0x68 1 { a := a.val, imm := v.toNat, aux := i.toNat }
  | .mbwait i v => .i 0x68 2 { imm := v.toNat, aux := i.toNat }
  | .mbrd d i => .i 0x68 3 { d := d.val, aux := i.toNat }
  | .mbset i v => .i 0x68 4 { imm := v.toNat, aux := i.toNat }
  | .chsend d a => .r 0x69 0 { d := d.val, a := a.val }
  | .chrecv d a => .r 0x69 1 { d := d.val, a := a.val }
  | .sendn d a => .r 0x69 2 { d := d.val, a := a.val }
  | .recvn d a b => .r 0x69 3 { d := d.val, a := a.val, b := b.val }
  | .sqopen gang d a n b => .i 0x6B 0 { d := d.val, a := a.val, b := b.val, imm := n.toNat % 2 ^ 20, aux := gang.toNat + 2 * (n.toNat / 2 ^ 20) }
  | .sqjoin a b => .r 0x6A 0 { a := a.val, b := b.val }
  | .sqleave a => .r 0x6A 1 { a := a.val }
  | .sqclose d a => .r 0x6A 2 { d := d.val, a := a.val }
  | .sqbar a => .r 0x6A 3 { a := a.val }
  | .sqarrive d a => .r 0x6A 4 { d := d.val, a := a.val }
  | .sqwait a => .r 0x6A 5 { a := a.val }
  | .sqvote op d a b => .r 0x6A 6 { q := op.code, d := d.val, a := a.val, b := b.val }
  | .sqred op ty d a b => .r 0x6A 7 { q := op.code, ty := ty.code, d := d.val, a := a.val, b := b.val }
  | .sqscan op ty d a b => .r 0x6A 8 { q := op.code, ty := ty.code, d := d.val, a := a.val, b := b.val }
  | .sqinfo q d a => .r 0x6A 9 { q := q.toNat, d := d.val, a := a.val }
  | .sealpt => .r 0x6C 0 {}
  | .seal => .r 0x6C 1 {}
  | .splitrd d => .r 0x6C 2 { d := d.val }
  | .vadd ty d a b m => .r 0x78 0 { ty := ty.code, d := d.val, a := a.val, b := b.val, km := kmOf m, msk := mkOf m }
  | .vsub ty d a b m => .r 0x78 1 { ty := ty.code, d := d.val, a := a.val, b := b.val, km := kmOf m, msk := mkOf m }
  | .vmul ty d a b m => .r 0x78 2 { ty := ty.code, d := d.val, a := a.val, b := b.val, km := kmOf m, msk := mkOf m }
  | .vfma ty d a b c m => .r 0x78 3 { ty := ty.code, d := d.val, a := a.val, b := b.val, c := c.val, km := kmOf m, msk := mkOf m }
  | .vmin ty d a b m => .r 0x78 4 { ty := ty.code, d := d.val, a := a.val, b := b.val, km := kmOf m, msk := mkOf m }
  | .vmax ty d a b m => .r 0x78 5 { ty := ty.code, d := d.val, a := a.val, b := b.val, km := kmOf m, msk := mkOf m }
  | .vabs ty d a m => .r 0x78 6 { ty := ty.code, d := d.val, a := a.val, km := kmOf m, msk := mkOf m }
  | .vneg ty d a m => .r 0x78 7 { ty := ty.code, d := d.val, a := a.val, km := kmOf m, msk := mkOf m }
  | .vand ty d a b m => .r 0x78 8 { ty := ty.code, d := d.val, a := a.val, b := b.val, km := kmOf m, msk := mkOf m }
  | .vor ty d a b m => .r 0x78 9 { ty := ty.code, d := d.val, a := a.val, b := b.val, km := kmOf m, msk := mkOf m }
  | .vxor ty d a b m => .r 0x78 10 { ty := ty.code, d := d.val, a := a.val, b := b.val, km := kmOf m, msk := mkOf m }
  | .vshl ty d a b m => .r 0x78 11 { ty := ty.code, d := d.val, a := a.val, b := b.val, km := kmOf m, msk := mkOf m }
  | .vshr ty d a b m => .r 0x78 12 { ty := ty.code, d := d.val, a := a.val, b := b.val, km := kmOf m, msk := mkOf m }
  | .vsra ty d a b m => .r 0x78 13 { ty := ty.code, d := d.val, a := a.val, b := b.val, km := kmOf m, msk := mkOf m }
  | .vcmp op ty d a b m => .r 0x78 14 { q := op.code, ty := ty.code, d := d.val, a := a.val, b := b.val, km := kmOf m, msk := mkOf m }
  | .vsel ty d a b c => .r 0x78 15 { ty := ty.code, d := d.val, a := a.val, b := b.val, c := c.val }
  | .vbcast ty d a m => .r 0x79 0 { ty := ty.code, d := d.val, a := a.val, km := kmOf m, msk := mkOf m }
  | .vext ty d a b => .r 0x79 1 { ty := ty.code, d := d.val, a := a.val, b := b.val }
  | .vins ty d a b => .r 0x79 2 { ty := ty.code, d := d.val, a := a.val, b := b.val }
  | .vshuf ty d a b m => .r 0x79 3 { ty := ty.code, d := d.val, a := a.val, b := b.val, km := kmOf m, msk := mkOf m }
  | .vred op ty d a m => .r 0x79 4 { q := op.code, ty := ty.code, d := d.val, a := a.val, km := kmOf m, msk := mkOf m }
  | .vscan op ty d a m => .r 0x79 5 { q := op.code, ty := ty.code, d := d.val, a := a.val, km := kmOf m, msk := mkOf m }
  | .vcmprs ty d a m => .r 0x79 6 { ty := ty.code, d := d.val, a := a.val, km := kmOf m, msk := mkOf m }
  | .vrcp ty d a m => .r 0x7A 0 { ty := ty.code, d := d.val, a := a.val, km := kmOf m, msk := mkOf m }
  | .vrsq ty d a m => .r 0x7A 1 { ty := ty.code, d := d.val, a := a.val, km := kmOf m, msk := mkOf m }
  | .vex2 ty d a m => .r 0x7A 2 { ty := ty.code, d := d.val, a := a.val, km := kmOf m, msk := mkOf m }
  | .vlg2 ty d a m => .r 0x7A 3 { ty := ty.code, d := d.val, a := a.val, km := kmOf m, msk := mkOf m }
  | .vldx d b m off => .m 0x7B 0 (.ofAddr d.val b.val 0 off.toNat m)
  | .vstx d b m off => .m 0x7B 1 (.ofAddr d.val b.val 0 off.toNat m)
  | .kand d a b => .r 0x7C 0 { d := d.val, a := a.val, b := b.val }
  | .kor d a b => .r 0x7C 1 { d := d.val, a := a.val, b := b.val }
  | .kxor d a b => .r 0x7C 2 { d := d.val, a := a.val, b := b.val }
  | .knot d a => .r 0x7C 3 { d := d.val, a := a.val }
  | .kmov (.kg d a) => .r 0x7C 4 { d := d.val, a := a.val }
  | .kmov (.gk d a) => .r 0x7C 4 { d := d.val, a := a.val, q := 1 }
  | .kmov (.kk d a) => .r 0x7C 4 { d := d.val, a := a.val, q := 2 }
  | .kpop d a => .r 0x7C 5 { d := d.val, a := a.val }
  | .kset d a => .r 0x7C 6 { d := d.val, a := a.val }
  | .vcvt ty ty2 d a m => .r 0x98 0 { ty := ty.code, ty2 := ty2.code, d := d.val, a := a.val, km := kmOf m, msk := mkOf m }
  | .vlog ty d a b m => .r 0x98 1 { ty := ty.code, d := d.val, a := a.val, b := b.val, km := kmOf m, msk := mkOf m }
  | .vexp ty d a b m => .r 0x98 2 { ty := ty.code, d := d.val, a := a.val, b := b.val, km := kmOf m, msk := mkOf m }
  | .vemap op td ta tb w => .e 0xA0 0 (.ofCmd 0 0 td.val ta.val tb.val (128 * op.code) w)
  | .vered op td ta w => .e 0xA0 1 (.ofCmd 0 0 td.val ta.val 0 (128 * op.code) w)
  | .vescan op td ta w => .e 0xA0 2 (.ofCmd 0 0 td.val ta.val 0 (128 * op.code) w)
  | .vecvt td ta w => .e 0xA0 3 (.ofCmd 0 0 td.val ta.val 0 0 w)
  | .tdef t a imm => .i 0xB0 0 { a := a.val, imm := imm.toNat, aux := t.val }
  | .trd d t q => .i 0xB0 1 { d := d.val, imm := q.val, aux := t.val }
  | .tset fld t a => .i 0xB0 2 { a := a.val, imm := fld.code, aux := t.val }
  | .pclaim d a i n => .i 0xB1 0 { d := d.val, a := a.val, imm := i.toNat, aux := n.toNat }
  | .prel a i n => .i 0xB1 1 { a := a.val, imm := i.toNat, aux := n.toNat }
  | .qclaim d a i n => .i 0xB1 2 { d := d.val, a := a.val, imm := i.toNat, aux := n.toNat }
  | .qrel a i n => .i 0xB1 3 { a := a.val, imm := i.toNat, aux := n.toNat }
  | .mma sh z td ta tb w => .e 0xB2 0 (.ofCmd 0 0 td.val ta.val tb.val (512 * sh.code + 256 * z.toNat) w)
  | .mmag sh z td ta tb a w => .e 0xB2 1 (.ofCmd a.val 0 td.val ta.val tb.val (512 * sh.code + 256 * z.toNat) w)
  | .qzero td w => .e 0xB2 2 (.ofCmd 0 0 td.val 0 0 0 w)
  | .pload t td ta w => .e 0xB3 0 (.ofCmd 0 0 td.val ta.val 0 (1024 * t.toNat) w)
  | .qld td ta w => .e 0xB4 0 (.ofCmd 0 0 td.val ta.val 0 0 w)
  | .qst td ta w => .e 0xB4 1 (.ofCmd 0 0 td.val ta.val 0 0 w)
  | .qstl td ta w => .e 0xB4 2 (.ofCmd 0 0 td.val ta.val 0 0 w)
  | .qcvt op td ta w => .e 0xB4 3 (.ofCmd 0 0 td.val ta.val 0 (512 * op.code) w)
  | .cpy td ta w => .e 0xC0 0 (.ofCmd 0 0 td.val ta.val 0 0 w)
  | .cpyx pull rs td ta a w => .e 0xC0 1 (.ofCmd a.val 0 td.val ta.val 0 (1024 * pull.toNat + 512 * rs.toNat) w)
  | .bclose op d => .i 0xC1 0 { d := d.val, aux := op.code }
  | .bwaitRel n => .i 0xC1 1 { imm := n.toNat }
  | .bwaitLand n => .i 0xC1 2 { imm := n.toNat }
  | .cstage d n => .i 0xC1 3 { d := d.val, imm := n.toNat }
  | .ewait n => .i 0xC1 4 { imm := n.toNat }
  | .creduce op a b td ta w => .e 0xC2 0 (.ofCmd a.val b.val td.val ta.val 0 (256 * op.code) w)
  | .cbcast a b td ta w => .e 0xC2 1 (.ofCmd a.val b.val td.val ta.val 0 0 w)
  | .callred op a td ta w => .e 0xC2 2 (.ofCmd a.val 0 td.val ta.val 0 (256 * op.code) w)
  | .cgather a td ta w => .e 0xC2 3 (.ofCmd a.val 0 td.val ta.val 0 0 w)
  | .csrrd d r => .i 0xD0 0 { d := d.val, aux := r.code }
  | .csrwr d r a => .i 0xD0 1 { d := d.val, a := a.val, aux := r.code }
  | .csrset d r a => .i 0xD0 2 { d := d.val, a := a.val, aux := r.code }
  | .csrclr d r a => .i 0xD0 3 { d := d.val, a := a.val, aux := r.code }
  | .trap n => .i 0xD1 0 { imm := n.toNat }
  | .brk n => .i 0xD1 1 { imm := n.toNat }
  | .halt => .i 0xD1 2 {}
  | .rte => .i 0xD1 3 {}
  | .segld d a b => .r 0xD2 0 { d := d.val, a := a.val, b := b.val }
  | .segrd d a q => .r 0xD2 1 { d := d.val, a := a.val, q := q.toNat }
  | .idrd d => .r 0xD2 2 { d := d.val }
  | .ctxsave a => .r 0xD2 3 { a := a.val }
  | .ctxload a => .r 0xD2 4 { a := a.val }
  | .lapStart _ | .sidingOutputReentry _ _ | .tapeResultInjection _ | .instructionRetire _ | .tagFree _
   | .fetchBlockArrival _ _ | .contextRejoin _ | .preciseTrapTaken _ | .impreciseTrapTaken _ | .discardedWrite _ _ _
   | .timingReplay _ _ | .detectorRateReport _ | .priorityPreemption _ | .coreRestore _ | .quotaPreemption _
   | .quotaRefill _ | .debuggerHalt _ | .debuggerResume _ | .bpaddrWrite _ _ _ | .bpctlWrite _ _ _ | .coreRemap _ _ _
   | .coreRetirement _ | .remoteWriteArrival _ | .postedStoreAck _ | .remoteRequestArrival _ | .remoteReplyArrival _
   | .homeAccess _ | .fullEmptyServe _ _ | .retryNotice _ | .granuleArrival _ | .deliveryAck _ | .granuleReturn _
   | .refillRefused _ | .refillRequest _ | .channelRefill _ _ | .namedMessageArrival _ | .deterministicUpdateArrival _
   | .roundCloseVote _ | .roundClose _ | .roundApply _ _ | .roundComplete _ | .fenceStampRequest _
   | .fenceStampReturn _ | .squadAnswer _ | .squadMessageArrival _ | .generationComplete _ | .squadDeparture _ _
   | .engineCommandStart _ _ | .reservationGrant _ | .engineCommandComplete _ _ | .scheduleEntryFire _ | .pageWait _
   | .pageWake _ _ | .homeMove _ _ | .scrub _ _ | .waitLimit _ | .sealInterval _ | .sealPrepare _ | .dieReady _
   | .sealReady | .sealCommit _ | .sealAbort | .resealTimer | .rollback | .containment _ _ | .domainFault _
   | .coreFault _ | .watchdogStage1 _ _ | .watchdogStage2 _ _ | .watchdogStage3 _ _ | .replicaDigest _ _ _
   | .provisionalSeal | .infieldTest _ _ _ | .thermalReading _ _ | .throttleStep _ | .currentSample _ _ _
   | .fatalError _ _ | .frequencyChange _ _ | .routerTableSwap _ _ | .meshFlitRetry _ _ _ | .ilufoskoFlitReceive _ _
   | .ilufoskoNak _ _ _ | .ilufoskoPortDown _ _ | .commandRead _ _ | .launch _ _ | .graph _ _ | .waitval _ _
   | .waitvalSatisfied _ _ | .writeval _ _ | .cancelLaunch _ _ | .cancelGraph _ _ | .cancelPhase _ _ | .cancelJob _ _
   | .sealreq _ _ | .commandFence _ _ | .launchStart _ | .corePreparation _ _ | .unitStart _ | .batonStart _ _
   | .batonVisit _ _ | .batonReturn _ _ | .phaseEndNotice _ _ _ | .jobendEffect _ | .jobEnd _ | .mdom _ | .mlock _ _
   | .mlockTimeout | .doorbell _ | .jobnew _ | .qreset _ | .jobend _ | .windowWrite _ _ | .powerOn _ | .powerIdle _
   | .powerStandby _ | .powerOff _ | .debugOff _ | .debugNonInvasive _ | .debugInvasive _ | .lifecycleDeployed _
   | .lifecycleVendorDebug _ | .lifecycleRma _ | .lifecycleRetired _ | .nonce _ | .attest _ | .keyload _ | .extend _ _
   | .mreqMalformed _ _ | .powerOnBoot | .pipeCycle _ | .batchReleased _ _ | .debuggerStep _ | .debuggerWrite _ _
   | .newImage _ _ => .none

/-- Word 0 (R144). -/
def word0 (len op fn d a b : Nat) : Nat := len + 2 ^ 2 * op + 2 ^ 10 * d + 2 ^ 15 * a + 2 ^ 20 * b + 2 ^ 25 * fn

/-- The words of a format's fields (R146 to R151). -/
def Fields.words : Fields → List Nat
  | .r op fn f =>
    [word0 1 op fn f.d f.a f.b,
     4 + 2 ^ 3 * f.c + 2 ^ 8 * f.ty + 2 ^ 12 * f.ty2 + 2 ^ 16 * f.km + 2 ^ 18 * f.msk + 2 ^ 19 * f.q]
  | .i op fn f => [word0 1 op fn f.d f.a f.b, 4 + 2 ^ 3 * f.imm + 2 ^ 23 * f.aux]
  | .m op fn f =>
    let w1 := 4 + 2 ^ 3 * (f.off % 2 ^ 12) + 2 ^ 15 * f.space + 2 ^ 17 * f.seg + 2 ^ 20 * f.fe + 2 ^ 22 * f.wc +
      2 ^ 24 * f.ord + 2 ^ 26 * f.c
    if formatOf op = some .f96m then [word0 2 op (fn + 64 * f.dd) f.d f.a f.b, w1, 4 + 2 ^ 3 * (f.off / 2 ^ 12)]
    else [word0 1 op (fn + 64 * f.dd) f.d f.a f.b, w1]
  | .b op fn f =>
    [word0 2 op fn f.d f.a f.b, 4 + 2 ^ 3 * (f.disp % 2 ^ 29), 4 + 2 ^ 3 * (f.disp / 2 ^ 29) + 2 ^ 6 * f.cnt]
  | .l op fn f =>
    [word0 3 op fn f.d f.a f.b, 4 + 2 ^ 3 * (f.imm % 2 ^ 29), 4 + 2 ^ 3 * (f.imm / 2 ^ 29 % 2 ^ 29),
     4 + 2 ^ 3 * (f.imm / 2 ^ 58)]
  | .e op fn f =>
    [word0 3 op fn f.d f.a f.b, 4 + 2 ^ 3 * f.td + 2 ^ 9 * f.ta + 2 ^ 15 * f.tb + 2 ^ 21 * f.mode,
     4 + 2 ^ 3 * f.wmb + 2 ^ 11 * f.wth + 2 ^ 27 * f.we, 4 + 2 ^ 3 * f.smb + 2 ^ 11 * f.sinc]
  | .none => []

/-- The words of an instruction; none for an event. -/
def encode (i : Instr) : List Nat := i.fields.words

/-- The number of words of an instruction. -/
def Instr.length (i : Instr) : Nat := (encode i).length

/-! ### The words of a byte list and the table's numbering -/

/-- The value of bytes, first byte least significant (R4). -/
def leValue : List Byte → Nat
  | [] => 0
  | b :: bs => b.toNat + 256 * leValue bs

/-- The first n bytes of a value, least significant first (R4). -/
def leBytes : Nat → Nat → List Byte
  | 0, _ => []
  | n + 1, v => BitVec.ofNat 8 v :: leBytes n (v / 256)

/-- The 32-bit words of a number of words, first word least significant. -/
def wordsOf : Nat → Nat → List Nat
  | 0, _ => []
  | n + 1, v => v % 2 ^ 32 :: wordsOf n (v / 2 ^ 32)

/-- The instruction whose bits are `w`, bit 0 the least significant bit of the first word and later words counting on; the bits
above `nbits` are zero. -/
def decodeTableWord (nbits w : Nat) : Option Instr :=
  match decode (wordsOf 8 (w % 2 ^ nbits)) with
  | .ok (i, _) => some i
  | .error _ => none

end Sys2Proof
end

