-- ==== Sys2Proof/Machine/State.lean ====
section
/-! DEFINITION. The state of the module as plain data: every piece of state the spec names, and the model's own agenda.
Each field's docstring gives its width, the rule of spec/ that names it, and its value after module reset. -/

namespace Sys2Proof.Machine

/-- The cstat flags, at their cstat positions (R178): 0 NX, 1 UF, 2 OF, 3 DZ, 4 NV, 5 NSAT, 6 NINV, 7 LSAT, 8 LUF, 9 LINV,
10 DZR, 11 GRP. -/
abbrev Flags := BitVec 12

/-! ### Memories -/

/-- Bytes by address; an unlisted address reads as zero (the model's choice for RAM after power-on, log entry 3). -/
abbrev Memory := List Host.Cell

/-- The error state of a 64-bit word (R93, R400, R401, R421). -/
inductive WordMark where
  /-- no error -/
  | sound
  /-- a single-bit error, corrected on read -/
  | single
  /-- an error of two or more bits that no agent has met yet -/
  | latent
  /-- marked poisoned -/
  | poisoned
  deriving DecidableEq, Repr

/-- A memory with its error-protection state. -/
structure Mem where
  /-- Bytes. [8 bits an address; R90 (05); reset: DESIGN CHOICE zero (log 3)] -/
  cells : Memory
  /-- Write sequence of each line (128 bytes of S, P, Q; 64 bytes of HBM). [unbounded; R400 (22); reset: DESIGN CHOICE 0 (log 3)] -/
  lineSeq : SMap Nat
  /-- Error mark of each 64-bit word. [4 values; R93, R401, R421 (05, 22, 24); reset: DESIGN CHOICE sound (log 3)] -/
  mark : SMap WordMark
  deriving DecidableEq, Repr

/-- An empty memory. -/
abbrev Mem.empty : Mem := { cells := [], lineSeq := [], mark := [] }

/-! ### A context -/

/-- A segment register (R183). -/
structure Seg where
  /-- Virtual base. [52 bits; R183 (08); reset: 0] -/
  base : BitVec 52
  /-- Length in bytes. [40 bits; R183 (08); reset: 0] -/
  limit : BitVec 40
  /-- Read right. [1 bit; R183 (08); reset: 0] -/
  r : Bool
  /-- Write right. [1 bit; R183 (08); reset: 0] -/
  w : Bool
  /-- Execute right. [1 bit; R183 (08); reset: 0] -/
  x : Bool
  /-- Atomic right. [1 bit; R183 (08); reset: 0] -/
  a : Bool
  deriving DecidableEq, Repr

/-- A segment register after reset: limit 0 and no rights (R183). -/
abbrev Seg.zero : Seg := { base := 0, limit := 0, r := false, w := false, x := false, a := false }

/-! ### The tensor table and the engines -/

/-- Tensor kinds (R137). -/
inductive TKind where
  | linear | log | int | ieee
  deriving DecidableEq, Repr

/-- A tensor table entry (R137). -/
structure Tensor where
  /-- VALID. [1 bit; R137 (06); reset: 0] -/
  valid : Bool
  /-- KIND. [2 bits; R137 (06); reset: 0] -/
  kind : TKind
  /-- SGN. [1 bit; R137 (06); reset: 0] -/
  sgn : Bool
  /-- FA. [3 bits; R137 (06); reset: 0] -/
  fa : BitVec 3
  /-- FB. [3 bits; R137 (06); reset: 0] -/
  fb : BitVec 3
  /-- BIAS. [8 bits, signed; R137 (06); reset: 0] -/
  bias : BitVec 8
  /-- SCALE. [10 bits, signed; R137 (06); reset: 0] -/
  scale : BitVec 10
  /-- SPACE. [2 bits; R137 (06); reset: 0] -/
  space : BitVec 2
  /-- ORDER, true column-major. [1 bit; R137 (06); reset: 0] -/
  order : Bool
  /-- EXTRA. [32 bits; R137 (06); reset: 0x7FC0_0000] -/
  extra : BitVec 32
  /-- SEG. [3 bits; R137 (06); reset: 0] -/
  seg : BitVec 3
  /-- BASE. [48 bits; R137 (06); reset: 0] -/
  base : BitVec 48
  /-- ROWS. [32 bits; R137 (06); reset: 0] -/
  rows : BitVec 32
  /-- COLS. [32 bits; R137 (06); reset: 0] -/
  cols : BitVec 32
  /-- STRIDE. [40 bits; R137 (06); reset: 0] -/
  stride : BitVec 40
  /-- The reserved bits: 63:40 of the fourth doubleword, 63:51 of the second and 32 of the first. [38 bits; R137 (06); reset: 0] -/
  rsv : BitVec 38
  deriving DecidableEq, Repr

/-- A tensor table entry after module reset (R137). -/
abbrev Tensor.reset : Tensor :=
  { valid := false, kind := .linear, sgn := false, fa := 0, fb := 0, bias := 0, scale := 0, space := 0, order := false,
    extra := 0x7FC00000#32, seg := 0, base := 0, rows := 0, cols := 0, stride := 0, rsv := 0 }

/-- Shape tag of an accumulator tile (R98, R237). -/
inductive TileShape where
  | t4x16 | t8x8 | t16x4
  deriving DecidableEq, Repr

/-- An engine command with all it read when the tape checked it (R139, R233). -/
structure Cmd where
  /-- name of the command -/
  id : Nat
  /-- the instruction, which holds the function, the mode and the wait and signal fields -/
  instr : Instr
  /-- issuing context -/
  ctx : CtxId
  /-- launch that bound the context then -/
  launch : Nat
  /-- its job, whose page table the command's global accesses go through (R105) -/
  job : Nat
  /-- entries read, by the role of R381: 0 TD, 1 TA, 2 TB, 4 + q the group q of MMAG -/
  ents : SMap Tensor
  /-- segments read, by number -/
  segs : SMap Seg
  /-- counts of MMAG, target identifier of CPYX, root of a collective -/
  arg : Word
  /-- the command has been granted its reservation -/
  granted : Bool
  /-- a request for a reservation has been made -/
  asked : Bool
  /-- the command has started -/
  started : Bool
  /-- rows of D that have been written, for a command that goes row by row -/
  row : Nat
  /-- the source reads have been performed -/
  readDone : Bool
  /-- the elements read before the step that writes them, as (row, column, bits); bit 64 marks a poisoned one -/
  data : List (Nat × Nat × Nat)
  /-- flags raised so far -/
  flags : Flags
  /-- fired from the static copy schedule -/
  sched : Bool
  /-- its wait field has been satisfied since it reached the head of its queue (R99, R155) -/
  met : Bool
  deriving DecidableEq, Repr

/-! ### Reservations, waits, contexts -/

/-- Where a reservation is held (R193): the bank unit of a core, or the memory port that is the home of a page (R106). -/
inductive Holder where
  | bank (core : CoreId)
  | home (port : ClusterId)
  deriving DecidableEq, Repr

/-- A reservation: its holder and the address of its 16-byte granule (R193). -/
structure Resv where
  ctx : CtxId
  holder : Holder
  granule : Nat
  deriving DecidableEq, Repr

/-- What a context waits for (R53, R190, R403, R409). -/
inductive Wait where
  /-- full/empty granule at an S offset (KIND 1) -/
  | granule (off : Nat)
  /-- mailbox threshold (KIND 2) -/
  | mailbox (i : Nat)
  /-- squad generation (KIND 3) -/
  | generation (handle gen : BitVec 16)
  /-- channel record (KIND 4) -/
  | channel (off : Nat)
  /-- named message of a task (KIND 5) -/
  | named (task : BitVec 32)
  /-- reservation granule (KIND 6) -/
  | reservation (granule : Nat)
  /-- posted-store counters (R101, R199, R200, R67) -/
  | counters
  /-- room in the store buffer or in a counter (R100, R102) -/
  | postRoom
  /-- an older posted store of the context to the same bytes of its own core's S (R94) -/
  | older
  /-- a block of the body that a LOOP pins (R64, R373) -/
  | fetch
  /-- room in an engine's queue (R155) -/
  | queueRoom
  /-- commands of the context on an engine (R67, R238, R253) -/
  | commands
  /-- a batch (R253) -/
  | batch
  /-- the stamp of a FENCE.G (R199) -/
  | stamp
  /-- the close of a round (R198) -/
  | round
  /-- a seal (R212): whether it was requested by SEAL, and the split number that its commit brings -/
  | seal (requested : Bool) (split : Word)
  /-- a page to become resident (R394) -/
  | page (page : Nat)
  /-- the squad directory's answer (R208) -/
  | answer
  /-- the next lap (R175) -/
  | lap
  /-- room in the undo log (R116) -/
  | log
  deriving DecidableEq, Repr

/-- What a context is doing (R52, R53, R67, R181). -/
inductive Run where
  /-- no unit -/
  | idle
  /-- in the rotation -/
  | active
  /-- dropped from the rotation; its instruction issues again when it rejoins -/
  | waiting (w : Wait)
  /-- an instruction has been performed and awaits its reply -/
  | reply (i : Instr)
  /-- halted (R181) -/
  | halted
  /-- stopped where it stood, with no boundary (R424, R429) -/
  | killed
  deriving DecidableEq, Repr

/-- A pending imprecise trap (R357, R380, R397, R421). -/
structure Imprecise where
  cause : BitVec 8
  ceaddr : Word
  deriving DecidableEq, Repr

/-- A bind record, the slot table row of a context (R287). -/
structure Row where
  /-- Bound. [1 bit; R287 (13); reset: 0] -/
  v : Bool
  /-- Priority level. [2 bits; R287 (13); reset: 0] -/
  prio : BitVec 2
  /-- Lap mode, true fixed. [1 bit; R287 (13); reset: 0] -/
  lap : Bool
  /-- Pre-empt at the next boundary. [1 bit; R287 (13); reset: 0] -/
  pre : Bool
  /-- Slot mask. [16 bits; R287, R51 (13, 03); reset: 0] -/
  slots : BitVec 16
  /-- First task index of the unit. [32 bits; R287 (13); reset: 0] -/
  task : BitVec 32
  /-- Job number. [16 bits; R287 (13); reset: 0] -/
  job : BitVec 16
  /-- Launch number. [32 bits; R287 (13); reset: 0] -/
  launch : BitVec 32
  deriving DecidableEq, Repr

/-- An unbound row. -/
abbrev Row.zero : Row :=
  { v := false, prio := 0, lap := false, pre := false, slots := 0, task := 0, job := 0, launch := 0 }

/-- A closed batch (R253): its number, its scope, the commands whose reads and whose writes are outstanding. -/
structure Batch where
  num : BitVec 32
  scope : FenceScope
  unread : List Nat
  unlanded : List Nat
  deriving DecidableEq, Repr

/-- One context (R67, R177, R178, R185). -/
structure Ctx where
  /-- General registers g0 to g31 (g0 reads zero). [64 bits each; R160, R145 (08, 07); reset: DESIGN CHOICE 0 (log 2)] -/
  g : SMap Word
  /-- Vector registers v0 to v7. [512 bits each; R213 (10); reset: DESIGN CHOICE 0 (log 2)] -/
  v : SMap VWord
  /-- Mask registers k0 to k3. [64 bits each; R213 (10); reset: DESIGN CHOICE 0 (log 2)] -/
  k : SMap Word
  /-- Squad handle registers h0 to h7, listed where not 0xFFFF. [16 bits each; R70, R80 (04); reset: DESIGN CHOICE 0xFFFF, the value of a unit start (log 2)] -/
  h : SMap (BitVec 16)
  /-- Segment registers s0 to s7. [base 52, limit 40, four rights; R183 (08); reset: 0] -/
  seg : SMap Seg
  /-- Program counter. [64 bits; R67 (04); reset: DESIGN CHOICE 0 (log 2)] -/
  pc : Word
  /-- Loop state: remaining count. [32 bits; R64, R174 (03, 08); reset: DESIGN CHOICE 0 (log 2)] -/
  loopCount : BitVec 32
  /-- Loop state: body start. [64 bits; R64 (03); reset: DESIGN CHOICE 0 (log 2)] -/
  loopStart : Word
  /-- Loop state: end address. [64 bits; R64 (03); reset: DESIGN CHOICE 0 (log 2)] -/
  loopEnd : Word
  /-- The loop buffer is pinned. [1 bit; R64, R352 (03, 19); reset: DESIGN CHOICE false (log 2)] -/
  pinned : Bool
  /-- Loop buffer: the 32-byte blocks of the body as they were fetched, by virtual block address. [256 bits a block and a poison mark for each doubleword; R64, R143, R421 (03, 07, 24); reset: empty, DESIGN CHOICE (log 2)] -/
  loopBuf : SMap (BitVec 260)
  /-- Fetch buffer: the blocks that have arrived, by virtual block address. [two blocks of 256 bits and a poison mark for each doubleword; R63, R421 (03, 24); reset: empty, DESIGN CHOICE (log 2)] -/
  fetchBuf : SMap (BitVec 260)
  /-- The words of the instruction packet being executed. [1 to 4 words of 32 bits; R35, R355 (03, 19); reset: empty, DESIGN CHOICE (log 2)] -/
  ir : List (BitVec 32)
  /-- cstat. [12 flags; R178 (08); reset: 0] -/
  cstat : Flags
  /-- cmode.BPS. [1 bit; R178, R366 (08, 19); reset: 0] -/
  bps : Bool
  /-- cmode.NLT. [1 bit; R178 (08); reset: 0] -/
  nlt : Bool
  /-- cmode.GBT. [1 bit; R178 (08); reset: 0] -/
  gbt : Bool
  /-- cmode.DA. [1 bit; R178 (08); reset: 0] -/
  da : Bool
  /-- cmode.HL. [1 bit; R178, R159 (08); reset: 0] -/
  hl : Bool
  /-- cmode.LAP, true fixed. [1 bit; R178 (08); reset: 0] -/
  lap : Bool
  /-- The skip rule: an RTE or a debugger resume has come since BPS was set. [1 bit; R366 (19); reset: DESIGN CHOICE false (log 2)] -/
  bpArmed : Bool
  /-- cfemask.EN. [5 bits; R178 (08); reset: 0] -/
  cfemask : BitVec 5
  /-- cwlim.LIMIT. [16 bits; R178 (08); reset: 0] -/
  cwlim : BitVec 16
  /-- ctrap.CAUSE. [8 bits; R178 (08); reset: 0] -/
  ctrap : BitVec 8
  /-- cepc.PC, bits 63:2. [62 bits; R178 (08); reset: 0] -/
  cepc : BitVec 62
  /-- ceaddr. [64 bits; R178 (08); reset: 0] -/
  ceaddr : Word
  /-- cvec.VEC, bits 63:2. [62 bits; R178 (08); reset: 0] -/
  cvec : BitVec 62
  /-- cword0 to cword3. [32 bits each; R178, R355 (08, 19); reset: 0] -/
  cword : SMap (BitVec 32)
  /-- cquota.UNITS. [32 bits; R178, R290 (08, 13); reset: 0] -/
  cquota : BitVec 32
  /-- QUOTA of the launch that binds the context. [32 bits; R290, R291 (13); reset: DESIGN CHOICE 0 (log 2)] -/
  quota : BitVec 32
  /-- cspill.OVFLEN. [32 bits; R178, R109 (08, 05); reset: 0] -/
  ovfLen : BitVec 32
  /-- cspill.LIMIT, bits 18:4 of the limit. [15 bits; R178 (08); reset: 0] -/
  spillLimit : BitVec 15
  /-- cspill.BASE, bits 17:4 of the base. [14 bits; R178 (08); reset: 0] -/
  spillBase : BitVec 14
  /-- covf.OVF, bits 63:4. [60 bits; R178 (08); reset: 0] -/
  covf : BitVec 60
  /-- Posted-store counter near (cpost.NEAR). [12 bits; R100, R178 (05, 08); reset: 0] -/
  near : BitVec 12
  /-- Posted-store counter far (cpost.FAR). [12 bits; R100, R178 (05, 08); reset: 0] -/
  far : BitVec 12
  /-- Posted-store counter mem (cpost.MEM). [12 bits; R100, R178 (05, 08); reset: 0] -/
  mem : BitVec 12
  /-- SENDN send sequence. [32 bits; R78, R185 (04, 08); reset: DESIGN CHOICE 0, the value of a unit start (log 2)] -/
  sendSeq : BitVec 32
  /-- MODEL'S OWN: the clock of the writes that the context's plain reads have returned since its last FENCE. [36 entries of 64 bits; R266, R261 (12); reset: DESIGN CHOICE 0 (log 2)] -/
  seen : SMap Nat
  /-- The context's reservation. [none, or holder and granule; R193 (09); reset: DESIGN CHOICE none (log 2)] -/
  resv : Option Resv
  /-- What the context is doing. [R52, R53, R67, R181 (03, 04, 08); reset: DESIGN CHOICE idle (log 2)] -/
  run : Run
  /-- Held resident and ineligible for its quota. [1 bit; R289, R291 (13); reset: DESIGN CHOICE false (log 2)] -/
  quotaHeld : Bool
  /-- Halted by a debugger. [1 bit; R364, R345 (19, 18); reset: DESIGN CHOICE false (log 2)] -/
  dbgHalt : Bool
  /-- Halted by a debugger that lets it take one turn. [1 bit; R345 (18); reset: DESIGN CHOICE false (log 2)] -/
  stepping : Bool
  /-- Counted seal-quiescent and held until the commit or abort. [1 bit; R113 (05); reset: DESIGN CHOICE false (log 2)] -/
  sealHeld : Bool
  /-- Stopped at a SEALPT while a seal is pending, or at a SEAL. [1 bit; R113, R212 (05, 09); reset: DESIGN CHOICE false (log 2)] -/
  atSeal : Bool
  /-- Laps counted in the present wait. [17 bits; R404 (22); reset: DESIGN CHOICE 0 (log 2)] -/
  waitLaps : Nat
  /-- cwlim as it stood when the waiting instruction issued. [16 bits; R404 (22); reset: DESIGN CHOICE 0 (log 2)] -/
  waitLimit : BitVec 16
  /-- Pending imprecise traps, oldest first. [cause 8, address 64 each; R356, R357, R397 (19, 22); reset: DESIGN CHOICE none (log 2)] -/
  imprecise : List Imprecise
  /-- A precise trap that the tape has still to take: its cause, ceaddr and cepc. [8, 64, 64; R350 (19); reset: DESIGN CHOICE none (log 2)] -/
  precise : Option (BitVec 8 × Word × Word)
  /-- Engine commands of the open batch. [R253 (11); reset: DESIGN CHOICE none (log 2)] -/
  openBatch : List Nat
  /-- Closed batches that have not landed. [at most 16; R253 (11); reset: DESIGN CHOICE none (log 2)] -/
  closed : List Batch
  /-- Number of the next batch. [32 bits; R253 (11); reset: DESIGN CHOICE 0, the value of a unit start (log 2)] -/
  nextBatch : BitVec 32
  /-- Slot table row. [R287 (13); reset: 0] -/
  row : Row
  /-- The slot mask in effect: that of the row as it stood at the last lap start. [16 bits; R51 (03); reset: DESIGN CHOICE 0 (log 2)] -/
  mask : BitVec 16
  /-- Tile number of the context in its launch. [R69 (04); reset: DESIGN CHOICE 0 (log 2)] -/
  tile : Nat
  /-- Task index of the running unit. [32 bits; R70, R71 (04); reset: DESIGN CHOICE 0 (log 2)] -/
  task : BitVec 32
  /-- Round number of the tile. [R198 (09); reset: DESIGN CHOICE 0 (log 2)] -/
  round : Nat
  /-- An engine command that has passed its checks and waits for room in its queue. [R233, R139 (11, 06); reset: DESIGN CHOICE none (log 2)] -/
  kick : Option Cmd
  /-- A RNDCLOSE of the context has been performed and awaits the round. [1 bit; R198 (09); reset: DESIGN CHOICE false (log 2)] -/
  voted : Bool
  /-- An update of its counter has met the threshold that the context's MBWAIT waits for. [1 bit; R99 (05); reset: DESIGN CHOICE false (log 2)] -/
  met : Bool
  deriving DecidableEq, Repr

/-- A context after module reset. -/
abbrev Ctx.reset : Ctx :=
  { g := [], v := [], k := [], h := [], seg := [], pc := 0, loopCount := 0, loopStart := 0, loopEnd := 0,
    pinned := false, loopBuf := [], fetchBuf := [], ir := [], cstat := 0, bps := false, nlt := false, gbt := false,
    da := false, hl := false, lap := false, bpArmed := false, cfemask := 0, cwlim := 0, ctrap := 0, cepc := 0,
    ceaddr := 0, cvec := 0, cword := [], cquota := 0, quota := 0, ovfLen := 0, spillLimit := 0, spillBase := 0,
    covf := 0, near := 0, far := 0, mem := 0, sendSeq := 0, seen := [], resv := none, run := .idle, quotaHeld := false,
    dbgHalt := false, stepping := false, sealHeld := false, atSeal := false, waitLaps := 0, waitLimit := 0, imprecise := [],
    precise := none, openBatch := [], closed := [], nextBatch := 0, row := Row.zero, mask := 0, tile := 0, task := 0,
    round := 0, kick := none, voted := false, met := false }

/-- An entry of the static copy schedule (R250). -/
structure SchedEntry where
  stage : BitVec 32
  k : BitVec 4
  fn : BitVec 2
  w1 : BitVec 32
  w2 : BitVec 32
  w3 : BitVec 32
  tgt : BitVec 32
  deriving DecidableEq, Repr

/-- The static copy schedule of a launch on a core (R250, R251). -/
structure CopySched where
  launch : Nat
  entries : List SchedEntry
  /-- entries that have fired -/
  fired : Nat
  deriving DecidableEq, Repr

/-! ### A core's tables -/

/-- An entry of the shared store buffer (R102): the message that carries the store and the bytes it writes. -/
structure SbEntry where
  msg : Nat
  ctx : CtxId
  /-- the target core, or none for global memory -/
  core : Option CoreId
  addr : Nat
  size : Nat
  data : Nat
  deriving DecidableEq, Repr

/-- A recorded access of the full/empty wait table (R96). -/
structure FeWaiter where
  ctx : CtxId
  /-- the message of an access from another core; none for the core's own -/
  msg : Option Nat
  off : Nat
  size : Nat
  /-- waits for full (a load) or empty (a store) -/
  wantFull : Bool
  /-- the qualifier: .FW or .FC, .SE or .EE -/
  clear : Bool
  data : Nat
  deriving DecidableEq, Repr

/-- A named message (R205). -/
structure NamedMsg where
  launch : Nat
  dst : CtxId
  task : BitVec 32
  seq : BitVec 32
  data : BitVec 128
  deriving DecidableEq, Repr

/-- A breakpoint comparator (R365). -/
structure Breakpoint where
  /-- ADDR, bits 63:2. [62 bits; R365 (19); reset: 0] -/
  addr : BitVec 62
  /-- ACT, true trap. [1 bit; R365 (19); reset: 0] -/
  act : Bool
  /-- EN. [1 bit; R365 (19); reset: 0] -/
  en : Bool
  /-- CTX. [16 bits; R365 (19); reset: 0] -/
  ctx : BitVec 16
  deriving DecidableEq, Repr

/-- A comparator after reset. -/
abbrev Breakpoint.zero : Breakpoint := { addr := 0, act := false, en := false, ctx := 0 }

/-- An undo log entry (R112): the line, its old contents and, for S, its full/empty bits. -/
structure UndoEntry where
  /-- the core of an S line; none for a global line -/
  core : Option CoreId
  /-- byte address of the line -/
  line : Nat
  /-- old contents, little-endian -/
  old : Nat
  /-- full/empty bits of an S line -/
  fe : BitVec 8
  /-- tenancy of the core when the S line was logged -/
  tenancy : Nat
  deriving DecidableEq, Repr

/-! ### The pipe -/

/-- A source of an instruction packet (R35): the register (g n is n, v n is 32 + n, k n is 40 + n, h n is 48 + n), its value
once present, and the tag it wants until then. -/
structure Source where
  reg : Nat
  value : Option VWord
  want : Nat
  deriving DecidableEq, Repr

/-- An instruction packet (R35). -/
structure Packet where
  ctx : Nat
  tag : Nat
  instr : Instr
  words : List (BitVec 32)
  addr : Word
  srcs : List Source
  dsts : List Nat
  /-- the packet has launched, into its siding or into the C4 check (R40, R386) -/
  launched : Bool
  /-- the tape has performed the instruction, which may still await its result (R188); for a loop, its body has been pinned -/
  performed : Bool
  /-- the instruction is complete -/
  complete : Bool
  /-- the request whose reply the packet awaits (R188) -/
  asks : Option Nat
  /-- a .FW load recorded in its core's full/empty table (R41, R96) -/
  parked : Bool
  /-- a refusal found on the way: cause, ceaddr, cepc -/
  mark : Option (BitVec 8 × Word × Word)
  issued : Nat
  /-- laps counted while a full/empty table holds its load, and cwlim at its issue (R404) -/
  laps : Nat
  limit : BitVec 16
  /-- loop state recorded with the packet (R352): count, start, end -/
  loop : BitVec 32 × Word × Word
  /-- a comparator with ACT = 0 has matched: the mark halts the context for the debugger (R366) -/
  halts : Bool
  /-- cycles in which a VSTX has written lanes of local S while others are still to be written (R226) -/
  part : Nat
  /-- MODEL'S OWN: the clock of what the packet's plain load has read, which the context takes when it retires (R266) -/
  seen : SMap Nat
  deriving DecidableEq, Repr

/-- A result packet (R35). -/
structure Result where
  ctx : Nat
  tag : Nat
  vals : SMap VWord
  flags : Flags
  /-- a refusal mark with no value (R385, R394, R404, R421): cause, ceaddr, cepc -/
  mark : Option (BitVec 8 × Word × Word)
  /-- first cycle in which a context that was dropped for this result may issue (R53) -/
  since : Nat
  deriving DecidableEq, Repr

/-- A packet working in a siding, or its output waiting in the siding's output buffer (R40, R46). -/
structure InSiding where
  siding : Siding
  /-- stage of re-entry; 8 is the C8 inlet (R40) -/
  stage : Nat
  /-- cycles until the output may re-enter -/
  left : Nat
  issued : Nat
  result : Result
  /-- killed: the output is discarded on leaving (R351) -/
  dead : Bool
  deriving DecidableEq, Repr

/-- A result of a tape-performed instruction that waits to be injected at the tape (R48, R60, R188, R297). -/
structure Injection where
  /-- first cycle in which it may be injected -/
  due : Nat
  issued : Nat
  /-- it has neither a destination nor a flag, and injects nothing -/
  bare : Bool
  result : Result
  deriving DecidableEq, Repr

/-- The counterflow pipe of a core (R34 to R62). -/
structure Pipe where
  /-- Instruction packet of stages 0 (blocks) to 8 (C8). [at most one a stage; R34 (03); reset: DESIGN CHOICE empty (log 2)] -/
  instrs : SMap Packet
  /-- Result packet of stages 0 to 8 and of the tape's position 9. [at most one a stage; R34 (03); reset: DESIGN CHOICE empty (log 2)] -/
  results : SMap Result
  /-- Retire queues, oldest first. [8 packets a context; R34, R47 (03); reset: DESIGN CHOICE empty (log 2)] -/
  retire : List Packet
  /-- Scoreboards: newest tag that writes register r of context k, at key 64 k + r, stored plus one. [8 bits; R37 (03); reset: DESIGN CHOICE none (log 2)] -/
  board : SMap Nat
  /-- Landing buffers. [8 entries a context; R38 (03); reset: DESIGN CHOICE empty (log 2)] -/
  landing : List Result
  /-- Allocated tags of each context, oldest first. [at most 8; R36 (03); reset: DESIGN CHOICE none (log 2)] -/
  tags : SMap (List Nat)
  /-- Next sequence number of each context. [4 bits; R36 (03); reset: DESIGN CHOICE 0 (log 2)] -/
  nextSeq : SMap Nat
  /-- Tags whose instruction has retired. [R38 (03); reset: DESIGN CHOICE none (log 2)] -/
  retired : List Nat
  /-- Retired tags that have no result to land. [R38, R297 (03, 14); reset: DESIGN CHOICE none (log 2)] -/
  noResult : List Nat
  /-- Sidings and their output buffers. [R40, R46 (03); reset: DESIGN CHOICE empty (log 2)] -/
  sidings : List InSiding
  /-- Fixed-lap returns: cycle of entry and result. [R56, R60 (03); reset: DESIGN CHOICE empty (log 2)] -/
  returns : List (Nat × Result)
  /-- Results of tape-performed instructions that wait to be injected. [R48, R297 (03, 14); reset: DESIGN CHOICE empty (log 2)] -/
  inject : List Injection
  /-- First cycle of the window of each context's latest vector instruction. [R57 (03); reset: DESIGN CHOICE 0 (log 2)] -/
  window0 : SMap Nat
  /-- Contexts of which an instruction has retired in this cycle. [16 bits; R47 (03); reset: DESIGN CHOICE 0 (log 2)] -/
  retiredNow : BitVec 16
  /-- Tags of each context freed in this cycle. [at most 2; R38 (03); reset: DESIGN CHOICE 0 (log 2)] -/
  freedNow : SMap Nat
  /-- Contexts for which the tape has performed its operation of this cycle. [16 bits; R49, R56 (03); reset: DESIGN CHOICE 0 (log 2)] -/
  tapeNow : BitVec 16
  /-- First cycle in which each context may issue after a branch shadow. [R54 (03); reset: DESIGN CHOICE 0 (log 2)] -/
  shadow : SMap Nat
  /-- Round-robin pointer. [4 bits; R55 (03); reset: DESIGN CHOICE 0 (log 2)] -/
  rr : Nat
  /-- Replay cycles still to pass. [R361 (19); reset: DESIGN CHOICE 0 (log 2)] -/
  replay : Nat
  /-- FP exceptions of the present lap: context and issue cycle. [R359 (19); reset: DESIGN CHOICE none (log 2)] -/
  fpLap : List (Nat × Nat)
  /-- FP pending bitmap. [16 bits; R359 (19); reset: DESIGN CHOICE 0 (log 2)] -/
  fpPending : BitVec 16
  /-- Contexts that have been killed and issue again only when they hold no allocated tag. [16 bits; R353 (19); reset: DESIGN CHOICE 0 (log 2)] -/
  drain : BitVec 16
  /-- MODEL'S OWN: tags whose instruction was complete at the start of the present cycle. [R298 (14); reset: DESIGN CHOICE none (log 2)] -/
  settled : List Nat
  deriving DecidableEq, Repr

/-- An empty pipe. -/
abbrev Pipe.empty : Pipe :=
  { instrs := [], results := [], retire := [], board := [], landing := [], tags := [], nextSeq := [], retired := [],
    noResult := [], sidings := [], returns := [], inject := [], window0 := [], retiredNow := 0, freedNow := [], tapeNow := 0, shadow := [], rr := 0, replay := 0, fpLap := [],
    fpPending := 0, drain := 0, settled := [] }

/-! ### A core -/

/-- One logical core (R17, R34, R90, R98, R99, R102, R251, R365). -/
structure Core where
  /-- Scratchpad S. [256 KiB; R90 (05); reset: DESIGN CHOICE zero (log 3)] -/
  s : Mem
  /-- Operand memory P. [64 KiB; R90, R98 (05); reset: 0] -/
  p : Mem
  /-- Accumulator memory Q. [32 KiB; R90, R98 (05); reset: 0] -/
  q : Mem
  /-- Full/empty bits by granule, true full. [16,384 bits; R95 (05); reset: DESIGN CHOICE empty, as a core reset leaves them (log 3)] -/
  fe : SMap Bool
  /-- Mailbox counters. [256 of 16 bits; R99 (05); reset: 0] -/
  mb : SMap (BitVec 16)
  /-- Tensor table. [64 entries of 32 bytes; R137 (06); reset: the reset values of R137] -/
  tt : SMap Tensor
  /-- Claims of operand slots: the claiming context plus one. [128; R98, R238 (05, 11); reset: free] -/
  pclaim : SMap Nat
  /-- Claims of accumulator tiles: the claiming context plus one. [128; R98, R238 (05, 11); reset: free] -/
  qclaim : SMap Nat
  /-- Shape tags of the tiles. [128; R98 (05); reset: DESIGN CHOICE 4 x 16 (log 2)] -/
  shape : SMap TileShape
  /-- Shared store buffer, oldest first. [64 entries; R102 (05); reset: DESIGN CHOICE empty (log 2)] -/
  storeBuf : List SbEntry
  /-- Full/empty wait table in order of arrival. [16 own and 48 remote entries; R96 (05); reset: DESIGN CHOICE empty (log 2)] -/
  feWait : List FeWaiter
  /-- Send records through which a CHSEND has sent since the core was prepared, which its copy engine watches for refills. [R203, R249 (09, 11); reset: DESIGN CHOICE none (log 2)] -/
  chans : List Nat
  /-- Named-message table. [64 entries; R205 (09); reset: DESIGN CHOICE empty (log 2)] -/
  named : List NamedMsg
  /-- The previous refill of the channel whose send record stands at an offset was delivered. [1 bit a channel; R203 (09); reset: DESIGN CHOICE false (log 2)] -/
  refillOk : SMap Bool
  /-- MODEL'S OWN: for each send record, the context and launch whose CHSEND sent each granule of its spill ring, in ring order. [R203, R397 (09, 22); reset: DESIGN CHOICE none (log 2)] -/
  spilled : SMap (List (Nat × Nat))
  /-- Reservations held by the bank unit, oldest first. [64; R193 (09); reset: DESIGN CHOICE none (log 2)] -/
  resvs : List Resv
  /-- Matrix engine queue, the running command first. [2 commands, or one a context; R155, R235 (07, 11); reset: DESIGN CHOICE empty (log 2)] -/
  matrixQ : List Cmd
  /-- Vector engine queue. [as the matrix queue; R155 (07); reset: DESIGN CHOICE empty (log 2)] -/
  vectorQ : List Cmd
  /-- Copy engine queue. [as the matrix queue; R155 (07); reset: DESIGN CHOICE empty (log 2)] -/
  copyQ : List Cmd
  /-- Fired schedule entries that the copy engine has still to perform, in list order. [R249, R251 (11); reset: DESIGN CHOICE empty (log 2)] -/
  firedQ : List Cmd
  /-- Stage counter. [32 bits; R251 (11); reset: DESIGN CHOICE 0, the value at a launch's start (log 2)] -/
  stage : BitVec 32
  /-- Static copy schedules of the launches on the core, each with the count of its entries that have fired. [R250, R251 (11); reset: DESIGN CHOICE none (log 2)] -/
  sched : List CopySched
  /-- Breakpoint comparators. [4; R365 (19); reset: 0] -/
  bp : SMap Breakpoint
  /-- Cycle counter that ccycle reads. [64 bits; R51, R178 (03, 08); reset: 0] -/
  cycle : Word
  /-- MODEL'S OWN: the lap start of the present cycle has been performed. [1 bit; R51 (03); reset: DESIGN CHOICE false (log 1)] -/
  lapBegun : Bool
  /-- The pipe. [R34 (03); reset: empty] -/
  pipe : Pipe
  /-- Baton message count of the current phase. [64 bits, signed; R75 (04); reset: DESIGN CHOICE 0 (log 2)] -/
  msgCount : Int
  /-- Baton colour, true black. [1 bit; R75 (04); reset: DESIGN CHOICE white (log 2)] -/
  black : Bool
  /-- Undo buffer, newest first. [112 entries of 144 bytes; R112 (05); reset: DESIGN CHOICE empty (log 2)] -/
  undo : List UndoEntry
  /-- MODEL'S OWN: which contents of S the core holds, new with every image that is saved of it. [R289, R426 (13, 24); reset: DESIGN CHOICE 0 (log 2)] -/
  tenancy : Nat
  /-- Written-this-split bits by line number. [2,048 bits; R112 (05); reset: DESIGN CHOICE clear (log 2)] -/
  written : SMap Bool
  /-- Detector firings in the present millisecond. [R363 (19); reset: DESIGN CHOICE 0 (log 2)] -/
  detections : Nat
  /-- Single-bit errors of each S word in the present second. [R402 (22); reset: DESIGN CHOICE 0 (log 2)] -/
  singles : SMap Nat
  deriving DecidableEq, Repr

/-- A core after module reset. -/
abbrev Core.reset : Core :=
  { s := Mem.empty, p := Mem.empty, q := Mem.empty, fe := [], mb := [], tt := [], pclaim := [], qclaim := [], shape := [],
    storeBuf := [], feWait := [], chans := [], named := [], refillOk := [], spilled := [], resvs := [], matrixQ := [], vectorQ := [], copyQ := [], firedQ := [],
    stage := 0, sched := [], bp := [], cycle := 0, lapBegun := false, pipe := Pipe.empty, msgCount := 0, black := false,
    undo := [], tenancy := 0, written := [], detections := 0, singles := [] }

/-! ### Messages in flight -/

/-- Where a message goes (R23, R106, R197 to R199, R208). -/
inductive Dest where
  | core (c : CoreId)
  | home (page : Nat)
  | port (p : ClusterId)
  | directory (die : Nat)
  | sequencer
  | controller (launch : Nat)
  | ctx (c : CtxId)
  deriving DecidableEq, Repr

/-- Posted-store kinds (R100). -/
inductive PostKind where
  | near | far | mem
  deriving DecidableEq, Repr

/-- The atomic operations (R196). -/
inductive AmoOp where
  | add | and | or | xor | min | max | minn | maxn | swp | cas | fadd
  deriving DecidableEq, Repr

/-- How a reply ends (R108, R376, R394, R399, R421). -/
inductive ReplyMark where
  | ok | pageWait | poison | irrevocable
  deriving DecidableEq, Repr

/-- A squad instruction as the directory receives it (R207, R208). -/
inductive SquadReq where
  | open (name : Word) (n : BitVec 24) (gang : Bool)
  | join (rank : BitVec 24)
  | leave
  | close
  | bar
  | arrive
  | wait
  | vote (op : VoteOp) (x : Bool)
  | red (op : RedOp) (ty : ElemTy) (x : Word)
  | scan (op : RedOp) (ty : ElemTy) (x : Word)
  | info (self : Bool)
  deriving DecidableEq, Repr

/-- What a message carries. -/
inductive Body where
  /-- a posted store of `size` bytes (R100), with the ea of its instruction (R421) -/
  | store (kind : PostKind) (off size data : Nat) (fe : FeQual) (ea : Word)
  /-- a mailbox increment (R201) -/
  | mbInc (kind : PostKind) (i : BitVec 8) (v : BitVec 16)
  /-- a load of `size` bytes (R188); one that straddles the carve-out's limit reads its first `low` bytes in the S of its own core
  from `at_` on (R109) -/
  | load (off size : Nat) (fe : FeQual) (low at_ : Nat)
  /-- the lanes of a gather still to be read, as (lane, 2^18 * core + S offset or 2^60 + address), the bytes read so far,
  as (4 * lane + index, byte), whether a lane lay in a discarded page (R225), and the clock of what the destinations read so far have
  applied (R227) -/
  | gather (lanes : List (Nat × Nat)) (done : List (Nat × Nat)) (dzr : Bool) (seen : SMap Nat)
  /-- LR (R193) -/
  | lr (off : Nat)
  /-- SC with its data and whether the context holds the reservation (R193) -/
  | sc (off data : Nat)
  /-- an atomic (R196) -/
  | amo (op : AmoOp) (off : Nat) (x cmp : Word)
  /-- the reply to an access: the request, value, flags, mark (R188) -/
  | reply (of value : Nat) (flags : Flags) (mark : ReplyMark)
  /-- acknowledgement of a posted store (R100) -/
  | ack (kind : PostKind) (of : Nat)
  /-- a channel granule (R203): send record, receive record, index, data, direct or refill, and which of its two words are poisoned (R421) -/
  | granule (kind : PostKind) (srec rrec : Nat) (i : BitVec 32) (data : BitVec 128) (refill : Bool) (poison : BitVec 2)
  | delivered (kind : PostKind) (srec : Nat) (refill : Bool) (of : Nat)
  | returned (kind : PostKind) (srec : Nat) (i : BitVec 32) (data : BitVec 128) (of : Nat)
  | refused (srec : Nat)
  | refillReq (srec : Nat)
  /-- a named message (R205) -/
  | named (kind : PostKind) (m : NamedMsg)
  /-- a .D update (R197), with its ea -/
  | det (op : AmoOp) (va : Nat) (x cmp ea : Word) (launch tile round : Nat)
  /-- a close vote (R198) -/
  | vote (tile round : Nat)
  /-- a FENCE.G stamp request and its answer (R199) -/
  | stampReq
  | stamp (n : Nat)
  /-- a squad instruction and the directory's answer: value, status, refusal reason (R208, R379) -/
  | squad (handle : BitVec 16) (r : SquadReq)
  | answer (value status : Word) (flags : Flags) (reason : Nat) (performed : Bool) (gen : BitVec 16)
  deriving DecidableEq, Repr

/-- A message in flight. -/
structure Msg where
  /-- name of the message -/
  id : Nat
  /-- the context for which it was sent -/
  src : CtxId
  /-- launch that bound the context then (R289) -/
  launch : Nat
  /-- die of the sender (R266) -/
  die : Nat
  /-- the endpoint that sent it (R26) -/
  source : Dest
  dest : Dest
  body : Body
  /-- sequence number given by the sender's die (R266) -/
  seq : Nat
  /-- die clock carried, by die (R266) -/
  clock : SMap Nat
  /-- sent back with a retry notice and not yet resent (R96) -/
  retry : Bool
  /-- recorded in a wait table at its destination (R96) -/
  recorded : Bool
  deriving DecidableEq, Repr

/-! ### A cluster -/

/-- A held or ringed .D update at a memory port (R197). -/
structure Update where
  launch : Nat
  round : Nat
  tile : Nat
  seq : Nat
  ctx : CtxId
  op : AmoOp
  va : Nat
  x : Word
  cmp : Word
  ea : Word
  deriving DecidableEq, Repr

/-- A request for a current reservation (R292). -/
structure Reservation where
  /-- cycle of the core in which it was made -/
  cycle : Nat
  core : CoreId
  e : EngineKind
  cmd : Nat
  cost : Nat
  deriving DecidableEq, Repr

/-- A router slot table entry (R24). -/
structure Slot where
  /-- SCH. [1 bit; R24 (02); reset: 0] -/
  sch : Bool
  /-- INP. [3 bits; R24 (02); reset: 0] -/
  inp : BitVec 3
  /-- FLOW. [12 bits; R24 (02); reset: 0] -/
  flow : BitVec 12
  deriving DecidableEq, Repr

/-- A slot entry after reset. -/
abbrev Slot.zero : Slot := { sch := false, inp := 0, flow := 0 }

/-- One cluster: its core table, arbiter, clock, temperature, router, memory port and collective engines (R17). -/
structure Cluster where
  /-- Logical-to-physical core table, listed where it differs from the identity. [32 entries; R18 (02); reset: entry c holds c] -/
  coreTable : SMap Nat
  /-- Arbiter budget B. [R292 (13); reset: 64, its default] -/
  budget : Nat
  /-- Units held. [R292 (13); reset: DESIGN CHOICE 0 (log 2)] -/
  held : Nat
  /-- Requests in order of arrival. [R292 (13); reset: DESIGN CHOICE empty (log 2)] -/
  requests : List Reservation
  /-- The latest cycle in which requests have come, the engine kind at which their order starts and the first kind among them, 0 matrix, 1 vector, 2 copy, 3 collective. [R292 (13); reset: DESIGN CHOICE none (log 2)] -/
  group : Option (Nat × Nat × Nat)
  /-- Physical cores that have been retired. [34 bits; R402 (22); reset: DESIGN CHOICE none (log 2)] -/
  retired : List Nat
  /-- An in-field test is due. [1 bit; R430, R432 (24); reset: DESIGN CHOICE false (log 2)] -/
  testDue : Bool
  /-- Budget before the throttle. [R294 (13); reset: DESIGN CHOICE 64 (log 2)] -/
  budgetSaved : Nat
  /-- FLL step n, 500 + 25 n MHz. [0 to 40; R293 (13); reset: DESIGN CHOICE 30, the nominal clock (log 2)] -/
  fll : Nat
  /-- The step n whose voltage the LDO gives. [0 to 40; R293 (13); reset: DESIGN CHOICE 30 (log 2)] -/
  ldo : Nat
  /-- A step that has been ordered and that FLL and LDO have not both reached. [0 to 40; R293 (13); reset: DESIGN CHOICE none (log 2)] -/
  goal : Option Nat
  /-- The FLL need not wait for a phase boundary to reach that step: a current step ends. [1 bit; R434 (24); reset: DESIGN CHOICE false (log 2)] -/
  goalNow : Bool
  /-- FLL step before the throttle. [R294 (13); reset: DESIGN CHOICE 30 (log 2)] -/
  fllSaved : Nat
  /-- Throttle threshold in degrees Celsius. [60 to 110; R294 (13); reset: 100, its default] -/
  theta : Nat
  /-- Last temperature in quarter degrees. [R294 (13); reset: DESIGN CHOICE 0 (log 2)] -/
  temp : Nat
  /-- Throttled. [1 bit; R294 (13); reset: DESIGN CHOICE normal (log 2)] -/
  throttled : Bool
  /-- Time in microseconds of the last transition. [R294 (13); reset: DESIGN CHOICE none (log 2)] -/
  lastShift : Option Nat
  /-- Readings at or below the release threshold in a row after a trip. [R433 (24); reset: DESIGN CHOICE 0 (log 2)] -/
  coolReadings : Nat
  /-- Clocks stopped by a trip. [1 bit; R433 (24); reset: DESIGN CHOICE false (log 2)] -/
  tripped : Bool
  /-- Failed cluster. [1 bit; R424 (24); reset: DESIGN CHOICE false (log 2)] -/
  failed : Bool
  /-- Inside a fenced kill cell. [1 bit; R424 (24); reset: DESIGN CHOICE false (log 2)] -/
  fenced : Bool
  /-- Active router slot table, by 64 x output port + entry. [5 x 64 entries of 16 bits; R24 (02); reset: 0] -/
  slots : SMap Slot
  /-- Shadow slot table. [5 x 64 entries of 16 bits; R24 (02); reset: DESIGN CHOICE 0 (log 2)] -/
  shadow : SMap Slot
  /-- A phase boundary has passed: the shadow replaces the active table at the next frame boundary. [1 bit; R24 (02); reset: DESIGN CHOICE false (log 2)] -/
  swapDue : Bool
  /-- Cluster instruction cache: blocks by virtual block address. [256 bits a block and a poison mark for each doubleword; R63, R143, R421 (03, 07, 24); reset: DESIGN CHOICE empty (log 2)] -/
  icache : SMap (BitVec 260)
  /-- Holding buffer of the memory port for .D updates. [16 entries; R197 (09); reset: DESIGN CHOICE empty (log 2)] -/
  holding : List Update
  /-- Reservations that the memory port holds as the home of its pages, oldest first. [64; R193 (09); reset: DESIGN CHOICE none (log 2)] -/
  resvs : List Resv
  /-- Overflow ring of the memory port. [65,536 entries of 32 bytes; R197 (09); reset: DESIGN CHOICE empty (log 2)] -/
  ring : List Update
  /-- Entries put into the ring so far: the next one takes slot `ringAt` mod 65,536. [R197 (09); reset: DESIGN CHOICE 0 (log 2)] -/
  ringAt : Nat
  /-- Collective engine queues by engine 0 and 1, the running command first. [2 of 16 commands; R254 (11); reset: DESIGN CHOICE empty (log 2)] -/
  coll0 : List (CoreId × Cmd)
  coll1 : List (CoreId × Cmd)
  deriving DecidableEq, Repr

/-- A cluster after module reset. -/
abbrev Cluster.reset : Cluster :=
  { coreTable := [], budget := 64, held := 0, requests := [], group := none, retired := [], testDue := false, budgetSaved := 64, fll := 30, ldo := 30, goal := none, goalNow := false, fllSaved := 30,
    theta := 100, temp := 0, throttled := false, lastShift := none, coolReadings := 0, tripped := false, failed := false,
    fenced := false, slots := [], shadow := [], swapDue := false, icache := [], holding := [], resvs := [], ring := [], ringAt := 0, coll0 := [],
    coll1 := [] }

/-! ### A die -/

/-- A write held in a die's hold queue (R117). -/
structure HeldWrite where
  va : Nat
  size : Nat
  data : Nat
  split : Word
  /-- the data carries poison (R421) -/
  poison : Bool
  /-- the context that wrote it, its launch and its ea -/
  writer : Option (CtxId × Nat × Word)
  deriving DecidableEq, Repr

/-- One die: its clock, its seal state, its logs and its rail (R17, R112, R114, R117, R266, R434). -/
structure Die where
  /-- Vector clock, by die. [36 entries of 64 bits; R266 (12); reset: DESIGN CHOICE 0 (log 2)] -/
  clock : SMap Nat
  /-- Undo region, newest first. [1 GiB; R112 (05); reset: DESIGN CHOICE empty (log 2)] -/
  undo : List UndoEntry
  /-- Undo entries of the closed split kept by a provisional seal, newest first. [R431 (24); reset: DESIGN CHOICE empty (log 2)] -/
  keptUndo : List UndoEntry
  /-- Hold queue, oldest first. [4,096 entries of up to 64 bytes; R117 (05); reset: DESIGN CHOICE empty (log 2)] -/
  hold : List HeldWrite
  /-- PREPARE has reached the die. [1 bit; R114 (05); reset: DESIGN CHOICE false (log 2)] -/
  prepared : Bool
  /-- READY has been sent. [1 bit; R114 (05); reset: DESIGN CHOICE false (log 2)] -/
  ready : Bool
  /-- COMMIT has been taken. [1 bit; R114 (05); reset: DESIGN CHOICE false (log 2)] -/
  committed : Bool
  /-- Messages recorded as carried writes. [R116 (05); reset: DESIGN CHOICE empty (log 2)] -/
  carried : List Nat
  /-- Successive current samples above 120 %. [R434 (24); reset: DESIGN CHOICE 0 (log 2)] -/
  overSamples : Nat
  /-- Time in microseconds of the current step, when it is in force, or of the last sample at or below 100 % after it. [R434 (24); reset: DESIGN CHOICE none (log 2)] -/
  stepAt : Option Nat
  /-- Time in microseconds of the last sample above 100 % after the step. [R434 (24); reset: DESIGN CHOICE none (log 2)] -/
  lastOver : Option Nat
  /-- Budgets and steps of the die's clusters before the current step: cluster, B, n. [R434 (24); reset: DESIGN CHOICE empty (log 2)] -/
  beforeStep : List (Nat × Nat × Nat)
  /-- Powered off. [1 bit; R434, R435 (24); reset: DESIGN CHOICE false (log 2)] -/
  off : Bool
  /-- Phases whose end the die's dispatch controller has learned of: job and phase. [R77 (04); reset: DESIGN CHOICE none (log 2)] -/
  knownEnds : List (Nat × Nat)
  deriving DecidableEq, Repr

/-- A die after module reset. -/
abbrev Die.reset : Die :=
  { clock := [], undo := [], keptUndo := [], hold := [], prepared := false, ready := false, committed := false,
    carried := [], overSamples := 0, stepAt := none, lastOver := none, beforeStep := [], off := false, knownEnds := [] }

/-! ### Pages and squads -/

/-- A page table entry: what a translation of a job's virtual page gives (R105). -/
structure Page where
  /-- Physical frame of 64 KiB in the 24 stacks, once the page has one. [0 to 18,874,367; R105, R1 (05, 00); reset: DESIGN CHOICE none: the firmware gives a page a frame when it is first written or made resident (log 3)] -/
  frame : Option Nat
  /-- Home port. [R105, R106 (05); reset: DESIGN CHOICE cluster (0, 0) (log 3)] -/
  home : ClusterId
  /-- Resident. [1 bit; R105 (05); reset: DESIGN CHOICE true (log 3)] -/
  resident : Bool
  /-- Discarded. [1 bit; R105, R108 (05); reset: DESIGN CHOICE false (log 3)] -/
  discarded : Bool
  /-- Irrevocable. [1 bit; R105, R117 (05); reset: DESIGN CHOICE false (log 3)] -/
  irrevocable : Bool
  /-- The page is the management window. [1 bit; R117, R334 (05, 18); reset: DESIGN CHOICE false (log 3)] -/
  window : Bool
  /-- Contexts that wait for the page. [R394 (22); reset: DESIGN CHOICE none (log 3)] -/
  waiters : List CtxId
  deriving DecidableEq, Repr

/-- A page of which nothing has been said. -/
abbrev Page.reset : Page :=
  { frame := none, home := 0, resident := true, discarded := false, irrevocable := false, window := false, waiters := [] }

/-- A contribution to a generation (R86). -/
structure Contrib where
  ctx : CtxId
  /-- launch that bound the context then (R289) -/
  launch : Nat
  rank : BitVec 24
  gen : BitVec 16
  /-- what was contributed: a squad instruction, or the collective command's id -/
  req : SquadReq
  cmd : Option Nat
  /-- a squad request waits for this contribution's result -/
  waiting : Bool
  deriving DecidableEq, Repr

/-- A member, or a pending joiner, of a squad (R82, R84, R405). -/
structure Member where
  ctx : CtxId
  /-- launch that bound the context then: a core pre-empted by priority can hold two units of one context number (R289) -/
  launch : Nat
  rank : BitVec 24
  /-- first generation of the membership -/
  first : BitVec 16
  /-- the membership has begun: generation `first` has been reached -/
  active : Bool
  /-- arrivals made -/
  arrivals : Nat
  /-- a leave has been posted: the generation at whose end the membership ends -/
  leaving : Option (BitVec 16)
  /-- the generation of an arrival whose completion the context has not observed -/
  unseen : Option (BitVec 16)
  deriving DecidableEq, Repr

/-- A result kept for a context until it observes it (R405). -/
structure Kept where
  ctx : CtxId
  launch : Nat
  gen : BitVec 16
  /-- the arrival carried a contribution, so that there is a result -/
  contributed : Bool
  /-- the generation had no contributions at all -/
  empty : Bool
  value : Word
  flags : Flags
  reason : Nat
  deriving DecidableEq, Repr

/-- A squad directory entry (R82). -/
structure Squad where
  /-- Name. [64 bits; R80, R82 (04); reset: no entry] -/
  name : Word
  /-- Job, or the domain tag of a domain squad. [R80, R81 (04); reset: no entry] -/
  job : Nat
  /-- Forming count. [24 bits; R82 (04); reset: no entry] -/
  forming : BitVec 24
  /-- GANG. [1 bit; R82 (04); reset: no entry] -/
  gang : Bool
  /-- Generation G. [16 bits; R82 (04); reset: no entry] -/
  gen : BitVec 16
  /-- A generation has completed since the squad was opened. [1 bit; R83 (04); reset: no entry] -/
  formed : Bool
  /-- Members and pending joiners. [R82 (04); reset: no entry] -/
  members : List Member
  /-- DEPARTED. [1 bit; R210, R408 (09, 22); reset: no entry] -/
  departed : Bool
  /-- Contributions to generations not yet complete. [R86 (04); reset: no entry] -/
  contribs : List Contrib
  /-- Results kept until they are observed. [R405 (22); reset: no entry] -/
  kept : List Kept
  /-- A proxy of a domain squad whose home entry is on another module. [1 bit; R81 (04); reset: no entry] -/
  proxy : Bool
  deriving DecidableEq, Repr

/-- A member's part in a collective (R255). -/
structure CollPart where
  ctx : CtxId
  rank : BitVec 24
  cmd : Cmd
  /-- its reads of A have been performed -/
  read : Bool
  /-- what it read -/
  data : List (Nat × Nat × Nat)
  /-- its command has completed -/
  done : Bool
  deriving DecidableEq, Repr

/-- The collective of one generation of a squad (R254 to R257). -/
structure Coll where
  handle : Nat
  gen : BitVec 16
  /-- the generation has completed -/
  closed : Bool
  /-- the squad's home entry is on another module (R81) -/
  away : Bool
  /-- the refusal of R86 that every contributor receives: 0 none, 5 or 6 -/
  reason : Nat
  parts : List CollPart
  deriving DecidableEq, Repr

/-! ### Jobs, queues, launches -/

/-- STATE of a completion counter (R66). -/
inductive CState where
  | running | complete | cancelled
  deriving DecidableEq, Repr

/-- A command as dispatch reads it (R284). -/
structure Command where
  op : BitVec 8
  ovl : Bool
  mode : BitVec 2
  phase : BitVec 16
  addr : Word
  value : Word
  cnt : Word
  /-- every reserved field is zero -/
  clean : Bool
  slot : Nat
  deriving DecidableEq, Repr

/-- A command that dispatch has read (R285). -/
structure Pending where
  cmd : Command
  /-- its record or operand has been read and checked -/
  accepted : Bool
  /-- a WAITVAL watches its doubleword; a LAUNCH or GRAPH has begun -/
  started : Bool
  /-- complete -/
  done : Bool
  /-- the graph of a LAUNCH or GRAPH -/
  graph : Nat
  /-- a write to the doubleword of a WAITVAL has made its condition true -/
  met : Bool
  deriving DecidableEq, Repr

/-- A command queue (R282, R283, R286). -/
structure Queue where
  /-- Ring base. [64 bits; R282 (13); reset: no queue] -/
  base : Word
  /-- PRIO. [2 bits; R282 (13); reset: no queue] -/
  prio : BitVec 2
  /-- LOGN. [4 bits; R282 (13); reset: no queue] -/
  logn : BitVec 4
  /-- Doorbell counter. [16 bits; R283 (13); reset: 0] -/
  doorbell : BitVec 16
  /-- Consumed count. [16 bits; R283 (13); reset: 0] -/
  consumed : BitVec 16
  /-- Stopped at a refused command. [1 bit; R286 (13); reset: no queue] -/
  stopped : Bool
  /-- Commands that have been read and are not complete, oldest first. [R285 (13); reset: no queue] -/
  cmds : List Pending
  /-- Watchdog count in units of 10 us. [R428 (24); reset: no queue] -/
  watch : Nat
  /-- DONE of the current command when the watchdog last looked. [R428 (24); reset: no queue] -/
  watchDone : Nat
  /-- The last watchdog stage that has acted on the current command. [0 to 3; R429 (24); reset: no queue] -/
  watchStage : Nat
  /-- MODEL'S OWN: the graph of the command that the watchdog counts for. [R428 (24); reset: no queue] -/
  watchOf : Nat
  /-- Count in units of 10 us for contexts that have not halted at stage 1, and the last stage that has acted on them. [R429 (24); reset: no queue] -/
  lingerWatch : Nat
  lingerStage : Nat
  deriving DecidableEq, Repr

/-- The baton of a phase (R76, R77). -/
structure Baton where
  sum : Int
  black : Bool
  /-- cores still to visit in this circuit -/
  todo : List CoreId
  /-- the first core of the phase -/
  first : CoreId
  deriving DecidableEq, Repr

/-- A phase of a job (R73, R65). -/
structure Phase where
  /-- Graphs placed in the phase. [R65, R73 (04); reset: no phase] -/
  graphs : List Nat
  /-- The baton when it circulates. [R76 (04); reset: no phase] -/
  baton : Option Baton
  /-- State of the phase's counter. [2 bits; R66 (04); reset: no phase] -/
  state : CState
  /-- DONE of the phase's counter. [32 bits; R66 (04); reset: no phase] -/
  done : Nat
  deriving DecidableEq, Repr

/-- A phase in which nothing has been placed. -/
abbrev Phase.fresh : Phase := { graphs := [], baton := none, state := .running, done := 0 }

/-- The recovery policy (R419). -/
inductive Policy where
  | contain | rollback
  deriving DecidableEq, Repr

/-- A job: its descriptor and its progress (R280, R281, R419). -/
structure Job where
  /-- REFILL in 0.1 ms. [8 bits; R280 (13); reset: no job] -/
  refill : Nat
  /-- DTAG. [32 bits; R280 (13); reset: no job] -/
  dtag : BitVec 32
  /-- HANDLER. [64 bits; R280 (13); reset: no job] -/
  handler : Word
  /-- PHASECTR. [64 bits; R280 (13); reset: no job] -/
  phaseCtr : Word
  /-- JOBCTR. [64 bits; R280 (13); reset: no job] -/
  jobCtr : Word
  /-- Containment rectangle CX0, CY0, CWM1, CHM1. [8 bits each; R419 (24); reset: no job] -/
  cx0 : Nat
  cy0 : Nat
  cwm1 : Nat
  chm1 : Nat
  /-- Kill cell KCW, KCH. [8 bits each; R419 (24); reset: no job] -/
  kcw : Nat
  kch : Nat
  /-- POL. [2 bits; R419 (24); reset: no job] -/
  pol : Policy
  /-- FMBOX. [64 bits; R419, R420 (24); reset: no job] -/
  fmbox : Word
  /-- FMLOGN. [4 bits; R419 (24); reset: no job] -/
  fmlogn : Nat
  /-- SEALINT. [32 bits; R419 (24); reset: no job] -/
  sealInt : Nat
  /-- WD1, WD2, WD3. [20 bits each; R419 (24); reset: no job] -/
  wd1 : Nat
  wd2 : Nat
  wd3 : Nat
  /-- REP, PARTNER, DIGLEN, DIGADDR. [1, 9, 32, 64 bits; R419 (24); reset: no job] -/
  rep : Bool
  partner : BitVec 9
  digLen : Nat
  digAddr : Word
  /-- Command queues by number. [1 to 64; R280, R282 (13); reset: no job] -/
  queues : SMap (Option Queue)
  /-- Phases by number. [R73 (04); reset: no job] -/
  phases : SMap Phase
  /-- The highest phase named by a LAUNCH or GRAPH that dispatch has read, plus one. [R73, R281 (04, 13); reset: no job] -/
  highRead : Nat
  /-- Phases that have ended, counted from 0. [R73 (04); reset: no job] -/
  ended : Nat
  /-- JOBEND has been written: the commands still to be read, by queue and doorbell. [R281 (13); reset: no job] -/
  endPosted : Option (List (Nat × BitVec 16))
  /-- JOBEND has taken effect. [1 bit; R281 (13); reset: no job] -/
  endTaken : Bool
  /-- CANCEL of the job has been read. [1 bit; R281 (13); reset: no job] -/
  cancelled : Bool
  /-- Digests disagreed once at this phase. [R430 (24); reset: no job] -/
  disagreed : Option Nat
  /-- A replica's phase has ended: the next one waits for the digests and their seal. [1 bit; R430 (24); reset: no job] -/
  sealWait : Bool
  /-- The digests of that phase end have been exchanged and match. [1 bit; R430 (24); reset: no job] -/
  matched : Bool
  deriving DecidableEq, Repr

/-- A launch record as dispatch read it (R68). -/
structure LaunchRec where
  entry : Word
  arg : Word
  cores : BitVec 32
  hm1 : Nat
  wm1 : Nat
  y0 : Nat
  x0 : Nat
  tasks : Nat
  cseg : BitVec 3
  feclr : Bool
  det : Bool
  lap : Bool
  ctxs : BitVec 16
  segtab : Word
  quota : BitVec 32
  ttcnt : Nat
  segmask : BitVec 8
  ttptr : Word
  wlim : BitVec 16
  spill : Nat
  ovfbase : Word
  simglen : Nat
  ovfstride : BitVec 32
  simg : Word
  csched : Word
  cscnt : Nat
  tlist : Word
  cntaddr : Word
  initg : List Word
  deriving DecidableEq, Repr

/-- A launch (R65, R66, R69, R71, R198). -/
structure Launch where
  /-- Job. [R73 (04); reset: no launch] -/
  job : Nat
  /-- Phase. [R73 (04); reset: no launch] -/
  phase : Nat
  /-- Graph of which it is a member. [R72 (04); reset: no launch] -/
  graph : Nat
  /-- Launches it waits for. [R72 (04); reset: no launch] -/
  preds : List Nat
  /-- The record. [256 bytes; R68 (04); reset: no launch] -/
  record : LaunchRec
  /-- Priority level of its queue. [2 bits; R287 (13); reset: no launch] -/
  prio : BitVec 2
  /-- Bound to its cores. [1 bit; R285, R288 (13); reset: no launch] -/
  bound : Bool
  /-- Cores prepared. [R70 (04); reset: no launch] -/
  prepared : List CoreId
  /-- STATE of its counter. [2 bits; R66 (04); reset: no launch] -/
  state : CState
  /-- DONE of its counter. [32 bits; R66 (04); reset: no launch] -/
  done : Nat
  /-- Contents of the deterministic task list. [TASKS tile numbers of 32 bits; R71 (04); reset: no launch] -/
  tlist : List Nat
  /-- Next task for a tile that performs TEND (DET = 0). [R71 (04); reset: no launch] -/
  next : Nat
  /-- The further task that each tile was given as it performed TEND, plus one (DET = 0). [R71 (04); reset: no launch] -/
  given : SMap Nat
  /-- Tasks each tile has started. [R71 (04); reset: no launch] -/
  ran : SMap Nat
  /-- Votes of each tile: the rounds it has voted for. [R198 (09); reset: no launch] -/
  votes : SMap Nat
  /-- Tiles that have performed their last TEND. [R198 (09); reset: no launch] -/
  finished : List Nat
  /-- The round that has been closed and not completed, with the ports that have still to report. [R198 (09); reset: no launch] -/
  closing : Option (Nat × List ClusterId)
  /-- The round open now. [R198 (09); reset: no launch] -/
  round : Nat
  deriving DecidableEq, Repr

/-- A graph (R72); a LAUNCH command of its own is a graph of one launch (R65). -/
structure Graph where
  /-- Job, queue and phase. [R73 (04); reset: no graph] -/
  job : Nat
  queue : Nat
  phase : Nat
  /-- Completion counter; none for a LAUNCH command. [R66, R285 (04, 13); reset: no graph] -/
  cnt : Option Word
  /-- Its launches. [1 to 64; R72 (04); reset: no graph] -/
  launches : List Nat
  /-- STATE. [2 bits; R66 (04); reset: no graph] -/
  state : CState
  /-- DONE. [32 bits; R66 (04); reset: no graph] -/
  done : Nat
  deriving DecidableEq, Repr

/-! ### Seals -/

/-- A counter's word that dispatch has written and that waits at its home for log capacity or hold-queue space (R116): where it goes, what
it is, and the clock that it releases. -/
structure Owed where
  va : Nat
  value : Nat
  clock : SMap Nat
  deriving DecidableEq, Repr

/-- A seal-store area with what dispatch restores at a rollback (R114, R426). -/
structure SealArea where
  ctxs : SMap Ctx
  cores : SMap Core
  jobs : SMap (Option Job)
  launches : SMap (Option Launch)
  graphs : SMap (Option Graph)
  squads : SMap (Option Squad)
  /-- saved images of pre-empted cores -/
  saved : SMap (List (Core × SMap Ctx))
  /-- overflow rings of the memory ports, by cluster -/
  rings : SMap (List Update)
  /-- what is in flight at the commit: carried writes, channel refills, their requests and answers, close votes -/
  net : List Msg
  /-- the carried writes among them, whose issuers' counters have fallen -/
  carried : List Nat
  /-- counter writes that wait at their homes -/
  owed : List Owed
  deriving DecidableEq, Repr

/-- An empty area. -/
abbrev SealArea.empty : SealArea :=
  { ctxs := [], cores := [], jobs := [], launches := [], graphs := [], squads := [], saved := [], rings := [], net := [], carried := [], owed := [] }

/-- The seal controller (R111, R114, R115, R427, R431). -/
structure SealCtl where
  /-- Split number. [64 bits; R111 (05); reset: 0] -/
  split : Word
  /-- A seal has been requested and not begun. [1 bit; R115 (05); reset: DESIGN CHOICE false (log 2)] -/
  requested : Bool
  /-- A seal is running. [1 bit; R114 (05); reset: DESIGN CHOICE false (log 2)] -/
  running : Bool
  /-- The commit record has been written and COMMIT sent. [1 bit; R114 (05); reset: DESIGN CHOICE false (log 2)] -/
  committing : Bool
  /-- Seals aborted in a row. [R427 (24); reset: DESIGN CHOICE 0 (log 2)] -/
  aborts : Nat
  /-- A new seal is due 1 ms after an abort. [1 bit; R427 (24); reset: DESIGN CHOICE false (log 2)] -/
  rearm : Bool
  /-- Requests deferred to a matching phase end. [1 bit; R431 (24); reset: DESIGN CHOICE false (log 2)] -/
  deferred : Bool
  /-- A provisional seal stands. [1 bit; R431 (24); reset: DESIGN CHOICE false (log 2)] -/
  provisional : Bool
  /-- The seal that runs is provisional. [1 bit; R431 (24); reset: DESIGN CHOICE false (log 2)] -/
  runProvisional : Bool
  /-- The current seal-store area. [20 KiB a core; R114 (05); reset: DESIGN CHOICE the reset state (log 2)] -/
  area : SealArea
  /-- The area being written. [20 KiB a core; R114 (05); reset: DESIGN CHOICE empty (log 2)] -/
  nextArea : SealArea
  /-- The area kept by a provisional seal; none when there is none or it is lost. [R431 (24); reset: DESIGN CHOICE none (log 2)] -/
  keptArea : Option SealArea
  /-- Split number of the last commit record. [64 bits; R114 (05); reset: DESIGN CHOICE 0 (log 2)] -/
  commitRecord : Word
  /-- Logs and save areas found damaged and needed until the next commit. [R422 (24); reset: DESIGN CHOICE none (log 2)] -/
  damaged : List Damage
  deriving DecidableEq, Repr

/-! ### The module controller and the fabric -/

/-- Lifecycle states (R336, R344). -/
inductive Lifecycle where
  | mfg | deployed | tenant | vendorDebug | rma | retired
  deriving DecidableEq, Repr

/-- Debug levels (R336, R345). -/
inductive DebugLevel where
  | off | nonInvasive | invasive
  deriving DecidableEq, Repr

/-- Power states (R336, R348); off is the state without power. -/
inductive Power where
  | on | idle | standby | off
  deriving DecidableEq, Repr

/-- The dump of a fatal error (R435 to R437): the values of its headers and the tables whose records it holds. -/
structure Dump where
  /-- Cause: KIND of R420. -/
  kind : Nat
  /-- MID. -/
  mid : Word
  /-- Cause: the fatal error. -/
  code : FatalKind
  /-- Die of the error. -/
  die : Nat
  /-- The cluster that raised the error, if one did. -/
  cluster : Option ClusterId
  /-- Dies whose logic did not answer, and dies whose stacks no route reached. -/
  silent : List Nat
  unreached : List Nat
  split : Word
  time : Word
  lc : Lifecycle
  dbg : DebugLevel
  pwr : Power
  ctxs : SMap Ctx
  cores : SMap Core
  clusters : SMap Cluster
  dies : SMap Die
  deriving DecidableEq, Repr

/-- The module controller's window, boot and security state (R334 to R348). -/
structure Mgmt where
  /-- MID. [64 bits; R335 (18); reset: fused at manufacture, DESIGN CHOICE 0 (log 4)] -/
  mid : Word
  /-- MDOM. [9 bits; R335, R333 (18); reset: DESIGN CHOICE 0 (log 4)] -/
  mdom : BitVec 9
  /-- MLOCK holder. [2 bits; R335, R337 (18); reset: DESIGN CHOICE free (log 4)] -/
  mlock : Option Path
  /-- Time in microseconds of the lock holder's last access to the window. [64 bits; R337 (18); reset: DESIGN CHOICE 0 (log 4)] -/
  mlockAt : Word
  /-- MSTAT.SEQ. [8 bits; R336 (18); reset: 0] -/
  seq : BitVec 8
  /-- MSTAT.RESULT. [8 bits; R336 (18); reset: 0] -/
  result : BitVec 8
  /-- MSTAT.BUSY. [1 bit; R336 (18); reset: 0] -/
  busy : Bool
  /-- MSTAT.DBG. [2 bits; R336 (18); reset: 0, OFF] -/
  dbg : DebugLevel
  /-- MSTAT.PWR. [2 bits; R336 (18); reset: 0, ON] -/
  pwr : Power
  /-- MSTAT.LC. [3 bits; R336 (18); reset: fused, DESIGN CHOICE DEPLOYED (log 4)] -/
  lc : Lifecycle
  /-- Lifecycle state held in the fuses. [R338, R344 (18); reset: DESIGN CHOICE DEPLOYED (log 4)] -/
  fuseLc : Lifecycle
  /-- Fused hash of the vendor RSA key. [384 bits; R338 (18); reset: DESIGN CHOICE 0 (log 4)] -/
  fuseRsa : BitVec 384
  /-- Fused hash of the vendor SLH-DSA key. [384 bits; R338 (18); reset: DESIGN CHOICE 0 (log 4)] -/
  fuseSlh : BitVec 384
  /-- Fused minimum security version. [R338 (18); reset: DESIGN CHOICE 0 (log 4)] -/
  fuseMinVersion : Nat
  /-- Flash slots A and B. [R338 (18); reset: DESIGN CHOICE none (log 4)] -/
  slotA : Option FlashImage
  slotB : Option FlashImage
  /-- Dispatch firmware image. [R339 (18); reset: DESIGN CHOICE none (log 4)] -/
  dispatchImg : Option FlashImage
  /-- The verified firmware is running. [1 bit; R338 (18); reset: DESIGN CHOICE true (log 4)] -/
  fwRunning : Bool
  /-- Header of the image that the ROM has started, which names the vendor's key pairs. [R338, R346 (18); reset: DESIGN CHOICE empty (log 4)] -/
  fwHeader : List Byte
  /-- Security version of the running firmware. [64 bits; R341 (18); reset: DESIGN CHOICE 0 (log 4)] -/
  fwVersion : Word
  /-- Measurement registers M0 to M7. [48 bytes each; R340 (18); reset: 0 at power-on] -/
  meas : SMap (BitVec 384)
  /-- MBUF. [32 KiB; R335 (18); reset: DESIGN CHOICE zero (log 4)] -/
  mbuf : Memory
  /-- The current nonce. [48 bytes; R342 (18); reset: DESIGN CHOICE none (log 4)] -/
  nonce : Option (BitVec 384)
  /-- Nonces generated so far. [the model's own; R342 (18); reset: DESIGN CHOICE 0 (log 4)] -/
  nonces : Nat
  /-- Tenant keys and key pair: the plaintext of the accepted package. [960 bytes; R342, R343 (18); reset: DESIGN CHOICE none (log 4)] -/
  tenant : Option Nat
  /-- The attestation keys have been destroyed. [1 bit; R344 (18); reset: DESIGN CHOICE false (log 4)] -/
  attestGone : Bool
  /-- Module controller time in microseconds since power-on. [64 bits; R420 (24); reset: 0] -/
  time : Word
  /-- Debug port closed at STANDBY. [1 bit; R348 (18); reset: DESIGN CHOICE false (log 4)] -/
  portClosed : Bool
  /-- The answer to the last read of the window, by the path that read: 0 the Ilufosko path, 1 the management bus. [64 bits each; R335 (18); reset: DESIGN CHOICE 0 (log 4)] -/
  answer : SMap Word
  /-- Voltage table: mV by step n. [41 entries; R293 (13); reset: DESIGN CHOICE 0 (log 2)] -/
  volts : SMap Nat
  /-- Base of each die's dump region. [36 addresses; R437 (24); reset: DESIGN CHOICE 0 (log 4)] -/
  dumpBase : SMap Word
  /-- What the debug port has answered to the last read. [up to 512 bits; R345 (18); reset: DESIGN CHOICE 0 (log 4)] -/
  debugData : VWord
  /-- The dump of the last fatal error. [R435, R436 (24); reset: DESIGN CHOICE none (log 4)] -/
  dump : Option Dump
  deriving DecidableEq, Repr

/-- A flit that a port has still to send, or that has not been acknowledged: its flow when it is scheduled, and how often it has been
sent (R331, R332). -/
structure PortFlit where
  flow : Option (BitVec 12)
  flit : Flit
  tries : Nat
  deriving DecidableEq, Repr

/-- An Ilufosko port (R330 to R333). -/
structure Port where
  /-- The slot of its frame that comes next. [0 to 63; R331 (18); reset: DESIGN CHOICE 0 (log 4)] -/
  slot : Nat
  /-- Slots reserved for flows of deterministic jobs. [slots 4 to 63, 12 bits each; R331 (18); reset: DESIGN CHOICE none (log 4)] -/
  reserved : SMap (Option (BitVec 12))
  /-- Flits that wait to be sent, oldest first. [R331 (18); reset: DESIGN CHOICE none (log 4)] -/
  waiting : List PortFlit
  /-- Acknowledgements that wait to be sent, oldest first: positive or not, and the number expected. [R331, R332 (18); reset: DESIGN CHOICE none (log 4)] -/
  answers : List (Bool × BitVec 12)
  /-- Of the unacknowledged flits, those that have still to be sent again: the youngest ones. [0 to 128; R332 (18); reset: DESIGN CHOICE 0 (log 4)] -/
  again : Nat
  /-- Time in microseconds of the last acknowledgement, or of the flit sent when none was outstanding. [R332 (18); reset: DESIGN CHOICE 0 (log 4)] -/
  since : Nat
  /-- Up. [1 bit; R332 (18); reset: DESIGN CHOICE up (log 4)] -/
  down : Bool
  /-- Sequence number of the next flit to send. [12 bits; R330 (18); reset: DESIGN CHOICE 0 (log 4)] -/
  txSeq : BitVec 12
  /-- Unacknowledged flits, oldest first. [128; R332 (18); reset: DESIGN CHOICE none (log 4)] -/
  unacked : List PortFlit
  /-- Sequence number expected next. [12 bits; R332 (18); reset: DESIGN CHOICE 0 (log 4)] -/
  rxSeq : BitVec 12
  /-- Flits delivered, newest first. [256 bytes each; R330, R332 (18); reset: DESIGN CHOICE none (log 4)] -/
  delivered : List Flit
  /-- Acknowledgements sent, newest first: positive or not, and the number expected. [12 bits each; R332 (18); reset: DESIGN CHOICE none (log 4)] -/
  sent : List (Bool × BitVec 12)
  deriving DecidableEq, Repr

/-- A port after reset. -/
abbrev Port.reset : Port :=
  { slot := 0, reserved := [], waiting := [], answers := [], again := 0, since := 0, down := false, txSeq := 0, unacked := [],
    rxSeq := 0, delivered := [], sent := [] }

/-- A mesh link's retry state (R362). -/
structure Link where
  /-- Link buffer of the sender, newest first. [4 flits; R362 (19); reset: DESIGN CHOICE empty (log 4)] -/
  buffer : List Nat
  /-- Flits asked for again and not yet delivered. [R362 (19); reset: DESIGN CHOICE 0 (log 4)] -/
  asked : Nat
  /-- Flits delivered, newest first. [R362 (19); reset: DESIGN CHOICE empty (log 4)] -/
  delivered : List Nat
  /-- Flits that wait at the router's output port, oldest first, by name. [R25, R26 (02); reset: DESIGN CHOICE none (log 4)] -/
  waiting : List (Nat × MeshFlit)
  /-- The input served last in each class of best-effort traffic: copy and collective, the rest. [0 to 4; R26 (02); reset: DESIGN CHOICE 4, so that input 0 comes first (log 4)] -/
  lastCopy : Nat
  lastRest : Nat
  /-- The link has carried a flit in the present network cycle. [1 bit; R24 (02); reset: DESIGN CHOICE false (log 4)] -/
  used : Bool
  deriving DecidableEq, Repr

/-- A link after reset. -/
abbrev Link.reset : Link := { buffer := [], asked := 0, delivered := [], waiting := [], lastCopy := 4, lastRest := 4, used := false }

/-- The fence sequencer (R199, R266). -/
structure Sequencer where
  /-- Stamps served. [R199 (09); reset: DESIGN CHOICE 0 (log 2)] -/
  served : Nat
  /-- Module clock. [36 entries of 64 bits; R266 (12); reset: DESIGN CHOICE 0 (log 2)] -/
  clock : SMap Nat
  deriving DecidableEq, Repr

/-! ### The whole module -/

/-- Who acts next: an event of the module, or a context's next instruction. -/
inductive Turn where
  | event (i : Instr)
  | context (c : CtxId)
  deriving DecidableEq, Repr

/-- The state of the module. -/
structure State where
  /-- MODEL'S OWN: the context whose instruction executes. [a context identifier; reset: DESIGN CHOICE context (0, 0, 0, 0) (log 1)] -/
  cur : CtxId
  /-- MODEL'S OWN: which agents act next, first to act first. [reset: DESIGN CHOICE none (log 1)] -/
  agenda : List Turn
  /-- MODEL'S OWN: the number of the next free value. [reset: DESIGN CHOICE 0 (log 5)] -/
  fresh : Nat
  /-- MODEL'S OWN: the name of the next message or engine command. [reset: DESIGN CHOICE 0 (log 1)] -/
  nextId : Nat
  /-- Contexts by identifier. [10,616,832; R17, R19 (02); reset: every context reset] -/
  ctxs : SMap Ctx
  /-- Cores by identifier. [663,552; R17 (02); reset: every core reset] -/
  cores : SMap Core
  /-- Clusters by identifier. [20,736; R17 (02); reset: every cluster reset] -/
  clusters : SMap Cluster
  /-- Dies by number. [36; R17 (02); reset: every die reset] -/
  dies : SMap Die
  /-- Global memory by physical address: stack n holds the addresses from 48 GiB * n on. [24 stacks of 48 GiB; R1, R28, R90, R105 (00, 02, 05); reset: DESIGN CHOICE zero (log 3)] -/
  gmem : Mem
  /-- Written-line bitmaps of global pages, by job and virtual line number (2^46 * job + line). [1 bit a 64-byte line; R112 (05); reset: DESIGN CHOICE clear (log 2)] -/
  gwritten : SMap Bool
  /-- The jobs' page tables, by job and virtual page number (2^36 * job + page). [R105 (05); reset: DESIGN CHOICE every page resident with no frame yet, home port of cluster (0, 0) (log 3)] -/
  pages : SMap Page
  /-- Frame counter that all routers share: the network cycle mod 64. [6 bits; R24 (02); reset: DESIGN CHOICE 0 (log 2)] -/
  frame : Nat
  /-- Messages in flight, oldest first. [R23 to R27, R188, R439 (02, 09); reset: none] -/
  net : List Msg
  /-- Clock merged from the writes applied at each destination, by destination key. [R266 (12); reset: DESIGN CHOICE 0 (log 2)] -/
  applied : SMap (SMap Nat)
  /-- Clock of the dispatch controllers: what they have learnt from ended units and satisfied WAITVALs. [36 entries of 64 bits; R261, R266 (12); reset: DESIGN CHOICE 0 (log 2)] -/
  dispatchClock : SMap Nat
  /-- Squad directory entries by handle. [36 dies of 1,024; R80, R82 (04); reset: none] -/
  squads : SMap (Option Squad)
  /-- Collectives in progress. [R255 (11); reset: none] -/
  colls : List Coll
  /-- Jobs by number. [R280 (13); reset: none] -/
  jobs : SMap (Option Job)
  /-- Launches by launch number. [R68, R287 (04, 13); reset: none] -/
  launches : SMap (Option Launch)
  /-- Graphs by number. [R72 (04); reset: none] -/
  graphs : SMap (Option Graph)
  /-- Numbers of the next launch and the next graph. [R287 (13); reset: DESIGN CHOICE 1 (log 2)] -/
  nextLaunch : Nat
  nextGraph : Nat
  /-- The queue that dispatch served last, as its key plus one: at 2 * level among commands to read, at 2 * level + 1 among launches to start. [R288 (13); reset: DESIGN CHOICE none (log 2)] -/
  served : SMap Nat
  /-- Saved images of cores pre-empted by priority, the latest first. [399,424 bytes each; R289 (13); reset: none] -/
  saved : SMap (List (Core × SMap Ctx))
  /-- The seal controller. [R111, R114 (05); reset: split 0] -/
  seals : SealCtl
  /-- The fence sequencer. [R199 (09); reset: no stamp served] -/
  sequencer : Sequencer
  /-- The module controller. [R334 to R348 (18); reset: ON, no job] -/
  mgmt : Mgmt
  /-- Ilufosko ports. [48; R330 (18); reset: up] -/
  ports : SMap Port
  /-- Route tables of the fabric interfaces, by 512 * interface + domain module number: the ports towards it. [24 of 512 entries; R29, R333 (02, 18); reset: DESIGN CHOICE empty (log 4)] -/
  routes : SMap (List Nat)
  /-- The port to which each source, destination module and class is pinned. [R333 (18); reset: DESIGN CHOICE none (log 4)] -/
  pins : List ((BitVec 64 × BitVec 9 × FlitClass) × Nat)
  /-- Mesh links by number. [R362 (19); reset: empty] -/
  links : SMap Link
  /-- Mesh links that have failed and are excluded. [5 a router; R423 (24); reset: DESIGN CHOICE none (log 2)] -/
  deadLinks : List Nat
  /-- Counter writes of dispatch that wait at their homes for log capacity or hold-queue space, oldest first. [R66, R116 (04, 05); reset: DESIGN CHOICE none (log 2)] -/
  owed : List Owed
  /-- Writes of programs to the management window that have been released and that the module controller has still to perform, oldest first: offset, size, data. [R117, R334 (05, 18); reset: DESIGN CHOICE none (log 2)] -/
  toWindow : List (Nat × Nat × Nat)
  /-- Writes that have left for the host, a device or the window, newest first. [R117, R118 (05); reset: none] -/
  outside : List HeldWrite
  deriving DecidableEq, Repr

/-- Faults: the machine stops. The spec gives every condition of this module a next state (a trap, a wait or a dropped
access), so one reason only is left. -/
inductive Fault where
  /-- Raised by step when the agenda names an instruction of the opcode table as an event of the module: an instruction runs
  from the words at a context's pc only. Safe: it stops the model where no module step exists. -/
  | notAnEvent
  deriving DecidableEq, Repr

/-- Refusals: no meaning. -/
inductive Refusal where
  /-- An instruction of the opcode table that has no meaning yet, by its mnemonic; raised by exec's arm. Safe: nothing can be
  proved about what it does. -/
  | notModelled (mnemonic : String)
  deriving DecidableEq, Repr

/-- The module controller after module reset. -/
abbrev Mgmt.reset : Mgmt :=
  { mid := 0, mdom := 0, mlock := none, mlockAt := 0, seq := 0, result := 0, busy := false, dbg := .off, pwr := .on, lc := .deployed,
    fuseLc := .deployed, fuseRsa := 0, fuseSlh := 0, fuseMinVersion := 0, slotA := none, slotB := none,
    dispatchImg := none, fwRunning := true, fwHeader := [], fwVersion := 0, meas := [], mbuf := [], nonce := none, nonces := 0,
    tenant := none, attestGone := false, time := 0, portClosed := false, answer := [], volts := [], dumpBase := [], debugData := 0, dump := none }

/-- The seal controller after module reset. -/
abbrev SealCtl.reset : SealCtl :=
  { split := 0, requested := false, running := false, committing := false, aborts := 0, rearm := false, deferred := false,
    provisional := false, runProvisional := false, area := SealArea.empty, nextArea := SealArea.empty,
    keptArea := none, commitRecord := 0, damaged := [] }

/-- The module right after reset (R70, R98, R99, R111, R137, R178): nothing bound, nothing in flight, every table at its
default. -/
def State.reset : State :=
  { cur := 0, agenda := [], fresh := 0, nextId := 0, ctxs := [], cores := [], clusters := [], dies := [],
    gmem := Mem.empty, gwritten := [], pages := [], frame := 0, net := [], applied := [], dispatchClock := [], squads := [], colls := [], jobs := [], launches := [],
    graphs := [], nextLaunch := 1, nextGraph := 1, served := [], saved := [], seals := SealCtl.reset,
    sequencer := { served := 0, clock := [] }, mgmt := Mgmt.reset, ports := [], routes := [], pins := [], links := [], deadLinks := [], owed := [], toWindow := [], outside := [] }

end Sys2Proof.Machine
end

