-- ==== Sys2Proof/Machine/Store.lean ====
section
/-! DEFINITION. Sparse tables, byte memories, and the named parts of State. Every later file reads and writes the state
through these. -/

namespace Sys2Proof.Machine

/-! ### Sparse tables -/

/-- The value at a key; the default where the table lists none. -/
def tget {α : Type} (d : α) : List (Nat × α) → Nat → α
  | [], _ => d
  | (k', v) :: r, k => if k' = k then v else tget d r k

/-- The table without a key. -/
def terase {α : Type} : List (Nat × α) → Nat → List (Nat × α)
  | [], _ => []
  | (k', v) :: r, k => if k' = k then terase r k else (k', v) :: terase r k

/-- The table with an entry put before the first larger key. -/
def tinsert {α : Type} : List (Nat × α) → Nat → α → List (Nat × α)
  | [], k, v => [(k, v)]
  | (k', v') :: r, k, v => if k < k' then (k, v) :: (k', v') :: r else (k', v') :: tinsert r k v

/-- The table with a value at a key; the default is not listed. -/
def tset {α : Type} [DecidableEq α] (d : α) (m : List (Nat × α)) (k : Nat) (v : α) : List (Nat × α) :=
  if v = d then terase m k else tinsert (terase m k) k v

/-- The table with a value at a key, the default listed too. -/
def tput {α : Type} (m : List (Nat × α)) (k : Nat) (v : α) : List (Nat × α) := tinsert (terase m k) k v

/-- The canonical form: keys strictly rising from `lo`, no default listed. -/
def twfFrom {α : Type} [DecidableEq α] (d : α) : Nat → List (Nat × α) → Bool
  | _, [] => true
  | lo, (k, v) :: r => decide (lo ≤ k) && decide (v ≠ d) && twfFrom d (k + 1) r

/-- The canonical form of a table. -/
def twf {α : Type} [DecidableEq α] (d : α) (m : List (Nat × α)) : Bool := twfFrom d 0 m

/-! ### Memories -/

/-- The canonical form of a memory: addresses strictly rising, no byte equal to the zero that an unlisted address reads as. -/
def Memory.wf (m : Memory) : Bool := twf 0#8 m

/-- One byte of memory. -/
def Memory.byte (m : Memory) (a : Nat) : Byte := tget 0#8 m a

/-- The memory with one byte written. -/
def Memory.setByte (m : Memory) (a : Nat) (b : Byte) : Memory := tset 0#8 m a b

/-- The little-endian value of n bytes from an address (R4). -/
def Memory.read (m : Memory) : Nat → Nat → Nat
  | _, 0 => 0
  | a, n + 1 => (m.byte a).toNat + 256 * Memory.read m (a + 1) n

/-- The memory with the low n bytes of a value written from an address, least significant first (R4). -/
def Memory.write (m : Memory) : Nat → Nat → Nat → Memory
  | _, 0, _ => m
  | a, n + 1, v => Memory.write (m.setByte a (BitVec.ofNat 8 v)) (a + 1) n (v / 256)

/-- The numbers from `lo` on, `n` of them. -/
def span : Nat → Nat → List Nat
  | _, 0 => []
  | lo, n + 1 => lo :: span (lo + 1) n

/-- The blocks of `size` bytes that n bytes from an address touch. -/
def blocks (size a n : Nat) : List Nat := if n = 0 then [] else span (a / size) ((a + n - 1) / size + 1 - a / size)

/-- The error mark of a 64-bit word. -/
def Mem.wordMark (m : Mem) (w : Nat) : WordMark := tget .sound m.mark w

/-- The memory with a word marked. -/
def Mem.setMark (m : Mem) (w : Nat) (k : WordMark) : Mem := { m with mark := tset .sound m.mark w k }

/-- A word that n bytes from an address touch holds an error that ECC cannot correct (R421). -/
def Mem.poisoned (m : Mem) (a n : Nat) : Bool :=
  (blocks 8 a n).any fun w => m.wordMark w == .latent || m.wordMark w == .poisoned

/-- A poisoned word that n bytes from an address touch and do not cover whole (R421). -/
def Mem.poisonedPart (m : Mem) (a n : Nat) : Bool :=
  (blocks 8 a n).any fun w =>
    (m.wordMark w == .latent || m.wordMark w == .poisoned) && !(decide (a ≤ 8 * w) && decide (8 * w + 8 ≤ a + n))

/-- Write n bytes: the bytes, the write sequence of each line of `line` bytes touched (R400), and the marks of the words
rewritten (R92, R421). -/
def Mem.write (m : Mem) (line a n v : Nat) : Mem :=
  { cells := m.cells.write a n v
    lineSeq := (blocks line a n).foldl (fun q l => tset 0 q l (tget 0 q l + 1)) m.lineSeq
    mark := (blocks 8 a n).foldl (fun q w => tset .sound q w .sound) m.mark }

/-- Mark every word that n bytes from an address touch as poisoned (R421). -/
def Mem.poison (m : Mem) (a n : Nat) : Mem :=
  { m with mark := (blocks 8 a n).foldl (fun q w => tset .sound q w .poisoned) m.mark }

/-! ### Identifiers (R19, R20) -/

/-- The X, Y, c and k fields of an identifier. -/
def xOf (id : Nat) : Nat := id / 2 ^ 21 % 256
def yOf (id : Nat) : Nat := id / 2 ^ 13 % 256
def cOf (id : Nat) : Nat := id / 2 ^ 8 % 32
def kOf (id : Nat) : Nat := id % 16

/-- The identifier of a context. -/
def mkId (x y c k : Nat) : Nat := 2 ^ 21 * x + 2 ^ 13 * y + 2 ^ 8 * c + k

/-- The core of a context: its identifier with k zero. -/
def coreOf (id : Nat) : CoreId := mkId (xOf id) (yOf id) (cOf id) 0

/-- The cluster of a core: the identifier of its core 0. -/
def clusterOf (id : Nat) : ClusterId := mkId (xOf id) (yOf id) 0 0

/-- The die number of an identifier's cluster (R19). -/
def dieOf (id : Nat) : Nat := 6 * (yOf id / 24) + xOf id / 24

/-- X and Y name a cluster of the module (R21). -/
def onModule (id : Nat) : Bool := decide (xOf id ≤ 143) && decide (yOf id ≤ 143)

/-- Context k of a core. -/
def ctxOf (core : CoreId) (k : Nat) : CtxId := mkId (xOf core) (yOf core) (cOf core) k

/-- The sixteen contexts of a core. -/
def ctxsOf (core : CoreId) : List CtxId := (span 0 16).map (ctxOf core)

/-! ### The parts of State -/

def State.ctx (s : State) (c : CtxId) : Ctx := tget Ctx.reset s.ctxs c
def State.setCtx (s : State) (c : CtxId) (x : Ctx) : State := { s with ctxs := tset Ctx.reset s.ctxs c x }
def State.modCtx (s : State) (c : CtxId) (f : Ctx → Ctx) : State := s.setCtx c (f (s.ctx c))

def State.core (s : State) (c : CoreId) : Core := tget Core.reset s.cores c
def State.setCore (s : State) (c : CoreId) (x : Core) : State := { s with cores := tset Core.reset s.cores c x }
def State.modCore (s : State) (c : CoreId) (f : Core → Core) : State := s.setCore c (f (s.core c))

def State.cluster (s : State) (c : ClusterId) : Cluster := tget Cluster.reset s.clusters c
def State.setCluster (s : State) (c : ClusterId) (x : Cluster) : State :=
  { s with clusters := tset Cluster.reset s.clusters c x }
def State.modCluster (s : State) (c : ClusterId) (f : Cluster → Cluster) : State := s.setCluster c (f (s.cluster c))

def State.die (s : State) (d : Nat) : Die := tget Die.reset s.dies d
def State.setDie (s : State) (d : Nat) (x : Die) : State := { s with dies := tset Die.reset s.dies d x }
def State.modDie (s : State) (d : Nat) (f : Die → Die) : State := s.setDie d (f (s.die d))

def State.page (s : State) (p : Nat) : Page := tget Page.reset s.pages p
def State.setPage (s : State) (p : Nat) (x : Page) : State := { s with pages := tset Page.reset s.pages p x }
def State.modPage (s : State) (p : Nat) (f : Page → Page) : State := s.setPage p (f (s.page p))

def State.squad (s : State) (h : Nat) : Option Squad := tget none s.squads h
def State.setSquad (s : State) (h : Nat) (x : Option Squad) : State := { s with squads := tset none s.squads h x }

def State.job (s : State) (j : Nat) : Option Job := tget none s.jobs j
def State.setJob (s : State) (j : Nat) (x : Option Job) : State := { s with jobs := tset none s.jobs j x }
def State.modJob (s : State) (j : Nat) (f : Job → Job) : State := s.setJob j ((s.job j).map f)

def State.launch (s : State) (l : Nat) : Option Launch := tget none s.launches l
def State.setLaunch (s : State) (l : Nat) (x : Option Launch) : State := { s with launches := tset none s.launches l x }
def State.modLaunch (s : State) (l : Nat) (f : Launch → Launch) : State := s.setLaunch l ((s.launch l).map f)

def State.graph (s : State) (g : Nat) : Option Graph := tget none s.graphs g
def State.setGraph (s : State) (g : Nat) (x : Option Graph) : State := { s with graphs := tset none s.graphs g x }
def State.modGraph (s : State) (g : Nat) (f : Graph → Graph) : State := s.setGraph g ((s.graph g).map f)

def State.port (s : State) (p : Nat) : Port := tget Port.reset s.ports p
def State.setPort (s : State) (p : Nat) (x : Port) : State := { s with ports := tset Port.reset s.ports p x }

def State.link (s : State) (l : Nat) : Link := tget Link.reset s.links l
def State.setLink (s : State) (l : Nat) (x : Link) : State := { s with links := tset Link.reset s.links l x }

/-- The context whose instruction executes. -/
def State.me (s : State) : Ctx := s.ctx s.cur
/-- The state with that context changed. -/
def State.modMe (s : State) (f : Ctx → Ctx) : State := s.modCtx s.cur f
/-- The core of that context. -/
def State.myCore (s : State) : CoreId := coreOf s.cur

/-- The contexts that have left their reset state; every other context is idle. -/
def State.liveCtxs (s : State) : List CtxId := s.ctxs.map Prod.fst

/-- A message by name. -/
def State.msg (s : State) (id : Nat) : Option Msg := s.net.find? fun m => m.id == id
/-- The state without a message. -/
def State.dropMsg (s : State) (id : Nat) : State := { s with net := s.net.filter fun m => m.id != id }
/-- The state with a message replaced in its place. -/
def State.modMsg (s : State) (id : Nat) (f : Msg → Msg) : State :=
  { s with net := s.net.map fun m => if m.id == id then f m else m }

end Sys2Proof.Machine
end

