-- ==== Sys2Proof/Machine/Ops.lean ====
section
/-! DEFINITION. The named operations on a context's registers and on the memories, and TAKING A PRECISE TRAP as one operation
(R353 to R356), with the return from one beside it (R182). -/

namespace Sys2Proof.Machine

/-- The outcomes of a step. -/
abbrev Out := Host.Outcome State Fault Refusal

/-! ### Registers (R145, R160) -/

/-- g r; g0 reads zero. -/
def Ctx.readG (x : Ctx) (r : GReg) : Word := if r = 0 then 0 else tget 0 x.g r.val
/-- g r := v; a write to g0 is discarded. -/
def Ctx.writeG (x : Ctx) (r : GReg) (v : Word) : Ctx := if r = 0 then x else { x with g := tset 0 x.g r.val v }
def Ctx.readV (x : Ctx) (r : VReg) : VWord := tget 0 x.v r.val
def Ctx.writeV (x : Ctx) (r : VReg) (v : VWord) : Ctx := { x with v := tset 0 x.v r.val v }
def Ctx.readK (x : Ctx) (r : KReg) : Word := tget 0 x.k r.val
def Ctx.writeK (x : Ctx) (r : KReg) (v : Word) : Ctx := { x with k := tset 0 x.k r.val v }
def Ctx.readH (x : Ctx) (r : HReg) : BitVec 16 := tget 0xFFFF#16 x.h r.val
def Ctx.writeH (x : Ctx) (r : HReg) (v : BitVec 16) : Ctx := { x with h := tset 0xFFFF#16 x.h r.val v }
def Ctx.readSeg (x : Ctx) (r : SReg) : Seg := tget Seg.zero x.seg r.val
def Ctx.writeSeg (x : Ctx) (r : SReg) (v : Seg) : Ctx := { x with seg := tset Seg.zero x.seg r.val v }

/-- The second register of a pair (R152). -/
def pairOf (d : GReg) : GReg := Fin.ofNat 32 (d.val + 1)

/-- g[d], g[d + 1] as one 128-bit value. -/
def Ctx.readPair (x : Ctx) (d : GReg) : BitVec 128 := x.readG (pairOf d) ++ x.readG d
/-- g[d], g[d + 1] := the two halves; with d = 0 only g1 is written (R191). -/
def Ctx.writePair (x : Ctx) (d : GReg) (v : BitVec 128) : Ctx :=
  (x.writeG d (v.extractLsb' 0 64)).writeG (pairOf d) (v.extractLsb' 64 64)

/-! ### Going on -/

/-- The context at the instruction `bytes` further on, in the rotation. -/
def Ctx.advance (x : Ctx) (bytes : Nat) : Ctx := { x with pc := x.pc + BitVec.ofNat 64 bytes, run := .active, kick := none }

/-- The instruction has been performed: the current context changes by `f` and goes on after it. -/
def State.done (s : State) (bytes : Nat) (f : Ctx → Ctx) : State := s.modMe fun x => (f x).advance bytes

/-- addr + 4·D (R149). -/
def targetOf (addr : Word) (disp : BitVec 32) : Word := addr + (disp.signExtend 64 <<< 2)

/-- A branch to a target: a taken branch inside a loop body ends the loop (R64). -/
def Ctx.goto (x : Ctx) (target : Word) : Ctx :=
  { x with pc := target, run := .active, pinned := false, loopBuf := [], kick := none,
           loopCount := if x.pinned then 0 else x.loopCount }

/-- The loop is pinned again when the pc lies inside the body and the remaining count is not zero (R64). -/
def Ctx.repin (x : Ctx) : Ctx :=
  { x with pinned := decide (x.loopStart.toNat ≤ x.pc.toNat ∧ x.pc.toNat < x.loopEnd.toNat) && x.loopCount != 0,
           loopBuf := [] }

/-- A context that goes on where it was stopped: its body is pinned again if the stop has unpinned it (R64, R352). -/
def Ctx.again (x : Ctx) : Ctx := if x.pinned then x else x.repin

/-- The context waits with its pc at the waiting instruction (R53, R190). A wait that goes on keeps its count of laps; a new
one starts at 0 under the cwlim of now (R404). -/
def Ctx.wait (x : Ctx) (w : Wait) : Ctx :=
  if x.run = .waiting w then x else { x with run := .waiting w, waitLaps := 0, waitLimit := x.cwlim }

/-- The current context waits. -/
def State.waits (s : State) (w : Wait) : State := s.modMe (·.wait w)

/-! ### Trap causes (R369) -/

def causeIllegal : BitVec 8 := 0x01
def causeEntry : BitVec 8 := 0x02
def causePrivileged : BitVec 8 := 0x03
def causeLimit : BitVec 8 := 0x04
def causeRights : BitVec 8 := 0x05
def causeDivide : BitVec 8 := 0x06
def causeFp : BitVec 8 := 0x07
def causeWait : BitVec 8 := 0x08
def causeTensor : BitVec 8 := 0x09
def causeSlot : BitVec 8 := 0x0A
def causeAlign : BitVec 8 := 0x0B
def causeSquad : BitVec 8 := 0x0C
def causeSpill : BitVec 8 := 0x0D
def causeBreak : BitVec 8 := 0x0E
def causeSoftware : BitVec 8 := 0x0F
def causeDropped : BitVec 8 := 0x11
def causeGroup : BitVec 8 := 0x12
def causePoison : BitVec 8 := 0x13
def causeChannel : BitVec 8 := 0x14

/-! ### Stacks and frames (R1, R28) -/

/-- Bytes of a stack: 48 GiB. -/
def stackBytes : Nat := 48 * 2 ^ 30
/-- Frames of 64 KiB in the 24 stacks. -/
def frameCount : Nat := 24 * (stackBytes / 2 ^ 16)
/-- The stack that holds a physical address. -/
def stackOf (p : Nat) : Nat := p / stackBytes
/-- The die on whose outer edge a stack stands: stacks run anticlockwise from the south-west corner (R28). -/
def stackDie (n : Nat) : Nat :=
  if n < 6 then n else if n < 12 then 6 * (n - 6) + 5 else if n < 18 then 30 + (5 - (n - 12)) else 6 * (5 - (n - 18))
/-- The stacks of a die: two of a corner die, one of any other perimeter die, none of an interior one. -/
def stacksOf (die : Nat) : List Nat := (span 0 24).filter fun n => stackDie n == die

/-! ### Global memory (R90, R103, R105)

An address of global memory carries the number of its job above its 52-bit virtual address: each job has its own page table, and no
address of one job names a page of another. -/

/-- A virtual address (R103). -/
def vaddr (a : Nat) : Nat := a % 2 ^ 52
/-- A virtual address of a job. -/
def jaddr (job a : Nat) : Nat := 2 ^ 52 * job + vaddr a
/-- The address i bytes further on, modulo 2^52 in its job. -/
def jplus (a i : Nat) : Nat := jaddr (a / 2 ^ 52) (a + i)
/-- How many bytes an address lies beyond another of its job, modulo 2^52; 2^52 for addresses of different jobs. -/
def jminus (a b : Nat) : Nat := if a / 2 ^ 52 = b / 2 ^ 52 then vaddr (a + 2 ^ 52 - vaddr b) else 2 ^ 52

/-- The page of an address (R105), with its job's number above the virtual page number. -/
def pageOf (a : Nat) : Nat := a / 2 ^ 16

/-- The 64-byte lines that n bytes from an address touch. -/
def linesOf (a n : Nat) : List Nat := (blocks 64 (vaddr a) n).map fun l => 2 ^ 46 * (a / 2 ^ 52) + l % 2 ^ 46

/-- The parts of n bytes from an address that lie on one page each, as (address, size); `fuel` bounds their number. -/
def pageParts : Nat → Nat → Nat → List (Nat × Nat)
  | 0, _, _ => []
  | fuel + 1, a, n =>
    if n = 0 then []
    else
      let m := min n (2 ^ 16 - a % 2 ^ 16)
      (a, m) :: pageParts fuel (jplus a m) (n - m)

/-- All parts of n bytes from an address. -/
def partsOn (a n : Nat) : List (Nat × Nat) := pageParts (n / 2 ^ 16 + 2) a n

/-- The physical address of an address whose page has a frame. -/
def State.phys (s : State) (a : Nat) : Option Nat := (s.page (pageOf a)).frame.map fun f => 2 ^ 16 * f + a % 2 ^ 16

/-- The lowest frame that no page has; none when all frames are in use. -/
def State.freeFrame (s : State) : Option Nat :=
  (span 0 (min frameCount (s.pages.length + 1))).find? fun n => !s.pages.any fun e => e.2.frame == some n

/-- Dispatch firmware gives a page a frame, if it has none and one is free (R105; log entry 3). -/
def State.bringIn (s : State) (page : Nat) : State :=
  match (s.page page).frame with
  | some _ => s
  | none => s.modPage page fun p => { p with frame := s.freeFrame }

/-- n bytes of global memory from an address; a page that has no frame yet reads as zero. -/
def State.gRead (s : State) (a n : Nat) : Nat :=
  (partsOn a n).foldr (fun p v => (match s.phys p.1 with
    | some q => s.gmem.cells.read q p.2
    | none => 0) + 256 ^ p.2 * v) 0

/-- Write the bytes of a part of a page. -/
def State.gWritePart (s : State) (a n v : Nat) : State :=
  let t := s.bringIn (pageOf a)
  match t.phys a with
  | some q => { t with gmem := t.gmem.write 64 q n v }
  | none => t

/-- Write n bytes of global memory, neither logged nor held. -/
def State.gWriteRaw (s : State) (a n v : Nat) : State :=
  ((partsOn a n).foldl (fun (q : State × Nat) p => (q.1.gWritePart p.1 p.2 q.2, q.2 / 256 ^ p.2)) (s, v)).1

/-- Mark the words of global memory that n bytes from an address touch as poisoned (R421). -/
def State.gPoison (s : State) (a n : Nat) : State :=
  (partsOn a n).foldl (fun t p => match t.phys p.1 with
    | some q => { t with gmem := t.gmem.poison q p.2 }
    | none => t) s

/-- A test of the words of global memory that n bytes from an address touch. -/
def State.gMarked (s : State) (f : Mem → Nat → Nat → Bool) (a n : Nat) : Bool :=
  (partsOn a n).any fun p => match s.phys p.1 with
    | some q => f s.gmem q p.2
    | none => false

/-- A word that the bytes touch is poisoned; a word that they do not cover whole is. -/
def State.gPoisoned (s : State) (a n : Nat) : Bool := s.gMarked Mem.poisoned a n
def State.gPoisonedPart (s : State) (a n : Nat) : Bool := s.gMarked Mem.poisonedPart a n

/-! ### The fault mailbox (R420) -/

/-- Post a notice to a job's fault mailbox: a record at WCNT mod 2^FMLOGN and WCNT + 1, or LOST + 1 when it is full. The writes
are neither undo-logged nor held. -/
def State.notice (s : State) (job : Nat) (kind : Nat) (cause : BitVec 8) (id : Nat) (info : Word) : State :=
  match s.job job with
  | none => s
  | some j =>
    let base := jaddr job j.fmbox.toNat
    let wcnt := s.gRead base 8
    let rcnt := s.gRead (jplus base 8) 8
    if (wcnt + 2 ^ 64 - rcnt) % 2 ^ 64 = 2 ^ j.fmlogn then
      s.gWriteRaw (jplus base 16) 8 (s.gRead (jplus base 16) 8 + 1)
    else
      let at_ := jplus base (64 + 32 * (wcnt % 2 ^ j.fmlogn))
      let dw0 := id % 2 ^ 32 + 2 ^ 48 * cause.toNat + 2 ^ 56 * kind
      ((((s.gWriteRaw at_ 8 dw0).gWriteRaw (jplus at_ 8) 8 info.toNat).gWriteRaw (jplus at_ 16) 8 s.seals.split.toNat).gWriteRaw
        (jplus at_ 24) 8 s.mgmt.time.toNat).gWriteRaw base 8 (wcnt + 1)

/-- An address lies in the fault mailbox of its job, whose writes are neither undo-logged nor held (R420). -/
def State.inFmbox (s : State) (va : Nat) : Bool := s.jobs.any fun e => match e.2 with
  | none => false
  | some j => decide (jminus va (jaddr e.1 j.fmbox.toNat) < 64 + 32 * 2 ^ j.fmlogn)

/-! ### Reservations (R193, R194) -/

/-- A context's reservation is lost: it leaves its holder. -/
def State.loseResv (s : State) (c : CtxId) : State :=
  match (s.ctx c).resv with
  | none => s
  | some r =>
    let s1 := s.modCtx c fun x => { x with resv := none }
    match r.holder with
    | .bank core => s1.modCore core fun k => { k with resvs := k.resvs.filter fun q => q.ctx != c }
    | .home port => s1.modCluster port fun p => { p with resvs := p.resvs.filter fun q => q.ctx != c }

/-- Reservations of a holder whose granule a write of n bytes from an address touches are lost, but for the writer's own. -/
def State.breakResvs (s : State) (h : Holder) (a n : Nat) (writer : Option CtxId) : State :=
  let held := match h with
    | .bank core => (s.core core).resvs
    | .home port => (s.cluster port).resvs
  held.foldl (fun t r =>
    if (blocks 16 a n).contains (r.granule / 16) && writer != some r.ctx then t.loseResv r.ctx else t) s

/-- A new reservation of a context replaces its earlier one; a holder of 64 loses its oldest. -/
def State.reserve (s : State) (c : CtxId) (h : Holder) (a : Nat) : State :=
  let r : Resv := { ctx := c, holder := h, granule := a / 16 * 16 }
  let s1 := s.loseResv c
  let held := match h with
    | .bank core => (s1.core core).resvs
    | .home port => (s1.cluster port).resvs
  let s2 := if held.length < 64 then s1 else match held with
    | [] => s1
    | o :: _ => s1.loseResv o.ctx
  let s3 := match h with
    | .bank core => s2.modCore core fun k => { k with resvs := k.resvs ++ [r] }
    | .home port => s2.modCluster port fun p => { p with resvs := p.resvs ++ [r] }
  s3.modCtx c fun x => { x with resv := some r }

/-! ### Undo logs (R112, R116) -/

/-- Bytes that the entries of a die's undo region take: 144 for a line of S, 72 for a global line (log entry 8). -/
def undoBytes (l : List UndoEntry) : Nat := l.foldl (fun n e => n + if e.core.isSome then 144 else 72) 0

/-- A phase of a replica runs, or its digests have not been exchanged (R430, R431). -/
def State.replicaPhase (s : State) : Bool := s.jobs.any fun e => match e.2 with
  | none => false
  | some j => j.rep && !j.matched

/-- Request a seal (R115). While a replica phase runs, a request for capacity is served by a provisional seal, of which only one can
stand, and every other request waits for the phase's end (R431). -/
def State.requestSeal (s : State) (capacity : Bool) : State :=
  if s.replicaPhase && !(capacity && !s.seals.provisional) then { s with seals := { s.seals with deferred := true } }
  else { s with seals := { s.seals with requested := true } }

/-- A die's undo region that has reached 7/8 of its size requests a seal (R115). -/
def State.watchUndo (s : State) (die : Nat) : State :=
  if 7 * 2 ^ 30 ≤ 8 * undoBytes (s.die die).undo then s.requestSeal true else s

/-- Put an entry into a die's undo region of 1 GiB; none when it is full. -/
def State.logDie (s : State) (die : Nat) (e : UndoEntry) : Option State :=
  if undoBytes (s.die die).undo + (if e.core.isSome then 144 else 72) ≤ 2 ^ 30 then
    some ((s.modDie die fun d => { d with undo := e :: d.undo }).watchUndo die)
  else none

/-- The address of the next slot of a port's overflow ring, which lies above every job's addresses (log entry 8). -/
def State.ringAddr (s : State) (port : ClusterId) : Nat :=
  2 ^ 68 + 2 ^ 21 * (port / 2 ^ 13) + 32 * ((s.cluster port).ringAt % 65536)

/-- The port whose overflow ring holds an address; none for an address of a job. -/
def ringPort (a : Nat) : Option ClusterId := if 2 ^ 68 ≤ a then some (2 ^ 13 * ((a - 2 ^ 68) / 2 ^ 21)) else none

/-- The first write in the split to a line of a ring copies it to the undo region of the port's die (R112, R114, step 3). -/
def State.logRing (s : State) (port : ClusterId) : Option State :=
  let line := s.ringAddr port / 64
  if tget false s.gwritten line then some s
  else (s.logDie (dieOf port) { core := none, line := 64 * line, old := 0, fe := 0, tenancy := 0 }).map fun t =>
    { t with gwritten := tset false t.gwritten line true }

/-- An update enters the overflow ring of a port; none while the ring or the log is full. -/
def State.ringPut (s : State) (port : ClusterId) (u : Update) : Option State :=
  if 65536 ≤ (s.cluster port).ring.length then none
  else (s.logRing port).map fun t => t.modCluster port fun q => { q with ring := q.ring ++ [u], ringAt := q.ringAt + 1 }

/-- The full/empty bits of a 128-byte line of S. -/
def Core.feBits (k : Core) (line : Nat) : BitVec 8 :=
  BitVec.ofNat 8 ((span 0 8).foldl (fun n i => n + if tget false k.fe (8 * line + i) then 2 ^ i else 0) 0)

/-- The first write in the split to a line of S copies the line to the core's undo buffer, or to the die's undo region when the
buffer is full; none when that is full too. -/
def State.logS (s : State) (core : CoreId) (line : Nat) : Option State :=
  let k := s.core core
  if tget false k.written line then some s
  else
    let e : UndoEntry := { core := some core, line := 128 * line, old := k.s.cells.read (128 * line) 128, fe := k.feBits line,
                           tenancy := k.tenancy }
    let mark (t : State) : State := t.modCore core fun q => { q with written := tset false q.written line true }
    if k.undo.length < 112 then some (mark (s.modCore core fun q => { q with undo := e :: q.undo }))
    else (s.logDie (dieOf core) e).map mark

/-- Log every line of S that n bytes from an offset touch. -/
def State.logSRange (s : State) (core : CoreId) (off n : Nat) : Option State :=
  (blocks 128 off n).foldl (fun t l => t.bind fun u => u.logS core l) (some s)

/-- The first write in the split to a global line copies it to the undo region of the home's die; pages with the irrevocable
bit are not logged, nor is a fault mailbox (R420). -/
def State.logG (s : State) (line : Nat) : Option State :=
  let p := s.page (pageOf (64 * line))
  if p.irrevocable || tget false s.gwritten line || s.inFmbox (64 * line) then some s
  else
    let e : UndoEntry := { core := none, line := 64 * line, old := s.gRead (64 * line) 64, fe := 0, tenancy := 0 }
    (s.logDie (dieOf p.home) e).map fun t => { t with gwritten := tset false t.gwritten line true }

/-- Log every global line that n bytes from an address touch. -/
def State.logGRange (s : State) (va n : Nat) : Option State :=
  (linesOf va n).foldl (fun t l => t.bind fun u => u.logG l) (some s)

/-! ### Scratchpad writes (R92, R95, R112) -/

/-- Write n bytes of a core's S: logged, the write sequences advanced, other contexts' reservations broken. None when the log
has no room. -/
def State.writeS (s : State) (core : CoreId) (off n v : Nat) (writer : Option CtxId) : Option State :=
  (s.logSRange core off n).map fun t =>
    (t.modCore core fun k => { k with s := k.s.write 128 off n v }).breakResvs (.bank core) off n writer

/-- Set or clear the full/empty bits of the granules that n bytes from an offset touch; a change belongs to the split (R111). -/
def State.setFe (s : State) (core : CoreId) (off n : Nat) (full : Bool) : Option State :=
  (s.logSRange core off n).map fun t => t.modCore core fun k =>
    { k with fe := (blocks 16 off n).foldl (fun q g => tset false q g full) k.fe }

/-- Every granule that n bytes from an offset touch is full, or every one is empty. -/
def Core.allFe (k : Core) (off n : Nat) (full : Bool) : Bool := (blocks 16 off n).all fun g => tget false k.fe g == full

/-! ### Precise traps (R353 to R356) and the return (R182) -/

/-- cword0 to cword3 of the words of an instruction packet; words beyond its length read 0 (R355). -/
def cwordsOf (ws : List (BitVec 32)) : SMap (BitVec 32) :=
  (span 0 4).foldl (fun m i => tset 0 m i (ws.getD i 0)) []

/-- The trap CSRs of a context as a trap with these values writes them. -/
def Ctx.trapCsrs (x : Ctx) (cause : BitVec 8) (ceaddr cepc : Word) (words : List (BitVec 32)) : Ctx :=
  { x with cepc := cepc.extractLsb' 2 62, ctrap := cause, ceaddr := ceaddr, cword := cwordsOf words, kick := none }

/-- The context at its handler's first instruction (R353): handler level, pc = cvec, the loop buffer unpinned (R352). -/
def Ctx.enterHandler (x : Ctx) : Ctx :=
  { x with hl := true, pc := x.cvec ++ 0#2, run := .active, pinned := false, loopBuf := [] }

/-- The current context stops as HALT stops (R181, R356) and the notice goes to its job's fault mailbox. -/
def State.haltMe (s : State) (cause : BitVec 8) (double : Bool) : State :=
  (s.modMe fun x => { x with run := .halted }).notice s.me.row.job.toNat 1 cause s.cur (if double then 1 else 0)

/-- TAKE A PRECISE TRAP on the current context (R353): the trap CSRs, the reservation lost (R194), then the handler; at handler
level it is a double trap and the context halts (R356). -/
def State.trap (s : State) (cause : BitVec 8) (ceaddr cepc : Word) : State :=
  let s1 := (s.loseResv s.cur).modMe fun x => x.trapCsrs cause ceaddr cepc x.ir
  if s.me.hl then s1.haltMe cause true else s1.modMe Ctx.enterHandler

/-- Refuse the instruction: its trap, with cepc its own address (R369). -/
def State.refuse (s : State) (cause : BitVec 8) (ceaddr : Word) : Out := .next (s.trap cause ceaddr s.me.pc)

/-- TAKE AN IMPRECISE TRAP on a context at its boundary (R357): cepc is the pc, all four cwords read 0. -/
def State.trapImprecise (s : State) (c : CtxId) (cause : BitVec 8) (ceaddr : Word) : State :=
  (s.loseResv c).modCtx c fun x => (x.trapCsrs cause ceaddr x.pc []).enterHandler

/-- Record an imprecise trap; a pending DISCARDED_WRITE only advances its MORE field (R397). -/
def Ctx.pend (x : Ctx) (cause : BitVec 8) (ceaddr : Word) : Ctx :=
  if cause = causeDropped ∧ x.imprecise.any (fun p => p.cause == causeDropped) = true then
    { x with imprecise := x.imprecise.map fun p =>
        if p.cause = causeDropped then
          { p with ceaddr := if p.ceaddr.extractLsb' 52 11 = 0x7FF#11 then p.ceaddr else p.ceaddr + 0x0010000000000000#64 }
        else p }
  else { x with imprecise := x.imprecise ++ [{ cause := cause, ceaddr := ceaddr }] }

/-- RETURN FROM A TRAP (R182): pc := cepc, task level, the loop pinned again (R64); the skip rule of a breakpoint match is
armed (R366). -/
def Ctx.rte (x : Ctx) : Ctx :=
  ({ x.goto (x.cepc ++ 0#2) with hl := false, bpArmed := x.bps } : Ctx).repin

/-! ### Flags and FP exceptions (R136, R358) -/

/-- The flags that a context's cfemask and cmode.NLT enable. -/
def Ctx.enabled (x : Ctx) : Flags := (x.cfemask.setWidth 12) ||| (if x.nlt then 0x3E0#12 else 0#12)

/-- Raise flags in cstat. -/
def Ctx.raise (x : Ctx) (f : Flags) : Ctx := { x with cstat := x.cstat ||| f }

/-- The instruction ends with flags: an enabled one is an FP exception, whose flags enter cstat and whose destination is not
written (R358); otherwise the destination is written, the flags enter cstat and the context goes on. -/
def State.finish (s : State) (bytes : Nat) (flags : Flags) (f : Ctx → Ctx) : Out :=
  if flags &&& s.me.enabled = 0 then .next (s.done bytes fun x => (f x).raise flags)
  else .next ((s.modMe (·.raise flags)).trap causeFp (flags.setWidth 64) s.me.pc)

/-! ### Registers of an instruction without refusal -/

/-- Write a general register and go on. -/
def State.setG (s : State) (bytes : Nat) (d : GReg) (v : Word) : Out := .next (s.done bytes (·.writeG d v))

end Sys2Proof.Machine
end

