-- ==== Sys2Proof/Machine/Flags.lean ====
section
/-! DEFINITION. The cstat flags (R178) and the small arithmetic that every computation shares: sign extension, integers of a
width, rounding an exact quotient, and the rounded square root's integer part. -/

namespace Sys2Proof.Machine

/-! ### Flags at their cstat positions (R178) -/

def fNX : Flags := 0x001
def fUF : Flags := 0x002
def fOF : Flags := 0x004
def fDZ : Flags := 0x008
def fNV : Flags := 0x010
def fNSAT : Flags := 0x020
def fNINV : Flags := 0x040
def fLSAT : Flags := 0x080
def fLUF : Flags := 0x100
def fLINV : Flags := 0x200
def fDZR : Flags := 0x400
def fGRP : Flags := 0x800

/-- A flag when a condition holds. -/
def flagIf (b : Bool) (f : Flags) : Flags := if b then f else 0

/-! ### Words as numbers (R160) -/

/-- sx(x, n): the low n bits of a value, sign-extended to 64 bits. -/
def sx (n v : Nat) : Word :=
  let u := v % 2 ^ n
  BitVec.ofInt 64 (if u < 2 ^ (n - 1) then u else (u : Int) - 2 ^ n)

/-- zx(x, n). -/
def zx (n v : Nat) : Word := BitVec.ofNat 64 (v % 2 ^ n)

/-- The two's-complement value of the low n bits. -/
def signedOf (n v : Nat) : Int :=
  let u := v % 2 ^ n
  if u < 2 ^ (n - 1) then u else (u : Int) - 2 ^ n

/-- The low n bits of an integer, as a number. -/
def unsignedOf (n : Nat) (v : Int) : Nat := (v % (2 : Int) ^ n).toNat

/-- 1 or 0. -/
def bit (b : Bool) : Word := if b then 1 else 0

/-- Number of bits of a number: 0 for 0. -/
def bitLen (n : Nat) : Nat := if n = 0 then 0 else Nat.log2 n + 1

/-- Number of set bits among the low `w`. -/
def popCount : Nat → Nat → Nat
  | 0, _ => 0
  | w + 1, n => n % 2 + popCount w (n / 2)

/-- Number of trailing zero bits, at most `w`. -/
def trailingZeros : Nat → Nat → Nat
  | 0, _ => 0
  | w + 1, n => if n % 2 = 1 then 0 else 1 + trailingZeros w (n / 2)

/-- An exact quotient n / d rounded to the nearest integer, ties to even (R130). -/
def divHalfEven (n d : Int) : Int :=
  let q := n / d
  let r := n % d
  if 2 * r < d then q else if d < 2 * r then q + 1 else if q % 2 = 0 then q else q + 1

/-- The integer part of the square root, from `fuel` pairs of bits. -/
def isqrtFuel : Nat → Nat → Nat
  | 0, _ => 0
  | b + 1, n =>
    let r := 2 * isqrtFuel b (n / 4)
    if (r + 1) * (r + 1) ≤ n then r + 1 else r

/-- The integer part of the square root. -/
def isqrt (n : Nat) : Nat := isqrtFuel (bitLen n / 2 + 1) n

/-- The fixed pairwise tree of R87 over a list of contributions: neighbours are combined, an odd last one passes up. -/
def pairUp {α : Type} (f : α → α → α) : List α → List α
  | a :: b :: r => f a b :: pairUp f r
  | l => l

/-- The value of the R87 tree, with enough levels of fuel. -/
def treeFuel {α : Type} (f : α → α → α) (none_ : α) : Nat → List α → α
  | _, [] => none_
  | _, [a] => a
  | 0, a :: _ => a
  | n + 1, l => treeFuel f none_ n (pairUp f l)

/-- The R87 tree over the contributions, or the identity when there is none. -/
def tree {α : Type} (f : α → α → α) (none_ : α) (l : List α) : α := treeFuel f none_ l.length l

end Sys2Proof.Machine
end

