-- ==== Sys2Proof/Machine/Ieee.lean ====
section
/-! DEFINITION. IEEE arithmetic on FP32, FP16 and BF16 (R134, R135): operands become exact numbers, a result is computed exactly
and rounded once, to nearest with ties to even, tininess detected after rounding. -/

namespace Sys2Proof.Machine

/-- A format: exponent bits and fraction bits. -/
structure FFmt where
  eb : Nat
  mb : Nat
  deriving DecidableEq, Repr

def f32 : FFmt := ⟨8, 23⟩
def f16 : FFmt := ⟨5, 10⟩
def bf16 : FFmt := ⟨8, 7⟩

/-- Bits of a format. -/
def FFmt.width (t : FFmt) : Nat := 1 + t.eb + t.mb
def FFmt.bias (t : FFmt) : Int := 2 ^ (t.eb - 1) - 1
/-- Exponent of the smallest normal number. -/
def FFmt.emin (t : FFmt) : Int := 1 - t.bias
/-- The exponent field of ±Inf and NaN. -/
def FFmt.top (t : FFmt) : Nat := 2 ^ t.eb - 1
def FFmt.inf (t : FFmt) (neg : Bool) : Nat := t.top * 2 ^ t.mb + neg.toNat * 2 ^ (t.eb + t.mb)
/-- The default quiet NaN (R134). -/
def FFmt.nan (t : FFmt) : Nat := t.top * 2 ^ t.mb + 2 ^ (t.mb - 1)
def FFmt.zero (t : FFmt) (neg : Bool) : Nat := neg.toNat * 2 ^ (t.eb + t.mb)
/-- The largest finite magnitude with a sign. -/
def FFmt.maxFin (t : FFmt) (neg : Bool) : Nat := t.inf neg - 1

/-- A value: a NaN, an infinity, or the exact number ±m·2^e. -/
inductive FVal where
  | nan (signalling : Bool)
  | inf (neg : Bool)
  | fin (neg : Bool) (m : Nat) (e : Int)
  deriving DecidableEq, Repr

/-- The value of a bit pattern. -/
def FFmt.value (t : FFmt) (bits : Nat) : FVal :=
  let neg := decide (bits / 2 ^ (t.eb + t.mb) % 2 = 1)
  let x := bits / 2 ^ t.mb % 2 ^ t.eb
  let y := bits % 2 ^ t.mb
  if x = t.top then
    if y = 0 then .inf neg else .nan (decide (y < 2 ^ (t.mb - 1)))
  else if x = 0 then .fin neg y (t.emin - t.mb)
  else .fin neg (2 ^ t.mb + y) ((x : Int) - t.bias - t.mb)

def FVal.isNan : FVal → Bool
  | .nan _ => true
  | .inf _ | .fin _ _ _ => false
def FVal.isSig : FVal → Bool
  | .nan s => s
  | .inf _ | .fin _ _ _ => false
def FVal.isZero : FVal → Bool
  | .fin _ m _ => m == 0
  | .nan _ | .inf _ => false
def FVal.neg : FVal → Bool
  | .inf s | .fin s _ _ => s
  | .nan _ => false
def FVal.negate : FVal → FVal
  | .nan s => .nan s
  | .inf s => .inf !s
  | .fin s m e => .fin (!s) m e

/-- n · 2^(e − q) rounded to the nearest integer, ties to even, and whether it was inexact; `sticky` says that the exact value
lies a little above n · 2^e. -/
def roundAt (n : Nat) (e q : Int) (sticky : Bool) : Nat × Bool :=
  if q ≤ e then (n * 2 ^ (e - q).toNat, sticky)
  else
    let sh := (q - e).toNat
    let m := n / 2 ^ sh
    let r := n % 2 ^ sh
    let up := decide (2 ^ sh < 2 * r) || (decide (2 * r = 2 ^ sh) && (sticky || m % 2 == 1))
    (if up then m + 1 else m, decide (r ≠ 0) || sticky)

/-- Round the exact magnitude n · 2^e (a little more when `sticky`) with a sign: the bits and the flags OF, UF, NX. An exact
zero keeps its sign. -/
def FFmt.round (t : FFmt) (neg : Bool) (n : Nat) (e : Int) (sticky : Bool) : Nat × Flags :=
  if n = 0 then (t.zero neg, flagIf sticky (fNX ||| fUF))
  else
    let ex : Int := (bitLen n : Int) - 1 + e
    let q := max (ex - t.mb) (t.emin - t.mb)
    let (m, inexact) := roundAt n e q sticky
    let (m', _) := roundAt n e (ex - t.mb) sticky
    let tiny := decide ((bitLen m' : Int) - 1 + (ex - t.mb) < t.emin)
    let field : Int := (bitLen m : Int) - 1 + q + t.bias
    if (t.top : Int) ≤ field then (t.inf neg, fOF ||| fNX)
    else
      let mag := if m < 2 ^ t.mb then m
        else if m = 2 ^ (t.mb + 1) then field.toNat * 2 ^ t.mb
        else field.toNat * 2 ^ t.mb + (m - 2 ^ t.mb)
      (t.zero neg + mag, flagIf inexact fNX ||| flagIf (tiny && inexact) fUF)

/-- RoundF32, RoundF16 or RoundBF16 of a signed exact number s · 2^e; an exact zero is +0. -/
def FFmt.roundInt (t : FFmt) (s : Int) (e : Int) : Nat × Flags := t.round (decide (s < 0)) s.natAbs e false

/-- The default NaN with NV when an operand is a signalling NaN, or with the given flags. -/
def FFmt.nanOf (t : FFmt) (ops : List FVal) : Nat × Flags := (t.nan, flagIf (ops.any FVal.isSig) fNV)

/-- The invalid operation: default NaN and NV. -/
def FFmt.invalid (t : FFmt) : Nat × Flags := (t.nan, fNV)

/-- The exact sum of two finite numbers as an integer times a power of two. -/
def exactSum (s1 : Bool) (m1 : Nat) (e1 : Int) (s2 : Bool) (m2 : Nat) (e2 : Int) : Int × Int :=
  let e := min e1 e2
  let v1 : Int := (m1 * 2 ^ (e1 - e).toNat : Nat)
  let v2 : Int := (m2 * 2 ^ (e2 - e).toNat : Nat)
  ((if s1 then -v1 else v1) + (if s2 then -v2 else v2), e)

/-- x + y of values, rounded once. -/
def FFmt.addV (t : FFmt) (x y : FVal) : Nat × Flags :=
  match x, y with
  | .nan _, _ | _, .nan _ => t.nanOf [x, y]
  | .inf s, .inf s' => if s = s' then (t.inf s, 0) else t.invalid
  | .inf s, .fin _ _ _ => (t.inf s, 0)
  | .fin _ _ _, .inf s => (t.inf s, 0)
  | .fin s1 m1 e1, .fin s2 m2 e2 =>
    if m1 = 0 ∧ m2 = 0 then (t.zero (s1 && s2), 0)
    else
      let (v, e) := exactSum s1 m1 e1 s2 m2 e2
      t.roundInt v e

/-- x × y of values, rounded once. -/
def FFmt.mulV (t : FFmt) (x y : FVal) : Nat × Flags :=
  match x, y with
  | .nan _, _ | _, .nan _ => t.nanOf [x, y]
  | .inf s, .inf s' => (t.inf (s != s'), 0)
  | .inf s, .fin s' m _ => if m = 0 then t.invalid else (t.inf (s != s'), 0)
  | .fin s m _, .inf s' => if m = 0 then t.invalid else (t.inf (s != s'), 0)
  | .fin s1 m1 e1, .fin s2 m2 e2 => t.round (s1 != s2) (m1 * m2) (e1 + e2) false

/-- x × y + z of values, rounded once; 0 × ±Inf is invalid whatever the addend (R134). -/
def FFmt.fmaV (t : FFmt) (x y z : FVal) : Nat × Flags :=
  let badProduct := match x, y with
    | .inf _, .fin _ m _ => m == 0
    | .fin _ m _, .inf _ => m == 0
    | _, _ => false
  if badProduct then t.invalid
  else if x.isNan || y.isNan || z.isNan then t.nanOf [x, y, z]
  else
    let ps := x.neg != y.neg
    match x, y, z with
    | .inf _, _, .inf s | _, .inf _, .inf s => if ps = s then (t.inf s, 0) else t.invalid
    | .inf _, _, _ | _, .inf _, _ => (t.inf ps, 0)
    | _, _, .inf s => (t.inf s, 0)
    | .fin _ m1 e1, .fin _ m2 e2, .fin s3 m3 e3 =>
      if m1 * m2 = 0 ∧ m3 = 0 then (t.zero (ps && s3), 0)
      else
        let (v, e) := exactSum ps (m1 * m2) (e1 + e2) s3 m3 e3
        t.roundInt v e
    | _, _, _ => t.invalid

/-- x / y of values, correctly rounded (R135). -/
def FFmt.divV (t : FFmt) (x y : FVal) : Nat × Flags :=
  match x, y with
  | .nan _, _ | _, .nan _ => t.nanOf [x, y]
  | .inf _, .inf _ => t.invalid
  | .inf s, .fin s' _ _ => (t.inf (s != s'), 0)
  | .fin s _ _, .inf s' => (t.zero (s != s'), 0)
  | .fin s1 m1 e1, .fin s2 m2 e2 =>
    if m2 = 0 then
      if m1 = 0 then t.invalid else (t.inf (s1 != s2), fDZ)
    else if m1 = 0 then (t.zero (s1 != s2), 0)
    else
      let k := bitLen m2 + t.mb + 4
      let n := m1 * 2 ^ k
      t.round (s1 != s2) (n / m2) (e1 - e2 - k) (decide (n % m2 ≠ 0))

/-- The square root of a value, correctly rounded; −0 gives −0 (R168). -/
def FFmt.sqrtV (t : FFmt) (x : FVal) : Nat × Flags :=
  match x with
  | .nan _ => t.nanOf [x]
  | .inf s => if s then t.invalid else (t.inf false, 0)
  | .fin s m e =>
    if m = 0 then (t.zero s, 0)
    else if s then t.invalid
    else
      let k : Nat := 2 * (t.mb + 4) + (e % 2).toNat
      let n := m * 2 ^ k
      let r := isqrt n
      t.round false r ((e - k) / 2) (decide (r * r ≠ n))

/-- 1/√x of a value, correctly rounded (R221). -/
def FFmt.rsqV (t : FFmt) (x : FVal) : Nat × Flags :=
  match x with
  | .nan _ => t.nanOf [x]
  | .inf s => if s then t.invalid else (t.zero false, 0)
  | .fin s m e =>
    if m = 0 then (t.inf s, fDZ)
    else if s then t.invalid
    else
      let m1 := if e % 2 = 0 then m else 2 * m
      let e1 := if e % 2 = 0 then e else e - 1
      let k := bitLen m1 + 2 * (t.mb + 4)
      let n := 2 ^ (2 * k) / m1
      let r := isqrt n
      t.round false r (-(e1 / 2) - k) (decide (r * r * m1 ≠ 2 ^ (2 * k)))

/-! ### 2^x and log₂ x (R221)

Each is computed to 2^−256 by a series of rational terms and rounded once; a value that is not exact is taken as lying a little
above its truncation to 200 bits (log entry 9). -/

/-- Fixed-point one. -/
def fixOne : Nat := 2 ^ 256

/-- ln 2 in fixed point: the sum of 1 / (k · 2^k). -/
def fixLn2 : Nat := (span 1 270).foldl (fun a k => a + fixOne / (k * 2 ^ k)) 0

/-- exp of a fixed-point number below one, by its Taylor series with `n` terms: (sum, last term). -/
def fixExp (y : Nat) : Nat := ((span 1 70).foldl (fun (a : Nat × Nat) k =>
  let term := a.2 * y / fixOne / k
  (a.1 + term, term)) (fixOne, fixOne)).1

/-- 2 · atanh of a fixed-point number of at most one third. -/
def fixAtanh2 (z : Nat) : Nat := 2 * ((span 0 90).foldl (fun (a : Nat × Nat) k =>
  (a.1 + a.2 / (2 * k + 1), a.2 * z / fixOne * z / fixOne)) (0, z)).1

/-- 2^x of a value. -/
def FFmt.exp2V (t : FFmt) (x : FVal) : Nat × Flags :=
  match x with
  | .nan _ => t.nanOf [x]
  | .inf s => if s then (t.zero false, 0) else (t.inf false, 0)
  | .fin s m e =>
    if m = 0 then t.round false 1 0 false
    else if 10 ≤ (bitLen m : Int) + e then
      if s then t.round false 1 (-600) true else t.round false 1 600 true
    else
      let den : Nat := 2 ^ (-e).toNat
      let v : Int := if s then -((m * 2 ^ e.toNat : Nat) : Int) else (m * 2 ^ e.toNat : Nat)
      let k : Int := v / (den : Int)
      let fr : Nat := (v % (den : Int)).toNat
      if fr = 0 then t.round false 1 k false
      else t.round false (fixExp (fr * fixOne / den * fixLn2 / fixOne) / 2 ^ 56) (k - 200) true

/-- log₂ of a value; log₂ 1 is +0. -/
def FFmt.log2V (t : FFmt) (x : FVal) : Nat × Flags :=
  match x with
  | .nan _ => t.nanOf [x]
  | .inf s => if s then t.invalid else (t.inf false, 0)
  | .fin s m e =>
    if m = 0 then (t.inf true, fDZ)
    else if s then t.invalid
    else
      let k : Int := (bitLen m : Int) - 1 + e
      let top := 2 ^ (bitLen m - 1)
      if m = top then t.roundInt k 0
      else
        let z := (m - top) * fixOne / (m + top)
        let v : Int := k * fixOne + (fixAtanh2 z * fixOne / fixLn2 : Nat)
        let a := v.natAbs / 2 ^ 40
        t.round (decide (v < 0)) a (-216) true

/-! ### Operations on bit patterns -/

def FFmt.add (t : FFmt) (a b : Nat) : Nat × Flags := t.addV (t.value a) (t.value b)
def FFmt.sub (t : FFmt) (a b : Nat) : Nat × Flags := t.addV (t.value a) (t.value b).negate
def FFmt.mul (t : FFmt) (a b : Nat) : Nat × Flags := t.mulV (t.value a) (t.value b)
def FFmt.fma (t : FFmt) (a b c : Nat) : Nat × Flags := t.fmaV (t.value a) (t.value b) (t.value c)
def FFmt.div (t : FFmt) (a b : Nat) : Nat × Flags := t.divV (t.value a) (t.value b)
def FFmt.sqrt (t : FFmt) (a : Nat) : Nat × Flags := t.sqrtV (t.value a)
/-- VRCP: ±0 gives ±Inf with DZ (R221). -/
def FFmt.rcp (t : FFmt) (a : Nat) : Nat × Flags := t.divV (.fin false 1 0) (t.value a)
def FFmt.rsq (t : FFmt) (a : Nat) : Nat × Flags := t.rsqV (t.value a)
def FFmt.exp2 (t : FFmt) (a : Nat) : Nat × Flags := t.exp2V (t.value a)
def FFmt.log2 (t : FFmt) (a : Nat) : Nat × Flags := t.log2V (t.value a)

/-- x < y of values that are no NaN; +0 equals −0. -/
def FVal.lt (x y : FVal) : Bool :=
  match x, y with
  | .nan _, _ | _, .nan _ => false
  | .inf s, .inf s' => s && !s'
  | .inf s, .fin _ _ _ => s
  | .fin _ _ _, .inf s => !s
  | .fin s1 m1 e1, .fin s2 m2 e2 => decide ((exactSum s1 m1 e1 (!s2) m2 e2).1 < 0)

/-- x = y of values that are no NaN. -/
def FVal.eq (x y : FVal) : Bool := !x.isNan && !y.isNan && !x.lt y && !y.lt x

/-- FMIN and FMAX (R170): the smaller or larger operand, −0 below +0; a NaN gives way to the other operand. -/
def FFmt.minMax (t : FFmt) (wantMax : Bool) (a b : Nat) : Nat × Flags :=
  let x := t.value a
  let y := t.value b
  let fl := flagIf (x.isSig || y.isSig) fNV
  if x.isNan && y.isNan then (t.nan, fl)
  else if x.isNan then (b, fl)
  else if y.isNan then (a, fl)
  else
    let less := x.lt y || (x.eq y && x.neg && !y.neg)
    (if less != wantMax then a else b, fl)

/-- Equality: NV only for a signalling NaN (R170). -/
def FFmt.cmpEq (t : FFmt) (a b : Nat) : Bool × Flags :=
  let x := t.value a
  let y := t.value b
  (x.eq y, flagIf (x.isSig || y.isSig) fNV)

/-- Less than, or less or equal: NV for any NaN (R170). -/
def FFmt.cmpLt (t : FFmt) (orEq : Bool) (a b : Nat) : Bool × Flags :=
  let x := t.value a
  let y := t.value b
  (x.lt y || (orEq && x.eq y), flagIf (x.isNan || y.isNan) fNV)

/-- FCLASS (R170). -/
def FFmt.classOf (t : FFmt) (a : Nat) : Nat :=
  match t.value a with
  | .nan s => if s then 2 ^ 8 else 2 ^ 9
  | .inf s => if s then 2 ^ 0 else 2 ^ 7
  | .fin s m _ =>
    if m = 0 then (if s then 2 ^ 3 else 2 ^ 4)
    else if m < 2 ^ t.mb then (if s then 2 ^ 2 else 2 ^ 5)
    else (if s then 2 ^ 1 else 2 ^ 6)

/-- A value rounded half even to an integer and clamped to lo … hi (R169): the integer, NV and NX. -/
def FVal.toInt (x : FVal) (lo hi : Int) : Int × Flags :=
  match x with
  | .nan _ => (0, fNV)
  | .inf s => (if s then lo else hi, fNV)
  | .fin s m e =>
    let (r, inexact) := roundAt m e 0 false
    let v : Int := if s then -(r : Int) else r
    if v < lo then (lo, fNV) else if hi < v then (hi, fNV) else (v, flagIf inexact fNX)

/-- The value rounded into a format: widening is exact, narrowing rounds once, a NaN gives the default NaN (R135, R222). -/
def FFmt.ofVal (t : FFmt) (x : FVal) : Nat × Flags :=
  match x with
  | .nan s => (t.nan, flagIf s fNV)
  | .inf s => (t.inf s, 0)
  | .fin s m e => t.round s m e false

/-- FP16 or BF16 bits widened exactly to FP32 (R135). -/
def widen32 (t : FFmt) (a : Nat) : Nat := (f32.ofVal (t.value a)).1

end Sys2Proof.Machine
end

