-- ==== Sys2Proof/Machine/Scalar.lean ====
section
/-! DEFINITION. Integer instructions: ALU.R, ALU.I, LIL, LPC, MUL, DIV, IDRD (R161 to R166, R184). Each reads its sources, writes
g[d] and goes on after its words; none sets a flag. -/

namespace Sys2Proof.Machine

/-- Write g[d] from g[a] and g[b] and go on after 8 bytes. -/
def State.alu2 (s : State) (d a b : GReg) (f : Word → Word → Word) : Out := s.setG 8 d (f (s.me.readG a) (s.me.readG b))

/-- Write g[d] from g[a] and go on after 8 bytes. -/
def State.alu1 (s : State) (d a : GReg) (f : Word → Word) : Out := s.setG 8 d (f (s.me.readG a))

/-- A shift amount: bits 5:0 (R161). -/
def shiftOf (x : Word) : Nat := x.toNat % 64

/-- The sign-extended 20-bit immediate i (R162). -/
def immOf (imm : BitVec 20) : Word := imm.signExtend 64

/-! ### ALU.R (R161) -/

def execAdd (d a b : GReg) (s : State) : Out := s.alu2 d a b fun x y => x + y
def execSub (d a b : GReg) (s : State) : Out := s.alu2 d a b fun x y => x - y
def execIand (d a b : GReg) (s : State) : Out := s.alu2 d a b fun x y => x &&& y
def execIor (d a b : GReg) (s : State) : Out := s.alu2 d a b fun x y => x ||| y
def execIxor (d a b : GReg) (s : State) : Out := s.alu2 d a b fun x y => x ^^^ y
def execShl (d a b : GReg) (s : State) : Out := s.alu2 d a b fun x y => x <<< shiftOf y
def execShr (d a b : GReg) (s : State) : Out := s.alu2 d a b fun x y => x >>> shiftOf y
def execSra (d a b : GReg) (s : State) : Out := s.alu2 d a b fun x y => x.sshiftRight (shiftOf y)
def execRol (d a b : GReg) (s : State) : Out := s.alu2 d a b fun x y => x.rotateLeft (shiftOf y)
def execMin (d a b : GReg) (s : State) : Out := s.alu2 d a b fun x y => if x.toInt ≤ y.toInt then x else y
def execMax (d a b : GReg) (s : State) : Out := s.alu2 d a b fun x y => if x.toInt ≤ y.toInt then y else x
def execMinn (d a b : GReg) (s : State) : Out := s.alu2 d a b fun x y => if x.toNat ≤ y.toNat then x else y
def execMaxn (d a b : GReg) (s : State) : Out := s.alu2 d a b fun x y => if x.toNat ≤ y.toNat then y else x
def execSlt (d a b : GReg) (s : State) : Out := s.alu2 d a b fun x y => bit (decide (x.toInt < y.toInt))
def execSltn (d a b : GReg) (s : State) : Out := s.alu2 d a b fun x y => bit (decide (x.toNat < y.toNat))
def execSeq (d a b : GReg) (s : State) : Out := s.alu2 d a b fun x y => bit (decide (x = y))
def execSne (d a b : GReg) (s : State) : Out := s.alu2 d a b fun x y => bit (decide (x ≠ y))
def execAddw (d a b : GReg) (s : State) : Out := s.alu2 d a b fun x y => sx 32 (x + y).toNat
def execSubw (d a b : GReg) (s : State) : Out := s.alu2 d a b fun x y => sx 32 (x - y).toNat
def execSel (d a b c : GReg) (s : State) : Out := s.alu2 d a b fun x y => if s.me.readG c ≠ 0 then x else y
def execClz (d a : GReg) (s : State) : Out := s.alu1 d a fun x => BitVec.ofNat 64 (64 - bitLen x.toNat)
def execCtz (d a : GReg) (s : State) : Out := s.alu1 d a fun x => BitVec.ofNat 64 (trailingZeros 64 x.toNat)
def execPopc (d a : GReg) (s : State) : Out := s.alu1 d a fun x => BitVec.ofNat 64 (popCount 64 x.toNat)
def execAbs (d a : GReg) (s : State) : Out := s.alu1 d a fun x => BitVec.ofInt 64 x.toInt.natAbs

/-- The width of an element type in bits (R213, R223). -/
def ElemTy.width : ElemTy → Nat
  | .i8 | .n8 | .l8a | .l8b => 8
  | .i16 | .n16 | .f16 | .bf16 => 16
  | .i32 | .n32 | .f32 => 32
  | .i64 | .n64 => 64
  | .l4 => 4

def execSext (ty : ElemTy) (d a : GReg) (s : State) : Out := s.alu1 d a fun x => sx (ElemTy.width ty) x.toNat
def execZext (ty : ElemTy) (d a : GReg) (s : State) : Out := s.alu1 d a fun x => zx (ElemTy.width ty) x.toNat

/-! ### ALU.I (R162, R163) -/

def execAddi (d a : GReg) (imm : BitVec 20) (s : State) : Out := s.alu1 d a fun x => x + immOf imm
def execAndi (d a : GReg) (imm : BitVec 20) (s : State) : Out := s.alu1 d a fun x => x &&& immOf imm
def execOri (d a : GReg) (imm : BitVec 20) (s : State) : Out := s.alu1 d a fun x => x ||| immOf imm
def execXori (d a : GReg) (imm : BitVec 20) (s : State) : Out := s.alu1 d a fun x => x ^^^ immOf imm
def execShli (d a : GReg) (sh : BitVec 6) (s : State) : Out := s.alu1 d a fun x => x <<< sh.toNat
def execShri (d a : GReg) (sh : BitVec 6) (s : State) : Out := s.alu1 d a fun x => x >>> sh.toNat
def execSrai (d a : GReg) (sh : BitVec 6) (s : State) : Out := s.alu1 d a fun x => x.sshiftRight sh.toNat
def execRoli (d a : GReg) (sh : BitVec 6) (s : State) : Out := s.alu1 d a fun x => x.rotateLeft sh.toNat
def execSlti (d a : GReg) (imm : BitVec 20) (s : State) : Out := s.alu1 d a fun x => bit (decide (x.toInt < imm.toInt))
def execLi (d : GReg) (imm : BitVec 20) (s : State) : Out := s.setG 8 d (immOf imm)

/-- BFX: the w1 + 1 bits of g[a] from pos on, zero-extended. -/
def execBfx (d a : GReg) (pos w1 : BitVec 6) (s : State) : Out :=
  s.alu1 d a fun x => zx (w1.toNat + 1) (x.toNat / 2 ^ pos.toNat)

/-- BFI: the low w1 + 1 bits of g[a] replace those of g[d] from pos on. -/
def execBfi (d a : GReg) (pos w1 : BitVec 6) (s : State) : Out :=
  s.alu2 d d a fun old x =>
    let mask : Word := BitVec.ofNat 64 ((2 ^ (w1.toNat + 1) - 1) * 2 ^ pos.toNat)
    (old &&& ~~~mask) ||| ((x <<< pos.toNat) &&& mask)

/-! ### LIL, LPC, IDRD (R164, R184) -/

def execLil (d : GReg) (imm : BitVec 64) (s : State) : Out := s.setG 16 d imm

def execLpc (d : GReg) (disp : BitVec 32) (s : State) : Out := s.setG 12 d (targetOf s.me.pc disp)

def execIdrd (d : GReg) (s : State) : Out := s.setG 8 d (zx 32 s.cur)

/-! ### MUL (R165) -/

def execMul (d a b : GReg) (s : State) : Out := s.alu2 d a b fun x y => x * y
def execMulh (d a b : GReg) (s : State) : Out := s.alu2 d a b fun x y => BitVec.ofInt 64 (x.toInt * y.toInt / 2 ^ 64)
def execMulhn (d a b : GReg) (s : State) : Out := s.alu2 d a b fun x y => BitVec.ofNat 64 (x.toNat * y.toNat / 2 ^ 64)
def execMulw (d a b : GReg) (s : State) : Out := s.alu2 d a b fun x y => sx 32 (x.toNat * y.toNat)
def execMad (d a b c : GReg) (s : State) : Out := s.alu2 d a b fun x y => x * y + s.me.readG c

/-! ### DIV (R166); a zero divisor is refused with INT_DIVIDE_ZERO and the dividend (R369, R374) -/

/-- A division of g[a] by g[b]. -/
def State.division (s : State) (d a b : GReg) (f : Word → Word → Word) : Out :=
  if s.me.readG b = 0 then s.refuse causeDivide (s.me.readG a) else s.alu2 d a b f

def execDiv (d a b : GReg) (s : State) : Out := s.division d a b fun x y => BitVec.ofInt 64 (x.toInt.tdiv y.toInt)
def execDivn (d a b : GReg) (s : State) : Out := s.division d a b fun x y => BitVec.ofNat 64 (x.toNat / y.toNat)
def execRem (d a b : GReg) (s : State) : Out :=
  s.division d a b fun x y => BitVec.ofInt 64 (x.toInt - y.toInt * x.toInt.tdiv y.toInt)
def execRemn (d a b : GReg) (s : State) : Out := s.division d a b fun x y => BitVec.ofNat 64 (x.toNat % y.toNat)

end Sys2Proof.Machine
end

