-- ==== Sys2Proof/Machine/Float.lean ====
section
/-! DEFINITION. Scalar FP32 instructions (R167 to R170): operands from bits 31:0, the result in g[d][31:0] with bits 63:32
clear, the flags raised or an enabled one trapping (R358). -/

namespace Sys2Proof.Machine

/-- f(x): the FP32 bits of a register. -/
def fbits (x : Word) : Nat := x.toNat % 2 ^ 32

/-- Write an FP result with its flags. -/
def State.fresult (s : State) (d : GReg) (r : Nat × Flags) : Out := s.finish 8 r.2 (·.writeG d (zx 32 r.1))

/-- An FP32 operation on g[a] and g[b]. -/
def State.fop2 (s : State) (d a b : GReg) (f : Nat → Nat → Nat × Flags) : Out :=
  s.fresult d (f (fbits (s.me.readG a)) (fbits (s.me.readG b)))

/-- A comparison result, 1 or 0, with its flags. -/
def fbool (r : Bool × Flags) : Nat × Flags := (r.1.toNat, r.2)

def execFadd (d a b : GReg) (s : State) : Out := s.fop2 d a b f32.add
def execFsub (d a b : GReg) (s : State) : Out := s.fop2 d a b f32.sub
def execFmul (d a b : GReg) (s : State) : Out := s.fop2 d a b f32.mul
def execFfma (d a b c : GReg) (s : State) : Out := s.fop2 d a b fun x y => f32.fma x y (fbits (s.me.readG c))
def execFmin (d a b : GReg) (s : State) : Out := s.fop2 d a b (f32.minMax false)
def execFmax (d a b : GReg) (s : State) : Out := s.fop2 d a b (f32.minMax true)
def execFeq (d a b : GReg) (s : State) : Out := s.fop2 d a b fun x y => fbool (f32.cmpEq x y)
def execFlt (d a b : GReg) (s : State) : Out := s.fop2 d a b fun x y => fbool (f32.cmpLt false x y)
def execFle (d a b : GReg) (s : State) : Out := s.fop2 d a b fun x y => fbool (f32.cmpLt true x y)
def execFclass (d a : GReg) (s : State) : Out := s.alu1 d a fun x => BitVec.ofNat 64 (f32.classOf (fbits x))
def execFdiv (d a b : GReg) (s : State) : Out := s.fop2 d a b f32.div
def execFsqrt (d a : GReg) (s : State) : Out := s.fresult d (f32.sqrt (fbits (s.me.readG a)))

/-- An integer type is signed (R153). -/
def ElemTy.signed : ElemTy → Bool
  | .i8 | .i16 | .i32 | .i64 => true
  | .n8 | .n16 | .n32 | .n64 | .f32 | .f16 | .bf16 | .l8a | .l8b | .l4 => false

/-- The range of an integer type. -/
def ElemTy.lo (t : ElemTy) : Int := if ElemTy.signed t then -(2 ^ (ElemTy.width t - 1)) else 0
def ElemTy.hi (t : ElemTy) : Int := if ElemTy.signed t then 2 ^ (ElemTy.width t - 1) - 1 else 2 ^ ElemTy.width t - 1

/-- The integer of the low bits of a value in an integer type. -/
def ElemTy.intOf (t : ElemTy) (v : Nat) : Int :=
  if ElemTy.signed t then signedOf (ElemTy.width t) v else (v % 2 ^ ElemTy.width t : Nat)

/-- The low bits of a value in a type, extended into a g register: sign-extended for .i types, zero-extended otherwise. -/
def ElemTy.extend (t : ElemTy) (v : Nat) : Word :=
  if ElemTy.signed t then sx (ElemTy.width t) v else zx (ElemTy.width t) v

/-- FCVTI (R169). -/
def execFcvti (ty : ElemTy) (d a : GReg) (s : State) : Out :=
  let r := (f32.value (fbits (s.me.readG a))).toInt (ElemTy.lo ty) (ElemTy.hi ty)
  s.finish 8 r.2 (·.writeG d (ElemTy.extend ty (unsignedOf 64 r.1)))

/-- FCVTF (R169). -/
def execFcvtf (ty : ElemTy) (d a : GReg) (s : State) : Out :=
  s.fresult d (f32.roundInt (ElemTy.intOf ty (s.me.readG a).toNat) 0)

end Sys2Proof.Machine
end

