-- ==== Sys2Proof/Machine/LogNum.lean ====
section
/-! DEFINITION. The narrow linear and the log formats, their scale bases, the tables T and D, conversions, products and the
accumulation of a tile element (R119 to R133). -/

namespace Sys2Proof.Machine

/-- T[f] (R128). -/
def tableT : List Nat :=
  [8388608, 8572295, 8760003, 8951823, 9147842, 9348154, 9552851, 9762032,
   9975792, 10194234, 10417458, 10645571, 10878679, 11116891, 11360319, 11609078,
   11863283, 12123055, 12388516, 12659789, 12937002, 13220286, 13509772, 13805598,
   14107901, 14416824, 14732511, 15055111, 15384775, 15721658, 16065917, 16417715]

/-- D[f] (R128). -/
def tableD : List Nat :=
  [8479954, 8665641, 8855394, 9049301, 9247455, 9449948, 9656875, 9868333,
   10084422, 10305242, 10530897, 10761494, 10997140, 11237946, 11484025, 11735492,
   11992466, 12255067, 12523418, 12797645, 13077877, 13364245, 13656884, 13955931,
   14261526, 14573813, 14892937, 15219050, 15552304, 15892855, 16240863, 16596492]

def tT (f : Nat) : Nat := tableT.getD f 0
def tD (f : Nat) : Nat := tableD.getD f 0

/-- A narrow linear format (R119, R121). -/
structure NarrowFmt where
  s : Bool
  eb : Nat
  mb : Nat
  bias : Int
  extra : Nat
  deriving DecidableEq, Repr

/-- A log format (R119, R126). -/
structure LogFmt where
  s : Bool
  w : Nat
  f : Nat
  bias : Int
  deriving DecidableEq, Repr

/-- The presets of R126. -/
def l8a : LogFmt := ⟨true, 7, 3, 64⟩
def l8b : LogFmt := ⟨true, 7, 2, 64⟩
def l4 : LogFmt := ⟨true, 3, 1, 4⟩

/-- The negative-zero code of a signed narrow format (R120). -/
def NarrowFmt.extraCode (t : NarrowFmt) : Nat := 2 ^ (t.eb + t.mb)

/-- The magnitude of the code of index i (its bits below the sign), as m · 2^e (R120). -/
def NarrowFmt.mag (t : NarrowFmt) (i : Nat) : Nat × Int :=
  let x := i / 2 ^ t.mb
  let y := i % 2 ^ t.mb
  if t.eb = 0 then (i, -t.bias)
  else if x = 0 then (y, 1 - t.bias - t.mb)
  else (2 ^ t.mb + y, (x : Int) - t.bias - t.mb)

/-- The index of the largest magnitude. -/
def NarrowFmt.maxIdx (t : NarrowFmt) : Nat := 2 ^ (t.eb + t.mb) - 1

/-- Comparison of exact magnitudes: m1 · 2^e1 < m2 · 2^e2. -/
def magLt (m1 : Nat) (e1 : Int) (m2 : Nat) (e2 : Int) : Bool := decide ((exactSum false m1 e1 true m2 e2).1 < 0)

/-- The number of indices from 1 up to `n` whose magnitude is at most the given one: the index of the largest magnitude not
above it. -/
def NarrowFmt.floorIdx (t : NarrowFmt) (n : Nat) (e : Int) : Nat → Nat
  | 0 => 0
  | i + 1 => if magLt n e (t.mag (i + 1)).1 (t.mag (i + 1)).2 then t.floorIdx n e i else i + 1

/-- The index of the magnitude nearest to n · 2^e, at most the largest: ties to even y, and to the larger magnitude where both
have even y (R123). -/
def NarrowFmt.nearest (t : NarrowFmt) (n : Nat) (e : Int) : Nat :=
  let i := t.floorIdx n e t.maxIdx
  if i = t.maxIdx then i
  else
    let lo := t.mag i
    let hi := t.mag (i + 1)
    let (s, se) := exactSum false lo.1 lo.2 false hi.1 hi.2
    -- 2 · (n · 2^e) against lo + hi
    let twice := (2 * n, e)
    if magLt twice.1 twice.2 s.toNat se then i
    else if magLt s.toNat se twice.1 twice.2 then i + 1
    else
      let y := if t.eb = 0 then i else i % 2 ^ t.mb
      let y1 := if t.eb = 0 then i + 1 else (i + 1) % 2 ^ t.mb
      if y % 2 = 0 ∧ y1 % 2 = 0 then i + 1 else if y % 2 = 0 then i else i + 1

/-- The scale base as a number (R127). -/
def scaleOf (s : Word) : Int := signedOf 10 s.toNat

/-- Narrow(x, fmt, s) of R123: the code and the flags NSAT and NINV. -/
def narrow (x : Nat) (t : NarrowFmt) (s : Int) : Nat × Flags :=
  let code (neg : Bool) (i : Nat) : Nat := neg.toNat * 2 ^ (t.eb + t.mb) + i
  let finishWith (neg : Bool) (i : Nat) (fl : Flags) : Nat × Flags :=
    if neg then
      if !t.s then (0, fl ||| flagIf (i ≠ 0) fNSAT)
      else if i = 0 then (0, fl) else (code true i, fl)
    else (code false i, fl)
  match f32.value x with
  | .nan _ =>
    if t.s && (f32.value t.extra).isNan then (t.extraCode, 0) else (code false t.maxIdx, fNINV)
  | .inf neg => finishWith neg t.maxIdx fNSAT
  | .fin neg m e =>
    let (n, e1) : Nat × Int := if s % 32 = 0 then (m, e - s / 32) else (m * tT (32 - (s % 32).toNat), e - s / 32 - 1 - 23)
    let top := t.mag t.maxIdx
    if m = 0 then finishWith false 0 0
    else if magLt top.1 top.2 n e1 then finishWith neg t.maxIdx fNSAT
    else finishWith neg (t.nearest n e1) 0

/-- Widen(c, fmt, s) of R125: FP32 bits and flags. -/
def widen (c : Nat) (t : NarrowFmt) (s : Int) : Nat × Flags :=
  let i := c % 2 ^ (t.eb + t.mb)
  let neg := t.s && decide (c / 2 ^ (t.eb + t.mb) % 2 = 1)
  if neg && i == 0 then (t.extra, 0)
  else
    let v := t.mag i
    if s % 32 = 0 then f32.round neg v.1 (v.2 + s / 32) false
    else f32.round neg (v.1 * tT (s % 32).toNat) (v.2 + s / 32 - 23) false

/-- Sign and field of a log code (R126). -/
def LogFmt.sign (t : LogFmt) (c : Nat) : Bool := t.s && decide (c / 2 ^ t.w % 2 = 1)
def LogFmt.field (t : LogFmt) (c : Nat) : Nat := c % 2 ^ t.w
def LogFmt.nar (t : LogFmt) : Nat := 2 ^ t.w
def LogFmt.isNar (t : LogFmt) (c : Nat) : Bool := t.field c == 0 && t.sign c

/-- The sign and exact magnitude T[f] · 2^(k − 23), or FP32 max with LSAT, of an exponent p in units of 2^−5. -/
def logMag (p : Int) : Nat × Int × Flags :=
  let k := p / 32
  if 128 ≤ k then (2 ^ 24 - 1, 104, fLSAT) else (tT (p % 32).toNat, k - 23, 0)

/-- LinFromLog(c, fmt, s) of R129: FP32 bits and the flags LSAT, UF, NX. -/
def linFromLog (c : Nat) (t : LogFmt) (s : Int) : Nat × Flags :=
  if t.field c = 0 then (if t.sign c then f32.nan else 0, 0)
  else
    let (n, e, fl) := logMag (((t.field c : Int) - t.bias) * 2 ^ (5 - t.f) + s)
    let (r, fl2) := f32.round (t.sign c) n e false
    (r, fl ||| fl2)

/-- Number of f in 0 to 31 with D[f] at most N (R130). -/
def countD (n : Nat) : Nat := tableD.countP fun d => decide (d ≤ n)

/-- LogCode(x, fmt, s) of R130: the code and the flags LSAT, LUF, LINV. -/
def logCode (x : Nat) (t : LogFmt) (s : Int) : Nat × Flags :=
  let top := 2 ^ t.w - 1
  let code (sg : Bool) (z : Nat) : Nat := sg.toNat * 2 ^ t.w + z
  match f32.value x with
  | .nan _ => if t.s then (t.nar, 0) else (0, fLINV)
  | .inf sg => if sg && !t.s then (0, fLINV) else (code sg top, fLSAT)
  | .fin sg m e =>
    if m = 0 then (0, 0)
    else if sg && !t.s then (0, fLINV)
    else
      let up := 24 - bitLen m
      let n := m * 2 ^ up
      let y : Int := 32 * (e - up + 23) + countD n
      let z := t.bias + divHalfEven (y - s) (2 ^ (5 - t.f))
      if (top : Int) < z then (code sg top, fLSAT)
      else if z < 1 then (0, fLUF)
      else (code sg z.toNat, 0)

/-- A log product: a NaN, or an exact signed number n · 2^e, with LSAT (R131). -/
def logProduct (a : Nat) (fa : LogFmt) (sa : Int) (b : Nat) (fb : LogFmt) (sb : Int) : Option (Int × Int) × Flags :=
  if fa.isNar a || fb.isNar b then (none, 0)
  else if fa.field a = 0 ∨ fb.field b = 0 then (some (0, 0), 0)
  else
    let (n, e, fl) := logMag (((fa.field a : Int) - fa.bias) * 2 ^ (5 - fa.f) + ((fb.field b : Int) - fb.bias) * 2 ^ (5 - fb.f) +
      sa + sb)
    (some (if fa.sign a != fb.sign b then -(n : Int) else n, e), fl)

/-- The exact sum of numbers n · 2^e. -/
def sumExact (l : List (Int × Int)) : Int × Int :=
  l.foldl (fun (acc : Int × Int) (t : Int × Int) =>
    let e := min acc.2 t.2
    (acc.1 * 2 ^ (acc.2 - e).toNat + t.1 * 2 ^ (t.2 - e).toNat, e)) (0, 0)

/-- One group of eight products: its sum rounded once, or the default NaN (R132). -/
def groupSum (terms : List (Option (Int × Int))) : Nat × Flags :=
  if terms.any Option.isNone then (f32.nan, 0)
  else
    let (v, e) := sumExact (terms.filterMap id)
    f32.roundInt v e

/-- A list cut into groups of eight, `n` groups. -/
def groupsOf8 {α : Type} : Nat → List α → List (List α)
  | 0, _ => []
  | n + 1, l => l.take 8 :: groupsOf8 n (l.drop 8)

/-- A tile element's update of R132 over its products in k order: the new value and the flags. -/
def accumulate (acc : Nat) (products : List (Option (Int × Int) × Flags)) : Nat × Flags :=
  let lsat := products.foldl (fun f p => f ||| p.2) (0 : Flags)
  (groupsOf8 (products.length / 8) (products.map Prod.fst)).foldl (fun (a : Nat × Flags) g =>
    let (gs, f1) := groupSum g
    let (r, f2) := f32.add a.1 gs
    (r, a.2 ||| f1 ||| f2)) (acc, lsat)

end Sys2Proof.Machine
end

