-- ==== Sys2Proof/Machine/Elem.lean ====
section
/-! DEFINITION. One element of a type (R215, R216, R222): the arithmetic that the vector siding, the vector engine, the squads and
the collective engines share, the combinations of R87, and the lanes of a register. -/

namespace Sys2Proof.Machine

/-- A value with its flags. -/
abbrev Res := Nat × Flags

/-- The IEEE format of a type, if it is one. -/
def ElemTy.fmt : ElemTy → Option FFmt
  | .f32 => some f32
  | .f16 => some f16
  | .bf16 => some bf16
  | .i8 | .i16 | .i32 | .i64 | .n8 | .n16 | .n32 | .n64 | .l8a | .l8b | .l4 => none

/-- An integer operation modulo 2^w, or an IEEE one. -/
def elem2 (t : ElemTy) (int : Int → Int → Int) (fp : FFmt → Nat → Nat → Res) (x y : Nat) : Res :=
  match ElemTy.fmt t with
  | some f => fp f x y
  | none => (unsignedOf (ElemTy.width t) (int (ElemTy.intOf t x) (ElemTy.intOf t y)), 0)

def elemAdd (t : ElemTy) : Nat → Nat → Res := elem2 t (· + ·) FFmt.add
def elemSub (t : ElemTy) : Nat → Nat → Res := elem2 t (· - ·) FFmt.sub
def elemMul (t : ElemTy) : Nat → Nat → Res := elem2 t (· * ·) FFmt.mul
def elemMin (t : ElemTy) : Nat → Nat → Res := elem2 t (fun a b => if a ≤ b then a else b) (fun f => f.minMax false)
def elemMax (t : ElemTy) : Nat → Nat → Res := elem2 t (fun a b => if a ≤ b then b else a) (fun f => f.minMax true)

/-- x × y + z, rounded once. -/
def elemFma (t : ElemTy) (x y z : Nat) : Res :=
  match ElemTy.fmt t with
  | some f => f.fma x y z
  | none => (unsignedOf (ElemTy.width t) (ElemTy.intOf t x * ElemTy.intOf t y + ElemTy.intOf t z), 0)

/-- The sign bit of a type. -/
def ElemTy.signBit (t : ElemTy) : Nat := 2 ^ (ElemTy.width t - 1)

def elemAbs (t : ElemTy) (x : Nat) : Res :=
  match ElemTy.fmt t with
  | some _ => (x % ElemTy.signBit t, 0)
  | none => (unsignedOf (ElemTy.width t) (ElemTy.intOf t x).natAbs, 0)

def elemNeg (t : ElemTy) (x : Nat) : Res :=
  match ElemTy.fmt t with
  | some _ => (Nat.xor x (ElemTy.signBit t), 0)
  | none => (unsignedOf (ElemTy.width t) (-ElemTy.intOf t x), 0)

def elemAnd (x y : Nat) : Res := (Nat.land x y, 0)
def elemOr (x y : Nat) : Res := (Nat.lor x y, 0)
def elemXor (x y : Nat) : Res := (Nat.xor x y, 0)

/-- The operation of a reduction or scan (R154). -/
def elemRed (op : RedOp) (t : ElemTy) : Nat → Nat → Res :=
  match op with
  | .add => elemAdd t
  | .min => elemMin t
  | .max => elemMax t
  | .band => elemAnd
  | .bor => elemOr
  | .bxor => elemXor

/-- The identity of a reduction (R87): +0, the largest and the smallest value or the infinities, all ones, 0. -/
def identityOf (op : RedOp) (t : ElemTy) : Nat :=
  let w := ElemTy.width t
  match op with
  | .add => 0
  | .min => (match ElemTy.fmt t with
    | some f => f.inf false
    | none => unsignedOf w (ElemTy.hi t))
  | .max => (match ElemTy.fmt t with
    | some f => f.inf true
    | none => unsignedOf w (ElemTy.lo t))
  | .band => 2 ^ w - 1
  | .bor => 0
  | .bxor => 0

/-- The R87 tree over values, with the flags of every combination. -/
def reduceList (op : RedOp) (t : ElemTy) (xs : List Nat) : Res :=
  tree (fun (a b : Res) => let r := elemRed op t a.1 b.1; (r.1, a.2 ||| b.2 ||| r.2)) (identityOf op t, 0)
    (xs.map fun x => (x, 0))

/-- The exclusive left-to-right scan from a running value: position 0 receives the identity, position 1 x0, and position i the
combination of x0 to x(i - 1) with the flags of the combinations that formed it. -/
def scanFrom (op : RedOp) (t : ElemTy) : Option Res → List Nat → List Res
  | _, [] => []
  | none, x :: xs => (identityOf op t, 0) :: scanFrom op t (some (x, 0)) xs
  | some r, x :: xs =>
    r :: (if xs.isEmpty then [] else let n := elemRed op t r.1 x; scanFrom op t (some (n.1, r.2 ||| n.2)) xs)

/-- The exclusive scan of R87. -/
def scanList (op : RedOp) (t : ElemTy) (xs : List Nat) : List Res := scanFrom op t none xs

/-- The OR of the flags of results. -/
def flagsOf (l : List Res) : Flags := l.foldl (fun f r => f ||| r.2) 0

/-- Convert one element (R222). The same type copies the bits. -/
def elemConv (src dst : ElemTy) (x : Nat) : Res :=
  if src = dst then (x, 0)
  else match ElemTy.fmt src, ElemTy.fmt dst with
    | some fs, some fd => fd.ofVal (fs.value x)
    | none, some fd => fd.roundInt (ElemTy.intOf src x) 0
    | some fs, none =>
      let r := (fs.value x).toInt (ElemTy.lo dst) (ElemTy.hi dst)
      (unsignedOf (ElemTy.width dst) r.1, r.2)
    | none, none =>
      let v := ElemTy.intOf src x
      let c := if v < ElemTy.lo dst then ElemTy.lo dst else if ElemTy.hi dst < v then ElemTy.hi dst else v
      (unsignedOf (ElemTy.width dst) c, flagIf (decide (c ≠ v)) fNSAT)

/-- A comparison (R217). -/
def elemCmp (c : CmpCond) (t : ElemTy) (x y : Nat) : Bool × Flags :=
  match ElemTy.fmt t with
  | some f => match c with
    | .eq => f.cmpEq x y
    | .ne => let r := f.cmpEq x y; (!r.1, r.2)
    | .lt => f.cmpLt false x y
    | .le => f.cmpLt true x y
    | .gt => f.cmpLt false y x
    | .ge => f.cmpLt true y x
  | none =>
    let a := ElemTy.intOf t x
    let b := ElemTy.intOf t y
    match c with
    | .eq => (decide (a = b), 0)
    | .ne => (decide (a ≠ b), 0)
    | .lt => (decide (a < b), 0)
    | .le => (decide (a ≤ b), 0)
    | .gt => (decide (b < a), 0)
    | .ge => (decide (b ≤ a), 0)

/-! ### Lanes (R213) -/

/-- Lane i of w bits. -/
def laneOf (w v i : Nat) : Nat := v / 2 ^ (w * i) % 2 ^ w

/-- Lanes of w bits from lane 0 on. -/
def packLanes (w : Nat) : List Nat → Nat
  | [] => 0
  | x :: r => x % 2 ^ w + 2 ^ w * packLanes w r

/-- The number of lanes of a width. -/
def lanesAt (w : Nat) : Nat := 512 / w

/-- The log format of a type; codes other than the three log types have none. -/
def logOf : ElemTy → LogFmt
  | .l8a => l8a
  | .l8b => l8b
  | .l4 => l4
  | .i8 | .i16 | .i32 | .i64 | .n8 | .n16 | .n32 | .n64 | .f32 | .f16 | .bf16 => l8a

end Sys2Proof.Machine
end

