-- ==== Sys2Proof/Config.lean ====
section
/-! DEFINITION. What the spec leaves open or names without giving it: constants with no body, so that nothing can be proved of
their values. Each is a free value or a primitive that another standard defines (log entry 5 and 6). -/

namespace Sys2Proof

/-- Free: the result of an SQVOTE, SQRED or SQSCAN that takes up an arrival which carried no contribution (R405), by the number of
the answer; but an SQVOTE of a generation without contributions returns what R87 states. -/
opaque Config.squadResult : Nat → BitVec 64

/-- Free: what the home entry of a domain squad on another module adds to the n-th answer for a proxy from the members of other modules:
a value, a status, flags, and a number that says how their contributions bear on it (R81). -/
opaque Config.homeAnswer : Nat → BitVec 64 × BitVec 64 × BitVec 12 × Nat

/-- Free: the n-th element, and the flags, that a collective of such a squad brings from other modules (R81, R257). -/
opaque Config.remoteElem : Nat → Nat
opaque Config.remoteFlags : Nat → BitVec 12

/-- Free: the n-th nonce the module controller generates (R342). -/
opaque Config.nonceValue : Nat → BitVec 384

/-- SHA-384 of a byte string (R338 to R343). -/
opaque Config.sha384 : List Byte → BitVec 384

/-- RSA-PSS signature check: public key, digest, signature (R338). -/
opaque Config.rsaValid : List Byte → BitVec 384 → List Byte → Bool

/-- SLH-DSA-SHA2-192s signature check: public key, digest, signature (R338). -/
opaque Config.slhValid : List Byte → BitVec 384 → List Byte → Bool

/-- Free: where an image's header holds the vendor's RSA and SLH-DSA public keys and its security version (R338 gives no layout). -/
opaque Config.headerRsaKey : List Byte → List Byte
opaque Config.headerSlhKey : List Byte → List Byte
opaque Config.headerVersion : List Byte → Nat

/-- Free: the 16 header bytes of an Ilufosko flit of a class (0 to 3), destination module, tag and sequence number (R330 gives no
places). -/
opaque Config.flitHeader : Nat → BitVec 9 → BitVec 64 → BitVec 12 → BitVec 128

/-- The module's signatures over a report: RSA-PSS of 384 bytes and SLH-DSA of 16,224 bytes (R341). -/
opaque Config.attestRsa : List Byte → List Byte
opaque Config.attestSlh : List Byte → List Byte

/-- The device transport public key, 97 bytes (R341). -/
opaque Config.transportKey : List Byte

/-- Signatures of a tenant key pair, given the plaintext that holds it, over a token's body (R345, R346). -/
opaque Config.tenantRsa : Nat → List Byte → List Byte → Bool
opaque Config.tenantSlh : Nat → List Byte → List Byte → Bool

/-- 97 bytes are an uncompressed point of the curve P-384 (R343). -/
opaque Config.onCurve : List Byte → Bool

/-- The x-coordinate, 48 bytes, of the point that the device transport key shares with a public key of 97 bytes (R343). -/
opaque Config.sharedX : List Byte → List Byte

/-- AES-256-GCM decryption: key, initialisation vector, associated data, ciphertext, tag; none when the tag fails to verify (R343). -/
opaque Config.gcmOpen : List Byte → List Byte → List Byte → List Byte → List Byte → Option (List Byte)

/-- Free: the fuse configuration as the ROM measures it: lifecycle state, the two key hashes, the minimum version (R338); and the
record of a lifecycle change (kind 0) or a raise of the debug level (kind 1), before and after (R340). -/
opaque Config.fuseRecord : Nat → BitVec 384 → BitVec 384 → Nat → List Byte
opaque Config.changeRecord : Nat → Nat → Nat → List Byte

/-- Free: the security engine confirms the n-th wipe of the tenant keys (R347). -/
opaque Config.wipeConfirmed : Nat → Bool

/-- The stored signature of the in-field test (R432). -/
opaque Config.testSignature : BitVec 64

/-- Free: where the module controller places a die's dump region: a number that selects the die whose stack holds it, and its base
(R437). -/
opaque Config.dumpPlace : Nat → Nat × BitVec 64

/-- Free: at the fatal error of a number, the logic of a die does not answer; no route of the module controller reaches the stack that holds a
die's dump region (R437). -/
opaque Config.dieSilent : Nat → Nat → Bool
opaque Config.stackUnreached : Nat → Nat → Bool

/-- Free: bits 15:8 of the cause in a dump's module header, whether the error is a domain fault or not (R436 gives no codes). -/
opaque Config.dumpFault : Bool → BitVec 8

end Sys2Proof
end

