-- ==== Sys2Proof/Machine/Fetch.lean ====
section
/-! DEFINITION. Instruction fetch (R63, R64, R143, R372) and the pinning of a loop body (R373): blocks of 32 bytes by virtual
address, the checks of each word of an instruction being entered, and the loop-back at the end label. -/

namespace Sys2Proof.Machine

/-- The segment register a context fetches through: CSEG of its launch (R68); s0 when no launch binds it. -/
def State.csegOf (s : State) (c : CtxId) : SReg :=
  match s.launch (s.ctx c).row.launch.toNat with
  | some l => Fin.ofNat 8 l.record.cseg.toNat
  | none => 0

/-- The address of a code-segment offset, of the context's job. -/
def State.codeVa (s : State) (c : CtxId) (off : Nat) : Nat :=
  jaddr (s.ctx c).row.job.toNat (((s.ctx c).readSeg (s.csegOf c)).base.toNat + off)

/-- The block-start offset of a code-segment offset (R63). -/
def blockOf (off : Nat) : Nat := off / 32 * 32

/-- A block as memory gives it: its 256 bits, and above them a mark for each doubleword that is poisoned (R421). -/
def State.blockAt (s : State) (va : Nat) : BitVec 260 :=
  BitVec.ofNat 260 (s.gRead va 32 + 2 ^ 256 * (span 0 4).foldl (fun n i => n + if s.gPoisoned (va + 8 * i) 8 then 2 ^ i else 0) 0)

/-- The contents of a 32-byte block that a context can issue from: its loop buffer when a body is pinned, its fetch buffer, or the
cluster's instruction cache, whose hit is served at once (log entry 57); none while the block has still to come from memory (R63, R64,
R143). -/
def State.block (s : State) (c : CtxId) (off : Nat) : Option Nat :=
  let x := s.ctx c
  let va := s.codeVa c (blockOf off)
  let held (m : SMap (BitVec 260)) : Option Nat := (m.find? fun e => e.1 == va).map fun e => e.2.toNat
  (if x.pinned then held x.loopBuf else none).orElse fun _ =>
    (held x.fetchBuf).orElse fun _ => held (s.cluster (clusterOf c)).icache

/-- The words from an offset to the end of its block; none while the block has still to come. -/
def State.codeWords (s : State) (c : CtxId) (off : Nat) : List Nat :=
  match s.block c off with
  | some b => wordsOf (8 - off % 32 / 4) (b / 2 ^ (8 * (off % 32)))
  | none => []

/-- The word at a code-segment offset. -/
def State.codeWord (s : State) (c : CtxId) (off : Nat) : Option Nat := (s.codeWords c off).head?

/-- The two blocks of a context's fetch buffer: the one it issues from and the next, which is requested as soon as issue enters that
one (R63). -/
def State.fetchWindow (s : State) (c : CtxId) : List Nat :=
  let pc := blockOf (s.ctx c).pc.toNat
  [s.codeVa c pc, s.codeVa c (pc + 32)]

/-- The end label of the LOOP or LOOPI that a context is to issue next, if it is one: its body's blocks are fetched to pin it (R373). -/
def State.bodyEnd (s : State) (c : CtxId) : Option Nat :=
  let pc := (s.ctx c).pc
  match decode (s.codeWords c pc.toNat) with
  | .ok (.loop _ disp, _) => some (targetOf pc disp).toNat
  | .ok (.loopi _ disp, _) => some (targetOf pc disp).toNat
  | _ => none

/-- A block that a context may have requested: of its fetch buffer, or of a body that is to be pinned (R63, R373). -/
def State.requested (s : State) (c : CtxId) (va : Nat) : Bool :=
  let pc := blockOf (s.ctx c).pc.toNat
  (s.fetchWindow c).contains va || match s.bodyEnd c with
    | some stop => decide (s.codeVa c pc ≤ va ∧ va < s.codeVa c pc + (stop - pc))
    | none => false

/-- The fetch buffer takes what the cluster's instruction cache holds of its two blocks. -/
def State.fetchHits (s : State) (c : CtxId) : State :=
  let ws := s.fetchWindow c
  let x := s.ctx c
  let cache := (s.cluster (clusterOf c)).icache
  let kept := x.fetchBuf.filter fun e => ws.contains e.1
  let buf := ws.foldl (fun m va => if m.any fun e => e.1 == va then m else match cache.find? fun e => e.1 == va with
    | some e => tput m va e.2
    | none => m) kept
  if buf = x.fetchBuf then s else s.setCtx c { x with fetchBuf := buf }

/-- Why an instruction cannot be entered or a body word cannot be taken: cause, ceaddr. -/
abbrev Refused := BitVec 8 × Word

/-- The check of one word of a fetch: within the limit, then the X right (R103, R372). -/
def State.fetchCheck (s : State) (c : CtxId) (off : Nat) : Option Refused :=
  let g := (s.ctx c).readSeg (s.csegOf c)
  if g.limit.toNat < off + 4 then some (causeLimit, BitVec.ofNat 64 off)
  else if !g.x then some (causeRights, BitVec.ofNat 64 off)
  else none

/-- The words an instruction of these words takes: those that bits 1:0 of word 0 name, inside the block (R355). -/
def takenWords (ws : List Nat) : List Nat := ws.take (if ws.headD 0 % 4 = 0 then 1 else ws.headD 0 % 4 + 1)

/-- The first refusal among the words from an offset on. -/
def State.fetchChecks (s : State) (c : CtxId) (off : Nat) : Nat → Option Refused
  | 0 => none
  | n + 1 => (s.fetchCheck c off).orElse fun _ => s.fetchChecks c (off + 4) n

/-- A word among n bytes of an instruction being entered was poisoned when its block was fetched (R421). -/
def State.fetchPoisoned (s : State) (c : CtxId) (off n : Nat) : Bool :=
  match s.block c off with
  | some b => (blocks 8 (off % 32) n).any fun w => b.testBit (256 + w)
  | none => false

/-- A bound on the words of a code segment (R103). -/
def codeFuel : Nat := 2 ^ 40

/-- A bound on the blocks of filler that one step passes: those of a code segment. -/
def fillerFuel : Nat := codeFuel

/-! ### Going round a loop (R64) -/

/-- At the end label of a pinned body: the next iteration, or the end of the loop, with the count at 0 and the body unpinned. -/
def Ctx.loopBack (x : Ctx) : Ctx :=
  if x.pinned && x.pc == x.loopEnd then
    if x.loopCount.toNat ≤ 1 then { x with loopCount := 0, pinned := false, loopBuf := [] }
    else { x with loopCount := x.loopCount - 1, pc := x.loopStart }
  else x

/-- Bring a context to the address of its next instruction: back to the body's start at the end label, over filler to the next
block or to an end label among the filler (R63, R64). `fuel` bounds the number of blocks passed. -/
def State.settle (c : CtxId) : Nat → State → State
  | 0, s => s
  | fuel + 1, s =>
    let s1 := s.modCtx c Ctx.loopBack
    let pc := (s1.ctx c).pc.toNat
    if pc % 4 = 0 ∧ s1.fetchCheck c pc = none ∧ s1.codeWord c pc = some 0 then
      State.settle c fuel (s1.modCtx c fun x =>
        { x with pc := if x.pinned ∧ pc < x.loopEnd.toNat ∧ x.loopEnd.toNat < blockOf pc + 32 then x.loopEnd
                       else BitVec.ofNat 64 (blockOf pc + 32) })
    else s1

/-! ### Pinning (R64, R373) -/

/-- A refusal of pinning: the cause and the ceaddr. -/
def loopRefusal (loff : Nat) : Refused := (causeIllegal, (⟨10, 0, 0⟩ : Illegal).ceaddr loff)

/-- What the pinning of a body comes to. -/
inductive Pinning where
  /-- the body can be pinned -/
  | fits
  /-- the LOOP is refused (R373) -/
  | refused (r : Refused)
  /-- a block of the body has still to come (R64) -/
  | missing
  deriving DecidableEq, Repr

/-- The end label of a body is reached: the body must hold an instruction (R174). DESIGN CHOICE (log entry 61): R373's list names no LOFF
for a body of filler alone; the LOOP is refused with reason 10 and the offset of its end label, as for an empty body. -/
def Pinning.atEnd (addr stop room : Nat) : Pinning := if room = 8 then .refused (loopRefusal (stop - addr)) else .fits

/-- Scan a body from an offset to the end label: `room` instructions may still come, `fuel` bounds the words looked at. -/
def State.scanBody (s : State) (c : CtxId) (addr stop : Nat) : Nat → Nat → Nat → Pinning
  | 0, _, off => .refused (loopRefusal (off - addr))
  | fuel + 1, room, off =>
    if off = stop then .atEnd addr stop room
    else if stop < off then .refused (loopRefusal (stop - addr))
    else match s.fetchCheck c off with
      | some r => .refused r
      | none => match s.codeWord c off with
        | none => .missing
        | some w =>
          if w = 0 then
            (if stop < blockOf off + 32 then .atEnd addr stop room else State.scanBody s c addr stop fuel room (blockOf off + 32))
          else if w % 8 = 4 then .refused (causeEntry, BitVec.ofNat 64 off)
          else if w % 4 = 0 then .refused (loopRefusal (off - addr))
          else if room = 0 then .refused (loopRefusal (off - addr))
          else if bits w 2 8 = 0x43 ∧ bits w 25 7 ≤ 1 then .refused (loopRefusal (off - addr))
          else
            let next := off + 4 * (w % 4 + 1)
            if stop < next then .refused (loopRefusal (off - addr))
            else match s.fetchChecks c off (takenWords (s.codeWords c off)).length with
              | some r => .refused r
              | none => State.scanBody s c addr stop fuel (room - 1) next

/-- The pinning of the body, from `start` to `stop`, of a LOOP at `addr` (R373). -/
def State.pinning (s : State) (c : CtxId) (addr start stop : Nat) : Pinning :=
  if stop ≤ start then .refused (loopRefusal (stop + 2 ^ 64 - addr)) else s.scanBody c addr stop codeFuel 8 start

/-- The blocks of a body as they have been fetched, by address, from the block at `off` to the first that has not come. -/
def State.captureBody (s : State) (c : CtxId) (stop : Nat) : Nat → Nat → SMap (BitVec 260) → SMap (BitVec 260)
  | 0, _, m => m
  | fuel + 1, off, m =>
    if stop ≤ off then m
    else match s.block c off with
      | some v => State.captureBody s c stop fuel (off + 32) (tput m (s.codeVa c off) (BitVec.ofNat 260 v))
      | none => m

/-- Pin the body of a context's loop state: capture its blocks. -/
def State.pin (s : State) (c : CtxId) : State :=
  let x := s.ctx c
  s.setCtx c { x with pinned := true, loopBuf := s.captureBody c x.loopEnd.toNat codeFuel (blockOf x.loopStart.toNat) [] }

/-- Capture the blocks of a body that a return or a context load has pinned again. -/
def State.recapture (s : State) (c : CtxId) : State := if (s.ctx c).pinned then s.pin c else s

end Sys2Proof.Machine
end

