-- ==== Sys2Proof/Machine/Control.lean ====
section
/-! DEFINITION. Branches, jumps, loops, NOP, YIELD, TRAP, BRK, RTE (R171 to R175, R180, R182). -/

namespace Sys2Proof.Machine

/-- A conditional branch of 12 bytes to addr + 4·D. -/
def State.branch (s : State) (taken : Bool) (disp : BitVec 32) : Out :=
  .next (if taken then s.modMe (·.goto (targetOf s.me.pc disp)) else s.done 12 id)

/-- A branch on g[a] and g[b] (R171). -/
def State.branch2 (s : State) (a b : GReg) (disp : BitVec 32) (f : Word → Word → Bool) : Out :=
  s.branch (f (s.me.readG a) (s.me.readG b)) disp

def execBr (disp : BitVec 32) (s : State) : Out := s.branch true disp

/-- BRL: g[d] := addr + 12. -/
def execBrl (d : GReg) (disp : BitVec 32) (s : State) : Out :=
  .next (s.modMe fun x => (x.goto (targetOf x.pc disp)).writeG d (x.pc + 12))

def execBeq (a b : GReg) (disp : BitVec 32) (s : State) : Out := s.branch2 a b disp fun x y => decide (x = y)
def execBne (a b : GReg) (disp : BitVec 32) (s : State) : Out := s.branch2 a b disp fun x y => decide (x ≠ y)
def execBlt (a b : GReg) (disp : BitVec 32) (s : State) : Out := s.branch2 a b disp fun x y => decide (x.toInt < y.toInt)
def execBge (a b : GReg) (disp : BitVec 32) (s : State) : Out := s.branch2 a b disp fun x y => decide (y.toInt ≤ x.toInt)
def execBltn (a b : GReg) (disp : BitVec 32) (s : State) : Out := s.branch2 a b disp fun x y => decide (x.toNat < y.toNat)
def execBgen (a b : GReg) (disp : BitVec 32) (s : State) : Out := s.branch2 a b disp fun x y => decide (y.toNat ≤ x.toNat)

/-- JR: to g[a]; a target with bits 1:0 set is refused at its entry (R172, R372). -/
def execJr (a : GReg) (s : State) : Out := .next (s.modMe fun x => x.goto (x.readG a))

/-- JRL: g[d] := addr + 8, the target read first. -/
def execJrl (d a : GReg) (s : State) : Out := .next (s.modMe fun x => (x.goto (x.readG a)).writeG d (x.pc + 8))

/-- Set up a counted loop (R64, R174, R373): a count of 0 branches to the end label; otherwise the body is pinned, or the
instruction refused with the remaining count at 0. -/
def State.startLoop (s : State) (count : BitVec 32) (disp : BitVec 32) : Out :=
  let addr := s.me.pc
  let stop := targetOf addr disp
  if count = 0 then .next (s.modMe (·.goto stop))
  else match s.pinning s.cur addr.toNat (addr + 12).toNat stop.toNat with
    | .refused (cause, ceaddr) => (s.modMe fun x => { x with loopCount := 0 }).refuse cause ceaddr
    | .missing => .next (s.waits .fetch)
    | .fits =>
      .next ((s.done 12 fun x => { x with loopCount := count, loopStart := addr + 12, loopEnd := stop }).pin s.cur)

/-- LOOP: the count is g[a][31:0]. -/
def execLoop (a : GReg) (disp : BitVec 32) (s : State) : Out := s.startLoop ((s.me.readG a).setWidth 32) disp

def execLoopi (cnt : BitVec 25) (disp : BitVec 32) (s : State) : Out := s.startLoop (cnt.setWidth 32) disp

/-- NOP (R175). -/
def execNop (s : State) : Out := .next (s.done 8 id)

/-- YIELD: performed, and the context is ineligible until the next lap starts (R175). -/
def execYield (s : State) : Out := .next ((s.done 8 id).waits .lap)

/-- TRAP n: SOFTWARE, cepc = addr + 8 (R180). -/
def execTrap (n : BitVec 20) (s : State) : Out := .next (s.trap causeSoftware (n.setWidth 64) (s.me.pc + 8))

/-- BRK n: BREAKPOINT, cepc = addr (R180). -/
def execBrk (n : BitVec 20) (s : State) : Out := .next (s.trap causeBreak (n.setWidth 64) s.me.pc)

/-- RTE: handler level only (R159, R182). -/
def execRte (s : State) : Out :=
  if !s.me.hl then s.refuse causePrivileged 0 else .next ((s.modMe Ctx.rte).recapture s.cur)

end Sys2Proof.Machine
end

