-- ==== Sys2Proof/Machine/Operands.lean ====
section
/-! DEFINITION. Operand forms of the memory instructions: the effective address (R148, R187), the space it selects (R91, R103,
R109), the checks at C4 (R375), the containment of the issuing job (R21, R399), and the bytes that the shared store buffer gives
a load (R94, R102). -/

namespace Sys2Proof.Machine

/-! ### Memory instructions -/

/-- What a memory instruction does (R191 to R196). -/
inductive RefKind where
  | load | store | lr | sc | amo (op : AmoOp) (dd : Bool)
  deriving DecidableEq, Repr

/-- How the value read enters the destination (R191). -/
inductive Landing where
  | sx (w : Nat) | zx (w : Nat) | pair | vec
  deriving DecidableEq, Repr

/-- The operands of an instruction of opcodes 0x50 to 0x55. -/
structure MemRef where
  kind : RefKind
  m : MemAddr
  /-- the sign-extended offset -/
  off : Word
  /-- bytes accessed -/
  size : Nat
  /-- length of the instruction -/
  bytes : Nat
  /-- field d -/
  d : Nat
  /-- field b -/
  b : GReg
  how : Landing
  deriving DecidableEq, Repr

/-- A load of `size` bytes. -/
def loadRef (m : MemAddr) (off : Word) (size bytes d : Nat) (how : Landing) : MemRef :=
  { kind := .load, m := m, off := off, size := size, bytes := bytes, d := d, b := 0, how := how }

/-- A store of `size` bytes. -/
def storeRef (m : MemAddr) (off : Word) (size bytes d : Nat) (how : Landing) : MemRef :=
  { kind := .store, m := m, off := off, size := size, bytes := bytes, d := d, b := 0, how := how }

/-- LR, SC or an atomic on a doubleword. -/
def atomRef (kind : RefKind) (m : MemAddr) (off : Word) (bytes : Nat) (d b : GReg) : MemRef :=
  { kind := kind, m := m, off := off, size := if kind = .amo .fadd true ∨ kind = .amo .fadd false then 4 else 8,
    bytes := bytes, d := d.val, b := b,
    how := if kind = .amo .fadd true ∨ kind = .amo .fadd false then .zx 32 else .zx 64 }

/-- The memory operands of an instruction, for the opcodes 0x50 to 0x55 (R157, R187). -/
def Instr.ref : Instr → Option MemRef
  | .ldb d m off => some (loadRef m (off.signExtend 64) 1 8 d.val (.sx 8))
  | .ldbn d m off => some (loadRef m (off.signExtend 64) 1 8 d.val (.zx 8))
  | .ldh d m off => some (loadRef m (off.signExtend 64) 2 8 d.val (.sx 16))
  | .ldhn d m off => some (loadRef m (off.signExtend 64) 2 8 d.val (.zx 16))
  | .ldw d m off => some (loadRef m (off.signExtend 64) 4 8 d.val (.sx 32))
  | .ldwn d m off => some (loadRef m (off.signExtend 64) 4 8 d.val (.zx 32))
  | .ldd d m off => some (loadRef m (off.signExtend 64) 8 8 d.val (.zx 64))
  | .ldg d m off => some (loadRef m (off.signExtend 64) 16 8 d.val (.pair))
  | .ldv d m off => some (loadRef m (off.signExtend 64) 64 8 d.val (.vec))
  | .stb d m off => some (storeRef m (off.signExtend 64) 1 8 d.val (.zx 8))
  | .sth d m off => some (storeRef m (off.signExtend 64) 2 8 d.val (.zx 16))
  | .stw d m off => some (storeRef m (off.signExtend 64) 4 8 d.val (.zx 32))
  | .std d m off => some (storeRef m (off.signExtend 64) 8 8 d.val (.zx 64))
  | .stg d m off => some (storeRef m (off.signExtend 64) 16 8 d.val (.pair))
  | .stv d m off => some (storeRef m (off.signExtend 64) 64 8 d.val (.vec))
  | .lr d m off => some (atomRef .lr m (off.signExtend 64) 8 d 0)
  | .sc d b m off => some (atomRef .sc m (off.signExtend 64) 8 d b)
  | .amoadd d b dd m off => some (atomRef (.amo .add dd) m (off.signExtend 64) 8 d b)
  | .amoand d b dd m off => some (atomRef (.amo .and dd) m (off.signExtend 64) 8 d b)
  | .amoor d b dd m off => some (atomRef (.amo .or dd) m (off.signExtend 64) 8 d b)
  | .amoxor d b dd m off => some (atomRef (.amo .xor dd) m (off.signExtend 64) 8 d b)
  | .amomin d b dd m off => some (atomRef (.amo .min dd) m (off.signExtend 64) 8 d b)
  | .amomax d b dd m off => some (atomRef (.amo .max dd) m (off.signExtend 64) 8 d b)
  | .amominn d b dd m off => some (atomRef (.amo .minn dd) m (off.signExtend 64) 8 d b)
  | .amomaxn d b dd m off => some (atomRef (.amo .maxn dd) m (off.signExtend 64) 8 d b)
  | .amoswp d b dd m off => some (atomRef (.amo .swp dd) m (off.signExtend 64) 8 d b)
  | .amocas d b dd m off => some (atomRef (.amo .cas dd) m (off.signExtend 64) 8 d b)
  | .amofadd d b dd m off => some (atomRef (.amo .fadd dd) m (off.signExtend 64) 8 d b)
  | .ldbF96m d m off => some (loadRef m (off.signExtend 64) 1 12 d.val (.sx 8))
  | .ldbnF96m d m off => some (loadRef m (off.signExtend 64) 1 12 d.val (.zx 8))
  | .ldhF96m d m off => some (loadRef m (off.signExtend 64) 2 12 d.val (.sx 16))
  | .ldhnF96m d m off => some (loadRef m (off.signExtend 64) 2 12 d.val (.zx 16))
  | .ldwF96m d m off => some (loadRef m (off.signExtend 64) 4 12 d.val (.sx 32))
  | .ldwnF96m d m off => some (loadRef m (off.signExtend 64) 4 12 d.val (.zx 32))
  | .lddF96m d m off => some (loadRef m (off.signExtend 64) 8 12 d.val (.zx 64))
  | .ldgF96m d m off => some (loadRef m (off.signExtend 64) 16 12 d.val (.pair))
  | .ldvF96m d m off => some (loadRef m (off.signExtend 64) 64 12 d.val (.vec))
  | .stbF96m d m off => some (storeRef m (off.signExtend 64) 1 12 d.val (.zx 8))
  | .sthF96m d m off => some (storeRef m (off.signExtend 64) 2 12 d.val (.zx 16))
  | .stwF96m d m off => some (storeRef m (off.signExtend 64) 4 12 d.val (.zx 32))
  | .stdF96m d m off => some (storeRef m (off.signExtend 64) 8 12 d.val (.zx 64))
  | .stgF96m d m off => some (storeRef m (off.signExtend 64) 16 12 d.val (.pair))
  | .stvF96m d m off => some (storeRef m (off.signExtend 64) 64 12 d.val (.vec))
  | .lrF96m d m off => some (atomRef .lr m (off.signExtend 64) 12 d 0)
  | .scF96m d b m off => some (atomRef .sc m (off.signExtend 64) 12 d b)
  | .amoaddF96m d b dd m off => some (atomRef (.amo .add dd) m (off.signExtend 64) 12 d b)
  | .amoandF96m d b dd m off => some (atomRef (.amo .and dd) m (off.signExtend 64) 12 d b)
  | .amoorF96m d b dd m off => some (atomRef (.amo .or dd) m (off.signExtend 64) 12 d b)
  | .amoxorF96m d b dd m off => some (atomRef (.amo .xor dd) m (off.signExtend 64) 12 d b)
  | .amominF96m d b dd m off => some (atomRef (.amo .min dd) m (off.signExtend 64) 12 d b)
  | .amomaxF96m d b dd m off => some (atomRef (.amo .max dd) m (off.signExtend 64) 12 d b)
  | .amominnF96m d b dd m off => some (atomRef (.amo .minn dd) m (off.signExtend 64) 12 d b)
  | .amomaxnF96m d b dd m off => some (atomRef (.amo .maxn dd) m (off.signExtend 64) 12 d b)
  | .amoswpF96m d b dd m off => some (atomRef (.amo .swp dd) m (off.signExtend 64) 12 d b)
  | .amocasF96m d b dd m off => some (atomRef (.amo .cas dd) m (off.signExtend 64) 12 d b)
  | .amofaddF96m d b dd m off => some (atomRef (.amo .fadd dd) m (off.signExtend 64) 12 d b)
  | _ => none

/-- Write what an access returned into its destination. -/
def MemRef.land (r : MemRef) (v : Nat) (x : Ctx) : Ctx :=
  match r.how with
  | .sx w => x.writeG (Fin.ofNat 32 r.d) (sx w v)
  | .zx w => x.writeG (Fin.ofNat 32 r.d) (zx w v)
  | .pair => x.writePair (Fin.ofNat 32 r.d) (BitVec.ofNat 128 v)
  | .vec => x.writeV (Fin.ofNat 8 r.d) (BitVec.ofNat 512 v)

/-- The data of a store (R192). -/
def MemRef.data (r : MemRef) (x : Ctx) : Nat :=
  match r.how with
  | .sx w => (x.readG (Fin.ofNat 32 r.d)).toNat % 2 ^ w
  | .zx w => (x.readG (Fin.ofNat 32 r.d)).toNat % 2 ^ w
  | .pair => (x.readPair (Fin.ofNat 32 r.d)).toNat
  | .vec => (x.readV (Fin.ofNat 8 r.d)).toNat

/-- The access is a reservation or an atomic. -/
def RefKind.atomic : RefKind → Bool
  | .load => false
  | .store => false
  | .lr => true
  | .sc => true
  | .amo _ _ => true

/-- The access is an acquire (R189): ord ACQ or AR, or a .FW or .FC load. -/
def MemRef.acquires (r : MemRef) : Bool :=
  r.m.ord == .acq || r.m.ord == .ar || (r.kind == .load && r.m.fe != .plain)

/-! ### Effective address -/

/-- ea (R148). -/
def MemAddr.ea (m : MemAddr) (x : Ctx) (off : Word) : Word :=
  (match m.space with
    | .remoteS => x.readG m.c
    | .localS => x.readG m.a
    | .clusterS => x.readG m.a
    | .global => x.readG m.a) + off

/-- The S size. -/
def sSize : Nat := 0x40000
/-- The spill carve-out window (R91). -/
def spillLo : Nat := 0x1000000
def spillHi : Nat := 0x101000000

/-- The carve-out of a context: base, limit and the length of its overflow area (R109). -/
def Ctx.carveBase (x : Ctx) : Nat := 16 * x.spillBase.toNat
def Ctx.carveLimit (x : Ctx) : Nat := 16 * x.spillLimit.toNat

/-- The target core that an identifier names: reserved bits and k are ignored (R20). -/
def coreNamed (id : Nat) : CoreId := coreOf id

/-- The job of a context. -/
def State.jobOf (s : State) (c : CtxId) : Option Job := s.job (s.ctx c).row.job.toNat

/-- A core lies on the module and inside a job's containment rectangle (R21, R399, R419); a context of no job is bounded by the
module alone. -/
def insideJob (j : Option Job) (id : Nat) : Bool :=
  onModule id && match j with
  | none => true
  | some q => decide (q.cx0 ≤ xOf id ∧ xOf id ≤ q.cx0 + q.cwm1 ∧ q.cy0 ≤ yOf id ∧ yOf id ≤ q.cy0 + q.chm1)

/-- The core of an identifier lies in a fenced kill cell, or in a failed cluster (R424). -/
def State.fencedCore (s : State) (id : Nat) : Bool :=
  let q := s.cluster (clusterOf id)
  q.fenced || q.failed

/-- An access of a context to a core is sent: inside the job, and not across a fence (R399, R425). -/
def State.reaches (s : State) (c : CtxId) (id : Nat) : Bool :=
  insideJob (s.jobOf c) id && (!s.fencedCore id || clusterOf id == clusterOf c)

/-- Where an access goes. -/
inductive Place where
  /-- the issuing core's own S -/
  | bank (off : Nat)
  /-- S reached through the mesh -/
  | other (core : CoreId) (off : Nat)
  /-- addressed outside the job: the target identifier and the S offset -/
  | outside (id off : Nat)
  /-- global memory, at an address of the context's job -/
  | glob (va : Nat)
  /-- straddling the carve-out's limit: `lower` bytes at the S offset, the rest from the address on -/
  | both (off lower va : Nat)
  deriving DecidableEq, Repr

/-- The place of a spill-window offset (R109). -/
def Ctx.spillPlace (x : Ctx) (o size : Nat) : Place :=
  let lim := x.carveLimit
  if o + size ≤ lim then .bank (x.carveBase + o)
  else if lim ≤ o then .glob (jaddr x.row.job.toNat ((x.covf ++ 0#4).toNat + (o - lim)))
  else .both (x.carveBase + o) (lim - o) (jaddr x.row.job.toNat (x.covf ++ 0#4).toNat)

/-- The place of an access that has passed its checks (R91, R103, R109). -/
def State.place (s : State) (c : CtxId) (m : MemAddr) (ea size : Nat) : Place :=
  let x := s.ctx c
  match m.space with
  | .localS => if ea < sSize then .bank ea else x.spillPlace (ea - spillLo) size
  | .clusterS =>
    let core := mkId (xOf c) (yOf c) (ea / 2 ^ 18 % 32) 0
    if s.reaches c core then .other core (ea % 2 ^ 18) else .outside core (ea % 2 ^ 18)
  | .remoteS =>
    let id := (x.readG m.a).toNat % 2 ^ 32
    if s.reaches c id then .other (coreNamed id) ea else .outside id ea
  | .global => .glob (jaddr x.row.job.toNat ((x.readSeg m.seg).base.toNat + ea))

/-- The right that an access needs is present (R103). -/
def Seg.allows (g : Seg) (k : RefKind) : Bool :=
  match k with
  | .load => g.r
  | .store => g.w
  | .lr => g.a
  | .sc => g.a
  | .amo _ _ => g.a

/-- The ea fits a row of R91, and the access its segment's limit. -/
def Ctx.withinSpace (x : Ctx) (m : MemAddr) (ea size : Nat) : Bool :=
  match m.space with
  | .localS => decide (ea + size ≤ sSize ∨ (spillLo ≤ ea ∧ ea + size ≤ spillHi ∧
      (x.carveLimit ≤ ea - spillLo ∨ x.carveBase + min (ea - spillLo + size) x.carveLimit ≤ sSize)))
  | .clusterS => decide (ea < 2 ^ 23)
  | .remoteS => decide (ea + size ≤ sSize)
  | .global => decide (ea + size ≤ (x.readSeg m.seg).limit.toNat)

/-- A byte of the spill window lies beyond limit + ovflen, or a qualified or atomic access has a byte redirected (R375). -/
def Ctx.spillRefused (x : Ctx) (m : MemAddr) (k : RefKind) (ea size : Nat) : Bool :=
  m.space == .localS && decide (spillLo ≤ ea) &&
    (decide (x.carveLimit + x.ovfLen.toNat < ea - spillLo + size) ||
      ((m.fe != .plain || k.atomic) && decide (x.carveLimit < ea - spillLo + size)))

/-- The refusal of an access at C4, in the order of R375. -/
def Ctx.accessRefusal (x : Ctx) (m : MemAddr) (k : RefKind) (ea size : Nat) : Option (BitVec 8) :=
  if ea % size ≠ 0 then some causeAlign
  else if !x.withinSpace m ea size then some causeLimit
  else if x.spillRefused m k ea size then some causeSpill
  else if m.space == .global && !(x.readSeg m.seg).allows k then some causeRights
  else match k with
    | .amo _ dd => if x.da && dd && m.space != .global then some causeRights else none
    | .load => none
    | .store => none
    | .lr => none
    | .sc => none

/-! ### Wait-count and posted-store counters (R100, R101) -/

def Ctx.count (x : Ctx) : PostKind → BitVec 12
  | .near => x.near
  | .far => x.far
  | .mem => x.mem

def Ctx.setCount (x : Ctx) (k : PostKind) (n : BitVec 12) : Ctx :=
  match k with
  | .near => { x with near := n }
  | .far => { x with far := n }
  | .mem => { x with mem := n }

/-- The counter that a wait-count field names is zero. -/
def Ctx.waitCountZero (x : Ctx) : WaitCount → Bool
  | .none => true
  | .near => x.near == 0
  | .far => x.far == 0
  | .mem => x.mem == 0

/-- All three counters are zero. -/
def Ctx.drained (x : Ctx) : Bool := x.near == 0 && x.far == 0 && x.mem == 0

/-- near for a core of the same die, far otherwise (R100). -/
def kindTo (c : CtxId) (core : CoreId) : PostKind := if dieOf c = dieOf core then .near else .far

/-- A counter has room for one more posted store. -/
def Ctx.countRoom (x : Ctx) (k : PostKind) : Bool := x.count k != 4095

/-- Stores in a list of entries: the two parts of a store that straddles the carve-out's limit are one. -/
def storesIn (l : List SbEntry) : Nat := (l.map fun e => e.msg).eraseDups.length

/-- The store buffer has room for n more stores of a context; in fixed lap each context has its own share (R59, R102), by the slot
mask in effect (R22, R51). -/
def State.bufferTakes (s : State) (c : CtxId) (n : Nat) : Bool :=
  let b := (s.core (coreOf c)).storeBuf
  if (s.ctx c).lap then
    decide (storesIn (b.filter fun e => e.ctx == c) + n ≤ 4 * popCount 16 (s.ctx c).mask.toNat)
  else decide (storesIn b + n ≤ 64)

/-- The store buffer has room for a store of a context. -/
def State.bufferRoom (s : State) (c : CtxId) : Bool := s.bufferTakes c 1

/-! ### The store buffer as loads see it (R94, R102) -/

/-- The store of an entry has not been performed at its destination. A load takes the bytes of such entries only: once a store has
been performed, what its destination holds is as new or newer, and an older byte kept until the acknowledgement would break
coherence (R264; log entry 54). An entry of a store that the tape has still to perform has no message yet. -/
def State.pending (s : State) (e : SbEntry) : Bool := decide (s.nextId ≤ e.msg) || s.net.any fun m => m.id == e.msg

/-- The entries of a core's store buffer whose stores have not been performed. -/
def State.posted (s : State) (k : Core) : List SbEntry := k.storeBuf.filter s.pending

/-- The byte of the newest entry that holds an address. -/
def newestByte (l : List SbEntry) (core : Option CoreId) (a : Nat) : Option Nat :=
  l.foldl (fun r e =>
    if e.core = core ∧ e.addr ≤ a ∧ a < e.addr + e.size then some (e.data / 256 ^ (a - e.addr) % 256) else r) none

/-- The bytes of an access that entries give, as (index, byte). -/
def forwards (l : List SbEntry) (core : Option CoreId) (a n : Nat) : List (Nat × Nat) :=
  (span 0 n).filterMap fun i =>
    (newestByte l core (if core = none then jplus a i else a + i)).map fun b => (i, b)

/-- The bytes of a load of the current context from its core's store buffer. -/
def State.ownBytes (s : State) (core : Option CoreId) (a n : Nat) : List (Nat × Nat) :=
  forwards (s.posted (s.core (coreOf s.cur))) core a n

/-- An older posted store of the current context to bytes of its own core's S has not been performed: a local access that writes them
would pass it (R94). -/
def State.passes (s : State) (off n : Nat) : Bool :=
  (s.posted (s.core (coreOf s.cur))).any fun e =>
    e.ctx == s.cur && e.core == some (coreOf s.cur) && decide (e.addr < off + n ∧ off < e.addr + e.size)

/-- A value with some of its bytes replaced. -/
def overlay (v : Nat) (own : List (Nat × Nat)) : Nat :=
  own.foldl (fun v e => v - v / 256 ^ e.1 % 256 * 256 ^ e.1 + e.2 * 256 ^ e.1) v

/-- A byte of an access that is not given by the store buffer lies in a poisoned word. -/
def Mem.consumes (m : Mem) (a n : Nat) (own : List (Nat × Nat)) : Bool :=
  (span 0 n).any fun i => !own.any (fun e => e.1 == i) && m.poisoned (a + i) 1

/-! ### Instructions that are performed before their flags are known (R350) -/

/-- The instruction has been performed: its destination is written and its flags enter cstat, and an enabled flag traps after
it. -/
def State.performed (s : State) (bytes : Nat) (flags : Flags) (f : Ctx → Ctx) : State :=
  let t := s.done bytes fun x => (f x).raise flags
  if flags &&& s.me.enabled = 0 then t else t.trap causeFp (flags.setWidth 64) (s.me.pc + BitVec.ofNat 64 bytes)

/-- Do something as another context. -/
def State.asCtx (s : State) (c : CtxId) (f : State → State) : State := { f { s with cur := c } with cur := s.cur }

end Sys2Proof.Machine
end

