-- ==== Sys2Proof/Machine/Net.lean ====
section
/-! DEFINITION. Messages: sending with the die's vector clock (R266), the condition under which a destination takes one, the
counted packets of the baton (R75), replies and acknowledgements, and the owner of a pre-empted core's state (R289, R364). -/

namespace Sys2Proof.Machine

/-! ### State of a sender wherever it is held (R289) -/

/-- A saved image of a core with its contexts. -/
abbrev Image := Core × SMap Ctx

/-- The image holds a context of a launch. -/
def Image.ofLaunch (q : Image) (launch : Nat) : Bool := q.2.any fun e => e.2.row.v && e.2.row.launch.toNat == launch

/-- The saved images of a core, the latest first. -/
def State.images (s : State) (core : CoreId) : List Image := tget [] s.saved core

/-- A saved image of a core holds a context of a launch: its replies wait at the network interface. -/
def State.savedFor (s : State) (core : CoreId) (launch : Nat) : Bool := (s.images core).any fun q => Image.ofLaunch q launch

/-- Change the image of a core that holds a launch. -/
def State.modImage (s : State) (core : CoreId) (launch : Nat) (f : Image → Image) : State :=
  { s with saved := tset [] s.saved core ((s.images core).map fun q => if Image.ofLaunch q launch then f q else q) }

/-- Change a context while a launch binds it, in the saved image when its core is pre-empted by priority. -/
def State.modHeld (s : State) (c : CtxId) (launch : Nat) (f : Ctx → Ctx) : State :=
  if s.savedFor (coreOf c) launch then
    s.modImage (coreOf c) launch fun q => (q.1, tset Ctx.reset q.2 c (f (tget Ctx.reset q.2 c)))
  else if (s.ctx c).row.launch.toNat = launch then s.modCtx c f else s

/-- What comes back to a context waits outside it: its core is pre-empted by priority, or a seal has counted it (R113, R289). -/
def State.shut (s : State) (m : Msg) : Bool := s.savedFor (coreOf m.src) m.launch || (s.ctx m.src).sealHeld

/-- The job of the context for which a message was sent, wherever it is held. -/
def State.jobFor (s : State) (m : Msg) : Nat :=
  match (s.images (coreOf m.src)).find? fun q => Image.ofLaunch q m.launch with
  | some q => (tget Ctx.reset q.2 m.src).row.job.toNat
  | none => (s.ctx m.src).row.job.toNat

/-- Change the context for which a message was sent, wherever it is held. -/
def State.modSender (s : State) (m : Msg) (f : Ctx → Ctx) : State := s.modHeld m.src m.launch f

/-- Change the core that sent a message. -/
def State.modSenderCore (s : State) (m : Msg) (f : Core → Core) : State :=
  if s.savedFor (coreOf m.src) m.launch then s.modImage (coreOf m.src) m.launch fun q => (f q.1, q.2)
  else s.modCore (coreOf m.src) f

/-- Allocated tags of context k, oldest first (R36). -/
def Pipe.window (p : Pipe) (k : Nat) : List Nat := tget [] p.tags k

/-- The context holds no allocated tag. -/
def State.windowEmpty (s : State) (c : CtxId) : Bool := ((s.core (coreOf c)).pipe.window (kOf c)).isEmpty

/-- Every instruction packet of a pipe. -/
def Pipe.packets (p : Pipe) : List Packet := p.instrs.map Prod.snd ++ p.retire

/-- The packet that awaits the reply to a request. -/
def Pipe.asking (p : Pipe) (id : Nat) : Option Packet := p.packets.find? fun q => q.asks == some id

/-- The packet of context k that awaits the reply to a request at the tape. -/
def Pipe.asked (p : Pipe) (k : Nat) : Option Packet :=
  p.retire.find? fun q => q.ctx == k && q.asks.isSome && !q.complete

/-- The context awaits a reply. -/
def Ctx.inReply (x : Ctx) : Bool := match x.run with
  | .reply _ => true
  | .idle => false
  | .active => false
  | .waiting _ => false
  | .halted => false
  | .killed => false

/-- The request to which a message belongs: itself, or what a reply answers. -/
def Msg.request (m : Msg) : Nat := match m.body with
  | .reply of .. => of
  | _ => m.id

/-- The answer to a message is one that a waiting context takes whole, by its instruction (R208, R199). -/
def Body.bySquad : Body → Bool
  | .squad .. => true
  | .answer .. => true
  | .stampReq => true
  | .stamp _ => true
  | _ => false

/-- The context for which a message was sent is on its core under the launch of then, and awaits a reply to it: a packet of its in
the pipe does, or the context itself. -/
def State.present (s : State) (m : Msg) : Bool :=
  !s.savedFor (coreOf m.src) m.launch && (s.ctx m.src).row.launch.toNat == m.launch &&
  (((s.core (coreOf m.src)).pipe.asking m.request).isSome ||
    (m.body.bySquad && ((s.core (coreOf m.src)).pipe.asked (kOf m.src)).isSome) ||
    (s.windowEmpty m.src && (s.ctx m.src).inReply))

/-- A message of a launch waits at the network interface of a core that is pre-empted: no context of the launch is bound there
now (R289). -/
def State.waitsAt (s : State) (core : CoreId) (launch : Nat) : Bool :=
  !(s.images core).isEmpty && !(ctxsOf core).any fun c => (s.ctx c).row.v && (s.ctx c).row.launch.toNat == launch

/-! ### Vector clocks (R266) -/

/-- The entrywise maximum of two clocks. -/
def mergeClocks (a b : SMap Nat) : SMap Nat := b.foldl (fun m e => tset 0 m e.1 (max (tget 0 m e.1) e.2)) a

/-- The key under which a destination keeps the clock of what it has applied. -/
def Dest.key : Dest → Nat
  | .core c => 4 * c
  | .home p => 4 * p + 1
  | .directory d => 4 * d + 2
  | .port p => 16 * p + 3
  | .sequencer => 7
  | .controller l => 16 * l + 11
  | .ctx c => 16 * c + 15

/-- The clock of what a destination has applied. -/
def State.appliedAt (s : State) (d : Dest) : SMap Nat := tget [] s.applied d.key

/-- A destination has applied a message: its clock takes the message's. -/
def State.applied_ (s : State) (m : Msg) : State :=
  { s with applied := tset [] s.applied m.dest.key (mergeClocks (s.appliedAt m.dest) m.clock) }

/-- An acquire point of a context completes: its die's clock takes the maximum with a clock. -/
def State.acquire (s : State) (c : CtxId) (clock : SMap Nat) : State :=
  s.modDie (dieOf c) fun d => { d with clock := mergeClocks d.clock clock }

/-- What a message carries is numbered by its die: a posted write, an atomic, a mailbox increment or a message of software. -/
def Body.numbered : Body → Bool
  | .store .. => true
  | .mbInc .. => true
  | .load .. => false
  | .gather .. => false
  | .lr .. => false
  | .sc .. => true
  | .amo .. => true
  | .reply .. => false
  | .ack .. => false
  | .granule .. => true
  | .delivered .. => false
  | .returned .. => false
  | .refused .. => false
  | .refillReq .. => true
  | .named .. => true
  | .det .. => true
  | .vote .. => true
  | .stampReq => false
  | .stamp .. => false
  | .squad .. => true
  | .answer .. => false

/-- The packets that the baton counts (R75), sent from one core to another core's network interface. -/
def Body.counted : Body → Bool
  | .store kind .. => kind != .mem
  | .mbInc .. => true
  | .load .. => false
  | .gather .. => false
  | .lr .. => false
  | .sc .. => false
  | .amo .. => true
  | .reply .. => false
  | .ack .. => false
  | .granule .. => true
  | .delivered .. => false
  | .returned .. => false
  | .refused .. => false
  | .refillReq .. => false
  | .named .. => true
  | .det .. => false
  | .vote .. => false
  | .stampReq => false
  | .stamp .. => false
  | .squad .. => false
  | .answer .. => false

/-- The message is counted and goes to another core. -/
def Msg.counted (m : Msg) : Bool :=
  m.body.counted && match m.dest with
  | .core c => c != coreOf m.src
  | .home _ => false
  | .port _ => false
  | .directory _ => false
  | .sequencer => false
  | .controller _ => false
  | .ctx _ => false

/-- Send a message for a context. The name of the message is the nextId before. -/
def State.send (s : State) (c : CtxId) (dest : Dest) (body : Body) : State :=
  let die := dieOf c
  let old := (s.die die).clock
  let n := tget 0 old die + 1
  let clock := if body.numbered then tset 0 old die n else old
  let m : Msg := { id := s.nextId, src := c, launch := (s.ctx c).row.launch.toNat, die := die, source := .core (coreOf c),
                   dest := dest, body := body,
                   seq := if body.numbered then n else 0, clock := clock, retry := false, recorded := false }
  let s1 := s.modDie die fun d => { d with clock := clock }
  let s2 := { s1 with nextId := s.nextId + 1, net := s.net ++ [m] }
  if m.counted then s2.modCore (coreOf c) fun k => { k with msgCount := k.msgCount + 1 } else s2

/-- Send a message of the module itself for a context, from an endpoint, with a clock given. -/
def State.sendWith (s : State) (c : CtxId) (launch : Nat) (source dest : Dest) (body : Body) (clock : SMap Nat) : State :=
  { s with nextId := s.nextId + 1,
           net := s.net ++ [{ id := s.nextId, src := c, launch := launch, die := dieOf c, source := source, dest := dest,
                              body := body, seq := 0, clock := clock, retry := false, recorded := false }] }

/-- The messages sent before a message. -/
def State.before (s : State) (id : Nat) : List Msg := s.net.takeWhile fun m => m.id != id

/-- The die of a destination. -/
def State.dieAt (s : State) : Dest → Nat
  | .core c => dieOf c
  | .home p => dieOf (s.page p).home
  | .port p => dieOf p
  | .directory d => d
  | .ctx c => dieOf c
  | .sequencer => 0
  | .controller _ => 0

/-- A seal has committed on other dies and not yet on a die: what arrives there waits for its commit (log entry 40). -/
def State.crossing (s : State) (d : Nat) : Bool := s.seals.committing && (s.die d).prepared && !(s.die d).committed

/-- A message that a destination has still to apply and that a clock names: a write or message whose number is at most the entry of
its die (R266). One that the destination has recorded or sent back for a retry is ordered by its own service. -/
def Msg.named (q : Msg) (clock : SMap Nat) : Bool :=
  !q.recorded && !q.retry && q.seq != 0 && decide (q.seq ≤ tget 0 clock q.die)

/-- The bytes at its destination of a message that accesses them without regard to full/empty bits. -/
def Body.plainBytes : Body → Option (Nat × Nat)
  | .store _ a n _ .plain _ => some (a, n)
  | .load a n .plain _ _ => some (a, n)
  | .lr a => some (a, 8)
  | .sc a _ => some (a, 8)
  | .amo op a _ _ => some (a, if op = .fadd then 4 else 8)
  | _ => none

/-- The message releases what its context did before, to a mailbox, a channel or a named message of the core it goes to. -/
def Body.signals : Body → Bool
  | .mbInc .. => true
  | .granule .. => true
  | .named .. => true
  | _ => false

/-- A store that a full/empty table has recorded and that a message's clock names holds the message if this would access its bytes without
regard to full/empty bits, or signals for the same context (R260, R264; log entry 30). Qualified accesses are ordered by the table
(R96). -/
def State.behindRecorded (s : State) (m : Msg) : Bool :=
  s.net.any fun q => q.recorded && q.dest == m.dest && q.id != m.id && decide (q.seq ≤ tget 0 m.clock q.die) && match q.body with
    | .store _ a n _ _ _ => (q.src == m.src && q.launch == m.launch && m.body.signals) ||
        m.body.plainBytes.any fun r => decide (r.1 < a + n ∧ a < r.1 + r.2)
    | _ => false

/-- A destination takes a message when every write to itself that the carried clock names has been applied (R266), and every
earlier message from the same core to it has been taken (R26). A message that the destination has recorded or sent back for a
retry has been taken. -/
def State.ready (s : State) (m : Msg) : Bool :=
  !s.crossing (s.dieAt m.dest) && !s.behindRecorded m &&
  !(s.net.any fun q => q.id != m.id && q.dest == m.dest && q.named m.clock) &&
  !((s.before m.id).any fun q => coreOf q.src == coreOf m.src && q.dest == m.dest && !q.recorded && !q.retry && !s.behindRecorded q)

/-- The core to which a message comes back. -/
def Dest.backAt : Dest → Option CoreId
  | .ctx c => some (coreOf c)
  | .core _ => none
  | .home _ => none
  | .port _ => none
  | .directory _ => none
  | .sequencer => none
  | .controller _ => none

/-- What a channel's receiver sends back, which writes S at the sender (R203). -/
def Body.ofChannel : Body → Bool
  | .delivered .. => true
  | .returned .. => true
  | .refused .. => true
  | _ => false

/-- No log of a core has room for another line (R116). -/
def State.logFull (s : State) (core : CoreId) : Bool :=
  decide (112 ≤ (s.core core).undo.length) && decide (2 ^ 30 < undoBytes (s.die (dieOf core)).undo + 144)

/-- The endpoint of the network at which a destination lies: the homes of a port's pages are at that port (R26, R106). -/
def State.endpoint (s : State) (d : Dest) : Dest :=
  match d with
  | .home p => .port (s.page p).home
  | _ => d

/-- What comes back to a core is taken in the order in which its endpoint sent it (R26). A message that waits at the network interface
for its context, or at the bank for log capacity, has arrived and lets what follows it pass; channel answers keep their order among
themselves. -/
def State.inOrder (s : State) (m : Msg) : Bool :=
  !((s.before m.id).any fun q => s.endpoint q.source == s.endpoint m.source && q.dest.backAt.isSome && q.dest.backAt == m.dest.backAt &&
    !(if q.body.ofChannel then s.savedFor (coreOf q.src) q.launch else s.shut q) &&
    (m.body.ofChannel || !(q.body.ofChannel && s.logFull (coreOf q.src))))

/-- A counted message has been received by its core: the count falls and the core turns black (R75). -/
def State.received (s : State) (m : Msg) : State :=
  match m.dest with
  | .core c => if m.counted then s.modCore c fun k => { k with msgCount := k.msgCount - 1, black := true } else s
  | .home _ => s
  | .port _ => s
  | .directory _ => s
  | .sequencer => s
  | .controller _ => s
  | .ctx _ => s

/-- A destination has performed a message: it leaves the network and its clock is applied. -/
def State.took (s : State) (m : Msg) : State := ((s.received m).applied_ m).dropMsg m.id

/-- What a core performs at its own bank or mailbox is applied there under its die's clock (R261, R266): a later read or wait takes
that clock. -/
def State.stampAt (s : State) (core : CoreId) : State :=
  let d : Dest := .core core
  { s with applied := tset [] s.applied d.key (mergeClocks (s.appliedAt d) (s.die (dieOf core)).clock) }

/-- The same for the core of the current context. -/
def State.stampHere (s : State) : State := s.stampAt (coreOf s.cur)

/-- What an engine, an atomic or a mailbox increment of a die does at a destination is numbered by the die and applied there at once
(R266). -/
def State.numberAt (s : State) (die : Nat) (d : Dest) : State :=
  let old := (s.die die).clock
  let clock := tset 0 old die (tget 0 old die + 1)
  let t := s.modDie die fun q => { q with clock := clock }
  { t with applied := tset [] t.applied d.key (mergeClocks (s.appliedAt d) clock) }

/-- Answer a message. -/
def State.answerTo (s : State) (m : Msg) (body : Body) : State :=
  (s.took m).sendWith m.src m.launch m.dest (.ctx m.src) body (mergeClocks (s.appliedAt m.dest) m.clock)

/-! ### Posted stores (R100, R102) -/

/-- A posted operation of a context: its counter rises and the message goes. -/
def State.post (s : State) (c : CtxId) (k : PostKind) (dest : Dest) (body : Body) : State :=
  (s.send c dest body).modCtx c fun x => x.setCount k (x.count k + 1)

/-- A posted store of bytes to S or to global memory: it also enters the store buffer, with `extra` entries of the same store. -/
def State.postStore (s : State) (c : CtxId) (k : PostKind) (dest : Dest) (core : Option CoreId) (addr size data : Nat)
    (fe : FeQual) (ea : Word) (extra : List SbEntry) : State :=
  let id := s.nextId
  (s.post c k dest (.store k addr size data fe ea)).modCore (coreOf c) fun q =>
    { q with storeBuf := q.storeBuf ++ { msg := id, ctx := c, core := core, addr := addr, size := size, data := data } :: extra }

/-- The entries of the core that sent a message, wherever it is held. -/
def State.entriesOf (s : State) (m : Msg) : List SbEntry :=
  match (s.images (coreOf m.src)).find? fun q => Image.ofLaunch q m.launch with
  | some q => q.1.storeBuf
  | none => (s.core (coreOf m.src)).storeBuf

/-- The bytes of an access that the stores of its core, sent before it and not yet performed, give (R94, R102). -/
def State.bytesFor (s : State) (m : Msg) (core : Option CoreId) (a n : Nat) : List (Nat × Nat) :=
  forwards ((s.entriesOf m).filter fun e => decide (e.msg < m.id) && s.pending e) core a n

/-- The part of a posted store below the carve-out's limit, in S of the core that sent it (R109). -/
def State.lowerPart (s : State) (m : Msg) : Option SbEntry := (s.entriesOf m).find? fun e => e.msg == m.id && e.core.isSome

/-- A counter falls by one. -/
def Ctx.lower (x : Ctx) (k : PostKind) : Ctx := if x.count k = 0 then x else x.setCount k (x.count k - 1)

/-- A posted store has been acknowledged: the counter falls and its entry leaves the store buffer. -/
def State.acked (s : State) (m : Msg) (k : PostKind) (of_ : Nat) : State :=
  (s.modSender m fun x => x.lower k).modSenderCore m fun q =>
    { q with storeBuf := q.storeBuf.filter fun e => e.msg != of_ }

/-! ### Dropped writes (R397, R399) -/

/-- ceaddr of a dropped write addressed outside the job. -/
def outsideCeaddr (id off : Nat) : Word := BitVec.ofNat 64 (2 ^ 63 + off % 2 ^ 18 * 2 ^ 32 + id % 2 ^ 32)

/-- Report a dropped write to a context. -/
def State.dropped (s : State) (c : CtxId) (ceaddr : Word) : State := s.modCtx c fun x => x.pend causeDropped ceaddr

/-- Report a dropped write to the sender of a message. -/
def State.droppedOf (s : State) (m : Msg) (ceaddr : Word) : State := s.modSender m fun x => x.pend causeDropped ceaddr

/-- A context stops waiting in a full/empty table and in its mailbox unit: its own recorded access is withdrawn (R96, R99, R351). -/
def State.withdraw (s : State) (c : CtxId) : State :=
  (s.modCore (coreOf c) fun k => { k with feWait := k.feWait.filter fun w => !(w.ctx == c && w.msg == none) }).modCtx c fun x =>
    { x with met := false }

/-- A message was sent for a context under the launch that binds it now. -/
def State.sentBy (s : State) (c : CtxId) (m : Msg) : Bool := m.src == c && m.launch == (s.ctx c).row.launch.toNat

/-- The messages of a context that await an answer are given up: its read requests and its replies leave the network, and an access
of it that a table of another core has recorded is withdrawn. A reservation or atomic that has been sent is still performed. -/
def State.forget (s : State) (c : CtxId) : State :=
  let p := (s.core (coreOf c)).pipe
  let awaited (m : Msg) : Bool := (p.asking m.request).isSome || (m.body.bySquad && (p.asked (kOf c)).isSome)
  let mine (m : Msg) : Bool := s.sentBy c m && !awaited m && (match m.body with
    | .load .. => true
    | .gather .. => true
    | .lr .. => false
    | .sc .. => false
    | .amo .. => false
    | .reply .. => true
    | .squad .. => true
    | .answer .. => true
    | .stampReq => true
    | .stamp .. => true
    | .store .. => false
    | .mbInc .. => false
    | .ack .. => false
    | .granule .. => false
    | .delivered .. => false
    | .returned .. => false
    | .refused .. => false
    | .refillReq .. => false
    | .named .. => false
    | .det .. => false
    | .vote .. => false)
  let gone := (s.net.filter mine)
  let s1 := gone.foldl (fun t m => match m.dest with
    | .core k => t.modCore k fun q => { q with feWait := q.feWait.filter fun w => w.msg != some m.id }
    | .home _ => t
    | .port _ => t
    | .directory _ => t
    | .sequencer => t
    | .controller _ => t
    | .ctx _ => t) s
  { s1 with net := s1.net.filter fun m => !mine m }

end Sys2Proof.Machine
end

