-- ==== Sys2Proof/Machine/Access.lean ====
section
/-! DEFINITION. What the bank unit of a core and the home of a page do with an access: loads, stores, reservations, atomics
(R95, R106, R108, R117, R118, R193 to R196), the requests for a seal (R115), and the full/empty wait table (R96). -/

namespace Sys2Proof.Machine

/-! ### Atomics (R196) -/

/-- The new value of an atomic, none where it writes nothing, and the flags it raises. -/
def AmoOp.apply (op : AmoOp) (old : Nat) (x cmp : Word) : Option Nat × Flags :=
  let o : Word := BitVec.ofNat 64 old
  match op with
  | .add => (some (o + x).toNat, 0)
  | .and => (some (o &&& x).toNat, 0)
  | .or => (some (o ||| x).toNat, 0)
  | .xor => (some (o ^^^ x).toNat, 0)
  | .min => (some (if o.toInt ≤ x.toInt then o else x).toNat, 0)
  | .max => (some (if o.toInt ≤ x.toInt then x else o).toNat, 0)
  | .minn => (some (if o.toNat ≤ x.toNat then o else x).toNat, 0)
  | .maxn => (some (if o.toNat ≤ x.toNat then x else o).toNat, 0)
  | .swp => (some x.toNat, 0)
  | .cas => (if o = cmp then some x.toNat else none, 0)
  | .fadd => let r := f32.add (old % 2 ^ 32) (x.toNat % 2 ^ 32); (some r.1, r.2)

/-- Bytes an atomic acts on. -/
def AmoOp.size (op : AmoOp) : Nat := if op = .fadd then 4 else 8

/-- Bytes a reservation or an atomic reads. -/
def RefKind.size : RefKind → Nat
  | .amo op _ => op.size
  | .lr => 8
  | .sc => 8
  | .load => 8
  | .store => 8

/-! ### Single-bit errors met by a read (R93, R400, R402) -/

/-- A word that n bytes from an address touch holds a single-bit error. -/
def Mem.singleIn (m : Mem) (a n : Nat) : Bool := (blocks 8 a n).any fun w => m.wordMark w == .single

/-- The corrected words that n bytes from an address touch are written back: their lines' write sequences advance (R400). -/
def Mem.writeBack (m : Mem) (line a n : Nat) : Mem :=
  let ws := (blocks 8 a n).filter fun w => m.wordMark w == .single
  { m with mark := ws.foldl (fun q w => tset .sound q w .sound) m.mark
           lineSeq := ((ws.map fun w => 8 * w / line).eraseDups).foldl (fun q l => tset 0 q l (tget 0 q l + 1)) m.lineSeq }

/-- The words of S that n bytes touch and that yield a single-bit error are counted (R402) and written back corrected. -/
def Core.readBackS (k : Core) (off n : Nat) : Core :=
  if k.s.singleIn off n then
    { k with singles := (blocks 8 off n).foldl (fun q w => if k.s.wordMark w == .single then tset 0 q w (tget 0 q w + 1) else q) k.singles
             s := k.s.writeBack 128 off n }
  else k

def State.readBackS (s : State) (core : CoreId) (off n : Nat) : State :=
  if (s.core core).s.singleIn off n then s.modCore core fun k => k.readBackS off n else s

/-- The same for global memory. -/
def State.readBackG (s : State) (a n : Nat) : State :=
  if s.gMarked Mem.singleIn a n then
    (partsOn a n).foldl (fun t p => match t.phys p.1 with
      | some q => { t with gmem := t.gmem.writeBack 64 q p.2 }
      | none => t) s
  else s

/-! ### The home of a page (R106, R108, R117, R118) -/

/-- The page table entry of an address. -/
def State.pageAt (s : State) (va : Nat) : Page := s.page (pageOf va)

/-- The bytes of an access as the home sees them: memory with the bytes of the held writes laid over it, newest last (R118). -/
def State.homeRead (s : State) (page va n : Nat) : Nat :=
  let held := (s.die (dieOf (s.page page).home)).hold
  held.foldl (fun v w => overlay v ((span 0 n).filterMap fun i =>
    let o := jminus (jplus va i) w.va
    if o < w.size then some (i, w.data / 256 ^ o % 256) else none)) (s.gRead va n)

/-- The newest held write that covers a byte of global memory (R118). -/
def heldOver (held : List HeldWrite) (va : Nat) : Option HeldWrite :=
  held.foldl (fun r w => if jminus va w.va < w.size then some w else r) none

/-- A byte of an access at the home is poisoned: that of the newest held write over it, else that of memory. -/
def State.homePoisoned (s : State) (page va n : Nat) : Bool :=
  let held := (s.die (dieOf (s.page page).home)).hold
  (span 0 n).any fun i => match heldOver held (jplus va i) with
    | some w => w.poison
    | none => s.gPoisoned (jplus va i) 1

/-- What a write at the home comes to. -/
inductive Wrote where
  /-- performed -/
  | yes (s : State)
  /-- waits at the home for log capacity or hold-queue space (R116, R117) -/
  | full (s : State)

/-- The condition of a WAITVAL (R285). -/
def Command.holds (c : Command) (v : Word) : Bool :=
  match c.mode.toNat with
  | 0 => v == c.value
  | 1 => decide (c.value.toNat ≤ v.toNat)
  | _ => decide ((v - c.value).toNat < 2 ^ 63)

/-- A WAITVAL that has started watches a doubleword of which n bytes from an address touch a byte. -/
def Pending.watches (p : Pending) (job va n : Nat) : Bool :=
  p.cmd.op == 3 && p.started && !p.done && !p.met &&
    (decide (jminus va (jaddr job p.cmd.addr.toNat) < 8) || decide (jminus (jaddr job p.cmd.addr.toNat) va < n))

/-- A command that watches what a write at the home has written is tested there (R285). -/
def State.testPending (s : State) (job va n : Nat) (p : Pending) : Pending :=
  let a := jaddr job p.cmd.addr.toNat
  if p.watches job va n && p.cmd.holds (BitVec.ofNat 64 (s.homeRead (pageOf a) a 8)) then { p with met := true } else p

/-- The commands of a job. -/
def Job.mapCmds (j : Job) (f : Pending → Pending) : Job :=
  { j with queues := j.queues.map fun e => (e.1, e.2.map fun q => { q with cmds := q.cmds.map f }) }

/-- Every WAITVAL that watches the bytes of a write is tested. -/
def State.testWaits (s : State) (va n : Nat) : State :=
  { s with jobs := s.jobs.map fun e => (e.1, e.2.map fun j => j.mapCmds (s.testPending e.1 va n)) }

/-- A write on its way into a hold queue, in pieces of up to 64 bytes (R117). -/
def heldPieces (w : HeldWrite) : List HeldWrite :=
  (span 0 ((w.size + 63) / 64)).map fun i =>
    { w with va := jplus w.va (64 * i), size := min 64 (w.size - 64 * i), data := w.data / 2 ^ (512 * i) % 256 ^ min 64 (w.size - 64 * i) }

/-- A write enters a die's hold queue; the entry that fills the queue requests a seal (R115, R117). -/
def State.holdWrite (s : State) (die : Nat) (w : HeldWrite) : State :=
  let t := s.modDie die fun d => { d with hold := d.hold ++ [w] }
  if 4096 ≤ (t.die die).hold.length then t.requestSeal true else t

/-- A write of n bytes at the home of its page: held on an irrevocable page but in a fault mailbox (R420), otherwise logged and performed,
the reservations of other contexts broken. The writer is a context under a launch, with its ea. -/
def State.homeWrite (s : State) (va n v : Nat) (writer : Option (CtxId × Nat × Word)) : Wrote :=
  let p := s.pageAt va
  let die := dieOf p.home
  if p.irrevocable && !s.inFmbox va then
    let ws := heldPieces { va := va, size := n, data := v, split := s.seals.split, poison := false, writer := writer }
    if (s.die die).hold.length + ws.length ≤ 4096 then .yes ((ws.foldl (fun t w => t.holdWrite die w) s).testWaits va n)
    else .full (s.requestSeal true)
  else match s.logGRange va n with
    | none => .full (s.requestSeal true)
    | some t => .yes (((t.gWriteRaw va n v).testWaits va n).breakResvs (.home p.home) va n (writer.map Prod.fst))

/-! ### The full/empty wait table (R96) -/

/-- The condition of a recorded access holds. -/
def Core.feHolds (k : Core) (w : FeWaiter) : Bool := k.allFe w.off w.size w.wantFull

/-- A recorded access touches a granule. -/
def FeWaiter.touches (w : FeWaiter) (g : Nat) : Bool := (blocks 16 w.off w.size).contains g

/-- A new access may not pass a recorded one on its granules whose condition holds. -/
def Core.feTurn (k : Core) (c : CtxId) (msg : Option Nat) (off n : Nat) : Bool :=
  !((k.feWait.takeWhile fun w => !(w.ctx == c && w.msg == msg)).any fun w =>
    k.feHolds w && (blocks 16 off n).any fun g => w.touches g)

/-- Record an access that waits; the table has an entry for each context and 48 for accesses of other cores. None when those are
in use. -/
def Core.record (k : Core) (w : FeWaiter) : Option Core :=
  if k.feWait.any (fun q => q.ctx == w.ctx && q.msg == w.msg) then some k
  else if w.msg.isSome && decide (48 ≤ (k.feWait.filter fun q => q.msg.isSome).length) then none
  else some { k with feWait := k.feWait ++ [w] }

/-- A recorded access leaves the table. -/
def Core.unrecord (k : Core) (c : CtxId) (msg : Option Nat) : Core :=
  { k with feWait := k.feWait.filter fun q => !(q.ctx == c && q.msg == msg) }

/-! ### The bank unit of a core (R92, R95) -/

/-- What an access at a bank comes to. -/
inductive Banked where
  /-- performed: the value read and the flags -/
  | done (s : State) (value : Nat)
  /-- a poisoned word is consumed, or a narrow store over one is not performed (R421) -/
  | poison
  /-- the full/empty condition does not hold -/
  | wait
  /-- the log is full (R116) -/
  | full

/-- A load at a bank. -/
def State.bankLoad (s : State) (c : CtxId) (msg : Option Nat) (core : CoreId) (off n : Nat) (fe : FeQual)
    (own : List (Nat × Nat)) : Banked :=
  let k := s.core core
  if fe != .plain && !(k.allFe off n true && k.feTurn c msg off n) then .wait
  else if k.s.consumes off n own then .poison
  else
    let v := overlay (k.s.cells.read off n) own
    let b := s.readBackS core off n
    match fe with
    | .plain => .done b v
    | .first => .done (b.modCore core fun q => q.unrecord c msg) v
    | .second => match b.setFe core off n false with
      | none => .full
      | some t => .done (t.modCore core fun q => q.unrecord c msg) v

/-- A store at a bank. A store narrower than 64 bits over a poisoned word is not performed. -/
def State.bankStore (s : State) (c : CtxId) (msg : Option Nat) (core : CoreId) (off n v : Nat) (fe : FeQual) : Banked :=
  let k := s.core core
  if fe == .second && !(k.allFe off n false && k.feTurn c msg off n) then .wait
  else if k.s.poisonedPart off n then .poison
  else match s.writeS core off n v (some c) with
    | none => .full
    | some u =>
      match fe with
      | .plain => .done u 0
      | .first => match u.setFe core off n true with
        | none => .full
        | some w => .done w 0
      | .second => match u.setFe core off n true with
        | none => .full
        | some w => .done (w.modCore core fun q => q.unrecord c msg) 0

/-! ### Reservations (R193) -/

/-- A context's reservation is held there and covers an address. -/
def State.holds (s : State) (c : CtxId) (h : Holder) (a : Nat) : Bool :=
  (s.ctx c).resv == some { ctx := c, holder := h, granule := a / 16 * 16 }

/-- What a reservation or an atomic comes to at the unit that performs it: state, value, flags, mark. -/
inductive Atom where
  | done (s : State) (value : Nat) (flags : Flags) (mark : ReplyMark)
  /-- the log is full -/
  | full (s : State)

/-- LR, SC or an atomic of a context at a bank. A context that is no longer there (`here` false) holds no reservation (R194). -/
def State.bankAtom (s0 : State) (c : CtxId) (here : Bool) (core : CoreId) (off : Nat) (k : RefKind) (x cmp : Word) : Atom :=
  let s := s0.readBackS core off k.size
  let q := s.core core
  let lose (t : State) : State := if here then t.loseResv c else t
  let write (t : State) (n v : Nat) (r : Nat) (f : Flags) : Atom :=
    match t.writeS core off n v (some c) with
    | none => .full t
    | some u => .done u r f .ok
  match k with
  | .lr =>
    if q.s.poisoned off 8 then .done (lose s) 0 0 .poison
    else .done (if here then s.reserve c (.bank core) off else s) (q.s.cells.read off 8) 0 .ok
  | .sc =>
    if q.s.poisoned off 8 then .done (lose s) 0 0 .poison
    else if here && s.holds c (.bank core) off then
      match write s 8 x.toNat 0 0 with
      | .done t v f e => .done (lose t) v f e
      | .full t => .full t
    else .done (lose s) 1 0 .ok
  | .amo op _ =>
    if q.s.poisoned off op.size then .done (lose s) 0 0 .poison
    else
      let old := q.s.cells.read off op.size
      match op.apply old x cmp with
      | (none, f) => .done s old f .ok
      | (some new, f) => write s op.size new old f
  | .load => .full s
  | .store => .full s

/-- LR, SC or an atomic at the home of its page, for a message. -/
def State.homeAtom (s0 : State) (m : Msg) (va : Nat) (k : RefKind) (x cmp : Word) : Atom :=
  let s := s0.readBackG va k.size
  let c := m.src
  let here := s.present m
  let p := s.pageAt va
  let lose (t : State) : State := if here then t.loseResv c else t
  let hold (t : State) : State := if here then t.reserve c (.home p.home) va else t
  let held := here && s.holds c (.home p.home) va
  let reported (t : State) : State := t.droppedOf m (BitVec.ofNat 64 (vaddr va))
  if p.discarded then
    match k with
    | .lr => .done (hold s) 0 fDZR .ok
    | .sc => if held then .done (reported (lose s)) 0 0 .ok else .done (lose s) 1 0 .ok
    | .amo _ _ => .done (reported s) 0 fDZR .ok
    | .load => .full s
    | .store => .full s
  else if p.irrevocable then .done (lose s) 0 0 .irrevocable
  else if s.gPoisoned va k.size then .done (lose s) 0 0 .poison
  else match k with
    | .lr => .done (hold s) (s.gRead va 8) 0 .ok
    | .sc =>
      if held then
        match s.homeWrite va 8 x.toNat (some (c, m.launch, 0)) with
        | .yes t => .done (lose t) 0 0 .ok
        | .full t => .full t
      else .done (lose s) 1 0 .ok
    | .amo op _ =>
      let old := s.gRead va op.size
      match op.apply old x cmp with
      | (none, f) => .done s old f .ok
      | (some new, f) => match s.homeWrite va op.size new (some (c, m.launch, 0)) with
        | .yes t => .done t old f .ok
        | .full t => .full t
    | .load => .full s
    | .store => .full s

end Sys2Proof.Machine
end

