-- ==== Sys2Proof/Machine/MemoryAcc.lean ====
section
/-! DEFINITION. Loads, stores, reservations and atomics (R187 to R197): the checks at C4, the wait for the named counter, then the
access itself, at the core's own bank at once and otherwise as a message. A meaning for each of the opcodes 0x50 to 0x55. -/

namespace Sys2Proof.Machine

/-- Perform the instruction as a request whose reply the context awaits (R188); a wait there starts its count of laps at 0 under
the cwlim of now (R404). -/
def State.ask (s : State) (i : Instr) (dest : Dest) (body : Body) : State :=
  (s.send s.cur dest body).modMe fun x => { x with run := .reply i, waitLaps := 0, waitLimit := x.cwlim }

/-- A read of a context has returned a write: an acquire takes its clock, and those of the context's earlier plain reads, into the die's at
once; a plain read leaves its own to the context's next FENCE or acquire (R261, R266). -/
def State.observe (s : State) (c : CtxId) (acquires : Bool) (clock : SMap Nat) : State :=
  if acquires then (s.acquire c clock).acquire c (s.ctx c).seen else s.modCtx c fun x => { x with seen := mergeClocks x.seen clock }

/-- A read at the core's own bank or mailbox. -/
def State.acquireHere (s : State) (acquires : Bool) : State := s.observe s.cur acquires (s.appliedAt (.core s.myCore))

/-- A local access that a full log stops (R116). -/
def State.waitsLog (s : State) : State := (s.requestSeal true).waits .log

/-- Record a waiting access of the core's own and wait for its granule (R53, R96). -/
def State.waitsGranule (s : State) (off size : Nat) (wantFull clear : Bool) (data : Nat) : State :=
  let w : FeWaiter := { ctx := s.cur, msg := none, off := off, size := size, wantFull := wantFull, clear := clear, data := data }
  (s.modCore s.myCore fun k => (k.record w).getD k).waits (.granule (off / 16 * 16))

/-! ### Loads (R191) -/

/-- A context's own recorded access ends without being performed: it leaves the table (R96). -/
def State.withdrawn (s : State) : State := s.modCore s.myCore fun k => k.unrecord s.cur none

/-- A load at the core's own bank. -/
def State.loadBank (s : State) (r : MemRef) (ea : Word) (off : Nat) : Out :=
  let own := s.ownBytes (some s.myCore) off r.size
  match s.bankLoad s.cur none s.myCore off r.size r.m.fe own with
  | .done t v => .next ((t.acquireHere r.acquires).done r.bytes (r.land v))
  | .poison => s.withdrawn.refuse causePoison ea
  | .wait => .next (s.waitsGranule off r.size true (r.m.fe == .second) 0)
  | .full => .next s.waitsLog

/-- Unperformed stores of the store buffer give every byte of a plain load, which then needs nothing from its destination (R102,
R267): the value, if so. A page that is discarded or not resident is left to its home. -/
def State.rfsLoad (s : State) (r : MemRef) (core : Option CoreId) (a : Nat) : Option Nat :=
  let own := s.ownBytes core a r.size
  let page := s.pageAt a
  if r.m.fe == .plain && own.length == r.size && (core.isSome || (page.resident && !page.discarded)) then some (overlay 0 own) else none

/-- A load that has passed its checks. -/
def State.loadAt (s : State) (i : Instr) (r : MemRef) (ea : Word) : Out :=
  match s.place s.cur r.m ea.toNat r.size with
  | .bank off => s.loadBank r ea off
  | .other core off => (match s.rfsLoad r (some core) off with
    | some v => .next (s.done r.bytes (r.land v))
    | none => .next (s.ask i (.core core) (.load off r.size r.m.fe 0 0)))
  | .glob va => (match s.rfsLoad r none va with
    | some v => .next (s.done r.bytes (r.land v))
    | none => .next (s.ask i (.home (pageOf va)) (.load va r.size .plain 0 0)))
  | .both off lower va => .next (s.ask i (.home (pageOf va)) (.load (jplus va (2 ^ 52 - lower)) r.size .plain lower off))
  | .outside _ _ => .next (s.done r.bytes fun x => (r.land 0 x).raise fDZR)

/-- A load: its checks, its wait count, the access. -/
def State.load (s : State) (i : Instr) : Out :=
  match Instr.ref i with
  | none => .next s
  | some r =>
    let ea := MemAddr.ea r.m s.me r.off
    match s.me.accessRefusal r.m r.kind ea.toNat r.size with
    | some cause => s.refuse cause ea
    | none => if s.me.waitCountZero r.m.wc then s.loadAt i r ea else .next (s.waits .counters)

/-! ### Stores (R192) -/

/-- A narrow store over a poisoned word is not performed and reported by an imprecise trap (R421). -/
def State.poisonedStore (s : State) (ea : Word) : State := s.modMe (·.pend causePoison ea)

/-- A store at the core's own bank; it waits while it would pass an older posted store of its context. -/
def State.storeBank (s : State) (r : MemRef) (ea : Word) (off size v : Nat) : Out :=
  if s.passes off size then .next (s.waits .older)
  else match s.bankStore s.cur none s.myCore off size v r.m.fe with
    | .done t _ => .next (t.stampHere.done r.bytes id)
    | .poison => .next ((s.withdrawn.poisonedStore ea).done r.bytes id)
    | .wait => .next (s.waitsGranule off size false false v)
    | .full => .next s.waitsLog

/-- There is room for a posted store of a kind, in its counter and in the store buffer. -/
def State.storeRoom (s : State) (k : PostKind) : Bool := s.me.countRoom k && s.bufferRoom s.cur

/-- A store that has passed its checks. One that straddles the carve-out's limit is posted as a whole: the home writes its lower
bytes to S when it performs the others, so that all are written at one moment (R109, R258). -/
def State.storeAt (s : State) (r : MemRef) (ea : Word) : Out :=
  let v := r.data s.me
  match s.place s.cur r.m ea.toNat r.size with
  | .bank off => s.storeBank r ea off r.size v
  | .other core off =>
    let k := kindTo s.cur core
    if s.storeRoom k then
      .next ((s.postStore s.cur k (.core core) (some core) off r.size v r.m.fe ea []).done r.bytes id)
    else .next (s.waits .postRoom)
  | .glob va =>
    if s.storeRoom .mem then
      .next ((s.postStore s.cur .mem (.home (pageOf va)) none va r.size v .plain ea []).done r.bytes id)
    else .next (s.waits .postRoom)
  | .both off lower va =>
    if s.storeRoom .mem then
      .next ((s.postStore s.cur .mem (.home (pageOf va)) none va (r.size - lower) (v / 256 ^ lower) .plain ea
        [SbEntry.mk s.nextId s.cur (some s.myCore) off lower (v % 256 ^ lower)]).done r.bytes id)
    else .next (s.waits .postRoom)
  | .outside id off => .next ((s.dropped s.cur (outsideCeaddr id off)).done r.bytes fun x => x)

/-- A store: its checks, its wait count, the access. -/
def State.store (s : State) (i : Instr) : Out :=
  match Instr.ref i with
  | none => .next s
  | some r =>
    let ea := MemAddr.ea r.m s.me r.off
    match s.me.accessRefusal r.m r.kind ea.toNat r.size with
    | some cause => s.refuse cause ea
    | none => if s.me.waitCountZero r.m.wc then s.storeAt r ea else .next (s.waits .counters)

/-! ### Reservations and atomics (R193, R196, R197) -/

/-- The request of a reservation or an atomic. -/
def RefKind.body (k : RefKind) (a : Nat) (x cmp : Word) : Body :=
  match k with
  | .lr => .lr a
  | .sc => .sc a x.toNat
  | .amo op _ => .amo op a x cmp
  | .load => .lr a
  | .store => .lr a

/-- LR, SC or an atomic addressed outside the job: zero is returned, its write is dropped and reported (R399). -/
def State.atomOutside (s : State) (r : MemRef) (id off : Nat) : State :=
  let t := match r.kind with
    | .lr => s.loseResv s.cur
    | .sc => (s.loseResv s.cur).dropped s.cur (outsideCeaddr id off)
    | .amo .. => s.dropped s.cur (outsideCeaddr id off)
    | .load => s
    | .store => s
  t.done r.bytes fun x => (r.land 0 x).raise fDZR

/-- A .D update in deterministic mode (R197, R376): posted to the home's port, with 0 written to g[d]; to an irrevocable page it
is dropped at the issuing port. R197 does not say whether an update takes one of the 64 store-buffer entries of R102: the model gives it none
and only lets it wait for room in the mem counter (DESIGN CHOICE, log entry 61). -/
def State.update (s : State) (r : MemRef) (op : AmoOp) (va : Nat) (ea : Word) : Out :=
  let x := s.me
  let land (t : State) : Out := .next (t.done r.bytes (r.land 0))
  if (s.pageAt va).irrevocable then land (s.dropped s.cur (BitVec.ofNat 64 (vaddr va)))
  else if x.countRoom .mem then
    land (s.post s.cur .mem (.port (s.pageAt va).home)
      (.det op va (x.readG r.b) (x.readG (Fin.ofNat 32 r.d)) ea x.row.launch.toNat x.tile x.round))
  else .next (s.waits .postRoom)

/-- The operation is a .D update: cmode.DA is set (R197). -/
def MemRef.isUpdate (r : MemRef) (x : Ctx) : Option AmoOp :=
  match r.kind with
  | .amo op true => if x.da then some op else none
  | .amo _ false => none
  | .lr => none
  | .sc => none
  | .load => none
  | .store => none

/-- A reservation or atomic that has passed its checks. -/
def State.atomAt (s : State) (i : Instr) (r : MemRef) (ea : Word) : Out :=
  let x := s.me.readG r.b
  let cmp := s.me.readG (Fin.ofNat 32 r.d)
  match s.place s.cur r.m ea.toNat r.size with
  | .bank off =>
    if s.passes off r.size then .next (s.waits .older)
    else match s.bankAtom s.cur true s.myCore off r.kind x cmp with
      | .done t v f .ok => .next (((t.acquireHere r.acquires).numberAt (dieOf s.cur) (.core s.myCore)).performed r.bytes f (r.land v))
      | .done t _ _ .poison => t.refuse causePoison ea
      | .done t _ _ .pageWait => t.refuse causePoison ea
      | .done t _ _ .irrevocable => t.refuse causeRights ea
      | .full _ => .next s.waitsLog
  | .other core off => .next (s.ask i (.core core) (r.kind.body off x cmp))
  | .glob va =>
    match r.isUpdate s.me with
    | some op => s.update r op va ea
    | none => .next (s.ask i (.home (pageOf va)) (r.kind.body va x cmp))
  | .both _ _ va => .next (s.ask i (.home (pageOf va)) (r.kind.body va x cmp))
  | .outside id off => .next (s.atomOutside r id off)

/-- A reservation or atomic: its checks, its wait count, the access. -/
def State.atom (s : State) (i : Instr) : Out :=
  match Instr.ref i with
  | none => .next s
  | some r =>
    let ea := MemAddr.ea r.m s.me r.off
    match s.me.accessRefusal r.m r.kind ea.toNat r.size with
    | some cause => s.refuse cause ea
    | none => if s.me.waitCountZero r.m.wc then s.atomAt i r ea else .next (s.waits .counters)

/-! ### The meanings -/

def execLdb (d : GReg) (m : MemAddr) (off : BitVec 12) (s : State) : Out := s.load (.ldb d m off)
def execLdbn (d : GReg) (m : MemAddr) (off : BitVec 12) (s : State) : Out := s.load (.ldbn d m off)
def execLdh (d : GReg) (m : MemAddr) (off : BitVec 12) (s : State) : Out := s.load (.ldh d m off)
def execLdhn (d : GReg) (m : MemAddr) (off : BitVec 12) (s : State) : Out := s.load (.ldhn d m off)
def execLdw (d : GReg) (m : MemAddr) (off : BitVec 12) (s : State) : Out := s.load (.ldw d m off)
def execLdwn (d : GReg) (m : MemAddr) (off : BitVec 12) (s : State) : Out := s.load (.ldwn d m off)
def execLdd (d : GReg) (m : MemAddr) (off : BitVec 12) (s : State) : Out := s.load (.ldd d m off)
def execLdg (d : GReg) (m : MemAddr) (off : BitVec 12) (s : State) : Out := s.load (.ldg d m off)
def execLdv (d : VReg) (m : MemAddr) (off : BitVec 12) (s : State) : Out := s.load (.ldv d m off)
def execStb (d : GReg) (m : MemAddr) (off : BitVec 12) (s : State) : Out := s.store (.stb d m off)
def execSth (d : GReg) (m : MemAddr) (off : BitVec 12) (s : State) : Out := s.store (.sth d m off)
def execStw (d : GReg) (m : MemAddr) (off : BitVec 12) (s : State) : Out := s.store (.stw d m off)
def execStd (d : GReg) (m : MemAddr) (off : BitVec 12) (s : State) : Out := s.store (.std d m off)
def execStg (d : GReg) (m : MemAddr) (off : BitVec 12) (s : State) : Out := s.store (.stg d m off)
def execStv (d : VReg) (m : MemAddr) (off : BitVec 12) (s : State) : Out := s.store (.stv d m off)
def execLr (d : GReg) (m : MemAddr) (off : BitVec 12) (s : State) : Out := s.atom (.lr d m off)
def execSc (d b : GReg) (m : MemAddr) (off : BitVec 12) (s : State) : Out := s.atom (.sc d b m off)
def execAmoadd (d b : GReg) (dd : Bool) (m : MemAddr) (off : BitVec 12) (s : State) : Out :=
  s.atom (.amoadd d b dd m off)
def execAmoand (d b : GReg) (dd : Bool) (m : MemAddr) (off : BitVec 12) (s : State) : Out :=
  s.atom (.amoand d b dd m off)
def execAmoor (d b : GReg) (dd : Bool) (m : MemAddr) (off : BitVec 12) (s : State) : Out :=
  s.atom (.amoor d b dd m off)
def execAmoxor (d b : GReg) (dd : Bool) (m : MemAddr) (off : BitVec 12) (s : State) : Out :=
  s.atom (.amoxor d b dd m off)
def execAmomin (d b : GReg) (dd : Bool) (m : MemAddr) (off : BitVec 12) (s : State) : Out :=
  s.atom (.amomin d b dd m off)
def execAmomax (d b : GReg) (dd : Bool) (m : MemAddr) (off : BitVec 12) (s : State) : Out :=
  s.atom (.amomax d b dd m off)
def execAmominn (d b : GReg) (dd : Bool) (m : MemAddr) (off : BitVec 12) (s : State) : Out :=
  s.atom (.amominn d b dd m off)
def execAmomaxn (d b : GReg) (dd : Bool) (m : MemAddr) (off : BitVec 12) (s : State) : Out :=
  s.atom (.amomaxn d b dd m off)
def execAmoswp (d b : GReg) (dd : Bool) (m : MemAddr) (off : BitVec 12) (s : State) : Out :=
  s.atom (.amoswp d b dd m off)
def execAmocas (d b : GReg) (dd : Bool) (m : MemAddr) (off : BitVec 12) (s : State) : Out :=
  s.atom (.amocas d b dd m off)
def execAmofadd (d b : GReg) (dd : Bool) (m : MemAddr) (off : BitVec 12) (s : State) : Out :=
  s.atom (.amofadd d b dd m off)
def execLdbF96m (d : GReg) (m : MemAddr) (off : BitVec 40) (s : State) : Out := s.load (.ldbF96m d m off)
def execLdbnF96m (d : GReg) (m : MemAddr) (off : BitVec 40) (s : State) : Out := s.load (.ldbnF96m d m off)
def execLdhF96m (d : GReg) (m : MemAddr) (off : BitVec 40) (s : State) : Out := s.load (.ldhF96m d m off)
def execLdhnF96m (d : GReg) (m : MemAddr) (off : BitVec 40) (s : State) : Out := s.load (.ldhnF96m d m off)
def execLdwF96m (d : GReg) (m : MemAddr) (off : BitVec 40) (s : State) : Out := s.load (.ldwF96m d m off)
def execLdwnF96m (d : GReg) (m : MemAddr) (off : BitVec 40) (s : State) : Out := s.load (.ldwnF96m d m off)
def execLddF96m (d : GReg) (m : MemAddr) (off : BitVec 40) (s : State) : Out := s.load (.lddF96m d m off)
def execLdgF96m (d : GReg) (m : MemAddr) (off : BitVec 40) (s : State) : Out := s.load (.ldgF96m d m off)
def execLdvF96m (d : VReg) (m : MemAddr) (off : BitVec 40) (s : State) : Out := s.load (.ldvF96m d m off)
def execStbF96m (d : GReg) (m : MemAddr) (off : BitVec 40) (s : State) : Out := s.store (.stbF96m d m off)
def execSthF96m (d : GReg) (m : MemAddr) (off : BitVec 40) (s : State) : Out := s.store (.sthF96m d m off)
def execStwF96m (d : GReg) (m : MemAddr) (off : BitVec 40) (s : State) : Out := s.store (.stwF96m d m off)
def execStdF96m (d : GReg) (m : MemAddr) (off : BitVec 40) (s : State) : Out := s.store (.stdF96m d m off)
def execStgF96m (d : GReg) (m : MemAddr) (off : BitVec 40) (s : State) : Out := s.store (.stgF96m d m off)
def execStvF96m (d : VReg) (m : MemAddr) (off : BitVec 40) (s : State) : Out := s.store (.stvF96m d m off)
def execLrF96m (d : GReg) (m : MemAddr) (off : BitVec 40) (s : State) : Out := s.atom (.lrF96m d m off)
def execScF96m (d b : GReg) (m : MemAddr) (off : BitVec 40) (s : State) : Out := s.atom (.scF96m d b m off)
def execAmoaddF96m (d b : GReg) (dd : Bool) (m : MemAddr) (off : BitVec 40) (s : State) : Out :=
  s.atom (.amoaddF96m d b dd m off)
def execAmoandF96m (d b : GReg) (dd : Bool) (m : MemAddr) (off : BitVec 40) (s : State) : Out :=
  s.atom (.amoandF96m d b dd m off)
def execAmoorF96m (d b : GReg) (dd : Bool) (m : MemAddr) (off : BitVec 40) (s : State) : Out :=
  s.atom (.amoorF96m d b dd m off)
def execAmoxorF96m (d b : GReg) (dd : Bool) (m : MemAddr) (off : BitVec 40) (s : State) : Out :=
  s.atom (.amoxorF96m d b dd m off)
def execAmominF96m (d b : GReg) (dd : Bool) (m : MemAddr) (off : BitVec 40) (s : State) : Out :=
  s.atom (.amominF96m d b dd m off)
def execAmomaxF96m (d b : GReg) (dd : Bool) (m : MemAddr) (off : BitVec 40) (s : State) : Out :=
  s.atom (.amomaxF96m d b dd m off)
def execAmominnF96m (d b : GReg) (dd : Bool) (m : MemAddr) (off : BitVec 40) (s : State) : Out :=
  s.atom (.amominnF96m d b dd m off)
def execAmomaxnF96m (d b : GReg) (dd : Bool) (m : MemAddr) (off : BitVec 40) (s : State) : Out :=
  s.atom (.amomaxnF96m d b dd m off)
def execAmoswpF96m (d b : GReg) (dd : Bool) (m : MemAddr) (off : BitVec 40) (s : State) : Out :=
  s.atom (.amoswpF96m d b dd m off)
def execAmocasF96m (d b : GReg) (dd : Bool) (m : MemAddr) (off : BitVec 40) (s : State) : Out :=
  s.atom (.amocasF96m d b dd m off)
def execAmofaddF96m (d b : GReg) (dd : Bool) (m : MemAddr) (off : BitVec 40) (s : State) : Out :=
  s.atom (.amofaddF96m d b dd m off)

end Sys2Proof.Machine
end

