-- ==== Sys2Proof/Machine/System.lean ====
section
/-! DEFINITION. Control registers (R176 to R179), HALT (R181), segments (R183), context images (R185, R186) and SPLITRD (R212). -/

namespace Sys2Proof.Machine

/-! ### Control registers (R177, R178) -/

def Ctx.cmode (x : Ctx) : Nat :=
  x.lap.toNat + 2 * x.hl.toNat + 4 * x.da.toNat + 8 * x.gbt.toNat + 16 * x.nlt.toNat + 32 * x.bps.toNat

def Ctx.cspill (x : Ctx) : Nat := x.spillBase.toNat + 2 ^ 17 * x.spillLimit.toNat + 2 ^ 32 * x.ovfLen.toNat

/-- A CSR of a context as it stands; ccycle as the core's counter stands. -/
def State.csr (s : State) (c : CtxId) (r : Csr) : Word :=
  let x := s.ctx c
  match r with
  | .cstat => x.cstat.setWidth 64
  | .cmode => BitVec.ofNat 64 x.cmode
  | .cfemask => x.cfemask.setWidth 64
  | .cwlim => x.cwlim.setWidth 64
  | .ctrap => x.ctrap.setWidth 64
  | .cepc => x.cepc ++ 0#2
  | .ceaddr => x.ceaddr
  | .cvec => x.cvec ++ 0#2
  | .cword0 => (tget 0 x.cword 0).setWidth 64
  | .cword1 => (tget 0 x.cword 1).setWidth 64
  | .cword2 => (tget 0 x.cword 2).setWidth 64
  | .cword3 => (tget 0 x.cword 3).setWidth 64
  | .cid => BitVec.ofNat 64 (c % 2 ^ 32)
  | .ccycle => (s.core (coreOf c)).cycle
  | .cquota => x.cquota.setWidth 64
  | .csplit => s.seals.split
  | .cspill => BitVec.ofNat 64 x.cspill
  | .covf => x.covf ++ 0#4
  | .cpost => BitVec.ofNat 64 (x.near.toNat + 2 ^ 12 * x.far.toNat + 2 ^ 24 * x.mem.toNat)

/-- A CSR write changes the fields that are RW; HL, LAP and BPS keep their values. -/
def Ctx.setCsr (x : Ctx) (r : Csr) (v : Word) : Ctx :=
  match r with
  | .cstat => { x with cstat := v.setWidth 12 }
  | .cmode => { x with da := v.getLsbD 2, gbt := v.getLsbD 3, nlt := v.getLsbD 4 }
  | .cfemask => { x with cfemask := v.setWidth 5 }
  | .cwlim => { x with cwlim := v.setWidth 16 }
  | .ctrap => { x with ctrap := v.setWidth 8 }
  | .cepc => { x with cepc := v.extractLsb' 2 62 }
  | .ceaddr => { x with ceaddr := v }
  | .cvec => { x with cvec := v.extractLsb' 2 62 }
  | .cspill => { x with spillBase := v.extractLsb' 0 14, spillLimit := v.extractLsb' 17 15, ovfLen := v.extractLsb' 32 32 }
  | .covf => { x with covf := v.extractLsb' 4 60 }
  | .cword0 => x
  | .cword1 => x
  | .cword2 => x
  | .cword3 => x
  | .cid => x
  | .ccycle => x
  | .cquota => x
  | .csplit => x
  | .cpost => x

/-- CSRs that task level may write (R177). -/
def Csr.taskWritable : Csr → Bool
  | .cstat | .cmode | .cfemask | .cwlim => true
  | .ctrap | .cepc | .ceaddr | .cvec | .cword0 | .cword1 | .cword2 | .cword3 | .cid | .ccycle | .cquota | .csplit
  | .cspill | .covf | .cpost => false

/-- CSRRD. ccycle is the core's cycle counter as it stands in the cycle in which the instruction is performed (R179). -/
def execCsrrd (d : GReg) (csr : Csr) (s : State) : Out := s.setG 8 d (s.csr s.cur csr)

/-- A CSR write: refused at task level where the directory says so, and where cspill would reach past S (R374); otherwise g[d]
takes the old value. g[a] is read first. -/
def State.csrWrite (s : State) (d : GReg) (csr : Csr) (new : Word → Word) : Out :=
  if !s.me.hl && !Csr.taskWritable csr then s.refuse causePrivileged (BitVec.ofNat 64 (Csr.code csr))
  else
    let old := s.csr s.cur csr
    let y := s.me.setCsr csr (new old)
    if csr = .cspill ∧ sSize < y.carveBase + y.carveLimit then s.refuse causeSpill (BitVec.ofNat 64 y.cspill)
    else .next (s.done 8 fun x => (x.setCsr csr (new old)).writeG d old)

def execCsrwr (d : GReg) (csr : Csr) (a : GReg) (s : State) : Out :=
  let v := s.me.readG a
  s.csrWrite d csr fun _ => v

def execCsrset (d : GReg) (csr : Csr) (a : GReg) (s : State) : Out :=
  let v := s.me.readG a
  s.csrWrite d csr fun old => old ||| v

def execCsrclr (d : GReg) (csr : Csr) (a : GReg) (s : State) : Out :=
  let v := s.me.readG a
  s.csrWrite d csr fun old => old &&& ~~~v

/-! ### HALT (R181) -/

/-- The engine commands that a context has issued and that are queued or running. -/
def State.commandsOf (s : State) (c : CtxId) : List Cmd :=
  let k := s.core (coreOf c)
  let q := s.cluster (clusterOf c)
  (k.matrixQ ++ k.vectorQ ++ k.copyQ ++ k.firedQ ++ q.coll0.map Prod.snd ++ q.coll1.map Prod.snd).filter fun m => m.ctx == c

/-- What TEND and HALT wait for (R67): the posted-store counters are zero and no engine command of the context is left. -/
def State.quiet (s : State) : Bool := s.me.drained && (s.commandsOf s.cur).isEmpty

/-- The wait that keeps TEND or HALT at the tape. -/
def State.waitsQuiet (s : State) : State := s.waits (if s.me.drained then .commands else .counters)

def execHalt (s : State) : Out :=
  if !s.me.hl then s.refuse causePrivileged 0
  else if s.quiet then .next ((s.done 8 fun x => x).haltMe 0 false)
  else .next s.waitsQuiet

/-! ### Segments (R183) -/

/-- A segment of a 16-byte image; reserved bits are ignored (R6). -/
def Seg.ofImage (dw0 dw1 : Word) : Seg :=
  { base := dw0.setWidth 52, limit := dw1.setWidth 40, r := dw1.getLsbD 40, w := dw1.getLsbD 41, x := dw1.getLsbD 42,
    a := dw1.getLsbD 43 }

/-- The doublewords of a segment's image. -/
def Seg.dw0 (g : Seg) : Word := g.base.setWidth 64
def Seg.dw1 (g : Seg) : Word :=
  BitVec.ofNat 64 (g.limit.toNat + 2 ^ 40 * g.r.toNat + 2 ^ 41 * g.w.toNat + 2 ^ 42 * g.x.toNat + 2 ^ 43 * g.a.toNat)

def execSegld (d : SReg) (a b : GReg) (s : State) : Out :=
  if !s.me.hl then s.refuse causePrivileged 0
  else .next (s.done 8 fun x => x.writeSeg d (Seg.ofImage (x.readG a) (x.readG b)))

def execSegrd (d : GReg) (a : SReg) (q : Bool) (s : State) : Out :=
  let g := s.me.readSeg a
  s.setG 8 d (if q then g.dw1 else g.dw0)

/-! ### Context images (R185, R186) -/

/-- Values of fields of a byte width, one after another, as one number. -/
def packFields : List (Nat × Nat) → Nat
  | [] => 0
  | (n, v) :: r => v % 256 ^ n + 256 ^ n * packFields r

/-- The 1,072-byte image of a context with a pc. -/
def State.image (s : State) (c : CtxId) (pc : Word) : Nat :=
  let x := s.ctx c
  let csrs : List Csr := [.cstat, .cmode, .cfemask, .cwlim, .ctrap, .cepc, .ceaddr, .cvec]
  packFields <|
    (span 1 31).map (fun i => (8, (x.readG (Fin.ofNat 32 i)).toNat)) ++ [(8, pc.toNat)] ++
    (span 0 8).map (fun i => (64, (x.readV (Fin.ofNat 8 i)).toNat)) ++
    (span 0 4).map (fun i => (8, (x.readK (Fin.ofNat 4 i)).toNat)) ++
    (span 0 8).map (fun i => (2, (x.readH (Fin.ofNat 8 i)).toNat)) ++
    (span 0 8).map (fun i => (16, (x.readSeg (Fin.ofNat 8 i)).dw0.toNat + 2 ^ 64 * (x.readSeg (Fin.ofNat 8 i)).dw1.toNat)) ++
    [(8, x.loopCount.toNat), (8, x.loopStart.toNat), (8, x.loopEnd.toNat)] ++
    csrs.map (fun r => (8, (s.csr c r).toNat)) ++
    (span 0 4).map (fun i => (4, (tget 0 x.cword i).toNat)) ++
    [(8, x.cspill), (8, (s.csr c .covf).toNat), (4, x.sendSeq.toNat), (4, x.cquota.toNat)]

/-- n bytes of an image at an offset. -/
def imageAt (img off n : Nat) : Nat := img / 256 ^ off % 256 ^ n

/-- A context as an image replaces it: LAP, cquota and the cword CSRs stay. -/
def Ctx.ofImage (x : Ctx) (img : Nat) : Ctx :=
  let dw (off : Nat) : Word := BitVec.ofNat 64 (imageAt img off 8)
  let y : Ctx := { x with
    g := (span 1 31).foldl (fun m i => tset 0 m i (dw (8 * (i - 1)))) []
    v := (span 0 8).foldl (fun m i => tset 0 m i (BitVec.ofNat 512 (imageAt img (0x100 + 64 * i) 64))) []
    k := (span 0 4).foldl (fun m i => tset 0 m i (dw (0x300 + 8 * i))) []
    h := (span 0 8).foldl (fun m i => tset 0xFFFF#16 m i (BitVec.ofNat 16 (imageAt img (0x320 + 2 * i) 2))) []
    seg := (span 0 8).foldl (fun m i => tset Seg.zero m i (Seg.ofImage (dw (0x330 + 16 * i)) (dw (0x338 + 16 * i)))) []
    loopCount := BitVec.ofNat 32 (imageAt img 0x3B0 4), loopStart := dw 0x3B8, loopEnd := dw 0x3C0,
    sendSeq := BitVec.ofNat 32 (imageAt img 0x428 4) }
  let z := ([.cstat, .cmode, .cfemask, .cwlim, .ctrap, .cepc, .ceaddr, .cvec] : List Csr).foldl
    (fun (p : Ctx × Nat) r => (p.1.setCsr r (dw p.2), p.2 + 8)) (y, 0x3C8)
  let w := ((z.1.setCsr .cspill (dw 0x418)).setCsr .covf (dw 0x420))
  { w with hl := (dw 0x3D0).getLsbD 1, bps := (dw 0x3D0).getLsbD 5, bpArmed := false }

/-- The refusal of CTXSAVE and CTXLOAD (R374): privilege at issue, then the offset. -/
def State.imageRefusal (s : State) (a : GReg) : Option (BitVec 8 × Word) :=
  let ea := s.me.readG a
  if !s.me.hl then some (causePrivileged, 0)
  else if ea.toNat % 16 ≠ 0 then some (causeAlign, ea)
  else if sSize < ea.toNat + 1072 then some (causeLimit, ea)
  else none

/-- The pc of the boundary after an instruction of 8 bytes, and its loop count: at the end label of a pinned body the count is
0 (R352). -/
def Ctx.after (x : Ctx) : Ctx :=
  let pc := x.pc + 8
  if x.pinned ∧ pc = x.loopEnd then { x with pc := pc, loopCount := 0 } else { x with pc := pc }

def execCtxsave (a : GReg) (s : State) : Out :=
  match s.imageRefusal a with
  | some (cause, ceaddr) => s.refuse cause ceaddr
  | none =>
    let t := s.modMe Ctx.after
    if s.passes (s.me.readG a).toNat 1072 then .next (s.waits .older)
    else match s.writeS s.myCore (s.me.readG a).toNat 1072 (t.image s.cur t.me.pc) (some s.cur) with
      | none => .next s.waitsLog
      | some u => .next (u.stampHere.done 8 fun x => x)

def execCtxload (a : GReg) (s : State) : Out :=
  match s.imageRefusal a with
  | some (cause, ceaddr) => s.refuse cause ceaddr
  | none =>
    let off := (s.me.readG a).toNat
    let k := s.core s.myCore
    let own := s.ownBytes (some s.myCore) off 1072
    if k.s.consumes off 1072 own then s.refuse causePoison (s.me.readG a)
    else
      let img := overlay (k.s.cells.read off 1072) own
      let t := (s.readBackS s.myCore off 1072).modMe fun x => ({ x.ofImage img with pc := BitVec.ofNat 64 (imageAt img 0x0F8 8), run := .active } : Ctx).repin
      .next (t.recapture s.cur)

/-! ### SPLITRD (R212) -/

def execSplitrd (d : GReg) (s : State) : Out := s.setG 8 d s.seals.split

end Sys2Proof.Machine
end

