-- ==== Sys2Proof/Machine/Sync.lean ====
section
/-! DEFINITION. Fences, waits, mailboxes, channels, named messages, rounds and split instructions (R195, R198 to R206, R212). -/

namespace Sys2Proof.Machine

/-! ### Rounds (R198) -/

/-- The context acquires every update that the memory ports have taken, and what every tile's vote released (R198, R261). -/
def State.acquirePorts (s : State) : State :=
  (s.applied.foldl (fun t e => if e.1 % 16 = 3 then t.acquire s.cur e.2 else t) s).observe s.cur true
    (s.appliedAt (.controller s.me.row.launch.toNat))

/-- RNDCLOSE: performed once the counters are zero, it sends the tile's vote and waits for the round to complete. -/
def execRndclose (s : State) : Out :=
  let x := s.me
  let l := x.row.launch.toNat
  if x.voted then
    (match s.launch l with
      | none => .next (s.waits .round)
      | some q =>
        if x.round ≤ q.round then .next (s.acquirePorts.done 8 fun x => { x with voted := false })
        else .next (s.waits .round))
  else if x.drained then
    let t := s.send s.cur (.controller l) (.vote x.tile x.round)
    .next ((t.modMe fun x => { x with voted := true, round := x.round + 1 }).waits .round)
  else .next (s.waits .counters)

/-! ### Fences and waits (R195, R199, R200) -/

/-- The counters that a FENCE waits for are zero. -/
def Ctx.fenceReady (x : Ctx) : FenceScope → Bool
  | .ctx => true
  | .core => true
  | .cluster => x.near == 0 && x.mem == 0
  | .die => x.near == 0 && x.mem == 0
  | .module => x.drained
  | .domain => x.drained
  | .g => x.drained

/-- The scope reaches agents of other dies (R262). -/
def FenceScope.beyondDie : FenceScope → Bool
  | .ctx => false
  | .core => false
  | .cluster => false
  | .die => false
  | .module => true
  | .domain => true
  | .g => true

/-- A FENCE is an acquire of the writes that the context's earlier reads have returned, as far as its scope reaches (R261, R262). What
agents of its own die wrote carries nothing that the die's clock does not hold; the writes of other dies are acquired by a scope beyond
the die, and until then a later FENCE may still acquire them. -/
def State.fenced (s : State) (scope : FenceScope) : State :=
  if FenceScope.beyondDie scope then
    ((s.acquire s.cur s.me.seen).acquire s.cur (s.appliedAt (.core s.myCore))).modMe fun x => { x with seen := [] }
  else s

def execFence (scope : FenceScope) (s : State) : Out :=
  if s.me.fenceReady scope then
    (if scope = .g then .next ((s.fenced scope).ask (.fence .g) .sequencer .stampReq) else .next ((s.fenced scope).done 8 fun x => x))
  else .next (s.waits .counters)

def execWaitrs (s : State) : Out :=
  match s.me.resv with
  | none => .next (s.done 8 fun x => x)
  | some r => .next (s.waits (.reservation r.granule))

/-- WAITC: every counter that the mask names is zero. -/
def execWaitc (mask : BitVec 3) (s : State) : Out :=
  let x := s.me
  if (!mask.getLsbD 0 || x.near == 0) && (!mask.getLsbD 1 || x.far == 0) && (!mask.getLsbD 2 || x.mem == 0) then
    .next (s.done 8 fun x => x)
  else .next (s.waits .counters)

/-! ### Mailboxes (R99, R201) -/

/-- Mailbox(core, i). -/
def Core.mailbox (k : Core) (i : Nat) : BitVec 16 := tget 0 k.mb i
def Core.setMailbox (k : Core) (i : Nat) (v : BitVec 16) : Core := { k with mb := tset 0 k.mb i v }

/-- The threshold of a wait is met. -/
def reached (mb h : BitVec 16) : Bool := decide ((mb - h).toNat < 2 ^ 15)

/-- The instruction at which a context waits at the tape: its oldest that is not complete, when it has climbed there; or, for a context
with none in the pipe, that of its own. -/
def State.waitingAt (s : State) (c : CtxId) : Option Instr :=
  let p := (s.core (coreOf c)).pipe
  match ((p.window (kOf c)).filterMap fun t => p.packets.find? fun q => q.tag == t).find? fun q => !q.complete with
  | some q => if p.retire.any fun r => r.tag == q.tag then some q.instr else none
  | none => match (s.ctx c).run with
    | .waiting _ => (match decode ((s.ctx c).ir.map BitVec.toNat) with
      | .ok (i, _) => some i
      | .error _ => none)
    | .idle => none
    | .active => none
    | .reply _ => none
    | .halted => none
    | .killed => none

/-- The context waits at an MBWAIT of counter i whose threshold a value meets. -/
def State.waitMeets (s : State) (c : CtxId) (i : Nat) (v : BitVec 16) : Bool :=
  match s.waitingAt c with
  | some (.mbwait j h) => j.toNat == i && reached v h
  | _ => false

/-- The wait and signal fields. -/
def Instr.waitSig : Instr → WaitSig
  | .vemap _ _ _ _ w | .vered _ _ _ w | .vescan _ _ _ w | .vecvt _ _ w | .mma _ _ _ _ _ w | .mmag _ _ _ _ _ _ w | .qzero _ w
  | .pload _ _ _ w | .qld _ _ w | .qst _ _ w | .qstl _ _ w | .qcvt _ _ _ w | .cpy _ _ w | .cpyx _ _ _ _ _ w
  | .creduce _ _ _ _ _ w | .cbcast _ _ _ _ w | .callred _ _ _ _ w | .cgather _ _ _ w => w
  | _ => { we := false, wth := 0, wmb := 0, sinc := 0, smb := 0 }

/-- A command that stands at the head of its queue has its wait satisfied by the value of its counter (R155). -/
def Core.tested (k : Core) (m : Cmd) : Cmd :=
  let w := Instr.waitSig m.instr
  if !m.started && (!w.we || reached (k.mailbox w.wmb.toNat) w.wth) then { m with met := true } else m

/-- The commands at the heads of a core's engine queues test their waits, as they do when they get there and after every update of a
counter (R99, R155); fired copies come before the copy engine's queue (R249). -/
def State.testHeads (s : State) (core : CoreId) : State :=
  let k := s.core core
  let head (l : List Cmd) : List Cmd := match l with
    | [] => []
    | m :: r => k.tested m :: r
  let coll (l : List (CoreId × Cmd)) : List (CoreId × Cmd) := match l with
    | [] => []
    | (c, m) :: r => (c, if c = core then k.tested m else m) :: r
  (s.modCore core fun k => { k with matrixQ := head k.matrixQ, vectorQ := head k.vectorQ,
                                    copyQ := if k.firedQ.isEmpty then head k.copyQ else k.copyQ, firedQ := head k.firedQ }).modCluster
    (clusterOf core) fun q => { q with coll0 := coll q.coll0, coll1 := coll q.coll1 }

/-- A counter of a core is updated, and every wait on it is tested (R99). -/
def State.mbPut (s : State) (core : CoreId) (i : Nat) (v : BitVec 16) : State :=
  ((ctxsOf core).filter fun c => s.waitMeets c i v).foldl (fun t c => t.modCtx c fun x => { x with met := true })
    ((s.modCore core fun k => k.setMailbox i v).testHeads core)

/-- An increment of a counter of a core. -/
def State.mbAdd (s : State) (core : CoreId) (i : Nat) (v : BitVec 16) : State := s.mbPut core i ((s.core core).mailbox i + v)

def execMbinc (i : BitVec 8) (v : BitVec 16) (s : State) : Out :=
  .next (((s.numberAt (dieOf s.cur) (.core s.myCore)).mbAdd s.myCore i.toNat v).done 8 fun x => x)

def execMbincRemote (i : BitVec 8) (v : BitVec 16) (a : GReg) (s : State) : Out :=
  let id := (s.me.readG a).toNat % 2 ^ 32
  let core := coreNamed id
  if core = s.myCore then .next (((s.numberAt (dieOf s.cur) (.core s.myCore)).mbAdd s.myCore i.toNat v).done 8 fun x => x)
  else if !s.reaches s.cur id then .next ((s.dropped s.cur (outsideCeaddr id i.toNat)).done 8 fun x => x)
  else
    let k := kindTo s.cur core
    if s.me.countRoom k then .next ((s.post s.cur k (.core core) (.mbInc k i v)).done 8 fun x => x)
    else .next (s.waits .postRoom)

def execMbwait (i : BitVec 8) (v : BitVec 16) (s : State) : Out :=
  if s.me.met || reached ((s.core s.myCore).mailbox i.toNat) v then .next ((s.acquireHere true).done 8 fun x => { x with met := false })
  else .next (s.waits (.mailbox i.toNat))

def execMbrd (d : GReg) (i : BitVec 8) (s : State) : Out := s.setG 8 d (((s.core s.myCore).mailbox i.toNat).setWidth 64)

def execMbset (i : BitVec 8) (v : BitVec 16) (s : State) : Out :=
  .next ((s.mbPut s.myCore i.toNat v).done 8 fun x => x)

/-! ### Channels (R202 to R204, R377); low bits of an offset that must be a multiple are taken as zero (log entry 21) -/

/-- A field of a record: bits hi down to lo of the doubleword at off + dw. -/
def Core.field (k : Core) (rec dw lo width : Nat) : Nat := bits (k.s.cells.read (rec + dw) 8) lo width

/-- A send record. -/
structure SendRec where
  rrec : Nat
  dest : Nat
  sent : Nat
  slen : Nat
  sbase : Nat
  spilled : Nat
  out : Nat
  poke : Bool
  infl : Bool
  refilled : Nat
  /-- reserved fields are zero -/
  clean : Bool
  deriving DecidableEq, Repr

/-- A receive record. -/
structure RecvRec where
  rlen : Nat
  rbase : Nat
  src : Nat
  srec : Nat
  sw : Bool
  nextin : Nat
  nextrd : Nat
  clean : Bool
  deriving DecidableEq, Repr

def Core.sendRec (k : Core) (r : Nat) : SendRec :=
  { rrec := k.field r 0 46 18 / 32 * 32, dest := k.field r 0 0 32, sent := k.field r 8 0 32, slen := k.field r 16 50 14,
    sbase := k.field r 16 32 18 / 16 * 16, spilled := k.field r 16 0 32, out := k.field r 24 48 16,
    poke := k.field r 24 33 1 == 1, infl := k.field r 24 32 1 == 1, refilled := k.field r 24 0 32,
    clean := k.field r 0 32 14 == 0 && k.field r 8 32 32 == 0 && k.field r 24 34 14 == 0 }

def Core.recvRec (k : Core) (r : Nat) : RecvRec :=
  { rlen := k.field r 0 50 14, rbase := k.field r 0 32 18 / 16 * 16, src := k.field r 0 0 32,
    srec := k.field r 8 46 18 / 32 * 32, sw := k.field r 8 32 1 == 1, nextin := k.field r 8 0 32,
    nextrd := k.field r 16 0 32, clean := k.field r 8 33 13 == 0 && k.field r 16 32 32 == 0 && k.field r 24 0 64 == 0 }

/-- Write n bytes of a field of a record as the module does: logged, full/empty bits unchanged. None when the log is full. -/
def State.setField (s : State) (core : CoreId) (a n v : Nat) : Option State := s.writeS core a n v none

/-- The doubleword at 0x18 of a send record. -/
def SendRec.flags (r : SendRec) : Nat :=
  r.refilled % 2 ^ 32 + 2 ^ 32 * r.infl.toNat + 2 ^ 33 * r.poke.toNat + 2 ^ 48 * (r.out % 2 ^ 16)

/-- Granules in the spill ring. -/
def SendRec.inRing (r : SendRec) : Nat := (r.spilled + 2 ^ 32 - r.refilled) % 2 ^ 32

/-- What a record breaks, reasons 2 to 4 (R377). -/
def ringReason (len base : Nat) (clean : Bool) : Option Nat :=
  if len = 0 then some 2 else if sSize < base + 16 * len then some 3 else if !clean then some 4 else none

/-- Reason 1 of R377. -/
def recordReason (a : Word) : Option Nat := if a.toNat % 32 ≠ 0 ∨ sSize < a.toNat + 32 then some 1 else none

/-- ceaddr of a CHANNEL refusal. -/
def channelCeaddr (a : Word) (reason : Nat) : Word := (a <<< 32) ||| BitVec.ofNat 64 reason

/-- The granule sent: OUT and SENT advance. A granule addressed outside the job is dropped, reported and counted as delivered. -/
def State.sendGranule (s : State) (rec : Nat) (r : SendRec) (data : BitVec 128) : Option State :=
  let go := s.reaches s.cur r.dest
  let upd : Option State :=
    (s.setField s.myCore (rec + 8) 4 ((r.sent + 1) % 2 ^ 32)).bind fun t =>
      if go then t.setField s.myCore (rec + 24) 8 { r with out := r.out + 1 }.flags else some t
  upd.map fun t =>
    if go then
      let k := kindTo s.cur (coreNamed r.dest)
      (t.post s.cur k (.core (coreNamed r.dest)) (.granule k rec r.rrec (BitVec.ofNat 32 r.sent) data false 0)).modCore s.myCore fun q =>
        { q with chans := if q.chans.contains rec then q.chans else q.chans ++ [rec] }
    else t.dropped s.cur (outsideCeaddr r.dest r.rrec)

def execChsend (d a : GReg) (s : State) : Out :=
  let ga := s.me.readG a
  let rec_ := ga.toNat
  let k := s.core s.myCore
  let r := k.sendRec rec_
  match (recordReason ga).orElse fun _ => ringReason r.slen r.sbase r.clean with
  | some reason => s.refuse causeChannel (channelCeaddr ga reason)
  | none =>
    if k.s.poisoned rec_ 32 then s.refuse causePoison ga
    else if r.out + r.inRing < r.slen then
      (if s.me.countRoom (kindTo s.cur (coreNamed r.dest)) then
        (match (s.readBackS s.myCore rec_ 32).sendGranule rec_ r (s.me.readPair d) with
          | some t => .next (t.done 8 fun x => x)
          | none => .next s.waitsLog)
      else .next (s.waits .postRoom))
    else .next (s.waits (.channel rec_))

def execChrecv (d a : GReg) (s : State) : Out :=
  let ga := s.me.readG a
  let rec_ := ga.toNat
  let k := s.core s.myCore
  let r := k.recvRec rec_
  match (recordReason ga).orElse fun _ => ringReason r.rlen r.rbase r.clean with
  | some reason => s.refuse causeChannel (channelCeaddr ga reason)
  | none =>
    let p := r.rbase + 16 * (r.nextrd % r.rlen)
    if k.s.poisoned rec_ 32 then s.refuse causePoison ga
    else if !(k.allFe p 16 true && k.feTurn s.cur none p 16) then .next (s.waits (.channel rec_))
    else if k.s.poisoned p 16 then s.refuse causePoison (BitVec.ofNat 64 p)
    else
      let v := BitVec.ofNat 128 (k.s.cells.read p 16)
      match (((s.readBackS s.myCore rec_ 32).readBackS s.myCore p 16).setFe s.myCore p 16 false).bind fun t => t.setField s.myCore (rec_ + 16) 4 ((r.nextrd + 1) % 2 ^ 32) with
      | none => .next s.waitsLog
      | some t =>
        let u := if !r.sw then t
          else if s.reaches s.cur r.src then t.send s.cur (.core (coreNamed r.src)) (.refillReq r.srec)
          else t.dropped s.cur (outsideCeaddr r.src r.srec)
        .next ((u.acquireHere true).done 8 (·.writePair d v))

/-! ### Named messages (R205, R206) -/

/-- The identifier of the context that a number names: reserved bits are ignored (R20). -/
def ctxNamed (id : Nat) : CtxId := mkId (xOf id) (yOf id) (cOf id) (kOf id)

def execSendn (d a : GReg) (s : State) : Out :=
  let x := s.me
  let id := (x.readG a).toNat % 2 ^ 32
  let m : NamedMsg := { launch := x.row.launch.toNat, dst := ctxNamed id, task := x.task, seq := x.sendSeq, data := x.readPair d }
  let after (x : Ctx) : Ctx := { x with sendSeq := x.sendSeq + 1 }
  if !s.reaches s.cur id then .next ((s.dropped s.cur (outsideCeaddr id 0)).done 8 after)
  else
    let k := kindTo s.cur (coreNamed id)
    if x.countRoom k then .next ((s.post s.cur k (.core (coreNamed id)) (.named k m)).done 8 after)
    else .next (s.waits .postRoom)

/-- The message that a RECVN names. -/
def NamedMsg.matches_ (m : NamedMsg) (launch : Nat) (c : CtxId) (task seq : BitVec 32) : Bool :=
  m.launch == launch && m.dst == c && m.task == task && m.seq == seq

def execRecvn (d a b : GReg) (s : State) : Out :=
  let x := s.me
  let task := (x.readG a).setWidth 32
  let seq := (x.readG b).setWidth 32
  let wanted (m : NamedMsg) : Bool := m.matches_ x.row.launch.toNat s.cur task seq
  match (s.core s.myCore).named.find? wanted with
  | none => .next (s.waits (.named task))
  | some m =>
    .next (((s.modCore s.myCore fun k => { k with named := k.named.filter fun q => !wanted q }).acquireHere true).done 8
      (·.writePair d m.data))

/-! ### Split instructions (R212) -/

/-- The context stops for a seal. -/
def State.stopForSeal (s : State) (requested : Bool) (split : Word) : State :=
  s.modMe fun x => { x.wait (.seal requested split) with atSeal := true }

/-- SEALPT: completes at once when no seal has been prepared on the die. -/
def execSealpt (s : State) : Out :=
  let d := s.die (dieOf s.cur)
  if d.prepared && !d.committed then
    (match s.me.run with
      | .waiting (.seal _ _) => .next s
      | .waiting _ | .idle | .active | .reply _ | .halted | .killed => .next (s.stopForSeal false (s.seals.split + 1)))
  else .next (s.done 8 fun x => { x with atSeal := false })

/-- SEAL: requests a seal and waits for the commit of the one its request joins: the next one, if a seal runs whose commit has not begun
the new split. -/
def execSeal (s : State) : Out :=
  let n := s.seals.split
  match s.me.run with
  | .waiting (.seal true u) =>
    if u.toNat ≤ n.toNat then .next (s.done 8 fun x => { x with atSeal := false }) else .next s
  | .waiting _ | .idle | .active | .reply _ | .halted | .killed =>
    .next ((s.requestSeal false).stopForSeal true (if s.seals.running && !(s.seals.committing && s.seals.commitRecord == n) then n + 2 else n + 1))

end Sys2Proof.Machine
end

