-- ==== Sys2Proof/Machine/Tensor.lean ====
section
/-! DEFINITION. Tensor table entries (R137, R138), where their elements lie (R119, R137, R237), and how an engine reads and writes
them (R92, R108, R111, R118, R398, R399, R421). -/

namespace Sys2Proof.Machine

/-! ### The image of an entry (R137) -/

def TKind.code : TKind → Nat
  | .linear => 0
  | .log => 1
  | .int => 2
  | .ieee => 3

def kindOfCode (n : Nat) : TKind := if n = 0 then .linear else if n = 1 then .log else if n = 2 then .int else .ieee

/-- An entry of its four doublewords. -/
def Tensor.ofImage (dw : Nat → Nat) : Tensor :=
  { valid := bits (dw 0) 63 1 == 1, kind := kindOfCode (bits (dw 0) 61 2), sgn := bits (dw 0) 60 1 == 1,
    fa := BitVec.ofNat 3 (bits (dw 0) 57 3), fb := BitVec.ofNat 3 (bits (dw 0) 54 3), bias := BitVec.ofNat 8 (bits (dw 0) 46 8),
    scale := BitVec.ofNat 10 (bits (dw 0) 36 10), space := BitVec.ofNat 2 (bits (dw 0) 34 2), order := bits (dw 0) 33 1 == 1,
    extra := BitVec.ofNat 32 (dw 0), seg := BitVec.ofNat 3 (bits (dw 1) 48 3), base := BitVec.ofNat 48 (dw 1),
    rows := BitVec.ofNat 32 (bits (dw 2) 32 32), cols := BitVec.ofNat 32 (dw 2), stride := BitVec.ofNat 40 (dw 3),
    rsv := BitVec.ofNat 38 (bits (dw 0) 32 1 + 2 * bits (dw 1) 51 13 + 2 ^ 14 * bits (dw 3) 40 24) }

/-- Doubleword q of an entry. -/
def Tensor.dw (t : Tensor) (q : Nat) : Nat :=
  match q with
  | 0 => t.extra.toNat + 2 ^ 32 * (t.rsv.toNat % 2) + 2 ^ 33 * t.order.toNat + 2 ^ 34 * t.space.toNat + 2 ^ 36 * t.scale.toNat +
      2 ^ 46 * t.bias.toNat + 2 ^ 54 * t.fb.toNat + 2 ^ 57 * t.fa.toNat + 2 ^ 60 * t.sgn.toNat + 2 ^ 61 * t.kind.code +
      2 ^ 63 * t.valid.toNat
  | 1 => t.base.toNat + 2 ^ 48 * t.seg.toNat + 2 ^ 51 * (t.rsv.toNat / 2 % 2 ^ 13)
  | 2 => t.cols.toNat + 2 ^ 32 * t.rows.toNat
  | _ => t.stride.toNat + 2 ^ 40 * (t.rsv.toNat / 2 ^ 14)

/-! ### Formats (R119) -/

/-- An element format. -/
inductive EFmt where
  | num (t : ElemTy)
  | lin (f : NarrowFmt)
  | log (f : LogFmt)
  deriving DecidableEq, Repr

/-- The format of a tensor's elements. -/
def Tensor.fmt (t : Tensor) : EFmt :=
  match t.kind with
  | .linear => .lin ⟨t.sgn, t.fa.toNat, t.fb.toNat, t.bias.toInt, t.extra.toNat⟩
  | .log => .log ⟨t.sgn, t.fa.toNat, t.fb.toNat, t.bias.toInt⟩
  | .int => .num (if t.sgn then
      (if t.fa = 0 then .i8 else if t.fa = 1 then .i16 else if t.fa = 2 then .i32 else .i64)
    else (if t.fa = 0 then .n8 else if t.fa = 1 then .n16 else if t.fa = 2 then .n32 else .n64))
  | .ieee => .num (if t.fa = 0 then .f32 else if t.fa = 1 then .f16 else .bf16)

/-- Bits of a code of a narrow or log format. -/
def EFmt.codeBits : EFmt → Nat
  | .num t => ElemTy.width t
  | .lin f => f.s.toNat + f.eb + f.mb
  | .log f => f.s.toNat + f.w

/-- Bits of a stored element. -/
def EFmt.bits (f : EFmt) : Nat :=
  match f with
  | .num t => ElemTy.width t
  | .lin _ => if f.codeBits ≤ 4 then 4 else 8
  | .log _ => if f.codeBits ≤ 4 then 4 else 8

/-- The scale base of a tensor. -/
def Tensor.s (t : Tensor) : Int := t.scale.toInt

/-- The fields that are 0 for integer and IEEE kinds. -/
def Tensor.plain (t : Tensor) : Bool := t.fb == 0 && t.bias == 0 && t.scale == 0

/-- The entry describes a valid format (R138). -/
def Tensor.sound (t : Tensor) : Bool :=
  t.rsv == 0 && t.rows != 0 && t.cols != 0 && (t.seg == 0 || t.space == 3) &&
  match t.kind with
  | .linear =>
    let f : NarrowFmt := ⟨t.sgn, t.fa.toNat, t.fb.toNat, t.bias.toInt, t.extra.toNat⟩
    let n := t.sgn.toNat + t.fa.toNat + t.fb.toNat
    decide (2 ≤ n ∧ n ≤ 8) && !magLt (f.mag 1).1 (f.mag 1).2 1 (-149) && magLt (f.mag f.maxIdx).1 (f.mag f.maxIdx).2 1 128
  | .log => decide (1 ≤ t.fa.toNat ∧ t.fb.toNat ≤ 5 ∧ t.fb.toNat ≤ t.fa.toNat ∧ t.sgn.toNat + t.fa.toNat ≤ 8)
  | .int => t.plain && decide (t.fa.toNat ≤ 3)
  | .ieee => t.plain && !t.sgn && decide (t.fa.toNat ≤ 2)

/-! ### Geometry (R119, R137) -/

/-- Lines and items of a line: rows and columns, or columns and rows when ORDER = 1. -/
def Tensor.lines (t : Tensor) : Nat := if t.order then t.cols.toNat else t.rows.toNat
def Tensor.items (t : Tensor) : Nat := if t.order then t.rows.toNat else t.cols.toNat
def Tensor.shape (t : Tensor) : Nat × Nat := (t.rows.toNat, t.cols.toNat)
/-- Bytes of one line. -/
def Tensor.lineBytes (t : Tensor) : Nat := (t.items * t.fmt.bits + 7) / 8
/-- Bytes from BASE to the end of the last line. -/
def Tensor.extent (t : Tensor) : Nat := (t.lines - 1) * t.stride.toNat + t.lineBytes
/-- Bytes that a read of the whole tensor moves. -/
def Tensor.bytes (t : Tensor) : Nat := t.lines * t.lineBytes
/-- The line and the item of an element. -/
def Tensor.at_ (t : Tensor) (r c : Nat) : Nat × Nat := if t.order then (c, r) else (r, c)
/-- The byte offset in the space of an element (the byte that holds it, when it has 4 bits). -/
def Tensor.offset (t : Tensor) (r c : Nat) : Nat :=
  t.base.toNat + (t.at_ r c).1 * t.stride.toNat + (t.at_ r c).2 * t.fmt.bits / 8

/-- The operand slot or the accumulator tile of a P or Q tensor (R237). -/
def Tensor.slot (t : Tensor) : Nat := t.base.toNat / 512
def Tensor.tile (t : Tensor) : Nat := t.base.toNat / 256

/-- The shape tag of a tile tensor. -/
def Tensor.tag (t : Tensor) : TileShape := if t.rows = 4 then .t4x16 else if t.rows = 8 then .t8x8 else .t16x4

/-! ### Where an engine's accesses go -/

/-- The memory that a tensor of a command lies in. -/
inductive Loc where
  /-- S of a core -/
  | bank (core : CoreId)
  | slots
  | tiles
  /-- global memory from the address of a segment's base in the job -/
  | glob (base : Nat)
  /-- a core addressed outside the job, by its identifier (R399) -/
  | gone (id : Nat)
  deriving DecidableEq, Repr

/-- What a read returns: the bytes, whether a discarded page or an absent core gave zeros, whether a word was poisoned. -/
structure Got where
  v : Nat
  dzr : Bool
  poison : Bool
  deriving DecidableEq, Repr

/-- An engine of a core reads n bytes at an offset; none while the page is not resident (R395). -/
def State.engineRead (s : State) (core : CoreId) (l : Loc) (off n : Nat) : Option Got :=
  match l with
  | .bank c => some { v := (s.core c).s.cells.read off n, dzr := false, poison := (s.core c).s.poisoned off n }
  | .slots => some { v := (s.core core).p.cells.read off n, dzr := false, poison := (s.core core).p.poisoned off n }
  | .tiles => some { v := (s.core core).q.cells.read off n, dzr := false, poison := (s.core core).q.poisoned off n }
  | .gone _ => some { v := 0, dzr := true, poison := false }
  | .glob base =>
    let va := jplus base off
    let p := s.pageAt va
    if !p.resident then none
    else if p.discarded then some { v := 0, dzr := true, poison := false }
    else some { v := s.homeRead (pageOf va) va n, dzr := false, poison := s.homePoisoned (pageOf va) va n }

/-- The words with a single-bit error that an engine's read of n bytes meets are written back corrected (R93). -/
def State.readBack (s : State) (core : CoreId) (l : Loc) (off n : Nat) : State :=
  match l with
  | .bank c => s.readBackS c off n
  | .slots => if (s.core core).p.singleIn off n then s.modCore core fun k => { k with p := k.p.writeBack 128 off n } else s
  | .tiles => if (s.core core).q.singleIn off n then s.modCore core fun k => { k with q := k.q.writeBack 128 off n } else s
  | .glob base => s.readBackG (jplus base off) n
  | .gone _ => s

/-- The words that a write of n bytes leaves poisoned: all of them when the data is poisoned, otherwise those poisoned before
that it does not cover whole. -/
def Mem.stillPoisoned (m : Mem) (a n : Nat) (poison : Bool) : List Nat :=
  (blocks 8 a n).filter fun w => poison ||
    ((m.wordMark w == .latent || m.wordMark w == .poisoned) && !(decide (a ≤ 8 * w) && decide (8 * w + 8 ≤ a + n)))

/-- Mark words poisoned. -/
def Mem.taint (m : Mem) (ws : List Nat) : Mem := ws.foldl (fun q w => q.setMark w .poisoned) m

/-- A write to P or Q. -/
def Mem.enginePut (m : Mem) (off n v : Nat) (poison : Bool) : Mem :=
  (m.write 128 off n v).taint (m.stillPoisoned off n poison)

/-- After a write of n bytes to global memory, what `stillPoisoned` names in the memory before it stays poisoned. -/
def State.taintG (s : State) (old : Mem) (va n : Nat) (poison : Bool) : State :=
  (partsOn va n).foldl (fun t p => match t.phys p.1 with
    | some q => { t with gmem := t.gmem.taint (old.stillPoisoned q p.2 poison) }
    | none => t) s

/-- An engine of a core writes n bytes at an offset for a context; none while the page is not resident or the log or hold queue
is full. The write is numbered and applied at its destination at once (R266). The line of a dropped write is reported to the
context. -/
def State.engineWrite (s : State) (core : CoreId) (c : CtxId) (l : Loc) (off n v : Nat) (poison : Bool) : Option State :=
  match l with
  | .bank k =>
    let ws := (s.core k).s.stillPoisoned off n poison
    (s.writeS k off n v none).map fun t =>
      (t.modCore k fun q => { q with s := q.s.taint ws }).numberAt (dieOf core) (.core k)
  | .slots => some (s.modCore core fun q => { q with p := q.p.enginePut off n v poison })
  | .tiles => some (s.modCore core fun q => { q with q := q.q.enginePut off n v poison })
  | .gone id => some (s.dropped c (outsideCeaddr id off))
  | .glob base =>
    let va := jplus base off
    let p := s.pageAt va
    if !p.resident then none
    else if p.discarded then some (s.dropped c (BitVec.ofNat 64 (vaddr va)))
    else match s.homeWrite va n v none with
      | .full _ => none
      | .yes t =>
        let before := (s.die (dieOf p.home)).hold.length
        let u := if p.irrevocable && !s.inFmbox va then
            t.modDie (dieOf p.home) fun d =>
              { d with hold := d.hold.take before ++ (d.hold.drop before).map fun w => { w with poison := poison } }
          else t.taintG s.gmem va n poison
        some (u.numberAt (dieOf core) (.home (pageOf va)))

/-! ### Elements and rows -/

/-- One element read; its poison stands at bit 64. -/
def State.elemRead (s : State) (core : CoreId) (l : Loc) (t : Tensor) (r c : Nat) : Option (Nat × Bool) :=
  let w := t.fmt.bits
  (s.engineRead core l (t.offset r c) (max 1 (w / 8))).map fun g =>
    let v := if w = 4 then g.v / 16 ^ ((t.at_ r c).2 % 2) % 16 else g.v
    (v + if g.poison then 2 ^ 64 else 0, g.dzr)

/-- The bits of an element read, and its poison. -/
def rawOf (v : Nat) : Nat := v % 2 ^ 64
def taintOf (v : Nat) : Bool := decide (2 ^ 64 ≤ v)

/-- Elements read in turn, as (row, column, bits), with DZR. -/
def State.elemsRead (s : State) (core : CoreId) (l : Loc) (t : Tensor) :
    List (Nat × Nat) → Option (List (Nat × Nat × Nat) × Bool)
  | [] => some ([], false)
  | (r, c) :: rest => (s.elemRead core l t r c).bind fun v =>
    (s.elemsRead core l t rest).map fun q => ((r, c, v.1) :: q.1, v.2 || q.2)

/-- The elements of a tensor that a read met with a single-bit error are written back. -/
def State.elemsBack (s : State) (core : CoreId) (l : Loc) (t : Tensor) (ps : List (Nat × Nat)) : State :=
  ps.foldl (fun u e => u.readBack core l (t.offset e.1 e.2) (max 1 (t.fmt.bits / 8))) s

/-- The columns of a row. -/
def rowOf (r cols : Nat) : List (Nat × Nat) := (span 0 cols).map fun c => (r, c)

/-- Put bytes of an element into the bytes to be written, by address with poison. An element of 4 bits takes its half of the byte:
the other half keeps what is to be written there or stands there, and is zero beside the last element of a line (R137). -/
def State.elemBytes (s : State) (core : CoreId) (l : Loc) (t : Tensor) (r c v : Nat) (m : List (Nat × Nat × Bool)) :
    Option (List (Nat × Nat × Bool)) :=
  let a := t.offset r c
  let i := (t.at_ r c).2
  let put (q : List (Nat × Nat × Bool)) (a b : Nat) : List (Nat × Nat × Bool) := tinsert (terase q a) a (b, taintOf v)
  if t.fmt.bits = 4 then
    if i % 2 = 0 ∧ i + 1 = t.items then some (put m a (rawOf v % 16))
    else
      let old : Option Nat := match m.find? fun e => e.1 == a with
        | some e => some e.2.1
        | none => (s.engineRead core l a 1).map Got.v
      old.map fun b => put m a (if i % 2 = 0 then rawOf v % 16 + b / 16 * 16 else b % 16 + 16 * (rawOf v % 16))
  else some ((span 0 (t.fmt.bits / 8)).foldl (fun q j => put q (a + j) (rawOf v / 256 ^ j % 256)) m)

/-- A run of bytes to be written at once: offset, size, value, poison. -/
abbrev Piece := Nat × Nat × Nat × Bool

/-- Join neighbouring bytes of one 64-byte block and one poison into runs, from the last byte down. -/
def pieces : List (Nat × Nat × Bool) → List Piece
  | [] => []
  | (a, b, p) :: r => match pieces r with
    | (a', n, v, p') :: q =>
      if a + 1 = a' ∧ a / 64 = a' / 64 ∧ p = p' then (a, n + 1, b + 256 * v, p) :: q else (a, 1, b, p) :: (a', n, v, p') :: q
    | [] => [(a, 1, b, p)]

/-- Write the elements of a row (R137): (row, column, bits) each. -/
def State.elemsWrite (s : State) (core : CoreId) (c : CtxId) (l : Loc) (t : Tensor) (vs : List (Nat × Nat × Nat)) :
    Option State :=
  let bytes := vs.foldl (fun (m : Option (List (Nat × Nat × Bool))) e =>
    m.bind fun q => s.elemBytes core l t e.1 e.2.1 e.2.2 q) (some [])
  bytes.bind fun bs => (pieces bs).foldl (fun (t : Option State) p =>
    t.bind fun u => u.engineWrite core c l p.1 p.2.1 p.2.2.1 p.2.2.2) (some s)

/-! ### Tiles and slots (R237) -/

/-- The 64 values of a tile, with poison. -/
def State.tileRead (s : State) (core : CoreId) (t : Tensor) : List (Nat × Nat × Nat) :=
  let q := (s.core core).q
  (span 0 64).map fun e =>
    let a := 256 * t.tile + 4 * e
    (e / t.cols.toNat, e % t.cols.toNat, q.cells.read a 4 + if q.poisoned a 4 then 2 ^ 64 else 0)

/-- Write values to a tile from value 0 on, and set its shape tag. A poisoned value poisons its word, or the whole tile. -/
def State.tileWrite (s : State) (core : CoreId) (t : Tensor) (vals : List Nat) (whole : Bool) : State :=
  let bad := (vals.zip (span 0 64)).filterMap fun e => if taintOf e.1 then some (32 * t.tile + e.2 / 2) else none
  let ws := if whole && !bad.isEmpty then span (32 * t.tile) 32 else bad
  s.modCore core fun k => { k with
    q := (k.q.enginePut (256 * t.tile) (4 * vals.length) (packLanes 32 vals) false).taint ws
    shape := tset .t4x16 k.shape t.tile t.tag }

/-- The codes of row r of an operand slot, with poison. -/
def State.slotRow (s : State) (core : CoreId) (t : Tensor) (r : Nat) : List Nat × Bool :=
  let p := (s.core core).p
  let a := 512 * t.slot + 32 * r
  let w := t.fmt.bits
  let v := p.cells.read a 32
  ((span 0 (256 / w)).map fun i => v / 2 ^ (w * i) % 2 ^ w, p.poisoned a 32)

end Sys2Proof.Machine
end

