-- ==== Sys2Proof/Machine/Engines.lean ====
section
/-! DEFINITION. Engine commands (R155, R233 to R249): the checks at the tape, the queues, and the meaning of each command's
instruction, which places it in its queue. What a command then does stands in EngineRun. -/

namespace Sys2Proof.Machine

/-! ### What an instruction asks of its engine -/

/-- The engine of a command (R228, R240 to R248, R254). -/
def Instr.engine : Instr → EngineKind
  | .mma .. | .mmag .. | .qzero .. => .matrix
  | .pload .. | .cpy .. | .cpyx .. => .copy
  | .creduce .. | .cbcast .. | .callred .. | .cgather .. => .collective
  | _ => .vector

/-- The units a command holds from grant to completion (R292). -/
def Instr.cost (i : Instr) : Nat :=
  match i with
  | .mma .. | .mmag .. => 8
  | .qzero .. => 1
  | _ => if Instr.engine i = .vector then 4 else 2

/-- Bits 31:0 of g[a] name the target of CPYX, the whole register holds the counts of MMAG. -/
def Instr.argOf (x : Ctx) : Instr → Word
  | .mmag _ _ _ _ _ a _ => x.readG a
  | .cpyx _ _ _ _ a _ => x.readG a
  | _ => 0

/-- Count n_q of MMAG (R243). -/
def countOf (arg : Word) (q : Nat) : Nat := arg.toNat / 256 ^ q % 256

/-- M and N of a shape; QUAD has the shape of 4x1 (R241). -/
def MmaShape.dims : MmaShape → Nat × Nat
  | .s1x4 => (4, 16)
  | .s2x2 => (8, 8)
  | .s4x1 => (16, 4)
  | .quad => (16, 4)

/-! ### Operands and their checks (R237, R381) -/

/-- What a command asks of one operand. -/
structure Operand where
  /-- 0 TD, 1 TA, 2 TB, 4 + q MMAG group q -/
  role : Nat
  idx : TIdx
  spaces : List Nat
  /-- kinds: narrow, log, integer, IEEE -/
  kinds : List TKind
  shape : Option (Nat × Nat)
  /-- one column only -/
  oneCol : Bool
  /-- the command writes it -/
  writes : Bool
  deriving DecidableEq, Repr

def anyKind : List TKind := [.linear, .log, .int, .ieee]
def numKind : List TKind := [.int, .ieee]

/-- An operand in S or global memory. -/
def memOp (role : Nat) (idx : TIdx) (kinds : List TKind) (writes : Bool) : Operand :=
  { role := role, idx := idx, spaces := [0, 3], kinds := kinds, shape := none, oneCol := false, writes := writes }

/-- An operand slot, or a tile. -/
def slotOp (role : Nat) (idx : TIdx) (writes : Bool) : Operand :=
  { role := role, idx := idx, spaces := [1], kinds := [.log], shape := none, oneCol := false, writes := writes }
def tileOp (role : Nat) (idx : TIdx) (shape : Option (Nat × Nat)) (writes : Bool) : Operand :=
  { role := role, idx := idx, spaces := [2], kinds := [.ieee], shape := shape, oneCol := false, writes := writes }

/-- And, or and xor. -/
def RedOp.logic : RedOp → Bool
  | .add => false
  | .min => false
  | .max => false
  | .band => true
  | .bor => true
  | .bxor => true

/-- The kinds a reduction accepts. -/
def RedOp.kinds (op : RedOp) : List TKind := if RedOp.logic op then [.int] else numKind

/-- The operation of VEMAP reads B. -/
def MapOp.usesB : MapOp → Bool
  | .copy => false
  | .abs => false
  | .neg => false
  | .add => true
  | .sub => true
  | .mul => true
  | .min => true
  | .max => true
  | .band => true
  | .bor => true
  | .bxor => true

/-- The operands of a command in the order of R381. `isRoot` says whether the member of a collective is its root. Where R90's table
names QST and QSTL as writers of Q and QLD as a reader, the model follows R245, in which QLD writes the tile and QST and QSTL read it
(DEDUCED, log entry 24). -/
def Instr.operands (i : Instr) (arg : Word) (isRoot : Bool) : List Operand :=
  match i with
  | .vemap op td ta tb _ =>
    [memOp 0 td numKind true, memOp 1 ta numKind false] ++ if MapOp.usesB op then [memOp 2 tb numKind false] else []
  | .vered op td ta _ => [{ memOp 0 td (RedOp.kinds op) true with oneCol := true }, memOp 1 ta (RedOp.kinds op) false]
  | .vescan op td ta _ => [memOp 0 td (RedOp.kinds op) true, memOp 1 ta (RedOp.kinds op) false]
  | .vecvt td ta _ => [memOp 0 td anyKind true, memOp 1 ta anyKind false]
  | .mma sh _ td ta tb _ => [tileOp 0 td (some (MmaShape.dims sh)) true, slotOp 1 ta false, slotOp 2 tb false]
  | .mmag sh _ td ta tb _ _ =>
    ((span 0 4).filter fun q => countOf arg q != 0).map (fun q => tileOp (4 + q) (Fin.ofNat 64 (td.val + q)) (some (MmaShape.dims sh)) true) ++
      [slotOp 1 ta false, slotOp 2 tb false]
  | .qzero td _ => [tileOp 0 td none true]
  | .pload _ td ta _ => [slotOp 0 td true, memOp 1 ta [.ieee, .log] false]
  | .qld td ta _ => [tileOp 0 td none true, memOp 1 ta [.ieee, .linear, .log] false]
  | .qst td ta _ => [memOp 0 td [.ieee, .linear] true, tileOp 1 ta none false]
  | .qstl td ta _ => [memOp 0 td [.log] true, tileOp 1 ta none false]
  | .qcvt _ td ta _ => [tileOp 0 td none true, tileOp 1 ta none false]
  | .cpy td ta _ => [memOp 0 td anyKind true, memOp 1 ta anyKind false]
  | .cpyx pull _ td ta _ _ =>
    [{ memOp 0 td anyKind true with spaces := if pull then [0, 3] else [0] },
     { memOp 1 ta anyKind false with spaces := if pull then [0] else [0, 3] }]
  | .creduce op _ _ td ta _ => (if isRoot then [memOp 0 td (RedOp.kinds op) true] else []) ++ [memOp 1 ta (RedOp.kinds op) false]
  | .cbcast _ _ td ta _ => [memOp 0 td anyKind true] ++ if isRoot then [memOp 1 ta anyKind false] else []
  | .callred op _ td ta _ => [memOp 0 td (RedOp.kinds op) true, memOp 1 ta (RedOp.kinds op) false]
  | .cgather _ td ta _ => [memOp 0 td anyKind true, memOp 1 ta anyKind false]
  | _ => []

/-- ROWS, COLS, STRIDE, ORDER and BASE are as R237 and the command require (reason 5). -/
def Operand.placed (o : Operand) (t : Tensor) : Bool :=
  (!(t.space == 1) || (!t.order && t.base.toNat % 512 == 0 && decide (t.base.toNat < 0x10000) && t.stride == 32 &&
    t.shape == (16, 256 / t.fmt.bits))) &&
  (!(t.space == 2) || (!t.order && t.base.toNat % 256 == 0 && decide (t.base.toNat < 0x8000) &&
    decide (t.shape = (4, 16) ∨ t.shape = (8, 8) ∨ t.shape = (16, 4)) && decide (t.stride.toNat = 4 * t.cols.toNat) &&
    (match o.shape with
      | none => true
      | some sh => decide (t.shape = sh)))) &&
  (!o.oneCol || t.cols == 1)

/-- The first of reasons 1 to 7 that an operand meets (R381). -/
def Operand.reason (o : Operand) (x : Ctx) (t : Tensor) : Option Nat :=
  let g := x.readSeg (Fin.ofNat 8 t.seg.toNat)
  if !t.valid then some 1
  else if !t.sound then some 2
  else if !o.spaces.contains t.space.toNat then some 3
  else if !o.kinds.contains t.kind || (t.space == 2 && t.fa != 0) then some 4
  else if !o.placed t then some 5
  else if t.space = 0 ∧ sSize < t.base.toNat + t.extent then some 6
  else if t.space = 3 ∧ g.limit.toNat < t.base.toNat + t.extent then some 6
  else if t.space = 3 ∧ (if o.writes then g.w else g.r) = false then some 7
  else none

/-- ceaddr of a TENSOR_DESCRIPTOR refusal. -/
def tensorCeaddr (reason role : Nat) (idx : TIdx) : Word := BitVec.ofNat 64 (idx.val + 2 ^ 8 * role + 2 ^ 12 * reason)

/-- The entry that a command reads in a role. -/
def ent (m : SMap Tensor) (role : Nat) : Tensor := tget Tensor.reset m role

/-- Two tensors have one format in KIND, SGN and FA. -/
def sameType (a b : Tensor) : Bool := a.kind == b.kind && a.sgn == b.sgn && a.fa == b.fa

/-- Integer A widens into integer D of the same signedness, FP16 and BF16 into FP32, a type into itself (R230). -/
def widens (a d : Tensor) : Bool :=
  sameType a d || (a.kind == .int && d.kind == .int && a.sgn == d.sgn && decide (a.fa.toNat ≤ d.fa.toNat)) ||
    (a.kind == .ieee && d.kind == .ieee && d.fa == 0)

/-- A pair that VECVT accepts (R231). -/
def converts (a d : Tensor) : Bool :=
  match a.kind, d.kind with
  | .linear, .ieee | .log, .ieee => d.fa == 0
  | .linear, .linear | .linear, .log | .linear, .int | .log, .linear | .log, .log | .log, .int => false
  | .int, .linear | .int, .log => false
  | .int, .int | .int, .ieee => true
  | .ieee, .linear | .ieee, .log | .ieee, .int | .ieee, .ieee => true

/-- D of a reduction is the compute type, or FP16 or BF16 for an IEEE source (R256). -/
def reduces (a d : Tensor) : Bool := if a.kind = .ieee then d.kind == .ieee else sameType a d

/-- The role of the first operand that breaks a pairing with an earlier one (reason 8). R255 allows D = A in CALLRED and CBCAST and gives no
refusal for it in CREDUCE and CGATHER: the model performs these too, without refusing them (DESIGN CHOICE, log entry 61). -/
def Instr.unpaired (i : Instr) (m : SMap Tensor) (isRoot : Bool) : Option Nat :=
  let d := ent m 0
  let a := ent m 1
  let b := ent m 2
  let need (ok : Bool) (role : Nat) : Option Nat := if ok then none else some role
  let width := a.fmt.bits == d.fmt.bits
  let shape := a.shape == d.shape
  match i with
  | .vemap op .. => (need (shape && sameType a d) 1).orElse fun _ => need (!MapOp.usesB op || (b.shape == d.shape && sameType b d)) 2
  | .vered .. => need (a.rows == d.rows && widens a d) 1
  | .vescan .. => need (shape && widens a d) 1
  | .vecvt .. => need (shape && converts a d) 1
  | .mma .. | .mmag .. => need (a.fmt.bits == b.fmt.bits) 2
  | .pload t .. =>
    need ((if t then a.shape == (d.cols.toNat, d.rows.toNat) else shape) &&
      (a.kind == .ieee || (sameType a d && a.fb == d.fb && a.bias == d.bias && a.scale == d.scale))) 1
  | .qld .. | .qst .. | .qstl .. => need shape 1
  | .qcvt op .. => need (op != .tr || d.shape == (a.cols.toNat, a.rows.toNat)) 1
  | .cpy .. | .cpyx .. => need (shape && width) 1
  | .creduce .. => need (!isRoot || (shape && reduces a d)) 1
  | .callred .. => need (shape && reduces a d) 1
  | .cbcast .. => need (!isRoot || (shape && width)) 1
  | .cgather .. => need (a.cols == d.cols && width) 1
  | _ => none

/-- The first failing operand, by itself: its reason with its role and index. -/
def badOperand (x : Ctx) (tt : SMap Tensor) : List Operand → Option Word
  | [] => none
  | o :: r => match o.reason x (tget Tensor.reset tt o.idx.val) with
    | some n => some (tensorCeaddr n o.role o.idx)
    | none => badOperand x tt r

/-- The first operand that names a slot or tile which its context has not claimed (R239, R382). -/
def unclaimed (k : Core) (c : CtxId) (tt : SMap Tensor) : List Operand → Option Word
  | [] => none
  | o :: r =>
    let t := tget Tensor.reset tt o.idx.val
    let q := t.space == 2
    let n := if q then t.tile else t.slot
    if (t.space == 1 && tget 0 k.pclaim n != kOf c + 1) || (q && tget 0 k.qclaim n != kOf c + 1) then
      some (BitVec.ofNat 64 (n + 2 ^ 8 * q.toNat + 2 ^ 12))
    else unclaimed k c tt r

/-- The first group of an MMAG with a clipped row. -/
def clippedGroup (arg : Word) (m : Nat) : Nat → Nat → Nat → Option Nat
  | 0, _, _ => none
  | fuel + 1, q, r =>
    let n := countOf arg q
    if n ≠ 0 ∧ m < r + n then some q else clippedGroup arg m fuel (q + 1) (r + n)

/-- The GROUP_BOUNDS refusal (R383). -/
def Instr.groupBounds (i : Instr) (x : Ctx) (arg : Word) : Option Word :=
  match i with
  | .mmag sh .. => if x.gbt then (clippedGroup arg (MmaShape.dims sh).1 4 0 0).map fun q =>
      BitVec.ofNat 64 (arg.toNat % 2 ^ 32 + 2 ^ 32 * q) else none
  | _ => none

/-- The refusal of a command, or none (R233, R381 to R383). -/
def State.cmdRefusal (s : State) (c : CtxId) (i : Instr) (arg : Word) (isRoot : Bool) : Option (BitVec 8 × Word) :=
  let x := s.ctx c
  let k := s.core (coreOf c)
  let os := Instr.operands i arg isRoot
  let ents := os.foldl (fun m o => tset Tensor.reset m o.role (tget Tensor.reset k.tt o.idx.val)) []
  match badOperand x k.tt os with
  | some a => some (causeTensor, a)
  | none => match Instr.unpaired i ents isRoot with
    | some role => match os.find? fun o => o.role == role with
      | some o => some (causeTensor, tensorCeaddr 8 role o.idx)
      | none => none
    | none => match Instr.groupBounds i x arg with
      | some a => some (causeGroup, a)
      | none => (unclaimed k c k.tt os).map fun a => (causeSlot, a)

/-- The command with the entries and segments that it has read (R139, R183). -/
def State.command (s : State) (c : CtxId) (i : Instr) (arg : Word) (isRoot sched : Bool) : Cmd :=
  let x := s.ctx c
  let k := s.core (coreOf c)
  let os := Instr.operands i arg isRoot
  { id := s.nextId, instr := i, ctx := c, launch := x.row.launch.toNat, job := x.row.job.toNat,
    ents := os.foldl (fun m o => tset Tensor.reset m o.role (tget Tensor.reset k.tt o.idx.val)) [],
    segs := (span 0 8).foldl (fun m n => tset Seg.zero m n (x.readSeg (Fin.ofNat 8 n))) [],
    arg := arg, granted := false, asked := false, started := false, row := 0, readDone := false, data := [], flags := 0, sched := sched, met := false }

/-! ### Queues (R59, R155, R254) -/

/-- A core's engine queue. -/
def Core.queue (k : Core) : EngineKind → List Cmd
  | .matrix => k.matrixQ
  | .vector => k.vectorQ
  | .copy => k.copyQ
  | .collective => []

def Core.setQueue (k : Core) (e : EngineKind) (q : List Cmd) : Core :=
  match e with
  | .matrix => { k with matrixQ := q }
  | .vector => { k with vectorQ := q }
  | .copy => { k with copyQ := q }
  | .collective => k

/-- The queue of the collective engine that a core uses. -/
def Cluster.coll (q : Cluster) (core : CoreId) : List (CoreId × Cmd) := if cOf core % 2 = 0 then q.coll0 else q.coll1
def Cluster.setColl (q : Cluster) (core : CoreId) (l : List (CoreId × Cmd)) : Cluster :=
  if cOf core % 2 = 0 then { q with coll0 := l } else { q with coll1 := l }

/-- A queue has room for a command of a context. -/
def State.queueRoom (s : State) (c : CtxId) (e : EngineKind) : Bool :=
  let core := coreOf c
  match e with
  | .collective => decide (((s.cluster (clusterOf c)).coll core).length < 16)
  | .matrix | .vector | .copy =>
    let q := (s.core core).queue e
    if (s.ctx c).lap then !q.any fun m => m.ctx == c else decide (q.length < 2)

/-- Put a command at the end of its queue. -/
def State.enqueue (s : State) (m : Cmd) : State :=
  let core := coreOf m.ctx
  let e := Instr.engine m.instr
  let t := match e with
    | .collective => s.modCluster (clusterOf m.ctx) fun q => q.setColl core (q.coll core ++ [(core, m)])
    | .matrix | .vector | .copy => s.modCore core fun k => k.setQueue e (k.queue e ++ [m])
  t.testHeads core

/-! ### Quota (R290) -/

/-- Take units from cquota; a launch with no quota takes none. -/
def Ctx.charge (x : Ctx) (n : Nat) : Ctx :=
  if x.quota = 0xFFFFFFFF then x else { x with cquota := BitVec.ofNat 32 (x.cquota.toNat - n) }

/-- The charge of a command: 1 for each 64 bytes that it reads. -/
def Cmd.units (m : Cmd) : Nat :=
  match m.instr with
  | .mma .. | .mmag .. => if (ent m.ents 1).fmt.bits = 8 then 256 else 512
  | .qzero .. => 1
  | _ => ((((m.ents.filter fun e => e.1 == 1 || e.1 == 2).map fun e => e.2.bytes).foldl (· + ·) 0) + 63) / 64

/-! ### Kicks (R155, R233) -/

/-- The command is one of those that batches count (R253). -/
def Instr.batched : Instr → Bool
  | .pload .. | .cpy .. | .cpyx .. => true
  | _ => false

/-- Place a command that has passed its checks, or wait for room with it kept. -/
def State.place_ (s : State) (m : Cmd) : Out :=
  if s.queueRoom s.cur (Instr.engine m.instr) then
    let c : Cmd := { m with id := s.nextId }
    .next ((({ s with nextId := s.nextId + 1 }.enqueue c).modMe fun x =>
      if Instr.batched m.instr then { x with openBatch := x.openBatch ++ [c.id] } else x).done 16 (·.charge m.units))
  else .next ((s.modMe fun x => { x with kick := some m }).waits .queueRoom)

/-- The meaning of an engine command's instruction. -/
def State.kick (s : State) (i : Instr) : Out :=
  match s.me.kick with
  | some m => s.place_ m
  | none =>
    let arg := Instr.argOf s.me i
    match s.cmdRefusal s.cur i arg true with
    | some (cause, ceaddr) => s.refuse cause ceaddr
    | none => s.place_ (s.command s.cur i arg true false)

def execVemap (op : MapOp) (td ta tb : TIdx) (w : WaitSig) (s : State) : Out := s.kick (.vemap op td ta tb w)
def execVered (op : RedOp) (td ta : TIdx) (w : WaitSig) (s : State) : Out := s.kick (.vered op td ta w)
def execVescan (op : RedOp) (td ta : TIdx) (w : WaitSig) (s : State) : Out := s.kick (.vescan op td ta w)
def execVecvt (td ta : TIdx) (w : WaitSig) (s : State) : Out := s.kick (.vecvt td ta w)
def execMma (sh : MmaShape) (z : Bool) (td ta tb : TIdx) (w : WaitSig) (s : State) : Out := s.kick (.mma sh z td ta tb w)
def execMmag (sh : MmaShape) (z : Bool) (td ta tb : TIdx) (a : GReg) (w : WaitSig) (s : State) : Out :=
  s.kick (.mmag sh z td ta tb a w)
def execQzero (td : TIdx) (w : WaitSig) (s : State) : Out := s.kick (.qzero td w)
def execPload (t : Bool) (td ta : TIdx) (w : WaitSig) (s : State) : Out := s.kick (.pload t td ta w)
def execQld (td ta : TIdx) (w : WaitSig) (s : State) : Out := s.kick (.qld td ta w)
def execQst (td ta : TIdx) (w : WaitSig) (s : State) : Out := s.kick (.qst td ta w)
def execQstl (td ta : TIdx) (w : WaitSig) (s : State) : Out := s.kick (.qstl td ta w)
def execQcvt (op : QcvtOp) (td ta : TIdx) (w : WaitSig) (s : State) : Out := s.kick (.qcvt op td ta w)
def execCpy (td ta : TIdx) (w : WaitSig) (s : State) : Out := s.kick (.cpy td ta w)
def execCpyx (pull rs : Bool) (td ta : TIdx) (a : GReg) (w : WaitSig) (s : State) : Out := s.kick (.cpyx pull rs td ta a w)

/-! ### The tensor table (R236, R381) -/

/-- Write an entry, refused where it breaks R138. -/
def State.setEntry (s : State) (t : TIdx) (e : Tensor) (force : Bool) : Out :=
  if e.sound || force then .next ((s.modCore s.myCore fun k => { k with tt := tset Tensor.reset k.tt t.val e }).done 8 fun x => x)
  else s.refuse causeTensor (tensorCeaddr 2 0 t)

/-- The C4 check of TDEF's offset (R367, R375). -/
def tdefRefusal (ea : Word) : Option (BitVec 8) :=
  if ea.toNat % 32 ≠ 0 then some causeAlign else if sSize < ea.toNat + 32 then some causeLimit else none

/-- TDEF: a load of 32 bytes at a multiple of 32 in S, then the entry. -/
def execTdef (t : TIdx) (a : GReg) (imm : BitVec 20) (s : State) : Out :=
  let ea := s.me.readG a + imm.signExtend 64
  let o := ea.toNat
  let k := s.core s.myCore
  let own := s.ownBytes (some s.myCore) o 32
  match tdefRefusal ea with
  | some cause => s.refuse cause ea
  | none =>
    if k.s.consumes o 32 own then s.refuse causePoison ea
    else
      let img := overlay (k.s.cells.read o 32) own
      (s.readBackS s.myCore o 32).setEntry t (Tensor.ofImage fun q => imageAt img (8 * q) 8) false

/-- TRD: a doubleword of the entry. -/
def execTrd (d : GReg) (t : TIdx) (q : Fin 4) (s : State) : Out :=
  s.setG 8 d (BitVec.ofNat 64 ((tget Tensor.reset (s.core s.myCore).tt t.val).dw q.val))

/-- An entry with one field replaced by the low bits of a value. -/
def Tensor.withField (t : Tensor) (f : TField) (v : Word) : Tensor :=
  match f with
  | .base => { t with base := v.setWidth 48 }
  | .scale => { t with scale := v.setWidth 10 }
  | .rows => { t with rows := v.setWidth 32 }
  | .cols => { t with cols := v.setWidth 32 }
  | .stride => { t with stride := v.setWidth 40 }
  | .extra => { t with extra := v.setWidth 32 }
  | .seg => { t with seg := v.setWidth 3 }
  | .valid => { t with valid := v.getLsbD 0 }

def execTset (field : TField) (t : TIdx) (a : GReg) (s : State) : Out :=
  let e := tget Tensor.reset (s.core s.myCore).tt t.val
  let v := s.me.readG a
  if field ≠ .valid ∧ e.valid = false then s.refuse causeTensor (tensorCeaddr 1 0 t)
  else s.setEntry t (e.withField field v) (field == .valid && !v.getLsbD 0)

/-! ### Claims (R98, R238, R382) -/

/-- The claim table of slots, or of tiles. -/
def Core.claims (k : Core) (q : Bool) : SMap Nat := if q then k.qclaim else k.pclaim
def Core.setClaims (k : Core) (q : Bool) (m : SMap Nat) : Core := if q then { k with qclaim := m } else { k with pclaim := m }

/-- The first index f of a claim, and its count; refused when the range passes 127. -/
def State.claimRange (s : State) (q : Bool) (a : GReg) (i n1 : BitVec 7) (f : Nat → Nat → Out) : Out :=
  let lo := (s.me.readG a).toNat + i.toNat
  let n := n1.toNat + 1
  if 127 < lo + n - 1 then
    s.refuse causeSlot (BitVec.ofNat 64 (2 ^ 8 * q.toNat + 2 ^ 12 * 3 + 2 ^ 32 * (lo % 2 ^ 32)))
  else f lo n

/-- PCLAIM, QCLAIM. -/
def State.claim (s : State) (q : Bool) (d a : GReg) (i n1 : BitVec 7) : Out :=
  s.claimRange q a i n1 fun lo n =>
    let m := (s.core s.myCore).claims q
    let me := kOf s.cur + 1
    if (span lo n).all fun j => tget 0 m j == 0 || tget 0 m j == me then
      (s.modCore s.myCore fun k => k.setClaims q ((span lo n).foldl (fun t j => tset 0 t j me) m)).setG 8 d 0
    else s.setG 8 d 1

/-- A command names a slot or a tile of a range. -/
def Cmd.names (m : Cmd) (q : Bool) (lo n : Nat) : Bool :=
  m.ents.any fun e => (e.2.space == if q then 2 else 1) &&
    (let j := if q then e.2.tile else e.2.slot; decide (lo ≤ j ∧ j < lo + n))

/-- PREL, QREL: every index must be the caller's; it waits while a command of the context names one, queued or running. The bytes that
a running command writes are in their memory when it completes, so that a release finds them there: in the program of R315 with its
line 55 alone left out, which leaves the byte open, S takes the new code (DESIGN CHOICE, log entry 25). -/
def State.release (s : State) (q : Bool) (a : GReg) (i n1 : BitVec 7) : Out :=
  s.claimRange q a i n1 fun lo n =>
    let m := (s.core s.myCore).claims q
    match (span lo n).find? fun j => tget 0 m j != kOf s.cur + 1 with
    | some j => s.refuse causeSlot (BitVec.ofNat 64 (j + 2 ^ 8 * q.toNat + 2 ^ 12 * 2))
    | none =>
      if (s.commandsOf s.cur).any fun c => c.names q lo n then .next (s.waits .commands)
      else .next ((s.modCore s.myCore fun k => k.setClaims q ((span lo n).foldl (fun t j => tset 0 t j 0) m)).done 8 fun x => x)

def execPclaim (d a : GReg) (i n1 : BitVec 7) (s : State) : Out := s.claim false d a i n1
def execPrel (a : GReg) (i n1 : BitVec 7) (s : State) : Out := s.release false a i n1
def execQclaim (d a : GReg) (i n1 : BitVec 7) (s : State) : Out := s.claim true d a i n1
def execQrel (a : GReg) (i n1 : BitVec 7) (s : State) : Out := s.release true a i n1

/-! ### Stages and batches (R252, R253) -/

def execCstage (d : GReg) (n : BitVec 20) (s : State) : Out :=
  let v := (s.core s.myCore).stage + n.setWidth 32
  (s.modCore s.myCore fun k => { k with stage := v }).setG 8 d (v.setWidth 64)

/-- A batch is released, or has landed. -/
def Batch.released (b : Batch) : Bool := b.unread.isEmpty
def Batch.landed (b : Batch) : Bool := b.unlanded.isEmpty

/-- A command of a context whose source reads have been performed. -/
def State.readDone (s : State) (c : CtxId) (id : Nat) : Bool :=
  match (s.core (coreOf c)).copyQ.find? fun m => m.id == id with
  | some m => m.readDone
  | none => true

/-- BCLOSE: the open batch becomes a closed one with the commands of it that are still at work. -/
def execBclose (scope : FenceScope) (d : GReg) (s : State) : Out :=
  let x := s.me
  if (x.closed.filter fun b => !b.landed).length < 16 then
    let left := x.openBatch.filter fun id => (s.commandsOf s.cur).any fun m => m.id == id
    let b : Batch := { num := x.nextBatch, scope := scope, unread := left.filter fun id => !s.readDone s.cur id, unlanded := left }
    (s.modMe fun x => { x with openBatch := [], nextBatch := x.nextBatch + 1,
                               closed := (x.closed.filter fun q => !q.landed) ++ if b.landed then [] else [b] }).setG 8 d
      (x.nextBatch.setWidth 64)
  else .next (s.waits .batch)

def execBwaitRel (n : BitVec 4) (s : State) : Out :=
  if (s.me.closed.filter fun b => !b.released).length ≤ n.toNat then .next (s.done 8 fun x => x) else .next (s.waits .batch)

def execBwaitLand (n : BitVec 4) (s : State) : Out :=
  if (s.me.closed.filter fun b => !b.landed).length ≤ n.toNat then .next (s.done 8 fun x => x) else .next (s.waits .batch)

/-- The bit of an engine in the mask of EWAIT. -/
def EngineKind.bit : EngineKind → Nat
  | .matrix => 0
  | .vector => 1
  | .copy => 2
  | .collective => 3

def execEwait (mask : BitVec 4) (s : State) : Out :=
  if (s.commandsOf s.cur).any fun m => mask.getLsbD (EngineKind.bit (Instr.engine m.instr)) then .next (s.waits .batch)
  else .next (s.done 8 fun x => x)

end Sys2Proof.Machine
end

