-- ==== Sys2Proof/Machine/EngineRun.lean ====
section
/-! DEFINITION. What the matrix, vector and copy engines do with a command (R131 to R133, R228 to R251): its reads, its
arithmetic, its writes, its flags and its signal. -/

namespace Sys2Proof.Machine

/-! ### Conversions of an element (R222, R231, R240, R245) -/

/-- FP32 bits of an IEEE element, widened exactly. -/
def wideOf (t : ElemTy) (x : Nat) : Nat :=
  match t, ElemTy.fmt t with
  | .f32, _ => x
  | _, some f => widen32 f x
  | _, none => x

/-- One element of a format and scale base as an element of another. -/
def EFmt.conv (src : EFmt) (ss : Int) (dst : EFmt) (ds : Int) (x : Nat) : Res :=
  match src, dst with
  | .num t, .num u => elemConv t u x
  | .num t, .lin f => narrow (wideOf t x) f ds
  | .num t, .log f => logCode (wideOf t x) f ds
  | .lin f, .num _ => widen x f ss
  | .log f, .num _ => linFromLog x f ss
  | .lin _, .lin _ => (x, 0)
  | .lin _, .log _ => (x, 0)
  | .log _, .lin _ => (x, 0)
  | .log _, .log _ => (x, 0)

/-- Convert an element of one tensor into one of another, with its poison. -/
def convElem (a d : Tensor) (v : Nat) : Res :=
  let r := a.fmt.conv a.s d.fmt d.s (rawOf v)
  (r.1 + if taintOf v then 2 ^ 64 else 0, r.2)

/-- An element of a QLD: an IEEE one is widened exactly and raises nothing. -/
def loadElem (a : Tensor) (v : Nat) : Res :=
  let p := if taintOf v then 2 ^ 64 else 0
  match a.fmt with
  | .num t => (wideOf t (rawOf v) + p, 0)
  | .lin f => let r := widen (rawOf v) f a.s; (r.1 + p, r.2)
  | .log f => let r := linFromLog (rawOf v) f a.s; (r.1 + p, r.2)

/-- The element type of an integer or IEEE tensor. -/
def Tensor.ty (t : Tensor) : ElemTy :=
  match t.fmt with
  | .num u => u
  | .lin _ => .n8
  | .log _ => .n8

/-! ### Where a command's tensors lie (R247, R248) -/

/-- The target of CPYX as the command sees it: its own core, another core, or one outside the job. -/
def State.targetLoc (s : State) (m : Cmd) : Loc :=
  let id := m.arg.toNat % 2 ^ 32
  if coreNamed id = coreOf m.ctx then .bank (coreOf m.ctx)
  else if s.reaches m.ctx id then .bank (coreNamed id) else .gone id

/-- The memory of the tensor in a role. -/
def State.locOf (s : State) (m : Cmd) (role : Nat) : Loc :=
  let t := ent m.ents role
  if t.space = 1 then .slots
  else if t.space = 2 then .tiles
  else if t.space = 3 then .glob (jaddr m.job (tget Seg.zero m.segs t.seg.toNat).base.toNat)
  else match m.instr with
    | .cpyx pull .. => if (role == 1) == pull then s.targetLoc m else .bank (coreOf m.ctx)
    | _ => .bank (coreOf m.ctx)

/-- Read elements of the tensor in a role. -/
def State.cmdRead (s : State) (m : Cmd) (role : Nat) (ps : List (Nat × Nat)) : Option (List (Nat × Nat × Nat) × Bool) :=
  s.elemsRead (coreOf m.ctx) (s.locOf m role) (ent m.ents role) ps

/-- What a read of a command met with a single-bit error is written back (R93). -/
def State.readAgain (s : State) (m : Cmd) (role : Nat) (ps : List (Nat × Nat)) : State :=
  s.elemsBack (coreOf m.ctx) (s.locOf m role) (ent m.ents role) ps

/-- Write elements of D. -/
def State.cmdWrite (s : State) (m : Cmd) (vs : List (Nat × Nat × Nat)) : Option State :=
  s.elemsWrite (coreOf m.ctx) m.ctx (s.locOf m 0) (ent m.ents 0) vs

/-! ### Copies (R240, R247, R248) -/

/-- The element positions of A that row r of D takes. -/
def Cmd.taken (m : Cmd) (r : Nat) : List (Nat × Nat) :=
  let n := (ent m.ents 0).cols.toNat
  match m.instr with
  | .pload true .. => (span 0 n).map fun c => (c, r)
  | _ => (span 0 n).map fun c => (r, c)

/-- Read the elements of A that row r of D takes, placed at their row and column of D. -/
def State.copyRead (s : State) (m : Cmd) (r : Nat) : Option (List (Nat × Nat × Nat) × Bool) :=
  (s.cmdRead m 1 (m.taken r)).map fun q => ((q.1.zip (span 0 q.1.length)).map fun e => (r, e.2, e.1.2.2), q.2)

/-- Write a row of D from what was read; a PLOAD of an IEEE tensor converts, and one poisoned element poisons its slot row. -/
def State.copyWrite (s : State) (m : Cmd) (vs : List (Nat × Nat × Nat)) : Option (State × Flags) :=
  match m.instr with
  | .pload .. =>
    let a := ent m.ents 1
    let rs := vs.map fun e => (e.1, e.2.1, if a.kind = .log then (e.2.2, (0 : Flags)) else convElem a (ent m.ents 0) e.2.2)
    let bad := rs.any fun e => taintOf e.2.2.1
    (s.cmdWrite m (rs.map fun e => (e.1, e.2.1, rawOf e.2.2.1 + if bad then 2 ^ 64 else 0))).map fun t =>
      (t, rs.foldl (fun f e => f ||| e.2.2.2) 0)
  | _ => (s.cmdWrite m vs).map fun t => (t, 0)

/-- Copy a row: it is read before it is written. -/
def State.copyRow (s : State) (m : Cmd) (r : Nat) : Option (State × Flags) :=
  (s.copyRead m r).bind fun q => ((s.readAgain m 1 (m.taken r)).copyWrite m q.1).map fun w => (w.1, w.2 ||| flagIf q.2 fDZR)

/-! ### The vector engine's macro-operations (R228 to R231) -/

/-- An operation of VEMAP. -/
def MapOp.apply (op : MapOp) (t : ElemTy) (x y : Nat) : Res :=
  match op with
  | .copy => (x, 0)
  | .add => elemAdd t x y
  | .sub => elemSub t x y
  | .mul => elemMul t x y
  | .min => elemMin t x y
  | .max => elemMax t x y
  | .band => elemAnd x y
  | .bor => elemOr x y
  | .bxor => elemXor x y
  | .abs => elemAbs t x
  | .neg => elemNeg t x

/-- Poison of either of two elements. -/
def bothTaint (a b : Nat) : Nat := if taintOf a || taintOf b then 2 ^ 64 else 0

/-- The values of row r of D from the elements of A and B, with the flags. -/
def Cmd.rowOf (m : Cmd) (r : Nat) (a b : List (Nat × Nat × Nat)) : List (Nat × Nat × Nat) × Flags :=
  let ta := ent m.ents 1
  let td := ent m.ents 0
  let out (rs : List (Nat × Nat × Res)) : List (Nat × Nat × Nat) × Flags :=
    (rs.map fun e => (e.1, e.2.1, e.2.2.1), rs.foldl (fun f e => f ||| e.2.2.2) 0)
  match m.instr with
  | .vemap op .. =>
    let ys := if MapOp.usesB op then b else a
    out ((a.zip ys).map fun e =>
      let v := MapOp.apply op td.ty (rawOf e.1.2.2) (rawOf e.2.2.2)
      (r, e.1.2.1, v.1 + bothTaint e.1.2.2 (if MapOp.usesB op then e.2.2.2 else 0), v.2))
  | .vecvt .. => out (a.map fun e => (r, e.2.1, convElem ta td e.2.2))
  | .vered op .. =>
    let xs := a.map fun e => elemConv ta.ty td.ty (rawOf e.2.2)
    let v := reduceList op td.ty (xs.map Prod.fst)
    out [(r, 0, v.1 + if a.any fun e => taintOf e.2.2 then 2 ^ 64 else 0, v.2 ||| flagsOf xs)]
  | .vescan op .. =>
    -- the last element of a row enters no result (R230), so what converting it raises is left out
    let xs := a.map fun e => elemConv ta.ty td.ty (rawOf e.2.2)
    let vs := scanList op td.ty (xs.map Prod.fst)
    let widened := flagsOf (xs.take (xs.length - 1))
    (fun q : List (Nat × Nat × Nat) × Flags => (q.1, q.2 ||| widened)) <| out ((vs.zip (span 0 vs.length)).map fun e =>
      (r, e.2, e.1.1 + if (a.take e.2).any fun q => taintOf q.2.2 then 2 ^ 64 else 0, e.1.2))
  | _ => ([], 0)

/-- Process a row: every needed source element of the row is read before the row of D is written. -/
def State.vengRow (s : State) (m : Cmd) (r : Nat) : Option (State × Flags) :=
  let ps := rowOf r (ent m.ents 1).cols.toNat
  let useB := m.ents.any fun e => e.1 == 2
  (s.cmdRead m 1 ps).bind fun a =>
    (if useB then s.cmdRead m 2 ps else some ([], false)).bind fun b =>
      let v := m.rowOf r a.1 b.1
      let t := s.readAgain m 1 ps
      ((if useB then t.readAgain m 2 ps else t).cmdWrite m v.1).map fun t => (t, v.2 ||| flagIf (a.2 || b.2) fDZR)

/-! ### Row by row (R228, R240, R247) -/

/-- The command reads and writes row by row: a copy, a PLOAD or a macro-operation of the vector engine. -/
def Instr.byRows : Instr → Bool
  | .pload .. | .cpy .. | .cpyx .. | .vemap .. | .vered .. | .vescan .. | .vecvt .. => true
  | _ => false

/-- The next row of such a command; none while a page is not resident or a log is full. -/
def State.rowStep (s : State) (m : Cmd) : Option (State × Cmd) :=
  (match m.instr with
    | .pload .. | .cpy .. | .cpyx .. => s.copyRow m m.row
    | _ => s.vengRow m m.row).map fun (w : State × Flags) => (w.1, { m with row := m.row + 1, flags := m.flags ||| w.2 })

/-- Rows one after another, `n` of them, as far as they can be performed. -/
def State.runRows : Nat → State → Cmd → State × Cmd
  | 0, s, m => (s, m)
  | n + 1, s, m => match s.rowStep m with
    | none => (s, m)
    | some (t, m') => State.runRows n t m'

/-- The rows of D. -/
def Cmd.rows (m : Cmd) : Nat := (ent m.ents 0).rows.toNat

/-- Run a copy up to its last read: all rows but the last are copied, the last is read (R253). -/
def State.copyReads (s : State) (m : Cmd) : State × Cmd :=
  let w := State.runRows (m.rows - 1 - m.row) s m
  if w.2.row + 1 = m.rows then match w.1.copyRead m w.2.row with
    | some q => (w.1.readAgain m 1 (m.taken w.2.row), { w.2 with readDone := true, data := q.1, flags := w.2.flags ||| flagIf q.2 fDZR })
    | none => w
  else w

/-! ### Matrix products (R131 to R133, R241 to R243) -/

/-- One element: R132 over the products of a row of A and a row of B, with poison. -/
def macElem (ta tb : Tensor) (arow brow : List Nat) (acc : Nat) : Res :=
  match ta.fmt, tb.fmt with
  | .log fa, .log fb => accumulate acc ((arow.zip brow).map fun e => logProduct e.1 fa ta.s e.2 fb tb.s)
  | .log _, .num _ => (acc, 0)
  | .log _, .lin _ => (acc, 0)
  | .num _, _ => (acc, 0)
  | .lin _, _ => (acc, 0)

/-- The B row that element (i, j) of C uses. -/
def MmaShape.brow (sh : MmaShape) (i j : Nat) : Nat :=
  match sh with
  | .quad => 4 * (i / 4) + j
  | .s1x4 => j
  | .s2x2 => j
  | .s4x1 => j

/-- The old values of a tile that a command read, by group. -/
def Cmd.old (m : Cmd) (q e : Nat) : Nat :=
  match m.data.find? fun d => d.1 == q && d.2.1 == e with
  | some d => d.2.2
  | none => 0

/-- Rows of a tile: row r' of the tile from row r + r' of A, `n` of them, on its old values; the poison of a row of A or B or of an old
value goes with the element. -/
def State.macRows (s : State) (m : Cmd) (sh : MmaShape) (z : Bool) (was : Nat → Nat) (r n : Nat) : List Res :=
  let core := coreOf m.ctx
  let ta := ent m.ents 1
  let tb := ent m.ents 2
  let cols := (MmaShape.dims sh).2
  let bs := (span 0 16).map fun j => s.slotRow core tb j
  ((span 0 n).map fun i =>
    let a := s.slotRow core ta (r + i)
    (span 0 cols).map fun j =>
      let b := bs.getD (MmaShape.brow sh (r + i) j) ([], false)
      let old := if z then 0 else was (i * cols + j)
      let v := macElem ta tb a.1 b.1 (rawOf old)
      (v.1 + if a.2 || b.2 || taintOf old then 2 ^ 64 else 0, v.2)).flatten

/-- MMA: the tile is written at once. -/
def State.runMma (s : State) (m : Cmd) (sh : MmaShape) (z : Bool) : State × Flags :=
  let rs := s.macRows m sh z (m.old 0) 0 (MmaShape.dims sh).1
  (s.tileWrite (coreOf m.ctx) (ent m.ents 0) (rs.map Prod.fst) true, flagsOf rs)

/-- An earlier group of an MMAG has written the tile of group q: its old values are those that group left (R243). -/
def Cmd.rewrites (m : Cmd) (q : Nat) : Bool :=
  (span 0 q).any fun p => countOf m.arg p != 0 && (ent m.ents (4 + p)).tile == (ent m.ents (4 + q)).tile

/-- The old values of the tile of group q of an MMAG when the group's turn comes. -/
def State.groupOld (s : State) (m : Cmd) (q e : Nat) : Nat :=
  if m.rewrites q then ((s.tileRead (coreOf m.ctx) (ent m.ents (4 + q)))[e]?.map fun v => v.2.2).getD 0 else m.old q e

/-- The groups of an MMAG from q on, from row r of A (R243). -/
def State.runGroups (s : State) (m : Cmd) (sh : MmaShape) (z : Bool) : Nat → Nat → Nat → Flags → State × Flags
  | 0, _, _, f => (s, f)
  | fuel + 1, q, r, f =>
    let n := countOf m.arg q
    if n = 0 then State.runGroups s m sh z fuel (q + 1) r f
    else
      let rows := min n ((MmaShape.dims sh).1 - r)
      let rs := s.macRows m sh z (s.groupOld m q) r rows
      let t := if rows = 0 then s else s.tileWrite (coreOf m.ctx) (ent m.ents (4 + q)) (rs.map Prod.fst) true
      State.runGroups t m sh z fuel (q + 1) (r + n) (f ||| flagsOf rs ||| flagIf (decide (rows < n)) fGRP)

/-! ### Accumulator moves (R245) -/

/-- Positions of a tensor in row order. -/
def Tensor.places (t : Tensor) : List (Nat × Nat) :=
  ((span 0 t.rows.toNat).map fun r => rowOf r t.cols.toNat).flatten

/-- Write rows of D from elements, row by row. -/
def State.putRows (s : State) (m : Cmd) (vs : List (Nat × Nat × Nat)) : List Nat → Option State
  | [] => some s
  | r :: rest => (s.cmdWrite m (vs.filter fun e => e.1 == r)).bind fun t => State.putRows t m vs rest

/-- QCVT of the 64 values of A. -/
def qcvtOf (op : QcvtOp) (rows cols : Nat) (vs : List Nat) : List Res :=
  let round (t : ElemTy) (v : Nat) : Res :=
    let r := elemConv .f32 t (rawOf v)
    (wideOf t r.1 + if taintOf v then 2 ^ 64 else 0, r.2)
  match op with
  | .copy => vs.map fun v => (v, 0)
  | .tr => (span 0 64).map fun e => (vs.getD (e % rows * cols + e / rows) 0, 0)
  | .bf16 => vs.map (round .bf16)
  | .f16 => vs.map (round .f16)

/-! ### A command as a whole -/

/-- The operand slots that a matrix product reads, with what was met written back (R93). -/
def State.slotsAgain (s : State) (m : Cmd) : State :=
  let core := coreOf m.ctx
  (s.readBack core .slots (512 * (ent m.ents 1).slot) 512).readBack core .slots (512 * (ent m.ents 2).slot) 512

/-- The tiles that a command reads when it starts, with what was met written back. -/
def State.tilesAgain (s : State) (m : Cmd) : State :=
  let roles := match m.instr with
    | .mma .. => [0]
    | .mmag .. => [4, 5, 6, 7]
    | .qst .. | .qstl .. | .qcvt .. => [1]
    | _ => []
  roles.foldl (fun t r => if (m.ents.any fun e => e.1 == r) then t.readBack (coreOf m.ctx) .tiles (256 * (ent m.ents r).tile) 256 else t) s

/-- What a command reads in the step that starts it (R242, R243, R245). A tile that two groups of an MMAG name is read again after the
earlier group's write, as R243's pseudocode orders it (`groupOld`). -/
def State.startData (s : State) (m : Cmd) : List (Nat × Nat × Nat) :=
  let core := coreOf m.ctx
  let vals (q role : Nat) : List (Nat × Nat × Nat) :=
    ((s.tileRead core (ent m.ents role)).zip (span 0 64)).map fun e => (q, e.2, e.1.2.2)
  match m.instr with
  | .mma .. => vals 0 0
  | .mmag .. => (((span 0 4).filter fun q => countOf m.arg q != 0).map fun q => vals q (4 + q)).flatten
  | .qst .. | .qstl .. | .qcvt .. => vals 0 1
  | _ => []

/-- Everything a started command that does not go row by row has still to do; none while a page is not resident or a log is full. -/
def State.runCmd (s : State) (m : Cmd) : Option (State × Flags) :=
  let core := coreOf m.ctx
  let td := ent m.ents 0
  let ta := ent m.ents 1
  match m.instr with
  | .mma sh z .. => some ((s.slotsAgain m).runMma m sh z)
  | .mmag sh z .. => some ((s.slotsAgain m).runGroups m sh z 4 0 0 0)
  | .qzero .. => some (s.tileWrite core td ((span 0 64).map fun _ => 0) false, 0)
  | .qld .. => (s.cmdRead m 1 ta.places).map fun q =>
      let rs := q.1.map fun e => loadElem ta e.2.2
      ((s.readAgain m 1 ta.places).tileWrite core td (rs.map Prod.fst) false, flagsOf rs ||| flagIf q.2 fDZR)
  | .qst .. | .qstl .. =>
    let rs := m.data.map fun e => (e.2.1 / ta.cols.toNat, e.2.1 % ta.cols.toNat, convElem ta td e.2.2)
    (s.putRows m (rs.map fun e => (e.1, e.2.1, e.2.2.1)) (span 0 td.rows.toNat)).map fun t =>
      (t, rs.foldl (fun f e => f ||| e.2.2.2) 0)
  | .qcvt op .. =>
    let rs := qcvtOf op ta.rows.toNat ta.cols.toNat (m.data.map fun e => e.2.2)
    some (s.tileWrite core td (rs.map Prod.fst) false, flagsOf rs)
  | _ => some (s, 0)

/-! ### Queue heads, starts, completions (R155, R233, R249) -/

/-- The command that an engine of a core works at or takes next. The copy engine takes fired schedule entries before its queue. -/
def State.engineHead (s : State) (core : CoreId) (e : EngineKind) : Option Cmd :=
  let k := s.core core
  match e with
  | .matrix => k.matrixQ.head?
  | .vector => k.vectorQ.head?
  | .copy => match k.copyQ with
    | m :: _ => if m.started then some m else (k.firedQ.head?).orElse fun _ => some m
    | [] => k.firedQ.head?
  | .collective => (((s.cluster (clusterOf core)).coll core).head?).bind fun p => if p.1 = core then some p.2 else none

/-- Change a command where it stands. -/
def State.modCmd (s : State) (core : CoreId) (e : EngineKind) (id : Nat) (f : Cmd → Cmd) : State :=
  let on (l : List Cmd) : List Cmd := l.map fun m => if m.id == id then f m else m
  match e with
  | .matrix => s.modCore core fun k => { k with matrixQ := on k.matrixQ }
  | .vector => s.modCore core fun k => { k with vectorQ := on k.vectorQ }
  | .copy => s.modCore core fun k => { k with copyQ := on k.copyQ, firedQ := on k.firedQ }
  | .collective => s.modCluster (clusterOf core) fun q =>
      { q with coll0 := q.coll0.map fun p => (p.1, if p.2.id == id then f p.2 else p.2),
               coll1 := q.coll1.map fun p => (p.1, if p.2.id == id then f p.2 else p.2) }

/-- The cores whose commands stand at the heads of a cluster's collective queues. -/
def Cluster.collHeads (q : Cluster) : List CoreId := (q.coll0.head?.toList ++ q.coll1.head?.toList).map Prod.fst

/-- Take a command out of its queue, with its reservation; what comes to a head tests its wait (R155). -/
def State.dropCmd (s : State) (core : CoreId) (m : Cmd) : State :=
  let on (l : List Cmd) : List Cmd := l.filter fun c => c.id != m.id
  let s1 := s.modCore core fun k =>
    { k with matrixQ := on k.matrixQ, vectorQ := on k.vectorQ, copyQ := on k.copyQ, firedQ := on k.firedQ }
  let s2 := s1.modCluster (clusterOf core) fun q =>
    { q with coll0 := q.coll0.filter (fun p => p.2.id != m.id), coll1 := q.coll1.filter (fun p => p.2.id != m.id),
             requests := q.requests.filter (fun r => r.cmd != m.id),
             held := if m.granted then q.held - Instr.cost m.instr else q.held }
  ((s2.cluster (clusterOf core)).collHeads.foldl State.testHeads s2).testHeads core

/-! ### What an engine's accesses wait for (R234, R259, R266) -/

/-- The tensor of a command in a role reaches into a destination. -/
def State.reachesDest (s : State) (m : Cmd) (role : Nat) (d : Dest) : Bool :=
  let t := ent m.ents role
  match s.locOf m role, d with
  | .bank k, .core c => k == c
  | .glob base, .home p =>
    let a := jplus base t.base.toNat
    decide (jminus (2 ^ 16 * p) (2 ^ 16 * pageOf a) < t.extent + a % 2 ^ 16)
  | .bank _, _ | .glob _, _ | .slots, _ | .tiles, _ | .gone _, _ => false

/-- A write that the clock of the command's die names has not been applied at a destination that the command reaches: its accesses are
held there. Everything the issuing context had performed before the kick, and everything that its wait or its stage acquired, stands
in that clock. -/
def State.engineHeld (s : State) (m : Cmd) : Bool :=
  let clock := (s.die (dieOf m.ctx)).clock
  s.net.any fun q => q.named clock && m.ents.any fun e => s.reachesDest m e.1 q.dest

/-! ### Refills that are due (R203, R249) -/

/-- The copy engine has a refill to send through a send record. -/
def Core.refillDue (k : Core) (rec_ : Nat) : Bool :=
  let r := k.sendRec rec_
  (recordReason (BitVec.ofNat 64 rec_)).isNone && (ringReason r.slen r.sbase r.clean).isNone &&
    !r.infl && r.inRing != 0 && (r.poke || tget false k.refillOk rec_)

/-- A refill is due, and the core's log has room for it: it comes before every other transfer of the copy engine (R249). -/
def State.refillFirst (s : State) (core : CoreId) (e : EngineKind) : Bool :=
  e == .copy && !s.logFull core && (s.core core).chans.any fun r => (s.core core).refillDue r

/-- The wait field of a command at the head of its queue has been met, or is not in force (R155). -/
def State.waitMet (s : State) (core : CoreId) (m : Cmd) : Bool := m.met || ((s.core core).tested m).met

/-- The engine kinds in the arbiter's order (R292). -/
def kindIndex : EngineKind → Nat
  | .matrix => 0
  | .vector => 1
  | .copy => 2
  | .collective => 3

/-- Put a request before the first one of its cycle whose kind comes later in the order. -/
def Reservation.put (r : Reservation) (rank : EngineKind → Nat) : List Reservation → List Reservation
  | [] => [r]
  | q :: l => if q.cycle = r.cycle ∧ rank r.e < rank q.e then r :: q :: l else q :: r.put rank l

/-- A request joins a cluster's queue: after those of earlier cycles, and among those of its own cycle in the order of engine kinds that
starts after the kind that was first in the cycle of requests before (R292). -/
def Cluster.request (q : Cluster) (r : Reservation) : Cluster :=
  let start := match q.group with
    | none => 0
    | some (cycle, start, first) => if cycle = r.cycle then start else (first + 1) % 4
  let rank (e : EngineKind) : Nat := (kindIndex e + 4 - start) % 4
  let first := match q.group with
    | none => kindIndex r.e
    | some (cycle, _, first) => if cycle = r.cycle ∧ (first + 4 - start) % 4 ≤ rank r.e then first else kindIndex r.e
  { q with requests := r.put rank q.requests, group := some (r.cycle, start, first) }

/-- A grant ends the cycle of the requests that wait: a later one is queued behind them (R292). -/
def Cluster.closeGroup (q : Cluster) : Cluster :=
  { q with requests := q.requests.map fun r => { r with cycle := 0 }, group := q.group.map fun g => (0, g.2) }

/-- The head of an engine may start: its wait is met. -/
def State.mayAsk (s : State) (core : CoreId) (e : EngineKind) (m : Cmd) : Bool :=
  !m.started && s.waitMet core m && !s.refillFirst core e

/-- It asks for its reservation, in the cycle of its core, numbered from 1. -/
def State.askHead (s : State) (core : CoreId) (e : EngineKind) (m : Cmd) : State :=
  if m.asked then s
  else (s.modCmd core e m.id fun c => { c with asked := true }).modCluster (clusterOf core) fun q =>
    q.request { cycle := (s.core core).cycle.toNat + 1, core := core, e := e, cmd := m.id, cost := Instr.cost m.instr }

/-- The head of an engine whose wait is met asks for its reservation; with it granted it starts, which acquires the counter value
that met its wait (R234). The last argument is what the start does beyond this. -/
def State.startHead (s : State) (core : CoreId) (e : EngineKind) (m : Cmd) (begin_ : State → Cmd → State) : State :=
  if !s.mayAsk core e m then s
  else if !m.asked then s.askHead core e m
  else if m.granted then
    let t := if (Instr.waitSig m.instr).we then s.acquire m.ctx (s.appliedAt (.core core)) else s
    begin_ ((t.tilesAgain m).modCmd core e m.id fun c => { c with started := true, data := s.startData m }) m
  else s

/-- The signal of a command that has completed (R155, R248): added to the core's own counter, or for CPYX.RS to the target's. It is a
release of the command's accesses (R234): the counter takes the clock of the die. -/
def State.signal (s : State) (m : Cmd) : State :=
  let w := Instr.waitSig m.instr
  let own := coreOf m.ctx
  let inc : BitVec 16 := w.sinc.setWidth 16
  if w.sinc = 0 then s
  else match m.instr with
    | .cpyx _ true .. => (match s.targetLoc m with
      | .bank core =>
        if core = own then s.mbAdd own w.smb.toNat inc
        else
          let t := (s.modCore own fun k => { k with msgCount := k.msgCount + 1 }).modCore core fun k =>
            { k with msgCount := k.msgCount - 1, black := true }
          let clock := mergeClocks (t.appliedAt (.core core)) (t.die (dieOf own)).clock
          State.mbAdd { t with applied := tset [] t.applied (Dest.key (.core core)) clock } core w.smb.toNat inc
      | .gone id => s.dropped m.ctx (outsideCeaddr id w.smb.toNat)
      | .slots => s
      | .tiles => s
      | .glob _ => s)
    | _ => (s.stampAt own).mbAdd own w.smb.toNat inc

/-- A batch without a command. -/
def Batch.without (b : Batch) (id : Nat) : Batch :=
  { b with unread := b.unread.filter (· != id), unlanded := b.unlanded.filter (· != id) }

/-- A command has completed: it leaves its queue and its batch, its flags enter cstat, and its signal follows (R136, R155, R233). -/
def State.completed (s : State) (core : CoreId) (m : Cmd) (flags : Flags) : State :=
  ((s.dropCmd core m).modHeld m.ctx m.launch fun x =>
    { x.raise flags with openBatch := x.openBatch.filter (· != m.id), closed := x.closed.map fun b => b.without m.id }).signal m

/-- A write that finds a hold queue full asks for a seal (R117); a full undo region has asked for one before (R115). -/
def State.pressed (s : State) : State := if s.dies.any (fun d => decide (4096 ≤ d.2.hold.length)) then s.requestSeal true else s

/-- A command keeps the progress it has made. -/
def State.keepCmd (s : State) (core : CoreId) (m : Cmd) : State := s.modCmd core (Instr.engine m.instr) m.id fun _ => m

/-- What a started command of the matrix, vector or copy engine does to its end, or as far as it can. -/
def State.finishCmd (s : State) (core : CoreId) (m : Cmd) : State :=
  if Instr.byRows m.instr then
    if m.readDone then (match s.copyWrite m m.data with
      | some (t, f) => t.completed core m (m.flags ||| f)
      | none => s.pressed)
    else
      let w := State.runRows (m.rows - m.row) s m
      if w.2.row = m.rows then w.1.completed core w.2 w.2.flags else (w.1.keepCmd core w.2).pressed
  else match s.runCmd m with
    | some (t, f) => t.completed core m f
    | none => s.pressed

/-- A started command moves on by one row, but for its last (R228, R247): other agents may act between its rows. -/
def State.nextRow (s : State) (core : CoreId) (m : Cmd) : State :=
  if !Instr.byRows m.instr || m.readDone || m.rows ≤ m.row + 1 then s
  else match s.rowStep m with
    | some (t, m') => t.keepCmd core m'
    | none => s.pressed

/-- The target of a CPYX when it is another core that is pre-empted by priority and holds nothing of the command's launch now. -/
def State.awayTarget (s : State) (m : Cmd) : Option CoreId :=
  match m.instr with
  | .cpyx .. => (match s.targetLoc m with
    | .bank core => if core != coreOf m.ctx && s.waitsAt core m.launch then some core else none
    | .slots => none
    | .tiles => none
    | .glob _ => none
    | .gone _ => none)
  | _ => none

/-- Do something with the saved image of a core in its place: what a command reads, writes or signals there is applied as though after
the restore (R289). -/
def State.onImage (s : State) (core : Option CoreId) (f : State → State) : State :=
  match core with
  | none => f s
  | some c => match s.images c with
    | [] => f s
    | (k, xs) :: rest =>
      let t := f (s.setCore c k)
      (ctxsOf c).foldl (fun u x => u.setCtx x (s.ctx x)) ({ t with saved := tset [] t.saved c ((t.core c, xs) :: rest) }.setCore c (s.core c))

/-- A started command of the matrix, vector or copy engine runs, to its end or by a row; nothing happens while its accesses are held,
or while a refill comes first. -/
def State.runHead (s : State) (core : CoreId) (m : Cmd) (f : State → State) : State :=
  if !m.started || s.engineHeld m || s.refillFirst core (Instr.engine m.instr) then s else s.onImage (s.awayTarget m) f

/-- It completes. -/
def State.finishHead (s : State) (core : CoreId) (m : Cmd) : State := s.runHead core m fun t => t.finishCmd core m

/-! ### Grants, batches, the static copy schedule -/

/-- BATCH_RELEASED: every source read of a closed batch's commands has been performed (R253). -/
def execBatchReleased (ctx : CtxId) (num : Nat) (s : State) : Out :=
  let core := coreOf ctx
  let x := s.ctx ctx
  match x.closed.find? fun b => b.num.toNat == num with
  | none => .next s
  | some b => match b.unread with
    | [id] => (match (s.core core).copyQ.find? fun m => m.id == id with
      | none => .next s
      | some m =>
        if m.readDone then .next s
        else .next (s.runHead core m fun u =>
          let w := u.copyReads m
          let t := w.1.keepCmd core w.2
          if w.2.readDone then t.modCtx ctx fun y =>
              { y with closed := y.closed.map fun q => { q with unread := q.unread.filter (· != id) } }
          else t))
    | _ => .next s

/-- The instruction that a schedule entry encodes; TGT stands for the g register of a CPYX (R250). -/
def SchedEntry.instr (e : SchedEntry) : Option Instr :=
  let word0 := if e.fn = 0 then 3 + 4 * 0xC0 else if e.fn = 1 then 3 + 4 * 0xC0 + 2 ^ 25 else 3 + 4 * 0xB3
  if e.fn = 3 then none
  else match decode [word0, e.w1.toNat, e.w2.toNat, e.w3.toNat] with
    | .ok r => some r.1
    | .error _ => none

/-- The next entry of a schedule, when the stage counter has reached its stage (R251). -/
def CopySched.next (q : CopySched) (stage : BitVec 32) : Option SchedEntry :=
  q.entries[q.fired]?.filter fun e => decide ((stage - e.stage).toNat < 2 ^ 31)

/-- A launch binds a context of a core. -/
def State.onCore (s : State) (core : CoreId) (launch : Nat) : Bool :=
  (ctxsOf core).any fun c => (s.ctx c).row.v && (s.ctx c).row.launch.toNat == launch

/-- Positions of the set bits among the low n bits. -/
def bitsSet (n v : Nat) : List Nat := (span 0 n).filter fun i => v.testBit i

/-- The cores of a launch, in tile order. -/
def LaunchRec.coreIds (r : LaunchRec) : List CoreId :=
  ((span r.y0 (r.hm1 + 1)).map fun y => ((span r.x0 (r.wm1 + 1)).map fun x =>
    (bitsSet 32 r.cores.toNat).map fun c => mkId x y c 0).flatten).flatten

/-- The contexts of a launch by tile number (R69). -/
def LaunchRec.ctxIds (r : LaunchRec) : List CtxId :=
  (r.coreIds.map fun core => (bitsSet 16 r.ctxs.toNat).map (ctxOf core)).flatten

/-- A unit of a launch has started on a core. -/
def Launch.begunOn (q : Launch) (core : CoreId) : Bool :=
  let cs := q.record.ctxIds
  (cs.zip (span 0 cs.length)).any fun e => coreOf e.1 == core && 0 < tget 0 q.ran e.2

/-- A schedule of a core whose next entry has to fire: a unit of its launch has started there, and the stage counter has reached its
stage (R251). -/
def State.scheduleDue (s : State) (core : CoreId) (q : CopySched) : Bool :=
  s.onCore core q.launch && (q.next (s.core core).stage).isSome && (s.launch q.launch).any fun (l : Launch) => l.begunOn core

/-- SCHEDULE_ENTRY_FIRE: the next entry of a launch's schedule fires when the stage counter has reached its stage; it is checked as though its context had
issued it then (R251, R384). -/
def execScheduleEntryFire (core : CoreId) (s : State) : Out :=
  let k := s.core core
  match k.sched.find? (s.scheduleDue core) with
  | none => .next s
  | some q => match q.next k.stage with
    | none => .next s
    | some e =>
      let c := ctxOf core e.k.toNat
      let fired := s.modCore core fun k =>
        { k with sched := k.sched.map fun r => if r.launch = q.launch then { r with fired := r.fired + 1 } else r }
      let notice (cause : BitVec 8) : Out :=
        .next (fired.notice ((s.launch q.launch).elim 0 fun (l : Launch) => l.job) 3 cause core (BitVec.ofNat 64 q.fired))
      match e.instr with
      | none => notice causeIllegal
      | some i =>
        let arg := e.tgt.setWidth 64
        match s.cmdRefusal c i arg true with
        | some (cause, _) => notice cause
        | none =>
          let m := s.command c i arg true true
          .next ((({ fired with nextId := s.nextId + 1 }.modCore core fun k => { k with firedQ := k.firedQ ++ [m] }).testHeads core).modCtx c
            (·.charge m.units))

end Sys2Proof.Machine
end

