-- ==== Sys2Proof/Machine/Squads.lean ====
section
/-! DEFINITION. Squad instructions (R207 to R210): each is sent to the directory of a die and completes when that directory
answers, at once or when the awaited generation completes. -/

namespace Sys2Proof.Machine

/-- Send a squad instruction and wait for the answer. -/
def State.askSquad (s : State) (i : Instr) (die : Nat) (h : BitVec 16) (r : SquadReq) : Out :=
  .next (s.ask i (.directory die) (.squad h r))

/-- ceaddr of a SQUAD refusal (R379). -/
def squadCeaddr (h : BitVec 16) (reason : Nat) (gen : BitVec 16) : Word :=
  BitVec.ofNat 64 (h.toNat + 2 ^ 16 * reason + if reason = 5 then 2 ^ 32 * gen.toNat else 0)

/-- A squad instruction on the handle in h[a]; a die that does not exist holds no squad (R379). -/
def State.onSquad (s : State) (i : Instr) (a : HReg) (r : SquadReq) : Out :=
  let h := s.me.readH a
  let die := h.toNat / 2 ^ 10
  if die < 36 then s.askSquad i die h r else s.refuse causeSquad (squadCeaddr h 1 0)

/-- SQOPEN: to the die that the name selects. -/
def execSqopen (gang : Bool) (d : HReg) (a : GReg) (n : BitVec 24) (b : GReg) (s : State) : Out :=
  let name := s.me.readG a
  s.askSquad (.sqopen gang d a n b) (name.toNat % 36) 0xFFFF (.open name n gang)

def execSqjoin (a : HReg) (b : GReg) (s : State) : Out :=
  s.onSquad (.sqjoin a b) a (.join ((s.me.readG b).setWidth 24))
def execSqleave (a : HReg) (s : State) : Out := s.onSquad (.sqleave a) a .leave
def execSqclose (d : GReg) (a : HReg) (s : State) : Out := s.onSquad (.sqclose d a) a .close
def execSqbar (a : HReg) (s : State) : Out := s.onSquad (.sqbar a) a .bar
def execSqarrive (d : GReg) (a : HReg) (s : State) : Out := s.onSquad (.sqarrive d a) a .arrive
def execSqwait (a : HReg) (s : State) : Out := s.onSquad (.sqwait a) a .wait
def execSqvote (op : VoteOp) (d : GReg) (a : HReg) (b : GReg) (s : State) : Out :=
  s.onSquad (.sqvote op d a b) a (.vote op ((s.me.readG b).getLsbD 0))
def execSqred (op : RedOp) (ty : ElemTy) (d : GReg) (a : HReg) (b : GReg) (s : State) : Out :=
  s.onSquad (.sqred op ty d a b) a (.red op ty (s.me.readG b))
def execSqscan (op : RedOp) (ty : ElemTy) (d : GReg) (a : HReg) (b : GReg) (s : State) : Out :=
  s.onSquad (.sqscan op ty d a b) a (.scan op ty (s.me.readG b))
def execSqinfo (self : Bool) (d : GReg) (a : HReg) (s : State) : Out := s.onSquad (.sqinfo self d a) a (.info self)

/-! ### What an answer does to its context -/

/-- The handle that a squad instruction named. -/
def Ctx.handleOf (x : Ctx) : Instr → BitVec 16
  | .sqjoin a _ | .sqleave a | .sqclose _ a | .sqbar a | .sqarrive _ a | .sqwait a | .sqvote _ _ a _ | .sqred _ _ _ a _
  | .sqscan _ _ _ a _ | .sqinfo _ _ a => x.readH a
  | _ => 0xFFFF

/-- The registers that the answer to a squad instruction writes. -/
def squadLand (i : Instr) (value status : Word) (x : Ctx) : Ctx :=
  match i with
  | .sqopen _ d _ _ b => (x.writeH d (value.setWidth 16)).writeG b status
  | .sqclose d _ | .sqarrive d _ | .sqvote _ d _ _ | .sqred _ _ d _ _ | .sqscan _ _ d _ _ | .sqinfo _ d _ => x.writeG d value
  | _ => x

/-- The instruction observes the completion of a generation (R88). -/
def observesGeneration : Instr → Bool
  | .sqbar _ | .sqwait _ | .sqvote .. | .sqred .. | .sqscan .. => true
  | _ => false

/-- The instruction is a squad instruction. -/
def isSquad : Instr → Bool
  | .sqopen .. | .sqjoin .. | .sqleave _ | .sqclose .. | .sqbar _ | .sqarrive .. | .sqwait _ | .sqvote .. | .sqred ..
  | .sqscan .. | .sqinfo .. => true
  | _ => false

/-- The answer lands on the current context (R208, R379, R350). -/
def State.squadAnswered (s : State) (i : Instr) (value status : Word) (flags : Flags) (reason : Nat) (performed : Bool)
    (gen : BitVec 16) : State :=
  if reason = 0 then s.performed 8 flags (squadLand i value status)
  else s.trap causeSquad (squadCeaddr (s.me.handleOf i) reason gen) (if performed then s.me.pc + 8 else s.me.pc)

end Sys2Proof.Machine
end

