-- ==== Sys2Proof/Machine/Pipe.lean ====
section
/-! DEFINITION. The parts of a core's counterflow pipe (R34 to R62, R349 to R352): sidings, the registers an instruction reads and
writes, tags, the kill of a window of tags, the freeing of tags, and what becomes of an instruction once the tape has performed it or
its reply has come. -/

namespace Sys2Proof.Machine

/-! ### Sidings and charges (R40, R290) -/

/-- The siding that serves an instruction (R40); none for those performed at the tape and for NOP. Loads that clear a full/empty
bit are performed at the tape. -/
def Instr.siding : Instr → Option Siding
  | .add .. | .sub .. | .iand .. | .ior .. | .ixor .. | .shl .. | .shr .. | .sra .. | .rol .. | .min .. | .max .. | .minn ..
  | .maxn .. | .slt .. | .sltn .. | .seq .. | .sne .. | .addw .. | .subw .. | .sel .. | .clz .. | .ctz .. | .popc .. | .abs ..
  | .sext .. | .zext .. | .addi .. | .andi .. | .ori .. | .xori .. | .shli .. | .shri .. | .srai .. | .roli .. | .slti ..
  | .li .. | .bfx .. | .bfi .. | .lil .. | .lpc .. | .br .. | .brl .. | .beq .. | .bne .. | .blt .. | .bge .. | .bltn ..
  | .bgen .. | .jr .. | .jrl .. | .loop .. | .loopi .. | .feq .. | .flt .. | .fle .. | .fmin .. | .fmax .. | .fclass ..
  | .idrd .. => some .alu
  | .mul .. | .mulh .. | .mulhn .. | .mulw .. | .mad .. | .fadd .. | .fsub .. | .fmul .. | .ffma .. | .fcvti .. | .fcvtf .. =>
    some .mul
  | .div .. | .divn .. | .rem .. | .remn .. => some .idiv
  | .fdiv .. | .fsqrt .. => some .fdiv
  | .vadd .. | .vsub .. | .vmul .. | .vfma .. | .vmin .. | .vmax .. | .vabs .. | .vneg .. | .vand .. | .vor .. | .vxor ..
  | .vshl .. | .vshr .. | .vsra .. | .vcmp .. | .vsel .. | .vbcast .. | .vext .. | .vins .. | .vshuf .. | .vred .. | .vscan ..
  | .vcmprs .. | .vrcp .. | .vrsq .. | .vex2 .. | .vlg2 .. | .kand .. | .kor .. | .kxor .. | .knot .. | .kmov .. | .kpop ..
  | .kset .. | .vcvt .. | .vlog .. | .vexp .. => some .vec
  | .vldx .. => some .ls
  | i => match Instr.ref i with
    | some r => if r.kind = .load ∧ r.m.fe ≠ .second then some .ls else none
    | none => none


/-- The stage at which an instruction launches into its siding (R40). -/
def Siding.launchAt : Siding → Nat
  | .alu => 2
  | .mul => 2
  | .idiv => 3
  | .fdiv => 3
  | .vec => 3
  | .ls => 4

/-- The stage at which a siding's output re-enters; stage 8 is the C8 inlet (R40). -/
def Siding.reentry : Siding → Nat
  | .alu => 3
  | .mul => 5
  | .idiv => 8
  | .fdiv => 8
  | .vec => 6
  | .ls => 7

/-- Serialising instructions (R39). -/
def Instr.serial : Instr → Bool
  | .csrrd .. | .csrwr .. | .csrset .. | .csrclr .. | .segld .. | .ctxsave .. | .ctxload .. | .rte => true
  | _ => false

/-- Branches, jumps and loops: the instructions that cast a branch shadow (R54, R64). -/
def Instr.isBranch : Instr → Bool
  | .br .. | .brl .. | .beq .. | .bne .. | .blt .. | .bge .. | .bltn .. | .bgen .. | .jr .. | .jrl .. | .loop .. | .loopi .. => true
  | _ => false

/-! ### Registers by key (R35, R37) -/

def gk (r : GReg) : Nat := r.val
def vk (r : VReg) : Nat := 32 + r.val
def kk (r : KReg) : Nat := 40 + r.val
def hk (r : HReg) : Nat := 48 + r.val

/-- The register of a mask field. -/
def maskKey : Option KReg → List Nat
  | some m => [kk m]
  | none => []

/-- The destination of a masked vector instruction, whose inactive lanes keep their old values, is one of its sources (R214). -/
def keptKey (m : Option KReg) (d : VReg) : List Nat :=
  match m with
  | some _ => [vk d]
  | none => []

/-- The registers of an address. -/
def addrKeys (m : MemAddr) : List Nat := [gk m.a, gk m.c]

/-- The registers in which an access lands or from which it stores. -/
def MemRef.keys (r : MemRef) : List Nat :=
  match r.how with
  | .sx _ => [r.d]
  | .zx _ => [r.d]
  | .pair => [r.d, gk (pairOf (Fin.ofNat 32 r.d))]
  | .vec => [32 + r.d]

/-- The registers that a memory instruction reads and writes. -/
def MemRef.regs (r : MemRef) : List Nat × List Nat :=
  match r.kind with
  | .load => (addrKeys r.m, r.keys)
  | .store => (addrKeys r.m ++ r.keys, [])
  | .lr => (addrKeys r.m, r.keys)
  | .sc => (addrKeys r.m ++ [gk r.b], r.keys)
  | .amo op _ => (addrKeys r.m ++ (if op = .cas then r.keys else []) ++ [gk r.b], r.keys)

/-- The registers that an instruction reads and those that it writes (R37, R214). -/
def Instr.regs : Instr → List Nat × List Nat
  | .add d a b | .sub d a b | .iand d a b | .ior d a b | .ixor d a b | .shl d a b | .shr d a b | .sra d a b
  | .rol d a b | .min d a b | .max d a b | .minn d a b | .maxn d a b | .slt d a b | .sltn d a b | .seq d a b
  | .sne d a b | .addw d a b | .subw d a b | .mul d a b | .mulh d a b | .mulhn d a b | .mulw d a b | .div d a b
  | .divn d a b | .rem d a b | .remn d a b | .fadd d a b | .fsub d a b | .fmul d a b | .fmin d a b | .fmax d a b
  | .feq d a b | .flt d a b | .fle d a b | .fdiv d a b => ([gk a, gk b], [gk d])
  | .sel d a b c | .mad d a b c | .ffma d a b c => ([gk a, gk b, gk c], [gk d])
  | .clz d a | .ctz d a | .popc d a | .abs d a | .sext _ d a | .zext _ d a | .addi d a _ | .andi d a _ | .ori d a _
  | .xori d a _ | .shli d a _ | .shri d a _ | .srai d a _ | .roli d a _ | .slti d a _ | .bfx d a _ _ | .fcvti _ d a
  | .fcvtf _ d a | .fclass d a | .fsqrt d a | .jrl d a | .pclaim d a _ _ | .qclaim d a _ _ | .csrwr d _ a
  | .csrset d _ a | .csrclr d _ a => ([gk a], [gk d])
  | .li d _ | .lil d _ | .lpc d _ | .brl d _ | .mbrd d _ | .splitrd d | .trd d _ _ | .bclose _ d | .cstage d _
  | .csrrd d _ | .segrd d _ _ | .idrd d => ([], [gk d])
  | .bfi d a _ _ => ([gk d, gk a], [gk d])
  | .beq a b _ | .bne a b _ | .blt a b _ | .bge a b _ | .bltn a b _ | .bgen a b _ | .segld _ a b => ([gk a, gk b], [])
  | .jr a | .loop a _ | .mbincRemote _ _ a | .tdef _ a _ | .tset _ _ a | .prel a _ _ | .qrel a _ _
  | .mmag _ _ _ _ _ a _ | .cpyx _ _ _ _ a _ | .ctxsave a | .ctxload a => ([gk a], [])
  | .chsend d a | .sendn d a => ([gk d, gk (pairOf d), gk a], [])
  | .chrecv d a => ([gk a], [gk d, gk (pairOf d)])
  | .recvn d a b => ([gk a, gk b], [gk d, gk (pairOf d)])
  | .sqopen _ d a _ b => ([gk a], [hk d, gk b])
  | .sqjoin a b => ([hk a, gk b], [])
  | .sqleave a | .sqbar a | .sqwait a => ([hk a], [])
  | .sqclose d a | .sqarrive d a | .sqinfo _ d a => ([hk a], [gk d])
  | .sqvote _ d a b | .sqred _ _ d a b | .sqscan _ _ d a b => ([hk a, gk b], [gk d])
  | .vadd _ d a b m | .vsub _ d a b m | .vmul _ d a b m | .vmin _ d a b m | .vmax _ d a b m | .vand _ d a b m
  | .vor _ d a b m | .vxor _ d a b m | .vshl _ d a b m | .vshr _ d a b m | .vsra _ d a b m | .vshuf _ d a b m
    => ([vk a, vk b] ++ keptKey m d ++ maskKey m, [vk d])
  | .vfma _ d a b c m => ([vk a, vk b, vk c] ++ keptKey m d ++ maskKey m, [vk d])
  | .vabs _ d a m | .vneg _ d a m | .vscan _ _ d a m | .vrcp _ d a m | .vrsq _ d a m | .vex2 _ d a m | .vlg2 _ d a m
  | .vcvt _ _ d a m => ([vk a] ++ keptKey m d ++ maskKey m, [vk d])
  | .vcmp _ _ d a b m => ([vk a, vk b] ++ maskKey m, [kk d])
  | .vsel _ d a b c => ([vk a, vk b, kk c], [vk d])
  | .vbcast _ d a m => ([gk a] ++ keptKey m d ++ maskKey m, [vk d])
  | .vext _ d a b => ([vk a, gk b], [gk d])
  | .vins _ d a b => ([vk d, gk a, gk b], [vk d])
  | .vred _ _ d a m => ([vk a] ++ maskKey m, [gk d])
  | .vcmprs _ d a m => ([vk a] ++ maskKey m, [vk d])
  | .vldx d b m _ => ([vk b] ++ addrKeys m, [vk d])
  | .vstx d b m _ => ([vk d, vk b] ++ addrKeys m, [])
  | .kand d a b | .kor d a b | .kxor d a b => ([kk a, kk b], [kk d])
  | .knot d a => ([kk a], [kk d])
  | .kpop d a => ([kk a], [gk d])
  | .kset d a => ([gk a], [kk d])
  | .vlog _ d a b m | .vexp _ d a b m => ([vk a, gk b] ++ keptKey m d ++ maskKey m, [vk d])
  | .creduce _ h root _ _ _ | .cbcast h root _ _ _ => ([hk h, gk root], [])
  | .callred _ h _ _ _ | .cgather h _ _ _ => ([hk h], [])
  | .kmov (.kg d a) => ([gk a], [kk d])
  | .kmov (.gk d a) => ([kk a], [gk d])
  | .kmov (.kk d a) => ([kk a], [kk d])
  | i => match Instr.ref i with
    | some r => r.regs
    | none => ([], [])

/-- The value of a register. -/
def Ctx.readKey (x : Ctx) (r : Nat) : VWord :=
  if r < 32 then (x.readG (Fin.ofNat 32 r)).setWidth 512
  else if r < 40 then x.readV (Fin.ofNat 8 (r - 32))
  else if r < 48 then (x.readK (Fin.ofNat 4 (r - 40))).setWidth 512
  else (x.readH (Fin.ofNat 8 (r - 48))).setWidth 512

/-- Write a register; g0 discards. -/
def Ctx.writeKey (x : Ctx) (r : Nat) (v : VWord) : Ctx :=
  if r < 32 then x.writeG (Fin.ofNat 32 r) (v.setWidth 64)
  else if r < 40 then x.writeV (Fin.ofNat 8 (r - 32)) v
  else if r < 48 then x.writeK (Fin.ofNat 4 (r - 40)) (v.setWidth 64)
  else x.writeH (Fin.ofNat 8 (r - 48)) (v.setWidth 16)

/-! ### Packets -/

/-- The registers that form the address of a memory instruction (R386). -/
def Instr.addrRegs (i : Instr) : List Nat :=
  match i with
  | .vldx _ b m _ => vk b :: addrKeys m
  | .vstx _ b m _ => vk b :: addrKeys m
  | i => match Instr.ref i with
    | some r => addrKeys r.m
    | none => []

/-- The instruction accesses memory through the load/store siding's check. -/
def Instr.access (i : Instr) : Bool := !(Instr.addrRegs i).isEmpty

/-- The registers that form the address which the load/store siding checks: that of a memory instruction, and the S offsets of TDEF,
CTXSAVE and CTXLOAD (R367, R386). -/
def Instr.checkRegs (i : Instr) : List Nat :=
  match i with
  | .tdef _ a _ => [gk a]
  | .ctxsave a => [gk a]
  | .ctxload a => [gk a]
  | i => Instr.addrRegs i

/-- The stage at which an instruction launches: into its siding, or, for one that the tape performs, into the C4 check (R40, R367,
R386). -/
def Instr.launchAt (i : Instr) : Option Nat :=
  match Instr.siding i with
  | some w => some (Siding.launchAt w)
  | none => if (Instr.checkRegs i).isEmpty then none else some 4

/-- Performed before its flags are known: an enabled exception follows its performance (R350). -/
def Instr.flagsLate : Instr → Bool
  | .sqred .. => true
  | .sqscan .. => true
  | i => match Instr.ref i with
    | some r => r.kind == .amo .fadd true || r.kind == .amo .fadd false
    | none => false

/-- Instructions with which the unit or the run of a context ends: what is older has come to its end, what is younger never was. -/
def Instr.ends : Instr → Bool
  | .tend => true
  | .halt => true
  | _ => false

/-- The context replaces what the pipe knows of it: its registers and pc are those that the instruction leaves (R182, R186). -/
def Instr.replaces : Instr → Bool
  | .ctxload _ => true
  | .rte => true
  | _ => false

/-- The instruction's result comes from a bank of the core, 3 cycles after its performance (R60, R188). -/
def Instr.banked : Instr → Bool
  | .chrecv .. => true
  | i => match Instr.ref i with
    | some r => r.kind != .store
    | none => false

/-- A context stays out of the rotation for its fetch, a page of its code, or the rest of a lap (R53, R175, R394). -/
def Ctx.aside (x : Ctx) : Bool :=
  match x.run with
  | .waiting .lap => true
  | .waiting .fetch => true
  | .waiting (.page _) => true
  | .waiting _ => false
  | .idle => false
  | .active => false
  | .reply _ => false
  | .halted => false
  | .killed => false

/-- The run state of a context of which the tape has performed an instruction. -/
def Ctx.runOn (x : Ctx) : Run := if x.aside then x.run else .active

/-- The clock of what a context's plain loads have read before a packet of its: that of the loads which have retired, and of the older
ones in the pipe (R266). -/
def State.seenBy (s : State) (c : CtxId) (q : Packet) : SMap Nat :=
  let p := (s.core (coreOf c)).pipe
  (((p.window (kOf c)).takeWhile fun t => t != q.tag).filterMap fun t => p.packets.find? fun z => z.tag == t).foldl
    (fun m z => mergeClocks m z.seen) (s.ctx c).seen

/-- The state in which an instruction packet computes: its context with the garnered operands, at its address, with no flag. -/
def State.packetState (s : State) (c : CtxId) (q : Packet) (run : Run) : State :=
  let late := Instr.flagsLate q.instr
  let seen := s.seenBy c q
  { s.modCtx c fun x => q.srcs.foldl (fun y e => match e.value with
      | some v => y.writeKey e.reg v
      | none => y) { x with pc := q.addr, ir := q.words, run := run, seen := seen, cstat := if Instr.serial q.instr || Instr.ends q.instr then x.cstat else 0,
                            cfemask := if late then 0 else x.cfemask, nlt := if late then false else x.nlt } with cur := c }

/-- The values of the destinations of a packet in a context. -/
def Packet.vals (q : Packet) (y : Ctx) : SMap VWord := q.dsts.map fun r => (r, y.readKey r)

/-- The result packet of a packet from the context it has computed. -/
def Packet.result (q : Packet) (y : Ctx) (since : Nat) : Result :=
  { ctx := q.ctx, tag := q.tag, vals := q.vals y, flags := if Instr.serial q.instr then 0 else y.cstat, mark := none, since := since }

/-- The refusal of a packet from the context that has trapped. -/
def Ctx.refusal (y : Ctx) : BitVec 8 × Word × Word := (y.ctrap, y.ceaddr, y.cepc ++ 0#2)

/-- The result packet of a refusal: its mark and no value (R385). -/
def Packet.shell (q : Packet) (mark : BitVec 8 × Word × Word) : Result :=
  { ctx := q.ctx, tag := q.tag, vals := [], flags := 0, mark := some mark, since := 0 }

/-- That of a context that has trapped. -/
def Packet.refused (q : Packet) (y : Ctx) : Result := q.shell y.refusal

/-- The instruction has run to its end: no trap, no wait, the pc at the next instruction or, for a branch, at its target. -/
def Packet.ran (q : Packet) (x y : Ctx) : Bool :=
  y.run == .active && (y.hl == x.hl || Instr.replaces q.instr) &&
    (Instr.isBranch q.instr || Instr.replaces q.instr || y.pc == q.addr + BitVec.ofNat 64 (4 * q.words.length))

/-- The instruction has trapped. -/
def Packet.trapped (q : Packet) (x y : Ctx) : Bool :=
  !Instr.ends q.instr && ((y.hl != x.hl && !Instr.replaces q.instr) || (y.run == .halted && x.run != .halted))

/-- Every source of the packet has its value. -/
def Packet.garnered (q : Packet) : Bool := q.srcs.all fun e => e.value.isSome

/-- The operands that form the address of the packet's access are present. -/
def Packet.addressed (q : Packet) : Bool := q.srcs.all fun e => e.value.isSome || !(Instr.checkRegs q.instr).contains e.reg

/-! ### Tags (R36 to R38) -/

/-- Change the pipe of a core. -/
def State.modPipe (s : State) (core : CoreId) (f : Pipe → Pipe) : State := s.modCore core fun k => { k with pipe := f k.pipe }

/-- The present cycle of a core. -/
def State.now (s : State) (core : CoreId) : Nat := (s.core core).cycle.toNat

/-- An instruction of a context that issues whole, with no other in its window, takes the next tag and frees it with its end (R36). -/
def State.takeTag (s : State) (c : CtxId) : State :=
  s.modPipe (coreOf c) fun p => { p with nextSeq := tset 0 p.nextSeq (kOf c) ((tget 0 p.nextSeq (kOf c) + 1) % 16) }

/-- The packet of a tag. -/
def Pipe.packet (p : Pipe) (tag : Nat) : Option Packet := p.packets.find? fun q => q.tag == tag

/-- Change the packet of a tag where it stands. -/
def Pipe.modPacket (p : Pipe) (tag : Nat) (f : Packet → Packet) : Pipe :=
  { p with instrs := p.instrs.map fun e => (e.1, if e.2.tag == tag then f e.2 else e.2),
           retire := p.retire.map fun q => if q.tag == tag then f q else q }

/-- The oldest packet of a context that has not retired. -/
def Pipe.oldest (p : Pipe) (k : Nat) : Option Packet :=
  ((p.window k).find? fun t => !p.retired.contains t).bind p.packet

/-- The oldest packet of a context when it has climbed to the tape. -/
def Pipe.atTape (p : Pipe) (k : Nat) : Option Packet :=
  (p.oldest k).bind fun q => if p.retire.any fun r => r.tag == q.tag then some q else none

/-- The result of a tag, wherever it is. -/
def Pipe.resultOf (p : Pipe) (tag : Nat) : Option Result :=
  (p.landing ++ p.results.map Prod.snd ++ p.returns.map Prod.snd ++ p.inject.map (fun e => e.result)).find? fun r => r.tag == tag

/-- The values and flags of a result in a context. -/
def Ctx.land (x : Ctx) (r : Result) : Ctx := (r.vals.foldl (fun (y : Ctx) e => y.writeKey e.1 e.2) x).raise r.flags

/-! ### The kill wave (R351, R352) -/

/-- Bit k of a map of contexts. -/
def ctxBit (k : Nat) : BitVec 16 := BitVec.ofNat 16 (2 ^ k)

/-- Every item of the tags in `gone` is invalid; siding entries at work are marked dead. The context issues again only when it holds no
allocated tag (R353): the scoreboard no longer names the older writers of the killed destinations. -/
def Pipe.kill (p : Pipe) (k : Nat) (gone : List Nat) : Pipe :=
  let live (t : Nat) : Bool := !gone.contains t
  { p with
    instrs := p.instrs.filter fun e => live e.2.tag, results := p.results.filter fun e => live e.2.tag,
    retire := p.retire.filter fun q => live q.tag, board := p.board.filter fun e => live (e.2 - 1),
    landing := p.landing.filter fun r => live r.tag, tags := tset [] p.tags k ((p.window k).filter live),
    retired := p.retired.filter live, noResult := p.noResult.filter live,
    sidings := p.sidings.map fun e => if live e.result.tag then e else { e with dead := true },
    returns := p.returns.filter fun e => live e.2.tag, inject := p.inject.filter fun e => live e.result.tag,
    window0 := tset 0 p.window0 k 0, shadow := tset 0 p.shadow k 0, fpLap := p.fpLap.filter fun e => e.1 != k,
    fpPending := p.fpPending &&& ~~~(ctxBit k), drain := p.drain ||| ctxBit k }

/-- The run state of a context whose boundary has moved back. -/
def Ctx.runBack (x : Ctx) : Run :=
  match x.run with
  | .idle => .idle
  | .halted => .halted
  | .killed => .killed
  | .active => .active
  | .reply _ => .active
  | .waiting .lap => .waiting .lap
  | .waiting _ => .active

/-- The loop state of a context is that recorded with a packet, and the loop buffer is unpinned (R352). -/
def Ctx.loopOf (x : Ctx) (q : Packet) : Ctx :=
  { x with loopCount := q.loop.1, loopStart := q.loop.2.1, loopEnd := q.loop.2.2, pinned := false, loopBuf := [] }

/-- Kill a packet of a context and every younger one: the loop state is that recorded with the packet (R352), the pc its
address. -/
def State.killFrom (s : State) (c : CtxId) (q : Packet) : State :=
  let k := kOf c
  let s1 := s.modPipe (coreOf c) fun p => p.kill k ((p.window k).dropWhile fun t => t != q.tag)
  s1.modCtx c fun x => { x.loopOf q with pc := q.addr, run := x.runBack, kick := none }

/-- The packet has neither been performed at the tape nor completed (R357). A load that clears a full/empty bit elsewhere, and a squad
instruction that returns at once, have been performed when their answer is on its way; until then they wait (R190). -/
def State.open_ (s : State) (c : CtxId) (q : Packet) : Bool :=
  !q.complete && !q.performed && !((Instr.siding q.instr).isNone && s.net.any fun m => match m.body with
    | .reply of .. => q.asks == some of
    | .answer .. => s.sentBy c m && isSquad q.instr && !observesGeneration q.instr
    | _ => false)

/-- The boundary of a context in the pipe (R357): its oldest packet that is neither performed nor complete. -/
def State.boundary (s : State) (c : CtxId) : Option Packet :=
  let p := (s.core (coreOf c)).pipe
  ((p.window (kOf c)).filterMap p.packet).find? fun q => s.open_ c q || (q.mark.isSome && !q.performed)

/-- Kill everything of a context from its boundary on. -/
def State.killPipe (s : State) (c : CtxId) : State :=
  match s.boundary c with
  | none => s
  | some q => s.killFrom c q

/-- Kill everything of a context, wherever it stands. -/
def State.purgePipe (s : State) (c : CtxId) : State :=
  if s.windowEmpty c then s else s.modPipe (coreOf c) fun p => p.kill (kOf c) (p.window (kOf c))

/-- The packet at which a context waits at the tape, everything older having come to its end. -/
def State.waitsAtTape (s : State) (c : CtxId) : Option Packet :=
  let p := (s.core (coreOf c)).pipe
  (p.atTape (kOf c)).filter fun q =>
    s.open_ c q && q.mark.isNone && (p.window (kOf c)).head? == some q.tag && !(s.ctx c).aside &&
      match (s.ctx c).run with
      | .waiting _ => true
      | .reply _ => true
      | .idle => false
      | .active => false
      | .halted => false
      | .killed => false

/-! ### Freeing (R38) -/

/-- A tag whose instruction has retired needs nothing more: its result, if it has one, is in the landing buffer. -/
def Pipe.freeable (p : Pipe) (tag : Nat) : Bool :=
  p.retired.contains tag && (p.noResult.contains tag || p.landing.any fun r => r.tag == tag)

/-- Free the oldest tag of a context, if two have not been freed in this cycle: its landing entry goes into the register store and its
flags into cstat. -/
def State.freeTag (s : State) (c : CtxId) : State :=
  let k := kOf c
  let p := (s.core (coreOf c)).pipe
  match p.window k with
  | [] => s
  | t :: _ =>
    if !p.freeable t || 2 ≤ tget 0 p.freedNow k then s
    else
      let s1 := match p.landing.find? fun r => r.tag == t with
        | none => s
        | some r => s.modCtx c fun x => x.land r
      s1.modPipe (coreOf c) fun p =>
        { p with tags := tset [] p.tags k ((p.window k).filter fun u => u != t),
                 landing := p.landing.filter fun r => r.tag != t, board := p.board.filter fun e => e.2 != t + 1,
                 retired := p.retired.filter fun u => u != t, noResult := p.noResult.filter fun u => u != t,
                 freedNow := tset 0 p.freedNow k (tget 0 p.freedNow k + 1) }

/-- The results of the instructions before a packet that are still on their way land at once: with the packet the context's unit or its
run ends. -/
def State.landBefore (s : State) (c : CtxId) (q : Packet) : State :=
  let p := (s.core (coreOf c)).pipe
  s.modCtx c fun x => ((p.window (kOf c)).takeWhile fun t => t != q.tag).foldl (fun y t => match p.resultOf t with
    | none => y
    | some r => y.land r) x

/-! ### Results of the tape and of replies (R48, R60, R188) -/

/-- A result has nothing to inject: no destination but g0 and no flag (R297). -/
def Result.bare (r : Result) : Bool := (r.vals.filter fun e => e.1 != 0).isEmpty && r.flags == 0

/-- The result of an instruction that has been performed at the tape: known at once, when the instruction completes and the result
follows in the next cycle; or injected in cycle `due`, with which the instruction completes. -/
def Pipe.give (p : Pipe) (lap : Bool) (now : Nat) (q : Packet) (r : Result) (due : Option Nat) : Pipe :=
  match due with
  | some d => { p with inject := p.inject ++ [{ due := d, issued := q.issued, bare := r.bare, result := r }] }
  | none =>
    let p1 := p.modPacket q.tag fun z => { z with complete := true }
    if r.bare then { p1 with noResult := p1.noResult ++ [q.tag] }
    else if lap then { p1 with returns := p1.returns ++ [(now + 1, { r with since := now + 2 })] }
    else { p1 with inject := p1.inject ++ [{ due := now + 1, issued := q.issued, bare := false, result := r }] }

/-- The context after its packet was performed at the tape: registers, flags and pc are as they were, for the result packet and
the issue have them. -/
def Ctx.afterTape (x y : Ctx) (i : Instr) : Ctx :=
  if Instr.replaces i then { y with kick := none }
  else
    { y with g := x.g, v := x.v, k := x.k, h := x.h, cstat := if Instr.serial i then y.cstat else x.cstat, pc := x.pc, ir := x.ir,
             cfemask := if Instr.flagsLate i then x.cfemask else y.cfemask, nlt := if Instr.flagsLate i then x.nlt else y.nlt,
             run := x.runOn, kick := none }

/-- The mark of an instruction that has been performed and raises an enabled exception: FP_EXCEPTION at the address after it (R350,
R353, R358). -/
def Packet.late (q : Packet) (x y : Ctx) : Option (BitVec 8 × Word × Word) :=
  if Instr.flagsLate q.instr && y.cstat &&& x.enabled != 0 then
    some (causeFp, (y.cstat).setWidth 64, q.addr + BitVec.ofNat 64 (4 * q.words.length))
  else none

/-- A packet at the tape has been performed, in the state `t`, by the context as `t` has it. -/
def State.tapeDone (s t : State) (c : CtxId) (q : Packet) (due : Option Nat) : State :=
  let x := s.ctx c
  let y := t.ctx c
  let now := s.now (coreOf c)
  ({ t with cur := s.cur }.modCtx c fun _ => x.afterTape y q.instr).modPipe (coreOf c) fun p =>
    (p.modPacket q.tag fun z => { z with performed := true, asks := none, mark := q.late x y }).give x.lap now q (q.result y (now + 1)) due

/-- A packet at the tape is refused: it is marked, and complete (R349). Nothing that it has recorded stays. -/
def State.tapeRefused (s : State) (c : CtxId) (q : Packet) (y : Ctx) : State :=
  ((s.withdraw c).modCtx c fun x => { x with run := x.runOn, kick := none }).modPipe (coreOf c) fun p =>
    p.modPacket q.tag fun z => { z with complete := true, asks := none, mark := some y.refusal }

/-- The output of a load whose value, or refusal, has come from outside its siding: it goes to the C8 inlet, or in fixed lap is
delivered 8 cycles after it would be there (R40, R41). -/
def State.loadBack (s : State) (c : CtxId) (q : Packet) (r : Result) : State :=
  let core := coreOf c
  let now := s.now core
  s.modPipe core fun p =>
    let p1 := p.modPacket q.tag fun z => { z with asks := none, parked := false }
    if (s.ctx c).lap then
      let p2 := p1.modPacket q.tag fun z => { z with complete := true, mark := r.mark }
      { p2 with returns := p2.returns ++ [(now + 8, { r with since := now + 9 })] }
    else
      let room := decide ((p1.sidings.filter fun e => e.siding == .ls && e.left == 0).length < 2)
      { p1 with sidings := p1.sidings ++ [{ siding := .ls, stage := 8, left := if room then 0 else 1, issued := q.issued, result := r, dead := false }] }

/-- The instruction of a context that awaits what comes back: that of the packet in which the pipe holds it, or of the context itself. -/
def State.awaited (s : State) (c : CtxId) (q : Option Packet) : Option Instr :=
  match q with
  | some q => some q.instr
  | none => match (s.ctx c).run with
    | .reply i => some i
    | .idle => none
    | .active => none
    | .waiting _ => none
    | .halted => none
    | .killed => none

/-- What comes back to a context is done by `f`, as its current instruction; for one that the pipe holds, in the packet that awaits it. -/
def State.comeBack (s : State) (c : CtxId) (q : Option Packet) (f : State → State) : State :=
  match q with
  | none => s.asCtx c f
  | some q =>
    let t := f (s.packetState c q .active)
    let y := t.ctx c
    if Instr.siding q.instr = some .ls then
      s.loadBack c q (if q.trapped (s.ctx c) y then q.refused y else q.result y 0)
    else if q.trapped (s.ctx c) y then
      (s.tapeRefused c q y).modPipe (coreOf c) fun p => p.modPacket q.tag fun z => { z with performed := y.cepc ++ 0#2 != q.addr }
    else s.tapeDone t c q (some (s.now (coreOf c)))

/-- The load/store siding can take another output that comes from outside it (R46). -/
def State.lsRoom (s : State) (c : CtxId) (q : Packet) : Bool :=
  (s.ctx c).lap || Instr.siding q.instr != some .ls ||
    decide (((s.core (coreOf c)).pipe.sidings.filter fun e => e.siding == .ls && e.left == 0).length < 2)

end Sys2Proof.Machine
end

