-- ==== Sys2Proof/Machine/Directory.lean ====
section
/-! DEFINITION. The squad directories (R80 to R89, R207 to R211, R379, R405, R408): opening, membership, arrivals, the completion
of a generation with its results, departures, and the answers. -/

namespace Sys2Proof.Machine

/-! ### Generations, taken relative to G (R84) -/

/-- A generation's distance from G, modulo 2^16 and signed. -/
def Squad.ahead (q : Squad) (gen : BitVec 16) : Int := (gen - q.gen).toInt

/-- The generation of a member's next arrival. -/
def Member.next (m : Member) : BitVec 16 := m.first + BitVec.ofNat 16 m.arrivals

/-- The members of G: those whose join is no longer pending. -/
def Squad.current (q : Squad) : List Member := q.members.filter fun m => m.active

/-- A member has arrived in G. -/
def Squad.arrived (q : Squad) (m : Member) : Bool := m.active && decide (1 ≤ q.ahead m.next)

/-- The record of a context under a launch. -/
def Squad.member (q : Squad) (c : CtxId) (launch : Nat) : Option Member :=
  q.members.find? fun m => m.ctx == c && m.launch == launch

def Squad.setMember (q : Squad) (m : Member) : Squad :=
  { q with members := q.members.map fun p => if p.ctx == m.ctx && p.launch == m.launch then m else p }

/-- The later of G and the generation of a member's latest arrival. -/
def Squad.lastGen (q : Squad) (m : Member) : BitVec 16 := if 0 ≤ q.ahead (m.next - 1) then m.next - 1 else q.gen

/-! ### Names and handles (R80, R81) -/

/-- The name names a domain squad. -/
def domainName (name : Word) : Bool := name.getLsbD 63

/-- The job, or the domain tag, under which a job knows a name. -/
def State.ownerIn (s : State) (job : Nat) (name : Word) : Nat :=
  if domainName name then (match s.job job with
    | none => 0
    | some j => j.dtag.toNat)
  else job

/-- The open squad of a job that a handle names. -/
def State.squadIn (s : State) (job : Nat) (h : BitVec 16) : Option Squad :=
  (s.squad h.toNat).bind fun q => if h ≠ 0xFFFF ∧ q.job = s.ownerIn job q.name then some q else none

/-- The open squad of a context's job that a handle names. -/
def State.squadOf (s : State) (c : CtxId) (h : BitVec 16) : Option Squad := s.squadIn (s.ctx c).row.job.toNat h

/-- A module of the recovery domain has a domain module number: this module, or one that the route table reaches. -/
def State.moduleExists (s : State) (n : Nat) : Bool := s.mgmt.mdom.toNat == n || (span 0 24).any fun i => !(tget [] s.routes (512 * i + n)).isEmpty

/-- SQOPEN at its directory: the handle, the status and the state (R81, R207). -/
def State.openSquad (s : State) (job : Nat) (die : Nat) (name : Word) (n : BitVec 24) (gang : Bool) : State × Word × Word :=
  let owner := s.ownerIn job name
  let home := name.toNat / 2 ^ 54 % 512
  let base := die * 1024
  if domainName name && (owner == 0 || !s.moduleExists home) then (s, 0xFFFF, 3)
  else match s.squads.find? fun e => decide (e.1 / 1024 = die) && (match e.2 with
      | none => false
      | some q => q.name == name && q.job == owner) with
    | some e => (s, BitVec.ofNat 64 e.1, 0)
    | none => match (span base 1024).find? fun i => (s.squad i).isNone with
      | none => (s, 0xFFFF, 2)
      | some i =>
        let q : Squad := { name := name, job := owner, forming := n, gang := gang, gen := 0, formed := false, members := [],
                           departed := false, contribs := [], kept := [], proxy := domainName name && s.mgmt.mdom.toNat != home }
        (s.setSquad i (some q), BitVec.ofNat 64 i, 1)

/-! ### Arrivals (R84 to R86) -/

/-- SquadArrive of a member, with a contribution if it carries one. -/
def Squad.arrive (q : Squad) (m : Member) (mark : Bool) (req : Option (SquadReq × Option Nat)) : Squad :=
  let gen := m.next
  let q1 := q.setMember { m with arrivals := m.arrivals + 1, unseen := if mark then some gen else m.unseen }
  match req with
  | none => q1
  | some (r, cmd) =>
    { q1 with contribs := q1.contribs ++ [{ ctx := m.ctx, launch := m.launch, rank := m.rank, gen := gen, req := r, cmd := cmd,
                                             waiting := true }] }

/-- The contribution of a squad instruction, if it makes one. -/
def SquadReq.contribution (r : SquadReq) : Option (SquadReq × Option Nat) :=
  match r with
  | .vote .. => some (r, none)
  | .red .. => some (r, none)
  | .scan .. => some (r, none)
  | .open .. => none
  | .join _ => none
  | .leave => none
  | .close => none
  | .bar => none
  | .arrive => none
  | .wait => none
  | .info _ => none

/-- Two contributions carry the same operation and type (R86). -/
def SquadReq.alike (a b : SquadReq) : Bool :=
  match a, b with
  | .vote o _, .vote p _ => o == p
  | .red o t _, .red p u _ => o == p && t == u
  | .scan o t _, .scan p u _ => o == p && t == u
  | .arrive, .arrive => true
  | _, _ => false

/-- A leave posted by a member or a pending joiner (R85), or its departure (R408). -/
def Squad.postLeave (q : Squad) (m : Member) : Squad :=
  let m1 := if !m.active then (if m.arrivals = 0 then { m with arrivals := 1 } else m)
    else if q.arrived m then m else { m with arrivals := m.arrivals + 1 }
  q.setMember { m1 with leaving := some (q.lastGen m1) }

/-! ### Results (R86, R87, R209) -/

/-- Insert a contribution by ascending rank. -/
def byRank (c : Contrib) : List Contrib → List Contrib
  | [] => [c]
  | d :: r => if c.rank.toNat < d.rank.toNat then c :: d :: r else d :: byRank c r

/-- The contributions of a generation in rank order. -/
def Squad.contribsOf (q : Squad) (gen : BitVec 16) : List Contrib :=
  (q.contribs.filter fun c => c.gen == gen).foldl (fun l c => byRank c l) []

/-- The bits of an element contributed by a squad instruction. -/
def SquadReq.elem (r : SquadReq) : Nat :=
  match r with
  | .red _ t x => x.toNat % 2 ^ ElemTy.width t
  | .scan _ t x => x.toNat % 2 ^ ElemTy.width t
  | .vote _ x => x.toNat
  | .open .. => 0
  | .join _ => 0
  | .leave => 0
  | .close => 0
  | .bar => 0
  | .arrive => 0
  | .wait => 0
  | .info _ => 0

/-- The result and flags of each contribution of a generation whose contributions are alike, by position. -/
def squadResults (cs : List Contrib) : List (Word × Flags) :=
  let xs := cs.map fun c => c.req.elem
  match cs with
  | [] => []
  | c :: _ => match c.req with
    | .vote op _ =>
      let n := xs.foldl (· + ·) 0
      let v : Word := match op with
        | .any => bit (decide (n ≠ 0))
        | .all => bit (decide (n = xs.length))
        | .count => BitVec.ofNat 64 n
      cs.map fun _ => (v, 0)
    | .red op t _ => let r := reduceList op t xs; cs.map fun _ => (ElemTy.extend t r.1, r.2)
    | .scan op t _ => (scanList op t xs).map fun r => (ElemTy.extend t r.1, r.2)
    | .open .. => cs.map fun _ => (0, 0)
    | .join _ => cs.map fun _ => (0, 0)
    | .leave => cs.map fun _ => (0, 0)
    | .close => cs.map fun _ => (0, 0)
    | .bar => cs.map fun _ => (0, 0)
    | .arrive => cs.map fun _ => (0, 0)
    | .wait => cs.map fun _ => (0, 0)
    | .info _ => cs.map fun _ => (0, 0)

/-- The same at a proxy, whose generation other modules contribute to as well (R81): the results agree with the contributions made here,
and what the others add to them is free (log entry 26). -/
def awayResults (n : Nat) (cs : List Contrib) : List (Word × Flags) :=
  let xs := cs.map fun c => c.req.elem
  let here := xs.foldl (· + ·) 0
  let a := Config.homeAnswer n
  (cs.zip (span (n + 1) cs.length)).map fun e => match e.1.req with
    | .vote .any _ => (bit (decide (here ≠ 0) || a.1.getLsbD 0), 0)
    | .vote .all _ => (bit (decide (here = xs.length) && a.1.getLsbD 0), 0)
    | .vote .count _ => (BitVec.ofNat 64 (here + a.1.toNat % 2 ^ 24), 0)
    | .red _ t _ => (ElemTy.extend t (a.1.toNat % 2 ^ ElemTy.width t), a.2.2.1)
    | .scan _ t _ => let own := Config.homeAnswer e.2; (ElemTy.extend t (own.1.toNat % 2 ^ ElemTy.width t), own.2.2.1)
    | .open .. => (0, 0)
    | .join _ => (0, 0)
    | .leave => (0, 0)
    | .close => (0, 0)
    | .bar => (0, 0)
    | .arrive => (0, 0)
    | .wait => (0, 0)
    | .info _ => (0, 0)

/-- What the contributions of other modules to the n-th completion at a proxy make of it: 1 when they carry another operation or type,
2 when the root of a collective is not among them either, 0 otherwise; free (R81, log entry 26). -/
def foreign (n : Nat) : Nat := (Config.homeAnswer n).2.2.2 % 3

/-- What each context that arrived in a generation with a contribution is told; n numbers the answer of a proxy's home. -/
def Squad.outcomes (q : Squad) (gen : BitVec 16) (n : Nat) : List Kept :=
  let cs := q.contribsOf gen
  let alike := match cs with
    | [] => true
    | c :: r => r.all fun d => c.req.alike d.req
  if alike && !(q.proxy && foreign n == 1) then (cs.zip (if q.proxy then awayResults n cs else squadResults cs)).map fun e =>
    { ctx := e.1.ctx, launch := e.1.launch, gen := gen, contributed := true, empty := false, value := e.2.1, flags := e.2.2, reason := 0 }
  else cs.map fun c => { ctx := c.ctx, launch := c.launch, gen := gen, contributed := true, empty := false, value := 0, flags := 0, reason := 5 }

/-- What a context is told of a generation: its outcome, or nothing but the completion. -/
def Squad.outcome (q : Squad) (gen : BitVec 16) (n : Nat) (c : CtxId) (launch : Nat) : Kept :=
  ((q.outcomes gen n).find? fun k => k.ctx == c && k.launch == launch).getD
    { ctx := c, launch := launch, gen := gen, contributed := false, empty := !q.proxy && (q.contribsOf gen).isEmpty, value := 0, flags := 0,
      reason := 0 }

/-! ### Collectives of a generation (R86, R255, R380) -/

/-- The root rank that a collective's command names. -/
def Cmd.root (m : Cmd) : BitVec 24 := m.arg.setWidth 24

/-- CREDUCE and CBCAST have a root. -/
def Instr.rooted : Instr → Bool
  | .creduce .. | .cbcast .. => true
  | _ => false

/-- Two collective commands carry the same function, operation, A type and shape, D type and root; an operand that one of them does
not read is not compared (R255). -/
def Cmd.alike (a b : Cmd) : Bool :=
  let sameFn := match a.instr, b.instr with
    | .creduce o .., .creduce p .. => o == p
    | .callred o .., .callred p .. => o == p
    | .cbcast .., .cbcast .. => true
    | .cgather .., .cgather .. => true
    | _, _ => false
  let has (m : Cmd) (role : Nat) : Bool := m.ents.any fun e => e.1 == role
  let same (role : Nat) (f : Tensor → Tensor → Bool) : Bool :=
    !has a role || !has b role || f (ent a.ents role) (ent b.ents role)
  let ty (x y : Tensor) : Bool := sameType x y && x.fb == y.fb && x.bias == y.bias
  sameFn && same 1 (fun x y => ty x y && x.shape == y.shape) && same 0 ty && (!Instr.rooted a.instr || a.root == b.root)

/-- The refusal that a collective's contributors receive: 0 none. On a squad whose home is elsewhere, other modules contribute too. -/
def Coll.verdict (g : Coll) (mixed : Bool) (n : Nat) : Nat :=
  match g.parts with
  | [] => 0
  | p :: r =>
    if mixed || !(r.all fun q => p.cmd.alike q.cmd) || g.away && foreign n == 1 then 5
    else if Instr.rooted p.cmd.instr && !(g.parts.any fun q => q.rank == p.cmd.root) && (!g.away || foreign n == 2) then 6 else 0

/-- The collective of a squad's generation that is still open. -/
def Coll.opens (g : Coll) (h : Nat) (gen : BitVec 16) : Bool := g.handle == h && g.gen == gen && !g.closed

/-- Close the collective of a generation that completes: every contributor of a refused one takes SQUAD (R380). -/
def State.closeColl (s : State) (h : Nat) (gen : BitVec 16) (mixed : Bool) : State :=
  match s.colls.find? fun g => g.opens h gen with
  | none => s
  | some g =>
    let v := g.verdict mixed s.fresh
    let s1 := { s with colls := s.colls.map fun c => if c.opens h gen then { c with closed := true, reason := v } else c }
    if v = 0 then s1
    else g.parts.foldl (fun t p =>
      t.modHeld p.ctx p.cmd.launch fun x => x.pend causeSquad (squadCeaddr (BitVec.ofNat 16 h) v gen)) s1

/-! ### Answers -/

/-- Answer a squad instruction. -/
def State.squadReply (s : State) (m : Msg) (value status : Word) (flags : Flags) (reason : Nat) (performed : Bool)
    (gen : BitVec 16) : State := s.answerTo m (.answer value status flags reason performed gen)

/-- The result of an SQVOTE of a generation without contributions (R87). -/
def SquadReq.emptyVote (r : SquadReq) : Option Word :=
  match r with
  | .vote .any _ => some 0
  | .vote .all _ => some 1
  | .vote .count _ => some 0
  | _ => none

/-- Tell a waiting context the outcome of its generation. An instruction that returns no result observes the completion only: a
result, its flags and the refusal of R86 go to SQVOTE, SQRED and SQSCAN (R379). -/
def State.tell (s : State) (m : Msg) (k : Kept) (r : SquadReq) : State :=
  if r.contribution.isNone then s.squadReply m 0 0 0 0 true k.gen
  else if k.contributed then s.squadReply m k.value 0 k.flags k.reason true k.gen
  else match (if k.empty then r.emptyVote else none) with
    | some v => s.squadReply m v 0 0 0 true k.gen
    | none => State.squadReply { s with fresh := s.fresh + 1 } m (Config.squadResult s.fresh) 0 0 0 true k.gen

/-- The message waits at the directory. -/
def State.holdMsg (s : State) (m : Msg) : State := s.modMsg m.id fun q => { q with recorded := true }

/-- A SQINFO result (R210). -/
def Squad.info (q : Squad) (c : CtxId) (launch : Nat) (self : Bool) : Word :=
  if self then
    match q.member c launch with
    | none => 0xFFFFFF
    | some m => BitVec.ofNat 64 (m.rank.toNat + 2 ^ 24 * (q.arrived m).toNat + 2 ^ 25 * m.leaving.isSome.toNat +
        2 ^ 26 * (!m.active).toNat + 2 ^ 27 * m.active.toNat)
  else BitVec.ofNat 64 (q.gen.toNat + 2 ^ 16 * (q.current.length % 2 ^ 24) + 2 ^ 40 * q.departed.toNat)

/-- An arriving instruction at its directory (R84, R379, R405). -/
def State.serveArrival (s : State) (m : Msg) (h : BitVec 16) (q : Squad) (r : SquadReq) (waits : Bool) : State :=
  let put (t : State) (q : Squad) : State := t.setSquad h.toNat (some q)
  match (if waits then q.kept.find? fun k => k.ctx == m.src && k.launch == m.launch else none) with
  | some k => (put s { q with kept := q.kept.filter fun e => !(e.ctx == m.src && e.launch == m.launch) }).tell m k r
  | none => match q.member m.src m.launch with
    | none => s.squadReply m 0 0 0 2 false 0
    | some p =>
      if waits && p.unseen.isSome then s.holdMsg m
      else if p.leaving.isSome then s.squadReply m 0 0 0 2 false 0
      else if 1 < q.ahead p.next then s.holdMsg m
      else if waits then (put (s.applied_ m) (q.arrive p true r.contribution)).holdMsg m
      else (put s (q.arrive p false none)).squadReply m (p.next.setWidth 64) 0 0 0 true 0

/-! ### Domain squads whose home is on another module (R81)

A proxy holds the members of its module as its home entry does; the generations are the home's, so that one is complete only when the
members here have arrived. What the members of other modules do is free (log entry 26). -/

/-- SQOPEN that has created a proxy: the home says whether the squad existed, was created, or finds no entry, and which generation and
which GANG attribute it has. -/
def State.openAway (s : State) (m : Msg) (h : Word) (gang : Bool) : State :=
  let a := Config.homeAnswer s.fresh
  let st := a.2.1.toNat % 3
  let t : State := { s with fresh := s.fresh + 1 }
  if st = 2 then (t.setSquad h.toNat none).squadReply m 0xFFFF 2 0 0 true 0
  else (t.setSquad h.toNat ((t.squad h.toNat).map fun q =>
    if st = 1 then { q with gang := gang } else { q with gang := a.1.getLsbD 16, gen := a.1.setWidth 16 })).squadReply m h (BitVec.ofNat 64 st) 0 0 true 0

/-- A free value has been drawn. -/
def State.stepFresh (s : State) (b : Bool) : State := if b then { s with fresh := s.fresh + 1 } else s

/-- SQJOIN at a proxy finds its rank taken by a member of another module. -/
def Squad.rankAway (q : Squad) (n : Nat) : Bool := q.proxy && foreign n == 1

/-- What SQINFO answers of the squad: at a proxy the members of other modules count as well. -/
def Squad.infoAway (q : Squad) (n : Nat) (c : CtxId) (launch : Nat) (self : Bool) : Word :=
  if q.proxy && !self then
    let a := Config.homeAnswer n
    BitVec.ofNat 64 (q.gen.toNat + 2 ^ 16 * ((q.current.length + a.1.toNat) % 2 ^ 24) + 2 ^ 40 * (q.departed || a.2.1.getLsbD 0).toNat)
  else q.info c launch self

/-- A squad instruction at its directory. -/
def State.serveSquad (s : State) (m : Msg) (h : BitVec 16) (r : SquadReq) : State :=
  match r with
  | .open name n gang =>
    let (t, hd, st) := s.openSquad (s.jobFor m) (name.toNat % 36) name n gang
    if st == 1 && (t.squad hd.toNat).any fun q => q.proxy then t.openAway m hd gang else t.squadReply m hd st 0 0 true 0
  | _ => match s.squadIn (s.jobFor m) h with
    | none => s.squadReply m 0 0 0 1 false 0
    | some q =>
      let put (q : Squad) : State := s.setSquad h.toNat (some q)
      match r with
      | .open _ _ _ => s
      | .join rank =>
        if (q.member m.src m.launch).isSome then s.squadReply m 0 0 0 3 false 0
        else if rank == 0xFFFFFF || q.members.any fun p => p.rank == rank then s.squadReply m 0 0 0 4 false 0
        else if q.rankAway s.fresh then State.squadReply { s with fresh := s.fresh + 1 } m 0 0 0 4 false 0
        else (State.stepFresh (put { q with members := q.members ++
          [{ ctx := m.src, launch := m.launch, rank := rank, first := q.gen + 1, active := false, arrivals := 0, leaving := none, unseen := none }] })
            q.proxy).squadReply m 0 0 0 0 true 0
      | .leave => match q.member m.src m.launch with
        | none => s.squadReply m 0 0 0 2 false 0
        | some p =>
          if p.leaving.isSome then s.squadReply m 0 0 0 3 false 0
          else (put (q.postLeave p)).squadReply m 0 0 0 0 true 0
      | .close =>
        if q.members.isEmpty then (s.setSquad h.toNat none).squadReply m 0 0 0 0 true 0 else s.squadReply m 1 0 0 0 true 0
      | .info self => (s.stepFresh q.proxy).squadReply m (q.infoAway s.fresh m.src m.launch self) 0 0 0 true 0
      | .wait => match q.member m.src m.launch with
        | none => s.squadReply m 0 0 0 2 false 0
        | some p =>
          if p.arrivals = 0 || decide (q.ahead (p.next - 1) < 0) then
            (put { q with kept := q.kept.filter fun e => !(e.ctx == m.src && e.launch == m.launch) }).squadReply m 0 0 0 0 true 0
          else s.holdMsg m
      | .bar => s.serveArrival m h q r true
      | .vote .. => s.serveArrival m h q r true
      | .red .. => s.serveArrival m h q r true
      | .scan .. => s.serveArrival m h q r true
      | .arrive => s.serveArrival m h q r false

/-! ### The completion of a generation (R83, R87, R88) -/

/-- Generation G is complete, or at a proxy may be: what is left to the members of other modules takes any time (R81). -/
def Squad.complete (q : Squad) : Bool :=
  if q.current.isEmpty && !q.proxy then
    (if q.formed then !q.members.isEmpty else decide (q.forming.toNat ≤ q.members.length))
  else q.current.all q.arrived

/-- The generation that a recorded squad message waits for: that of its arrival, though it may not be one ahead yet (R84), or in SQWAIT that
of the latest. -/
def Squad.awaits (q : Squad) (c : CtxId) (launch : Nat) (r : SquadReq) : Option (BitVec 16) :=
  (q.member c launch).bind fun p => match r with
    | .wait => some (p.next - 1)
    | .bar => p.unseen.orElse fun _ => some p.next
    | .vote .. => p.unseen.orElse fun _ => some p.next
    | .red .. => p.unseen.orElse fun _ => some p.next
    | .scan .. => p.unseen.orElse fun _ => some p.next
    | .arrive => none
    | .open .. => none
    | .join _ => none
    | .leave => none
    | .close => none
    | .info _ => none

/-- The recorded messages of a squad that wait for a generation. -/
def State.awaiting (s : State) (h : BitVec 16) (q : Squad) (gen : BitVec 16) : List (Msg × SquadReq) :=
  s.net.filterMap fun m => match m.body with
    | .squad h' r => if m.recorded && h' == h && q.awaits m.src m.launch r == some gen then some (m, r) else none
    | _ => none

/-- Complete generation G: the waiting members are told, the outcomes of the others that have a mark are kept, the collective of
the generation is closed, the leaves take effect and G advances. -/
def State.completeGeneration (s : State) (h : BitVec 16) (q : Squad) : State :=
  let gen := q.gen
  let told := s.awaiting h q gen
  let seen (p : Member) : Bool := told.any fun e => e.1.src == p.ctx && e.1.launch == p.launch
  let keep := (q.members.filter fun m => m.unseen == some gen && !seen m).map fun m => q.outcome gen s.fresh m.ctx m.launch
  let clear (m : Member) : Member :=
    { m with unseen := if m.unseen = some gen then none else m.unseen, active := m.active || m.first == gen + 1 }
  let mixed := !((q.contribsOf gen).all fun c => c.cmd.isSome)
  let q1 : Squad := { q with
    gen := gen + 1, formed := true, members := (q.members.filter fun m => m.leaving != some gen).map clear,
    contribs := q.contribs.filter fun c => c.gen != gen, kept := q.kept ++ keep }
  let s1 := (s.setSquad h.toNat (some q1)).closeColl h.toNat gen mixed
  told.foldl (fun t e => t.tell e.1 (q.outcome gen s.fresh e.1.src e.1.launch) e.2)
    (if q.proxy then { s1 with fresh := s.fresh + 1 + (q.contribsOf gen).length } else s1)

/-! ### Departures (R408) -/

/-- The collective has a root, which is no contributor any more. -/
def Coll.rootless (g : Coll) : Bool := !g.away && match g.parts with
  | [] => false
  | p :: _ => Instr.rooted p.cmd.instr && !(g.parts.any fun q => q.rank == p.cmd.root)

/-- A collective without the member's part whose reads have not been performed: the part is withdrawn, and a root that goes refuses the
others, though the generation has completed before. -/
def Coll.without (g : Coll) (c : CtxId) (launch : Nat) : Coll :=
  let his (p : CollPart) : Bool := p.ctx == c && p.cmd.launch == launch
  let h : Coll := { g with parts := (g.parts.filter fun p => !his p || p.read).map fun p => if his p then { p with done := true } else p }
  if h.closed && h.reason == 0 && h.rootless then { h with reason := 6 } else h

/-- The member's parts in the collectives of a squad are withdrawn (R408). -/
def State.withdrawParts (s : State) (h : Nat) (c : CtxId) (launch : Nat) : State :=
  let s1 := { s with colls := s.colls.map fun g => if g.handle = h then g.without c launch else g }
  (s.colls.filter fun g => g.handle == h && g.reason == 0 && (g.without c launch).reason != 0).foldl
    (fun t g => (g.without c launch).parts.foldl (fun t p =>
      t.modHeld p.ctx p.cmd.launch fun x => x.pend causeSquad (squadCeaddr (BitVec.ofNat 16 h) 6 g.gen)) t) s1

/-- A member of a squad departs. -/
def State.depart (s : State) (h : Nat) (q : Squad) (m : Member) : State :=
  let gone (k : Contrib) : Bool := k.ctx == m.ctx && k.launch == m.launch && k.cmd.isSome && (s.colls.any fun g => g.handle == h && g.gen == k.gen &&
    g.parts.any fun p => p.ctx == m.ctx && p.cmd.launch == m.launch && !p.read)
  let q1 := { q with departed := true, contribs := q.contribs.filter fun k => !gone k }
  let t := if m.leaving.isSome then s.setSquad h (some q1)
    else (s.numberAt (dieOf m.ctx) (.directory (h / 1024))).setSquad h (some (q1.postLeave m))
  t.withdrawParts h m.ctx m.launch

/-! ### Events -/

/-- SQUAD_MESSAGE_ARRIVAL: a squad instruction reaches its directory, or is taken up again when it could not arrive before. -/
def execSquadMessageArrival (msg : Nat) (s : State) : Out :=
  match s.msg msg with
  | none => .next s
  | some m => match m.body with
    | .squad h r => if m.recorded || s.ready m then .next (s.serveSquad m h r) else .next s
    | _ => .next s

/-- GENERATION_COMPLETE. -/
def execGenerationComplete (handle : BitVec 16) (s : State) : Out :=
  match s.squad handle.toNat with
  | none => .next s
  | some q => if q.complete then .next (s.completeGeneration handle q) else .next s

/-- The membership is that of the unit which its context holds, or, when no launch binds that any longer, of one that no saved image
holds (R289). -/
def State.departs (s : State) (m : Member) : Bool :=
  if (s.ctx m.ctx).row.v then (s.ctx m.ctx).row.launch.toNat == m.launch else !s.savedFor (coreOf m.ctx) m.launch

/-- The membership of a killed context in a squad. -/
def State.departing (s : State) (q : Squad) (c : CtxId) : Option Member := q.members.find? fun m => m.ctx == c && s.departs m

/-- A killed context is still a member of a squad that it has not left. -/
def State.mustDepart (s : State) (c : CtxId) : Bool := s.squads.any fun e => match e.2 with
  | none => false
  | some q => match s.departing q c with
    | none => false
    | some m => m.leaving.isNone

/-- A killed context that is unbound is idle once it has left every squad. -/
def State.restKilled (s : State) (c : CtxId) : State :=
  if (s.ctx c).run = .killed ∧ (s.ctx c).row.v = false ∧ s.mustDepart c = false then s.modCtx c fun x => { x with run := .idle } else s

/-- SQUAD_DEPARTURE: a context that was killed leaves a squad; having left every one it is idle. -/
def execSquadDeparture (ctx : CtxId) (handle : BitVec 16) (s : State) : Out :=
  match s.squad handle.toNat with
  | none => .next s
  | some q => match s.departing q ctx with
    | none => .next s
    | some m => if (s.ctx ctx).run = .killed then .next ((s.depart handle.toNat q m).restKilled ctx) else .next s

/-- SQUAD_ANSWER: the directory's answer reaches the context that awaits it (R208, R350, R379, R440). -/
def execSquadAnswer (msg : Nat) (s : State) : Out :=
  match s.msg msg with
  | none => .next s
  | some m => match m.body with
    | .answer value status flags reason performed gen =>
      let c := m.src
      if s.shut m || !s.inOrder m then .next s
      else
        let q := (s.core (coreOf c)).pipe.asked (kOf c)
        let t := s.dropMsg msg
        match (if s.present m then s.awaited c q else none) with
        | some i =>
          if isSquad i then
            let u := if observesGeneration i then t.observe c true m.clock else t
            .next (u.comeBack c q fun w => w.squadAnswered i value status flags reason performed gen)
          else .next t
        | none => .next t
    | _ => .next s

end Sys2Proof.Machine
end

