-- ==== Sys2Proof/Machine/Collective.lean ====
section
/-! DEFINITION. Collective commands (R254 to R257, R380): the kick, which is also an arrival, the reads of A, the combination and
the writes of D; and the start and completion events of every engine (R155, R233). -/

namespace Sys2Proof.Machine

/-! ### The kick (R254, R255) -/

/-- Place a collective command: SquadArrive, the contribution, the member's part, the queue. -/
def State.placeColl (s : State) (h : BitVec 16) (q : Squad) (p : Member) (m : Cmd) : State :=
  let c : Cmd := { m with id := s.nextId }
  let part : CollPart := { ctx := s.cur, rank := p.rank, cmd := c, read := false, data := [], done := false }
  let gen := p.next
  let s1 := { s with nextId := s.nextId + 1 }.setSquad h.toNat (some (q.arrive p false (some (.arrive, some c.id))))
  let dir : Dest := .directory (h.toNat / 2 ^ 10)
  let s2 := s1.numberAt (dieOf s.cur) dir
  let join (g : Coll) : Coll := if g.opens h.toNat gen then { g with parts := g.parts ++ [part] } else g
  let fresh : Coll := { handle := h.toNat, gen := gen, closed := false, away := q.proxy, reason := 0, parts := [part] }
  let s3 : State := { s2 with colls := if s2.colls.any fun g => g.opens h.toNat gen then s2.colls.map join else s2.colls ++ [fresh] }
  (s3.enqueue c).done 16 (·.charge m.units)

/-- The meaning of a collective's instruction: the squad first (R380), then the entries, then room. -/
def State.collective (s : State) (i : Instr) (a : HReg) (root : BitVec 24) : Out :=
  let h := s.me.readH a
  let refuse (reason : Nat) : Out := s.refuse causeSquad (squadCeaddr h reason 0)
  match s.squadOf s.cur h with
  | none => refuse 1
  | some q => match q.member s.cur s.me.row.launch.toNat with
    | none => refuse 2
    | some p =>
      if p.leaving.isSome then refuse 2
      else
        let isRoot := !Instr.rooted i || p.rank == root
        let arg := root.setWidth 64
        let place (t : State) (m : Cmd) : Out :=
          if 1 < q.ahead p.next then
            .next ((t.modMe fun x => { x with kick := some m }).waits (.generation h (p.next - 1)))
          else if t.queueRoom t.cur .collective then .next (t.placeColl h q p m)
          else .next ((t.modMe fun x => { x with kick := some m }).waits .queueRoom)
        match s.me.kick with
        | some m => place s m
        | none => match s.cmdRefusal s.cur i arg isRoot with
          | some (cause, ceaddr) => s.refuse cause ceaddr
          | none => place s (s.command s.cur i arg isRoot false)

/-- The root rank in a register. -/
def rootOf (x : Ctx) (b : GReg) : BitVec 24 := (x.readG b).setWidth 24

def execCreduce (op : RedOp) (h : HReg) (root : GReg) (td ta : TIdx) (w : WaitSig) (s : State) : Out :=
  s.collective (.creduce op h root td ta w) h (rootOf s.me root)
def execCbcast (h : HReg) (root : GReg) (td ta : TIdx) (w : WaitSig) (s : State) : Out :=
  s.collective (.cbcast h root td ta w) h (rootOf s.me root)
def execCallred (op : RedOp) (h : HReg) (td ta : TIdx) (w : WaitSig) (s : State) : Out :=
  s.collective (.callred op h td ta w) h 0
def execCgather (h : HReg) (td ta : TIdx) (w : WaitSig) (s : State) : Out := s.collective (.cgather h td ta w) h 0

/-! ### Reads and results (R255 to R257) -/

/-- The collective to which a command belongs. -/
def State.collOf (s : State) (id : Nat) : Option Coll := s.colls.find? fun g => g.parts.any fun p => p.cmd.id == id

def State.modPart (s : State) (id : Nat) (f : CollPart → CollPart) : State :=
  { s with colls := s.colls.map fun g => { g with parts := g.parts.map fun p => if p.cmd.id == id then f p else p } }

/-- Insert a part by ascending rank. -/
def partByRank (c : CollPart) : List CollPart → List CollPart
  | [] => [c]
  | d :: r => if c.rank.toNat < d.rank.toNat then c :: d :: r else d :: partByRank c r

/-- The parts in rank order. -/
def Coll.inOrder (g : Coll) : List CollPart := g.parts.foldl (fun l p => partByRank p l) []

/-- The command reads A. -/
def Cmd.readsA (m : Cmd) : Bool := m.ents.any fun e => e.1 == 1
/-- The command writes D. -/
def Cmd.writesD (m : Cmd) : Bool := m.ents.any fun e => e.1 == 0

/-- The element of a part at a place of A. -/
def CollPart.at_ (p : CollPart) (r c : Nat) : Nat :=
  match p.data.find? fun e => e.1 == r && e.2.1 == c with
  | some e => e.2.2
  | none => 0

/-- The operation of a reducing collective. -/
def Instr.redOp : Instr → Option RedOp
  | .creduce op .. => some op
  | .callred op .. => some op
  | _ => none

/-- One element of a reduction over the parts, in the compute type, then in D's type (R256). -/
def reduceElem (op : RedOp) (a d : Tensor) (xs : List Nat) : Res :=
  let ct := if a.kind = .ieee then ElemTy.f32 else a.ty
  -- an FP16 or BF16 element is widened exactly; a signalling NaN sets NV there (R134)
  let ws := xs.map fun x => if a.kind = .ieee then elemConv a.ty .f32 (rawOf x) else (rawOf x, 0)
  let r := reduceList op ct (ws.map Prod.fst)
  let e := elemConv ct d.ty r.1
  (e.1 + if xs.any taintOf then 2 ^ 64 else 0, r.2 ||| e.2 ||| flagsOf ws)

/-- The elements that a member's D takes, with the flags. -/
def Coll.result (g : Coll) (m : Cmd) : List (Nat × Nat × Nat) × Flags :=
  let ps := g.inOrder
  let d := ent m.ents 0
  let inside (e : Nat × Nat × Nat) : Bool := decide (e.1 < d.rows.toNat ∧ e.2.1 < d.cols.toNat)
  match Instr.redOp m.instr with
  | some op =>
    let a := ent m.ents 1
    let rs := a.places.map fun rc => (rc.1, rc.2, reduceElem op a d (ps.map fun p => p.at_ rc.1 rc.2))
    (rs.map fun e => (e.1, e.2.1, e.2.2.1), rs.foldl (fun f e => f ||| e.2.2.2) 0)
  | none =>
    if Instr.rooted m.instr then (((ps.filter fun p => p.rank == m.root).map fun p => p.data).flatten.filter inside, 0)
    else
      let rows := (ent m.ents 1).rows.toNat
      (((ps.zip (span 0 ps.length)).map fun e => e.1.data.map fun x => (e.2 * rows + x.1, x.2.1, x.2.2)).flatten.filter inside, 0)

/-- What a collective of a squad whose home is on another module brings to D: elements and flags that depend on the members there, free
values (R81). -/
def State.awayResult (s : State) (m : Cmd) : List (Nat × Nat × Nat) × Flags :=
  let d := ent m.ents 0
  ((d.places.zip (span 0 d.places.length)).map fun e => (e.1.1, e.1.2, Config.remoteElem (s.fresh + e.2) % 2 ^ d.fmt.bits),
    Config.remoteFlags s.fresh)

/-- The member's command may complete: its reads are done, and where it receives a result the generation is complete and every
contributor has read. -/
def Coll.ready (g : Coll) (p : CollPart) : Bool :=
  p.read && (!p.cmd.writesD || (g.closed && (g.reason != 0 || g.parts.all fun q => q.read)))

/-- Forget a collective whose parts have all completed. -/
def State.dropColl (s : State) : State :=
  { s with colls := s.colls.filter fun g => !(g.closed && g.parts.all fun p => p.done) }

/-- A member's collective command completes. -/
def State.finishColl (s : State) (core : CoreId) (m : Cmd) : State :=
  match s.collOf m.id with
  | none => if m.started then s.completed core m 0 else s
  | some g => match g.parts.find? fun p => p.cmd.id == m.id with
    | none => s
    | some p =>
      if !g.ready p then s
      else
        let write := m.writesD && g.reason == 0
        let (vs, f) := if !write then ([], 0) else if g.away then s.awayResult m else g.result m
        let s1 := if write && g.away then { s with fresh := s.fresh + vs.length + 1 } else s
        match s1.putRows m vs (span 0 (if write then (ent m.ents 0).rows.toNat else 0)) with
        | none => s.pressed
        | some t =>
          ((t.modPart m.id fun q => { q with done := true }).completed core m (m.flags ||| f)).dropColl

/-- The collective orders the members as a generation does: before its result is written, the die of a member that may complete takes what
the contributions brought to the directory (R88, R257). -/
def State.collJoined (s : State) (m : Cmd) : State :=
  match s.collOf m.id with
  | none => s
  | some g =>
    if m.writesD && (g.parts.find? fun p => p.cmd.id == m.id).any fun p => g.ready p
    then s.acquire m.ctx (s.appliedAt (.directory (g.handle / 2 ^ 10))) else s

/-- The elements of A that a collective's command reads, row by row. -/
def State.collRead (s : State) (m : Cmd) : Option (List (Nat × Nat × Nat) × Bool) :=
  if m.readsA then s.cmdRead m 1 (ent m.ents 1).places else some ([], false)

/-! ### The engines' events -/

/-- Two commands are parts of one collective. -/
def State.sameColl (s : State) (a b : Cmd) : Bool := match s.collOf a.id with
  | none => false
  | some g => g.parts.any fun p => p.cmd.id == b.id

/-- The first command of a core's collective engine that has not read A, when it is the core's and every earlier one in the queue is a
part of the same collective: members that share an engine all read A before any result is written, so the engine works at one
collective at a time (R235, R257, R259; log entry 56). -/
def State.collNext (s : State) (core : CoreId) : Option Cmd :=
  let l := (s.cluster (clusterOf core)).coll core
  (l.find? fun p => !p.2.readDone).bind fun p =>
    if p.1 = core && (l.takeWhile fun e => e.2.id != p.2.id).all fun e => s.sameColl p.2 e.2 then some p.2 else none

/-- The turn of the command that an engine of a core works at or takes next: it asks for its reservation, starts once that is granted,
and then moves on row by row (R228, R247). -/
def State.turnHead (s : State) (core : CoreId) (e : EngineKind) : State :=
  match s.engineHead core e with
  | none => s
  | some m => if m.started then s.runHead core m fun t => t.nextRow core m else s.startHead core e m fun t _ => t

/-- A collective's command that has started, and so acquired the value of the counter that met its wait (R234), reads A. -/
def State.collReads (s : State) (core : CoreId) (m : Cmd) : State :=
  match (if s.engineHeld m then none else s.collRead m) with
  | none => s
  | some (data, dzr) =>
    ((if m.readsA then s.readAgain m 1 (ent m.ents 1).places else s).modPart m.id fun p => { p with read := true, data := data }).modCmd
      core .collective m.id fun c => { c with readDone := true, flags := flagIf dzr fDZR }

/-- ENGINE_COMMAND_START (R155, R233): the command asks for its reservation, or starts once it is granted; one that has started moves
on by a row, or in a collective reads A. -/
def execEngineCommandStart (core : CoreId) (e : EngineKind) (s : State) : Out :=
  match e with
  | .collective => match s.collNext core with
    | none => .next s
    | some m => .next (if m.started then s.collReads core m else s.startHead core e m fun t _ => t)
  | .matrix => .next (s.turnHead core e)
  | .vector => .next (s.turnHead core e)
  | .copy => .next (s.turnHead core e)

/-- ENGINE_COMMAND_COMPLETE (R136, R155, R233): the head's remaining work is performed, its flags enter cstat and its signal is
posted. -/
def execEngineCommandComplete (core : CoreId) (e : EngineKind) (s : State) : Out :=
  match s.engineHead core e with
  | none => .next s
  | some m => match e with
    | .collective => let t := s.collJoined m; .next (if t.engineHeld m then t else t.finishColl core m)
    | .matrix => .next (s.finishHead core m)
    | .vector => .next (s.finishHead core m)
    | .copy => .next (s.finishHead core m)

/-! ### Grants (R292) -/

/-- The command of an engine that asks for a reservation next. -/
def State.askerOf (s : State) (core : CoreId) (e : EngineKind) : Option Cmd := match e with
  | .collective => s.collNext core
  | .matrix => s.engineHead core e
  | .vector => s.engineHead core e
  | .copy => s.engineHead core e

/-- Every engine of a cluster whose head may start has made its request. -/
def State.askAll (s : State) (cluster : ClusterId) : State :=
  let cores := ((s.cores.map Prod.fst).filter fun c => clusterOf c == cluster) ++ (s.cluster cluster).collHeads
  ([.matrix, .vector, .copy, .collective] : List EngineKind).foldl (fun t e => cores.foldl (fun u core => match u.askerOf core e with
    | none => u
    | some m => if u.mayAsk core e m then u.askHead core e m else u) t) s

/-- RESERVATION_GRANT: when every request of the cycle has been placed, the head of a cluster's requests is granted if it fits the
budget. -/
def execReservationGrant (cluster : ClusterId) (s : State) : Out :=
  let t := s.askAll (clusterOf cluster)
  let q := t.cluster (clusterOf cluster)
  match q.requests with
  | [] => .next t
  | r :: _ =>
    if q.held + r.cost ≤ q.budget then
      .next ((t.modCluster (clusterOf cluster) fun q => { q.closeGroup with requests := q.closeGroup.requests.drop 1, held := q.held + r.cost }).modCmd
        r.core r.e r.cmd fun c => { c with granted := true })
    else .next t

end Sys2Proof.Machine
end

