-- ==== Sys2Proof/Machine/Vector.lean ====
section
/-! DEFINITION. Vector, mask and conversion instructions (R213 to R224), gathers and scatters (R225 to R227). -/

namespace Sys2Proof.Machine

/-- Lane i is active (R214). -/
def Ctx.active (x : Ctx) (m : Option KReg) (i : Nat) : Bool :=
  match m with
  | none => true
  | some k => (x.readK k).toNat.testBit i

/-- The value of a vector register as a number. -/
def Ctx.vec (x : Ctx) (r : VReg) : Nat := (x.readV r).toNat

/-- Write v[d] lane by lane: the active lanes from `f`, the others keep their values; the flags of the active lanes (R214, R215). -/
def State.lanewise (s : State) (w : Nat) (d : VReg) (m : Option KReg) (f : Nat → Res) : Out :=
  let x := s.me
  let old := x.vec d
  let rs := (span 0 (lanesAt w)).map fun i => if x.active m i then f i else (laneOf w old i, 0)
  s.finish 8 (flagsOf rs) (·.writeV d (BitVec.ofNat 512 (packLanes w (rs.map Prod.fst))))

/-- A lanewise operation on v[a] and v[b]. -/
def State.lane2 (s : State) (ty : ElemTy) (d a b : VReg) (m : Option KReg) (f : Nat → Nat → Res) : Out :=
  let w := ElemTy.width ty
  s.lanewise w d m fun i => f (laneOf w (s.me.vec a) i) (laneOf w (s.me.vec b) i)

/-- A lanewise operation on v[a]. -/
def State.lane1 (s : State) (ty : ElemTy) (d a : VReg) (m : Option KReg) (f : Nat → Res) : Out :=
  let w := ElemTy.width ty
  s.lanewise w d m fun i => f (laneOf w (s.me.vec a) i)

/-! ### VAR (R216, R217) -/

def execVadd (ty : ElemTy) (d a b : VReg) (m : Option KReg) (s : State) : Out := s.lane2 ty d a b m (elemAdd ty)
def execVsub (ty : ElemTy) (d a b : VReg) (m : Option KReg) (s : State) : Out := s.lane2 ty d a b m (elemSub ty)
def execVmul (ty : ElemTy) (d a b : VReg) (m : Option KReg) (s : State) : Out := s.lane2 ty d a b m (elemMul ty)
def execVfma (ty : ElemTy) (d a b c : VReg) (m : Option KReg) (s : State) : Out :=
  let w := ElemTy.width ty
  let x := s.me
  s.lanewise w d m fun i => elemFma ty (laneOf w (x.vec a) i) (laneOf w (x.vec b) i) (laneOf w (x.vec c) i)
def execVmin (ty : ElemTy) (d a b : VReg) (m : Option KReg) (s : State) : Out := s.lane2 ty d a b m (elemMin ty)
def execVmax (ty : ElemTy) (d a b : VReg) (m : Option KReg) (s : State) : Out := s.lane2 ty d a b m (elemMax ty)
def execVabs (ty : ElemTy) (d a : VReg) (m : Option KReg) (s : State) : Out := s.lane1 ty d a m (elemAbs ty)
def execVneg (ty : ElemTy) (d a : VReg) (m : Option KReg) (s : State) : Out := s.lane1 ty d a m (elemNeg ty)
def execVand (ty : ElemTy) (d a b : VReg) (m : Option KReg) (s : State) : Out := s.lane2 ty d a b m elemAnd
def execVor (ty : ElemTy) (d a b : VReg) (m : Option KReg) (s : State) : Out := s.lane2 ty d a b m elemOr
def execVxor (ty : ElemTy) (d a b : VReg) (m : Option KReg) (s : State) : Out := s.lane2 ty d a b m elemXor

/-- The shift amount of a lane: its low log2 w bits. -/
def laneShift (ty : ElemTy) (y : Nat) : Nat := y % ElemTy.width ty

def execVshl (ty : ElemTy) (d a b : VReg) (m : Option KReg) (s : State) : Out :=
  s.lane2 ty d a b m fun x y => (x * 2 ^ laneShift ty y % 2 ^ ElemTy.width ty, 0)
def execVshr (ty : ElemTy) (d a b : VReg) (m : Option KReg) (s : State) : Out :=
  s.lane2 ty d a b m fun x y => (x / 2 ^ laneShift ty y, 0)
def execVsra (ty : ElemTy) (d a b : VReg) (m : Option KReg) (s : State) : Out :=
  s.lane2 ty d a b m fun x y =>
    (unsignedOf (ElemTy.width ty) (signedOf (ElemTy.width ty) x / (2 : Int) ^ laneShift ty y), 0)

/-- VCMP: the bits of inactive lanes and those from L on are 0. -/
def execVcmp (cond : CmpCond) (ty : ElemTy) (d : KReg) (a b : VReg) (m : Option KReg) (s : State) : Out :=
  let w := ElemTy.width ty
  let x := s.me
  let rs : List Res := (span 0 (lanesAt w)).map fun i =>
    if x.active m i then
      let r := elemCmp cond ty (laneOf w (x.vec a) i) (laneOf w (x.vec b) i)
      (r.1.toNat, r.2)
    else (0, 0)
  s.finish 8 (flagsOf rs) (·.writeK d (BitVec.ofNat 64 (packLanes 1 (rs.map Prod.fst))))

def execVsel (ty : ElemTy) (d a b : VReg) (c : KReg) (s : State) : Out :=
  let w := ElemTy.width ty
  let x := s.me
  s.lanewise w d none fun i => (if (x.readK c).toNat.testBit i then laneOf w (x.vec a) i else laneOf w (x.vec b) i, 0)

/-! ### VPRM (R218 to R220) -/

def execVbcast (ty : ElemTy) (d : VReg) (a : GReg) (m : Option KReg) (s : State) : Out :=
  s.lanewise (ElemTy.width ty) d m fun _ => ((s.me.readG a).toNat % 2 ^ ElemTy.width ty, 0)

/-- The lane that g[b] names. -/
def Ctx.laneIndex (x : Ctx) (ty : ElemTy) (b : GReg) : Nat := (x.readG b).toNat % lanesAt (ElemTy.width ty)

def execVext (ty : ElemTy) (d : GReg) (a : VReg) (b : GReg) (s : State) : Out :=
  s.setG 8 d (ElemTy.extend ty (laneOf (ElemTy.width ty) (s.me.vec a) (s.me.laneIndex ty b)))

def execVins (ty : ElemTy) (d : VReg) (a b : GReg) (s : State) : Out :=
  let w := ElemTy.width ty
  let x := s.me
  let j := x.laneIndex ty b
  s.lanewise w d none fun i => (if i = j then (x.readG a).toNat % 2 ^ w else laneOf w (x.vec d) i, 0)

def execVshuf (ty : ElemTy) (d a b : VReg) (m : Option KReg) (s : State) : Out :=
  let w := ElemTy.width ty
  let x := s.me
  s.lanewise w d m fun i => (laneOf w (x.vec a) (laneOf w (x.vec b) i % lanesAt w), 0)

/-- The active lanes of v[a] in ascending order. -/
def Ctx.actives (x : Ctx) (ty : ElemTy) (a : VReg) (m : Option KReg) : List Nat :=
  let w := ElemTy.width ty
  ((span 0 (lanesAt w)).filter (x.active m)).map (laneOf w (x.vec a))

def execVred (op : RedOp) (ty : ElemTy) (d : GReg) (a : VReg) (m : Option KReg) (s : State) : Out :=
  let r := reduceList op ty (s.me.actives ty a m)
  s.finish 8 r.2 (·.writeG d (ElemTy.extend ty r.1))

/-- Put values in turn into the active lanes of a list of lanes. -/
def spread (act : Nat → Bool) : List Nat → List Nat → Nat → List Nat
  | [], _, _ => []
  | o :: os, vs, i =>
    if act i then (match vs with
      | [] => o :: spread act os [] (i + 1)
      | v :: r => v :: spread act os r (i + 1))
    else o :: spread act os vs (i + 1)

def execVscan (op : RedOp) (ty : ElemTy) (d a : VReg) (m : Option KReg) (s : State) : Out :=
  let w := ElemTy.width ty
  let x := s.me
  let rs := scanList op ty (x.actives ty a m)
  let old := (span 0 (lanesAt w)).map (laneOf w (x.vec d))
  s.finish 8 (flagsOf rs) (·.writeV d (BitVec.ofNat 512 (packLanes w (spread (x.active m) old (rs.map Prod.fst) 0))))

def execVcmprs (ty : ElemTy) (d a : VReg) (m : Option KReg) (s : State) : Out :=
  .next (s.done 8 (·.writeV d (BitVec.ofNat 512 (packLanes (ElemTy.width ty) (s.me.actives ty a m)))))

/-! ### VFN (R221) -/

/-- A function of an IEEE type; other types are not accepted. -/
def ieee1 (f : FFmt → Nat → Res) (ty : ElemTy) (x : Nat) : Res :=
  match ElemTy.fmt ty with
  | some t => f t x
  | none => (x, 0)

def execVrcp (ty : ElemTy) (d a : VReg) (m : Option KReg) (s : State) : Out := s.lane1 ty d a m (ieee1 FFmt.rcp ty)
def execVrsq (ty : ElemTy) (d a : VReg) (m : Option KReg) (s : State) : Out := s.lane1 ty d a m (ieee1 FFmt.rsq ty)
def execVex2 (ty : ElemTy) (d a : VReg) (m : Option KReg) (s : State) : Out := s.lane1 ty d a m (ieee1 FFmt.exp2 ty)
def execVlg2 (ty : ElemTy) (d a : VReg) (m : Option KReg) (s : State) : Out := s.lane1 ty d a m (ieee1 FFmt.log2 ty)

/-! ### Conversions (R222, R223) -/

/-- Convert n lanes of ws bits to lanes of wd bits: the active ones from `f`, the others keep the old lanes of v[d]; every bit
above them becomes zero. -/
def State.convert (s : State) (n ws wd : Nat) (d a : VReg) (m : Option KReg) (f : Nat → Res) : Out :=
  let x := s.me
  let rs := (span 0 n).map fun i => if x.active m i then f (laneOf ws (x.vec a) i) else (laneOf wd (x.vec d) i, 0)
  s.finish 8 (flagsOf rs) (·.writeV d (BitVec.ofNat 512 (packLanes wd (rs.map Prod.fst))))

def execVcvt (ty ty2 : ElemTy) (d a : VReg) (m : Option KReg) (s : State) : Out :=
  let wd := ElemTy.width ty
  let ws := ElemTy.width ty2
  s.convert (512 / max ws wd) ws wd d a m (elemConv ty2 ty)

def execVlog (ty : ElemTy) (d a : VReg) (b : GReg) (m : Option KReg) (s : State) : Out :=
  s.convert 16 32 (ElemTy.width ty) d a m fun x => logCode x (logOf ty) (scaleOf (s.me.readG b))

def execVexp (ty : ElemTy) (d a : VReg) (b : GReg) (m : Option KReg) (s : State) : Out :=
  s.convert 16 (ElemTy.width ty) 32 d a m fun c => linFromLog c (logOf ty) (scaleOf (s.me.readG b))

/-! ### Masks (R224) -/

def execKand (d a b : KReg) (s : State) : Out := .next (s.done 8 fun x => x.writeK d (x.readK a &&& x.readK b))
def execKor (d a b : KReg) (s : State) : Out := .next (s.done 8 fun x => x.writeK d (x.readK a ||| x.readK b))
def execKxor (d a b : KReg) (s : State) : Out := .next (s.done 8 fun x => x.writeK d (x.readK a ^^^ x.readK b))
def execKnot (d a : KReg) (s : State) : Out := .next (s.done 8 fun x => x.writeK d (~~~(x.readK a)))
def execKmov (f : KMovForm) (s : State) : Out :=
  match f with
  | .kg d a => .next (s.done 8 fun x => x.writeK d (x.readG a))
  | .gk d a => .next (s.done 8 fun x => x.writeG d (x.readK a))
  | .kk d a => .next (s.done 8 fun x => x.writeK d (x.readK a))
def execKpop (d : GReg) (a : KReg) (s : State) : Out := s.setG 8 d (BitVec.ofNat 64 (popCount 64 (s.me.readK a).toNat))
def execKset (d : KReg) (a : GReg) (s : State) : Out :=
  .next (s.done 8 fun x => x.writeK d (BitVec.ofNat 64 (2 ^ min (x.readG a).toNat 64 - 1)))

/-! ### Gathers and scatters (R225 to R227) -/

/-- The lanes of a gather or scatter that are not skipped, with their ea. -/
def Ctx.gatherLanes (x : Ctx) (b : VReg) (m : MemAddr) (off : BitVec 12) : List (Nat × Word) :=
  let base := MemAddr.ea m x (off.signExtend 64)
  ((span 0 16).filter fun i => laneOf 32 (x.vec b) i != 0xFFFFFFFF).map fun i =>
    (i, base + BitVec.ofNat 64 (laneOf 32 (x.vec b) i))

/-- The refusal of the lowest lane that fails (R375). -/
def Ctx.laneRefusal (x : Ctx) (m : MemAddr) (k : RefKind) : List (Nat × Word) → Option (BitVec 8 × Word)
  | [] => none
  | (_, ea) :: r => match x.accessRefusal m k ea.toNat 4 with
    | some cause => some (cause, ea)
    | none => x.laneRefusal m k r

/-- The address of a lane in a gather message: an S offset of a core, or a virtual address. -/
def laneAddr (core off : Nat) : Nat := 2 ^ 18 * core + off
def laneVa (va : Nat) : Nat := 2 ^ 60 + va
/-- The destination of a lane. -/
def laneDest (a : Nat) : Dest := if 2 ^ 60 ≤ a then .home (pageOf (a - 2 ^ 60)) else .core (a / 2 ^ 18)

/-- The place of a lane: what a message still has to read, the bytes read here, and whether it lies outside the job. -/
def State.gatherLane (s : State) (m : MemAddr) (lane : Nat) (ea : Word) : Option Nat × List (Nat × Nat) × Bool :=
  let k := s.core s.myCore
  match s.place s.cur m ea.toNat 4 with
  | .bank off =>
    let v := overlay (k.s.cells.read off 4) (s.ownBytes (some s.myCore) off 4)
    (none, (span 0 4).map fun i => (4 * lane + i, v / 256 ^ i % 256), false)
  | .other core off => (some (laneAddr core off), [], false)
  | .glob va => (some (laneVa va), [], false)
  | .both _ _ va => (some (laneVa va), [], false)
  | .outside _ _ => (none, [], true)

/-- A lane at the core's own bank would consume a poisoned word. -/
def State.lanePoisoned (s : State) (m : MemAddr) (ea : Word) : Bool :=
  match s.place s.cur m ea.toNat 4 with
  | .bank off => (s.core s.myCore).s.consumes off 4 (s.ownBytes (some s.myCore) off 4)
  | .other _ _ => false
  | .glob _ => false
  | .both _ _ _ => false
  | .outside _ _ => false

/-- The lanes at the core's own bank are read: single-bit errors met are written back (R93). -/
def State.lanesBack (s : State) (m : MemAddr) (lanes : List (Nat × Word)) : State :=
  lanes.foldl (fun t e => match s.place s.cur m e.2.toNat 4 with
    | .bank off => t.readBackS s.myCore off 4
    | .other _ _ => t
    | .glob _ => t
    | .both _ _ _ => t
    | .outside _ _ => t) s

/-- The vector of the bytes that a gather has read. -/
def gathered (done : List (Nat × Nat)) : VWord := BitVec.ofNat 512 (overlay 0 done)

/-- VLDX: the lanes of the core's own S are read at once, the others by one message that visits their destinations in lane
order. -/
def execVldx (d b : VReg) (m : MemAddr) (off : BitVec 12) (s : State) : Out :=
  let x := s.me
  let lanes := x.gatherLanes b m off
  match x.laneRefusal m .load lanes with
  | some (cause, ea) => s.refuse cause ea
  | none =>
    if !x.waitCountZero m.wc then .next (s.waits .counters)
    else match lanes.find? fun e => s.lanePoisoned m e.2 with
      | some e => s.refuse causePoison e.2
      | none =>
        let parts := lanes.map fun e => (e.1, s.gatherLane m e.1 e.2)
        let todo := parts.filterMap fun p => p.2.1.map fun a => (p.1, a)
        let done := (parts.map fun p => p.2.2.1).flatten
        let dzr := parts.any fun p => p.2.2.2
        -- an ACQ applies to the lanes read here too, once all have returned (R227)
        let t := (s.lanesBack m lanes).acquireHere (m.ord == .acq || m.ord == .ar)
        match todo with
        | [] => .next (t.done 8 fun x => (x.writeV d (gathered done)).raise (flagIf dzr fDZR))
        | (_, a) :: _ => .next (t.ask (.vldx d b m off) (laneDest a) (.gather todo done dzr []))

/-- The kind of posted store that a lane is, if it is one. -/
def State.laneKind (s : State) (m : MemAddr) (ea : Word) : Option PostKind :=
  match s.place s.cur m ea.toNat 4 with
  | .bank _ => none
  | .other core _ => some (kindTo s.cur core)
  | .glob _ => some .mem
  | .both _ _ _ => some .mem
  | .outside _ _ => none

/-- The counters and the store buffer can take every posted lane at once. -/
def State.scatterRoom (s : State) (m : MemAddr) (lanes : List (Nat × Word)) : Bool :=
  let kinds := lanes.filterMap fun e => s.laneKind m e.2
  let room (k : PostKind) : Bool := decide ((s.me.count k).toNat + (kinds.filter (· == k)).length ≤ 4095)
  room .near && room .far && room .mem && (kinds.isEmpty || s.bufferTakes s.cur kinds.length)

/-- A lane at the core's own bank would pass an older posted store of the context (R94). -/
def State.lanePasses (s : State) (m : MemAddr) (ea : Word) : Bool :=
  match s.place s.cur m ea.toNat 4 with
  | .bank off => s.passes off 4
  | .other _ _ => false
  | .glob _ => false
  | .both _ _ _ => false
  | .outside _ _ => false

/-- Perform one lane of a scatter; none when the log is full. -/
def State.scatterLane (s : State) (m : MemAddr) (ea : Word) (v : Nat) : Option State :=
  match s.place s.cur m ea.toNat 4 with
  | .bank off => match s.bankStore s.cur none s.myCore off 4 v .plain with
    | .done t _ => some t
    | .poison => some (s.poisonedStore ea)
    | .wait => some s
    | .full => none
  | .other core off => some (s.postStore s.cur (kindTo s.cur core) (.core core) (some core) off 4 v .plain ea [])
  | .glob va => some (s.postStore s.cur .mem (.home (pageOf va)) none va 4 v .plain ea [])
  | .both _ _ va => some (s.postStore s.cur .mem (.home (pageOf va)) none va 4 v .plain ea [])
  | .outside id off => some (s.dropped s.cur (outsideCeaddr id off))

/-- VSTX: every lane in ascending order. -/
def execVstx (d b : VReg) (m : MemAddr) (off : BitVec 12) (s : State) : Out :=
  let x := s.me
  let lanes := x.gatherLanes b m off
  match x.laneRefusal m .store lanes with
  | some (cause, ea) => s.refuse cause ea
  | none =>
    if !x.waitCountZero m.wc then .next (s.waits .counters)
    else if !s.scatterRoom m lanes then .next (s.waits .postRoom)
    else if lanes.any fun e => s.lanePasses m e.2 then .next (s.waits .older)
    else match lanes.foldl (fun (t : Option State) e => t.bind fun u => u.scatterLane m e.2 (laneOf 32 (x.vec d) e.1)) (some s) with
      | some t => .next (t.stampHere.done 8 fun x => x)
      | none => .next s.waitsLog

end Sys2Proof.Machine
end

