-- ==== Sys2Proof/Machine/Sidings.lean ====
section
/-! DEFINITION. What the sidings of a core's pipe compute (R40). -/

namespace Sys2Proof.Machine

/-- The meaning of an instruction that a siding serves (R40). -/
def Instr.sided (i : Instr) (s : State) : Option Out :=
  match i with
  | .add d a b => some (execAdd d a b s)
  | .sub d a b => some (execSub d a b s)
  | .iand d a b => some (execIand d a b s)
  | .ior d a b => some (execIor d a b s)
  | .ixor d a b => some (execIxor d a b s)
  | .shl d a b => some (execShl d a b s)
  | .shr d a b => some (execShr d a b s)
  | .sra d a b => some (execSra d a b s)
  | .rol d a b => some (execRol d a b s)
  | .min d a b => some (execMin d a b s)
  | .max d a b => some (execMax d a b s)
  | .minn d a b => some (execMinn d a b s)
  | .maxn d a b => some (execMaxn d a b s)
  | .slt d a b => some (execSlt d a b s)
  | .sltn d a b => some (execSltn d a b s)
  | .seq d a b => some (execSeq d a b s)
  | .sne d a b => some (execSne d a b s)
  | .addw d a b => some (execAddw d a b s)
  | .subw d a b => some (execSubw d a b s)
  | .sel d a b c => some (execSel d a b c s)
  | .clz d a => some (execClz d a s)
  | .ctz d a => some (execCtz d a s)
  | .popc d a => some (execPopc d a s)
  | .abs d a => some (execAbs d a s)
  | .sext ty d a => some (execSext ty d a s)
  | .zext ty d a => some (execZext ty d a s)
  | .addi d a imm => some (execAddi d a imm s)
  | .andi d a imm => some (execAndi d a imm s)
  | .ori d a imm => some (execOri d a imm s)
  | .xori d a imm => some (execXori d a imm s)
  | .shli d a sh => some (execShli d a sh s)
  | .shri d a sh => some (execShri d a sh s)
  | .srai d a sh => some (execSrai d a sh s)
  | .roli d a sh => some (execRoli d a sh s)
  | .slti d a imm => some (execSlti d a imm s)
  | .li d imm => some (execLi d imm s)
  | .bfx d a pos w1 => some (execBfx d a pos w1 s)
  | .bfi d a pos w1 => some (execBfi d a pos w1 s)
  | .lil d imm => some (execLil d imm s)
  | .lpc d disp => some (execLpc d disp s)
  | .mul d a b => some (execMul d a b s)
  | .mulh d a b => some (execMulh d a b s)
  | .mulhn d a b => some (execMulhn d a b s)
  | .mulw d a b => some (execMulw d a b s)
  | .mad d a b c => some (execMad d a b c s)
  | .div d a b => some (execDiv d a b s)
  | .divn d a b => some (execDivn d a b s)
  | .rem d a b => some (execRem d a b s)
  | .remn d a b => some (execRemn d a b s)
  | .fadd d a b => some (execFadd d a b s)
  | .fsub d a b => some (execFsub d a b s)
  | .fmul d a b => some (execFmul d a b s)
  | .ffma d a b c => some (execFfma d a b c s)
  | .fmin d a b => some (execFmin d a b s)
  | .fmax d a b => some (execFmax d a b s)
  | .feq d a b => some (execFeq d a b s)
  | .flt d a b => some (execFlt d a b s)
  | .fle d a b => some (execFle d a b s)
  | .fcvti ty d a => some (execFcvti ty d a s)
  | .fcvtf ty d a => some (execFcvtf ty d a s)
  | .fclass d a => some (execFclass d a s)
  | .fdiv d a b => some (execFdiv d a b s)
  | .fsqrt d a => some (execFsqrt d a s)
  | .br disp => some (execBr disp s)
  | .brl d disp => some (execBrl d disp s)
  | .beq a b disp => some (execBeq a b disp s)
  | .bne a b disp => some (execBne a b disp s)
  | .blt a b disp => some (execBlt a b disp s)
  | .bge a b disp => some (execBge a b disp s)
  | .bltn a b disp => some (execBltn a b disp s)
  | .bgen a b disp => some (execBgen a b disp s)
  | .jr a => some (execJr a s)
  | .jrl d a => some (execJrl d a s)
  | .loop a disp => some (execLoop a disp s)
  | .loopi cnt disp => some (execLoopi cnt disp s)
  | .vadd ty d a b m => some (execVadd ty d a b m s)
  | .vsub ty d a b m => some (execVsub ty d a b m s)
  | .vmul ty d a b m => some (execVmul ty d a b m s)
  | .vfma ty d a b c m => some (execVfma ty d a b c m s)
  | .vmin ty d a b m => some (execVmin ty d a b m s)
  | .vmax ty d a b m => some (execVmax ty d a b m s)
  | .vabs ty d a m => some (execVabs ty d a m s)
  | .vneg ty d a m => some (execVneg ty d a m s)
  | .vand ty d a b m => some (execVand ty d a b m s)
  | .vor ty d a b m => some (execVor ty d a b m s)
  | .vxor ty d a b m => some (execVxor ty d a b m s)
  | .vshl ty d a b m => some (execVshl ty d a b m s)
  | .vshr ty d a b m => some (execVshr ty d a b m s)
  | .vsra ty d a b m => some (execVsra ty d a b m s)
  | .vcmp cond ty d a b m => some (execVcmp cond ty d a b m s)
  | .vsel ty d a b c => some (execVsel ty d a b c s)
  | .vbcast ty d a m => some (execVbcast ty d a m s)
  | .vext ty d a b => some (execVext ty d a b s)
  | .vins ty d a b => some (execVins ty d a b s)
  | .vshuf ty d a b m => some (execVshuf ty d a b m s)
  | .vred op ty d a m => some (execVred op ty d a m s)
  | .vscan op ty d a m => some (execVscan op ty d a m s)
  | .vcmprs ty d a m => some (execVcmprs ty d a m s)
  | .vrcp ty d a m => some (execVrcp ty d a m s)
  | .vrsq ty d a m => some (execVrsq ty d a m s)
  | .vex2 ty d a m => some (execVex2 ty d a m s)
  | .vlg2 ty d a m => some (execVlg2 ty d a m s)
  | .kand d a b => some (execKand d a b s)
  | .kor d a b => some (execKor d a b s)
  | .kxor d a b => some (execKxor d a b s)
  | .knot d a => some (execKnot d a s)
  | .kmov f => some (execKmov f s)
  | .kpop d a => some (execKpop d a s)
  | .kset d a => some (execKset d a s)
  | .vcvt ty ty2 d a m => some (execVcvt ty ty2 d a m s)
  | .vlog ty d a b m => some (execVlog ty d a b m s)
  | .vexp ty d a b m => some (execVexp ty d a b m s)
  | .idrd d => some (execIdrd d s)
  | .nop => some (execNop s)
  | .vldx d b m off => some (execVldx d b m off s)
  | i => match Instr.ref i with
    | some r => if r.kind = .load ∧ r.m.fe ≠ .second then some (s.load i) else none
    | none => none

end Sys2Proof.Machine
end

