-- ==== Sys2Proof/Machine/Issue.lean ====
section
/-! DEFINITION. Which rows of the opcode table are events of the module, and the issue of a context's next instruction (R63, R64,
R290, R349, R353 to R358, R366, R372). -/

namespace Sys2Proof.Machine

/-- The row is an event of the module, not an instruction. -/
def Instr.isEvent : Instr → Bool
  | .lapStart .. | .sidingOutputReentry .. | .tapeResultInjection .. | .instructionRetire .. | .tagFree ..
  | .fetchBlockArrival .. | .contextRejoin .. | .preciseTrapTaken .. | .impreciseTrapTaken .. | .discardedWrite ..
  | .timingReplay .. | .detectorRateReport .. | .priorityPreemption .. | .coreRestore .. | .quotaPreemption ..
  | .quotaRefill .. | .debuggerHalt .. | .debuggerResume .. | .bpaddrWrite .. | .bpctlWrite .. | .coreRemap ..
  | .coreRetirement .. | .remoteWriteArrival .. | .postedStoreAck .. | .remoteRequestArrival ..
  | .remoteReplyArrival .. | .homeAccess .. | .fullEmptyServe .. | .retryNotice .. | .granuleArrival ..
  | .deliveryAck .. | .granuleReturn .. | .refillRefused .. | .refillRequest .. | .channelRefill ..
  | .namedMessageArrival .. | .deterministicUpdateArrival .. | .roundCloseVote .. | .roundClose .. | .roundApply ..
  | .roundComplete .. | .fenceStampRequest .. | .fenceStampReturn .. | .squadAnswer .. | .squadMessageArrival ..
  | .generationComplete .. | .squadDeparture .. | .engineCommandStart .. | .reservationGrant ..
  | .engineCommandComplete .. | .scheduleEntryFire .. | .pageWait .. | .pageWake .. | .homeMove .. | .scrub ..
  | .waitLimit .. | .sealInterval .. | .sealPrepare .. | .dieReady .. | .sealReady | .sealCommit .. | .sealAbort
  | .resealTimer | .rollback | .containment .. | .domainFault .. | .coreFault .. | .watchdogStage1 ..
  | .watchdogStage2 .. | .watchdogStage3 .. | .replicaDigest .. | .provisionalSeal | .infieldTest ..
  | .thermalReading .. | .throttleStep .. | .currentSample .. | .fatalError .. | .frequencyChange ..
  | .routerTableSwap .. | .meshFlitRetry .. | .ilufoskoFlitReceive .. | .ilufoskoNak .. | .ilufoskoPortDown ..
  | .commandRead .. | .launch .. | .graph .. | .waitval .. | .waitvalSatisfied .. | .writeval .. | .cancelLaunch ..
  | .cancelGraph .. | .cancelPhase .. | .cancelJob .. | .sealreq .. | .commandFence .. | .launchStart ..
  | .corePreparation .. | .unitStart .. | .batonStart .. | .batonVisit .. | .batonReturn .. | .phaseEndNotice ..
  | .jobendEffect .. | .jobEnd .. | .mdom .. | .mlock .. | .mlockTimeout | .doorbell .. | .jobnew .. | .qreset ..
  | .jobend .. | .windowWrite .. | .powerOn .. | .powerIdle .. | .powerStandby .. | .powerOff .. | .debugOff ..
  | .debugNonInvasive .. | .debugInvasive .. | .lifecycleDeployed .. | .lifecycleVendorDebug .. | .lifecycleRma ..
  | .lifecycleRetired .. | .nonce .. | .attest .. | .keyload .. | .extend .. | .mreqMalformed .. | .powerOnBoot
  | .pipeCycle .. | .batchReleased .. | .debuggerStep .. | .debuggerWrite .. | .newImage .. => true
  | _ => false

/-! ### Charges (R290) -/

/-- The space field of a memory instruction. -/
def Instr.space : Instr → Option Space
  | .vldx _ _ m _ => some m.space
  | .vstx _ _ m _ => some m.space
  | i => (Instr.ref i).map fun r => r.m.space

/-- The charge of an issue (R290). -/
def Instr.charge (i : Instr) : Nat :=
  1 + (if Instr.siding i = some .vec then 3 else 0) + match Instr.space i with
    | none => 0
    | some .localS => 0
    | some .clusterS => 2
    | some .remoteS => 2
    | some .global => 8

/-! ### Who may issue (R53, R289, R291, R364, R433) -/

/-- The quota of a context is in force and used up. -/
def Ctx.spent (x : Ctx) : Bool := x.row.v && x.quota != 0xFFFFFFFF && x.cquota == 0

/-- Nothing holds the context: no quota, spent or waiting for its refill (R364, R412), no debugger, seal or pre-emption, its cluster's
clocks run, and its core's pipe does not stand still for a replay (R361). -/
def State.mayRun (s : State) (c : CtxId) : Bool :=
  let x := s.ctx c
  let q := s.cluster (clusterOf c)
  !x.quotaHeld && !x.spent && (!x.dbgHalt || x.stepping) && !x.sealHeld && !x.row.pre && !q.tripped && !q.failed && s.mgmt.pwr == .on &&
    (s.core (coreOf c)).pipe.replay == 0

/-- The context may issue: in the rotation, or at a wait whose condition it tests again, and nothing holds it. -/
def State.eligible (s : State) (c : CtxId) : Bool :=
  (match (s.ctx c).run with
    | .active => true
    | .waiting w => (match w with
      | .lap => false
      | .page _ => false
      | .granule _ | .mailbox _ | .generation _ _ | .channel _ | .named _ | .reservation _ | .counters | .postRoom | .queueRoom
      | .commands | .batch | .stamp | .round | .seal _ _ | .answer | .log | .older | .fetch => true)
    | .idle => false
    | .reply _ => false
    | .halted => false
    | .killed => false) && s.mayRun c

/-- An imprecise trap can reach the context: it runs or is asleep in a wait, and nothing holds it (R357). -/
def State.interruptible (s : State) (c : CtxId) : Bool :=
  (match (s.ctx c).run with
    | .active => true
    | .waiting _ => true
    | .reply _ => true
    | .idle => false
    | .halted => false
    | .killed => false) && s.mayRun c

/-! ### Stopping a context at its boundary (R351, R357, R364) -/

/-- The outcomes of a generation that have been sent to a context and not reached it are kept by the directory (R405). -/
def State.keepAnswers (s : State) (c : CtxId) : State :=
  let q := (s.core (coreOf c)).pipe.asked (kOf c)
  match s.awaited c q with
  | none => s
  | some i =>
    if !observesGeneration i || (match i with
      | .sqwait _ => true
      | _ => false) then s
    else
      let x := match q with
        | some q => (s.packetState c q .active).ctx c
        | none => s.ctx c
      let h := (x.handleOf i).toNat
      s.net.foldl (fun t m => match m.body with
        | .answer value _ flags reason true gen =>
          if s.sentBy c m then
            (match t.squad h with
              | none => t
              | some q => t.setSquad h (some { q with kept := q.kept ++
                  [Kept.mk c m.launch gen true false value flags reason] }))
          else t
        | _ => t) s

/-- What a context outside the pipe has asked for will be performed whatever becomes of it: a reservation or an atomic that has been sent, or
a load that has cleared a full/empty bit or a squad instruction that returns at once whose answer is on its way (R190, R265, R357, R364). -/
def State.committed (s : State) (c : CtxId) : Bool :=
  match (s.ctx c).run with
  | .reply i => (match Instr.ref i with
    | some r => r.kind.atomic || (r.m.fe == .second && s.net.any fun m => s.sentBy c m && match m.body with
      | .reply .. => true
      | _ => false)
    | none => isSquad i && !observesGeneration i && s.net.any fun m => s.sentBy c m && match m.body with
      | .answer .. => true
      | _ => false)
  | .idle => false
  | .active => false
  | .waiting _ => false
  | .halted => false
  | .killed => false

/-- Kill the instruction at a context's boundary and every younger one: a recorded wait is withdrawn, what it has asked for and not been
given is given up, and it will issue again. What has been performed stays pending; the pc is that of the next instruction to issue
(R357, R364). -/
def State.killBoundary (s : State) (c : CtxId) : State :=
  if s.windowEmpty c && s.committed c then s
  else
    let t := (((s.keepAnswers c).killPipe c).forget c).withdraw c
    State.settle c fillerFuel (if s.windowEmpty c then t.modCtx c fun x => { x with kick := none, run := x.runBack } else t)

/-- Take the oldest pending imprecise trap of a context at task level, at its boundary (R356, R357). A context outside the pipe whose
instruction has been performed takes it after the reply; in the pipe such an instruction completes before the handler issues (R353). -/
def State.takeImprecise (s : State) (c : CtxId) : State :=
  let x := s.ctx c
  match x.imprecise with
  | [] => s
  | p :: r =>
    if x.hl then s
    else
      let t := s.killBoundary c
      if (t.ctx c).inReply && t.windowEmpty c then s
      else (t.modCtx c fun y => { y with imprecise := r }).trapImprecise c p.cause p.ceaddr

/-! ### Breakpoint comparators (R365, R366) -/

/-- The lowest-numbered comparator that matches an issue of a context at an address. -/
def Core.matching (k : Core) (c : CtxId) (addr : Word) : Option (Nat × Breakpoint) :=
  ((span 0 4).map fun n => (n, tget Breakpoint.zero k.bp n)).find? fun e =>
    e.2.en && e.2.ctx.getLsbD (kOf c) && e.2.addr == addr.extractLsb' 2 62

/-! ### The issue of one instruction -/

/-- The words of an instruction packet are latched, and the packet takes a tag and the charge of its issue (R36, R290). -/
def State.latch (s : State) (ws : List Nat) (n : Nat) : State :=
  (s.modMe fun x => ({ x with ir := ws.map (BitVec.ofNat 32) } : Ctx).charge n).takeTag s.cur

/-- A comparator's match stops the issue: a BREAKPOINT trap, or a halt for the debugger; either sets BPS. -/
def State.breakAt (s : State) (taken : List Nat) (n : Nat) (b : Breakpoint) : Out :=
  if b.act then
    let t := (s.latch taken 1).trap causeBreak (BitVec.ofNat 64 (2 ^ 63 + n)) s.me.pc
    .next (if s.me.hl then t else t.modMe fun x => { x with bps := true, bpArmed := false })
  else .next ((s.latch taken 1).modMe fun x => { x with dbgHalt := true, bps := true, bpArmed := false })

/-- What an entry of a context comes to (R63, R366, R372, R421): an instruction with its words; a packet marked at its issue; a page that
is not resident; a comparator's match; or nothing while the words have still to come. -/
inductive Entry where
  | instr (i : Instr) (taken : List Nat)
  | marked (cause : BitVec 8) (ceaddr cepc : Word) (taken : List Nat)
  | page (n : Nat)
  | broken (taken : List Nat) (n : Nat) (b : Breakpoint)
  | absent
  deriving DecidableEq, Repr

/-- ceaddr of the refusal of an instruction that needs handler level (R159, R369, R374): the number of the CSR that a write names, otherwise 0. -/
def Instr.privileged (i : Instr) : Option Word :=
  let write (csr : Csr) : Option Word := if Csr.taskWritable csr then none else some (BitVec.ofNat 64 (Csr.code csr))
  match i with
  | .csrwr _ csr _ => write csr
  | .csrset _ csr _ => write csr
  | .csrclr _ csr _ => write csr
  | .segld .. | .ctxsave _ | .ctxload _ | .halt | .rte => some 0
  | _ => none

/-- The words at an address are an instruction's words within the segment: their contents, then the decoder, then its level (R367). -/
def State.entryWords (s : State) (c : CtxId) (ws : List Nat) : Entry :=
  let pc := (s.ctx c).pc
  let taken := takenWords ws
  match (span 0 taken.length).find? fun n => s.fetchPoisoned c (pc.toNat + 4 * n) 4 with
  | some n => .marked causePoison (pc + BitVec.ofNat 64 (4 * n)) pc taken
  | none => match decode ws with
    | .error e => .marked causeIllegal (e.ceaddr 0) pc taken
    | .ok (i, _) => match if (s.ctx c).hl then none else Instr.privileged i with
      | some ceaddr => .marked causePrivileged ceaddr pc taken
      | none => .instr i taken

/-- The entry of a context at its pc, after filler has been passed, in the order of R367: the fetch of its words, the alignment of the
address, a comparator's match, the instruction. -/
def State.entry (s : State) (c : CtxId) : Entry :=
  let x := s.ctx c
  let pc := x.pc - BitVec.ofNat 64 (x.pc.toNat % 4)
  let page := pageOf (s.codeVa c pc.toNat)
  match s.fetchCheck c pc.toNat with
  | some (cause, ceaddr) => .marked cause ceaddr pc []
  | none =>
    if pc ≠ x.pc then .marked causeEntry x.pc pc []
    else if !(s.page page).resident then .page page
    else
      let ws := s.codeWords c pc.toNat
      let w := ws.headD 0
      if w = 0 then .absent
      else match s.fetchChecks c pc.toNat (takenWords ws).length with
        | some (cause, ceaddr) => .marked cause ceaddr pc []
        | none =>
          if w % 8 = 4 then .marked causeEntry pc pc []
          else match if x.bps && x.bpArmed then none else (s.core (coreOf c)).matching c pc with
            | some (n, b) => .broken (takenWords ws) n b
            | none => s.entryWords c ws

/-- A context waits for a page of its code (R394). -/
def State.waitsPage (s : State) (c : CtxId) (page : Nat) : State :=
  (s.modPage page fun p => { p with waiters := p.waiters ++ [c] }).modCtx c (·.wait (.page page))

/-- The skip rule of a breakpoint match ends with an issue (R366). -/
def Ctx.skipped (x : Ctx) : Ctx := if x.bps && x.bpArmed then { x with bps := false, bpArmed := false } else x

/-- Blocks with a poisoned word leave a context's fetch buffer and its cluster's instruction cache when an instruction is refused for one, so
that it is fetched anew after the handler’s return (DESIGN CHOICE, log entry 61). -/
def State.dropPoisoned (s : State) (c : CtxId) (cause : BitVec 8) : State :=
  let clean (m : SMap (BitVec 260)) : SMap (BitVec 260) := m.filter fun e => decide (e.2.toNat < 2 ^ 256)
  if cause ≠ causePoison then s
  else (s.modCtx c fun x => { x with fetchBuf := clean x.fetchBuf }).modCluster (clusterOf c) fun q => { q with icache := clean q.icache }

/-- Issue whole at the pc after filler has been passed: the fetch buffer takes what the cache holds, then the entry. -/
def State.issueAt (s0 : State) (run : Instr → State → Out) : Out :=
  let s := s0.fetchHits s0.cur
  match s.entry s.cur with
  | .absent => .next s
  | .page n => .next (s.waitsPage s.cur n)
  | .broken taken n b => s.breakAt taken n b
  | .marked cause ceaddr cepc taken => .next ((((s.dropPoisoned s.cur cause).modMe Ctx.skipped).latch taken 1).trap cause ceaddr cepc)
  | .instr i taken => run i ((s.modMe Ctx.skipped).latch taken (Instr.charge i))

end Sys2Proof.Machine
end

