-- ==== Sys2Proof/Machine/Arrive.lean ====
section
/-! DEFINITION. Messages at their destinations: writes and requests at a core's bank unit (R96, R439), accesses at the home of a
page (R106, R108, R394, R399, R421), acknowledgements and replies at the core that sent them (R100, R188), channels (R203,
R204), named messages (R205), page waits (R394 to R396), the move of a home (R107) and the fence sequencer (R199, R266). -/

namespace Sys2Proof.Machine

/-- Reply to a read or an atomic: the value, the flags and the mark. -/
def State.reply (s : State) (m : Msg) (v : Nat) (f : Flags) (mark : ReplyMark) : State := s.answerTo m (.reply m.id v f mark)

/-- A message is no longer a carried write. -/
def State.uncarry (s : State) (id : Nat) : State :=
  { s with dies := s.dies.map fun e => (e.1, { e.2 with carried := e.2.carried.filter fun i => i != id }) }

/-- Acknowledge a posted operation; the counter of a carried write has fallen before (R116). -/
def State.ack (s : State) (m : Msg) (k : PostKind) : State :=
  if s.dies.any fun d => d.2.carried.contains m.id then
    ((s.took m).uncarry m.id).modSenderCore m fun q => { q with storeBuf := q.storeBuf.filter fun e => e.msg != m.id }
  else s.answerTo m (.ack k m.id)

/-- The destination of a message, when it is a core whose present owner it is for: a message for a core that is pre-empted by
priority waits at the network interface (R289). -/
def State.atCore (s : State) (m : Msg) : Option CoreId :=
  match m.dest with
  | .core c => if s.waitsAt c m.launch then none else some c
  | .home _ => none
  | .port _ => none
  | .directory _ => none
  | .sequencer => none
  | .controller _ => none
  | .ctx _ => none

/-- The page of a message that has reached a home. -/
def Msg.homePage (m : Msg) : Option Nat :=
  match m.dest with
  | .home p => some p
  | .core _ => none
  | .port _ => none
  | .directory _ => none
  | .sequencer => none
  | .controller _ => none
  | .ctx _ => none

/-- A remote qualified access waits: it is recorded in the target's table, or goes back with a retry notice (R96). -/
def State.recordRemote (s : State) (m : Msg) (core : CoreId) (off size : Nat) (wantFull clear : Bool) (data : Nat) : State :=
  let w : FeWaiter :=
    { ctx := m.src, msg := some m.id, off := off, size := size, wantFull := wantFull, clear := clear, data := data }
  match (s.core core).record w with
  | some k => (s.setCore core k).holdMsg m
  | none => s.modMsg m.id fun q => { q with retry := true }

/-! ### At a bank unit -/

/-- A load of another core: it takes the bytes of older stores of its own core that have not been performed (R102). -/
def State.serveLoad (s : State) (m : Msg) (core : CoreId) (off size : Nat) (fe : FeQual) : State :=
  match s.bankLoad m.src (some m.id) core off size fe (s.bytesFor m (some core) off size) with
  | .done t v => t.reply m v 0 .ok
  | .poison => (s.modCore core fun k => k.unrecord m.src (some m.id)).reply m 0 0 .poison
  | .wait => s.recordRemote m core off size true (fe == .second) 0
  | .full => s.requestSeal true

/-- A posted store of another core. -/
def State.serveStore (s : State) (m : Msg) (core : CoreId) (k : PostKind) (off size data : Nat) (fe : FeQual) (ea : Word) :
    State :=
  match s.bankStore m.src (some m.id) core off size data fe with
  | .done t _ => t.ack m k
  | .poison => (((s.modCore core fun q => q.unrecord m.src (some m.id)).modSender m fun x => x.pend causePoison ea)).ack m k
  | .wait => s.recordRemote m core off size false false data
  | .full => s.requestSeal true

/-- LR, SC or an atomic of another core. -/
def State.serveAtom (s : State) (m : Msg) (core : CoreId) (off : Nat) (k : RefKind) (x cmp : Word) : State :=
  match s.bankAtom m.src (s.present m) core off k x cmp with
  | .done t v f e => t.reply m v f e
  | .full t => t.requestSeal true

/-- The next lane of a gather goes on to its destination, or the gather is answered: every lane has been read, and each brings what its
destination had applied (R227, R261). -/
def State.gatherOn (s : State) (m : Msg) (rest : List (Nat × Nat)) (done : List (Nat × Nat)) (dzr : Bool) (seen : SMap Nat) : State :=
  match rest with
  | [] => (s.took m).sendWith m.src m.launch m.dest (.ctx m.src) (.reply m.id (overlay 0 done) (flagIf dzr fDZR) .ok)
      (mergeClocks (mergeClocks (s.appliedAt m.dest) m.clock) seen)
  | (_, a) :: _ => (s.applied_ m).modMsg m.id fun q =>
      { q with dest := laneDest a, body := .gather rest done dzr (mergeClocks seen (s.appliedAt m.dest)) }

/-- The bytes of a lane, as (4 * lane + index, byte). -/
def laneBytes (lane v : Nat) : List (Nat × Nat) := (span 0 4).map fun i => (4 * lane + i, v / 256 ^ i % 256)

/-- A lane of a gather at a bank. -/
def State.gatherBank (s : State) (m : Msg) (core : CoreId) (lane off : Nat) (rest done : List (Nat × Nat)) (dzr : Bool)
    (seen : SMap Nat) : State :=
  let k := s.core core
  let own := s.bytesFor m (some core) off 4
  if k.s.consumes off 4 own then s.reply m lane 0 .poison
  else (s.readBackS core off 4).gatherOn m rest (done ++ laneBytes lane (overlay (k.s.cells.read off 4) own)) dzr seen

/-- REMOTE_WRITE_ARRIVAL: a posted S store or mailbox increment is performed at its target (R439). -/
def execRemoteWriteArrival (msg : Nat) (s : State) : Out :=
  match s.msg msg with
  | none => .next s
  | some m =>
    if m.retry || m.recorded || !s.ready m then .next s
    else match s.atCore m with
      | none => .next s
      | some core => match m.body with
        | .store k off size data fe ea => .next (s.serveStore m core k off size data fe ea)
        | .mbInc k i v => .next ((s.mbAdd core i.toNat v).ack m k)
        | _ => .next s

/-- A request at a bank unit. -/
def State.serveRequest (s : State) (m : Msg) (core : CoreId) : State :=
  match m.body with
  | .load off size fe _ _ => s.serveLoad m core off size fe
  | .lr off => s.serveAtom m core off .lr 0 0
  | .sc off data => s.serveAtom m core off .sc (BitVec.ofNat 64 data) 0
  | .amo op off x cmp => s.serveAtom m core off (.amo op false) x cmp
  | .gather lanes done dzr seen => (match lanes with
    | [] => s
    | (lane, a) :: rest => s.gatherBank m core lane (a % 2 ^ 18) rest done dzr seen)
  | _ => s

/-- REMOTE_REQUEST_ARRIVAL: a load, LR, SC or atomic of another core, or a gather's lane, is performed (R188). -/
def execRemoteRequestArrival (msg : Nat) (s : State) : Out :=
  match s.msg msg with
  | none => .next s
  | some m =>
    if m.retry || m.recorded || !s.ready m then .next s
    else match s.atCore m with
      | none => .next s
      | some core => .next (s.serveRequest m core)

/-! ### At the home of a page -/

/-- An access of a context meets a page that is not resident: the port records the context and answers with a mark; posted
accesses wait at the port (R394, R395). -/
def State.pageMark (s : State) (m : Msg) (page : Nat) : State :=
  ((s.modPage page fun p => { p with waiters := p.waiters ++ [m.src] }).dropMsg m.id).sendWith m.src m.launch
    (.port (clusterOf m.src)) (.ctx m.src) (.reply m.id page 0 .pageWait) []

/-- A byte of an access at the home that no older store of the core gives is poisoned. -/
def State.homeConsumes (s : State) (page va size : Nat) (own : List (Nat × Nat)) : Bool :=
  (span 0 size).any fun i => !(own.any fun e => e.1 == i) && s.homePoisoned page (jplus va i) 1

/-- A load at the home: a discarded page gives zeros for the whole access, and DZR (R108). The first `low` bytes of one that
straddles the carve-out's limit are read, at the same moment, in S of the core that sent it, from `at_` on (R109, R258). -/
def State.homeLoad (s : State) (m : Msg) (page va size low at_ : Nat) : State :=
  let core := coreOf m.src
  let a := jplus va low
  let n := size - low
  let ownS := s.bytesFor m (some core) at_ low
  let ownG := s.bytesFor m none a n
  if (s.page page).discarded then s.reply m 0 fDZR .ok
  else if s.homeConsumes page a n ownG || (s.core core).s.consumes at_ low ownS then s.reply m 0 0 .poison
  else
    let lower := overlay ((s.core core).s.cells.read at_ low) ownS
    ((s.readBackG a n).readBackS core at_ low).reply m (lower + 256 ^ low * overlay (s.homeRead page a n) ownG) 0 .ok

/-- The bytes of a store below the carve-out's limit are written to S of the core that sent it, with those that the home writes
(R109, R258); none when the core's log is full. -/
def State.lowerWrite (s : State) (m : Msg) (ea : Word) : Option State :=
  match s.lowerPart m with
  | none => some s
  | some e => match s.bankStore m.src none (coreOf m.src) e.addr e.size e.data .plain with
    | .done t _ => some (t.stampAt (coreOf m.src))
    | .poison => some (s.modSender m fun x => x.pend causePoison ea)
    | .wait => none
    | .full => none

/-- A posted store at the home. -/
def State.homeStore (s : State) (m : Msg) (page : Nat) (k : PostKind) (va size data : Nat) (ea : Word) : State :=
  let p := s.page page
  match s.lowerWrite m ea with
  | none => s.requestSeal true
  | some t =>
    if p.discarded then (t.droppedOf m (BitVec.ofNat 64 (vaddr va))).ack m k
    else if t.gPoisonedPart va size then (t.modSender m fun x => x.pend causePoison ea).ack m k
    else match t.homeWrite va size data (some (m.src, m.launch, ea)) with
      | .yes u => u.ack m k
      | .full _ => s.requestSeal true

/-- A lane of a gather at the home of its page. -/
def State.gatherHome (s : State) (m : Msg) (page lane va : Nat) (rest done : List (Nat × Nat)) (dzr : Bool)
    (seen : SMap Nat) : State :=
  let own := s.bytesFor m none va 4
  if (s.page page).discarded then s.gatherOn m rest (done ++ laneBytes lane 0) true seen
  else if s.homeConsumes page va 4 own then s.reply m lane 0 .poison
  else (s.readBackG va 4).gatherOn m rest (done ++ laneBytes lane (overlay (s.homeRead page va 4) own)) dzr seen

/-- A reservation or atomic at the home. -/
def State.homeAnswer (s : State) (m : Msg) (va : Nat) (k : RefKind) (x cmp : Word) : State :=
  match s.homeAtom m va k x cmp with
  | .done t v f e => t.reply m v f e
  | .full t => t

/-- An access at the home of its page. -/
def State.serveHome (s : State) (m : Msg) (page : Nat) : State :=
  if (s.page page).resident then
    match m.body with
    | .store k va size data _ ea => s.homeStore m page k va size data ea
    | .load va size _ low at_ => s.homeLoad m page va size low at_
    | .lr va => s.homeAnswer m va .lr 0 0
    | .sc va data => s.homeAnswer m va .sc (BitVec.ofNat 64 data) 0
    | .amo op va x cmp => s.homeAnswer m va (.amo op false) x cmp
    | .gather lanes done dzr seen => (match lanes with
      | [] => s
      | (lane, a) :: rest => s.gatherHome m page lane (a - 2 ^ 60) rest done dzr seen)
    | _ => s
  else match m.body with
    | .load .. => s.pageMark m page
    | .lr .. => s.pageMark m page
    | .sc .. => s.pageMark m page
    | .amo .. => s.pageMark m page
    | .gather .. => s.pageMark m page
    | _ => s

/-- HOME_ACCESS: the home of a page performs an access (R106). -/
def execHomeAccess (msg : Nat) (s : State) : Out :=
  match s.msg msg with
  | none => .next s
  | some m =>
    match m.homePage with
    | none => .next s
    | some page =>
      -- a translation finds the page at the issuing port, whatever waits at the home (R394)
      if (s.page page).resident && !s.ready m then .next s else .next (s.serveHome m page)

/-! ### Back at the sender -/

/-- POSTED_STORE_ACK: the counter falls and the store leaves the store buffer (R100, R102). -/
def execPostedStoreAck (msg : Nat) (s : State) : Out :=
  match s.msg msg with
  | none => .next s
  | some m => match m.body with
    | .ack k of_ => if s.inOrder m then .next ((s.acked m k of_).dropMsg msg) else .next s
    | _ => .next s

/-- The ea of the access that a context awaits; of lane `lane` for a gather. -/
def Ctx.awaitedEa (x : Ctx) (i : Instr) (lane : Nat) : Word :=
  match i with
  | .vldx _ b m off => MemAddr.ea m x (off.signExtend 64) + BitVec.ofNat 64 (laneOf 32 (x.vec b) lane)
  | _ => match Instr.ref i with
    | some r => MemAddr.ea r.m x r.off
    | none => 0

/-- The awaited access is an acquire. -/
def Instr.acquiring : Instr → Bool
  | .vldx _ _ m _ => m.ord == .acq || m.ord == .ar
  | i => match Instr.ref i with
    | some r => r.acquires
    | none => false

/-- The value enters its register and the current context goes on. -/
def State.landed (s : State) (i : Instr) (v : Nat) (f : Flags) : State :=
  match i with
  | .vldx d _ _ _ => s.done 8 fun x => (x.writeV d (BitVec.ofNat 512 v)).raise f
  | _ => match Instr.ref i with
    | some r => s.performed r.bytes f (r.land v)
    | none => s

/-- A reply reaches the context that awaits it: a value, or a mark that traps (R376, R421). -/
def State.takeReply (s : State) (m : Msg) (q : Option Packet) (i : Instr) (v : Nat) (f : Flags) (mark : ReplyMark) : State :=
  let c := m.src
  let t := s.dropMsg m.id
  match mark with
  | .ok => (t.observe c (Instr.acquiring i) m.clock).comeBack c q fun t => t.landed i v f
  | .poison => t.comeBack c q fun t => t.trap causePoison (t.me.awaitedEa i v) t.me.pc
  | .irrevocable => t.comeBack c q fun t => t.trap causeRights (t.me.awaitedEa i v) t.me.pc
  | .pageWait => s

/-- REMOTE_REPLY_ARRIVAL: the reply to an access arrives. The reply of a context that no longer awaits it is discarded; that of a
core pre-empted by priority waits (R289, R351), as does one for which the load/store siding has no room (R46). -/
def execRemoteReplyArrival (msg : Nat) (s : State) : Out :=
  match s.msg msg with
  | none => .next s
  | some m => match m.body with
    | .reply of_ v f mark =>
      if s.shut m || !s.inOrder m then .next s
      else if !s.present m then .next (s.dropMsg msg)
      else
        let q := (s.core (coreOf m.src)).pipe.asking of_
        if q.any fun q => !s.lsRoom m.src q then .next s
        else (match s.awaited m.src q with
          | some i => .next (s.takeReply m q i v f mark)
          | none => .next s)
    | _ => .next s

/-! ### Retries -/

/-- RETRY_NOTICE: an access that found a table full is sent again, and is ordered by its new arrival (R96, R205). -/
def execRetryNotice (msg : Nat) (s : State) : Out :=
  match s.msg msg with
  | none => .next s
  | some m => if m.retry then .next { s with net := (s.net.filter fun q => q.id != msg) ++ [{ m with retry := false }] } else .next s

/-! ### Channels (R203, R204) -/

/-- The receive record cannot take a granule: its ring is empty or does not lie in S, or a reserved field is not zero (R378). -/
def RecvRec.broken (r : RecvRec) : Bool := (ringReason r.rlen r.rbase r.clean).isSome

/-- Write 0 or 1 to SW of a receive record. -/
def State.setSw (s : State) (core : CoreId) (rec_ : Nat) (v : Bool) : Option State :=
  let old := (s.core core).s.cells.read (rec_ + 12) 4
  s.setField core (rec_ + 12) 4 (old - old % 2 + v.toNat)

/-- A granule is delivered: stored, a word that was poisoned where it was read written poisoned (R421), its bit set, NEXTIN advanced; a
refill clears SW. -/
def State.deliver (s : State) (core : CoreId) (rec_ : Nat) (r : RecvRec) (data : BitVec 128) (refill : Bool) (poison : BitVec 2) :
    Option State :=
  let p := r.rbase + 16 * (r.nextin % r.rlen)
  let taint (t : State) : State := (span 0 2).foldl (fun t i =>
    if poison.getLsbD i then t.modCore core fun k => { k with s := k.s.poison (p + 8 * i) 8 } else t) t
  (((s.writeS core p 16 data.toNat none).bind fun t => (taint t).setFe core p 16 true).bind fun t =>
    t.setField core (rec_ + 8) 4 ((r.nextin + 1) % 2 ^ 32)).bind fun t => if refill then t.setSw core rec_ false else some t

/-- A granule at its receiver. -/
def State.takeGranule (s : State) (m : Msg) (core : CoreId) (k : PostKind) (srec rrec : Nat) (i : BitVec 32) (data : BitVec 128)
    (refill : Bool) (poison : BitVec 2) : State :=
  let q := s.core core
  let r := q.recvRec rrec
  let p := r.rbase + 16 * (r.nextin % r.rlen)
  if !r.broken && i.toNat == r.nextin && q.allFe p 16 false then
    match s.deliver core rrec r data refill poison with
    | some t => t.answerTo m (.delivered k srec refill m.id)
    | none => s.requestSeal true
  else match s.setSw core rrec true with
    | some t => t.answerTo m (if refill then .refused srec else .returned k srec i data m.id)
    | none => s.requestSeal true

/-- GRANULE_ARRIVAL: a channel granule is delivered or returned (R203). -/
def execGranuleArrival (msg : Nat) (s : State) : Out :=
  match s.msg msg with
  | none => .next s
  | some m =>
    if !s.ready m then .next s
    else match s.atCore m with
      | none => .next s
      | some core => match m.body with
        | .granule k srec rrec i data refill poison => .next (s.takeGranule m core k srec rrec i data refill poison)
        | _ => .next s

/-- Write the doubleword of OUT, POKE, INFL and REFILLED of a send record. -/
def State.setFlow (s : State) (core : CoreId) (rec_ : Nat) (r : SendRec) : Option State :=
  s.setField core (rec_ + 24) 8 r.flags

/-- A message for a channel's sender is taken: nothing while the core is pre-empted, and again later while the log is full. -/
def State.atSender (s : State) (m : Msg) (f : CoreId → State → Option State) : Out :=
  let core := coreOf m.src
  if s.savedFor core m.launch || !s.inOrder m || s.crossing (dieOf core) then .next s
  else match f core s with
    | some t => .next (t.dropMsg m.id)
    | none => .next (s.requestSeal true)

/-- The sender's counter falls for a granule; that of a carried one has fallen before (R116). -/
def State.lowerFor (s : State) (m : Msg) (k : PostKind) (of_ : Nat) : State :=
  if s.dies.any fun d => d.2.carried.contains of_ then s.uncarry of_ else s.modSender m fun x => x.lower k

/-- The head granule of a spill ring has been delivered: its sender's name goes with it. -/
def State.unspill (s : State) (core : CoreId) (srec : Nat) : State :=
  s.modCore core fun q => { q with spilled := tset [] q.spilled srec (tget [] q.spilled srec).tail }

/-- DELIVERY_ACK: OUT falls for a direct granule, REFILLED rises for a refill (R203). -/
def execDeliveryAck (msg : Nat) (s : State) : Out :=
  match s.msg msg with
  | none => .next s
  | some m => match m.body with
    | .delivered k srec refill of_ => s.atSender m fun core t =>
      let r := (t.core core).sendRec srec
      if refill then
        (t.setFlow core srec { r with refilled := (r.refilled + 1) % 2 ^ 32, infl := false }).map fun u =>
          (u.modCore core fun q => { q with refillOk := tset false q.refillOk srec true }).unspill core srec
      else (t.setFlow core srec { r with out := r.out + 2 ^ 16 - 1 }).map fun u => u.lowerFor m k of_
    | _ => .next s

/-- GRANULE_RETURN: a direct granule that came back enters the spill ring (R203), whose granules keep the names of their senders (R397). -/
def execGranuleReturn (msg : Nat) (s : State) : Out :=
  match s.msg msg with
  | none => .next s
  | some m => match m.body with
    | .returned k srec _ data of_ => s.atSender m fun core t =>
      let r := (t.core core).sendRec srec
      (((t.setField core (r.sbase + 16 * (r.spilled % r.slen)) 16 data.toNat).bind fun u =>
        u.setField core (srec + 16) 4 ((r.spilled + 1) % 2 ^ 32)).bind fun u =>
          u.setFlow core srec { r with out := r.out + 2 ^ 16 - 1 }).map fun u =>
            (u.modCore core fun q => { q with spilled := tset [] q.spilled srec (tget [] q.spilled srec ++ [(m.src, m.launch)]) }).lowerFor m k of_
    | _ => .next s

/-- REFILL_REFUSED: INFL clears and the granule stays at the head of the ring (R203). -/
def execRefillRefused (msg : Nat) (s : State) : Out :=
  match s.msg msg with
  | none => .next s
  | some m => match m.body with
    | .refused srec => s.atSender m fun core t =>
      let r := (t.core core).sendRec srec
      (t.setFlow core srec { r with infl := false }).map fun u =>
        u.modCore core fun q => { q with refillOk := tset false q.refillOk srec false }
    | _ => .next s

/-- REFILL_REQUEST: POKE is set in the send record (R204). -/
def execRefillRequest (msg : Nat) (s : State) : Out :=
  match s.msg msg with
  | none => .next s
  | some m =>
    if !s.ready m then .next s
    else match s.atCore m with
      | none => .next s
      | some core => match m.body with
        | .refillReq srec => (match s.setFlow core srec { (s.core core).sendRec srec with poke := true } with
          | some t => .next (t.took m)
          | none => .next (s.requestSeal true))
        | _ => .next s

/-- The context, and its launch, in whose name a core's copy engine sends the head granule of a spill ring: that of its CHSEND; of a ring
whose counts software has written, the first context that is bound. -/
def State.refiller (s : State) (core : CoreId) (srec : Nat) : CtxId × Nat :=
  match tget [] (s.core core).spilled srec with
  | e :: _ => e
  | [] =>
    let c := ((ctxsOf core).find? fun c => (s.ctx c).row.v).getD core
    (c, (s.ctx c).row.launch.toNat)

/-- Send a refill: like CHSEND's message, under the launch of its sender. -/
def State.sendRefill (s : State) (e : CtxId × Nat) (dest : Dest) (body : Body) : State :=
  (s.send e.1 dest body).modMsg s.nextId fun m => { m with launch := e.2 }

/-- CHANNEL_REFILL: the copy engine reads and sends the head granule of a spill ring (R203). A granule for a core outside the job is dropped
and counts as delivered, and its sender is told (R397, R399). -/
def execChannelRefill (core : CoreId) (record : Nat) (s : State) : Out :=
  let k := s.core core
  let r := k.sendRec record
  if s.crossing (dieOf core) || r.infl || r.inRing == 0 || !(r.poke || tget false k.refillOk record) || r.slen == 0 then .next s
  else
    let i := (r.sent + 2 ^ 33 - r.out - r.inRing) % 2 ^ 32
    let at_ := r.sbase + 16 * (r.refilled % r.slen)
    let data := BitVec.ofNat 128 (k.s.cells.read at_ 16)
    let poison := BitVec.ofNat 2 ((k.s.poisoned at_ 8).toNat + 2 * (k.s.poisoned (at_ + 8) 8).toNat)
    let e := s.refiller core record
    let b := s.readBackS core at_ 16
    if s.reaches e.1 r.dest then
      match b.setFlow core record { r with poke := false, infl := true } with
      | none => .next (b.requestSeal true)
      | some t =>
        let kind := kindTo e.1 (coreNamed r.dest)
        .next (t.sendRefill e (.core (coreNamed r.dest))
          (.granule kind record r.rrec (BitVec.ofNat 32 i) data true poison))
    else match b.setFlow core record { r with poke := false, refilled := (r.refilled + 1) % 2 ^ 32 } with
      | none => .next (b.requestSeal true)
      | some t => .next (((t.modCore core fun q =>
          { q with refillOk := tset false q.refillOk record true }).unspill core record).modHeld e.1 e.2 fun x =>
            x.pend causeDropped (outsideCeaddr r.dest r.rrec))

/-! ### Named messages (R205) -/

/-- NAMED_MESSAGE_ARRIVAL: the message enters the target's table, or goes back with a retry notice. -/
def execNamedMessageArrival (msg : Nat) (s : State) : Out :=
  match s.msg msg with
  | none => .next s
  | some m =>
    if m.retry || !s.ready m then .next s
    else match s.atCore m with
      | none => .next s
      | some core => match m.body with
        | .named k n =>
          if (s.core core).named.length < 64 then
            .next ((s.modCore core fun q => { q with named := q.named ++ [n] }).ack m k)
          else .next (s.modMsg msg fun q => { q with retry := true })
        | _ => .next s

/-! ### Dropped writes, page waits, homes -/

/-- DISCARDED_WRITE: the report of a dropped write reaches its issuer (R397). -/
def execDiscardedWrite (ctx : CtxId) (out : Bool) (addr : BitVec 52) (s : State) : Out :=
  .next (s.dropped ctx (BitVec.ofNat 64 (2 ^ 63 * out.toNat + addr.toNat)))

/-- PAGE_WAIT: a page-wait mark returns; its instruction is killed and the context is dropped until the wake (R394). -/
def execPageWait (ctx : CtxId) (s : State) : Out :=
  match s.net.find? fun m => m.src == ctx && !s.savedFor (coreOf ctx) m.launch && s.inOrder m && match m.body with
      | .reply _ _ _ .pageWait => true
      | _ => false with
  | none => .next s
  | some m =>
    if !s.present m then .next (s.dropMsg m.id)
    else match m.body with
      | .reply of_ page _ .pageWait =>
        let t := match (s.core (coreOf ctx)).pipe.asking of_ with
          | some q => (((s.dropMsg m.id).killFrom ctx q).forget ctx).modCtx ctx Ctx.again
          | none => s.dropMsg m.id
        .next (t.modCtx ctx fun x => if (s.page page).waiters.contains ctx then x.wait (.page page) else { x with run := .active })
      | _ => .next s

/-- A context that waits for a page rejoins the rotation. -/
def Ctx.wake (page : Nat) (x : Ctx) : Ctx := if x.run = .waiting (.page page) then { x with run := .active } else x

/-- PAGE_WAKE: the page has become resident, or dispatch firmware has marked it discarded instead, and its waiting contexts issue again; one
pre-empted by priority does so after its restore (R394, R396). -/
def execPageWake (page : Nat) (discard : Bool) (s : State) : Out :=
  let woken := (s.page page).waiters
  let s1 := (if discard then s else s.bringIn page).modPage page fun p =>
    { p with resident := true, discarded := p.discarded || discard, waiters := [] }
  let s2 := woken.foldl (fun t c => t.modCtx c (Ctx.wake page)) s1
  .next { s2 with saved := s2.saved.map fun e => (e.1, e.2.map fun q => (q.1, q.2.map fun y => (y.1, y.2.wake page))) }

/-- The reservations that a home holds for a page are lost. -/
def State.losePageResvs (s : State) (page : Nat) : State :=
  (s.cluster (s.page page).home).resvs.foldl (fun t r => if pageOf r.granule = page then t.loseResv r.ctx else t) s

/-- Move the entries of a page from one port's .D buffer and ring to another's (R107, R197); none while its ring or a log is full. -/
def State.moveUpdates (s : State) (page : Nat) (old new : ClusterId) : Option State :=
  let a := s.cluster old
  let mine (u : Update) : Bool := pageOf u.va == page
  let moved := (a.holding ++ a.ring).filter mine
  let s1 := s.modCluster old fun q =>
    { q with holding := q.holding.filter fun u => !mine u, ring := q.ring.filter fun u => !mine u }
  let room := 16 - (s1.cluster new).holding.length
  (moved.drop room).foldl (fun (o : Option State) u => o.bind fun t => t.ringPut new u)
    (some (s1.modCluster new fun q => { q with holding := q.holding ++ moved.take room }))

/-- The held writes of a page. -/
def State.heldOf (s : State) (page : Nat) : List HeldWrite :=
  (s.die (dieOf (s.page page).home)).hold.filter fun w => pageOf w.va == page

/-- A round that is being applied takes the updates of a page at the port to which they have moved (R198). -/
def Launch.moved (l : Nat) (us : List Update) (port : ClusterId) (q : Launch) : Launch :=
  { q with closing := q.closing.map fun c =>
      (c.1, if (us.any fun u => u.launch == l && u.round == c.1) && !c.2.contains port then c.2 ++ [port] else c.2) }

/-- The held writes of a page enter the hold queue of its new home's die, with which they may fill it (R115, R117). -/
def State.moveHeld (s : State) (page : Nat) (port : ClusterId) : State :=
  let old := dieOf (s.page page).home
  if old = dieOf port then s
  else (s.heldOf page).foldl (fun t w => t.holdWrite (dieOf port) w)
    (s.modDie old fun d => { d with hold := d.hold.filter fun w => pageOf w.va != page })

/-- HOME_MOVE: a page's home moves to another port with its state, its queued requests in order, and its reservations lost (R107,
R194). It waits for room in the new die's hold queue (R117). -/
def execHomeMove (page : Nat) (port : ClusterId) (s : State) : Out :=
  let old := (s.page page).home
  if old = port then .next s
  else if dieOf old ≠ dieOf port ∧ 4096 < (s.die (dieOf port)).hold.length + (s.heldOf page).length then .next (s.requestSeal true)
  else match (s.losePageResvs page).moveUpdates page old port with
  | none => .next (s.requestSeal true)
  | some s1 =>
    let us := (s.cluster old).holding ++ (s.cluster old).ring
    let mine := us.filter fun u => pageOf u.va == page
    let s2 := s1.moveHeld page port
    let s3 : State := { s2 with launches := s2.launches.map fun e => (e.1, e.2.map (Launch.moved e.1 mine port)) }
    let redirect (m : Msg) : Msg := match m.body with
      | .det _ va .. => if pageOf va = page ∧ m.dest = .port old then { m with dest := .port port } else m
      | _ => m
    .next { s3.modPage page (fun p => { p with home := port }) with net := s3.net.map redirect }

/-! ### The fence sequencer (R199, R266) -/

/-- FENCE_STAMP_REQUEST: the sequencer merges the clock that the request carries and returns its own with the next stamp. -/
def execFenceStampRequest (msg : Nat) (s : State) : Out :=
  match s.msg msg with
  | none => .next s
  | some m => match m.body with
    | .stampReq =>
      if !s.ready m then .next s else
      let clock := mergeClocks s.sequencer.clock m.clock
      let n := s.sequencer.served + 1
      .next (({ s with sequencer := { served := n, clock := clock } }.dropMsg msg).sendWith m.src m.launch .sequencer (.ctx m.src)
        (.stamp n) clock)
    | _ => .next s

/-- FENCE_STAMP_RETURN: the die merges the module clock and the FENCE.G completes. -/
def execFenceStampReturn (msg : Nat) (s : State) : Out :=
  match s.msg msg with
  | none => .next s
  | some m => match m.body with
    | .stamp _ =>
      if s.shut m || !s.inOrder m then .next s
      else if !s.present m then .next (s.dropMsg msg)
      else .next (((s.dropMsg msg).acquire m.src m.clock).comeBack m.src ((s.core (coreOf m.src)).pipe.asked (kOf m.src)) fun t => t.done 8 id)
    | _ => .next s

end Sys2Proof.Machine
end

