-- ==== Sys2Proof/Machine/Rounds.lean ====
section
/-! DEFINITION. Deterministic updates and rounds (R197, R198): an update at its home, the votes, the close, the application of a
round at each memory port, and its completion. -/

namespace Sys2Proof.Machine

/-- The port that a message has reached. -/
def Msg.portOf (m : Msg) : Option ClusterId :=
  match m.dest with
  | .port p => some p
  | .home _ => none
  | .core _ => none
  | .directory _ => none
  | .sequencer => none
  | .controller _ => none
  | .ctx _ => none

/-- Updates that a port holds, in its buffer and in its ring. -/
def Cluster.updates (q : Cluster) : List Update := q.holding ++ q.ring

/-- The sequence of an issuer's next update in a round at a port. -/
def Cluster.nextSeq (q : Cluster) (launch tile round : Nat) : Nat :=
  q.updates.foldl (fun n u => if u.launch = launch ∧ u.tile = tile ∧ u.round = round then max n (u.seq + 1) else n) 0

/-- DETERMINISTIC_UPDATE_ARRIVAL: the update enters the holding buffer of 16, or the ring of 65,536; a full ring or log holds it at the
home. An update for a page that is not resident waits at its port (R395). -/
def execDeterministicUpdateArrival (msg : Nat) (s : State) : Out :=
  match s.msg msg with
  | none => .next s
  | some m =>
    if !s.ready m then .next s
    else match m.portOf with
      | none => .next s
      | some p => match m.body with
        | .det op va x cmp ea launch tile round =>
          let q := s.cluster p
          let u : Update := { launch := launch, round := round, tile := tile, seq := q.nextSeq launch tile round, ctx := m.src,
                              op := op, va := va, x := x, cmp := cmp, ea := ea }
          if !(s.pageAt va).resident then .next s
          else if q.holding.length < 16 then
            .next ((s.modCluster p fun q => { q with holding := q.holding ++ [u] }).ack m .mem)
          else (match s.ringPut p u with
            | some t => .next (t.ack m .mem)
            | none => .next (if q.ring.length < 65536 then s.requestSeal true else s))
        | _ => .next s

/-! ### Votes and closes (R198) -/

/-- ROUND_CLOSE_VOTE: the round controller receives a tile's vote. -/
def execRoundCloseVote (msg : Nat) (s : State) : Out :=
  match s.msg msg with
  | none => .next s
  | some m => match m.body with
    | .vote tile round =>
      if !s.ready m then .next s else .next ((s.took m).modLaunch m.launch fun q => { q with votes := tset 0 q.votes tile (max (tget 0 q.votes tile) (round + 1)) })
    | _ => .next s

/-- Every tile of a launch of n tiles has voted for its open round, or has performed its last TEND. -/
def Launch.allVoted (q : Launch) (n : Nat) : Bool :=
  (span 0 n).all fun t => decide (q.round < tget 0 q.votes t) || q.finished.contains t

/-- The ports that hold updates of a round of a launch. -/
def State.portsOf (s : State) (launch round : Nat) : List ClusterId :=
  (s.clusters.filter fun e => e.2.updates.any fun u => u.launch == launch && u.round == round).map Prod.fst

/-- Number of tiles of a record (R69). -/
def LaunchRec.ntiles (r : LaunchRec) : Nat :=
  (r.wm1 + 1) * (r.hm1 + 1) * popCount 32 r.cores.toNat * popCount 16 r.ctxs.toNat

/-- ROUND_CLOSE: every tile has voted, and the close of the round goes to the memory ports; those that hold no update of it have
nothing to apply. -/
def execRoundClose (launch : Nat) (s : State) : Out :=
  match s.launch launch with
  | none => .next s
  | some q =>
    if s.seals.committing || q.closing.isSome || !q.bound || !q.allVoted q.record.ntiles then .next s
    else .next (s.modLaunch launch fun q => { q with closing := some (q.round, s.portsOf launch q.round) })

/-! ### The application of a round (R197) -/

/-- Put an update in order of issuer, then sequence. -/
def byIssuer (u : Update) : List Update → List Update
  | [] => [u]
  | v :: r => if u.tile < v.tile ∨ (u.tile = v.tile ∧ u.seq < v.seq) then u :: v :: r else v :: byIssuer u r

/-- Apply one update as the plain atomic of its function; its flags enter the issuer's cstat. One that meets a discarded or
irrevocable page is dropped and reported, one that meets a poisoned word is not performed and reported. None while the page is
not resident or the log is full. -/
def State.applyUpdate (s : State) (u : Update) : Option State :=
  let va := u.va
  let p := s.pageAt va
  if !p.resident then none
  else if p.discarded then some (s.modHeld u.ctx u.launch fun x => (x.raise fDZR).pend causeDropped (BitVec.ofNat 64 (vaddr va)))
  else if p.irrevocable then some (s.modHeld u.ctx u.launch fun x => x.pend causeDropped (BitVec.ofNat 64 (vaddr va)))
  else if s.gPoisoned va u.op.size then some (s.modHeld u.ctx u.launch fun x => x.pend causePoison u.ea)
  else match u.op.apply (s.gRead va u.op.size) u.x u.cmp with
    | (none, f) => some ((s.readBackG va u.op.size).modHeld u.ctx u.launch (·.raise f))
    | (some new, f) => match (s.readBackG va u.op.size).homeWrite va u.op.size new (some (u.ctx, u.launch, u.ea)) with
      | .yes t => some (t.modHeld u.ctx u.launch (·.raise f))
      | .full _ => none

/-- Apply updates in order. -/
def State.applyUpdates (s : State) : List Update → Option State
  | [] => some s
  | u :: r => (s.applyUpdate u).bind fun t => t.applyUpdates r

/-- ROUND_APPLY: a port sorts and applies its updates of the closed round and reports (R197). -/
def execRoundApply (launch : Nat) (port : ClusterId) (s : State) : Out :=
  match (s.launch launch).bind fun q => q.closing with
  | none => .next s
  | some (round, ports) =>
    if s.seals.committing || !ports.contains port then .next s
    else
      let mine (u : Update) : Bool := u.launch == launch && u.round == round
      let us := ((s.cluster port).updates.filter mine).foldl (fun l u => byIssuer u l) []
      match s.applyUpdates us with
      | none => .next s.pressed
      | some t =>
        let t1 := t.modCluster port fun q =>
          { q with holding := q.holding.filter fun u => !mine u, ring := q.ring.filter fun u => !mine u }
        .next (t1.modLaunch launch fun q => { q with closing := some (round, ports.filter (· != port)) })

/-- ROUND_COMPLETE: every port has reported; the round is complete and each tile's RNDCLOSE may complete (R198). -/
def execRoundComplete (launch : Nat) (s : State) : Out :=
  match (s.launch launch).bind fun q => q.closing with
  | some (round, []) => .next (if s.seals.committing then s else s.modLaunch launch fun q => { q with closing := none, round := round + 1 })
  | some (_, _ :: _) => .next s
  | none => .next s

end Sys2Proof.Machine
end

