-- ==== Sys2Proof/Machine/Work.lean ====
section
/-! DEFINITION. The work hierarchy (R65 to R72, R74): completion counters, launch records, tiles, the end of a unit, a tile, a
launch and a graph, cancellation, and the contexts' bind records (R51, R287). -/

namespace Sys2Proof.Machine

/-! ### Dispatch's reads and writes of global memory (R66) -/

/-- n bytes that dispatch reads from a virtual address of a job. -/
def State.dread (s : State) (job a n : Nat) : Nat :=
  let va := jaddr job a
  if (s.pageAt va).discarded then 0 else s.homeRead (pageOf va) va n

/-- Single-bit errors among n bytes that dispatch has read from a virtual address of a job are written back corrected (R93). -/
def State.readBackD (s : State) (job a n : Nat) : State :=
  if (s.pageAt (jaddr job a)).discarded then s else s.readBackG (jaddr job a) n

/-- A doubleword. -/
def State.dword (s : State) (job a : Nat) : Word := BitVec.ofNat 64 (s.dread job a 8)

/-- A clock is applied at a home: the writes that it names happened before what the home has applied (R266). -/
def State.applyClock (s : State) (page : Nat) (clock : SMap Nat) : State :=
  let d : Dest := .home page
  { s with applied := tset [] s.applied d.key (mergeClocks (s.appliedAt d) clock) }

/-- A doubleword written at its home as a release of a clock; a discarded page drops it. None, with a seal requested, while a log or a hold
queue is full. -/
def State.tryWord (s : State) (va v : Nat) (clock : SMap Nat) : Option State :=
  if (s.pageAt va).discarded then some s
  else match s.homeWrite va 8 v none with
    | .yes t => some (t.applyClock (pageOf va) clock)
    | .full _ => none

/-- A write to a page follows those to it that wait at its home. -/
def State.owes (s : State) (va : Nat) : Bool := s.owed.any fun w => pageOf w.va == pageOf va

/-- Write a doubleword of a job as a release of what dispatch knows. What dispatch does goes on: where the home has no room the write waits
there, a seal is requested, and its commit performs it as a write of the new split, as R116 has it of a carried write (log entry 37). -/
def State.putWord (s : State) (job : Nat) (a : Word) (v : Nat) : State :=
  let va := jaddr job a.toNat
  let wait (t : State) : State := { t with owed := t.owed ++ [{ va := va, value := v, clock := t.dispatchClock }] }
  if s.owes va then wait s else (s.tryWord va v s.dispatchClock).getD (wait (s.requestSeal true))

/-- The counter writes that wait at the homes of a die are performed, as far as there is room. -/
def State.payOwed (s : State) (die : Nat) : State :=
  s.owed.foldl (fun t w =>
    let here := dieOf (t.pageAt w.va).home == die && !t.owes w.va
    (if here then t.tryWord w.va w.value w.clock else none).getD { t with owed := t.owed ++ [w] }) { s with owed := [] }

/-- The STATE field of a counter. -/
def CState.code : CState → Nat
  | .running => 0
  | .complete => 1
  | .cancelled => 2

/-- A completion counter's word. -/
def counterWord (st : CState) (done : Nat) : Nat := 2 ^ 62 * st.code + done % 2 ^ 32

/-! ### Records (R68, R69) -/

/-- The doubleword at a byte offset of a record of n bytes. -/
def recDw (rec_ off : Nat) : Nat := rec_ / 256 ^ off % 2 ^ 64

/-- The launch record in 256 bytes; a reserved field reads as zero, whatever it holds (R6). -/
def LaunchRec.ofBytes (b : Nat) : LaunchRec :=
  let dw (off : Nat) : Nat := recDw b off
  { entry := BitVec.ofNat 64 (dw 0x00), arg := BitVec.ofNat 64 (dw 0x08), cores := BitVec.ofNat 32 (bits (dw 0x10) 32 32),
    hm1 := bits (dw 0x10) 24 8, wm1 := bits (dw 0x10) 16 8, y0 := bits (dw 0x10) 8 8, x0 := bits (dw 0x10) 0 8,
    tasks := bits (dw 0x18) 32 32, cseg := BitVec.ofNat 3 (bits (dw 0x18) 19 3), feclr := bits (dw 0x18) 18 1 == 1,
    det := bits (dw 0x18) 17 1 == 1, lap := bits (dw 0x18) 16 1 == 1, ctxs := BitVec.ofNat 16 (bits (dw 0x18) 0 16),
    segtab := BitVec.ofNat 64 (dw 0x20), quota := BitVec.ofNat 32 (bits (dw 0x28) 32 32), ttcnt := bits (dw 0x28) 8 7,
    segmask := BitVec.ofNat 8 (bits (dw 0x28) 0 8), ttptr := BitVec.ofNat 64 (dw 0x30),
    wlim := BitVec.ofNat 16 (bits (dw 0x38) 32 16), spill := bits (dw 0x38) 0 32, ovfbase := BitVec.ofNat 64 (dw 0x40),
    simglen := bits (dw 0x48) 32 32, ovfstride := BitVec.ofNat 32 (bits (dw 0x48) 0 32), simg := BitVec.ofNat 64 (dw 0x50),
    csched := BitVec.ofNat 64 (dw 0x58), cscnt := bits (dw 0x60) 0 16, tlist := BitVec.ofNat 64 (dw 0x68),
    cntaddr := BitVec.ofNat 64 (dw 0x70), initg := (span 0 8).map fun i => BitVec.ofNat 64 (dw (0x80 + 8 * i)) }

/-- A record's limits (R68, R70, R71), its rectangle inside the job's (R288) and on no failed cluster (R424). -/
def State.recordOk (s : State) (j : Job) (addr : Word) (r : LaunchRec) (tlist : List Nat) : Bool :=
  addr.toNat % 256 == 0 && r.entry.toNat % 4 == 0 && r.cores != 0 && r.ctxs != 0 && r.tasks != 0 &&
  decide (r.x0 + r.wm1 ≤ 143) && decide (r.y0 + r.hm1 ≤ 143) && decide (r.ttcnt ≤ 64) && r.spill % 16 == 0 &&
  r.simglen % 16 == 0 && r.cntaddr.toNat % 8 == 0 && decide (popCount 16 r.ctxs.toNat * r.spill + r.simglen ≤ sSize) &&
  decide (j.cx0 ≤ r.x0) && decide (r.x0 + r.wm1 ≤ j.cx0 + j.cwm1) && decide (j.cy0 ≤ r.y0) &&
  decide (r.y0 + r.hm1 ≤ j.cy0 + j.chm1) && tlist.all (fun t => decide (t < r.ntiles)) &&
  !(s.clusters.any fun e => e.2.failed && decide (r.x0 ≤ xOf e.1 ∧ xOf e.1 ≤ r.x0 + r.wm1 ∧ r.y0 ≤ yOf e.1 ∧ yOf e.1 ≤ r.y0 + r.hm1))

/-- The deterministic task list that a record names. -/
def State.readTlist (s : State) (job : Nat) (r : LaunchRec) : List Nat :=
  if r.det && r.tlist != 0 then (span 0 r.tasks).map fun i => s.dread job (r.tlist.toNat + 4 * i) 4 else []

/-- A record, with its task list, has been read. -/
def State.recordRead (s : State) (job : Nat) (addr : Word) : State :=
  let r := LaunchRec.ofBytes (s.dread job addr.toNat 256)
  let t := s.readBackD job addr.toNat 256
  if r.det && r.tlist != 0 then t.readBackD job r.tlist.toNat (4 * r.tasks) else t

/-! ### Tasks (R71) -/

/-- The task that a tile runs next, given how many it has started; a further one with DET = 0 was given to it as it performed TEND. -/
def Launch.nextTask (q : Launch) (tile : Nat) : Option Nat :=
  let n := tget 0 q.ran tile
  let total := q.record.tasks
  if q.record.det then
    if q.record.tlist = 0 then
      let t := tile + n * q.record.ntiles
      if t < total then some t else none
    else ((span 0 q.tlist.length).filter fun i => q.tlist.getD i 0 == tile)[n]?
  else if n = 0 then (if tile < total then some tile else none)
  else match tget 0 q.given tile with
    | 0 => none
    | t + 1 => some t

/-- With DET = 0 the further tasks go in ascending order to the tiles that perform TEND first. -/
def Launch.give (q : Launch) (tile : Nat) : Launch :=
  if !q.record.det && decide (q.next < q.record.tasks) then
    { q with given := tset 0 q.given tile (q.next + 1), next := q.next + 1 }
  else { q with given := tset 0 q.given tile 0 }

/-! ### Bind records (R51, R287) -/

/-- The slots of rank r among n contexts. -/
def slotsOf (r n : Nat) : BitVec 16 := BitVec.ofNat 16 ((span 0 16).foldl (fun m j => if j % n = r then m + 2 ^ j else m) 0)

/-- Rewrite the slot masks of the bound contexts of a core: slot j belongs to the context of rank j mod n. -/
def State.remask (s : State) (core : CoreId) : State :=
  let bound := (ctxsOf core).filter fun c => (s.ctx c).row.v
  let n := bound.length
  (bound.zip (span 0 n)).foldl (fun t e => t.modCtx e.1 fun x => { x with row := { x.row with slots := slotsOf e.2 n } }) s

/-- A context that no launch binds any longer: its row unbound, nothing waiting, nothing pending; a killed one stays killed until it
has departed its squads. -/
def Ctx.unbind (x : Ctx) : Ctx :=
  { x with row := Row.zero, run := if x.run = .killed then .killed else .idle, kick := none, imprecise := [], precise := none, openBatch := [], closed := [],
           quotaHeld := false, sealHeld := false, atSeal := false, voted := false, met := false }

/-- The claims of a context are released (R238). -/
def State.freeClaims (s : State) (c : CtxId) : State :=
  s.modCore (coreOf c) fun k =>
    { k with pclaim := k.pclaim.filter fun e => e.2 != kOf c + 1, qclaim := k.qclaim.filter fun e => e.2 != kOf c + 1 }

/-- A context is unbound and its claims are released; the other contexts of the core get new masks. -/
def State.unbindCtx (s : State) (c : CtxId) : State :=
  ((((s.purgePipe c).freeClaims c).modCtx c Ctx.unbind).restKilled c).remask (coreOf c)

/-! ### Ends (R65, R67, R72) -/

/-- A phase of a job. -/
def Job.phase (j : Job) (p : Nat) : Phase := tget Phase.fresh j.phases p
def Job.setPhase (j : Job) (p : Nat) (x : Phase) : Job := { j with phases := tset Phase.fresh j.phases p x }

/-- A graph of a phase has ended: a complete one counts. -/
def State.phaseMember (s : State) (job phase : Nat) (complete : Bool) : State :=
  match s.job job with
  | none => s
  | some j =>
    if !complete then s
    else
      let p := j.phase phase
      let p1 := { p with done := p.done + 1 }
      (s.setJob job (some (j.setPhase phase p1))).putWord job (j.phaseCtr + BitVec.ofNat 64 (8 * phase)) (counterWord p1.state p1.done)

/-- A launch of a graph has ended (R65): a complete one counts, and the graph ends with its last launch. -/
def State.graphMember (s : State) (g : Nat) (complete : Bool) : State :=
  match s.graph g with
  | none => s
  | some q =>
    let states : List CState := q.launches.map fun l => match s.launch l with
      | none => CState.cancelled
      | some x => x.state
    let st : CState := if states.any (fun x => x == CState.running) then .running
      else if states.all (fun x => x == CState.complete) then .complete else .cancelled
    let q1 := { q with done := q.done + complete.toNat, state := st }
    let t := match q.cnt with
      | none => s.setGraph g (some q1)
      | some a => (s.setGraph g (some q1)).putWord q.job a (counterWord st q1.done)
    if st = CState.running then t else t.phaseMember q.job q.phase (st == CState.complete)

/-- A launch ends in a state: its counter, then its graph. -/
def State.endOne (s : State) (l : Nat) (st : CState) : State :=
  match s.launch l with
  | none => s
  | some q =>
    if q.state ≠ .running then s
    else ((s.setLaunch l (some { q with state := st })).putWord q.job q.record.cntaddr (counterWord st q.done)).graphMember q.graph
      (st == CState.complete)

/-- Cancel the launches of a list that have not begun and wait for a cancelled one (R72). -/
def State.cancelFollowers (s : State) (ls : List Nat) : State :=
  ls.foldl (fun t l => match t.launch l with
    | none => t
    | some q =>
      if q.state == CState.running && !q.bound && q.preds.any (fun p => (t.launch p).any fun (x : Launch) => x.state == CState.cancelled) then
        t.endOne l .cancelled
      else t) s

/-- A launch ends, and with it those that waited for it and can never start. -/
def State.endLaunch (s : State) (l : Nat) (st : CState) : State :=
  let t := s.endOne l st
  match (t.launch l).bind fun q => t.graph q.graph with
  | none => t
  | some g => t.cancelFollowers g.launches

/-- A tile has performed its last TEND of the launch: it is unbound and counts as voting from now on (R198). -/
def State.endTile (s : State) (l : Nat) (c : CtxId) : State :=
  (s.modLaunch l fun q => { q with finished := q.finished ++ [(s.ctx c).tile] }).unbindCtx c

/-! ### The start of a unit (R70, R71, R177) -/

/-- A context at the first instruction of a unit. -/
def Ctx.startUnit (x : Ctx) (c : CtxId) (r : LaunchRec) (handler : Word) (task : Nat) : Ctx :=
  { x with
    g := ((span 0 8).foldl (fun m i => tset 0 m (4 + i) (r.initg.getD i 0))
      (tset 0 (tset 0 (tset 0 [] 1 (BitVec.ofNat 64 task)) 2 (BitVec.ofNat 64 c)) 3 r.arg))
    v := [], k := [], h := [], pc := r.entry, loopCount := 0, loopStart := 0, loopEnd := 0, pinned := false, loopBuf := [],
    fetchBuf := [], ir := [], cstat := 0, bps := false, nlt := false, gbt := false, da := false, hl := false, lap := r.lap,
    bpArmed := false, cfemask := 0, cwlim := r.wlim, ctrap := 0, cepc := 0, ceaddr := 0, cvec := handler.extractLsb' 2 62,
    cword := [], cquota := r.quota, quota := r.quota, near := 0, far := 0, mem := 0, sendSeq := 0, seen := [], resv := none,
    run := .active, quotaHeld := false, atSeal := false, waitLaps := 0, waitLimit := 0, imprecise := [], precise := none,
    openBatch := [], closed := [], nextBatch := 0, task := BitVec.ofNat 32 task, kick := none, voted := false, met := false }

/-- The die's controller has learnt that the phase before has ended (R77). -/
def State.phaseKnown (s : State) (die job phase : Nat) : Bool :=
  phase == 0 || (s.die die).knownEnds.contains (job, phase - 1)

/-- A unit of a launch may start on an idle context: its core is prepared, no seal is prepared on its die (R114), and its die knows that
the phases before have ended. -/
def State.mayStart (s : State) (l : Nat) (q : Launch) (c : CtxId) : Bool :=
  let x := s.ctx c
  let d := s.die (dieOf c)
  x.row.v && x.row.launch.toNat == l && x.run == .idle && q.state == CState.running && q.bound && q.prepared.contains (coreOf c) &&
    !(d.prepared && !d.committed) && s.phaseKnown (dieOf c) q.job q.phase && !x.dbgHalt

/-- The next task of a context starts, if it may. With DET = 0 a further task has a new row (R287). The first unit on a core finds its stage
counter at 0 (R251). -/
def State.startTask (s : State) (l : Nat) (c : CtxId) : State :=
  match s.launch l with
  | none => s
  | some q =>
    let x := s.ctx c
    match (if s.mayStart l q c then q.nextTask x.tile else none) with
    | none => s
    | some n =>
      let handler : Word := match s.job q.job with
        | none => 0
        | some j => j.handler
      let s0 := if q.begunOn (coreOf c) then s else s.modCore (coreOf c) fun k => { k with stage := 0 }
      let s1 := s0.setLaunch l (some { q with ran := tset 0 q.ran x.tile (tget 0 q.ran x.tile + 1) })
      let s2 := (s1.loseResv c).modCtx c fun y => y.startUnit c q.record handler n
      let s3 := if q.record.det then s2 else s2.modCtx c fun y => { y with row := { y.row with task := BitVec.ofNat 32 n } }
      s3.modDie (dieOf c) fun e => { e with clock := mergeClocks e.clock s3.dispatchClock }

/-- A unit ends: DONE rises as a release of the unit's accesses; its tile is given its next task, which with DET = 1 starts at once, or
ends for want of one; and the launch ends with its last unit. -/
def State.endUnit (s : State) (c : CtxId) : State :=
  let x := s.ctx c
  let l := x.row.launch.toNat
  match s.launch l with
  | none => s
  | some q =>
    let q1 := ({ q with done := q.done + 1 } : Launch).give x.tile
    let s1 := { s with dispatchClock := mergeClocks s.dispatchClock (s.die (dieOf c)).clock }
    let t := (s1.setLaunch l (some q1)).putWord q.job q.record.cntaddr (counterWord q.state q1.done)
    let u := if (q1.nextTask x.tile).isNone then t.endTile l c else if q1.record.det then t.startTask l c else t
    if q1.done = q.record.tasks then u.endLaunch l .complete else u

/-- TEND (R67): performed once the counters are zero and no engine command of the context is left, a due entry of its launch's schedule
having fired; the context becomes idle, or starts its next task. -/
def execTend (s : State) : Out :=
  let due := (s.core s.myCore).sched.any fun q => q.launch == s.me.row.launch.toNat && s.scheduleDue s.myCore q
  if s.quiet && !due then
    let t := (s.loseResv s.cur).done 8 fun x => x
    .next ((t.modMe fun x => { x with run := .idle }).endUnit s.cur)
  else .next s.waitsQuiet

/-! ### Stopping a context for good (R74) -/

/-- The engine commands of a context that have not started are discarded, and with them its parts in the collectives that they were for. -/
def State.discardQueued (s : State) (c : CtxId) : State :=
  let ms := (s.commandsOf c).filter fun m => !m.started
  let queued (p : CollPart) : Bool := p.ctx == c && !p.read && ms.any fun m => m.id == p.cmd.id && m.launch == p.cmd.launch
  let hs := (s.colls.filter fun g => g.parts.any queued).map fun g => g.handle
  hs.foldl (fun t h => t.withdrawParts h c (s.ctx c).row.launch.toNat) (ms.foldl (fun t m => t.dropCmd (coreOf c) m) s)

/-- The context leaves every squad as though SQLEAVE had been posted; one that was killed departs instead. -/
def State.leaveAll (s : State) (c : CtxId) : State :=
  if (s.ctx c).run = .killed then s
  else s.squads.foldl (fun t e => match e.2 with
    | none => t
    | some q => match q.member c (s.ctx c).row.launch.toNat with
      | none => t
      | some m => if m.leaving.isSome then t
        else (t.numberAt (dieOf c) (.directory (e.1 / 1024))).setSquad e.1 (some (q.postLeave m))) s

/-- CANCEL stops a context: at its boundary, with what has been performed kept and the rest discarded. -/
def State.cancelCtx (s : State) (c : CtxId) : State :=
  ((((((s.purgePipe c).forget c).withdraw c).loseResv c).discardQueued c).leaveAll c).unbindCtx c

/-! ### S as it was at a seal (R112, R426) -/

/-- Restore a line of S and its full/empty bits from an undo entry. -/
def Core.undoEntry (k : Core) (e : UndoEntry) : Core :=
  { k with s := k.s.write 128 e.line 128 e.old,
           fe := (span 0 8).foldl (fun q i => tset false q (e.line / 16 + i) (e.fe.getLsbD i)) k.fe }

/-- The undo entries of S of a core in its die's undo region, newest first, of one tenancy; with `kept` those follow that a provisional seal
keeps. -/
def State.coreLog (s : State) (kept : Bool) (core : CoreId) (tenancy : Nat) : List UndoEntry :=
  let d := s.die (dieOf core)
  (d.undo ++ if kept then d.keptUndo else []).filter fun e => e.core == some core && e.tenancy == tenancy

/-- What holds the S of a tenancy of a core: the core, or a saved image of it. -/
def State.holderOf (s : State) (core : CoreId) (tenancy : Nat) : Option Core :=
  if (s.core core).tenancy = tenancy then some (s.core core) else ((s.images core).map Prod.fst).find? fun k => k.tenancy == tenancy

/-- A core with the S and the full/empty bits that it had at the seal of an area: those that the area holds, or those of that tenancy with
its log applied, its own undo buffer first (R426, step 2). -/
def State.coreAt (s : State) (a : SealArea) (kept : Bool) (core : CoreId) : Core :=
  let old := tget Core.reset a.cores core
  if (tget [] a.saved core).isEmpty then
    match s.holderOf core old.tenancy with
    | none => old
    | some k => (k.undo ++ s.coreLog kept core old.tenancy).foldl Core.undoEntry k
  else old

/-- Before an image is dropped the areas take what its S was at their seals, which a rollback may still need. -/
def State.keepS (s : State) (core : CoreId) : State :=
  let take (kept : Bool) (a : SealArea) : SealArea :=
    if (s.core core).tenancy = (tget Core.reset a.cores core).tenancy then a
    else
      let k := s.coreAt a kept core
      { a with cores := tset Core.reset a.cores core { tget Core.reset a.cores core with s := k.s, fe := k.fe } }
  { s with seals := { s.seals with area := take false s.seals.area, keptArea := s.seals.keptArea.map (take true) } }

/-- CANCEL stops a tile of a launch, wherever its context is held. -/
def State.cancelTile (s : State) (l : Nat) (c : CtxId) : State :=
  let x := s.ctx c
  if x.row.v && x.row.launch.toNat == l then s.cancelCtx c
  else match (s.images (coreOf c)).find? fun q => Image.ofLaunch q l with
    | none => s
    | some (k, xs) =>
      -- in the image of its core: the core is exchanged with it, the context stopped, and the core exchanged back
      let core := coreOf c
      let now := s.core core
      let mine := (ctxsOf core).map s.ctx
      let t0 := (ctxsOf core).foldl (fun t d => t.setCtx d (tget Ctx.reset xs d)) (s.setCore core k)
      let t1 := if (t0.ctx c).row.v && (t0.ctx c).row.launch.toNat == l then t0.cancelCtx c else t0
      let ys := (ctxsOf core).foldl (fun m d => tset Ctx.reset m d (t1.ctx d)) []
      let image : Image := (t1.core core, ys)
      let live := ys.any fun e => e.2.row.v
      let left := (s.images core).filterMap fun q => if Image.ofLaunch q l then (if live then some image else none) else some q
      let t2 := ((ctxsOf core).zip mine).foldl (fun t e => t.setCtx e.1 e.2) (t1.setCore core now)
      { (if live then t2 else t2.keepS core) with saved := tset [] t2.saved core left }

/-- CANCEL of a launch that has not ended (R74). -/
def State.cancelLaunch (s : State) (l : Nat) : State :=
  match s.launch l with
  | none => s
  | some q =>
    if q.state ≠ .running then s
    else (if q.bound then q.record.ctxIds.foldl (fun t c => t.cancelTile l c) s else s).endLaunch l .cancelled

/-- CANCEL of several launches. -/
def State.cancelLaunches (s : State) (ls : List Nat) : State := ls.foldl State.cancelLaunch s

end Sys2Proof.Machine
end

