-- ==== Sys2Proof/Machine/Tape.lean ====
section
/-! DEFINITION. The tape of a core's pipe (R47 to R49, R56): what it performs, in which cycles and in which order, the waits of the
instructions that it cannot perform yet (R53, R190), precise traps (R349 to R359), retirement; and the turn of a context. -/

namespace Sys2Proof.Machine

/-- The meaning of an instruction that no siding serves: the tape performs it (R48). -/
def Instr.taped (i : Instr) (s : State) : Out :=
  match i with
  | .nop => execNop s
  | .yield => execYield s
  | .tend => execTend s
  | .ldb d m off => execLdb d m off s
  | .ldbn d m off => execLdbn d m off s
  | .ldh d m off => execLdh d m off s
  | .ldhn d m off => execLdhn d m off s
  | .ldw d m off => execLdw d m off s
  | .ldwn d m off => execLdwn d m off s
  | .ldd d m off => execLdd d m off s
  | .ldg d m off => execLdg d m off s
  | .ldv d m off => execLdv d m off s
  | .ldbF96m d m off => execLdbF96m d m off s
  | .ldbnF96m d m off => execLdbnF96m d m off s
  | .ldhF96m d m off => execLdhF96m d m off s
  | .ldhnF96m d m off => execLdhnF96m d m off s
  | .ldwF96m d m off => execLdwF96m d m off s
  | .ldwnF96m d m off => execLdwnF96m d m off s
  | .lddF96m d m off => execLddF96m d m off s
  | .ldgF96m d m off => execLdgF96m d m off s
  | .ldvF96m d m off => execLdvF96m d m off s
  | .stb d m off => execStb d m off s
  | .sth d m off => execSth d m off s
  | .stw d m off => execStw d m off s
  | .std d m off => execStd d m off s
  | .stg d m off => execStg d m off s
  | .stv d m off => execStv d m off s
  | .stbF96m d m off => execStbF96m d m off s
  | .sthF96m d m off => execSthF96m d m off s
  | .stwF96m d m off => execStwF96m d m off s
  | .stdF96m d m off => execStdF96m d m off s
  | .stgF96m d m off => execStgF96m d m off s
  | .stvF96m d m off => execStvF96m d m off s
  | .lr d m off => execLr d m off s
  | .sc d b m off => execSc d b m off s
  | .amoadd d b dd m off => execAmoadd d b dd m off s
  | .amoand d b dd m off => execAmoand d b dd m off s
  | .amoor d b dd m off => execAmoor d b dd m off s
  | .amoxor d b dd m off => execAmoxor d b dd m off s
  | .amomin d b dd m off => execAmomin d b dd m off s
  | .amomax d b dd m off => execAmomax d b dd m off s
  | .amominn d b dd m off => execAmominn d b dd m off s
  | .amomaxn d b dd m off => execAmomaxn d b dd m off s
  | .amoswp d b dd m off => execAmoswp d b dd m off s
  | .amocas d b dd m off => execAmocas d b dd m off s
  | .amofadd d b dd m off => execAmofadd d b dd m off s
  | .lrF96m d m off => execLrF96m d m off s
  | .scF96m d b m off => execScF96m d b m off s
  | .amoaddF96m d b dd m off => execAmoaddF96m d b dd m off s
  | .amoandF96m d b dd m off => execAmoandF96m d b dd m off s
  | .amoorF96m d b dd m off => execAmoorF96m d b dd m off s
  | .amoxorF96m d b dd m off => execAmoxorF96m d b dd m off s
  | .amominF96m d b dd m off => execAmominF96m d b dd m off s
  | .amomaxF96m d b dd m off => execAmomaxF96m d b dd m off s
  | .amominnF96m d b dd m off => execAmominnF96m d b dd m off s
  | .amomaxnF96m d b dd m off => execAmomaxnF96m d b dd m off s
  | .amoswpF96m d b dd m off => execAmoswpF96m d b dd m off s
  | .amocasF96m d b dd m off => execAmocasF96m d b dd m off s
  | .amofaddF96m d b dd m off => execAmofaddF96m d b dd m off s
  | .rndclose => execRndclose s
  | .fence scope => execFence scope s
  | .waitrs => execWaitrs s
  | .waitc mask => execWaitc mask s
  | .mbinc id v => execMbinc id v s
  | .mbincRemote id v a => execMbincRemote id v a s
  | .mbwait id v => execMbwait id v s
  | .mbrd d id => execMbrd d id s
  | .mbset id v => execMbset id v s
  | .chsend d a => execChsend d a s
  | .chrecv d a => execChrecv d a s
  | .sendn d a => execSendn d a s
  | .recvn d a b => execRecvn d a b s
  | .sqopen gang d a n b => execSqopen gang d a n b s
  | .sqjoin a b => execSqjoin a b s
  | .sqleave a => execSqleave a s
  | .sqclose d a => execSqclose d a s
  | .sqbar a => execSqbar a s
  | .sqarrive d a => execSqarrive d a s
  | .sqwait a => execSqwait a s
  | .sqvote op d a b => execSqvote op d a b s
  | .sqred op ty d a b => execSqred op ty d a b s
  | .sqscan op ty d a b => execSqscan op ty d a b s
  | .sqinfo self d a => execSqinfo self d a s
  | .sealpt => execSealpt s
  | .seal => execSeal s
  | .splitrd d => execSplitrd d s
  | .vstx d b m off => execVstx d b m off s
  | .vemap op td ta tb w => execVemap op td ta tb w s
  | .vered op td ta w => execVered op td ta w s
  | .vescan op td ta w => execVescan op td ta w s
  | .vecvt td ta w => execVecvt td ta w s
  | .tdef t a imm => execTdef t a imm s
  | .trd d t q => execTrd d t q s
  | .tset field t a => execTset field t a s
  | .pclaim d a id n1 => execPclaim d a id n1 s
  | .prel a id n1 => execPrel a id n1 s
  | .qclaim d a id n1 => execQclaim d a id n1 s
  | .qrel a id n1 => execQrel a id n1 s
  | .mma shape z td ta tb w => execMma shape z td ta tb w s
  | .mmag shape z td ta tb a w => execMmag shape z td ta tb a w s
  | .qzero td w => execQzero td w s
  | .pload t td ta w => execPload t td ta w s
  | .qld td ta w => execQld td ta w s
  | .qst td ta w => execQst td ta w s
  | .qstl td ta w => execQstl td ta w s
  | .qcvt op td ta w => execQcvt op td ta w s
  | .cpy td ta w => execCpy td ta w s
  | .cpyx pull rs td ta a w => execCpyx pull rs td ta a w s
  | .bclose scope d => execBclose scope d s
  | .bwaitRel n => execBwaitRel n s
  | .bwaitLand n => execBwaitLand n s
  | .cstage d n => execCstage d n s
  | .ewait mask => execEwait mask s
  | .creduce op h root td ta w => execCreduce op h root td ta w s
  | .cbcast h root td ta w => execCbcast h root td ta w s
  | .callred op h td ta w => execCallred op h td ta w s
  | .cgather h td ta w => execCgather h td ta w s
  | .csrrd d csr => execCsrrd d csr s
  | .csrwr d csr a => execCsrwr d csr a s
  | .csrset d csr a => execCsrset d csr a s
  | .csrclr d csr a => execCsrclr d csr a s
  | .trap n => execTrap n s
  | .brk n => execBrk n s
  | .halt => execHalt s
  | .rte => execRte s
  | .segld d a b => execSegld d a b s
  | .segrd d a q => execSegrd d a q s
  | .ctxsave a => execCtxsave a s
  | .ctxload a => execCtxload a s
  | _ => .next s

/-! ### Waits at the tape (R53, R190) -/

/-- Instructions whose waits drop their context from the rotation, whatever they wait for (R190). -/
def Instr.sleeps : Instr → Bool
  | .chsend .. => true
  | .recvn .. => true
  | .rndclose => true
  | .waitc _ => true
  | .fence _ => true
  | .seal => true
  | .sealpt => true
  | i => isSquad i

/-- Conditions whose waits drop their context from the rotation (R53, R113; R238 and R253 for commands and batches). -/
def Wait.drops : Wait → Bool
  | .granule _ => true
  | .mailbox _ => true
  | .generation _ _ => true
  | .channel _ => true
  | .named _ => true
  | .reservation _ => true
  | .queueRoom => true
  | .stamp => true
  | .round => true
  | .seal _ _ => true
  | .page _ => true
  | .answer => true
  | .log => true
  | .counters => false
  | .postRoom => false
  | .commands => true
  | .batch => true
  | .older => false
  | .lap => false
  | .fetch => false

/-- The run state in which the tape tries an instruction: the wait that it is in, if any. -/
def Ctx.runAt (x : Ctx) : Run :=
  if x.aside then .active
  else match x.run with
    | .waiting w => .waiting w
    | .reply _ => .active
    | .idle => .active
    | .active => .active
    | .halted => .active
    | .killed => .active

/-- An instruction at the tape waits on a condition: its context leaves the rotation, or goes on issuing younger instructions while
this one stays at the tape. -/
def State.tapeWaits (s t : State) (c : CtxId) (q : Packet) (w : Wait) : State :=
  let x := s.ctx c
  let y := t.ctx c
  if Wait.drops w || Instr.sleeps q.instr then
    { t with cur := s.cur }.modCtx c fun _ =>
      { x.afterTape y q.instr with run := if x.aside then x.run else .waiting w, kick := y.kick, ir := q.words,
                                   waitLaps := y.waitLaps, waitLimit := y.waitLimit }
  else { s with seals := t.seals }

/-- An instruction at the tape has sent its request and awaits the reply; a squad instruction and FENCE.G drop their context (R190). -/
def State.tapeAsks (s t : State) (c : CtxId) (q : Packet) (i : Instr) : State :=
  let x := s.ctx c
  let y := t.ctx c
  let sleeps := Instr.sleeps i && !x.aside
  let sent := match Instr.ref i with
    | some r => r.kind.atomic
    | none => false
  ({ t with cur := s.cur }.modCtx c fun _ =>
    { x.afterTape y i with run := if sleeps then .reply i else x.runOn, ir := if sleeps then q.words else x.ir,
                           waitLaps := y.waitLaps, waitLimit := y.waitLimit }).modPipe (coreOf c) fun p =>
      p.modPacket q.tag fun z => { z with asks := some (t.nextId - 1), performed := sent }

/-- The lanes of a gather or scatter in the core's own S, each with the number of lower ones in its bank: a lane is served in that cycle
of the instruction (R92, R226). -/
def State.laneRanks (s : State) (c : CtxId) (q : Packet) : List (Nat × Nat) :=
  let t := s.packetState c q .active
  let ranks (b : VReg) (m : MemAddr) (off : BitVec 12) : List (Nat × Nat) :=
    let banks := ((t.ctx c).gatherLanes b m off).filterMap fun e => match t.place c m e.2.toNat 4 with
      | .bank o => some (e.1, o / 16 % 16)
      | .other _ _ => none
      | .glob _ => none
      | .both _ _ _ => none
      | .outside _ _ => none
    banks.map fun e => (e.1, (banks.filter fun d => d.2 == e.2 && decide (d.1 < e.1)).length)
  match q.instr with
  | .vstx _ b m off => ranks b m off
  | .vldx _ b m off => ranks b m off
  | _ => []

/-- Non-skipped lanes of a gather or scatter in the fullest bank of the core's own S (R226). -/
def State.laneCycles (s : State) (c : CtxId) (q : Packet) : Nat := (s.laneRanks c q).foldl (fun n e => max n (e.2 + 1)) 0

/-- A VSTX with the lanes that it performs in its cycle `part`: in its first the posted ones and the first of each bank of the core's own
S, then the next of each bank, in ascending order within a bank (R226; log entry 22). -/
def State.lanesOf (s : State) (c : CtxId) (q : Packet) : Packet :=
  let ranks := s.laneRanks c q
  let skips (i : Nat) : Bool := ((ranks.find? fun e => e.1 == i).map Prod.snd).getD 0 != q.part
  let lane (v : VWord) (i : Nat) : Nat := cond (skips i) 0xFFFFFFFF (laneOf 32 v.toNat i)
  let kept (v : VWord) : VWord := BitVec.ofNat 512 (packLanes 32 ((span 0 16).map (lane v)))
  match q.instr with
  | .vstx d b m off =>
    let srcs := q.srcs.map fun e => if e.reg = vk b then { e with value := e.value.map kept } else e
    { q with instr := .vstx d b (if q.part = 0 then m else { m with wc := .none }) off, srcs := srcs }
  | _ => q

/-- What the tape's attempt on an instruction comes to, and whether it has been the tape's operation of the cycle. A VSTX that has lanes of
its core's S still to write stays, performed, for the next cycles. -/
def State.tapeTry (s : State) (c : CtxId) (q : Packet) : State × Bool :=
  let x := s.ctx c
  let i := q.instr
  let s0 := if Instr.ends i then (s.landBefore c q).modCtx c fun x => x.loopOf q else s
  let q0 := s.lanesOf c q
  match Instr.taped q0.instr (s0.packetState c q0 x.runAt) with
  | .fault _ => (s, false)
  | .refused _ => (s, false)
  | .next t =>
    let y := t.ctx c
    if q.trapped x y then (s.tapeRefused c q y, false)
    else match y.run with
      | .reply j => (s.tapeAsks t c q j, true)
      | .waiting .lap =>
        if i == .yield then ((s.tapeDone t c q none).modCtx c fun z => { z with run := .waiting .lap }, true)
        else (s.tapeWaits t c q .lap, false)
      | .waiting w => (s.tapeWaits t c q w, false)
      | .active =>
        -- a TEND whose context has started its next task: its first instruction may issue from the next cycle (R71)
        if Instr.ends i then ({ t with cur := s.cur }.modPipe (coreOf c) fun p =>
          { p.kill (kOf c) (p.window (kOf c)) with shadow := tset 0 p.shadow (kOf c) (s.now (coreOf c) + 1) }, true)
        else
        let due := if Instr.banked i then some (s.now (coreOf c) + 3) else none
        if q.part + 1 < s.laneCycles c q then
          (({ t with cur := s.cur }.modCtx c fun y => x.afterTape y i).modPipe (coreOf c) fun p =>
            p.modPacket q.tag fun z => { z with performed := true, part := q.part + 1 }, true)
        else (s.tapeDone t c q due, true)
      | .idle => ({ t with cur := s.cur }.modPipe (coreOf c) fun p => p.kill (kOf c) (p.window (kOf c)), true)
      | .halted => ({ t with cur := s.cur }.modPipe (coreOf c) fun p => p.kill (kOf c) (p.window (kOf c)), true)
      | .killed => ({ t with cur := s.cur }, true)

/-! ### Precise traps (R350 to R359) -/

/-- An FP exception is ready on the oldest instruction of a context. -/
def Pipe.fpReady (p : Pipe) (k : Nat) : Option Nat :=
  (p.atTape k).bind fun q => match q.mark with
    | some (cause, _, _) => if q.complete && cause == causeFp then some q.issued else none
    | none => none

/-- Contexts whose FP exception first becomes ready now join the present lap's window. -/
def Pipe.collectFp (p : Pipe) : Pipe :=
  { p with fpLap := p.fpLap ++ (span 0 16).filterMap fun k =>
      if (p.fpLap.any fun e => e.1 == k) || p.fpPending.getLsbD k then none else (p.fpReady k).map fun t => (k, t) }

/-- A pending FP exception is the next to be taken: in open lap the oldest by issue, then by context (R359). -/
def Pipe.fpTurn (p : Pipe) (lap : Bool) (k issued : Nat) : Bool :=
  p.fpPending.getLsbD k && (lap || (span 0 16).all fun j => j == k || !p.fpPending.getLsbD j || match p.fpReady j with
    | none => true
    | some t => decide (issued < t ∨ (issued = t ∧ k < j)))

/-- A marked instruction whose trap is ready (R350). -/
def State.trapReady (s : State) (c : CtxId) (q : Packet) : Bool :=
  match q.mark with
  | none => false
  | some (cause, _, _) => q.complete && (cause != causeFp || (s.core (coreOf c)).pipe.fpTurn (s.ctx c).lap (kOf c) q.issued)

/-- The tape takes the trap of a marked instruction: every packet from it on is killed, and no instruction of the context issues for
five cycles (R351, R353). One that has been performed leaves its destination and its flags (R350). -/
def State.takeMarked (s : State) (c : CtxId) (q : Packet) : State :=
  match q.mark with
  | none => s
  | some (cause, ceaddr, cepc) =>
    let p := (s.core (coreOf c)).pipe
    let own := if q.performed then p.resultOf q.tag else none
    let s1 := (((s.killFrom c q).forget c).withdraw c).modCtx c fun x =>
      let y := match own with
        | none => x
        | some r => x.land r
      { y with ir := q.words, cstat := if cause = causeFp then y.cstat ||| ceaddr.setWidth 12 else y.cstat }
    if q.halts then (s1.loseResv c).modCtx c fun x => { x with dbgHalt := true, bps := true, bpArmed := false }
    else
      let t := s1.asCtx c fun t => t.trap cause ceaddr cepc
      -- a comparator's match, which names its comparator under bit 63 (R353, R354)
      let matched := cause == causeBreak && ceaddr.getLsbD 63 && !(s.ctx c).hl
      (t.modCtx c fun x => if matched then { x with bps := true, bpArmed := false } else x).modPipe (coreOf c) fun p =>
        { p with shadow := tset 0 p.shadow (kOf c) (s.now (coreOf c) + 5) }

/-- A precise trap that is ready on a context's oldest instruction is taken, an FP exception whether or not its window has closed: a
request to stop the context finds it taken (R350, R364). -/
def State.trapFirst (s : State) (c : CtxId) : State :=
  match (s.core (coreOf c)).pipe.atTape (kOf c) with
  | none => s
  | some q => if q.complete && q.mark.isSome then s.takeMarked c q else s

/-! ### The tape's operation of a cycle (R49, R56) -/

/-- The tape serves a context in this cycle: in fixed lap slot (t - 9) mod 16 is its own (R56); in open lap it has performed no operation
of the cycle yet, in fixed lap none for the context. -/
def State.tapeServes (s : State) (c : CtxId) : Bool :=
  let p := (s.core (coreOf c)).pipe
  let now := s.now (coreOf c)
  p.replay == 0 &&
  (if (s.ctx c).lap then (s.ctx c).mask.getLsbD ((now + 16 * 9 - 9) % 16) && !p.tapeNow.getLsbD (kOf c) else p.tapeNow == 0)

/-- The oldest instruction of a context that has not come to its end before this cycle, when it stands at the tape. One that is complete
since an earlier cycle and unmarked keeps no younger operation waiting, though it may still have to retire, one instruction a cycle (R298,
R301; log entry 10). -/
def Pipe.upNext (p : Pipe) (k : Nat) : Option Packet :=
  (((p.window k).filterMap p.packet).find? fun q => !(q.complete && q.mark.isNone && p.settled.contains q.tag)).filter fun q =>
    p.retire.any fun r => r.tag == q.tag

/-- The packet on which the tape would act for a context: its oldest, marked with a trap that is ready; or the next to be performed, with
its operands. -/
def State.tapeWork (s : State) (c : CtxId) : Option Packet :=
  let p := (s.core (coreOf c)).pipe
  ((p.atTape (kOf c)).filter (s.trapReady c)).orElse fun _ => (p.upNext (kOf c)).filter fun q =>
    q.mark.isNone && !q.complete && !q.performed && q.asks.isNone && q.launched && q.garnered && (Instr.siding q.instr).isNone

/-- A context that was out of the rotation and is in it again may issue from the next cycle (R53). -/
def State.rejoined (s t : State) (c : CtxId) : State :=
  let x := s.ctx c
  if x.run != .active && !x.aside && (t.ctx c).run == .active then t.modPipe (coreOf c) fun p =>
    { p with shadow := tset 0 p.shadow (kOf c) (max (tget 0 p.shadow (kOf c)) (s.now (coreOf c) + 1)) }
  else t

/-- Act on a packet at the tape; a trap and a performance are the tape's operation of the cycle. A refusal that the tape finds on the oldest
instruction is its trap in the same cycle (R350). -/
def State.tapeAct (s : State) (c : CtxId) (q : Packet) : State :=
  let (t, used) :=
    if q.mark.isSome then (s.takeMarked c q, true)
    else
      let (t, used) := s.tapeTry c q
      match ((t.core (coreOf c)).pipe.atTape (kOf c)).filter fun z => z.tag == q.tag && t.trapReady c z with
      | some z => (t.takeMarked c z, true)
      | none => (t, used)
  let u := s.rejoined t c
  if used then u.modPipe (coreOf c) fun p => { p with tapeNow := p.tapeNow ||| ctxBit (kOf c) } else u

/-- Act for a context if the tape serves it. -/
def State.tapeFor (s : State) (c : CtxId) : State :=
  if s.tapeServes c then match s.tapeWork c with
    | none => s
    | some q => s.tapeAct c q
  else s

/-- Put a context after those whose packets were not issued later. -/
def putByIssue (e : Nat × CtxId) : List (Nat × CtxId) → List (Nat × CtxId)
  | [] => [e]
  | f :: r => if e.1 < f.1 then e :: f :: r else f :: putByIssue e r

/-- Contexts of a core with work at the tape, the oldest by issue cycle first (R49). -/
def State.tapeOrder (s : State) (core : CoreId) : List CtxId :=
  let work := (ctxsOf core).filterMap fun c => (s.tapeWork c).map fun q => (q.issued, c)
  (work.foldl (fun l e => putByIssue e l) []).map Prod.snd

/-- A pending imprecise trap is taken at the boundary of its context in the first cycle in which the tape serves it; the handler issues
from the fifth cycle on, when the context holds no allocated tag (R353, R357). -/
def State.tapeImprecise (s : State) (c : CtxId) : State :=
  let x := s.ctx c
  if x.imprecise.isEmpty || x.hl || !s.tapeServes c || !s.interruptible c then s
  else
    let t := s.takeImprecise c
    if (t.ctx c).imprecise.length < x.imprecise.length then
      t.modPipe (coreOf c) fun p => { p with tapeNow := p.tapeNow ||| ctxBit (kOf c), drain := p.drain ||| ctxBit (kOf c),
                                             shadow := tset 0 p.shadow (kOf c) (s.now (coreOf c) + 5) }
    else t

/-- The VSTX of a context that has lanes of its core's S still to write writes those of this cycle (R226). -/
def State.scatterOn (s : State) (c : CtxId) : State :=
  match (s.core (coreOf c)).pipe.retire.find? fun q => q.ctx == kOf c && q.part != 0 && !q.complete with
  | none => s
  | some q => s.rejoined (s.tapeTry c q).1 c

/-- A context waits at the tape for a condition that now holds, and the tape has not come to its instruction: it rejoins the rotation
(R53). -/
def State.rejoin (s : State) (c : CtxId) : State :=
  match (s.ctx c).run, s.tapeWork c with
  | .waiting w, some q =>
    if (s.ctx c).aside || q.mark.isSome then s
    else if (s.tapeTry c q).2 then
      match w with
      | .lap => s
      | _ => s.rejoined (s.modCtx c fun x => { x with run := .active }) c
    else s
  | _, _ => s

/-- The tape's part of a cycle: imprecise traps, scatters that go on, its operations in order, and the contexts whose waits have ended. -/
def State.tapeCycle (s : State) (core : CoreId) : State :=
  let s1 := (ctxsOf core).foldl State.tapeImprecise s
  let s2 := (ctxsOf core).foldl State.scatterOn s1
  (ctxsOf core).foldl State.rejoin ((s2.tapeOrder core).foldl State.tapeFor s2)

/-- The oldest instruction of a context retires once it is complete and carries no mark, one in a cycle (R47). -/
def State.retireOne (s : State) (c : CtxId) : State :=
  let p := (s.core (coreOf c)).pipe
  match p.atTape (kOf c) with
  | none => s
  | some q =>
    if q.complete && q.mark.isNone && !p.retiredNow.getLsbD (kOf c) && p.replay == 0 then
      (if q.seen.isEmpty then s else s.modCtx c fun x => { x with seen := mergeClocks x.seen q.seen }).modPipe (coreOf c) fun p =>
      { p with retire := p.retire.filter fun r => r.tag != q.tag, retired := p.retired ++ [q.tag],
               retiredNow := p.retiredNow ||| ctxBit (kOf c) }
    else s

/-! ### The turn of a context -/

/-- The turn of the current context: a pending imprecise trap, or the instruction it waits at tested again, or its next issue; for one
with packets in the pipe the tape's operation, if it is its turn (R49). A context that may not issue stays as it is. -/
def State.turn (s0 : State) (run : Instr → State → Out) : Out :=
  let s := if s0.me.stepping then s0.modMe fun x => { x with stepping := false } else s0
  let x := s.me
  if !s.windowEmpty s.cur then
    (if !x.imprecise.isEmpty && !x.hl then .next (s.tapeImprecise s.cur)
     else if (s.tapeOrder (coreOf s.cur)).head? == some s.cur || x.lap then .next (s.tapeFor s.cur)
     else .next s0)
  else if !x.imprecise.isEmpty && !x.hl && s0.interruptible s0.cur then .next (s.takeImprecise s.cur)
  else if !s0.eligible s0.cur then .next s0
  else match x.run with
    | .waiting _ => (match decode (x.ir.map BitVec.toNat) with
      | .ok (i, _) => run i s
      | .error _ => .next s)
    | .active => (State.settle s.cur fillerFuel s).issueAt run
    | .idle => .next s
    | .reply _ => .next s
    | .halted => .next s
    | .killed => .next s

end Sys2Proof.Machine
end

