-- ==== Sys2Proof/Machine/WaitLimit.lean ====
section
/-! DEFINITION. The limits of waits (R403 to R405): which waits cwlim bounds, their counts, and their withdrawal. -/

namespace Sys2Proof.Machine

/-- The record of a packet's load in a full/empty table, its own core's or another's: the message, the S offset, and whether its condition
holds or its reply is on its way (R404). -/
def State.granuleWait (s : State) (c : CtxId) (q : Packet) : Option (Option Nat × Nat × Bool) :=
  let find (core : CoreId) (msg : Option Nat) : Option (Option Nat × Nat × Bool) :=
    ((s.core core).feWait.find? fun w => w.ctx == c && w.msg == msg).map fun w => (msg, w.off / 16 * 16, (s.core core).feHolds w)
  if q.ctx != kOf c then none
  else if q.parked then find (coreOf c) none
  else (q.asks.bind s.msg).bind fun m => match m.dest with
    | .core core => if m.recorded then find core (some m.id) else none
    | .home _ => none
    | .port _ => none
    | .directory _ => none
    | .sequencer => none
    | .controller _ => none
    | .ctx _ => none

/-- The message asks for the value of a load. -/
def Body.loads : Body → Bool
  | .load .. => true
  | _ => false

/-- A context waits in a wait that cwlim bounds (R403); an access of another core's S counts from its record (R404). -/
def State.limited (s : State) (c : CtxId) : Bool :=
  match (s.ctx c).run with
  | .waiting w => (match w with
    | .granule _ => true
    | .mailbox _ => true
    | .generation _ _ => true
    | .channel _ => true
    | .named _ => true
    | .reservation _ => true
    | .counters => false
    | .postRoom => false
    | .queueRoom => false
    | .commands => false
    | .batch => false
    | .stamp => false
    | .round => false
    | .seal _ _ => false
    | .page _ => false
    | .answer => false
    | .older => false
    | .fetch => false
    | .lap => false
    | .log => false)
  | .reply i =>
    (isSquad i && observesGeneration i) ||
    ((match Instr.ref i with
      | none => false
      | some r => r.kind == .load && r.m.fe != .plain) && s.net.any fun m => s.sentBy c m && m.recorded && m.body.loads)
  | .idle => false
  | .active => false
  | .halted => false
  | .killed => false

/-- The wait of a context that cwlim bounds: its KIND and OBJ, and whether its condition has been met meanwhile. -/
def State.boundedWait (s : State) (c : CtxId) : Option (Nat × BitVec 32 × Bool) :=
  let q := (s.core (coreOf c)).pipe.atTape (kOf c)
  let x := match q with
    | some q => { (s.packetState c q .active).ctx c with run := (s.ctx c).run }
    | none => s.ctx c
  let k := s.core (coreOf c)
  let instr : Option Instr := match q with
    | some q => some q.instr
    | none => match decode (x.ir.map BitVec.toNat) with
      | .ok (i, _) => some i
      | .error _ => none
  let granuleMet (core : CoreId) (msg : Option Nat) : Bool :=
    ((s.core core).feWait.find? fun w => w.ctx == c && w.msg == msg).any fun w => (s.core core).feHolds w
  match x.run with
  | .waiting (.granule off) => some (1, BitVec.ofNat 32 off, granuleMet (coreOf c) none)
  | .waiting (.mailbox i) => some (2, BitVec.ofNat 32 i, match instr with
    | some (.mbwait j v) => x.met || reached (k.mailbox j.toNat) v
    | _ => false)
  | .waiting (.channel off) => some (4, BitVec.ofNat 32 off, match instr with
    | some (.chsend ..) => let r := k.sendRec off; decide (r.out + r.inRing < r.slen)
    | some (.chrecv ..) => let r := k.recvRec off; k.allFe (r.rbase + 16 * (r.nextrd % r.rlen)) 16 true
    | _ => false)
  | .waiting (.named task) => some (5, task, match instr with
    | some (.recvn _ _ b) => k.named.any fun m => m.matches_ x.row.launch.toNat c task ((x.readG b).setWidth 32)
    | _ => false)
  | .waiting (.reservation g) => some (6, BitVec.ofNat 32 g, x.resv.isNone)
  | .reply i =>
    if isSquad i then
      (s.net.find? fun m => s.sentBy c m && m.recorded && m.body.bySquad).bind fun m => match m.body with
        | .squad h r => ((s.squad h.toNat).bind fun q => q.awaits c m.launch r).map fun gen =>
            (3, gen ++ h, s.net.any fun a => match a.body with
              | .answer .. => s.sentBy c a
              | _ => false)
        | _ => none
    else
      (s.net.find? fun m => s.sentBy c m && m.recorded && m.body.loads).bind fun m => match m.dest, m.body with
        | .core core, .load off .. => some (1, BitVec.ofNat 32 (off / 16 * 16), granuleMet core (some m.id))
        | _, _ => none
  | _ => none

/-- ceaddr of WAIT_LIMIT (R404). -/
def waitCeaddr (kind : Nat) (obj : BitVec 32) (limit : BitVec 16) : Word := obj ++ limit ++ BitVec.ofNat 16 kind

/-- A load that the pipe holds and whose count has passed its limit, its condition not being met: with its record. -/
def State.overdueLoad (s : State) (c : CtxId) : Option (Packet × Option Nat × Nat) :=
  ((s.core (coreOf c)).pipe.packets.filterMap fun q => (s.granuleWait c q).bind fun e =>
    if q.limit = 0 || q.laps ≤ q.limit.toNat || e.2.2 then none else some (q, e.1, e.2.1)).head?

/-- A load that the pipe holds is withdrawn from the table that has recorded it: it comes back as a refusal mark, or at the tape carries
one (R404). -/
def State.withdrawLoad (s : State) (c : CtxId) (q : Packet) (msg : Option Nat) (off : Nat) : State :=
  let mark : BitVec 8 × Word × Word := (causeWait, waitCeaddr 1 (BitVec.ofNat 32 off) q.limit, q.addr)
  let t := match msg.bind s.msg with
    | none => s.withdraw c
    | some m => match m.dest with
      | .core core => (s.modCore core fun k => k.unrecord c (some m.id)).dropMsg m.id
      | .home _ | .port _ | .directory _ | .sequencer | .controller _ | .ctx _ => s
  if Instr.siding q.instr = some .ls then t.loadBack c q (q.shell mark)
  else t.modPipe (coreOf c) fun p => p.modPacket q.tag fun z => { z with complete := true, asks := none, mark := some mark }

/-- A wait of a context is withdrawn: it traps, or its packet at the tape carries the mark of the trap. -/
def State.withdrawWait (s : State) (c : CtxId) (ceaddr : Word) : State :=
  match (s.core (coreOf c)).pipe.atTape (kOf c) with
  | some q =>
    let t := ((s.modPipe (coreOf c) fun p => p.modPacket q.tag fun z =>
      { z with complete := true, asks := none, mark := some (causeWait, ceaddr, q.addr) }).forget c).withdraw c
    t.modCtx c fun x => { x with run := x.runOn, kick := none }
  | none => ((s.forget c).withdraw c).asCtx c fun u => u.trap causeWait ceaddr (s.ctx c).pc

/-- A wait whose count has passed cwlim is withdrawn and the context takes WAIT_LIMIT, unless the condition has been met meanwhile. -/
def State.limitWait (s : State) (c : CtxId) : State :=
  match s.overdueLoad c with
  | some (q, msg, off) => s.withdrawLoad c q msg off
  | none => match s.boundedWait c with
    | none => s
    | some (kind, obj, met) =>
      let x := s.ctx c
      if x.waitLimit = 0 || x.waitLaps ≤ x.waitLimit.toNat || met then s
      else s.withdrawWait c (waitCeaddr kind obj x.waitLimit)

/-- The end of a cycle with a lap start, after every update of it: the waits whose counts it has brought past their limits are withdrawn, and
the tape takes the traps of those that it serves (R404). -/
def State.limitWaits (s : State) (core : CoreId) : State :=
  if s.now core % 16 ≠ 0 then s
  else
    let t := (ctxsOf core).foldl State.limitWait s
    (t.tapeOrder core).foldl State.tapeFor t

/-- WAIT_LIMIT: a wait of a context is withdrawn at its limit. -/
def execWaitLimit (ctx : CtxId) (s : State) : Out := .next (s.limitWait ctx)

end Sys2Proof.Machine
end

