-- ==== Sys2Proof/Machine/PipeRun.lean ====
section
/-! DEFINITION. The events of a core's pipe (R34 to R62): the cycle, the start of a lap (R51), re-entry (R46), injection (R297),
retirement (R47), the freeing of a tag (R38), traps taken at the tape (R350 to R360), replays (R361), the arrival of a fetch block
(R63) and the return of a context to the rotation (R53). A cycle does everything that is due in it; the other events do their part of
it earlier in the same cycle. -/

namespace Sys2Proof.Machine

/-! ### The parts of a cycle (R44) -/

/-- The packet of a stage. -/
def Pipe.at_ (p : Pipe) (stage : Nat) : Option Packet := (p.instrs.find? fun e => e.1 == stage).map Prod.snd

/-- The result of a stage; stage 9 is the tape's position. -/
def Pipe.resultAt (p : Pipe) (stage : Nat) : Option Result := (p.results.find? fun e => e.1 == stage).map Prod.snd

/-- A packet holds at its launch stage until it launches (R44). -/
def Packet.holds (q : Packet) (stage : Nat) : Bool :=
  !q.launched && q.mark.isNone && Instr.launchAt q.instr == some stage

/-- Step 1: every result descends a stage; one that reaches the blocks enters the landing buffer (R38). In fixed lap none stands in the
pipe. -/
def Pipe.descend (p : Pipe) : Pipe :=
  { p with landing := p.landing ++ (p.results.filter fun e => e.1 == 1).map Prod.snd,
           results := (p.results.filter fun e => e.1 != 0).map fun e => (e.1 - 1, e.2) }

/-- A packet holds at a stage or above it: no packet at or below it climbs, of any context (R45). -/
def Pipe.heldFrom (p : Pipe) (stage : Nat) : Bool := p.instrs.any fun e => decide (stage ≤ e.1) && e.2.holds e.1

/-- Step 4 for one stage: its packet climbs unless the stage above is taken; from C8 it joins the retire queue. -/
def Pipe.climbOne (p : Pipe) (stage : Nat) : Pipe :=
  match p.at_ stage with
  | none => p
  | some q =>
    if (p.at_ (stage + 1)).isSome then p
    else
      let rest := p.instrs.filter fun e => e.1 != stage
      if stage = 8 then { p with instrs := rest, retire := p.retire ++ [q] }
      else { p with instrs := rest ++ [(stage + 1, q)] }

/-- Step 4: from the top down, the packets that neither hold nor stand below one that does. A packet that reaches its launch stage in this
step does not hold in it (R61). -/
def Pipe.climb (p : Pipe) : Pipe := ([8, 7, 6, 5, 4, 3, 2, 1, 0].filter fun stage => !p.heldFrom stage).foldl Pipe.climbOne p

/-- A packet copies the value of a result whose tag it wants (R43). -/
def Packet.garner (q : Packet) (r : Result) : Packet :=
  { q with srcs := q.srcs.map fun e =>
      if e.value.isNone && e.want == r.tag then { e with value := some (tget 0 r.vals e.reg) } else e }

/-- A packet compares with the results of two stages (R42). -/
def Pipe.meet (p : Pipe) (stage : Nat) (q : Packet) : Packet :=
  [p.resultAt stage, p.resultAt (stage + 1)].foldl (fun x r => match r with
    | none => x
    | some r => if r.mark.isNone then x.garner r else x) q

/-- Step 6: every packet compares at its stage, the retire queue at C8 and the tape. -/
def Pipe.garnerAll (p : Pipe) : Pipe :=
  { p with instrs := p.instrs.map fun e => (e.1, p.meet e.1 e.2), retire := p.retire.map (p.meet 8) }

/-! ### Issue (R37, R51 to R57) -/

/-- The source of a register at issue (R37): the register store, the landing buffer, or the tag of its writer. An entry of the landing buffer
that is a refusal carries no value, and R385 gives none to the packet that will be killed behind it: the model lets that packet launch with 0
(DESIGN CHOICE, log entry 61). -/
def Pipe.source (p : Pipe) (x : Ctx) (k r : Nat) : Source :=
  match tget 0 p.board (64 * k + r) with
  | 0 => { reg := r, value := some (x.readKey r), want := 0 }
  | t + 1 => { reg := r, want := t, value := (p.landing.find? fun q => q.tag == t).map fun q => tget 0 q.vals r }

/-- The packet's result re-enters at the C8 inlet, or is injected at the tape (R40, R41, R48). -/
def Packet.comesLate (q : Packet) : Bool :=
  match Instr.siding q.instr with
  | none => true
  | some .ls => q.asks.isSome || q.parked || (match q.instr with
    | .vldx .. => true
    | i => match Instr.ref i with
      | some r => r.m.space != .localS
      | none => false)
  | some w => Siding.reentry w == 8

/-- The stage at which the packet's output leaves its siding; stage 8 is the C8 inlet (R40). -/
def Packet.outlet (q : Packet) : Nat :=
  match Instr.siding q.instr with
  | none => 0
  | some w => if w == .ls && q.comesLate then 8 else Siding.reentry w

/-- A .FW load that has not launched may find its granule empty and come back at the C8 inlet: its consumers wait as in R53 until it has
found it full (R95; DEDUCED, log entry 10). -/
def Packet.mayWait (q : Packet) : Bool := !q.launched && Instr.siding q.instr == some .ls && (Instr.ref q.instr).any fun r => r.m.fe == .first

/-- A result of a tag, in the pipe or in the landing buffer. -/
def Pipe.given (p : Pipe) (tag : Nat) : Option Result := (p.landing ++ p.results.map Prod.snd).find? fun r => r.tag == tag

/-- The context is out of the rotation for a source whose producer re-enters at the C8 inlet or is performed at the tape: its result has
not come back, or comes back in this cycle (R53). -/
def Pipe.awaits (p : Pipe) (k now r : Nat) : Bool :=
  match tget 0 p.board (64 * k + r) with
  | 0 => false
  | t + 1 => match p.given t with
    | some g => decide (now < g.since)
    | none => match p.packet t with
      | none => true
      | some q => q.comesLate || q.mayWait

/-- A vector instruction of context k has not begun its window (R57). -/
def Pipe.vecWaiting (p : Pipe) (k now : Nat) : Bool :=
  decide (now < tget 0 p.window0 k) || p.instrs.any fun e => e.2.ctx == k && Instr.siding e.2.instr == some .vec && !e.2.launched

/-! ### Loads behind older accesses of their context (R94, R101, R189, R260) -/

/-- The parts of an access of `size` bytes, with the data it would store there. -/
def State.parts (s : State) (c : CtxId) (m : MemAddr) (k : RefKind) (ea : Word) (size data : Nat) : List SbEntry :=
  let entry (core : Option CoreId) (a n v : Nat) : SbEntry := { msg := s.nextId, ctx := c, core := core, addr := a, size := n, data := v }
  if ((s.ctx c).accessRefusal m k ea.toNat size).isSome then []
  else match s.place c m ea.toNat size with
    | .bank off => [entry (some (coreOf c)) off size data]
    | .other core off => [entry (some core) off size data]
    | .glob va => [entry none va size data]
    | .both off n va => [entry (some (coreOf c)) off n (data % 256 ^ n), entry none va (size - n) (data / 256 ^ n)]
    | .outside _ _ => []

/-- The parts of the packet's access, from the operands it has garnered. -/
def State.partsOf (s : State) (c : CtxId) (q : Packet) : List SbEntry :=
  let t := s.packetState c q .active
  let x := t.ctx c
  match q.instr with
  | .vldx _ b m off => (x.gatherLanes b m off).flatMap fun e => t.parts c m .load e.2 4 0
  | .vstx d b m off => (x.gatherLanes b m off).flatMap fun e => t.parts c m .store e.2 4 (laneOf 32 (x.vec d) e.1)
  | i => match Instr.ref i with
    | some r => t.parts c r.m r.kind (MemAddr.ea r.m x r.off) r.size (if r.kind = .store then r.data x else 0)
    | none => []

/-- Two parts share a byte. -/
def SbEntry.meets (e f : SbEntry) : Bool := e.core == f.core && decide (e.addr < f.addr + f.size) && decide (f.addr < e.addr + e.size)

/-- Two accesses share a byte. -/
def partsMeet (l m : List SbEntry) : Bool := l.any fun e => m.any e.meets

/-- The packet is an acquire (R189, R198, R253, R254) or a FENCE: no younger memory access of its context goes before it (R260). -/
def Instr.orders (i : Instr) : Bool :=
  match i with
  | .rndclose => true
  | .ewait .. => true
  | .bwaitRel .. => true
  | .bwaitLand .. => true
  | .mbwait .. => true
  | .chrecv .. => true
  | .recvn .. => true
  | .fence .. => true
  | .vldx _ _ m _ => m.ord == .acq || m.ord == .ar
  | .vstx _ _ m _ => m.ord == .acq || m.ord == .ar
  | i => observesGeneration i || match Instr.ref i with
    | some r => r.acquires
    | none => false

/-- The packet writes memory when the tape performs it, as a plain store does: a younger load takes its bytes. -/
def Instr.stores (i : Instr) : Bool :=
  match i with
  | .vstx .. => true
  | i => match Instr.ref i with
    | some r => r.kind == .store
    | none => false

/-- The access may wait for the state of its granules. -/
def Instr.granular (i : Instr) : Bool :=
  match Instr.ref i with
  | some r => (r.kind == .load && r.m.fe != .plain) || (r.kind == .store && r.m.fe == .second)
  | none => false

/-- The packets of a context that are older than a packet and not complete. -/
def Pipe.before (p : Pipe) (q : Packet) : List Packet :=
  (((p.window q.ctx).takeWhile fun t => t != q.tag).filterMap p.packet).filter fun o => !o.complete

/-- Parts of an access that the own core's bank does not give. -/
def State.leaves (c : CtxId) (l : List SbEntry) : Bool := l.any fun e => e.core != some (coreOf c)

/-- A load does not launch, or in fixed lap does not issue, behind these older packets of its context: an acquire or a FENCE, an
access whose address is not known, a store to its bytes whose data are not there (R94), a reservation or an atomic on its bytes
or a load that may wait for their granules (R264), or for a load
that may wait in a full/empty table, which has one entry for the context, another access that may (R96). One that leaves the core also waits for the tape to perform an older store to its bytes. -/
def State.heldBack (s : State) (c : CtxId) (q : Packet) : Bool :=
  let mine := s.partsOf c q
  ((s.core (coreOf c)).pipe.before q).any fun o =>
    Instr.orders o.instr || (!o.addressed && Instr.access o.instr) || (Instr.granular q.instr && Instr.granular o.instr) ||
      (Instr.access o.instr && (Instr.siding o.instr != some .ls || Instr.granular o.instr) && (!Instr.stores o.instr || !o.garnered || State.leaves c mine) &&
        partsMeet mine (s.partsOf c o))

/-- An acquire that waits for other agents, or a FENCE: an access with ord ACQ or AR and no full/empty form ends by itself. -/
def Instr.awaitsOthers (i : Instr) : Bool :=
  Instr.orders i && match i with
    | .vldx .. => false
    | .vstx .. => false
    | i => (Instr.ref i).isNone || Instr.granular i

/-- A load does not issue while an older instruction of its context that would hold it at C4 waits for other agents: there it would
hold the contexts of its core that are to end that wait (R45, R189; DEDUCED, log entry 10). -/
def State.behindWait (s : State) (c : CtxId) (q : Packet) : Bool :=
  Instr.siding q.instr == some .ls && ((s.core (coreOf c)).pipe.before q).any fun o =>
    Instr.awaitsOthers o.instr ||
      (Instr.granular o.instr && (Instr.granular q.instr || (q.addressed && partsMeet (s.partsOf c q) (s.partsOf c o))))

/-- The state in which a load reads: its core's store buffer with its context's older stores that the tape has not yet performed
(R94). -/
def State.withStores (s : State) (c : CtxId) (q : Packet) : State :=
  let l := (((s.core (coreOf c)).pipe.before q).filter fun o => Instr.stores o.instr).flatMap (s.partsOf c)
  s.modCore (coreOf c) fun k => { k with storeBuf := k.storeBuf ++ l }

/-- The counter that a memory instruction's wait-count field names is zero (R101). -/
def Ctx.counted (x : Ctx) (i : Instr) : Bool :=
  match i with
  | .vldx _ _ m _ => x.waitCountZero m.wc
  | .vstx _ _ m _ => x.waitCountZero m.wc
  | i => match Instr.ref i with
    | some r => x.waitCountZero r.m.wc
    | none => true

/-- What a context would do in a slot. -/
inductive Slotted where
  /-- it is ineligible -/
  | idle
  /-- a packet issues; the state is brought to its address -/
  | packet (t : State) (q : Packet)
  /-- its next instruction's words have still to come; it stands behind the filler that it has passed (R63) -/
  | settled (t : State)
  /-- its code's page is not resident (R394) -/
  | page (t : State) (n : Nat)

/-- An instruction packet at its issue. -/
def Pipe.fresh (p : Pipe) (x : Ctx) (k now : Nat) (i : Instr) (taken : List Nat) (mark : Option (BitVec 8 × Word × Word)) : Packet :=
  { ctx := k, tag := 16 * k + tget 0 p.nextSeq k, instr := i, words := taken.map (BitVec.ofNat 32), addr := x.pc,
    srcs := (Instr.regs i).1.map (p.source x k), dsts := (Instr.regs i).2.filter fun r => r != 0,
    launched := (Instr.launchAt i).isNone || mark.isSome, performed := false, complete := i == .nop || mark.isSome, asks := none,
    parked := false, mark := mark, issued := now, laps := 0, limit := x.cwlim, loop := (x.loopCount, x.loopStart, x.loopEnd), halts := false, part := 0,
    seen := [] }

/-- A body that the loop at a context's pc would pin has a block still to come: the loop does not issue (R64). -/
def State.bodyMissing (s : State) (c : CtxId) (i : Instr) : Bool :=
  let pc := (s.ctx c).pc
  let missing (disp : BitVec 32) : Bool := s.pinning c pc.toNat (pc + 12).toNat (targetOf pc disp).toNat == .missing
  match i with
  | .loop _ disp => missing disp
  | .loopi cnt disp => cnt != 0 && missing disp
  | _ => false

/-- In fixed lap the instruction issues only with every source, a load of the load/store siding only when its counter is zero and nothing
older holds it back, and a vector instruction after the window of the one before has begun (R56, R57). -/
def State.lapHolds (s : State) (c : CtxId) (q : Packet) : Bool :=
  q.srcs.any (fun e => e.value.isNone) ||
  (Instr.siding q.instr == some .vec && (s.core (coreOf c)).pipe.vecWaiting (kOf c) (s.now (coreOf c))) ||
  (Instr.siding q.instr == some .ls && (!(s.ctx c).counted q.instr || s.heldBack c q))

/-- A tape-performed load of a context waits for its granule in another core's full/empty table (R53). -/
def State.waitsAway (s : State) (c : CtxId) : Bool :=
  (s.core (coreOf c)).pipe.packets.any fun q => q.ctx == kOf c && q.performed && !q.complete &&
    q.asks.any fun id => (s.msg id).any fun m => m.recorded

/-- What a context would do in a slot now (R52 to R57). -/
def State.slotted (s : State) (c : CtxId) : Slotted :=
  let x0 := s.ctx c
  let k := kOf c
  let p := (s.core (coreOf c)).pipe
  let now := s.now (coreOf c)
  if !s.mayRun c || x0.dbgHalt || x0.run != .active || (!x0.imprecise.isEmpty && !x0.hl) || 8 ≤ (p.window k).length ||
      now < tget 0 p.shadow k || s.waitsAway c || (p.drain.getLsbD k && !(p.window k).isEmpty) then .idle
  else
    let t := (State.settle c fillerFuel s).fetchHits c
    let x := t.ctx c
    match t.entry c with
    | .absent => .settled t
    | .page n => .page t n
    | .broken taken n b =>
      .packet t { p.fresh x k now .nop taken (some (causeBreak, BitVec.ofNat 64 (2 ^ 63 + n), x.pc)) with halts := !b.act }
    | .marked cause ceaddr cepc taken => .packet (t.dropPoisoned c cause) { p.fresh x k now .nop taken (some (cause, ceaddr, cepc)) with addr := cepc }
    | .instr i taken =>
      let q := p.fresh x k now i taken none
      if (Instr.serial i && !(p.window k).isEmpty) || q.srcs.any (fun e => p.awaits k now e.reg) || t.bodyMissing c i ||
          t.behindWait c q || (x.lap && t.lapHolds c q) then .idle
      else .packet t q

/-- The order in which contexts are tried for a slot (R55): its owner, then in open lap the others after the round-robin
pointer. -/
def State.slotOrder (s : State) (core : CoreId) : List Nat :=
  let k := s.core core
  let j := k.cycle.toNat % 16
  let owner := (span 0 16).filter fun n => (s.ctx (ctxOf core n)).mask.getLsbD j
  let lap := (ctxsOf core).any fun c => (s.ctx c).row.v && (s.ctx c).row.lap
  if lap then owner else owner ++ (span 1 16).map fun n => (k.pipe.rr + n) % 16

/-- A shadow that lasts until the branch has launched. -/
def openShadow : Nat := 2 ^ 64

/-- Place a packet at the blocks: its tag is allocated and it becomes the writer of its destinations; the charge of R290 falls
due. Nothing issues behind a serialising instruction (R39) or a packet that is marked. -/
def State.placePacket (s : State) (core : CoreId) (t : State) (q : Packet) : State :=
  let c := ctxOf core q.ctx
  let owner := (s.ctx c).mask.getLsbD (s.now core % 16)
  let t1 := t.modCtx c fun x =>
    { x.skipped.charge (if q.mark.isSome then 1 else Instr.charge q.instr) with pc := x.pc + BitVec.ofNat 64 (4 * q.words.length) }
  let alone := Instr.serial q.instr || q.mark.isSome
  t1.modPipe core fun p =>
    { p with instrs := (0, q) :: p.instrs, board := q.dsts.foldl (fun b r => tset 0 b (64 * q.ctx + r) (q.tag + 1)) p.board,
             tags := tset [] p.tags q.ctx (p.window q.ctx ++ [q.tag]), nextSeq := tset 0 p.nextSeq q.ctx ((q.tag + 1) % 16),
             noResult := if q.complete then p.noResult ++ [q.tag] else p.noResult, rr := if owner then p.rr else q.ctx,
             drain := if alone then p.drain ||| ctxBit q.ctx else p.drain &&& ~~~(ctxBit q.ctx),
             shadow := if Instr.isBranch q.instr then tset 0 p.shadow q.ctx openShadow else p.shadow }

/-- A branch's outcome is known: its context's next address and loop state, and the first cycle after its shadow (R54, R64). -/
def State.branched (s : State) (c : CtxId) (y : Ctx) (from_ : Nat) : State :=
  (s.modCtx c fun x => { x with pc := y.pc, pinned := y.pinned, loopBuf := y.loopBuf, loopCount := y.loopCount,
                                loopStart := y.loopStart, loopEnd := y.loopEnd }).modPipe (coreOf c) fun p =>
    { p with shadow := tset 0 p.shadow (kOf c) from_ }

/-- A loop whose count is known at its issue pins its body then, with no shadow, or with a count of 0 casts the shadow of a branch (R64);
a refusal marks it. -/
def State.loopAtIssue (s : State) (core : CoreId) (q : Packet) : State :=
  let c := ctxOf core q.ctx
  let now := s.now core
  let isLoop := match q.instr with
    | .loop .. => true
    | .loopi .. => true
    | _ => false
  if !isLoop || !q.garnered then s
  else match Instr.sided q.instr (s.packetState c q .active) with
    | some (.next t) =>
      let y := t.ctx c
      if q.trapped (s.ctx c) y then
        (s.modCtx c fun x => { x with loopCount := 0 }).modPipe core fun p =>
          { p.modPacket q.tag fun z => { z with complete := true, launched := true, mark := some y.refusal, loop := (0, z.loop.2) } with
              drain := p.drain ||| ctxBit q.ctx }
      else (s.branched c y (if y.pinned then now + 1 else now + 5)).modPipe core fun p =>
        p.modPacket q.tag fun z => { z with performed := true }
    | some (.fault _) => s
    | some (.refused _) => s
    | none => s

/-- Step 5: the first context in order that has a packet issues it, if the blocks are free. -/
def State.issuePacket (s : State) (core : CoreId) : List Nat → State
  | [] => s
  | k :: r =>
    let c := ctxOf core k
    match s.slotted c with
    | .idle => s.issuePacket core r
    | .packet t q => (s.placePacket core t q).loopAtIssue core q
    | .settled t => t.issuePacket core r
    | .page t n => (t.waitsPage c n).issuePacket core r

/-! ### Launch (R40, R44 to R46, R54, R57) -/

/-- Cycles from launch to re-entry; a VLDX in the core's own S takes 2 and one for each lane in its fullest bank (R226). -/
def Packet.latency (q : Packet) (w : Siding) (lanes : Nat) : Nat :=
  match w with
  | .alu => 1
  | .mul => 3
  | .fdiv => 14
  | .vec => 3
  | .ls => match q.instr with
    | .vldx .. => 2 + max 1 lanes
    | _ => 3
  | .idiv =>
    let a : Word := match q.srcs.head? with
      | none => 0
      | some e => (e.value.getD 0).setWidth 64
    let m := match q.instr with
      | .divn .. => a.toNat
      | .remn .. => a.toNat
      | _ => a.toInt.natAbs
    4 + (bitLen m + 3) / 4

/-- First window of a context at or after a cycle: window j of a frame of 32 cycles is cycles 2j and 2j + 1 (R57). -/
def windowFrom (mask : BitVec 16) : Nat → Nat → Nat
  | 0, now => now
  | fuel + 1, now => if now % 2 = 0 ∧ mask.getLsbD (now % 32 / 2) then now else windowFrom mask fuel (now + 1)

/-- The cycle in which a fixed-lap result enters the landing buffer (R40, R57). -/
def Packet.delivery (q : Packet) (w : Siding) (lanes : Nat) (mask : BitVec 16) (now : Nat) : Nat :=
  match w with
  | .alu => q.issued + 6
  | .mul => q.issued + 10
  | .idiv => q.issued + q.latency .idiv lanes + 11
  | .fdiv => q.issued + 25
  | .vec => windowFrom mask 64 now + 9
  | .ls => if q.comesLate then now + q.latency .ls lanes + 8 else q.issued + 14

/-- A siding accepts a launch: its output buffer has room, and the vector datapath is free (R40, R46). -/
def Pipe.accepts (p : Pipe) (w : Siding) : Bool :=
  decide ((p.sidings.filter fun e => e.siding == w && e.left == 0).length < 2) &&
  (w != .vec || !p.sidings.any fun e => e.siding == .vec && decide (2 ≤ e.left))

/-- A packet launches with a result: into its siding, or in fixed lap into the fixed-lap return. A branch is complete, and one
without a destination has no result. -/
def State.launched (s : State) (core : CoreId) (q : Packet) (w : Siding) (lanes : Nat) (r : Result) : State :=
  let x := s.ctx (ctxOf core q.ctx)
  let now := s.now core
  let done := Instr.isBranch q.instr && r.mark.isNone
  let bare := done && q.dsts.isEmpty
  let stage := q.outlet
  s.modPipe core fun p =>
    let p1 := p.modPacket q.tag fun z => { z with launched := true, complete := done, mark := if done then none else z.mark }
    let p2 := if w == .vec && x.lap then { p1 with window0 := tset 0 p1.window0 q.ctx (windowFrom x.mask 64 now) } else p1
    if bare then { p2 with noResult := p2.noResult ++ [q.tag] }
    else if x.lap then
      let at_ := q.delivery w lanes x.mask now
      { p2 with returns := p2.returns ++ [(at_, { r with since := if stage = 8 then at_ + 1 else 0 })] }
    else { p2 with sidings := p2.sidings ++
      [{ siding := w, stage := stage, left := q.latency w lanes, issued := q.issued, result := r, dead := false }] }

/-- The refusal that the C4 check finds for a packet (R367, R375). -/
def State.checkRefusal (s : State) (c : CtxId) (q : Packet) : Option (BitVec 8 × Word) :=
  let t := s.packetState c q .active
  let x := t.ctx c
  match q.instr with
  | .vldx _ b m off => x.laneRefusal m .load (x.gatherLanes b m off)
  | .vstx _ b m off => x.laneRefusal m .store (x.gatherLanes b m off)
  | .tdef _ a imm => let ea := x.readG a + imm.signExtend 64; (tdefRefusal ea).map fun cause => (cause, ea)
  | .ctxsave a => t.imageRefusal a
  | .ctxload a => t.imageRefusal a
  | i => match Instr.ref i with
    | none => none
    | some r =>
      let ea := MemAddr.ea r.m x r.off
      (x.accessRefusal r.m r.kind ea.toNat r.size).map fun cause => (cause, ea)

/-- A packet is marked where it stands and goes on as a shell (R349). -/
def State.markAt (s : State) (core : CoreId) (q : Packet) (mark : BitVec 8 × Word × Word) : State :=
  s.modPipe core fun p => p.modPacket q.tag fun z => { z with launched := true, complete := true, mark := some mark }

/-- The counters of a context as they were at the issue of a load in fixed lap: zero where its wait-count field names them (R56). -/
def Ctx.uncounted (x : Ctx) (lap : Bool) : Ctx := if lap then { x with near := 0, far := 0, mem := 0 } else x

/-- What a load does to its core is kept, but for the store buffer, in which it only read; its context stays as it is. -/
def State.loadKept (s t : State) (c : CtxId) : State :=
  ({ t with cur := s.cur }.modCore (coreOf c) fun z => { z with storeBuf := (s.core (coreOf c)).storeBuf }).modCtx c fun y =>
    { s.ctx c with waitLaps := y.waitLaps, waitLimit := y.waitLimit }

/-- The clock of what a load has read stays with its packet until it retires (R266). -/
def State.sawReads (s : State) (c : CtxId) (q : Packet) (y : Ctx) : State :=
  s.modPipe (coreOf c) fun p => p.modPacket q.tag fun z => { z with seen := y.seen }

/-- Step 7 for an instruction of the load/store siding: its check; then in open lap it holds behind older accesses of its context, and on
its counter; it takes the bytes of its older stores. One that leaves the core awaits its reply, a .FW load on an empty granule its
bank, and the siding has the output when that has come (R40, R41, R94). -/
def State.launchLoad (s : State) (core : CoreId) (q : Packet) : State :=
  let c := ctxOf core q.ctx
  let x := s.ctx c
  match s.checkRefusal c q with
  | some (cause, ea) => s.markAt core q (cause, ea, q.addr)
  | none =>
    if !x.lap && s.heldBack c q then s
    else match Instr.sided q.instr (((s.withStores c q).packetState c q .active).modCtx c fun y => y.uncounted x.lap) with
      | some (.next t) =>
        let y := t.ctx c
        let kept := s.loadKept t c
        let lanes := s.laneCycles c q
        if q.trapped x y then s.launched core q .ls lanes (q.refused y)
        else match y.run with
          | .reply _ => kept.modPipe core fun p => p.modPacket q.tag fun z => { z with launched := true, asks := some (t.nextId - 1) }
          | .waiting (.granule _) => kept.modPipe core fun p => p.modPacket q.tag fun z => { z with launched := true, parked := true }
          | .active => (kept.launched core q .ls lanes (q.result y 0)).sawReads c q y
          | .waiting _ => s
          | .idle => s
          | .halted => s
          | .killed => s
      | some (.fault _) => s
      | some (.refused _) => s
      | none => s

/-- Step 7 for a packet that had its operands before this cycle's garnering. -/
def State.launchOne (s : State) (core : CoreId) (q : Packet) : State :=
  let c := ctxOf core q.ctx
  let x := s.ctx c
  let w := (Instr.siding q.instr).getD .ls
  if !x.lap && !(s.core core).pipe.accepts w then s
  else match Instr.siding q.instr with
    | none => match s.checkRefusal c q with
      | some (cause, ea) => s.markAt core q (cause, ea, q.addr)
      | none => s.modPipe core fun p => p.modPacket q.tag fun z => { z with launched := true }
    | some .ls => s.launchLoad core q
    | some w =>
      if q.performed then
        -- a loop that has pinned its body at its issue
        s.launched core q w 0 (q.result x 0)
      else match Instr.sided q.instr (s.packetState c q .active) with
        | some (.next t) =>
          let y := t.ctx c
          if q.trapped x y then s.launched core q w 0 (q.refused y)
          else if q.ran x y then
            (if Instr.isBranch q.instr then s.branched c y (s.now core + (if y.pinned && !x.pinned then 1 else 3)) else s).launched core q w 0
              (q.result y 0)
          else s
        | some (.fault _) => s
        | some (.refused _) => s
        | none => s

/-- The packets that launch in this cycle: at their launch stages with every operand that they need there. -/
def Pipe.launchers (p : Pipe) : List Packet :=
  (p.instrs.filter fun e => e.2.holds e.1 && (if (Instr.siding e.2.instr).isSome then e.2.garnered else e.2.addressed)).map Prod.snd

/-! ### Completion (R46) and the collection window (R359) -/

/-- A result stands for the completion of its instruction; one that the tape performed and that raises an enabled exception is marked already
(R350). -/
def Pipe.completes (p : Pipe) (r : Result) : Pipe := p.modPacket r.tag fun q => { q with complete := true, mark := r.mark.orElse fun _ => q.mark }

/-- A fixed-lap result that enters the landing buffer in cycle `due` has left its siding: the instruction is complete in the cycle in
which the output would re-enter (R40, R46, R62). -/
def Pipe.emerged (p : Pipe) (now due : Nat) (r : Result) : Bool :=
  (p.packet r.tag).any fun q => !q.complete && decide (due ≤ now + q.outlet)

/-- Fixed-lap returns that are due enter the landing buffer, and the instructions of those that have left their sidings are complete. -/
def Pipe.deliver (p : Pipe) (now : Nat) : Pipe :=
  (p.returns.filter fun e => p.emerged now e.1 e.2).foldl (fun p e => p.completes e.2)
    { p with landing := p.landing ++ (p.returns.filter fun e => decide (e.1 ≤ now)).map Prod.snd,
             returns := p.returns.filter fun e => !decide (e.1 ≤ now) }

/-- Sidings keep working: every entry is a cycle nearer to its re-entry; those whose output buffer is full keep their outputs inside
(R46; log entry 46), and a dead one leaves when it gets there (R351, R361). -/
def Pipe.tick (p : Pipe) : Pipe :=
  let waiting (w : Siding) : Nat := (p.sidings.filter fun e => e.siding == w && e.left == 0 && !e.dead).length
  let ahead (e : InSiding) : Nat := (p.sidings.filter fun f => f.siding == e.siding && f.left == 1 && !f.dead && decide (f.issued < e.issued)).length
  { p with sidings := (p.sidings.map fun e =>
      if e.left = 1 ∧ !e.dead ∧ 2 ≤ waiting e.siding + ahead e then e else { e with left := e.left - 1 }).filter fun e => !(e.dead && e.left == 0) }

/-! ### Re-entry and injection -/

/-- The output that may re-enter at a stage: of those that are due the oldest by issue (R46). -/
def Pipe.dueOutput (p : Pipe) (stage : Nat) : Option InSiding :=
  let due := p.sidings.filter fun e => e.left == 0 && !e.dead && e.stage == stage
  due.find? fun e => due.all fun f => decide (e.issued ≤ f.issued)

/-- A packet that has climbed past the stage where an output re-enters, or climbs from it in this cycle, compares with it there: no
packet and result cross without being compared (R42), though the output had to wait for its result position (log entry 46). -/
def Pipe.crosses (p : Pipe) (stage : Nat) (r : Result) : Pipe :=
  if r.mark.isSome then p
  else { p with instrs := p.instrs.map fun e => (e.1, if stage < e.1 || (stage == e.1 && !e.2.holds e.1) then e.2.garner r else e.2),
                retire := p.retire.map fun q => q.garner r }

/-- The due output of a stage re-enters when that result position is empty; its instruction is complete. -/
def Pipe.reenter (p : Pipe) (now stage : Nat) : Pipe :=
  match p.dueOutput stage with
  | none => p
  | some e =>
    if (p.resultAt stage).isSome then p
    else
      let r := { e.result with since := if stage = 8 then now + 1 else 0 }
      { p with sidings := p.sidings.filter fun f => !(f.result.tag == r.tag && !f.dead),
               results := p.results ++ [(stage, r)] }.completes r |>.crosses stage r

/-- The stages at which outputs re-enter. -/
def reentries : List Nat := [3, 5, 6, 7, 8]

/-- SIDING_OUTPUT_REENTRY: an output of a siding re-enters, where it is the one to do so. -/
def execSidingOutputReentry (core : CoreId) (siding : Siding) (s : State) : Out :=
  if (s.core core).pipe.replay ≠ 0 then .next s
  else .next (s.modPipe core fun p => reentries.foldl (fun p stage =>
    if (p.dueOutput stage).any fun e => e.siding == siding then p.reenter (s.now core) stage else p) p)

/-- Injections that are due and have nothing to inject: their instructions are complete (R297). In fixed lap a due result goes to the
fixed-lap return (R60). -/
def Pipe.settleInjections (p : Pipe) (lap : Bool) (now : Nat) : Pipe :=
  let out (e : Injection) : Bool := decide (e.due ≤ now) && (e.bare || lap)
  (p.inject.filter out).foldl (fun p e =>
    let p1 := p.completes e.result
    if e.bare then { p1 with noResult := p1.noResult ++ [e.result.tag] }
    else { p1 with returns := p1.returns ++ [(now + 1, { e.result with since := now + 2 })] })
    { p with inject := p.inject.filter fun e => !out e }

/-- The result to inject in this cycle: that of the context that owns the slot if one waits, otherwise that of the oldest instruction by
issue cycle (R297). -/
def Pipe.injection (p : Pipe) (owner : Nat → Bool) (now : Nat) : Option Injection :=
  let due := p.inject.filter fun e => decide (e.due ≤ now)
  (due.find? fun e => owner e.result.ctx).orElse fun _ => due.find? fun e => due.all fun f => decide (e.issued ≤ f.issued)

/-- Step 2: one result is injected at the tape's empty position. -/
def Pipe.injectOne (p : Pipe) (owner : Nat → Bool) (now : Nat) : Pipe :=
  match p.injection owner now with
  | none => p
  | some e =>
    if (p.resultAt 9).isSome then p
    else { p with inject := p.inject.filter fun f => f.result.tag != e.result.tag,
                  results := p.results ++ [(9, { e.result with since := now + 1 })] }.completes e.result

/-- The contexts of a core run in fixed lap. -/
def State.lapOn (s : State) (core : CoreId) : Bool := (ctxsOf core).any fun c => (s.ctx c).row.v && (s.ctx c).row.lap

/-- Step 2 of a core's cycle. -/
def State.inject (s : State) (core : CoreId) : State :=
  let now := s.now core
  s.modPipe core fun p => (p.settleInjections (s.lapOn core) now).injectOne (fun k => (s.ctx (ctxOf core k)).mask.getLsbD (now % 16)) now

/-- TAPE_RESULT_INJECTION: a context's result is injected, if it is the one to be injected in this cycle (R48, R297). -/
def execTapeResultInjection (ctx : CtxId) (s : State) : Out :=
  let core := coreOf ctx
  let now := s.now core
  if (s.core core).pipe.replay ≠ 0 then .next s
  else
  let p := (s.core core).pipe.settleInjections (s.lapOn core) now
  match p.injection (fun k => (s.ctx (ctxOf core k)).mask.getLsbD (now % 16)) now with
  | none => .next (s.modPipe core fun _ => p)
  | some e => if e.result.ctx = kOf ctx then .next (s.inject core) else .next s

/-! ### Retirement and freeing -/

/-- INSTRUCTION_RETIRE: the oldest instruction of a context retires (R47). -/
def execInstructionRetire (ctx : CtxId) (s : State) : Out := .next (s.retireOne ctx)

/-- TAG_FREE (R38); nothing is freed in a replay cycle (R361). -/
def execTagFree (ctx : CtxId) (s : State) : Out :=
  .next (if (s.core (coreOf ctx)).pipe.replay ≠ 0 then s else s.freeTag ctx)

/-! ### Laps (R51, R175, R359, R404) -/

/-- What a lap start does to a context: its slot mask takes effect, a YIELD ends, and a wait's count rises. -/
def State.lapCtx (s : State) (c : CtxId) : State :=
  let here := !(s.ctx c).quotaHeld && !(s.ctx c).row.pre
  let counts := s.limited c && here
  let t := s.modCtx c fun x => { x with mask := x.row.slots, run := if x.run = .waiting .lap then .active else x.run,
                                        waitLaps := if counts then x.waitLaps + 1 else x.waitLaps }
  let held := ((s.core (coreOf c)).pipe.packets.filter fun q => here && (s.granuleWait c q).isSome).map fun q => q.tag
  held.foldl (fun u tag => u.modPipe (coreOf c) fun p => p.modPacket tag fun q => { q with laps := q.laps + 1 }) t

/-- The start of a lap of a core. The FP exceptions of the lap before are ordered into the pending bitmap. -/
def State.lapStart (s : State) (core : CoreId) : State :=
  let k := s.core core
  if k.cycle.toNat % 16 ≠ 0 || k.lapBegun then s
  else ((ctxsOf core).foldl State.lapCtx s).modCore core fun z =>
    { z with lapBegun := true, pipe := { z.pipe with
        fpPending := z.pipe.fpLap.foldl (fun b e => b ||| ctxBit e.1) z.pipe.fpPending, fpLap := [] } }

/-- LAP_START: the cycle counter is a multiple of 16. -/
def execLapStart (core : CoreId) (s : State) : Out := .next (s.lapStart core)

/-! ### The cycle (R44) -/

/-- Every context retires an instruction that it may retire in this cycle. -/
def State.retireAll (s : State) (core : CoreId) : State := (ctxsOf core).foldl State.retireOne s

/-- Step 5: the slot's packet issues if the blocks are free. -/
def State.issueSlot (s : State) (core : CoreId) : State :=
  if ((s.core core).pipe.at_ 0).isSome then s else s.issuePacket core (s.slotOrder core)

/-- Steps 4 to 7, with the tape's operation after the climb: a context that leaves the rotation there does not issue in that cycle (R175). A
complete instruction retires after it: what waits for an older one to complete comes in the next cycle (R47, R298; log entry 10). -/
def State.climbAndLaunch (s : State) (core : CoreId) : State :=
  let s1 := s.modPipe core Pipe.climb
  let ready := (s1.core core).pipe.launchers
  let s2 := ((s1.modPipe core Pipe.garnerAll).tapeCycle core).issueSlot core
  let s3 := s2.modPipe core Pipe.garnerAll
  (ready.foldl (fun t p => match (t.core core).pipe.packet p.tag with
    | none => t
    | some q => t.launchOne core { p with performed := q.performed }) s3).retireAll core

/-- Up to two tags of each context are freed in a cycle (R38). -/
def State.freeAll (s : State) (core : CoreId) : State := (ctxsOf core).foldl (fun t c => (t.freeTag c).freeTag c) s

/-- A cycle of a pipe ends: what was complete in it is settled, and the next cycle begins with its step 1 and its fixed-lap returns. -/
def Pipe.endCycle (p : Pipe) (next : Nat) : Pipe :=
  let settled := (p.packets.filter fun q => q.complete).map fun q => q.tag
  { ((p.collectFp.tick).descend).deliver next with retiredNow := 0, freedNow := [], tapeNow := 0, settled := settled }

/-- PIPE_CYCLE: what is still to do in the present cycle: the start of a lap, steps 2 to 7 of R44, the tape, retirement and freeing, and at a
lap's start the limits of waits; then the next cycle. In a replay cycle only the sidings work (R361). -/
def execPipeCycle (core : CoreId) (s : State) : Out :=
  let q := s.cluster (clusterOf core)
  let k := s.core core
  if q.tripped then .next s
  else if k.pipe.replay ≠ 0 then .next (s.modPipe core fun p => { p.tick with replay := p.replay - 1 })
  else
    let s1 := ((s.lapStart core).inject core).modPipe core fun p => reentries.foldl (fun p stage => p.reenter (s.now core) stage) p
    let s2 := ((s1.climbAndLaunch core).freeAll core).limitWaits core
    .next (s2.modCore core fun z => { z with cycle := z.cycle + 1, lapBegun := false, pipe := z.pipe.endCycle (z.cycle + 1).toNat })

/-! ### Traps at the tape (R350 to R360) -/

/-- PRECISE_TRAP_TAKEN: the tape takes the trap that a marked instruction of a context is ready for, in its turn. -/
def execPreciseTrapTaken (ctx : CtxId) (s : State) : Out :=
  match s.tapeWork ctx with
  | none => .next s
  | some q =>
    if q.mark.isSome && s.tapeServes ctx && ((s.ctx ctx).lap || (s.tapeOrder (coreOf ctx)).head? == some ctx) then
      .next (s.tapeAct ctx q)
    else .next s

/-- IMPRECISE_TRAP_TAKEN (R357). -/
def execImpreciseTrapTaken (ctx : CtxId) (s : State) : Out :=
  .next (s.tapeImprecise ctx)

/-! ### Replays, fetch, the rotation -/

/-- TIMING_REPLAY: a detector of a stage C1 to C8 finds a late transition: the pipe stands still for two cycles, in
which the detectors are ignored (R361). -/
def execTimingReplay (core : CoreId) (_stage : Fin 8) (s : State) : Out :=
  if (s.core core).pipe.replay ≠ 0 then .next s
  else .next (s.modCore core fun k => { k with detections := k.detections + 1, pipe := { k.pipe with replay := 2 } })

/-- FETCH_BLOCK_ARRIVAL: a block that a context has requested comes from memory into the cluster's instruction cache, single-bit errors
being corrected and written back (R93), and from there into the fetch buffer (R63). -/
def execFetchBlockArrival (ctx : CtxId) (block : Nat) (s : State) : Out :=
  let va := 32 * block
  if !s.requested ctx va || !(s.page (pageOf va)).resident then .next s
  else
    let cl := clusterOf ctx
    let t := if (s.cluster cl).icache.any fun e => e.1 == va then s
      else (s.readBackG va 32).modCluster cl fun q => { q with icache := tput q.icache va (s.blockAt va) }
    .next (t.fetchHits ctx)

/-- CONTEXT_REJOIN: a dropped context rejoins the rotation: its turn comes next, in which its instruction finds its condition met or
goes on waiting (R53). -/
def execContextRejoin (ctx : CtxId) (s : State) : Out :=
  match (s.ctx ctx).run with
  | .waiting _ => if s.eligible ctx then .next { s with agenda := .context ctx :: s.agenda } else .next s
  | .idle => .next s
  | .active => .next s
  | .reply _ => .next s
  | .halted => .next s
  | .killed => .next s

end Sys2Proof.Machine
end

