-- ==== Sys2Proof/Machine/Granules.lean ====
section
/-! DEFINITION. The full/empty wait table (R96): when a granule changes state the bank performs the recorded accesses whose conditions
hold, those of other cores, and the core's own, which its pipe may hold. -/

namespace Sys2Proof.Machine

/-- The load of a context that is recorded in its core's table, if the pipe holds it. -/
def State.parkedLoad (s : State) (c : CtxId) : Option Packet :=
  (s.core (coreOf c)).pipe.packets.find? fun q => q.ctx == kOf c && q.parked

/-- The bank performs a load that the pipe holds: the load/store siding has its output (R41). -/
def State.serveParked (s : State) (c : CtxId) (q : Packet) : State :=
  let x := s.ctx c
  match Instr.sided q.instr (((s.withStores c q).packetState c q .active).modCtx c fun y => y.uncounted x.lap) with
  | some (.next t) =>
    let y := t.ctx c
    let kept := s.loadKept t c
    if q.trapped x y then kept.loadBack c q (q.refused y)
    else if y.run == .active then (kept.loadBack c q (q.result y 0)).sawReads c q y
    else s
  | some (.fault _) => s
  | some (.refused _) => s
  | none => s

/-- The recorded access of a context whose core's pipe is empty of it is performed as its instruction. -/
def State.serveWhole (s : State) (c : CtxId) : State :=
  s.asCtx c fun t => match decode (t.me.ir.map BitVec.toNat) with
    | .error _ => t
    | .ok (i, _) => match Instr.ref i with
      | none => t
      | some r =>
        let o := if r.kind = .load then t.load i else t.store i
        match o with
        | .next u => u
        | .fault _ => t
        | .refused _ => t

/-- Perform a core's own recorded access: a parked load, the instruction at the tape, or that of a context that issues whole. -/
def State.serveOwn (s : State) (c : CtxId) : State :=
  if s.windowEmpty c then s.serveWhole c
  else match s.parkedLoad c with
    | some q => s.serveParked c q
    | none => s.tapeFor c

/-- Perform a recorded access whose condition holds. -/
def State.serveWaiter (s : State) (core : CoreId) (w : FeWaiter) : State :=
  match w.msg with
  | some id => (match s.msg id with
    | none => s
    | some m => match m.body with
      | .store k off size data fe ea => s.serveStore m core k off size data fe ea
      | _ => s.serveRequest m core)
  | none => s.serveOwn w.ctx

/-- A core's own recorded access may be performed now: its context may issue, the load/store siding has room for a parked load's output, or
the tape serves the context and has come to its instruction (R56, R60). -/
def State.servableOwn (s : State) (c : CtxId) : Bool :=
  if s.windowEmpty c then s.eligible c
  else s.mayRun c && match s.parkedLoad c with
    | some q => s.lsRoom c q
    | none => s.tapeServes c && (s.tapeWork c).isSome

/-- A recorded access of a granule whose condition holds; one of a core that is not there waits outside the bank (R289). -/
def State.feDue (s : State) (core : CoreId) (g : Nat) (w : FeWaiter) : Bool :=
  w.touches g && (s.core core).feHolds w && match w.msg with
    | some id => (match s.msg id with
      | none => false
      | some m => !s.savedFor core m.launch)
    | none => true

/-- A recorded access may be performed now. -/
def State.servable (s : State) (w : FeWaiter) : Bool := w.msg.isSome || s.servableOwn w.ctx

/-- Perform the oldest recorded access of a granule whose condition holds, then look again, `fuel` times. No younger one goes before it. -/
def State.serveGranule (core : CoreId) (g : Nat) : Nat → State → State
  | 0, s => s
  | fuel + 1, s => match (s.core core).feWait.find? fun w => s.feDue core g w with
    | none => s
    | some w =>
      if !s.servable w then s
      else
        let t := s.serveWaiter core w
        if (t.core core).feWait.length < (s.core core).feWait.length then State.serveGranule core g fuel t else t

/-- FULL_EMPTY_SERVE: a granule has changed state and the bank performs the recorded accesses in order (R96). -/
def execFullEmptyServe (core : CoreId) (granule : Nat) (s : State) : Out :=
  .next (s.serveGranule core granule (s.core core).feWait.length)

end Sys2Proof.Machine
end

