-- ==== Sys2Proof/Machine/Queues.lean ====
section
/-! DEFINITION. Command queues (R282 to R286): reading a slot, accepting and refusing a command, the order of starts, and the
effect of each command. -/

namespace Sys2Proof.Machine

/-- The state that a step of the module leads to. -/
def nextOf (s : State) : Out → State
  | .next t => t
  | .fault _ => s
  | .refused _ => s

/-! ### Commands (R284) -/

/-- A command in 64 bytes. -/
def Command.ofBytes (b slot : Nat) : Command :=
  let dw (off : Nat) : Nat := recDw b off
  { op := BitVec.ofNat 8 (bits (dw 0) 56 8), ovl := bits (dw 0) 55 1 == 1, mode := BitVec.ofNat 2 (bits (dw 0) 48 2),
    phase := BitVec.ofNat 16 (bits (dw 0) 32 16), addr := BitVec.ofNat 64 (dw 8), value := BitVec.ofNat 64 (dw 16),
    cnt := BitVec.ofNat 64 (dw 24),
    clean := bits (dw 0) 50 5 == 0 && bits (dw 0) 0 32 == 0 && (span 0 4).all fun i => dw (0x20 + 8 * i) == 0, slot := slot }

/-- A LAUNCH or a GRAPH. -/
def Command.isWork (c : Command) : Bool := c.op == 1 || c.op == 2

/-- What dispatch refuses in the fields of a command (R284 to R286). -/
def Command.bad (c : Command) (j : Job) : Bool :=
  !decide (1 ≤ c.op.toNat ∧ c.op.toNat ≤ 7) || !c.clean || (c.ovl && !c.isWork) ||
  (c.mode != 0 && c.op != 3 && c.op != 5) || (c.op == 3 && c.mode == 3) || (c.cnt != 0 && c.op != 2) ||
  ((c.op == 3 || c.op == 4) && c.addr.toNat % 8 != 0) || (c.op == 2 && c.cnt.toNat % 8 != 0) || j.endTaken || j.endPosted == some [] ||
  (c.isWork && decide (c.phase.toNat < j.ended))

/-! ### Queues -/

/-- A queue of a job. -/
def Job.queue (j : Job) (q : Nat) : Option Queue := tget none j.queues q
def Job.setQueue (j : Job) (q : Nat) (x : Queue) : Job := { j with queues := tset none j.queues q (some x) }

def State.queue (s : State) (job q : Nat) : Option Queue := (s.job job).bind fun j => j.queue q
def State.modQueue (s : State) (job q : Nat) (f : Queue → Queue) : State :=
  s.modJob job fun j => match j.queue q with
    | none => j
    | some x => j.setQueue q (f x)

/-- JOBEND no longer waits for a queue. -/
def Job.endRead (j : Job) (q : Nat) : Job :=
  { j with endPosted := j.endPosted.map fun l => l.filter fun e => e.1 != q }

/-- Refuse a command (R286): its counter shows STATE 0b10, the notice is posted and the queue stops at the slot. -/
def State.refuseCmd (s : State) (job q : Nat) (c : Command) : State :=
  let counter : Option Word :=
    if c.op = 2 then some c.cnt
    else if c.op = 1 ∧ c.addr.toNat % 256 = 0 then some (s.dword job (c.addr.toNat + 0x70)) else none
  let t := match counter with
    | none => s
    | some a => if a.toNat % 8 = 0 then s.putWord job a (counterWord .cancelled 0) else s
  ((t.notice job 2 0 0 (BitVec.ofNat 64 (2 ^ 32 * q + c.slot))).modQueue job q fun x =>
    { x with stopped := true, cmds := x.cmds.filter fun p => p.accepted }).modJob job fun j => j.endRead q

/-- A step of dispatch that a full log or hold queue holds up. -/
def orPressed (s : State) (o : Option State) : Out :=
  match o with
  | some t => .next t
  | none => .next s.pressed

/-! ### Order of starts (R285) -/

/-- A command that has been read is complete. A GRAPH of which a launch was cancelled counts as complete when every launch has ended, which
R285’s table, "all its launches are complete", leaves open (DEDUCED from R65 and R66, log entry 37). -/
def State.cmdDone (s : State) (p : Pending) : Bool :=
  p.done || (p.cmd.isWork && p.accepted && match s.graph p.graph with
    | none => true
    | some g => g.state != CState.running)

/-- Which commands of a list may be under way: each starts when the one before is complete, an OVL one when it has started. -/
def State.startsFrom (s : State) (prevStarted prevDone : Bool) : List Pending → List Bool
  | [] => []
  | p :: r =>
    let can := prevDone || (p.cmd.ovl && prevStarted)
    can :: State.startsFrom s can (s.cmdDone p) r

/-- The commands of a queue with whether each may be under way, and whether all before it are complete. -/
def State.cmdsOf (s : State) (q : Queue) : List (Pending × Bool) := q.cmds.zip (s.startsFrom true true q.cmds)

/-- Mark the first command that a predicate picks. -/
def markFirst (f : Pending → Bool) (g : Pending → Pending) : List Pending → List Pending
  | [] => []
  | p :: r => if f p then g p :: r else p :: markFirst f g r

/-- Complete commands leave the head of a queue. -/
def State.trim (s : State) (job queue : Nat) : State :=
  s.modQueue job queue fun x => { x with cmds := x.cmds.dropWhile s.cmdDone }

/-- The first command of a queue with an opcode that is not complete and may be under way. -/
def State.currentIn (s : State) (q : Queue) (op : BitVec 8) (started : Bool) : Option Pending :=
  ((s.cmdsOf q).find? fun e => e.1.cmd.op == op && e.1.accepted && !e.1.done && e.1.started == started && e.2).map Prod.fst

/-- That of a queue by number. -/
def State.current (s : State) (job queue : Nat) (op : BitVec 8) (started : Bool) : Option Pending :=
  (s.queue job queue).bind fun q => s.currentIn q op started

/-- Change the first command that stands like a given one. -/
def State.modPending (s : State) (job queue : Nat) (p : Pending) (g : Pending → Pending) : State :=
  s.modQueue job queue fun x => { x with cmds := markFirst (fun y => y == p) g x.cmds }

/-- The FENCE with which a queue goes on, everything before it being complete. -/
def State.fenceIn (s : State) (q : Queue) : Option Pending := ((q.cmds.dropWhile s.cmdDone).head?).filter fun p => p.cmd.op == 7

/-- The write of a WRITEVAL, performed at its home as a release (R285); none while there is no room for it. -/
def State.writevalDone (s : State) (job : Nat) (c : Command) : Option State :=
  let va := jaddr job c.addr.toNat
  if s.owes va then none else s.tryWord va c.value.toNat s.dispatchClock

/-- The command just read and not yet accepted. -/
def Queue.unaccepted (q : Queue) (op : BitVec 8) : Option Pending := q.cmds.find? fun p => !p.accepted && p.cmd.op == op

/-! ### The order of service (R288) -/

/-- A queue in the order of queue numbers, those of one number by job (log entry 58). -/
def queueKey (job queue : Nat) : Nat := 2 ^ 16 * queue + job

/-- Of the queues in contention at a level, the one whose turn it is: the first after the one served last, given as its key plus one. -/
def turnAmong (last : Nat) (keys : List Nat) : Option Nat :=
  let least (l : List Nat) : Option Nat := l.find? fun a => l.all fun b => decide (a ≤ b)
  (least (keys.filter fun a => decide (last ≤ a))).orElse fun _ => least keys

/-- The queue to serve next among some, given as level and key: one of the lowest level, round-robin there. `which` is 0 for commands and 1
for launches to start. -/
def State.nextServed (s : State) (which : Nat) (cands : List (Nat × Nat)) : Option (Nat × Nat) :=
  ([0, 1, 2, 3].find? fun l => cands.any fun e => e.1 == l).bind fun l =>
    (turnAmong (tget 0 s.served (2 * l + which)) ((cands.filter fun e => e.1 == l).map Prod.snd)).map fun k => (l, k)

/-- A queue has been served. -/
def State.serve (s : State) (which level key : Nat) : State := { s with served := tset 0 s.served (2 * level + which) (key + 1) }

/-- Dispatch can read the next slot of a queue: its doorbell is ahead, and the record of the command before has been read. -/
def Queue.readable (q : Queue) (j : Job) : Bool :=
  !q.stopped && q.doorbell != q.consumed && !j.cancelled && q.cmds.all fun p => p.accepted

/-- A queue has a ready command: a slot to read, a LAUNCH or GRAPH to accept, or a WAITVAL, WRITEVAL or FENCE to start. -/
def State.readyIn (s : State) (job : Nat) (j : Job) (q : Queue) : Bool :=
  (q.readable j && !s.seals.committing) || (q.cmds.any fun p => p.cmd.isWork && !p.accepted) || (s.currentIn q 3 false).isSome ||
  (s.currentIn q 4 false).any (fun p => (s.writevalDone job p.cmd).isSome) || (s.fenceIn q).isSome

/-- The queues with a ready command, as level and key. -/
def State.readies (s : State) : List (Nat × Nat) :=
  (s.jobs.map fun e => match e.2 with
    | none => []
    | some j => j.queues.filterMap fun f => match f.2 with
      | none => none
      | some q => if s.readyIn e.1 j q then some (q.prio.toNat, queueKey e.1 f.1) else none).flatten

/-- Dispatch serves a queue with what it has ready, when it is that queue's turn (R288). -/
def State.inTurn (s : State) (job queue : Nat) (f : Job → Queue → State → Option State) : Out :=
  match s.job job with
  | none => .next s
  | some j => match j.queue queue with
    | none => .next s
    | some q =>
      let e := (q.prio.toNat, queueKey job queue)
      if s.nextServed 0 s.readies = some e then .next ((f j q (s.serve 0 e.1 e.2)).getD s) else .next s

/-! ### LAUNCH and GRAPH (R68, R72, R73) -/

/-- A launch as dispatch accepts it. -/
def Launch.fresh (job phase graph : Nat) (preds : List Nat) (r : LaunchRec) (tlist : List Nat) (prio : BitVec 2) : Launch :=
  { job := job, phase := phase, graph := graph, preds := preds, record := r, prio := prio, bound := false, prepared := [],
    state := .running, done := 0, tlist := tlist, next := min r.tasks r.ntiles, given := [], ran := [], votes := [], finished := [],
    closing := none, round := 0 }

/-- The record at an address with its task list, if it breaks no limit. -/
def State.readRecord (s : State) (job : Nat) (j : Job) (addr : Word) : Option (LaunchRec × List Nat) :=
  let r := LaunchRec.ofBytes (s.dread job addr.toNat 256)
  if s.recordOk j addr r [] then
    let t := s.readTlist job r
    if s.recordOk j addr r t then some (r, t) else none
  else none

/-- Place launches, given as record, task list and predecessors by position, as a graph: counters are written 0. -/
def State.placeLaunches (s : State) (job phase graph base : Nat) (prio : BitVec 2) :
    List (LaunchRec × List Nat × List Nat) → State
  | [] => s
  | (r, tl, preds) :: rest =>
    let l := s.nextLaunch
    (({ s with nextLaunch := l + 1 }.setLaunch l
      (some (Launch.fresh job phase graph (preds.map (base + ·)) r tl prio))).putWord job r.cntaddr (counterWord .running 0)).placeLaunches
      job phase graph base prio rest

/-- The counter of a phase in which nothing has been placed yet is written 0 (R66). -/
def State.openPhase (s : State) (job phase : Nat) : State :=
  match s.job job with
  | none => s
  | some j => if (j.phase phase).graphs.isEmpty then s.putWord job (j.phaseCtr + BitVec.ofNat 64 (8 * phase)) (counterWord .running 0) else s

/-- Accept a LAUNCH or GRAPH: its graph is placed in its phase; a baton that circulates there is abandoned. What a job that has been
cancelled still places is cancelled at once (R65, R285). -/
def State.placeGraph (s : State) (job queue : Nat) (p : Pending) (cnt : Option Word) (prio : BitVec 2)
    (ls : List (LaunchRec × List Nat × List Nat)) : State :=
  let g := s.nextGraph
  let phase := p.cmd.phase.toNat
  let first := s.nextLaunch
  let graph : Graph :=
    { job := job, queue := queue, phase := phase, cnt := cnt, launches := span first ls.length, state := .running, done := 0 }
  let place (j : Job) : Job :=
    let ph := j.phase phase
    { j.setPhase phase { ph with graphs := ph.graphs ++ [g], baton := none } with highRead := max j.highRead (phase + 1) }
  let t := (({ s with nextGraph := g + 1 }.setGraph g (some graph)).openPhase job phase).placeLaunches job phase g first prio ls
  let t1 := match cnt with
    | none => t
    | some a => t.putWord job a (counterWord .running 0)
  let t2 := (t1.modJob job place).modPending job queue p fun y => { y with accepted := true, graph := g }
  if (s.job job).any fun j => j.cancelled then t2.cancelLaunches graph.launches else t2

/-- The phase that a command names has ended (R73, R286). -/
def Command.late (c : Command) (j : Job) : Bool := decide (c.phase.toNat < j.ended)

/-- LAUNCH: reads the record and places the launch in its phase. -/
def execLaunch (job queue : Nat) (s : State) : Out :=
  s.inTurn job queue fun j q t => (q.unaccepted 1).map fun p =>
    let u := t.recordRead job p.cmd.addr
    match (if p.cmd.late j then none else t.readRecord job j p.cmd.addr) with
    | none => u.refuseCmd job queue p.cmd
    | some (r, tl) => u.placeGraph job queue p none q.prio [(r, tl, [])]

/-- The entries of a graph descriptor: record address and predecessors by position. -/
def State.graphEntries (s : State) (job addr n : Nat) : List (Word × Nat) :=
  (span 0 n).map fun i => (s.dword job (addr + 16 + 16 * i), (s.dword job (addr + 24 + 16 * i)).toNat)

/-- The launches of a descriptor, if it breaks no limit of R72 and no record breaks one. -/
def State.readGraph (s : State) (job : Nat) (j : Job) (addr : Nat) : Option (List (LaunchRec × List Nat × List Nat)) :=
  let n := (s.dword job addr).toNat
  if n < 1 ∨ 64 < n then none
  else
    let es := s.graphEntries job addr n
    if (es.zip (span 0 n)).any fun e => decide (2 ^ e.2 ≤ e.1.2) then none
    else
      let rs := es.map fun e => (s.readRecord job j e.1).map fun r => (r.1, r.2, bitsSet 64 e.2)
      if rs.any Option.isNone then none else some (rs.filterMap id)

/-- A descriptor, with the records that it names, has been read. -/
def State.graphRead (s : State) (job addr : Nat) : State :=
  let n := (s.dword job addr).toNat % 65
  (s.graphEntries job addr n).foldl (fun t e => t.recordRead job e.1) (s.readBackD job addr (16 + 16 * n))

/-- GRAPH: reads a descriptor and its records and places the launches. -/
def execGraph (job queue : Nat) (s : State) : Out :=
  s.inTurn job queue fun j q t => (q.unaccepted 2).map fun p =>
    let u := t.graphRead job p.cmd.addr.toNat
    match (if p.cmd.late j then none else t.readGraph job j p.cmd.addr.toNat) with
    | none => u.refuseCmd job queue p.cmd
    | some ls => u.placeGraph job queue p (some p.cmd.cnt) q.prio ls

/-! ### WAITVAL, WRITEVAL, FENCE, SEALREQ (R285) -/

/-- A WAITVAL whose condition holds, or has held after a write since it started, completes: an acquire of what its home has applied. -/
def State.testWait (s : State) (job queue : Nat) (p : Pending) : State :=
  let t := s.readBackD job p.cmd.addr.toNat 8
  if p.met || p.cmd.holds (s.dword job p.cmd.addr.toNat) then
    let clock := s.appliedAt (.home (pageOf (jaddr job p.cmd.addr.toNat)))
    (State.modPending { t with dispatchClock := mergeClocks s.dispatchClock clock } job queue p fun y =>
      { y with started := true, done := true }).trim job queue
  else t.modPending job queue p fun y => { y with started := true }

/-- WAITVAL: the command starts and tests its doubleword. -/
def execWaitval (job queue : Nat) (s : State) : Out :=
  s.inTurn job queue fun _ q t => (t.currentIn q 3 false).map fun p => t.testWait job queue p

/-- WAITVAL_SATISFIED: a write at the home has made the condition true (R285, R438). -/
def execWaitvalSatisfied (job queue : Nat) (s : State) : Out :=
  match s.current job queue 3 true with
  | none => .next s
  | some p => .next (s.testWait job queue p)

/-- WRITEVAL: the value is written as a release at DOMAIN scope; a write to an irrevocable page is held (R117). -/
def execWriteval (job queue : Nat) (s : State) : Out :=
  match s.current job queue 4 false with
  | none => .next s
  | some p =>
    if (s.writevalDone job p.cmd).isNone then .next s.pressed
    else s.inTurn job queue fun _ _ t => (t.writevalDone job p.cmd).map fun u =>
      (u.modPending job queue p fun y => { y with started := true, done := true }).trim job queue

/-- FENCE of a queue: complete when every earlier command is complete. -/
def execCommandFence (job queue : Nat) (s : State) : Out :=
  s.inTurn job queue fun _ q t => (t.fenceIn q).map fun p =>
    (t.modPending job queue p fun y => { y with started := true, done := true }).trim job queue

/-- A command that acts as soon as it is read is complete. -/
def State.actedNow (s : State) (job queue : Nat) (p : Pending) : State :=
  (s.modPending job queue p fun y => { y with accepted := true, started := true, done := true }).trim job queue

/-- SEALREQ requests a seal. -/
def execSealreq (job queue : Nat) (s : State) : Out :=
  match (s.queue job queue).bind fun q => q.unaccepted 6 with
  | none => .next s
  | some p => .next ((s.requestSeal false).actedNow job queue p)

/-! ### CANCEL (R65, R74, R281, R285) -/

/-- The CANCEL just read, with its MODE. -/
def State.cancelCmd (s : State) (job queue : Nat) (mode : BitVec 2) : Option Pending :=
  ((s.queue job queue).bind fun q => q.unaccepted 5).filter fun p => p.cmd.mode == mode

/-- The launches of a job that a predicate on the launch and its graph picks. -/
def State.launchesOf (s : State) (job : Nat) (f : Launch → Option Graph → Bool) : List Nat :=
  s.launches.filterMap fun e => match e.2 with
    | none => none
    | some q => if q.job = job ∧ f q (s.graph q.graph) = true then some e.1 else none

/-- Cancel launches for a command and complete it. -/
def State.cancelFor (s : State) (job queue : Nat) (p : Pending) (ls : List Nat) : Out :=
  .next ((s.cancelLaunches ls).actedNow job queue p)

/-- CANCEL of a launch, named by its counter. -/
def execCancelLaunch (job queue : Nat) (s : State) : Out :=
  match s.cancelCmd job queue 0 with
  | none => .next s
  | some p => s.cancelFor job queue p (s.launchesOf job fun q _ => q.record.cntaddr == p.cmd.addr)

/-- CANCEL of a graph, named by its counter. -/
def execCancelGraph (job queue : Nat) (s : State) : Out :=
  match s.cancelCmd job queue 1 with
  | none => .next s
  | some p => s.cancelFor job queue p (s.launchesOf job fun _ g => (g.bind fun x => x.cnt) == some p.cmd.addr)

/-- CANCEL of a phase. -/
def execCancelPhase (job queue : Nat) (s : State) : Out :=
  match s.cancelCmd job queue 2 with
  | none => .next s
  | some p => s.cancelFor job queue p (s.launchesOf job fun q _ => q.phase == p.cmd.phase.toNat)

/-- CANCEL of the job: every phase not yet ended, and the job ends (R281). -/
def execCancelJob (job queue : Nat) (s : State) : Out :=
  match s.cancelCmd job queue 3 with
  | none => .next s
  | some p => s.modJob job (fun j => { j with cancelled := true }) |>.cancelFor job queue p
      (s.launchesOf job fun _ _ => true)

/-! ### COMMAND_READ (R283, R285) -/

/-- A CANCEL or a SEALREQ that has just been read acts at once; no other command does. -/
def State.actOn (s : State) (job queue : Nat) (c : Command) : Out :=
  if c.op = 6 then execSealreq job queue s
  else if c.op ≠ 5 then .next s
  else if c.mode = 0 then execCancelLaunch job queue s
  else if c.mode = 1 then execCancelGraph job queue s
  else if c.mode = 2 then execCancelPhase job queue s
  else execCancelJob job queue s

/-- A command that dispatch has read, as its queue holds it. -/
def Pending.fresh (c : Command) : Pending :=
  { cmd := c, accepted := decide (c.op = 3 ∨ c.op = 4 ∨ c.op = 7), started := false, done := false, graph := 0, met := false }

/-- COMMAND_READ: dispatch reads the next slot of a queue whose doorbell is ahead (R283), when it is that queue's turn (R288); a malformed
command is refused, and a CANCEL or SEALREQ acts as soon as it is read, as its own event says. -/
def execCommandRead (job queue : Nat) (s : State) : Out :=
  match s.queue job queue with
  | none => .next s
  | some q =>
    let slot := q.consumed.toNat % 2 ^ q.logn.toNat
    let a := q.base.toNat + 64 * slot
    let c := Command.ofBytes (s.dread job a 64) slot
    let read (j : Job) : Job :=
      { j with endPosted := j.endPosted.map fun l => l.filter fun e => !(e.1 == queue && e.2 == q.consumed + 1) }
    s.inTurn job queue fun j _ t =>
      if s.seals.committing || !q.readable j then none
      else
        let u := ((t.readBackD job a 64).modQueue job queue fun x => { x with consumed := x.consumed + 1 }).modJob job read
        some (if c.bad j then u.refuseCmd job queue c
          else nextOf u ((u.modQueue job queue fun x => { x with cmds := x.cmds ++ [Pending.fresh c] }).actOn job queue c))

end Sys2Proof.Machine
end

