-- ==== Sys2Proof/Machine/Launches.lean ====
section
/-! DEFINITION. Launches (R70, R71, R72, R288) and the end of phases and jobs (R73, R75 to R77, R281). -/

namespace Sys2Proof.Machine

/-! ### Binding (R72, R73, R288) -/

/-- The command of a launch's graph is under way. -/
def State.cmdStarted (s : State) (q : Launch) : Bool :=
  match s.graph q.graph with
  | none => false
  | some g => match s.queue g.job g.queue with
    | none => false
    | some x => (s.cmdsOf x).any fun e => e.1.cmd.isWork && e.1.accepted && e.1.graph == q.graph && e.2

/-- Every context that a record names is unbound, and its cores hold no context of another job or of the other lap mode. -/
def State.coresFree (s : State) (q : Launch) : Bool :=
  (q.record.ctxIds.all fun c => !(s.ctx c).row.v && (s.ctx c).run != .killed) &&
  q.record.coreIds.all fun core => (ctxsOf core).all fun c =>
    let r := (s.ctx c).row
    !r.v || (r.job.toNat == q.job && r.lap == q.record.lap)

/-- The clusters of a job's containment rectangle. -/
def Job.rect (j : Job) : List ClusterId :=
  ((span j.cx0 (j.cwm1 + 1)).map fun x => (span j.cy0 (j.chm1 + 1)).map fun y => mkId x y 0 0).flatten

/-- A launch may begin as soon as its contexts are free: its command is under way, its predecessors are complete, the earlier
phases have ended and what changes between phases has changed (R73). -/
def State.launchDue (s : State) (q : Launch) : Bool :=
  q.state == CState.running && !q.bound && s.cmdStarted q &&
  q.preds.all (fun p => match s.launch p with
    | none => false
    | some x => x.state == CState.complete) &&
  (match s.job q.job with
    | none => false
    | some j => decide (q.phase ≤ j.ended) && !j.cancelled && !j.sealWait && j.rect.all fun c => !(s.cluster c).swapDue)

/-- A launch takes its cores: every context that its record names is unbound or bound at a strictly lower level (R288). -/
def State.claims (s : State) (q : Launch) : Bool :=
  s.launchDue q && q.record.ctxIds.all fun c => !(s.ctx c).row.v || decide (q.prio.toNat < (s.ctx c).row.prio.toNat)

/-- A core of a launch is being taken by one of a higher level. -/
def State.claimedAbove (s : State) (q : Launch) : Bool := s.launches.any fun e => match e.2 with
  | none => false
  | some x => decide (x.prio.toNat < q.prio.toNat) && s.claims x && x.record.coreIds.any fun c => q.record.coreIds.contains c

/-- A launch may begin. -/
def State.launchReady (s : State) (q : Launch) : Bool := s.launchDue q && s.coresFree q && !s.claimedAbove q

/-- Bind one tile of a launch. -/
def State.bindTile (s : State) (l : Nat) (q : Launch) (c : CtxId) (t : Nat) : State :=
  s.modCtx c fun x => { x.unbind with
    row := { v := true, prio := q.prio, lap := q.record.lap, pre := false, slots := 0,
             task := BitVec.ofNat 32 ((q.nextTask t).getD 0), job := BitVec.ofNat 16 q.job, launch := BitVec.ofNat 32 l }
    lap := q.record.lap, tile := t, round := 0, quota := q.record.quota, resv := none, dbgHalt := false, stepping := false, mask := 0 }

/-! ### Deterministic jobs and the clock (R32, R293) -/

/-- The launches of a job's phases; those of an ended job of the same number are not among them. -/
def State.jobLaunches (s : State) (j : Job) : List Launch :=
  ((j.phases.map fun e => e.2.graphs).flatten.filterMap s.graph).map (fun g => g.launches.filterMap s.launch) |>.flatten

/-- A job is deterministic: a launch of it is (DET). -/
def State.detJob (s : State) (j : Job) : Bool := (s.jobLaunches j).any fun q => q.record.det

/-- A job stands at a phase boundary: no launch of the phase that has not ended has begun. -/
def State.atPhaseBoundary (s : State) (j : Job) : Bool :=
  (s.jobLaunches j).all fun q => decide (q.phase < j.ended) || (!q.bound && q.state == CState.running)

/-- A step n is ordered for a cluster. Going down the FLL switches first and the LDO follows; going up the LDO settles first; the FLL
switches at a lap boundary (R293). -/
def Cluster.order (q : Cluster) (n : Nat) : Cluster :=
  { q with goal := if q.fll = n ∧ q.ldo = n then none else some n, goalNow := false }

/-- The step that has been ordered. -/
def Cluster.ordered (q : Cluster) : Nat := q.goal.getD q.fll

/-- A current step of its die is in force on a cluster (R434). -/
def State.stepped (s : State) (cluster : ClusterId) : Bool := (s.die (dieOf cluster)).beforeStep.any fun e => e.1 == cluster

/-- The lowest step ordered on a job's clusters. -/
def State.lowestStep (s : State) (j : Job) : Nat :=
  let steps := j.rect.map fun c => (s.cluster c).ordered
  steps.foldl min (steps.headD 0)

/-- Before the first launch of a deterministic job's phase begins, its clusters come to one frequency: the lowest of theirs (R32; log entry
59). While a current step of a die of theirs is in force they stay as they are. -/
def State.uneven (s : State) (j : Job) : Bool :=
  s.detJob j && s.atPhaseBoundary j && !j.rect.any s.stepped &&
    let low := s.lowestStep j
    j.rect.any fun c => (s.cluster c).fll != low

/-- They are ordered to it. -/
def State.evenSteps (s : State) (j : Job) : State :=
  let low := s.lowestStep j
  j.rect.foldl (fun t c => t.modCluster c fun q => q.order low) s

/-- The launches that may begin, as level and key of their queues. -/
def State.startables (s : State) : List (Nat × Nat) := s.launches.filterMap fun e => match e.2 with
  | none => none
  | some q => if s.launchReady q then (s.graph q.graph).map fun g => (q.prio.toNat, queueKey q.job g.queue) else none

/-- It is the turn of a launch's queue to start a launch (R288). -/
def State.startTurn (s : State) (q : Launch) : Bool :=
  s.nextServed 1 s.startables == (s.graph q.graph).map fun g => (q.prio.toNat, queueKey q.job g.queue)

/-- LAUNCH_START: the launch's contexts are bound; a tile for which there is no task has nothing to end (R71, R198). The clusters of a
deterministic job come to one step first. -/
def execLaunchStart (launch : Nat) (s : State) : Out :=
  match s.launch launch with
  | none => .next s
  | some q =>
    if s.seals.committing || !s.launchReady q || !s.startTurn q then .next s
    else match (s.job q.job).filter s.uneven with
    | some j => .next (s.evenSteps j)
    | none =>
      let cs := q.record.ctxIds
      let s1 := (cs.zip (span 0 cs.length)).foldl (fun t e => (t.loseResv e.1).bindTile launch q e.1 e.2) s
      let idle := (span 0 cs.length).filter fun t => (q.nextTask t).isNone
      let s2 := s1.setLaunch launch (some { q with bound := true })
      let s3 := idle.foldl (fun t n => match cs[n]? with
        | none => t
        | some c => t.endTile launch c) s2
      let s4 := q.record.coreIds.foldl (fun t core => t.remask core) s3
      .next (match s.graph q.graph with
        | none => s4
        | some g => s4.serve 1 q.prio.toNat (queueKey q.job g.queue))

/-! ### Preparation (R70) -/

/-- Step 1: every full/empty bit is cleared; a change belongs to the split. -/
def State.clearFe (s : State) (core : CoreId) : Option State :=
  ((s.core core).fe.foldl (fun (t : Option State) e => t.bind fun u => u.logS core (e.1 / 8)) (some s)).map fun t =>
    t.modCore core fun k => { k with fe := [] }

/-- Step 2: the S image. -/
def State.copyImage (s : State) (core : CoreId) (job : Nat) (r : LaunchRec) : Option State :=
  if r.simglen = 0 then some s else s.writeS core 0 r.simglen (s.dread job r.simg.toNat r.simglen) none

/-- Step 3: the tensor table, in which reserved fields stay zero (R6); entries from TTCNT upwards are marked invalid unless another launch is bound on the core. -/
def State.loadTensors (s : State) (core : CoreId) (l job : Nat) (r : LaunchRec) : State :=
  let other := (ctxsOf core).any fun c => (s.ctx c).row.v && (s.ctx c).row.launch.toNat != l
  let image (i : Nat) : Tensor :=
    let b := s.dread job (r.ttptr.toNat + 32 * i) 32
    { Tensor.ofImage fun n => recDw b (8 * n) with rsv := 0 }
  s.modCore core fun k =>
    { k with tt := (span 0 64).foldl (fun m i =>
        if i < r.ttcnt then tset Tensor.reset m i (image i)
        else if other then m
        else tset Tensor.reset m i { tget Tensor.reset m i with valid := false }) k.tt }

/-- Steps 4 and 5 for a context: segments under SEGMASK, the spill carve-out and covf. -/
def State.prepareCtx (s : State) (job : Nat) (r : LaunchRec) (c : CtxId) (rank : Nat) : State :=
  s.modCtx c fun x => { x with
    seg := (span 0 8).foldl (fun m i =>
      if r.segmask.getLsbD i then
        tset Seg.zero m i (Seg.ofImage (s.dword job (r.segtab.toNat + 16 * i)) (s.dword job (r.segtab.toNat + 16 * i + 8)))
      else m) []
    spillBase := if r.spill = 0 then 0 else BitVec.ofNat 14 ((sSize - (rank + 1) * r.spill) / 16)
    spillLimit := BitVec.ofNat 15 (r.spill / 16)
    covf := (r.ovfbase + BitVec.ofNat 64 (x.tile * r.ovfstride.toNat)).extractLsb' 4 60
    ovfLen := r.ovfstride }

/-- The entries of a static copy schedule (R250). -/
def State.readSched (s : State) (job : Nat) (r : LaunchRec) : List SchedEntry :=
  if r.csched = 0 then []
  else (span 0 r.cscnt).map fun i =>
    let b := s.dread job (r.csched.toNat + 32 * i) 32
    { stage := BitVec.ofNat 32 (bits (recDw b 0) 32 32), k := BitVec.ofNat 4 (bits (recDw b 0) 28 4),
      fn := BitVec.ofNat 2 (bits (recDw b 0) 26 2), w1 := BitVec.ofNat 32 (bits (recDw b 8) 0 32),
      w2 := BitVec.ofNat 32 (bits (recDw b 8) 32 32), w3 := BitVec.ofNat 32 (bits (recDw b 16) 0 32),
      tgt := BitVec.ofNat 32 (bits (recDw b 24) 0 32) }

/-- CORE_PREPARATION: dispatch prepares a core of a bound launch before its first unit there (R70), but not between its die's READY and
COMMIT. The cluster's instruction cache
holds nothing from before the launch (R143). -/
def execCorePreparation (launch : Nat) (core : CoreId) (s : State) : Out :=
  match s.launch launch with
  | none => .next s
  | some q =>
    let r := q.record
    let d := s.die (dieOf core)
    if !q.bound || q.prepared.contains core || !r.coreIds.contains core || (d.ready && !d.committed) then .next s
    else orPressed s (((if r.feclr then s.clearFe core else some s).bind fun t => t.copyImage core q.job r).map fun t =>
      let t1 := ((t.readBackD q.job r.simg.toNat r.simglen).readBackD q.job r.ttptr.toNat (32 * r.ttcnt)).loadTensors core launch q.job r
      let ks := bitsSet 16 r.ctxs.toNat
      let reads : List (Nat × Nat) := (if r.csched = 0 then [] else [(r.csched.toNat, 32 * r.cscnt)]) ++
        (bitsSet 8 r.segmask.toNat).map fun i => (r.segtab.toNat + 16 * i, 16)
      let t2 := (ks.zip (span 0 ks.length)).foldl (fun u e => u.prepareCtx q.job r (ctxOf core e.1) e.2) t1
      let sched : CopySched := { launch := launch, entries := t.readSched q.job r, fired := 0 }
      let t3 := ((reads.foldl (fun u e => u.readBackD q.job e.1 e.2) t2).modCore core fun k =>
          { k with sched := (k.sched.filter fun e => s.onCore core e.launch) ++ [sched] }).modCluster (clusterOf core)
        fun x => { x with icache := [] }
      t3.modLaunch launch fun x => { x with prepared := x.prepared ++ [core] })

/-! ### Units (R70, R71, R177) -/

/-- UNIT_START: an idle context of a prepared core starts its next task; none is started while a seal is prepared on its die. A
tile for which no task is left ends. -/
def execUnitStart (ctx : CtxId) (s : State) : Out :=
  let x := s.ctx ctx
  let l := x.row.launch.toNat
  match s.launch l with
  | none => .next s
  | some q =>
    if !s.mayStart l q ctx then .next s
    else if (q.nextTask x.tile).isNone then .next (s.endTile l ctx)
    else .next (s.startTask l ctx)

/-! ### The baton (R75 to R77) -/

/-- A core number put in ascending order, once. -/
def ascend (c : Nat) : List Nat → List Nat
  | [] => [c]
  | d :: r => if c = d then d :: r else if c < d then c :: d :: r else d :: ascend c r

/-- The cores of a phase, in ascending order of identifier. -/
def State.phaseCores (s : State) (job phase : Nat) : List CoreId :=
  (s.launchesOf job fun q _ => q.phase == phase).foldl (fun l n => match s.launch n with
    | none => l
    | some q => q.record.coreIds.foldl (fun l c => ascend c l) l) []

/-- A LAUNCH or GRAPH that has been read awaits the reading of its record. -/
def Job.reading (j : Job) : List Command := (j.queues.map fun e => match e.2 with
  | none => []
  | some q => (q.cmds.filter fun p => p.cmd.isWork && !p.accepted).map fun p => p.cmd).flatten

/-- Dispatch takes the phase to have no further work (R73). A phase of which no LAUNCH or GRAPH has been read waits for work of a
later phase or for JOBEND; a cancelled job reads no command any more. -/
def State.noFurtherWork (s : State) (j : Job) (phase : Nat) : Bool :=
  let gs := (j.phase phase).graphs
  let ended := gs.all fun g => match s.graph g with
    | none => true
    | some x => x.state != CState.running
  let allRead := j.queues.all fun e => match e.2 with
    | none => true
    | some q => q.stopped || (q.doorbell == q.consumed && q.cmds.all fun p => p.accepted)
  ended && !(j.reading.any fun c => c.phase.toNat == phase) &&
    ((!gs.isEmpty && allRead) || decide (phase + 1 < j.highRead) || j.endTaken || j.cancelled)

/-- The phases of a job that have ended complete. -/
def Job.phasesDone (j : Job) : Nat := ((span 0 j.ended).filter fun p => (j.phase p).state == CState.complete).length

/-- The phase ends: its counter and the job's, the swap of the slot tables that falls due (R24), the reset of its counts, and the end made known on the die that holds its first core (R66, R77). -/
def State.endPhase (s : State) (job phase : Nat) (cores : List CoreId) : State :=
  match s.job job with
  | none => s
  | some j =>
    let p := j.phase phase
    let whole := p.graphs.all fun g => match s.graph g with
      | none => true
      | some x => x.state == CState.complete
    let st : CState := if whole then .complete else .cancelled
    let j1 := { j.setPhase phase { p with state := st, baton := none } with ended := phase + 1, sealWait := j.rep }
    let t := ((s.setJob job (some j1)).putWord job (j.phaseCtr + BitVec.ofNat 64 (8 * phase)) (counterWord st p.done)).putWord job
      j.jobCtr (counterWord .running j1.phasesDone)
    let t0 := j.rect.foldl (fun u c => u.modCluster c fun q => { q with swapDue := q.swapDue || q.shadow != q.slots }) t
    let t1 := cores.foldl (fun u c => u.modCore c fun k => { k with msgCount := 0 }) t0
    t1.modDie (dieOf (cores.headD (mkId j.cx0 j.cy0 0 0))) fun d => { d with knownEnds := d.knownEnds ++ [(job, phase)] }

/-- BATON_START: a phase without further work gets its baton at its first core; one without a core ends at once. -/
def execBatonStart (job phase : Nat) (s : State) : Out :=
  match s.job job with
  | none => .next s
  | some j =>
    let p := j.phase phase
    if phase != j.ended || p.baton.isSome || ((j.endTaken || j.cancelled) && decide (j.highRead ≤ phase)) || !s.noFurtherWork j phase then
      .next s
    else match s.phaseCores job phase with
      | [] => .next (s.endPhase job phase [])
      | c :: r => .next (s.setJob job (some (j.setPhase phase
          { p with baton := some { sum := 0, black := false, todo := c :: r, first := c } })))

/-- BATON_VISIT: the baton adds the next core's count and takes its colour; the core turns white. -/
def execBatonVisit (job phase : Nat) (s : State) : Out :=
  match s.job job with
  | none => .next s
  | some j => match (j.phase phase).baton with
    | none => .next s
    | some b => match b.todo with
      | [] => .next s
      | c :: r =>
        let k := s.core c
        let b1 : Baton := { b with sum := b.sum + k.msgCount, black := b.black || k.black, todo := r }
        .next ((s.setJob job (some (j.setPhase phase { j.phase phase with baton := some b1 }))).modCore c fun k =>
          { k with black := false })

/-- BATON_RETURN: back at the first core, the phase ends, or a new circuit starts. A LAUNCH or GRAPH of the phase that has been read is
accepted first (R73). -/
def execBatonReturn (job phase : Nat) (s : State) : Out :=
  match s.job job with
  | none => .next s
  | some j => match (j.phase phase).baton with
    | none => .next s
    | some b => match b.todo with
      | _ :: _ => .next s
      | [] =>
        let cores := s.phaseCores job phase
        if j.reading.any fun c => c.phase.toNat == phase then .next s
        else if !b.black && b.sum == 0 && !(s.core b.first).black then .next (s.endPhase job phase cores)
        else .next (s.setJob job (some (j.setPhase phase
          { j.phase phase with baton := some { sum := 0, black := false, todo := cores, first := b.first } })))

/-- PHASE_END_NOTICE: a die's dispatch controller learns that a phase has ended (R77). -/
def execPhaseEndNotice (job phase : Nat) (die : Fin 36) (s : State) : Out :=
  match s.job job with
  | none => .next s
  | some j =>
    if phase < j.ended then .next (s.modDie die.val fun d =>
      if d.knownEnds.contains (job, phase) then d else { d with knownEnds := d.knownEnds ++ [(job, phase)] })
    else .next s

/-! ### The end of a job (R281) -/

/-- JOBEND_EFFECT: every command posted before the JOBEND write has been read, or never will be. -/
def execJobendEffect (job : Nat) (s : State) : Out :=
  match s.job job with
  | none => .next s
  | some j => match j.endPosted with
    | some [] => .next (s.modJob job fun j => { j with endTaken := true })
    | some (_ :: _) => .next s
    | none => .next s

/-- A context of a job is bound, on its core or in a saved image. -/
def State.jobBound (s : State) (job : Nat) : Bool :=
  (s.ctxs.any fun e => e.2.row.v && e.2.row.job.toNat == job) ||
  s.saved.any fun e => e.2.any fun q => q.2.any fun y => y.2.row.v && y.2.row.job.toNat == job

/-- Another job of the module with the same domain tag. -/
def State.sharesTag (s : State) (job : Nat) (tag : BitVec 32) : Bool :=
  s.jobs.any fun e => e.1 != job && match e.2 with
    | none => false
    | some j => j.dtag == tag

/-- The squads of a job are freed; a domain squad lives on while another job of the module has its tag. -/
def State.freeSquads (s : State) (job : Nat) (tag : BitVec 32) : State :=
  let gone (q : Squad) : Bool :=
    if domainName q.name then q.job == tag.toNat && !s.sharesTag job tag else q.job == job
  s.squads.foldl (fun t e => match e.2 with
    | none => t
    | some q => if gone q then t.setSquad e.1 none else t) s

/-- A job's containment rectangle covers a cluster. -/
def Job.covers (j : Job) (id : Nat) : Bool :=
  decide (j.cx0 ≤ xOf id ∧ xOf id ≤ j.cx0 + j.cwm1 ∧ j.cy0 ≤ yOf id ∧ yOf id ≤ j.cy0 + j.chm1)

/-- A cluster that no job's containment rectangle covers is gated: what its cores held is lost (R348). -/
def Core.gated (k : Core) : Core :=
  { k with s := Mem.empty, p := Mem.empty, q := Mem.empty, fe := [], mb := [], tt := [] }

/-- Gate the clusters that no job covers; with no job left the module is IDLE (R348). -/
def State.gate (s : State) : State :=
  let held (id : Nat) : Bool := s.jobs.any fun e => match e.2 with
    | none => false
    | some j => j.covers id
  let t := (s.cores.filter fun e => !held e.1).foldl (fun u e => u.setCore e.1 e.2.gated) s
  if s.jobs.isEmpty then { t with mgmt := { t.mgmt with pwr := if t.mgmt.pwr = .on then .idle else t.mgmt.pwr } } else t

/-- The counters of the phases of a cancelled job that have not ended show STATE 0b10. -/
def State.cancelPhases (s : State) (job : Nat) (j : Job) : State :=
  (j.phases.filter fun e => decide (j.ended ≤ e.1)).foldl (fun t e =>
    t.putWord job (j.phaseCtr + BitVec.ofNat 64 (8 * e.1)) (counterWord .cancelled e.2.done)) s

/-- The job ceases to exist: its counter is written and what dispatch held for it is freed. A complete job counts every phase that ended
(R281), a cancelled one keeps the count it had reached. -/
def State.finishJob (s : State) (job : Nat) (j : Job) (st : CState) : State :=
  let done := if st = .complete then j.ended else j.phasesDone
  let t := (if st = .cancelled then s.cancelPhases job j else s).putWord job j.jobCtr (counterWord st done)
  let t1 := (t.ctxs.filter fun e => e.2.row.v && e.2.row.job.toNat == job).foldl (fun u e => u.unbindCtx e.1) t
  let t2 := t1.freeSquads job j.dtag
  let forget (d : Die) : Die := { d with knownEnds := d.knownEnds.filter fun k => k.1 != job }
  ((t2.dies.foldl (fun u e => u.setDie e.1 (forget e.2)) t2).setJob job none).gate

/-- JOB_END: the last phase has ended, or every context of a cancelled job is unbound; a LAUNCH or GRAPH that has been read is accepted or
refused first. -/
def execJobEnd (job : Nat) (s : State) : Out :=
  match s.job job with
  | none => .next s
  | some j =>
    if !j.reading.isEmpty then .next s
    else if j.cancelled then .next (if s.jobBound job then s else s.finishJob job j .cancelled)
    else .next (if j.endTaken && decide (j.highRead ≤ j.ended) then s.finishJob job j .complete else s)

end Sys2Proof.Machine
end

