-- ==== Sys2Proof/Machine/Preempt.lean ====
section
/-! DEFINITION. Pre-emption by priority and by quota (R89, R288 to R291, R364), debugger events (R345, R364 to R366), the core table
(R18, R402), scrubbing (R400, R401) and the withdrawal of a wait (R403 to R405). -/

namespace Sys2Proof.Machine

/-! ### Stopping contexts (R89, R194, R364) -/

/-- A context is stopped at its boundary by a request, a precise trap that is ready being taken first, its reservation lost (R194,
R364). -/
def State.stopCtx (s : State) (c : CtxId) : State := (((s.trapFirst c).killBoundary c).loseResv c).modCtx c Ctx.again

/-- The bound contexts of a core. -/
def State.boundOn (s : State) (core : CoreId) : List CtxId := (ctxsOf core).filter fun c => (s.ctx c).row.v

/-- A unit: a context and the launch that binds it. -/
abbrev Unit_ := CtxId × Nat

/-- The members and pending joiners of squads opened with GANG. -/
def State.gangs (s : State) : List (List Unit_) := s.squads.filterMap fun e => match e.2 with
  | none => none
  | some q => if q.gang then some (q.members.map fun m => (m.ctx, m.launch)) else none

/-- The units that share a gang with one of a list, or are in it. -/
def State.withMates (s : State) (us : List Unit_) : List Unit_ :=
  s.gangs.foldl (fun l g => if g.any fun u => us.contains u then l ++ g.filter (fun u => !l.contains u) else l) us

/-- The closure of a list under gangs. -/
def State.gangOf (s : State) : Nat → List Unit_ → List Unit_
  | 0, us => us
  | n + 1, us => s.gangOf n (s.withMates us)

/-- Every unit that is pre-empted and resumed together with one (R89). -/
def State.gang (s : State) (u : Unit_) : List Unit_ := s.gangOf s.gangs.length [u]

/-- The unit that a context holds. -/
def State.unitOf (s : State) (c : CtxId) : Unit_ := (c, (s.ctx c).row.launch.toNat)

/-- The unit is bound on its core. -/
def State.bound (s : State) (u : Unit_) : Bool := (s.ctx u.1).row.v && (s.ctx u.1).row.launch.toNat == u.2

/-! ### Priority pre-emption (R288, R289) -/

/-- A launch that may begin takes a core whose contexts are bound at a strictly lower level. -/
def State.takes (s : State) (q : Launch) (core : CoreId) : Bool :=
  s.claims q && q.record.coreIds.contains core &&
  q.record.ctxIds.any fun c => coreOf c == core && (s.ctx c).row.v

/-- A core is taken by a launch, or holds a member of a gang of which another core is being or has been pre-empted. -/
def State.preemptDue (s : State) (core : CoreId) : Bool :=
  (s.launches.any fun e => match e.2 with
    | none => false
    | some q => s.takes q core) ||
  (s.boundOn core).any fun c => (s.gang (s.unitOf c)).any fun u =>
    coreOf u.1 != core && ((s.bound u && (s.ctx u.1).row.pre) || s.savedFor (coreOf u.1) u.2)

/-- A store of the core that straddles its carve-out's limit has still to be performed, in part in its S (R109). -/
def State.straddling (s : State) (core : CoreId) : Bool :=
  s.net.any fun m => coreOf m.src == core && m.homePage.isSome && (s.lowerPart m).isSome

/-- The engine commands of a core and the tags of its contexts have come to an end. -/
def State.coreDrained (s : State) (core : CoreId) : Bool :=
  let k := s.core core
  let q := s.cluster (clusterOf core)
  k.matrixQ.isEmpty && k.vectorQ.isEmpty && k.copyQ.isEmpty && k.firedQ.isEmpty &&
  !(q.coll0 ++ q.coll1).any (fun e => e.1 == core) && (ctxsOf core).all s.windowEmpty && !s.straddling core

/-- PRE is set in every row of a core and its contexts stop at their boundaries. -/
def State.setPre (s : State) (core : CoreId) : State :=
  (s.boundOn core).foldl (fun t c => (t.stopCtx c).modCtx c fun x => { x with row := { x.row with pre := true } }) s

/-- What a core is left with when its image has been copied: its memories as they stand, nothing claimed, nothing queued; the cycle
counter, the comparators, the error counts and the count and colour of the phase's messages (R75) belong to no image. -/
def Core.left (k : Core) (tenancy : Nat) : Core :=
  { Core.reset with s := k.s, p := k.p, q := k.q, fe := k.fe, mb := k.mb, tt := k.tt, shape := k.shape, bp := k.bp, cycle := k.cycle,
                    lapBegun := k.lapBegun, detections := k.detections, singles := k.singles, msgCount := k.msgCount, black := k.black,
                    tenancy := tenancy }

/-- The image is copied to the job's save area and the core's contexts are free. -/
def State.saveCore (s : State) (core : CoreId) : State :=
  let unpre (x : Ctx) : Ctx := { x with row := { x.row with pre := false } }
  let xs := (ctxsOf core).foldl (fun m c => tset Ctx.reset m c (unpre (s.ctx c))) []
  let s1 := { s with nextId := s.nextId + 1, saved := tset [] s.saved core ((s.core core, xs) :: s.images core) }
  (ctxsOf core).foldl (fun t c => t.setCtx c Ctx.reset) (s1.modCore core fun k => k.left (s.nextId + 1))

/-- PRIORITY_PREEMPTION: the contexts of a core stop; once its queued engine commands have run to completion its image is saved. -/
def execPriorityPreemption (core : CoreId) (s : State) : Out :=
  let bound := s.boundOn core
  if bound.isEmpty || s.crossing (dieOf core) then .next s
  else if bound.any fun c => (s.ctx c).row.pre then (if s.coreDrained core then .next (s.saveCore core) else .next s)
  else if s.preemptDue core then .next (s.setPre core)
  else .next s

/-- The latest image of a core comes back whole; its cycle counter, comparators, error counts and the count and colour of the phase's
messages go on. -/
def State.restoreCore (s : State) (core : CoreId) : State :=
  match s.images core with
  | [] => s
  | (k, xs) :: rest =>
    let now := s.core core
    let k1 : Core := { k with bp := now.bp, cycle := now.cycle, lapBegun := now.lapBegun, detections := now.detections, singles := now.singles,
                              msgCount := now.msgCount, black := now.black }
    (ctxsOf core).foldl (fun t c => t.setCtx c (tget Ctx.reset xs c)) ({ s with saved := tset [] s.saved core rest }.setCore core k1)

/-- The units in a core's latest image and those that share a gang with them. -/
def State.imageMates (s : State) (core : CoreId) : List Unit_ :=
  match s.images core with
  | [] => []
  | (_, xs) :: _ => ((xs.filter fun e => e.2.row.v).map fun e => s.gang (e.1, e.2.row.launch.toNat)).flatten

/-- The cores whose images hold a mate of a context in a core's latest image. -/
def State.mateCores (s : State) (core : CoreId) : List CoreId :=
  ((s.imageMates core).filter fun u => s.savedFor (coreOf u.1) u.2).map fun u => coreOf u.1

/-- No mate of a core's latest image is still to be saved or lies in an image that is not its core's latest: they can resume together
(R89). -/
def State.together (s : State) (core : CoreId) : Bool := (s.imageMates core).all fun u =>
  !(s.bound u && (s.ctx u.1).row.pre) &&
  (!s.savedFor (coreOf u.1) u.2 || (s.images (coreOf u.1)).head?.any fun q => Image.ofLaunch q u.2)

/-- Cores with those whose images hold mates of theirs, and so on, `fuel` times. -/
def State.allMates (s : State) : Nat → List CoreId → List CoreId
  | 0, l => l
  | fuel + 1, l => s.allMates fuel ((l.map s.mateCores).flatten.foldl (fun m d => if m.contains d then m else m ++ [d]) l)

/-- A core is free for its image. -/
def State.freeForImage (s : State) (core : CoreId) : Bool := (s.boundOn core).isEmpty && s.coreDrained core

/-- CORE_RESTORE: the image of a free core is restored; the cores of a gang resume together (R89). -/
def execCoreRestore (core : CoreId) (s : State) : Out :=
  let cores := s.allMates s.saved.length [core]
  if (s.images core).isEmpty || cores.any (fun c => s.crossing (dieOf c)) || !cores.all s.freeForImage || !cores.all s.together then .next s
  else .next (cores.foldl State.restoreCore s)

/-! ### Quotas (R290, R291) -/

/-- QUOTA_PREEMPTION: a context whose cquota has reached 0 is held with its gang, resident and ineligible. -/
def execQuotaPreemption (ctx : CtxId) (s : State) : Out :=
  let x := s.ctx ctx
  if x.spent && !x.quotaHeld then
    .next ((((s.gang (s.unitOf ctx)).filter fun u => s.bound u && !(s.ctx u.1).quotaHeld).map Prod.fst).foldl (fun t c =>
      (t.stopCtx c).modCtx c fun y => { y with quotaHeld := true }) s)
  else .next s

/-- The context of a unit, on its core or in a saved image. -/
def State.held (s : State) (u : Unit_) : Option Ctx :=
  if s.bound u then some (s.ctx u.1)
  else ((s.images (coreOf u.1)).find? fun q => Image.ofLaunch q u.2).map fun q => tget Ctx.reset q.2 u.1

/-- Nobody in a unit's gang that was pre-empted for its own quota has still to be refilled. -/
def State.gangFilled (s : State) (u : Unit_) : Bool := (s.gang u).all fun v => match s.held v with
  | none => true
  | some x => !x.spent

/-- A context that is held for a quota goes on when its gang has been refilled. -/
def State.releaseHeld (s : State) (c : CtxId) (x : Ctx) : Ctx :=
  if x.quotaHeld && s.gangFilled (c, x.row.launch.toNat) then { x with quotaHeld := false } else x

/-- Refill a context that a launch of a job binds. -/
def Ctx.refill (job : Nat) (x : Ctx) : Ctx := if x.row.v ∧ x.row.job.toNat = job then { x with cquota := x.quota } else x

/-- QUOTA_REFILL: a job's refill period has passed. A gang resumes when each member that was pre-empted for its own quota has been
refilled, wherever they are held. -/
def execQuotaRefill (job : Nat) (s : State) : Out :=
  match s.job job with
  | none => .next s
  | some _ =>
    let s1 : State := { s with
                       ctxs := s.ctxs.map fun e => (e.1, Ctx.refill job e.2)
                       saved := s.saved.map fun e => (e.1, e.2.map fun q => (q.1, q.2.map fun y => (y.1, Ctx.refill job y.2))) }
    .next { s1 with ctxs := s1.ctxs.map fun e => (e.1, s1.releaseHeld e.1 e.2)
                    saved := s1.saved.map fun e => (e.1, e.2.map fun q => (q.1, q.2.map fun y => (y.1, s1.releaseHeld y.1 y.2))) }

/-! ### The debugger (R345, R364 to R366) -/

/-- The debug level is INVASIVE. -/
def State.invasive (s : State) : Bool := s.mgmt.dbg == .invasive

/-- DEBUGGER_HALT: a context in the rotation or asleep stops at its boundary. -/
def execDebuggerHalt (ctx : CtxId) (s : State) : Out :=
  if s.invasive && (s.ctx ctx).row.v && !(s.ctx ctx).dbgHalt then
    .next (((s.trapFirst ctx).killBoundary ctx).modCtx ctx fun x => { x with dbgHalt := true })
  else .next s

/-- A context is halted: by a debugger, or by HALT or a double trap (R181, R356). -/
def Ctx.stopped (x : Ctx) : Bool := x.dbgHalt || x.run == .halted

/-- A halted context goes on; with BPS set its first issue is not compared (R366). -/
def Ctx.resume (x : Ctx) : Ctx :=
  ({ x with dbgHalt := false, bpArmed := x.bps, run := if x.run = .halted then .active else x.run } : Ctx).again

/-- DEBUGGER_RESUME. -/
def execDebuggerResume (ctx : CtxId) (s : State) : Out :=
  if s.invasive && (s.ctx ctx).row.v && (s.ctx ctx).stopped then .next (s.modCtx ctx Ctx.resume) else .next s

/-- DEBUGGER_STEP: a halted context takes one turn, which comes next, and stays halted; what it has performed still ends. -/
def execDebuggerStep (ctx : CtxId) (s : State) : Out :=
  if s.invasive && (s.ctx ctx).row.v && (s.ctx ctx).stopped then
    .next { s.modCtx ctx fun x => { x.resume with dbgHalt := true, stepping := true } with agenda := .context ctx :: s.agenda }
  else .next s

/-- BPADDR_WRITE: ADDR of a comparator. -/
def execBpaddrWrite (core : CoreId) (n : Fin 4) (v : Word) (s : State) : Out :=
  if s.invasive then .next (s.modCore core fun k =>
    { k with bp := tset Breakpoint.zero k.bp n.val { tget Breakpoint.zero k.bp n.val with addr := v.extractLsb' 2 62 } })
  else .next s

/-- BPCTL_WRITE: ACT, EN and CTX of a comparator. -/
def execBpctlWrite (core : CoreId) (n : Fin 4) (v : Word) (s : State) : Out :=
  if s.invasive then .next (s.modCore core fun k =>
    { k with bp := tset Breakpoint.zero k.bp n.val { tget Breakpoint.zero k.bp n.val with
        act := v.getLsbD 17, en := v.getLsbD 16, ctx := v.extractLsb' 0 16 } })
  else .next s

/-! ### The core table and retirement (R18, R402) -/

/-- The physical core that serves a logical one. -/
def Cluster.phys (q : Cluster) (c : Nat) : Nat := (q.coreTable.find? fun e => e.1 == c).elim c Prod.snd

/-- Put a physical core into the table, which lists the entries that differ from the identity. -/
def Cluster.remap (q : Cluster) (c phys : Nat) : Cluster :=
  { q with coreTable := if phys = c then terase q.coreTable c else tput q.coreTable c phys }

/-- The physical cores of a cluster that no entry names and that have not been retired. -/
def Cluster.spares (q : Cluster) : List Nat :=
  (span 0 34).filter fun p => !q.retired.contains p && !(span 0 32).any fun c => q.phys c == p

/-- A logical core moves to a spare: its physical core is retired. -/
def Cluster.retire (q : Cluster) (c phys : Nat) : Cluster := { q.remap c phys with retired := q.retired ++ [q.phys c] }

/-- What a spare takes over from a core of which no context is bound: the accesses that wait there; its memories and tables are as after
module reset (log entry 3). -/
def Core.spare (k : Core) : Core :=
  { Core.reset with cycle := k.cycle, lapBegun := k.lapBegun, bp := k.bp, feWait := k.feWait, named := k.named, storeBuf := k.storeBuf,
                    msgCount := k.msgCount, black := k.black, undo := k.undo, written := k.written, tenancy := k.tenancy, spilled := k.spilled }

/-- CORE_REMAP: while every context of the logical core is pre-empted or idle, a spare takes its place, and all traffic to the logical
core reaches it (R18). With a context bound the core's image goes along, as at a retirement (R402); otherwise the spare brings no
contents. -/
def execCoreRemap (cluster : ClusterId) (c : Fin 32) (phys : Fin 34) (s : State) : Out :=
  let core := mkId (xOf cluster) (yOf cluster) c.val 0
  let idle := (ctxsOf core).all fun x => (s.ctx x).run == .idle || (s.ctx x).quotaHeld || (s.ctx x).row.pre
  if idle && !s.crossing (dieOf core) && s.coreDrained core && (s.cluster (clusterOf core)).spares.contains phys.val then
    .next ((s.modCluster (clusterOf core) fun q => q.remap c.val phys.val).modCore core fun k =>
      if (s.boundOn core).isEmpty then k.spare else k)
  else .next s

/-- The words of a memory whose single-bit errors are corrected. -/
def Mem.corrected (m : Mem) : Mem := { m with mark := m.mark.filter fun e => e.2 != .single }

/-- Jobs with a context on a core. -/
def State.jobsOn (s : State) (core : CoreId) : List Nat :=
  (s.boundOn core).foldl (fun l c => let j := (s.ctx c).row.job.toNat; if l.contains j then l else l ++ [j]) []

/-- Tell every job on a core of its retirement, or that no spare was left. -/
def State.retireNotice (s : State) (core : CoreId) (noSpare : Bool) : State :=
  (s.jobsOn core).foldl (fun t j => t.notice j 4 0 core (bit noSpare)) s

/-- CORE_RETIREMENT: a core with a word of S that has failed three times within a second is pre-empted, its image goes into a spare
with every correctable word corrected, and it resumes there; with no spare left it stays in service. -/
def execCoreRetirement (core : CoreId) (s : State) : Out :=
  let cl := clusterOf core
  if !(s.core core).singles.any (fun e => decide (3 ≤ e.2)) || s.crossing (dieOf core) then .next s
  else match (s.cluster cl).spares with
    | [] => .next ((s.retireNotice core true).modCore core fun k => { k with singles := [] })
    | p :: _ =>
      if (s.boundOn core).any (fun c => !(s.ctx c).row.pre) then .next (s.setPre core)
      else if !s.coreDrained core then .next s
      else
        let s1 := (s.modCluster cl fun q => q.retire (cOf core) p).modCore core fun k =>
          { k with s := k.s.corrected, p := k.p.corrected, q := k.q.corrected, singles := [], detections := 0 }
        let s2 := (s1.boundOn core).foldl (fun t c => t.modCtx c fun x => { x with row := { x.row with pre := false } }) s1
        .next (s2.retireNotice core false)

/-! ### Scrubbing (R400, R401) -/

/-- Scrub a line of a memory: single-bit errors are corrected and written back, an uncorrectable word is marked poisoned. -/
def Mem.scrub (m : Mem) (line n : Nat) : Mem :=
  let words := span (line * (n / 8)) (n / 8)
  let back := words.any fun w => m.wordMark w == .single
  let fixed : WordMark → WordMark
    | .sound => .sound
    | .single => .sound
    | .latent => .poisoned
    | .poisoned => .poisoned
  { m with mark := words.foldl (fun q w => tset .sound q w (fixed (tget .sound q w))) m.mark,
           lineSeq := if back then tset 0 m.lineSeq line (tget 0 m.lineSeq line + 1) else m.lineSeq }

/-- SCRUB: a scrubber visits a line; a word of S that yields a single-bit error is counted (R402). -/
def execScrub (t : ScrubTarget) (line : Nat) (s : State) : Out :=
  match t with
  | .coreS core => .next (s.modCore core fun k =>
      { k with s := k.s.scrub line 128,
               singles := (span (16 * line) 16).foldl (fun q w =>
                 if k.s.wordMark w == .single then tset 0 q w (tget 0 q w + 1) else q) k.singles })
  | .coreP core => .next (s.modCore core fun k => { k with p := k.p.scrub line 128 })
  | .coreQ core => .next (s.modCore core fun k => { k with q := k.q.scrub line 128 })
  | .hbm => .next { s with gmem := s.gmem.scrub line 64 }

end Sys2Proof.Machine
end

