-- ==== Sys2Proof/Machine/Seals.lean ====
section
/-! DEFINITION. Seals (R111 to R118, R212, R427, R431): the request, PREPARE, READY, COMMIT and ABORT, the seal interval and the
provisional seal; and the forced kill of a context (R408, R429). -/

namespace Sys2Proof.Machine

/-! ### A context that is killed where it stands (R408, R429) -/

/-- Every engine command of a context is discarded. -/
def State.dropCommands (s : State) (c : CtxId) : State := (s.commandsOf c).foldl (fun t m => t.dropCmd (coreOf c) m) s

/-- Kill a context where it stands, with no boundary: nothing of it goes on; it departs its squads. -/
def State.killCtx (s : State) (c : CtxId) : State :=
  let t := (((((s.purgePipe c).forget c).withdraw c).loseResv c).dropCommands c).modCtx c fun x =>
    { x with run := .killed, kick := none }
  t.restKilled c

/-! ### Quiescence (R113) -/

/-- The next instruction of a context wants a value that is still to come back, or its window is full: it does not issue (R36, R53). -/
def State.stalled (s : State) (c : CtxId) : Bool :=
  let k := kOf c
  let p := (s.core (coreOf c)).pipe
  decide (8 ≤ (p.window k).length) || (let t := (State.settle c fillerFuel s).fetchHits c
    match t.entry c with
    | .instr i _ => (Instr.regs i).1.any fun r => p.awaits k (s.now (coreOf c)) r
    | .marked .. => false
    | .page _ => false
    | .broken .. => false
    | .absent => false)

/-- The packet in which a context is asleep, everything older having come to its end, and the run state of that wait: it waits at the tape, or
for a granule there or with what it would issue next (R53, R95, R113, R190). -/
def State.asleepIn (s : State) (c : CtxId) : Option (Packet × Run) :=
  match s.waitsAtTape c with
  | some q => some (q, (s.ctx c).run)
  | none =>
    let p := (s.core (coreOf c)).pipe
    ((p.atTape (kOf c)).filter fun q => s.open_ c q && q.mark.isNone && (p.window (kOf c)).head? == some q.tag && (s.ctx c).run == .active).bind
      fun q => (s.granuleWait c q).bind fun e =>
        if (Instr.siding q.instr).isNone || s.stalled c then some (q, match e.1 with
          | none => .waiting (.granule e.2.1)
          | some _ => .reply q.instr)
        else none

/-- A context that is asleep in the pipe is left at its boundary, still waiting in that instruction, which the pipe holds no longer: it will
issue again when its wait ends (R113, R190). -/
def State.standAside (s : State) (c : CtxId) : State :=
  match s.asleepIn c with
  | none => s
  | some (q, run) =>
    let x := s.ctx c
    let counted := x.run == run
    (s.killFrom c q).modCtx c fun y =>
      { y.again with run := run, ir := q.words, kick := x.kick, waitLaps := if counted then x.waitLaps else q.laps,
                     waitLimit := if counted then x.waitLimit else q.limit }

/-- The instruction in which a context waits: that of its packet, or that of its own words. -/
def State.waitInstr (s : State) (c : CtxId) : Option Instr :=
  match s.asleepIn c with
  | some (q, _) => some q.instr
  | none => match decode ((s.ctx c).ir.map BitVec.toNat) with
    | .ok (i, _) => some i
    | .error _ => none

/-- A load of a context has been recorded in the full/empty table of another core. -/
def State.recordedLoad (s : State) (c : CtxId) : Bool := s.net.any fun m => s.sentBy c m && m.recorded && m.body.loads

/-- What a context does is one of the quiet states: stopped at SEALPT, idle or stopped for good, asleep in a wait, by what it waits for
or by the instruction in which it does (R53, R190), or waiting at the tape for log capacity or hold-queue space. -/
def State.restful (s : State) (c : CtxId) : Bool :=
  match (s.ctx c).run with
  | .idle => true
  | .halted => true
  | .killed => true
  | .waiting w => Wait.drops w || (s.waitInstr c).any Instr.sleeps
  | .reply i => (Instr.sleeps i || s.recordedLoad c) && !s.committed c
  | .active => (s.asleepIn c).isSome

/-- A context is seal-quiescent: it holds no claim, has no engine command and rests. -/
def State.sealQuiet (s : State) (c : CtxId) : Bool :=
  let k := s.core (coreOf c)
  let n := kOf c + 1
  !(k.pclaim.any fun e => e.2 == n) && !(k.qclaim.any fun e => e.2 == n) && (s.commandsOf c).isEmpty &&
  (s.windowEmpty c || (s.asleepIn c).isSome) && s.restful c

/-- The live contexts of a die: those that a launch binds on their cores. -/
def State.liveOn (s : State) (die : Nat) : List CtxId :=
  (s.ctxs.filter fun e => e.2.row.v && dieOf e.1 == die).map Prod.fst

/-- Count the quiescent contexts of a die: each issues nothing until the commit or the abort. One that waits at the tape stands at the
boundary before its instruction. -/
def State.holdQuiet (s : State) (die : Nat) : State :=
  ((s.liveOn die).filter fun c => !(s.ctx c).sealHeld && s.sealQuiet c).foldl (fun t c =>
    (t.standAside c).modCtx c fun x => { x with sealHeld := true }) s

/-- The contexts of prepared dies that are not quiescent. -/
def State.blockers (s : State) : List CtxId :=
  (s.ctxs.filter fun e => e.2.row.v && (s.die (dieOf e.1)).prepared && !e.2.sealHeld && !s.sealQuiet e.1).map Prod.fst

/-! ### PREPARE (R114, steps 1 and 2) -/

/-- A seal begins. -/
def State.beginSeal (s : State) (provisional : Bool) : State :=
  { s with seals := { s.seals with requested := false, running := true, committing := false, rearm := false,
                                   runProvisional := provisional, nextArea := SealArea.empty } }

/-- SEAL_INTERVAL: the recovery policy's interval of a job has elapsed (R115). -/
def execSealInterval (job : Nat) (s : State) : Out :=
  match s.job job with
  | none => .next s
  | some j => if j.sealInt = 0 then .next s else .next (s.requestSeal false)

/-- PROVISIONAL_SEAL: a request from capacity during a replica phase is served at once; only one can stand (R431). -/
def execProvisionalSeal (s : State) : Out :=
  if s.seals.requested && !s.seals.running && s.replicaPhase && !s.seals.provisional then .next (s.beginSeal true) else .next s

/-- SEAL_PREPARE: PREPARE reaches a die. The first one begins a requested seal. In a recovery domain of more modules than this one (R333)
PREPARE may come from another module's controller, whose request this module does not see (R114). -/
def execSealPrepare (die : Fin 36) (s : State) : Out :=
  let asked := s.seals.requested || s.mgmt.mdom != 0
  let s1 := if asked && !s.seals.running && !s.replicaPhase then s.beginSeal false else s
  let d := s1.die die.val
  if !s1.seals.running || s1.seals.committing || d.prepared || d.off then .next s
  else .next ((s1.modDie die.val fun d => { d with prepared := true, ready := false, committed := false }).holdQuiet die.val)

/-! ### READY (R114, steps 3 to 5; R116) -/

/-- A posted write waits at its destination for room in a log or in a hold queue. -/
def State.stuck (s : State) (m : Msg) : Bool :=
  match m.body, m.dest with
  | .store _ a n _ _ ea, .home _ =>
    (if (s.pageAt a).irrevocable then decide (4096 ≤ (s.die (s.dieAt m.dest)).hold.length) else (s.logGRange a n).isNone) ||
      (s.lowerWrite m ea).isNone
  | .store _ a n _ _ _, .core c => !m.recorded && (s.logSRange c a n).isNone
  | .granule _ _ rrec _ data refill poison, .core c =>
    let r := (s.core c).recvRec rrec
    if r.broken then (s.setSw c rrec true).isNone else (s.deliver c rrec r data refill poison).isNone
  | .det .., .port p => decide (16 ≤ (s.cluster p).holding.length) && (s.logRing p).isNone
  | _, _ => false

/-- The counter of its issuer that a posted write holds up (R100); a channel refill holds up none. -/
def Body.postKind : Body → Option PostKind
  | .store k .. => some k
  | .mbInc k _ _ => some k
  | .named k _ => some k
  | .granule k _ _ _ _ refill _ => if refill then none else some k
  | .det .. => some .mem
  | _ => none

/-- A message of the same core for the same destination, sent earlier, is stuck there: what follows it waits too (R26). -/
def State.behindStuck (s : State) (m : Msg) : Bool :=
  (s.before m.id).any fun q => coreOf q.src == coreOf m.src && q.dest == m.dest && !q.recorded && !q.retry && s.stuck q

/-- The writes that wait at a die for log capacity or hold-queue space, and those queued behind them, become carried writes: its issuer's
counter falls as though each had been performed. -/
def State.carry (s : State) (die : Nat) : State :=
  let ms := s.net.filter fun m => s.dieAt m.dest == die && !m.retry && (s.stuck m || s.behindStuck m) &&
    !(s.die die).carried.contains m.id
  ms.foldl (fun t m => match m.body.postKind with
    | none => t
    | some k => (t.modDie die fun d => { d with carried := d.carried ++ [m.id] }).modSender m fun x => x.lower k) s

/-- Every holding buffer of a die's ports is flushed into its ring; the writes are logged (step 3). None while a log or a ring is full. -/
def State.flushHolding (s : State) (die : Nat) : Option State :=
  (s.clusters.filter fun e => dieOf e.1 == die && !e.2.holding.isEmpty).foldl (fun (o : Option State) e =>
    (e.2.holding.foldl (fun (p : Option State) u => p.bind fun t => t.ringPut e.1 u) o).map fun t =>
      t.modCluster e.1 fun q => { q with holding := [] }) (some s)

/-- The commit that brings split `next` completes the SEAL or SEALPT at which a context has stopped (R212); that of a provisional seal
completes no SEAL (R431). -/
def Ctx.sealDone (x : Ctx) (next : Word) (provisional : Bool) : Bool :=
  match x.run with
  | .waiting (.seal asks u) => decide (u.toNat ≤ next.toNat) && !(provisional && asks)
  | .waiting _ => false
  | .reply _ => false
  | .idle => false
  | .active => false
  | .halted => false
  | .killed => false

/-- A context as a seal saves it: at the boundary before its waiting instruction, after a SEAL or SEALPT that completes at the commit
(R113, R190). -/
def Ctx.saved (next : Word) (provisional : Bool) (x : Ctx) : Ctx :=
  let y : Ctx := if x.sealDone next provisional then { x.advance 8 with atSeal := false } else x
  { y with sealHeld := false, kick := none, fetchBuf := [], loopBuf := [], run := match y.run with
      | .idle => .idle
      | .halted => .halted
      | .killed => .killed
      | .active => .active
      | .waiting _ => .active
      | .reply _ => .active }

/-- What a die saves of its cores: all but the memories that the logs restore. -/
def Core.saved (k : Core) : Core := { k with s := Mem.empty, p := Mem.empty, q := Mem.empty, undo := [], written := [] }

/-- The undo entries of the cores of a die go to its undo region (step 4). They find room there even where they exceed the 1 GiB: the spec
does not say what would happen to them otherwise (DESIGN CHOICE, log entry 8). -/
def State.drainUndo (s : State) (die : Nat) : State :=
  ((s.cores.filter fun e => dieOf e.1 == die && !e.2.undo.isEmpty).foldl (fun t e =>
    (t.modDie die fun d => { d with undo := e.2.undo ++ d.undo }).modCore e.1 fun k => { k with undo := [] }) s).watchUndo die

/-- A core as the area holds it: one with an image in a save area keeps its S, which no log covers. -/
def State.savedCore (s : State) (core : CoreId) (k : Core) : Core :=
  if (s.images core).isEmpty then k.saved else { k.saved with s := k.s }

/-- A die writes its part of the new seal-store area (step 4). -/
def State.saveDie (s : State) (die : Nat) : State :=
  let here (id : Nat) : Bool := dieOf id == die
  let a := s.seals.nextArea
  let ctxs := (s.ctxs.filter fun e => here e.1).foldl (fun m e => tset Ctx.reset m e.1 (Ctx.saved (s.seals.split + 1) s.seals.runProvisional e.2)) a.ctxs
  let cores := (s.cores.filter fun e => here e.1).foldl (fun m e => tset Core.reset m e.1 (s.savedCore e.1 e.2)) a.cores
  { s with seals := { s.seals with nextArea := { a with ctxs := ctxs, cores := cores } } }

/-- Every posted-store counter of a die's contexts is zero, those of saved images too. -/
def State.dieDrained (s : State) (die : Nat) : Bool :=
  (s.liveOn die).all (fun c => (s.ctx c).drained) &&
  (s.saved.filter fun e => dieOf e.1 == die).all fun e => e.2.all fun q => q.2.all fun y => y.2.drained

/-- DIE_READY: a prepared die counts its quiescent contexts; once every live context is counted it flushes and saves, and records the writes
that wait there as carried (step 5); once every counter is zero it sends READY. -/
def execDieReady (die : Fin 36) (s : State) : Out :=
  let d := s.die die.val
  if !s.seals.running || s.seals.committing || !d.prepared || d.ready then .next s
  else
    let t := s.holdQuiet die.val
    if (t.liveOn die.val).all fun c => (t.ctx c).sealHeld then
      (match t.flushHolding die.val with
        | none => .next t.pressed
        | some u =>
          let v := ((u.drainUndo die.val).saveDie die.val).carry die.val
          .next (if v.dieDrained die.val then v.modDie die.val fun d => { d with ready := true } else v))
    else .next t

/-- A message that a seal saves: channel refills, their requests and their answers (R204), and the close votes of contexts that wait in
RNDCLOSE. -/
def Body.sealed : Body → Bool
  | .granule _ _ _ _ _ refill _ => refill
  | .delivered _ _ refill _ => refill
  | .refused _ => true
  | .refillReq _ => true
  | .vote .. => true
  | _ => false

/-- The dies that take part in a seal. -/
def State.poweredDies (s : State) : List Nat := (span 0 36).filter fun d => !(s.die d).off

/-- Every die flushes what has reached its ports since, and saves its state as it now stands: the area holds one moment of the whole
module, that of the commit record (log entry 40). -/
def State.saveAll (s : State) : Option State :=
  s.poweredDies.foldl (fun (o : Option State) d => o.bind fun t => (t.flushHolding d).map fun u => (u.drainUndo d).saveDie d) (some s)

/-- SEAL_READY: every die is ready; the commit record of the next split is written and COMMIT is sent (step 6). -/
def execSealReady (s : State) : Out :=
  -- a squad instruction that has been performed for a held context has its answer first
  let answered := s.net.any fun m => (s.ctx m.src).sealHeld && s.sentBy m.src m && s.committed m.src && match m.body with
    | .answer .. => true
    | _ => false
  if s.seals.running && !s.seals.committing && !answered && s.poweredDies.all fun d => (s.die d).ready then
    match s.saveAll with
    | none => .next s.pressed
    | some t =>
      let held := (t.ctxs.filter fun e => e.2.sealHeld).map Prod.fst
      let carried := (t.dies.map fun e => e.2.carried).flatten
      let a : SealArea := { t.seals.nextArea with
        jobs := t.jobs, launches := t.launches, graphs := t.graphs, squads := (held.foldl State.keepAnswers t).squads, saved := t.saved,
        rings := t.clusters.foldl (fun m e => tset [] m e.1 e.2.ring) []
        net := t.net.filter fun m => m.body.sealed || carried.contains m.id, carried := carried, owed := t.owed }
      .next { t with seals := { t.seals with committing := true, commitRecord := t.seals.split + 1, nextArea := a } }
  else .next s

/-! ### COMMIT (R114, step 7; R116, R117, R431) -/

/-- A held irrevocable write leaves: it is performed and goes out, to the module controller when its page is the management window
(R117, R118, R334). A program's store that finds part of a poisoned word there is not performed, and is reported (R421). -/
def State.releaseWrite (s : State) (w : HeldWrite) : State :=
  match w.writer, s.gPoisonedPart w.va w.size with
  | some (c, l, ea), true => s.modHeld c l fun x => x.pend causePoison ea
  | _, _ =>
    let t := (s.gWriteRaw w.va w.size w.data).taintG s.gmem w.va w.size w.poison
    if (s.pageAt w.va).window then { t with toWindow := t.toWindow ++ [(w.va % 2 ^ 16, w.size, w.data)] }
    else { t with outside := w :: t.outside }

/-- The held writes of the split that closes leave in queue order, each once. -/
def State.releaseWrites (s : State) (die : Nat) (next : Word) : State :=
  let ws := (s.die die).hold.filter fun w => w.split != next
  (ws.foldl State.releaseWrite s).modDie die fun d => { d with hold := d.hold.filter fun w => w.split == next }

/-- A carried write is performed as a write of the new split. -/
def State.performCarried (s : State) (id : Nat) : State :=
  match s.msg id with
  | none => s
  | some m =>
    let out : Out := match m.body, m.dest with
      | .granule .., _ => execGranuleArrival id s
      | .named .., _ => execNamedMessageArrival id s
      | .det .., _ => execDeterministicUpdateArrival id s
      | _, .core _ => execRemoteWriteArrival id s
      | _, .home _ => execHomeAccess id s
      | _, _ => .next s
    match out with
    | .next t => t
    | .fault _ => s
    | .refused _ => s

/-- The undo entries in the saved images of a die's cores. -/
def State.imageUndo (s : State) (die : Nat) : List UndoEntry :=
  ((s.saved.filter fun e => dieOf e.1 == die).map fun e => (e.2.map fun q => q.1.undo).flatten).flatten

/-- The logs of the closed split are freed, or kept behind those of the new one by a provisional seal; written bits and bitmaps are
cleared, in saved images too. -/
def State.freeLogs (s : State) (die : Nat) : State :=
  let kept := s.seals.runProvisional
  let s1 := s.modDie die fun d => { d with keptUndo := if kept then s.imageUndo die ++ d.undo ++ d.keptUndo else [], undo := [] }
  let clean (k : Core) : Core := { k with undo := [], written := [] }
  let s2 := (s.cores.filter fun e => dieOf e.1 == die).foldl (fun t e => t.modCore e.1 clean) s1
  { s2 with saved := s2.saved.map fun e => (e.1, if dieOf e.1 = die then e.2.map fun q => (clean q.1, q.2) else e.2),
            gwritten := s2.gwritten.filter fun e => dieOf ((ringPort (64 * e.1)).getD (s2.page (pageOf (64 * e.1))).home) != die }

/-- The contexts of a die are resumed. -/
def State.resumeDie (s : State) (die : Nat) : State :=
  (s.liveOn die).foldl (fun t c => t.modCtx c fun x => { x with sealHeld := false }) s

/-- The last die has committed: the new area is current. A provisional seal keeps the area that it replaces; the seal of a matching
phase end lets the replicas' next phases start. -/
def State.endSeal (s : State) : State :=
  let c := s.seals
  let s1 := s.dies.foldl (fun t e => t.setDie e.1 { e.2 with prepared := false, ready := false, committed := false }) s
  let freed (j : Job) : Job := if j.matched then { j with sealWait := false, matched := false } else j
  { s1 with
    jobs := if c.runProvisional then s1.jobs else s1.jobs.map fun e => (e.1, e.2.map freed)
    seals := { s1.seals with running := false, committing := false, aborts := 0, rearm := false, area := c.nextArea,
                             nextArea := SealArea.empty, damaged := [], keptArea := if c.runProvisional then some c.area else none,
                             provisional := c.runProvisional } }

/-- A SEAL that waits while a provisional seal commits waits for a later one (R431). -/
def Ctx.sealLater (next : Word) (x : Ctx) : Ctx := match x.run with
  | .waiting (.seal true u) => if u.toNat ≤ next.toNat then { x with run := .waiting (.seal true (next + 1)) } else x
  | .waiting _ => x
  | .reply _ => x
  | .idle => x
  | .active => x
  | .halted => x
  | .killed => x

/-- Split `next` begins at the first die that takes the commit; a provisional seal completes no SEAL. -/
def State.beginSplit (s : State) (next : Word) : State :=
  let t : State := { s with seals := { s.seals with split := next } }
  if s.seals.runProvisional && s.seals.split != next then
    { t with ctxs := t.ctxs.map (fun e => (e.1, e.2.sealLater next))
             saved := t.saved.map fun e => (e.1, e.2.map fun q => (q.1, q.2.map fun y => (y.1, y.2.sealLater next))) }
  else t

/-- SEAL_COMMIT: a die takes the commit. A carried write or a counter write that needs hold-queue space finds it when the held writes have
left. -/
def execSealCommit (die : Fin 36) (s : State) : Out :=
  let d := s.die die.val
  let next := s.seals.commitRecord
  if !s.seals.committing || !d.ready || d.committed then .next s
  else
    let s1 := ((s.beginSplit next).freeLogs die.val).modDie die.val fun d => { d with committed := true }
    let carried (t : State) : State := (d.carried.foldl State.performCarried t).payOwed die.val
    let s2 := carried ((carried s1).releaseWrites die.val next)
    let s3 := s2.resumeDie die.val
    .next (if (span 0 36).all fun i => (s3.die i).committed || (s3.die i).off then s3.endSeal else s3)

/-! ### ABORT (R427, R431) -/

/-- The jobs of contexts, each with the first of its contexts. R427 does not say whether a job with several contexts that were not quiescent
gets one notice of kind 7 or one for each: the model posts one, which names the first (DESIGN CHOICE, log entry 61). -/
def State.jobsOf (s : State) (cs : List CtxId) : List (Nat × CtxId) :=
  cs.foldl (fun l c => let j := (s.ctx c).row.job.toNat; if l.any fun e => e.1 == j then l else l ++ [(j, c)]) []

/-- A seal that has not committed ends: contexts resume, logs and split stay, and the area being written does not become current. A
seal that writes into the kept area and has begun to do so loses it. -/
def State.stopSeal (s : State) : State :=
  let c := s.seals
  let begun := s.dies.any fun e => e.2.ready
  let s1 := (s.dies.map Prod.fst).foldl (fun t d => t.resumeDie d) s
  let s2 := s1.dies.foldl (fun t e => t.setDie e.1 { e.2 with prepared := false, ready := false, committed := false }) s1
  { s2 with seals := { s2.seals with running := false, committing := false, nextArea := SealArea.empty, runProvisional := false,
                                     keptArea := if c.provisional && begun then none else c.keptArea } }

/-- SEAL_ABORT: a seal has not committed within 10 ms of PREPARE. The third in a row kills the contexts that blocked it. -/
def execSealAbort (s : State) : Out :=
  let c := s.seals
  if !c.running || c.committing then .next s
  else
    let bs := s.blockers
    let third := decide (2 ≤ c.aborts)
    let s1 := s.stopSeal
    let s2 := if third then bs.foldl State.killCtx s1 else s1
    let s3 := (s.jobsOf bs).foldl (fun t e => t.notice e.1 7 0 e.2 (bit third)) s2
    .next { s3 with seals := { s3.seals with aborts := if third then 0 else c.aborts + 1, rearm := !third,
                                             requested := s3.seals.requested || third } }

/-- RESEAL_TIMER: 1 ms after an abort a new seal is requested. -/
def execResealTimer (s : State) : Out :=
  if s.seals.rearm then .next { s with seals := { s.seals with rearm := false, requested := true } } else .next s

end Sys2Proof.Machine
end

