-- ==== Sys2Proof/Machine/Recovery.lean ====
section
/-! DEFINITION. Recovery (R422 to R432, R435 to R437): rollback, containment, core and domain faults, queue watchdogs, replicas,
in-field tests and fatal errors. -/

namespace Sys2Proof.Machine

/-! ### Fatal errors and the dump (R435 to R437) -/

/-- The die whose stack holds a die's dump region: another one, of the perimeter dies that carry stacks (R28, R437). -/
def dumpHost (die : Nat) : Nat :=
  let hosts := (span 0 36).filter fun d => d != die && !(stacksOf d).isEmpty
  (hosts[(Config.dumpPlace die).1 % hosts.length]?).getD 0

/-- The dies of which a property holds. -/
def diesWith (p : Nat → Bool) : List Nat := (span 0 36).filter p

/-- A die's region can be written: the die that carries its stack is on, and a route reaches the stack. -/
def State.dumpable (s : State) (die : Nat) : Bool := !(s.die (dumpHost die)).off && !Config.stackUnreached s.fresh die

/-- The die whose region holds the module header. -/
def State.headerDie (s : State) : Option Nat := (span 0 36).find? s.dumpable

/-- Offset of the block of cluster i in a dump region, and of the record of a physical core. -/
def dumpBlock (i : Nat) : Nat := 0x200 + 1114368 * i
def dumpCore (i phys : Nat) : Nat := dumpBlock i + 256 + 32768 * phys

/-- The dump of the module as it stands. Which dies do not answer and which stacks are out of reach is free (log entry 45). -/
def State.dumpOf (s : State) (f : FatalKind) (die : Nat) (cluster : Option ClusterId) : Dump :=
  { kind := 11, mid := s.mgmt.mid, code := f, die := die, cluster := cluster,
    silent := diesWith (Config.dieSilent s.fresh), unreached := diesWith (Config.stackUnreached s.fresh), split := s.seals.split, time := s.mgmt.time, lc := s.mgmt.lc, dbg := s.mgmt.dbg,
    pwr := s.mgmt.pwr, ctxs := s.ctxs, cores := s.cores, clusters := s.clusters, dies := s.dies }

/-- A dump's die, whether it wrote its part, and whether its region could be written. -/
def Dump.die' (d : Dump) (die : Nat) : Die := tget Die.reset d.dies die
def Dump.alive (d : Dump) (die : Nat) : Bool := !(d.die' die).off && !d.silent.contains die
def Dump.written (d : Dump) (die : Nat) : Bool := !(d.die' (dumpHost die)).off && !d.unreached.contains die

/-- A doubleword with a bit for each die of which a property holds. -/
def dieBits (p : Nat → Bool) : Nat := (span 0 36).foldl (fun n i => if p i then n + 2 ^ i else n) 0

/-- The module header at an offset below 0x100 (R436). Which value bits 15:8 of the cause take is free. -/
def Dump.moduleDword (d : Dump) : Nat → Nat
  | 0x00 => d.mid.toNat
  | 0x08 => d.kind + 2 ^ 8 * (Config.dumpFault (d.code == .unroutable)).toNat + 2 ^ 16 * d.die
  | 0x10 => d.split.toNat
  | 0x18 => d.time.toNat
  | 0x20 => (match d.lc with
      | .mfg => 0
      | .deployed => 1
      | .tenant => 2
      | .vendorDebug => 3
      | .rma => 4
      | .retired => 5) + 2 ^ 8 * (match d.dbg with
      | .off => 0
      | .nonInvasive => 1
      | .invasive => 2) + 2 ^ 16 * (match d.pwr with
      | .on => 0
      | .idle => 1
      | .standby => 2
      | .off => 3)
  | 0x28 => dieBits fun i => (d.die' i).off
  | 0x30 => dieBits fun i => !d.written i
  | _ => 0

/-- A die's header at an offset below 0x100: its state and number, its undo region, its clock; of a die that is off or does not answer, STATE 1
alone. -/
def Dump.dieDword (d : Dump) (die off : Nat) : Nat :=
  let x := d.die' die
  if !d.alive die then (if off = 0 then 1 else 0)
  else if off = 0 then 2 ^ 8 * die
  else if off = 8 then undoBytes x.undo
  else tget 0 x.clock ((off - 0x10) / 8)

/-- The cluster of a block, and the logical core that a physical core of it serves. -/
def dumpCluster (die i : Nat) : ClusterId := mkId (24 * (die % 6) + i % 24) (24 * (die / 6) + i / 24) 0 0
def Dump.cluster' (d : Dump) (cl : ClusterId) : Cluster := tget Cluster.reset d.clusters cl
def Dump.logical (d : Dump) (cl : ClusterId) (phys : Nat) : Option Nat := (span 0 32).find? fun c => (d.cluster' cl).phys c == phys

/-- A doubleword of a cluster's header: the core table; B with the held units above it, n, the temperature in quarter degrees and the throttle
state, whose places R436 leaves open (DESIGN CHOICE, log entry 45); in cluster 0 the rest of the die's clock. -/
def Dump.clusterDword (d : Dump) (die i off : Nat) : Nat :=
  let q := d.cluster' (dumpCluster die i)
  if off < 0x20 then (span 0 8).foldl (fun n b => n + 256 ^ b * q.phys (off + b)) 0
  else if off < 0x80 then 0
  else if off < 0xA0 then [q.budget + 2 ^ 32 * q.held, q.fll, q.temp, q.throttled.toNat].getD ((off - 0x80) / 8) 0
  else if off < 0xD0 then (if i = 0 then tget 0 (d.die' die).clock (30 + (off - 0xA0) / 8) else 0)
  else 0

/-- An instruction packet in 32 bytes: valid, mark, context, tag and four words, of 4 bytes each; mark is 2 for the shell of an instruction that
works in a siding, 1 for a refused one (R436; places DESIGN CHOICE, log entry 45). -/
def Packet.dumped (p : Pipe) (q : Packet) : Nat :=
  let shell := p.sidings.any fun e => e.result.ctx == q.ctx && e.result.tag == q.tag && !e.dead
  packFields ([(4, 1), (4, if shell then 2 else q.mark.isSome.toNat), (4, q.ctx), (4, q.tag)] ++
    (span 0 4).map fun i => (4, (q.words.getD i 0).toNat))

/-- A result packet in 80 bytes: valid, tag, flags and 64 bytes of value, that of its first destination. -/
def Result.dumped (r : Result) : Nat :=
  packFields [(4, 1), (4, r.tag), (8, r.flags.toNat), (64, ((r.vals.head?.map Prod.snd).getD 0).toNat)]

/-- A core record from 0x4340 on: the stages and the tape, the retire queues, the landing buffers and the tag allocation state. -/
def Pipe.dumped (p : Pipe) : Nat :=
  let instr (o : Option Packet) : Nat × Nat := (32, (o.map (Packet.dumped p)).getD 0)
  let result (o : Option Result) : Nat × Nat := (80, (o.map Result.dumped).getD 0)
  let nth (k i : Nat) : Option Packet := (p.retire.filter fun q => q.ctx == k)[i]?
  let landed (k i : Nat) : Option Result := (p.landing.filter fun r => r.ctx == k)[i]?
  packFields <|
    ((span 0 10).map fun i => [instr ((p.instrs.find? fun e => e.1 == i).map Prod.snd), result ((p.results.find? fun e => e.1 == i).map Prod.snd)]).flatten ++
    [(32, 0)] ++ ((span 0 16).map fun k => (span 0 8).map fun i => instr (nth k i)).flatten ++
    ((span 0 16).map fun k => (span 0 8).map fun i => result (landed k i)).flatten ++
    (span 0 16).map fun k => (4, (tget [] p.tags k).foldl (fun n t => n ||| 2 ^ t) 0 + 2 ^ 16 * tget 0 p.nextSeq k)

/-- A doubleword of the record of a logical core c at an offset: the physical number, c, ccycle, the stage counter and the FP pending bitmap, a
doubleword each (DESIGN CHOICE, log entry 45); the context images; the pipe. -/
def Dump.coreDword (d : Dump) (cl : ClusterId) (phys c o : Nat) : Nat :=
  let id := cl + 256 * c
  let k := tget Core.reset d.cores id
  if o < 0x40 then [phys, c, k.cycle.toNat, k.stage.toNat, k.pipe.fpPending.toNat].getD (o / 8) 0
  else if o < 0x4340 then
    let x := ctxOf id ((o - 0x40) / 1072)
    let s : State := { State.reset with ctxs := d.ctxs, cores := d.cores, clusters := d.clusters }
    imageAt (s.image x (s.ctx x).pc) ((o - 0x40) % 1072) 8
  else imageAt k.pipe.dumped (o - 0x4340) 8

/-- A doubleword of S with its full/empty and written bits, P and Q of a core, in the layout of R289. -/
def Core.dumpDword (k : Core) (o : Nat) : Nat :=
  let mask (m : SMap Bool) (i : Nat) : Nat := (span 0 64).foldl (fun n b => if tget false m (i + b) then n + 2 ^ b else n) 0
  if o < 0x40000 then k.s.cells.read o 8
  else if o < 0x40800 then mask k.fe (8 * (o - 0x40000))
  else if o < 0x40900 then mask k.written (8 * (o - 0x40800))
  else if o < 0x50900 then k.p.cells.read (o - 0x40900) 8
  else k.q.cells.read (o - 0x50900) 8

/-- The end of the cluster blocks, and of the memories of the 34 cores of the cluster that raised the error. -/
def dumpEnd : Nat := dumpBlock 576
def dumpCoreSize : Nat := 0x58900

/-- The doubleword at an aligned offset of a die's dump region (R436): the module header, the die's header, the cluster blocks, and after them
the memories of the cores of the cluster that raised the error. None where nothing is written. A physical core that serves no logical
one has a record of zeros. -/
def Dump.dword (d : Dump) (die off : Nat) : Option Nat :=
  if !d.written die then none
  else if off < 0x100 then some (if (span 0 36).find? d.written = some die then d.moduleDword off else 0)
  else if off < 0x200 then some (d.dieDword die (off - 0x100))
  else if !d.alive die then none
  else if off < dumpEnd then
    let i := (off - 0x200) / 1114368
    let r := (off - 0x200) % 1114368
    if r < 256 then some (d.clusterDword die i r)
    else
      let phys := (r - 256) / 32768
      let cl := dumpCluster die i
      some (((d.logical cl phys).map fun c => d.coreDword cl phys c ((r - 256) % 32768)).getD 0)
  else match d.cluster with
    | none => none
    | some cl =>
      let phys := (off - dumpEnd) / dumpCoreSize
      if dieOf cl ≠ die ∨ 34 ≤ phys then none
      else some (((d.logical cl phys).map fun c => (tget Core.reset d.cores (cl + 256 * c)).dumpDword ((off - dumpEnd) % dumpCoreSize)).getD 0)

/-- A fatal error: everything stops, the dump is written, every job is told and cancelled. With no region that can be written the notice names
base 0 and an earlier dump stays, which R435 leaves open (DESIGN CHOICE, log entry 45). -/
def State.fatal (s : State) (f : FatalKind) (die : Nat) (cluster : Option ClusterId) : State :=
  let bound := (s.ctxs.filter fun e => e.2.row.v).map Prod.fst
  let base : Word := match s.headerDie with
    | none => 0
    | some d => tget 0 s.mgmt.dumpBase d
  let dumped : State := { s with fresh := s.fresh + 1
                                 mgmt := { s.mgmt with dump := if s.headerDie.isNone then s.mgmt.dump else some (s.dumpOf f die cluster) } }
  let s1 := bound.foldl State.killCtx dumped
  let s2 := s1.jobs.foldl (fun t e => t.notice e.1 11 0 0 base) s1
  let s3 := s2.cancelLaunches (s2.launches.map Prod.fst)
  { s3 with jobs := s3.jobs.map fun e => (e.1, e.2.map fun j => { j with cancelled := true }) }

/-! ### Rollback (R426, R431) -/

/-- Restore a line of global memory from an undo entry. A line of an overflow ring is restored with the ring as the area holds it, and one of a
fault mailbox is not (R420). -/
def State.undoEntry (s : State) (e : UndoEntry) : State :=
  match e.core with
  | none => if (ringPort e.line).isSome || s.inFmbox e.line then s else s.gWriteRaw e.line 64 e.old
  | some _ => s

/-- Step 2: every line of S and of global memory is as it was at the seal; with `kept` the logs kept by a provisional seal follow the
others. -/
def State.applyLogs (s : State) (a : SealArea) (kept : Bool) : State :=
  let ids := (s.cores.map Prod.fst) ++ (a.cores.map Prod.fst)
  let s1 := ids.foldl (fun t c => t.modCore c fun k => { k with s := (s.coreAt a kept c).s, fe := (s.coreAt a kept c).fe }) s
  let s2 := s1.dies.foldl (fun t e => e.2.undo.foldl State.undoEntry t) s1
  if kept then s2.dies.foldl (fun t e => e.2.keptUndo.foldl State.undoEntry t) s2 else s2

/-- Step 4 for a core: what the area holds; S as the logs restored it, P and Q as they stand, every slot and tile free. -/
def Core.reload (now : Core) (a : Core) : Core :=
  { now with tt := a.tt, mb := a.mb, pclaim := [], qclaim := [], shape := a.shape, storeBuf := a.storeBuf, feWait := [], named := a.named,
             refillOk := a.refillOk, spilled := a.spilled, tenancy := a.tenancy, resvs := [], matrixQ := [], vectorQ := [], copyQ := [], firedQ := [], stage := a.stage,
             sched := a.sched, chans := a.chans, pipe := Pipe.empty, msgCount := a.msgCount, black := a.black, undo := [],
             written := [] }

/-- Step 4: contexts and cores from an area. -/
def State.reloadCores (s : State) (a : SealArea) : State :=
  let s1 := { s with ctxs := a.ctxs.map fun e => (e.1, { e.2 with resv := none }), saved := a.saved }
  let ids := (s.cores.map Prod.fst) ++ (a.cores.map Prod.fst)
  ids.foldl (fun t c => t.modCore c fun k => k.reload (tget Core.reset a.cores c)) s1

/-- A job that was created after the seal: nothing of it has been read. -/
def Job.unread (j : Job) : Job :=
  { j with queues := j.queues.map (fun e => (e.1, e.2.map fun q =>
             { q with doorbell := 0, consumed := 0, stopped := false, cmds := [], watch := 0, watchDone := 0, watchStage := 0, watchOf := 0,
                      lingerWatch := 0, lingerStage := 0 })),
           phases := [], highRead := 0, ended := 0, endPosted := none, endTaken := false, cancelled := false, disagreed := none,
           sealWait := false, matched := false }

/-- Step 5: what dispatch restores. -/
def State.reloadDispatch (s : State) (a : SealArea) : State :=
  let jobs := s.jobs.foldl (fun m e => match tget none m e.1, e.2 with
    | none, some j => tset none m e.1 (some j.unread)
    | _, _ => m) a.jobs
  let known (d : Die) : Die := { d with knownEnds := d.knownEnds.filter fun k => match tget none jobs k.1 with
    | none => false
    | some j => decide (k.2 < j.ended) }
  { s with jobs := jobs, launches := a.launches, graphs := a.graphs, squads := a.squads, colls := [],
           dies := s.dies.map fun e => (e.1, known e.2) }

/-- Every queued engine command, held update and message is gone; updates in the rings are those of the seal. -/
def State.emptyFabric (s : State) (a : SealArea) : State :=
  { s with
    net := a.net
    owed := a.owed
    clusters := s.clusters.map fun e =>
      (e.1, { e.2 with coll0 := [], coll1 := [], requests := [], held := 0, resvs := [], holding := [], ring := tget [] a.rings e.1 })
    pages := s.pages.map fun e => (e.1, { e.2 with waiters := [] })
    gwritten := []
    dies := s.dies.map fun e => (e.1, { e.2 with undo := [], keptUndo := [], hold := [], carried := [] }) }

/-- The writes that the seal carried wait at their destinations again: they were the first of the split that is undone. -/
def State.recarry (s : State) (a : SealArea) : State :=
  (a.net.filter fun m => a.carried.contains m.id).foldl (fun t m =>
    t.modDie (t.dieAt m.dest) fun d => { d with carried := d.carried ++ [m.id] }) s

/-- A seal in progress is aborted as R427 says; one whose commit record has been written commits on every die. -/
def State.abortIfRunning (s : State) : State :=
  if s.seals.committing then (List.finRange 36).foldl (fun t d => nextOf t (execSealCommit d t)) s else nextOf s (execSealAbort s)

/-- What a rollback to an area reads of an item (R422). -/
def State.reads (s : State) (a : SealArea) (kept : Bool) : Damage → Bool
  | .undoBuffer c => !(s.core c).undo.isEmpty
  | .undoRegion d => !(s.die d.val).undo.isEmpty || (kept && !(s.die d.val).keptUndo.isEmpty)
  | .sealStore current => current
  | .ring p => !(tget [] a.rings p).isEmpty
  | .holdQueue _ => false
  | .pageTable job => s.dies.any fun e => e.2.undo.any fun u => u.core.isNone && u.line / 2 ^ 52 == job

/-- Damage that outlives a rollback: the logs are empty after it. -/
def Damage.stays : Damage → Bool
  | .undoBuffer _ => false
  | .undoRegion _ => false
  | .sealStore _ => true
  | .ring _ => false
  | .holdQueue _ => false
  | .pageTable _ => true

/-- ROLL BACK to the current seal, or with `kept` to the one that followed the last matching phase. A log or save area that it needs and
that is damaged makes the error fatal (R422). -/
def State.rollback (s : State) (kept : Bool) : State :=
  let s0 := s.abortIfRunning
  let back := kept && s0.seals.provisional
  let a := if back then s0.seals.keptArea.getD s0.seals.area else s0.seals.area
  if s0.seals.damaged.any (s0.reads a back) then s0.fatal .rollbackRead 0 none
  else
    let s1 := (s0.applyLogs a back).reloadCores a
    let s2 := ((s1.reloadDispatch a).emptyFabric a).recarry a
    let s3 := if back then { s2 with seals := { s2.seals with provisional := false, keptArea := none, area := a } } else s2
    let s4 := { s3 with seals := { s3.seals with committing := false, running := false, damaged := s3.seals.damaged.filter Damage.stays } }
    s4.jobs.foldl (fun t e => t.notice e.1 6 0 0 (if back then s4.seals.split - 1 else s4.seals.split)) s4

/-- ROLLBACK of the recovery domain to its current seal. -/
def execRollback (s : State) : Out := .next (s.rollback false)

/-- FATAL_ERROR. -/
def execFatalError (f : FatalKind) (die : Fin 36) (s : State) : Out :=
  match f with
  | .diePowerOff => .next ((s.modDie die.val fun d => { d with off := true }).fatal f die.val none)
  | .rollbackRead => .next (s.fatal f die.val none)
  | .unroutable => .next (s.fatal f die.val none)

/-! ### Containment (R419, R424, R425) -/

/-- A kill cell: origin and size in clusters. -/
structure Cell where
  x0 : Nat
  y0 : Nat
  w : Nat
  h : Nat
  deriving DecidableEq, Repr

/-- The kill cell of a job that holds a cluster, cut off at the rectangle's edge (R419). -/
def Job.cell (j : Job) (id : Nat) : Cell :=
  let x0 := j.cx0 + j.kcw * ((xOf id - j.cx0) / j.kcw)
  let y0 := j.cy0 + j.kch * ((yOf id - j.cy0) / j.kch)
  { x0 := x0, y0 := y0, w := min j.kcw (j.cx0 + j.cwm1 + 1 - x0), h := min j.kch (j.cy0 + j.chm1 + 1 - y0) }

/-- An identifier lies in a cell. -/
def Cell.holds (e : Cell) (id : Nat) : Bool :=
  decide (e.x0 ≤ xOf id ∧ xOf id < e.x0 + e.w ∧ e.y0 ≤ yOf id ∧ yOf id < e.y0 + e.h)

/-- The clusters of a cell. -/
def Cell.clusters (e : Cell) : List ClusterId :=
  ((span e.x0 e.w).map fun x => (span e.y0 e.h).map fun y => mkId x y 0 0).flatten

/-- INFO of a notice of kind 5. -/
def Cell.info (e : Cell) : Word := BitVec.ofNat 64 (2 ^ 56 * e.x0 + 2 ^ 48 * e.y0 + 2 ^ 40 * e.w + 2 ^ 32 * e.h)

/-- A message from outside that would enter a fenced cell is answered as an access addressed outside the job (R399, R425). -/
def State.refuseMsg (s : State) (m : Msg) (core : CoreId) : State :=
  let gone (k : PostKind) (off : Nat) : State := (s.answerTo m (.ack k m.id)).droppedOf m (outsideCeaddr core off)
  match m.body with
  | .store k off _ _ _ _ => gone k off
  | .mbInc k i _ => gone k i.toNat
  | .named k _ => gone k 0
  | .granule k srec rrec _ _ refill _ =>
    (s.answerTo m (.delivered k srec refill m.id)).droppedOf m (outsideCeaddr core rrec)
  | .load .. => s.answerTo m (.reply m.id 0 fDZR .ok)
  | .gather lanes done _ seen => (match lanes with
    | [] => s.answerTo m (.reply m.id 0 fDZR .ok)
    | (lane, _) :: rest => s.gatherOn m rest (done ++ laneBytes lane 0) true seen)
  | .lr _ => s.answerTo m (.reply m.id 0 fDZR .ok)
  | .sc off _ => (s.answerTo m (.reply m.id 0 fDZR .ok)).droppedOf m (outsideCeaddr core off)
  | .amo _ off _ _ => (s.answerTo m (.reply m.id 0 fDZR .ok)).droppedOf m (outsideCeaddr core off)
  | _ => s.dropMsg m.id

/-- Step 1: the fence. What comes from outside for a core of the cell is refused; what a context of the cell has asked for is not
forwarded. Its posted writes may or may not arrive (R425): they stay on their way. -/
def State.fence (s : State) (e : Cell) : State :=
  let s1 := e.clusters.foldl (fun t c => t.modCluster c fun q => { q with fenced := true }) s
  s1.net.foldl (fun t m => match m.dest with
    | .core c => if e.holds c && !e.holds m.src then t.refuseMsg m c else t
    | .home _ => t
    | .port _ => t
    | .directory _ => t
    | .sequencer => t
    | .controller _ => t
    | .ctx _ => t) s1

/-- A context departs every squad at once (R408). -/
def State.departAll (s : State) (c : CtxId) : State :=
  s.squads.foldl (fun t e => match t.squad e.1 with
    | none => t
    | some q => match q.member c (s.ctx c).row.launch.toNat with
      | none => t
      | some m => t.depart e.1 q m) s

/-- Steps 2 and 3 for a context of the cell: killed, departed, unbound. -/
def State.removeCtx (s : State) (c : CtxId) : State := ((s.killCtx c).departAll c).unbindCtx c

/-- The contexts of a cell, on their cores and in saved images. -/
def State.cellCtxs (s : State) (e : Cell) : List CtxId :=
  (s.ctxs.filter fun x => x.2.row.v && e.holds x.1).map Prod.fst

/-- Step 4: a core of the cell after its reset; its log, its comparators and its counters are the module's. R424 does not say whether the
reset of S is logged: the model logs nothing and keeps the log, so that a later rollback leaves the lines that it did not hold at zero
(DESIGN CHOICE, log entry 61). -/
def Core.wiped (k : Core) : Core :=
  { Core.reset with undo := k.undo, written := k.written, tenancy := k.tenancy, bp := k.bp, cycle := k.cycle, lapBegun := k.lapBegun, singles := k.singles }

/-- The launches of a job that have a unit in a cell, or that have been accepted to have one there: a cluster of the cell may have failed for
good. -/
def State.cellLaunches (s : State) (job : Nat) (e : Cell) : List Nat :=
  s.launchesOf job fun q _ => q.state == CState.running && q.record.ctxIds.any e.holds

/-- Held updates of launches are discarded, but for those of a round that has closed. -/
def State.dropUpdates (s : State) (ls : List Nat) : State :=
  let open_ (u : Update) : Bool := ls.contains u.launch && match (s.launch u.launch).bind fun q => q.closing with
    | some (r, _) => r != u.round
    | none => true
  { s with clusters := s.clusters.map fun e =>
      (e.1, { e.2 with holding := e.2.holding.filter fun u => !open_ u, ring := e.2.ring.filter fun u => !open_ u }) }

/-- CONTAIN the kill cell of a job that holds a faulty cluster (R424). -/
def State.contain (s : State) (job : Nat) (j : Job) (cluster : ClusterId) : State :=
  let e := j.cell cluster
  let ls := s.cellLaunches job e
  let s1 := ((s.cellCtxs e).foldl State.removeCtx (s.fence e)).dropUpdates ls
  let away := (s1.saved.filter fun q => e.holds q.1).map Prod.fst
  let s2 := away.foldl (fun t c => (ctxsOf c).foldl State.departAll (t.keepS c)) s1
  let s3 := { s2 with saved := s2.saved.filter fun q => !e.holds q.1 }
  let t := s3.cancelLaunches ls
  let t1 := (t.cores.filter fun k => e.holds k.1).foldl (fun u k => u.modCore k.1 Core.wiped) t
  let t2 := t1.notice job 5 0 0 e.info
  let t3 := e.clusters.foldl (fun u c => u.modCluster c fun q => { q with fenced := q.failed }) t2
  t3.modCluster (clusterOf cluster) fun q => { q with failed := true, fenced := true }

/-- CONTAINMENT: a fault in a cluster of a job under CONTAIN. -/
def execContainment (job : Nat) (cluster : ClusterId) (s : State) : Out :=
  match s.job job with
  | none => .next s
  | some j =>
    if j.pol == .contain && j.covers cluster && decide (0 < j.kcw ∧ 0 < j.kch) then .next (s.contain job j cluster) else .next s

/-! ### Faults (R422, R423) -/

/-- The job whose containment rectangle holds a cluster. -/
def State.jobAt (s : State) (cluster : ClusterId) : Option (Nat × Job) :=
  s.jobs.findSome? fun e => match e.2 with
    | none => none
    | some j => if j.covers cluster then some (e.1, j) else none

/-- A cluster is failed and stays fenced. -/
def State.failCluster (s : State) (cluster : ClusterId) : State :=
  s.modCluster (clusterOf cluster) fun q => { q with failed := true, fenced := true }

/-- A LOCAL FAULT of a cluster, under the policy of the job that holds it. -/
def State.localFault (s : State) (cluster : ClusterId) : State :=
  match s.jobAt cluster with
  | none => s.failCluster cluster
  | some (n, j) => match j.pol with
    | .contain => s.contain n j cluster
    | .rollback => (s.rollback false).failCluster cluster

/-- CORE_FAULT: a parity error of pipe, register-store, landing-buffer or tag state. -/
def execCoreFault (core : CoreId) (s : State) : Out := .next (s.localFault (clusterOf core))

/-- The number of a router's output link: five to a router, routers column by column (log entry 61). -/
def meshLink (x y out : Nat) : Nat := 5 * (144 * x + y) + out

/-- The links that fail with a part: a router's own five, or a link alone. -/
def DomainFaultKind.links : DomainFaultKind → List Nat
  | .router c => (span 0 5).map (meshLink (xOf c) (yOf c))
  | .dieLink l => [l]
  | .memoryPort _ => []
  | .ilufosko _ => []
  | .urgentLog _ => []

/-- The failed part is excluded: a port that is down leaves every route table; a cluster whose port or router has failed is failed; a link that
has failed, or whose router has, carries nothing. -/
def State.exclude (s : State) (f : DomainFaultKind) : State :=
  let t := { s with deadLinks := s.deadLinks ++ (DomainFaultKind.links f).filter fun l => !s.deadLinks.contains l }
  match f with
  | .memoryPort c => t.failCluster c
  | .router c => t.failCluster c
  | .dieLink _ => t
  | .ilufosko p =>
    { t.setPort p.val { t.port p.val with down := true } with
      routes := (t.routes.map fun e => (e.1, e.2.filter fun q => q != p.val)).filter fun e => !e.2.isEmpty }
  | .urgentLog _ => t

/-- The columns of a row of the mesh whose routers work; those joined to their eastern neighbour, and to their northern one: by links in both
directions. -/
def State.liveRow (s : State) (y : Nat) : Nat :=
  (span 0 144).foldl (fun n x => if s.deadLinks.contains (meshLink x y 0) then n else n + 2 ^ x) 0
def State.eastRow (s : State) (y : Nat) : Nat :=
  (span 0 143).foldl (fun n x =>
    if s.deadLinks.contains (meshLink x y 2) || s.deadLinks.contains (meshLink (x + 1) y 4) then n else n + 2 ^ x) 0
def State.northRow (s : State) (y : Nat) : Nat :=
  (span 0 144).foldl (fun n x =>
    if s.deadLinks.contains (meshLink x y 1) || s.deadLinks.contains (meshLink x (y + 1) 3) then n else n + 2 ^ x) 0

/-- One sweep over the rows: what is reached from the columns reached so far. The rows are given as working, east, north and reached. -/
def sweepRows : Nat → List (Nat × Nat × Nat × Nat) → List (Nat × Nat × Nat × Nat)
  | _, [] => []
  | below, (live, e, n, r) :: rest =>
    let up := match rest with
      | [] => 0
      | (_, _, _, r') :: _ => r' &&& n
    let m := (r ||| below ||| up ||| (2 * (r &&& e)) ||| (r / 2 &&& e)) &&& live
    (live, e, n, m) :: sweepRows (m &&& n) rest

/-- Sweeps until nothing more is reached. -/
def floodRows : Nat → List (Nat × Nat × Nat × Nat) → List (Nat × Nat × Nat × Nat)
  | 0, l => l
  | fuel + 1, l => let m := sweepRows 0 l
    if m = l then l else floodRows fuel m

/-- Every working router is reached from every other. -/
def State.meshWhole (s : State) : Bool :=
  let rows := (span 0 144).map fun y => (s.liveRow y, s.eastRow y, s.northRow y, 0)
  let seeded := (rows.foldl (fun (a : Bool × List (Nat × Nat × Nat × Nat)) r =>
    if a.1 || r.1 = 0 then (a.1, a.2 ++ [r]) else (true, a.2 ++ [(r.1, r.2.1, r.2.2.1, 2 ^ r.1.log2)])) (false, [])).2
  (floodRows 20736 seeded).all fun r => r.1 == r.2.2.2

/-- What a fault leaves cannot be routed around: the mesh falls apart, or the fabric has lost its last port towards a module. -/
def State.cutOff (s t : State) : DomainFaultKind → Bool
  | .router _ => !t.meshWhole
  | .dieLink _ => !t.meshWhole
  | .ilufosko _ => s.routes.any fun e => !t.routes.any fun r => r.1 % 512 == e.1 % 512
  | .memoryPort _ => false
  | .urgentLog _ => false

/-- The die and, if it is one, the cluster of a failed part; the fabric interfaces stand at the places of the stacks (R28, R29). -/
def DomainFaultKind.place : DomainFaultKind → Nat × Option ClusterId
  | .memoryPort c => (dieOf c, some (clusterOf c))
  | .router c => (dieOf c, some (clusterOf c))
  | .dieLink l => (dieOf (mkId (l / 720) (l / 5 % 144) 0 0), none)
  | .ilufosko p => (((span 0 36).find? fun d => (stacksOf d).contains (p.val / 2)).getD 0, none)
  | .urgentLog _ => (0, none)

/-- After the rollback the failed part is excluded; what cannot be routed around is fatal. -/
def State.excluded (s : State) (f : DomainFaultKind) : State :=
  let t := s.exclude f
  if s.cutOff t f then t.fatal .unroutable (DomainFaultKind.place f).1 (DomainFaultKind.place f).2 else t

/-- An error of a log or of the seal store, which R423 counts among the domain faults. -/
def Damage.isLog : Damage → Bool
  | .undoBuffer _ => true
  | .undoRegion _ => true
  | .sealStore _ => true
  | .ring _ => false
  | .holdQueue _ => false
  | .pageTable _ => false

/-- DOMAIN_FAULT: the recovery domain is rolled back, whatever the policies of its jobs; then the failed part is excluded. An error that
R422 makes urgent is recorded until the next commit and requests a seal. -/
def execDomainFault (f : DomainFaultKind) (s : State) : Out :=
  match f with
  | .urgentLog d =>
    let t := { s with seals := { s.seals with damaged := s.seals.damaged ++ [d] } }
    .next ((if Damage.isLog d then t.rollback false else t).requestSeal true)
  | .memoryPort _ => .next ((s.rollback false).excluded f)
  | .router _ => .next ((s.rollback false).excluded f)
  | .dieLink _ => .next ((s.rollback false).excluded f)
  | .ilufosko _ => .next ((s.rollback false).excluded f)

/-! ### Queue watchdogs (R428, R429) -/

/-- The LAUNCH or GRAPH that a queue works at. -/
def State.currentWork (s : State) (job queue : Nat) : Option Pending :=
  (s.queue job queue).bind fun q =>
    ((s.cmdsOf q).find? fun e => e.1.cmd.isWork && e.1.accepted && e.2 && !s.cmdDone e.1).map Prod.fst

/-- The launches of a graph. -/
def State.graphLaunches (s : State) (g : Nat) : List Nat := match s.graph g with
  | none => []
  | some x => x.launches

/-- DONE of a command. -/
def State.doneOf (s : State) (p : Pending) : Nat :=
  if p.cmd.op = 2 then (match s.graph p.graph with
    | none => 0
    | some g => g.done)
  else (s.graphLaunches p.graph).foldl (fun n l => match s.launch l with
    | none => n
    | some q => n + q.done) 0

/-- Bound contexts of launches. -/
def State.ctxsOfLaunches (s : State) (ls : List Nat) : List CtxId :=
  (s.ctxs.filter fun e => e.2.row.v && ls.contains e.2.row.launch.toNat).map Prod.fst

/-- The watchdog of a queue counts: its command's contexts are not pre-empted, and no seal runs. -/
def State.watching (s : State) (ls : List Nat) : Bool :=
  !s.seals.running && !((s.ctxsOfLaunches ls).any fun c => (s.ctx c).quotaHeld || (s.ctx c).row.pre) &&
  !s.saved.any fun e => e.2.any fun q => ls.any (Image.ofLaunch q)

/-- Contexts of a queue that stage 1 has asked to halt and that have not halted. -/
def State.lingering (s : State) (job queue : Nat) : List CtxId :=
  (s.ctxs.filter fun e => e.2.row.v && e.2.row.pre && e.2.row.job.toNat == job &&
    match s.launch e.2.row.launch.toNat with
    | none => false
    | some q => q.state != CState.running && (s.graph q.graph).any fun g => g.queue == queue).map Prod.fst

/-- Units of 10 us pass for a queue's watchdog: for its current command, and for the contexts that stage 1 has not brought to halt. -/
def State.watchQueue (s : State) (job queue units : Nat) : State :=
  let t := match s.currentWork job queue with
    | none => s.modQueue job queue fun q => { q with watch := 0, watchDone := 0, watchStage := 0, watchOf := 0 }
    | some p =>
      let done := s.doneOf p
      s.modQueue job queue fun q =>
        if done ≠ q.watchDone || p.graph ≠ q.watchOf then { q with watch := 0, watchDone := done, watchStage := 0, watchOf := p.graph }
        else if s.watching (s.graphLaunches p.graph) then { q with watch := q.watch + units } else q
  t.modQueue job queue fun q =>
    if (s.lingering job queue).isEmpty then { q with lingerWatch := 0, lingerStage := 0 }
    else if s.seals.running then q
    else { q with lingerWatch := q.lingerWatch + units }

/-- A watchdog's limit for a stage. -/
def Job.limit (j : Job) : Nat → Nat
  | 1 => j.wd1
  | 2 => j.wd2
  | _ => j.wd3

/-- The count of a queue has reached the limit of a stage that has not acted. -/
def State.stageDue (s : State) (job queue stage : Nat) : Option Pending :=
  match s.job job, s.queue job queue with
  | some j, some q =>
    if j.limit stage = 0 || q.watch < j.limit stage || stage ≤ q.watchStage then none
    else (s.currentWork job queue).filter fun p => s.doneOf p == q.watchDone && p.graph == q.watchOf
  | _, _ => none

/-- The contexts that stage 1 has not brought to halt, when a later stage is due for them. -/
def State.lingerDue (s : State) (job queue stage : Nat) : List CtxId :=
  match s.job job, s.queue job queue with
  | some j, some q => if j.limit stage = 0 || q.lingerWatch < j.limit stage || stage ≤ q.lingerStage then [] else s.lingering job queue
  | _, _ => []

/-- The notice of a watchdog stage, which has acted. -/
def State.stageActed (s : State) (job queue stage : Nat) : State :=
  (s.modQueue job queue fun q => { q with watchStage := stage }).notice job 8 0 0 (BitVec.ofNat 64 (2 ^ 32 * queue + stage))

/-- Stage 1 for a context: it halts at its boundary and is ended; one that awaits the reply of an atomic has not halted. -/
def State.endHalting (s : State) (l : Nat) (c : CtxId) : State :=
  let t := s.killBoundary c
  if (s.ctx c).row.v && (s.ctx c).row.launch.toNat == l && (t.ctx c).inReply then
    t.modCtx c fun x => { x with row := { x.row with pre := true } }
  else s.cancelTile l c

/-- Stage 1 for launches: their contexts are ended and their counters show 0b10. -/
def State.stopLaunches (s : State) (ls : List Nat) : State :=
  ls.foldl (fun t l => match t.launch l with
    | none => t
    | some q =>
      if q.state ≠ CState.running then t
      else (if q.bound then q.record.ctxIds.foldl (fun (u : State) c => u.endHalting l c) t else t).endLaunch l .cancelled) s

/-- WATCHDOG_STAGE_1. The count of a context that does not halt goes on from that of the command. -/
def execWatchdogStage1 (job queue : Nat) (s : State) : Out :=
  match s.stageDue job queue 1 with
  | none => .next s
  | some p => .next (((s.stopLaunches (s.graphLaunches p.graph)).stageActed job queue 1).modQueue job queue fun q =>
      { q with lingerWatch := q.watch, lingerStage := 1 })

/-- The contexts on which a stage acts: those of the command for which it is due, and those that stage 1 has not brought to halt. -/
def State.stageCtxs (s : State) (job queue stage : Nat) : List CtxId :=
  (match s.stageDue job queue stage with
    | none => []
    | some p => s.ctxsOfLaunches (s.graphLaunches p.graph)) ++ s.lingerDue job queue stage

/-- A stage from the second on acts, if it is due. -/
def State.laterStage (s : State) (job queue stage : Nat) (f : List CtxId → State → State) : Out :=
  if (s.stageDue job queue stage).isNone && (s.lingerDue job queue stage).isEmpty then .next s
  else .next (f (s.stageCtxs job queue stage) ((s.stageActed job queue stage).modQueue job queue fun q => { q with lingerStage := stage }))

/-- WATCHDOG_STAGE_2: every context of the command that has not halted is killed. One of a command that has ended is unbound as well. -/
def execWatchdogStage2 (job queue : Nat) (s : State) : Out :=
  let late := s.lingerDue job queue 2
  s.laterStage job queue 2 fun cs t =>
    (cs.filter fun c => (t.ctx c).run != .halted).foldl (fun u c => if late.contains c then (u.killCtx c).unbindCtx c else u.killCtx c) t

/-- Cores that hold contexts still unkilled are fenced, each as a local fault; a rollback is made once. -/
def State.fenceAll (s : State) (job : Nat) : List ClusterId → State
  | [] => s
  | c :: r => if (s.job job).any (fun j => j.pol == .rollback) then r.foldl State.failCluster (s.localFault c)
    else r.foldl State.localFault (s.localFault c)

/-- WATCHDOG_STAGE_3: a core that holds a context still unkilled is fenced as a local fault. -/
def execWatchdogStage3 (job queue : Nat) (s : State) : Out :=
  s.laterStage job queue 3 fun cs t =>
    let left := cs.filter fun c => (t.ctx c).run != .killed && (t.ctx c).run != .halted
    t.fenceAll job (left.foldl (fun l c => if l.contains (clusterOf c) then l else l ++ [clusterOf c]) [])

/-! ### Replicas (R430, R431) -/

/-- The little-endian bytes of a number. -/
def bytesOf (n v : Nat) : List Byte := (span 0 n).map fun i => BitVec.ofNat 8 (v / 256 ^ i)

/-- This module's digest of a job's digested region. -/
def State.digest (s : State) (job : Nat) (j : Job) : BitVec 384 :=
  Config.sha384 (bytesOf j.digLen (s.dread job j.digAddr.toNat j.digLen))

/-- Every cluster of a job's containment rectangle is to be tested (R430). -/
def State.testRect (s : State) (j : Job) : State := j.rect.foldl (fun t c => t.modCluster c fun q => { q with testDue := true }) s

/-- Every launch of a job is cancelled and the job ends. -/
def State.cancelJob (s : State) (job : Nat) : State :=
  (s.modJob job fun j => { j with cancelled := true }).cancelLaunches (s.launchesOf job fun _ _ => true)

/-- REPLICA_DIGEST: the partner's digest of a phase end is in hand. A match requests the seal that takes in the deferred requests; a
disagreement rolls back to the seal of the last matching phase; a second one at the same phase cancels the job and has its clusters
tested. -/
def execReplicaDigest (job phase : Nat) (partner : BitVec 384) (s : State) : Out :=
  match s.job job with
  | none => .next s
  | some j =>
    if !j.rep || !j.sealWait || j.matched || phase + 1 != j.ended then .next s
    else if s.digest job j = partner then
      let t := (s.readBackD job j.digAddr.toNat j.digLen).modJob job fun j => { j with matched := true, disagreed := none }
      .next { t with seals := { t.seals with requested := true, deferred := false } }
    else if j.disagreed = some phase then
      .next (((s.notice job 9 0 0 (BitVec.ofNat 64 (2 ^ 16 + phase % 2 ^ 16))).cancelJob job).testRect j)
    else if s.seals.provisional && s.seals.keptArea.isNone then .next (s.fatal .rollbackRead 0 none)
    else
      let t := (s.rollback true).modJob job fun j => { j with disagreed := some phase }
      .next (t.notice job 9 0 0 (BitVec.ofNat 64 (phase % 2 ^ 16)))

end Sys2Proof.Machine
end

