-- ==== Sys2Proof/Machine/Fabric.lean ====
section
/-! DEFINITION. Clocks, temperatures and currents (R292 to R294, R363, R433, R434), the router slot tables and mesh links (R24, R25, R362),
and the Ilufosko ports (R330 to R333). -/

namespace Sys2Proof.Machine

/-! ### The module controller's time (R420) -/

/-- The module controller's time comes to `us`: every queue's watchdog counts the units of 10 us that have passed (R428), the count of
detector firings starts anew each millisecond (R363) and that of single-bit errors each second (R402). -/
def State.passTime (s : State) (us : Nat) : State :=
  let old := s.mgmt.time.toNat
  if us ≤ old then s
  else
    let s1 : State := { s with mgmt := { s.mgmt with time := BitVec.ofNat 64 us } }
    let s2 := s1.jobs.foldl (fun t e => match e.2 with
      | none => t
      | some j => j.queues.foldl (fun u q => u.watchQueue e.1 q.1 (us / 10 - old / 10)) t) s1
    let s3 := if us / 1000 = old / 1000 then s2
      else s2.cores.foldl (fun t e => t.modCore e.1 fun k => { k with detections := 0 }) s2
    if us / 1000000 = old / 1000000 then s3
    else s3.cores.foldl (fun t e => t.modCore e.1 fun k => { k with singles := [] }) s3

/-! ### Budgets and frequency steps (R32, R292, R293) -/

/-- The budget B and the step n of a cluster, apart from a current step of its die. -/
def State.limits (s : State) (cluster : ClusterId) : Nat × Nat :=
  match (s.die (dieOf cluster)).beforeStep.find? fun e => e.1 == cluster with
  | some e => e.2
  | none => ((s.cluster cluster).budget, (s.cluster cluster).ordered)

/-- Set B; while a current step is in force it takes effect when it ends. -/
def State.setBudget (s : State) (cluster : ClusterId) (b : Nat) : State :=
  if s.stepped cluster then s.modDie (dieOf cluster) fun d =>
    { d with beforeStep := d.beforeStep.map fun e => if e.1 = cluster then (cluster, b, e.2.2) else e }
  else s.modCluster cluster fun q => { q with budget := b }

/-- Order a step n (R293); while a current step is in force it is the one to which the cluster returns. -/
def State.orderStep (s : State) (cluster : ClusterId) (n : Nat) : State :=
  if s.stepped cluster then s.modDie (dieOf cluster) fun d =>
    { d with beforeStep := d.beforeStep.map fun e => if e.1 = cluster then (cluster, e.2.1, n) else e }
  else s.modCluster cluster fun q => q.order n

/-- The deterministic job whose rectangle holds a cluster. -/
def State.detJobAt (s : State) (cluster : ClusterId) : Option Job :=
  ((s.jobAt cluster).map Prod.snd).filter s.detJob

/-- The module controller changes the step n of a cluster, or, for a deterministic job, of every cluster of the job: there the FLLs
switch together, at a phase boundary (R32, R293). A throttled cluster returns to the changed step. While a current step is in force on
such a job the change is not ordered. -/
def State.changeStep (s : State) (cluster : ClusterId) (n : Nat) : State :=
  let kept (q : Cluster) : Cluster := if q.throttled then { q with fllSaved := n } else q
  match s.detJobAt cluster with
  | none => (s.orderStep cluster n).modCluster cluster kept
  | some j =>
    if j.rect.any s.stepped then s
    else j.rect.foldl (fun t c => t.modCluster c fun q => { kept q with goal := some n, goalNow := false }) s

/-- The FLL switches to the ordered step. -/
def Cluster.switch (q : Cluster) (n : Nat) : Cluster :=
  { q with fll := n, goal := if q.ldo = n then none else some n, goalNow := false }

/-- The FLL may switch to a step: down before the LDO moves, up when the LDO has settled. -/
def Cluster.maySwitch (q : Cluster) (n : Nat) : Bool := decide (n < q.fll) || (decide (q.fll < n) && q.ldo == n)

/-- Every core of a cluster stands at a lap boundary. -/
def State.atLap (s : State) (cluster : ClusterId) : Bool :=
  s.cores.all fun e => clusterOf e.1 != cluster || decide (e.2.cycle % 16 = 0)

/-- The FLL of a cluster switches, at a lap boundary; those of a deterministic job together and at a phase boundary, unless a current step
has ended. -/
def State.switchFll (s : State) (cluster : ClusterId) : State :=
  let q := s.cluster cluster
  match q.goal with
  | none => s
  | some n =>
    if s.stepped cluster && !q.goalNow then s
    else match (if q.goalNow then none else s.detJobAt cluster) with
      | none => if q.maySwitch n && s.atLap cluster then s.modCluster cluster fun q => q.switch n else s
      | some j =>
        let there (c : ClusterId) : Bool := (s.cluster c).fll == n && (s.cluster c).ordered == n
        let ready (c : ClusterId) : Bool := (s.cluster c).goal == some n && (s.cluster c).maySwitch n && s.atLap c
        if q.maySwitch n && s.atPhaseBoundary j && j.rect.all (fun c => there c || ready c) then
          j.rect.foldl (fun t c => if there c then t else t.modCluster c fun q => q.switch n) s
        else s

/-- The LDO settles at the ordered step: before the FLL switches up to it, or after it has switched down. -/
def Cluster.settleLdo (q : Cluster) : Cluster :=
  match q.goal with
  | none => q
  | some n => if n < q.fll then q else if n = q.fll then { q with ldo := n, goal := none } else { q with ldo := n }

/-- The module controller sets B, never below 8; a throttled cluster runs at half of it (R292, R294). -/
def State.changeBudget (s : State) (cluster : ClusterId) (b : Nat) : State :=
  if b < 8 then s
  else if (s.cluster cluster).throttled then
    (s.setBudget cluster (max 8 (b / 2))).modCluster cluster fun q => { q with budgetSaved := b }
  else s.setBudget cluster b

/-- FREQUENCY_CHANGE: a cluster's LDO and FLL move to a step, or the module controller sets one of the cluster's limits, of which θ runs
from 60 to 110, or its voltage table. -/
def execFrequencyChange (cluster : ClusterId) (c : ClusterChange) (s : State) : Out :=
  let cl := clusterOf cluster
  match c with
  | .step n => .next (s.changeStep cl n.val)
  | .ldo => .next (s.modCluster cl Cluster.settleLdo)
  | .fll => .next (s.switchFll cl)
  | .budget b => .next (s.changeBudget cl b)
  | .threshold t => if 60 ≤ t ∧ t ≤ 110 then .next (s.modCluster cl fun q => { q with theta := t }) else .next s
  | .voltage n mv => .next { s with mgmt := { s.mgmt with volts := tset 0 s.mgmt.volts n.val mv } }

/-- DETECTOR_RATE_REPORT: a core whose detectors fired more than 64 times in 1 ms has its cluster's step lowered by 1 (R363). -/
def execDetectorRateReport (core : CoreId) (s : State) : Out :=
  if (s.core core).detections ≤ 64 then .next s
  else
    let n := (s.limits (clusterOf core)).2
    .next ((s.changeStep (clusterOf core) (n - 1)).modCore core fun k => { k with detections := 0 })

/-! ### Temperature (R294, R433) -/

/-- The trip limit in quarter degrees. -/
def Cluster.tripLimit (q : Cluster) : Nat := 4 * min (q.theta + 10) 115

/-- The release threshold in quarter degrees. -/
def Cluster.release (q : Cluster) : Nat := 4 * q.theta - 16

/-- A transition may be taken: the last one was at least 1 ms ago. -/
def Cluster.mayShift (q : Cluster) (now : Nat) : Bool := match q.lastShift with
  | none => true
  | some t => decide (t + 1000 ≤ now)

/-- A cluster trips: its clocks stop, the trip is a local fault of the job that holds it, and it is failed and gated (R433). -/
def State.trip (s : State) (cluster : ClusterId) : State :=
  let s1 := (s.modCluster cluster fun q => { q with tripped := true, coolReadings := 0 }).localFault cluster
  let s2 := s1.modCluster cluster fun q => { q with tripped := true, failed := true, fenced := true, coolReadings := 0 }
  let s3 := match s2.jobAt cluster with
    | none => s2
    | some (job, _) => s2.notice job 10 0 0 (BitVec.ofNat 64 (256 * xOf cluster + yOf cluster))
  (s3.cores.filter fun e => clusterOf e.1 == cluster).foldl (fun t e => t.modCore e.1 Core.gated) s3

/-- A tripped cluster cools: after three readings in a row at or below the release threshold it may be tested. -/
def Cluster.cool (q : Cluster) (quarters : Nat) : Cluster :=
  if quarters ≤ q.release then
    (if q.coolReadings + 1 < 3 then { q with coolReadings := q.coolReadings + 1 } else { q with coolReadings := 0, tripped := false })
  else { q with coolReadings := 0 }

/-- Throttle a cluster: B is halved, never below 8. -/
def State.throttle (s : State) (cluster : ClusterId) : State :=
  let l := s.limits cluster
  (s.setBudget cluster (max 8 (l.1 / 2))).modCluster cluster fun q =>
    { q with throttled := true, budgetSaved := l.1, fllSaved := l.2, lastShift := some s.mgmt.time.toNat }

/-- Release a cluster: B and n as before the throttle. The n of a deterministic job has not fallen in it; where it had fallen before the
job began, the job's clusters return together at a phase boundary. -/
def State.unthrottle (s : State) (cluster : ClusterId) : State :=
  let q := s.cluster cluster
  let t := (s.setBudget cluster q.budgetSaved).modCluster cluster fun q =>
    { q with throttled := false, lastShift := some s.mgmt.time.toNat }
  if (t.limits cluster).2 = q.fllSaved then t else t.changeStep cluster q.fllSaved

/-- THERMAL_READING, in quarter degrees. -/
def execThermalReading (cluster : ClusterId) (quarters : Nat) (s : State) : Out :=
  let cl := clusterOf cluster
  let q := s.cluster cl
  let s1 := s.modCluster cl fun q => { q with temp := quarters }
  if q.tripped then .next (s1.modCluster cl fun q => q.cool quarters)
  else if q.tripLimit ≤ quarters then .next (s1.trip cl)
  else if !q.throttled && decide (4 * q.theta ≤ quarters) && q.mayShift s.mgmt.time.toNat then .next (s1.throttle cl)
  else if q.throttled && decide (quarters ≤ q.release) && q.mayShift s.mgmt.time.toNat then .next (s1.unthrottle cl)
  else .next s1

/-- THROTTLE_STEP: another millisecond in a throttled cluster of a job that is not deterministic: n falls by 8. -/
def execThrottleStep (cluster : ClusterId) (s : State) : Out :=
  let cl := clusterOf cluster
  let l := s.limits cl
  if !(s.cluster cl).throttled then .next s
  else match s.jobAt cl with
    | none => .next s
    | some (_, j) => if s.detJob j then .next s else .next (s.orderStep cl (l.2 - 8))

/-! ### Current (R434) -/

/-- The clusters of a die. -/
def dieClusters (die : Nat) : List ClusterId :=
  ((span (24 * (die / 6)) 24).map fun y => (span (24 * (die % 6)) 24).map fun x => mkId x y 0 0).flatten

/-- The current step of a die: every B is 8 and every n is ordered to 0, in deterministic jobs too: the FLLs switch at a lap boundary. -/
def State.currentStep (s : State) (die atUs : Nat) : State :=
  let cs := dieClusters die
  let before := cs.map fun c => (c, (s.cluster c).budget, (s.cluster c).ordered)
  let s1 := cs.foldl (fun t c => t.modCluster c fun q => { q.order 0 with budget := 8, goalNow := true }) s
  s1.modDie die fun d => { d with overSamples := 0, stepAt := some atUs, lastOver := some atUs, beforeStep := before }

/-- A cluster returns to its B and n; its FLL waits for the LDO and a lap boundary, not for a phase boundary. -/
def Cluster.restep (q : Cluster) (b n : Nat) : Cluster := { q.order n with budget := b, goalNow := true }

/-- The current step ends: every B and n returns to its former value. -/
def State.endStep (s : State) (die : Nat) : State :=
  let before := (s.die die).beforeStep
  let s1 := s.modDie die fun d => { d with stepAt := none, lastOver := none, beforeStep := [] }
  before.foldl (fun t e => t.modCluster e.1 fun q => q.restep e.2.1 e.2.2) s1

/-- CURRENT_SAMPLE: a die's rail at `percent` of its rating, at a time of the module controller. -/
def execCurrentSample (die : Fin 36) (percent atUs : Nat) (s : State) : Out :=
  let t := s.passTime atUs
  let d := t.die die.val
  if d.off then .next t
  else match d.stepAt with
    | none =>
      if percent ≤ 120 then .next (t.modDie die.val fun d => { d with overSamples := 0 })
      else if d.overSamples = 0 then .next (t.modDie die.val fun d => { d with overSamples := 1 })
      else .next (t.currentStep die.val atUs)
    | some since =>
      if 100 < percent then
        (if since + 1000 ≤ atUs then .next ((t.modDie die.val fun d => { d with off := true }).fatal .diePowerOff die.val none)
        else .next (t.modDie die.val fun d => { d with lastOver := some atUs }))
      else if d.lastOver.getD 0 + 1000 ≤ atUs then .next (t.endStep die.val)
      else .next (t.modDie die.val fun d => { d with stepAt := some atUs })

/-! ### Routers and mesh links (R24, R25, R362) -/

/-- A slot table entry of a word. -/
def Slot.ofWord (v : BitVec 16) : Slot := { sch := v.getLsbD 15, inp := v.extractLsb' 12 3, flow := v.extractLsb' 0 12 }

/-- The entry is scheduled; a reserved value of INP makes it behave as SCH = 0. -/
def Slot.scheduled (x : Slot) : Bool := x.sch && decide (x.inp.toNat ≤ 4)

/-- The shadow table becomes the active one, if a phase boundary has passed. -/
def Cluster.swapTables (q : Cluster) : Cluster := if q.swapDue then { q with slots := q.shadow, swapDue := false } else q

/-- A network cycle passes, in which each link may carry a flit again; at a frame boundary every table that is due is swapped. -/
def State.networkCycle (s : State) : State :=
  let n := (s.frame + 1) % 64
  let t : State := { s with frame := n, links := s.links.foldl (fun m e => tset Link.reset m e.1 { e.2 with used := false }) [] }
  if n = 0 then t.clusters.foldl (fun u e => u.modCluster e.1 Cluster.swapTables) t else t

/-- ROUTER_TABLE_SWAP: the dispatch controller writes an entry of a shadow slot table; or the frame counter goes on, and where that begins a
frame the shadow replaces the active table of every router whose phase boundary has passed (R24). -/
def execRouterTableSwap (cluster : ClusterId) (c : RouterChange) (s : State) : Out :=
  match c with
  | .write out entry v => .next (s.modCluster (clusterOf cluster) fun q =>
      { q with shadow := tset Slot.zero q.shadow (64 * out.val + entry.val) (Slot.ofWord v) })
  | .cycle => .next s.networkCycle
  | .swap => if s.frame = 63 then .next s.networkCycle else .next s

/-- The router and the output port that a mesh link leaves from: links are numbered five to a router, routers column by column. -/
def linkRouter (link : Nat) : ClusterId := mkId (link / 720) (link / 5 % 144) 0 0

/-- The slot that a link serves in the present network cycle. -/
def State.slotNow (s : State) (link : Nat) : Slot := tget Slot.zero (s.cluster (linkRouter link)).slots (64 * (link % 5) + s.frame)

/-- The output that best-effort traffic takes at a router: in X first, then in Y (R26). -/
def meshOut (at_ dst : ClusterId) : Nat :=
  if xOf at_ < xOf dst then 2 else if xOf dst < xOf at_ then 4
  else if yOf at_ < yOf dst then 1 else if yOf dst < yOf at_ then 3 else 0

/-- A flit comes to a link's queue: a scheduled one by its flow's slots, a best-effort one by its route, which is free where failed links are
to be routed around (log entry 61). A link that has failed takes none (R423). -/
def State.joins (s : State) (link : Nat) (f : MeshFlit) : Bool :=
  !s.deadLinks.contains link && (f.flow.isSome || !s.deadLinks.isEmpty || meshOut (linkRouter link) f.dst == link % 5)

def State.meshJoin (s : State) (link : Nat) (flit : Option MeshFlit) : State := match flit with
  | none => s
  | some f =>
    if s.joins link f then
      State.setLink { s with nextId := s.nextId + 1 } link { s.link link with waiting := (s.link link).waiting ++ [(s.nextId, f)] }
    else s

/-- The best-effort flit that goes next: of the copy and collective class before the rest; within a class the inputs are served round-robin
(R26). -/
def Link.best (q : Link) : Option (Nat × MeshFlit) :=
  let free := q.waiting.filter fun e => e.2.flow.isNone
  let copies := free.filter fun e => e.2.copy
  let cands := if copies.isEmpty then free else copies
  let last := if copies.isEmpty then q.lastRest else q.lastCopy
  (span 1 5).findSome? fun i => cands.find? fun e => e.2.inp.val == (last + i) % 5

/-- The flit that a link carries in a slot: in a scheduled one that of its flow which arrived on INP, else best-effort traffic (R24, R25). -/
def Slot.pick (x : Slot) (q : Link) : Option (Nat × MeshFlit) :=
  (q.waiting.find? fun e => x.scheduled && e.2.flow == some x.flow && e.2.inp.val == x.inp.toNat).orElse fun _ => q.best

/-- A waiting flit goes over the link. -/
def Link.carry (q : Link) (e : Nat × MeshFlit) (crcOk : Bool) : Link :=
  let free := e.2.flow.isNone
  { q with waiting := q.waiting.filter fun w => w.1 != e.1, buffer := (e.1 :: q.buffer).take 4, used := true,
           delivered := if crcOk then e.1 :: q.delivered else q.delivered, asked := if crcOk then 0 else 1,
           lastCopy := if free && e.2.copy then e.2.inp.val else q.lastCopy,
           lastRest := if free && !e.2.copy then e.2.inp.val else q.lastRest }

/-- MESH_FLIT_RETRY: a flit comes to an output, if one does, and the link serves its slot, once in a network cycle. A flit with a CRC mismatch
is asked for again, once, from the sender's link buffer of four flits; each is delivered once (R362). -/
def execMeshFlitRetry (link : Nat) (flit : Option MeshFlit) (crcOk : Bool) (s : State) : Out :=
  let t := s.meshJoin link flit
  let q := t.link link
  if q.used || t.deadLinks.contains link then .next t
  else match q.asked, q.buffer with
  | 0, _ => (match (t.slotNow link).pick q with
    | none => .next t
    | some e => .next (t.setLink link (q.carry e crcOk)))
  | _, [] => .next (t.setLink link { q with asked := 0 })
  | _, id :: _ =>
    .next (t.setLink link (if crcOk then { q with asked := 0, used := true, delivered := id :: q.delivered } else { q with used := true }))

/-! ### Ilufosko ports (R330 to R333) -/

/-- The code of a class, which the model numbers in the order of R330. -/
def FlitClass.code : FlitClass → Nat
  | .control => 0
  | .scheduled => 1
  | .copy => 2
  | .best => 3

/-- CRC-64 with the ECMA-182 polynomial over bytes, the most significant bit first, from zero (log entry 60). -/
def crc64 (bs : List Byte) : BitVec 64 :=
  bs.foldl (fun c b => (span 0 8).foldl (fun d _ => if d.msb then (d <<< (1 : Nat)) ^^^ 0x42F0E1EBA9EA3693#64 else d <<< (1 : Nat))
    (c ^^^ (BitVec.setWidth 64 b <<< (56 : Nat)))) 0

/-- Bytes 0 to 247 of a flit. -/
def flitBytes (f : Flit) : List Byte :=
  bytesOf 16 (Config.flitHeader (FlitClass.code f.cls) f.dst f.tag f.seq).toNat ++ bytesOf 232 f.payload.toNat

/-- The flit's CRC agrees with its bytes. -/
def flitSound (f : Flit) : Bool := f.crc == crc64 (flitBytes f)

/-- A flit as it is sent: under a sequence number, with its CRC. -/
def flitSealed (f : Flit) (seq : BitVec 12) : Flit :=
  let g : Flit := { f with seq := seq }
  { g with crc := crc64 (flitBytes g) }

/-- Best-effort traffic: the copy and collective class, and the rest; a scheduled flit that only passes through has no flow here. -/
def PortFlit.free (e : PortFlit) : Bool :=
  e.flit.cls == .copy || e.flit.cls == .best || (e.flit.cls == .scheduled && e.flow == none)

/-- The flits that a port could send next: those to be sent again, or the waiting ones while fewer than 128 are unacknowledged. -/
def Port.offers (p : Port) : List PortFlit :=
  if p.again ≠ 0 then (p.unacked.drop (p.unacked.length - p.again)).take 1
  else if p.unacked.length < 128 then p.waiting else []

/-- The flit that a port sends in the present slot of its frame (R331): in slots 0 to 3 one of the control class; in a slot reserved for a
flow one of that flow; otherwise, and when the flow has none waiting, one of the copy and collective class, else best effort. -/
def Port.pick (p : Port) : Option PortFlit :=
  let best := (p.offers.find? fun e => e.flit.cls == .copy).orElse fun _ => p.offers.find? PortFlit.free
  if p.slot < 4 then p.offers.find? fun e => e.flit.cls == .control
  else match tget none p.reserved p.slot with
    | some f => (p.offers.find? fun e => e.flow == some f).orElse fun _ => best
    | none => best

/-- Remove the first element equal to a given one. -/
def removeFirst (e : PortFlit) : List PortFlit → List PortFlit
  | [] => []
  | x :: r => if x = e then r else x :: removeFirst e r

/-- A port sends a flit: again under its number, or for the first time under the next one. -/
def Port.emit (p : Port) (e : PortFlit) (now : Nat) : Port :=
  if p.again ≠ 0 then
    { p with unacked := p.unacked.map (fun x => if x = e then { x with tries := x.tries + 1 } else x), again := p.again - 1 }
  else
    { p with waiting := removeFirst e p.waiting, txSeq := p.txSeq + 1, since := if p.unacked.isEmpty then now else p.since
             unacked := p.unacked ++ [{ e with flit := flitSealed e.flit p.txSeq, tries := 1 }] }

/-- A slot of a port's frame passes; an acknowledgement goes first in a control slot. -/
def Port.step (p : Port) (now : Nat) : Port :=
  let q := match p.answers with
    | a :: r => if p.slot < 4 then { p with answers := r, sent := a :: p.sent } else (p.pick.map fun e => p.emit e now).getD p
    | [] => (p.pick.map fun e => p.emit e now).getD p
  { q with slot := (p.slot + 1) % 64 }

/-- The port of a flit that a source hands to a fabric interface: the one to which source, destination and class are pinned while it is
up, whatever the interface, else the first port up that the interface's route table names (R333). -/
def State.portFor (s : State) (iface : Nat) (source : BitVec 64) (f : Flit) : Option Nat :=
  let up (p : Nat) : Bool := !(s.port p).down
  let pinned := (s.pins.find? fun e => e.1 == (source, f.dst, f.cls)).map Prod.snd
  (pinned.filter up).orElse fun _ => (tget [] s.routes (512 * iface + f.dst.toNat)).find? up

/-- A flit enters the queue of its port, to which its source, destination and class are pinned; without a port it is not taken. -/
def State.handFlit (s : State) (iface : Nat) (source : BitVec 64) (flow : Option (BitVec 12)) (f : Flit) : State :=
  match s.portFor iface source f with
  | none => s
  | some p =>
    let key := (source, f.dst, f.cls)
    let t := s.setPort p { s.port p with waiting := (s.port p).waiting ++ [{ flow := flow, flit := f, tries := 0 }] }
    { t with pins := (key, p) :: t.pins.filter fun e => e.1 != key }

/-- A flit is delivered to this module, or goes on towards its own; the port by which it came stands for its source. -/
def State.deliverFlit (s : State) (port : Nat) (f : Flit) : State :=
  if f.dst = s.mgmt.mdom then s.setPort port { s.port port with delivered := f :: (s.port port).delivered }
  else s.handFlit (port / 2) (BitVec.ofNat 64 port) none f

/-- A flit arrives. The one that is expected is delivered and acknowledged; a mismatch or a gap is answered with a negative acknowledgement
that names the number expected; a flit of the window before it has been delivered already (R332). -/
def State.receiveFlit (s : State) (port : Nat) (f : Flit) : State :=
  let p := s.port port
  let answer (t : State) (ok : Bool) (n : BitVec 12) : State := t.setPort port { t.port port with answers := (t.port port).answers ++ [(ok, n)] }
  if flitSound f && f.seq == p.rxSeq then
    (answer (s.setPort port { p with rxSeq := p.rxSeq + 1 }) true (p.rxSeq + 1)).deliverFlit port f
  else if flitSound f && decide ((p.rxSeq - f.seq).toNat ≤ 128) then answer s true p.rxSeq
  else answer s false p.rxSeq

/-- ILUFOSKO_FLIT_RECEIVE: a flit slot of a port passes in each direction: the port sends what its frame gives the slot, and takes the flit
that arrives, if one does. -/
def execIlufoskoFlitReceive (port : Fin 48) (flit : Option Flit) (s : State) : Out :=
  if (s.port port.val).down then .next s
  else
    let t := s.setPort port.val ((s.port port.val).step s.mgmt.time.toNat)
    match flit with
    | none => .next t
    | some f => .next (t.receiveFlit port.val f)

/-- ILUFOSKO_NAK: an acknowledgement arrives. The flits before the one it names have arrived; after a negative one that flit and every later
one are sent again (R332). R332 does not say whether a negative one restarts the 10 µs without acknowledgement: in the model either kind
does (DESIGN CHOICE, log entry 61). -/
def execIlufoskoNak (port : Fin 48) (ack : Bool) (seq : BitVec 12) (s : State) : Out :=
  let p := s.port port.val
  if p.down || !(seq == p.txSeq || p.unacked.any fun e => e.flit.seq == seq) then .next s
  else
    let rest := p.unacked.dropWhile fun e => e.flit.seq != seq
    .next (s.setPort port.val
      { p with unacked := rest, again := if ack then min p.again rest.length else rest.length, since := s.mgmt.time.toNat })

/-- A port has sent a flit 16 times, or has waited 10 us, without acknowledgement. -/
def Port.lost (p : Port) (now : Nat) : Bool :=
  p.unacked.any (fun e => decide (16 ≤ e.tries)) || (!p.unacked.isEmpty && decide (p.since + 10 ≤ now))

/-- A port goes down: what it held is given up, and what was pinned to it is pinned anew; that is a domain fault (R332, R333, R423). -/
def State.portDown (s : State) (port : Fin 48) : State :=
  let t := ((s.setPort port.val { s.port port.val with down := true, waiting := [], unacked := [], answers := [], again := 0 }).rollback
    false).excluded (.ilufosko port)
  { t with pins := t.pins.filter fun e => e.2 != port.val }

/-- ILUFOSKO_PORT_DOWN: a port that has lost its link is declared down; or the module controller reserves a slot of the port's frame, from
slot 4 on, or writes an entry of its interface's route table; or an endpoint hands its interface a flit (R331 to R333). -/
def execIlufoskoPortDown (port : Fin 48) (c : PortChange) (s : State) : Out :=
  let p := s.port port.val
  match c with
  | .down => if !p.down && p.lost s.mgmt.time.toNat then .next (s.portDown port) else .next s
  | .reserve slot flow =>
    if slot.val < 4 then .next s else .next (s.setPort port.val { p with reserved := tset none p.reserved slot.val flow })
  | .route dst ports =>
    .next { s with routes := tset [] s.routes (512 * (port.val / 2) + dst.toNat) (ports.map Fin.val) }
  | .send source flow f => .next (s.handFlit (port.val / 2) source flow f)

end Sys2Proof.Machine
end

