-- ==== Sys2Proof/Machine/Mgmt.lean ====
section
/-! DEFINITION. The management window (R333 to R337), the creation of jobs (R280 to R283, R286, R419), and boot, measurement, lifecycle,
debug and power (R338 to R348). -/

namespace Sys2Proof.Machine

/-! ### Reaching the window (R337, R348) -/

/-- A path reaches the window: both while the module is ON or IDLE, the management bus alone in STANDBY. -/
def Mgmt.reaches (m : Mgmt) (path : Path) : Bool := match m.pwr with
  | .on => true
  | .idle => true
  | .standby => path == .bus
  | .off => false

/-- The module is ON or IDLE. -/
def Mgmt.powered (m : Mgmt) : Bool := m.pwr == .on || m.pwr == .idle

/-- An access of a path: the holder's restarts the second after which the lock frees itself. -/
def State.touch (s : State) (path : Path) : State :=
  if s.mgmt.mlock = some path then { s with mgmt := { s.mgmt with mlockAt := s.mgmt.time } } else s

/-- A path holds the lock. -/
def Mgmt.holds (m : Mgmt) (path : Path) : Bool := m.mlock == some path

/-- A write of a path to MBUF has effect: the other path does not hold the lock. -/
def Mgmt.mayStage (m : Mgmt) (path : Path) : Bool := m.mlock == none || m.mlock == some path

/-! ### MDOM and MLOCK -/

/-- Write MDOM; without effect while a job exists. -/
def State.writeMdom (s : State) (v : Word) : State :=
  if s.jobs.isEmpty && s.mgmt.pwr != .off then { s with mgmt := { s.mgmt with mdom := v.setWidth 9 } } else s

/-- MDOM. -/
def execMdom (v : Word) (s : State) : Out := .next (s.writeMdom v)

/-- Write MLOCK: 1 takes a free lock, 0 frees the writer's own. -/
def State.writeMlock (s : State) (path : Path) (v : Word) : State :=
  if !s.mgmt.reaches path then s
  else
    let t := s.touch path
    if v.setWidth 2 = 1#2 ∧ t.mgmt.mlock = none then { t with mgmt := { t.mgmt with mlock := some path, mlockAt := t.mgmt.time } }
    else if v.setWidth 2 = 0#2 ∧ t.mgmt.mlock = some path then { t with mgmt := { t.mgmt with mlock := none } }
    else t

/-- MLOCK. -/
def execMlock (path : Path) (v : Word) (s : State) : Out := .next (s.writeMlock path v)

/-- MLOCK_TIMEOUT: the lock frees itself 1 s after its holder's last access. -/
def execMlockTimeout (s : State) : Out :=
  if s.mgmt.mlock.isSome && decide (s.mgmt.mlockAt.toNat + 1000000 ≤ s.mgmt.time.toNat) then
    .next { s with mgmt := { s.mgmt with mlock := none } }
  else .next s

/-! ### Images (R338) -/

/-- The SHA-384 digest of an image's header and body. -/
def imageDigest (i : FlashImage) : BitVec 384 := Config.sha384 (i.header ++ i.body)

/-- The SHA-384 hashes of the public keys in an image's header. -/
def imageHashes (i : FlashImage) : BitVec 384 × BitVec 384 :=
  (Config.sha384 (Config.headerRsaKey i.header), Config.sha384 (Config.headerSlhKey i.header))

/-- An image passes steps 3 and 4 of R338; both signatures are always computed. -/
def Mgmt.verifies (m : Mgmt) (i : FlashImage) : Bool :=
  let rsa := Config.rsaValid (Config.headerRsaKey i.header) (imageDigest i) i.rsaSignature
  let slh := Config.slhValid (Config.headerSlhKey i.header) (imageDigest i) i.slhSignature
  imageHashes i == (m.fuseRsa, m.fuseSlh) && decide (m.fuseMinVersion ≤ Config.headerVersion i.header) && rsa && slh

/-! ### Measurement (R340) -/

/-- Mi := SHA-384(Mi ‖ data). -/
def Mgmt.extendBy (m : Mgmt) (i : Nat) (data : List Byte) : Mgmt :=
  { m with meas := tset 0 m.meas i (Config.sha384 (bytesOf 48 (tget 0 m.meas i).toNat ++ data)) }

/-- Mi extended with a digest. -/
def Mgmt.extendDigest (m : Mgmt) (i : Nat) (d : BitVec 384) : Mgmt := m.extendBy i (bytesOf 48 d.toNat)

/-- The code of a lifecycle state in MSTAT, and of a debug level. -/
def Lifecycle.code : Lifecycle → Nat
  | .mfg => 0
  | .deployed => 1
  | .tenant => 2
  | .vendorDebug => 3
  | .rma => 4
  | .retired => 5

def DebugLevel.code : DebugLevel → Nat
  | .off => 0
  | .nonInvasive => 1
  | .invasive => 2

def Power.code : Power → Nat
  | .on => 0
  | .idle => 1
  | .standby => 2
  | .off => 3

/-- The lifecycle state changes, and M3 is extended. -/
def Mgmt.changeLc (m : Mgmt) (lc : Lifecycle) : Mgmt :=
  { m.extendDigest 3 (Config.sha384 (Config.changeRecord 0 m.lc.code lc.code)) with lc := lc }

/-- The debug level is raised, and M3 is extended. -/
def Mgmt.raiseDbg (m : Mgmt) (l : DebugLevel) : Mgmt :=
  { m.extendDigest 3 (Config.sha384 (Config.changeRecord 1 m.dbg.code l.code)) with dbg := l }

/-- The module enters ON: M2 is extended with the digest of the dispatch firmware. -/
def Mgmt.enterOn (m : Mgmt) : Mgmt :=
  if m.pwr = .on then m
  else { (match m.dispatchImg with
    | none => m
    | some i => m.extendDigest 2 (imageDigest i)) with pwr := .on, portClosed := false }

/-! ### Jobs (R280 to R283, R286, R419) -/

/-- A request, or a job creation, ends with a RESULT. -/
def State.result (s : State) (r : Nat) : State := { s with mgmt := { s.mgmt with result := BitVec.ofNat 8 r } }

/-- The queue descriptor in 16 bytes; none when it breaks a limit. A reserved field reads as zero (R6). -/
def Queue.ofBytes (b : Nat) : Option Queue :=
  let base := recDw b 0
  let d := recDw b 8
  if bits d 6 2 ≠ 3 ∧ 4 ≤ bits d 0 4 ∧ base % (64 * 2 ^ bits d 0 4) = 0 then
    some { base := BitVec.ofNat 64 base, prio := BitVec.ofNat 2 (bits d 6 2), logn := BitVec.ofNat 4 (bits d 0 4), doorbell := 0,
           consumed := 0, stopped := false, cmds := [], watch := 0, watchDone := 0, watchStage := 0, watchOf := 0, lingerWatch := 0,
           lingerStage := 0 }
  else none

/-- The queues of a job, from the table at an address of its own. -/
def State.readQueues (s : State) (job qtab nq : Nat) : Option (SMap (Option Queue)) :=
  (span 0 nq).foldl (fun o i => o.bind fun m =>
    (Queue.ofBytes (s.dread job (qtab + 16 * i) 16)).map fun q => tset none m i (some q)) (some [])

/-- Non-zero watchdog limits rise strictly. -/
def risingLimits (a b c : Nat) : Bool :=
  (a == 0 || b == 0 || decide (a < b)) && (b == 0 || c == 0 || decide (b < c)) && (a == 0 || c == 0 || decide (a < c))

/-- A job descriptor: the job's number and the job; none when a field breaks its limits. It is read at an address of the address space
of job number 0, since its own job does not exist yet (DESIGN CHOICE, log entry 3). -/
def State.readJob (s : State) (addr : Nat) : Option (Nat × Job) :=
  let b := s.dread 0 addr 0x58
  let dw (off : Nat) : Nat := recDw b off
  let refill := bits (dw 0) 32 8
  let nq := bits (dw 0) 40 8
  let r := dw 0x28
  let m := dw 0x38
  let w := dw 0x40
  let p := dw 0x48
  let fields := decide (1 ≤ nq ∧ nq ≤ 64 ∧ refill ≤ 100) && decide (bits r 56 8 + bits r 40 8 ≤ 143) &&
    decide (bits r 48 8 + bits r 32 8 ≤ 143) && decide (1 ≤ bits r 24 8 ∧ bits r 24 8 ≤ 144) &&
    decide (1 ≤ bits r 16 8 ∧ bits r 16 8 ≤ 144) && decide (bits r 14 2 ≤ 1) && dw 0x30 % 64 == 0 && decide (4 ≤ bits m 44 4) &&
    risingLimits (bits w 0 20) (bits w 20 20) (bits w 40 20) && bits p 0 32 % 64 == 0 &&
    dw 0x18 % 8 == 0 && dw 0x20 % 8 == 0
  if !fields then none
  else (s.readQueues (bits (dw 0) 48 16) (dw 0x10) nq).map fun qs =>
    (bits (dw 0) 48 16,
     { refill := if refill = 0 then 10 else refill, dtag := BitVec.ofNat 32 (bits (dw 0) 0 32), handler := BitVec.ofNat 64 (dw 0x08),
       phaseCtr := BitVec.ofNat 64 (dw 0x18), jobCtr := BitVec.ofNat 64 (dw 0x20), cx0 := bits r 56 8, cy0 := bits r 48 8,
       cwm1 := bits r 40 8, chm1 := bits r 32 8, kcw := bits r 24 8, kch := bits r 16 8,
       pol := if bits r 14 2 = 0 then .contain else .rollback, fmbox := BitVec.ofNat 64 (dw 0x30), fmlogn := bits m 44 4,
       sealInt := bits m 0 32, wd1 := bits w 0 20, wd2 := bits w 20 20, wd3 := bits w 40 20, rep := bits p 45 1 == 1,
       partner := BitVec.ofNat 9 (bits p 46 9), digLen := bits p 0 32, digAddr := BitVec.ofNat 64 (dw 0x50), queues := qs,
       phases := [], highRead := 0, ended := 0, endPosted := none, endTaken := false, cancelled := false, disagreed := none,
       sealWait := false, matched := false })

/-- A lifecycle state in which jobs run (R345). -/
def Lifecycle.runsJobs : Lifecycle → Bool
  | .mfg => false
  | .deployed => true
  | .tenant => true
  | .vendorDebug => true
  | .rma => false
  | .retired => false

/-- Write JOBNEW: the job of a descriptor exists, with its counter 0, the clusters of its rectangle are as at module reset (R348), and the
module is ON; RESULT 5 when the descriptor breaks a limit or
its number is taken, RESULT 1 where no job may exist. -/
def State.writeJobnew (s : State) (v : Word) : Out :=
  if s.mgmt.pwr = .off then .next s
  else if !s.mgmt.powered || !s.mgmt.lc.runsJobs then .next (s.result 1)
  else match s.readJob v.toNat with
    | none => .next (s.result 5)
    | some (n, j) =>
      if (s.job n).isSome then .next (s.result 5)
      else
        let qtab := recDw (s.dread 0 v.toNat 0x58) 0x10
        let r := (s.readBackD 0 v.toNat 0x58).readBackD n qtab (16 * j.queues.length)
        let u := (r.cores.filter fun e => j.covers e.1).foldl (fun (t : State) e => t.setCore e.1 e.2.gated) r
        let t : State := { u.setJob n (some j) with mgmt := s.mgmt.enterOn }
        .next (t.putWord n j.jobCtr (counterWord .running 0))

/-- JOBNEW. -/
def execJobnew (v : Word) (s : State) : Out := s.writeJobnew v

/-- The job and the queue that a window write names. -/
def winJob (v : Word) : Nat := (v.extractLsb' 32 16).toNat

/-- Write DOORBELL: an increment is posted to a queue's doorbell counter. -/
def State.writeDoorbell (s : State) (v : Word) : State :=
  s.modQueue (winJob v) (v.extractLsb' 16 6).toNat fun q => { q with doorbell := q.doorbell + v.setWidth 16 }

/-- DOORBELL. -/
def execDoorbell (v : Word) (s : State) : Out := .next (s.writeDoorbell v)

/-- Write QRESET: a stopped queue skips what has been posted to it and goes on. -/
def State.writeQreset (s : State) (v : Word) : State :=
  let job := winJob v
  let queue := (v.setWidth 6).toNat
  match s.queue job queue with
  | none => s
  | some q =>
    if q.stopped then
      (s.modQueue job queue fun q => { q with stopped := false, consumed := q.doorbell }).modJob job fun j => j.endRead queue
    else s

/-- QRESET. -/
def execQreset (v : Word) (s : State) : Out := .next (s.writeQreset v)

/-- The commands that a JOBEND waits for: those posted and not read in the queues that are not stopped. -/
def Job.unreadPosts (j : Job) : List (Nat × BitVec 16) :=
  j.queues.filterMap fun e => match e.2 with
    | none => none
    | some q => if q.stopped || q.doorbell == q.consumed then none else some (e.1, q.doorbell)

/-- Write JOBEND: the job ends with its last phase. -/
def State.writeJobend (s : State) (v : Word) : State :=
  s.modJob (winJob v) fun j => if j.endPosted.isSome then j else { j with endPosted := some j.unreadPosts }

/-- JOBEND. -/
def execJobend (v : Word) (s : State) : Out := .next (s.writeJobend v)

/-! ### Requests (R337) -/

/-- A write of a path to MREQ is taken: it reaches the window, holds the lock, and no request is in progress. After both slots have failed
R338 says only that the management bus accepts a new image: a write to MREQ over it has no effect then (DESIGN CHOICE, log entry 61). -/
def State.admits (s : State) (path : Path) : Bool := s.mgmt.reaches path && s.mgmt.fwRunning && !s.mgmt.busy && s.mgmt.holds path

/-- A request completes: RESULT and one more in SEQ. -/
def State.complete (s : State) (r : Nat) : State :=
  { s with mgmt := { s.mgmt with result := BitVec.ofNat 8 r, seq := s.mgmt.seq + 1 } }

/-- A request of a path: the effect of one that is taken. -/
def State.request (s : State) (path : Path) (f : State → State) : Out :=
  if s.admits path then .next (f (s.touch path)) else .next (if s.mgmt.reaches path then s.touch path else s)

/-- n bytes of MBUF from an offset. -/
def Mgmt.buf (m : Mgmt) (off n : Nat) : Nat := m.mbuf.read off n

/-- The bytes of MBUF from an offset. -/
def Mgmt.bufBytes (m : Mgmt) (off n : Nat) : List Byte := bytesOf n (m.buf off n)

/-- Bytes written to MBUF from offset 0. -/
def Mgmt.output (m : Mgmt) (bs : List Byte) : Mgmt :=
  { m with mbuf := (bs.foldl (fun (q : Memory × Nat) b => (q.1.setByte q.2 b, q.2 + 1)) (m.mbuf, 0)).1 }

/-- The current nonce is consumed. -/
def Mgmt.spend (m : Mgmt) : Mgmt := { m with nonce := none }

/-! ### Power (R338, R339, R348) -/

/-- Every die is reset. The core tables and what is known of failed clusters stay the module controller's. -/
def State.resetDies (s : State) : State :=
  let kept (q : Cluster) : Cluster :=
    { Cluster.reset with coreTable := q.coreTable, theta := q.theta, failed := q.failed, fenced := q.fenced, tripped := q.tripped,
                         coolReadings := q.coolReadings }
  { s with ctxs := [], cores := [], dies := [], net := [], applied := [], dispatchClock := [], squads := [], colls := [], saved := [],
           launches := [], graphs := [], gwritten := [], sequencer := { served := 0, clock := [] }, links := [],
           clusters := s.clusters.foldl (fun m e => tset Cluster.reset m e.1 (kept e.2)) []
           seals := { s.seals with requested := false, running := false, committing := false, rearm := false, deferred := false,
                                   provisional := false, runProvisional := false, area := SealArea.empty, nextArea := SealArea.empty,
                                   keptArea := none }
           pages := s.pages.map fun e => (e.1, { e.2 with waiters := [] }) }

/-- The firmware verifies the dispatch firmware, loads every die and enters ON; with an image that fails the module is in STANDBY with
RESULT 2 (R339). -/
def State.startFirmware (s : State) : Option State :=
  match s.mgmt.dispatchImg with
  | none => none
  | some i => if s.mgmt.verifies i then some { s.resetDies with mgmt := s.mgmt.enterOn } else none

/-- The module enters STANDBY (R348). -/
def State.enterStandby (s : State) : State :=
  { s.resetDies with mgmt :=
      { s.mgmt with pwr := .standby, dbg := .off, nonce := none, mlock := none, portClosed := true } }

/-- Power is removed: all but the fuses and the flash is lost. The spec does not say where the dispatch firmware's image is held: the model
keeps it with the flash slots, and no event writes it (DESIGN CHOICE, log entry 4). -/
def State.powerOff (s : State) : State :=
  let m := s.mgmt
  { State.reset with
    cur := s.cur, agenda := s.agenda, fresh := s.fresh, nextId := s.nextId
    mgmt := { Mgmt.reset with
      mid := m.mid, fuseLc := m.fuseLc, lc := m.fuseLc, fuseRsa := m.fuseRsa, fuseSlh := m.fuseSlh, fuseMinVersion := m.fuseMinVersion,
      slotA := m.slotA, slotB := m.slotB, dispatchImg := m.dispatchImg, nonces := m.nonces, attestGone := m.attestGone, pwr := .off,
      fwRunning := false } }

/-- The request POWER with target ON. R348 ties IDLE to the gating of every cluster and ON to the first job creation; that the request
takes an IDLE module without a job to ON, extends M2 and ends with RESULT 0 is the model's choice (DESIGN CHOICE, log entry 34). -/
def State.reqOn (s : State) : State :=
  if s.mgmt.lc = .retired then s.complete 1
  else match s.mgmt.pwr with
    | .on => s.complete 0
    | .idle => ({ s with mgmt := s.mgmt.enterOn } : State).complete 0
    | .standby => (match s.startFirmware with
      | none => s.complete 2
      | some t => t.complete 0)
    | .off => s

/-- POWER_ON. -/
def execPowerOn (path : Path) (s : State) : Out := s.request path State.reqOn

/-- The request POWER with target IDLE: every cluster is gated once no job exists. -/
def State.reqIdle (s : State) : State :=
  if !s.mgmt.powered then s.complete 1
  else if !s.jobs.isEmpty then s.complete 4
  else ({ s with mgmt := { s.mgmt with pwr := .idle } } : State).complete 0

/-- POWER_IDLE. -/
def execPowerIdle (path : Path) (s : State) : Out := s.request path State.reqIdle

/-- The request POWER with target STANDBY. -/
def State.reqStandby (s : State) : State := if s.jobs.isEmpty then s.enterStandby.complete 0 else s.complete 4

/-- POWER_STANDBY. -/
def execPowerStandby (path : Path) (s : State) : Out := s.request path State.reqStandby

/-- POWER_OFF. -/
def execPowerOff (path : Path) (s : State) : Out := s.request path State.powerOff

/-- The image that the ROM starts: slot A's, or slot B's when slot A fails. -/
def Mgmt.bootImage (m : Mgmt) : Option FlashImage :=
  match m.slotA.filter m.verifies with
  | some i => some i
  | none => m.slotB.filter m.verifies

/-- The dump regions that the module controller reserves at boot (R437). -/
def dumpBases : SMap Word := (span 0 36).foldl (fun m d => tset 0 m d (Config.dumpPlace d).2) []

/-- POWER_ON_BOOT: the ROM verifies and starts the firmware, which starts the dispatch firmware. If both slots fail, no die is powered,
RESULT is 2, and the ROM boots from what NEW_IMAGE has written since. -/
def execPowerOnBoot (s : State) : Out :=
  if s.mgmt.pwr ≠ .off ∧ (s.mgmt.pwr ≠ .standby ∨ s.mgmt.fwRunning) then .next s
  else match s.mgmt.bootImage with
    | none => .next { s with mgmt := { s.mgmt with pwr := .standby, result := 2, fwRunning := false, portClosed := true } }
    | some i =>
      let m := s.mgmt
      let m1 := (m.extendDigest 0 (imageDigest i)).extendBy 1
        (Config.fuseRecord m.fuseLc.code m.fuseRsa m.fuseSlh m.fuseMinVersion)
      let t : State := { s with mgmt :=
        { m1 with pwr := .standby, fwRunning := true, fwHeader := i.header, fwVersion := BitVec.ofNat 64 (Config.headerVersion i.header),
                  portClosed := true,
                  dumpBase := dumpBases } }
      if m.fuseLc = .retired then .next t
      else match t.startFirmware with
        | none => .next (t.result 2)
        | some u => .next u

/-- NEW_IMAGE: with both slots refused the management bus writes a new image into one of them. -/
def execNewImage (slot : Bool) (img : FlashImage) (s : State) : Out :=
  if s.mgmt.pwr == .standby && !s.mgmt.fwRunning then
    .next { s with mgmt := if slot then { s.mgmt with slotB := some img } else { s.mgmt with slotA := some img } }
  else .next s

/-! ### Tokens (R346) -/

/-- Whose signatures a token needs. -/
inductive Signer where
  | vendor | tenant
  deriving DecidableEq, Repr

/-- The RESULT of a token's check; 0 when it is good. A token whose bytes 0x00A to 0x00F are not zero fails its binding, RESULT 3, which
R346 does not say (DESIGN CHOICE, log entry 34). -/
def Mgmt.token (m : Mgmt) (signer : Signer) (target : Nat) : Nat :=
  let body := m.bufBytes 0 0x40
  let rsa := m.bufBytes 0x40 384
  let slh := m.bufBytes 0x1C0 16224
  let bound := m.buf 0 8 == m.mid.toNat && m.buf 8 1 == m.lc.code && m.buf 9 1 == target && m.buf 0xA 6 == 0 &&
    m.nonce == some (BitVec.ofNat 384 (m.buf 0x10 48))
  let signed := match signer, m.tenant with
    | .vendor, _ => Config.rsaValid (Config.headerRsaKey m.fwHeader) (Config.sha384 body) rsa &&
        Config.slhValid (Config.headerSlhKey m.fwHeader) (Config.sha384 body) slh
    | .tenant, some key => Config.tenantRsa key body rsa && Config.tenantSlh key body slh
    | .tenant, none => false
  if !bound then 3 else if !signed then 2 else 0

/-- A request that needs a token: its check consumes the nonce; a good token lets it go on. -/
def State.withToken (s : State) (signer : Signer) (target : Nat) (f : State → State) : State :=
  let r := s.mgmt.token signer target
  let t : State := { s with mgmt := s.mgmt.spend }
  if r = 0 then f t else t.complete r

/-! ### Debug (R345, R347) -/

/-- The token that a raise of the debug level needs: not permitted, none, or one of a signer. -/
inductive RaiseRule where
  | never | free | token (k : Signer)
  deriving DecidableEq, Repr

def Lifecycle.raise : Lifecycle → DebugLevel → RaiseRule
  | _, .off => .free
  | .mfg, .nonInvasive => .free
  | .mfg, .invasive => .free
  | .deployed, .nonInvasive => .token .vendor
  | .deployed, .invasive => .never
  | .tenant, .nonInvasive => .token .tenant
  | .tenant, .invasive => .never
  | .vendorDebug, .nonInvasive => .free
  | .vendorDebug, .invasive => .token .vendor
  | .rma, .nonInvasive => .token .vendor
  | .rma, .invasive => .token .vendor
  | .retired, .nonInvasive => .never
  | .retired, .invasive => .never

/-- The debug level is lowered: every context that a debugger halted goes on, on its core or in a saved image. -/
def State.lowerDbg (s : State) (l : DebugLevel) : State :=
  let go (x : Ctx) : Ctx := if x.dbgHalt then x.resume else x
  { s with mgmt := { s.mgmt with dbg := l }, ctxs := s.ctxs.foldl (fun m e => tset Ctx.reset m e.1 (go e.2)) []
           saved := s.saved.map fun e => (e.1, e.2.map fun q => (q.1, q.2.map fun y => (y.1, go y.2))) }

/-- The debug level goes to a level that needs no token, or whose token is good. The level already in force ends with RESULT 0 and takes no
token, in STANDBY too: R345 speaks of raising and lowering alone (DESIGN CHOICE, log entry 34). -/
def State.setDbg (s : State) (l : DebugLevel) : State :=
  if l.code < s.mgmt.dbg.code then (s.lowerDbg l).complete 0
  else if l = s.mgmt.dbg then s.complete 0
  else ({ s with mgmt := s.mgmt.raiseDbg l } : State).complete 0

/-- The request DEBUG. -/
def State.reqDebug (l : DebugLevel) (s : State) : State :=
  if l.code ≤ s.mgmt.dbg.code then s.setDbg l
  else if !s.mgmt.powered then s.complete 1
  else match s.mgmt.lc.raise l with
    | .never => s.complete 1
    | .free => s.setDbg l
    | .token k => s.withToken k l.code fun t => t.setDbg l

/-- DEBUG_OFF. -/
def execDebugOff (path : Path) (s : State) : Out := s.request path (State.reqDebug .off)

/-- DEBUG_NON_INVASIVE. -/
def execDebugNonInvasive (path : Path) (s : State) : Out := s.request path (State.reqDebug .nonInvasive)

/-- DEBUG_INVASIVE. -/
def execDebugInvasive (path : Path) (s : State) : Out := s.request path (State.reqDebug .invasive)

/-! ### Lifecycle (R344, R347) -/

/-- HBM is zeroed, with the page tables, the dump, the undo regions, the seal stores, the save areas and the overflow rings that it holds (R112, R114, R197,
R289, R437). -/
def State.zeroHbm (s : State) : State :=
  { s with gmem := Mem.empty, pages := [], gwritten := [], saved := [], mgmt := { s.mgmt with dump := none }
           dies := s.dies.foldl (fun m e => tset Die.reset m e.1 { e.2 with undo := [], keptUndo := [] }) []
           clusters := s.clusters.foldl (fun m e => tset Cluster.reset m e.1 { e.2 with ring := [] }) []
           seals := { s.seals with area := SealArea.empty, nextArea := SealArea.empty, keptArea := none } }

/-- The tenant keys are wiped. -/
def State.wipe (s : State) : State := { s with mgmt := { s.mgmt with tenant := none } }

/-- The lifecycle moves, without a fuse or with one blown. -/
def State.moveLc (s : State) (lc : Lifecycle) (fuse : Bool) : State :=
  let m := s.mgmt.changeLc lc
  { s with mgmt := { m with fuseLc := if fuse then lc else m.fuseLc } }

/-- A request that changes the lifecycle, where no job may exist. R344 does not order its two refusals: the model tests whether the state
permits the change (RESULT 1) before it looks for jobs (RESULT 4), and both before the token, whose nonce a refusal leaves
(DESIGN CHOICE, log entry 34). -/
def State.ifNoJob (s : State) (f : State → State) : State := if s.jobs.isEmpty then f s else s.complete 4

/-- The request LIFECYCLE with target DEPLOYED. -/
def State.reqDeployed (s : State) : State :=
  match s.mgmt.lc with
  | .mfg => s.ifNoJob fun s => s.withToken .vendor 1 fun t => ((t.moveLc .deployed true).lowerDbg .off).complete 0
  | .tenant => s.ifNoJob fun s => ((s.moveLc .deployed false).wipe.zeroHbm).complete 0
  | .vendorDebug => s.ifNoJob fun s => ((((s.moveLc .deployed false).lowerDbg .off).resetDies).zeroHbm).complete 0
  | .deployed => s.complete 1
  | .rma => s.complete 1
  | .retired => s.complete 1

/-- LIFECYCLE_DEPLOYED. -/
def execLifecycleDeployed (path : Path) (s : State) : Out := s.request path State.reqDeployed

/-- The unlock: the security engine wipes the tenant keys and confirms; without confirmation nothing changes. -/
def State.unlock (s : State) : State :=
  let t : State := { s with fresh := s.fresh + 1 }
  if Config.wipeConfirmed s.fresh then ((t.moveLc .vendorDebug false).wipe.zeroHbm).complete 0 else t.complete 1

/-- The request LIFECYCLE with target VENDOR-DEBUG. -/
def State.reqVendorDebug (s : State) : State :=
  match s.mgmt.lc with
  | .deployed => s.ifNoJob fun s => s.withToken .vendor 3 State.unlock
  | .tenant => s.ifNoJob fun s => s.withToken .vendor 3 State.unlock
  | .mfg => s.complete 1
  | .vendorDebug => s.complete 1
  | .rma => s.complete 1
  | .retired => s.complete 1

/-- LIFECYCLE_VENDOR_DEBUG. -/
def execLifecycleVendorDebug (path : Path) (s : State) : Out := s.request path State.reqVendorDebug

/-- The request LIFECYCLE with target RMA. -/
def State.reqRma (s : State) : State :=
  let go (s : State) : State := s.ifNoJob fun s => s.withToken .vendor 4 fun t => ((t.moveLc .rma true).wipe.zeroHbm).complete 0
  match s.mgmt.lc with
  | .deployed => go s
  | .tenant => go s
  | .vendorDebug => go s
  | .mfg => s.complete 1
  | .rma => s.complete 1
  | .retired => s.complete 1

/-- LIFECYCLE_RMA. -/
def execLifecycleRma (path : Path) (s : State) : Out := s.request path State.reqRma

/-- The request LIFECYCLE with target RETIRED: the attestation keys are destroyed and the module enters STANDBY. -/
def State.reqRetired (s : State) : State :=
  let retire (t : State) : State :=
    let u := t.moveLc .retired true
    (({ u with mgmt := { u.mgmt with attestGone := true } } : State).enterStandby).complete 0
  match s.mgmt.lc with
  | .deployed => s.ifNoJob fun s => s.withToken .vendor 5 retire
  | .rma => s.ifNoJob fun s => s.withToken .vendor 5 retire
  | .mfg => s.complete 1
  | .tenant => s.complete 1
  | .vendorDebug => s.complete 1
  | .retired => s.complete 1

/-- LIFECYCLE_RETIRED. -/
def execLifecycleRetired (path : Path) (s : State) : Out := s.request path State.reqRetired

/-! ### Nonce, attestation, keys, extension (R340 to R343) -/

/-- The request NONCE: a new nonce, in MBUF and current. -/
def State.reqNonce (s : State) : State :=
  let n := Config.nonceValue s.mgmt.nonces
  let m := s.mgmt.output (bytesOf 48 n.toNat)
  ({ s with mgmt := { m with nonce := some n, nonces := m.nonces + 1 } } : State).complete 0

/-- NONCE. -/
def execNonce (path : Path) (s : State) : Out := s.request path State.reqNonce

/-- Exactly n bytes: cut off, or filled up with zeros. -/
def exactly (n : Nat) (bs : List Byte) : List Byte := bs.take n ++ bytesOf (n - bs.length) 0

/-- The signed body of a report, bytes 0x000 to 0x22F. -/
def Mgmt.reportBody (m : Mgmt) (nonce : BitVec 384) : List Byte :=
  bytesOf 8 m.mid.toNat ++ bytesOf 8 (m.lc.code + 256 * m.dbg.code + 65536 * m.pwr.code) ++ bytesOf 8 m.fwVersion.toNat ++
  bytesOf 48 nonce.toNat ++ ((span 0 8).map fun i => bytesOf 48 (tget 0 m.meas i).toNat).flatten ++
  exactly 97 Config.transportKey ++ bytesOf 7 0

/-- The request ATTEST: a signed report in MBUF; it consumes the nonce that it holds. With the attestation keys destroyed it ends with
RESULT 1 and leaves the nonce, of which R342 does not speak (DESIGN CHOICE, log entry 34). -/
def State.reqAttest (s : State) : State :=
  let m := s.mgmt
  if m.attestGone then s.complete 1
  else match m.nonce with
    | none => s.complete 3
    | some n =>
      let body := m.reportBody n
      let report := body ++ exactly 384 (Config.attestRsa body) ++ exactly 16224 (Config.attestSlh body)
      ({ s with mgmt := (m.output report).spend } : State).complete 0

/-- ATTEST. -/
def execAttest (path : Path) (s : State) : Out := s.request path State.reqAttest

/-- A big-endian number of bytes. -/
def bigEndian (bs : List Byte) : Nat := bs.foldl (fun n b => 256 * n + b.toNat) 0

/-- The plaintext of a key package keeps its limits: 1 to 16 keys, zero fields and unused slots zero, an odd exponent of 3 or more. -/
def plainOk (p : Nat) : Bool :=
  let n := p % 2 ^ 32
  let e := bigEndian (bytesOf 4 (p / 256 ^ 0x388))
  decide (1 ≤ n ∧ n ≤ 16) && p / 2 ^ 32 % 2 ^ 32 == 0 && p / 256 ^ (8 + 32 * n) % 256 ^ (512 - 32 * n) == 0 && e % 2 == 1 &&
  decide (3 ≤ e) && p / 256 ^ 0x38C % 2 ^ 32 == 0

/-- HMAC with SHA-384 (RFC 2104): blocks of 128 bytes. -/
def hmac384 (key msg : List Byte) : List Byte :=
  let k := key ++ bytesOf (128 - key.length) 0
  let hash (bs : List Byte) : List Byte := bytesOf 48 (Config.sha384 bs).toNat
  hash ((k.map fun b => b ^^^ 0x5C#8) ++ hash ((k.map fun b => b ^^^ 0x36#8) ++ msg))

/-- HKDF with SHA-384 (RFC 5869) for up to 48 bytes. -/
def hkdf384 (salt ikm info : List Byte) (n : Nat) : List Byte := (hmac384 (hmac384 salt ikm) (info ++ [1#8])).take n

/-- The 16 ASCII bytes "LOMLOS-KEYLOAD01" (R343). -/
def keyloadLabel : List Byte :=
  [0x4C, 0x4F, 0x4D, 0x4C, 0x4F, 0x53, 0x2D, 0x4B, 0x45, 0x59, 0x4C, 0x4F, 0x41, 0x44, 0x30, 0x31]

/-- The little-endian number of bytes. -/
def littleEndian (bs : List Byte) : Nat := bs.foldr (fun b n => b.toNat + 256 * n) 0

/-- The plaintext of the package in MBUF, if its tag verifies: AES-256-GCM under the key that HKDF derives from the shared point, with the
nonce as its salt and the label with MID as its info; bytes 0x000 to 0x0AF are the associated data (R343). -/
def Mgmt.openPackage (m : Mgmt) (nonce : BitVec 384) : Option Nat :=
  let key := hkdf384 (bytesOf 48 nonce.toNat) (Config.sharedX (m.bufBytes 0x38 97)) (keyloadLabel ++ bytesOf 8 m.mid.toNat) 32
  (Config.gcmOpen key (m.bufBytes 0xA0 12) (m.bufBytes 0 0xB0) (m.bufBytes 0xB0 960) (m.bufBytes 0x470 16)).map fun p =>
    littleEndian (p.take 960)

/-- The request KEYLOAD: the checks of R343 in their order, after those of the lifecycle and of jobs. -/
def State.reqKeyload (s : State) : State :=
  let m := s.mgmt
  let t : State := { s with mgmt := m.spend }
  if m.lc ≠ .deployed then t.complete 1
  else if !s.jobs.isEmpty then t.complete 4
  else match m.nonce with
    | none => t.complete 3
    | some n =>
      let pkg := m.bufBytes 0 1152
      if m.buf 0 8 ≠ m.mid.toNat ∨ BitVec.ofNat 384 (m.buf 8 48) ≠ n then t.complete 3
      else if !Config.onCurve (m.bufBytes 0x38 97) then t.complete 5
      else match m.openPackage n with
        | none => t.complete 2
        | some p =>
          if !plainOk p || m.buf 0x99 7 != 0 || m.buf 0xAC 4 != 0 then t.complete 5
          else
            let m1 := ((m.spend).extendDigest 4 (Config.sha384 pkg)).changeLc .tenant
            ({ s with mgmt := { m1 with tenant := some p } } : State).complete 0

/-- KEYLOAD. -/
def execKeyload (path : Path) (s : State) : Out := s.request path State.reqKeyload

/-- The request EXTEND: register 5, 6 or 7 is extended with 48 bytes of MBUF. -/
def State.reqExtend (reg : Nat) (s : State) : State :=
  if 5 ≤ reg ∧ reg ≤ 7 then ({ s with mgmt := s.mgmt.extendBy reg (s.mgmt.bufBytes 0 48) } : State).complete 0 else s.complete 5

/-- EXTEND. -/
def execExtend (path : Path) (reg : Nat) (s : State) : Out := s.request path (State.reqExtend reg)

/-! ### MREQ as a word -/

/-- The request that a word written to MREQ names: bits 31:8 zero, a known OP and an ARG of its range, else RESULT 5; a lifecycle state
that no request reaches is not permitted (RESULT 1). R337 gives RESULT 5 for an unknown OP and for bits 31:8 alone: that an ARG outside
the range of its request is answered so too is the model's choice (DESIGN CHOICE, log entry 61). -/
def State.reqWord (v : Word) (s : State) : State :=
  let arg := (v.extractLsb' 32 32).toNat
  if v.extractLsb' 8 24 ≠ 0 then s.complete 5
  else match (v.extractLsb' 0 8).toNat, arg with
    | 1, 0 => s.reqOn
    | 1, 1 => s.reqIdle
    | 1, 2 => s.reqStandby
    | 1, 3 => s.powerOff
    | 2, 0 => s.reqDebug .off
    | 2, 1 => s.reqDebug .nonInvasive
    | 2, 2 => s.reqDebug .invasive
    | 3, 0 => s.complete 1
    | 3, 1 => s.reqDeployed
    | 3, 2 => s.complete 1
    | 3, 3 => s.reqVendorDebug
    | 3, 4 => s.reqRma
    | 3, 5 => s.reqRetired
    | 4, 0 => s.reqNonce
    | 5, 0 => s.reqAttest
    | 6, 0 => s.reqKeyload
    | 7, r => s.reqExtend r
    | _, _ => s.complete 5

/-- A word names no request that is served. -/
def badRequest (v : Word) : Bool :=
  let arg := (v.extractLsb' 32 32).toNat
  v.extractLsb' 8 24 != 0 || match (v.extractLsb' 0 8).toNat with
    | 1 => decide (3 < arg)
    | 2 => decide (2 < arg)
    | 3 => decide (5 < arg) || arg == 0 || arg == 2
    | 4 => arg != 0
    | 5 => arg != 0
    | 6 => arg != 0
    | 7 => decide (arg < 5 ∨ 7 < arg)
    | _ => true

/-- MREQ_MALFORMED: a request with an unknown OP or non-zero bits. -/
def execMreqMalformed (path : Path) (v : Word) (s : State) : Out :=
  if badRequest v then s.request path (State.reqWord v) else .next s

/-! ### The host's accesses (R334 to R337) -/

/-- The value of MSTAT (R336). -/
def Mgmt.status (m : Mgmt) : Word :=
  BitVec.ofNat 64 (m.lc.code + 2 ^ 8 * m.pwr.code + 2 ^ 10 * m.dbg.code + 2 ^ 15 * m.busy.toNat + 2 ^ 16 * m.result.toNat +
    2 ^ 24 * m.seq.toNat)

/-- The value of MLOCK: its holder. -/
def Mgmt.lockWord (m : Mgmt) : Word := match m.mlock with
  | none => 0
  | some .ilufosko => 1
  | some .bus => 2

/-- What a read of the window gives at an offset: 0 outside the registers that are read, and where it is not an aligned doubleword. -/
def Mgmt.readAt (m : Mgmt) (off : Nat) : Word :=
  if off % 8 ≠ 0 then 0
  else if off = 0 then m.mid
  else if off = 8 then m.status
  else if off = 0x18 then m.mdom.setWidth 64
  else if off = 0x20 then m.lockWord
  else if 0x200 ≤ off ∧ off < 0x380 then
    BitVec.ofNat 64 ((tget 0 m.meas ((off - 0x200) / 48)).toNat / 256 ^ ((off - 0x200) % 48))
  else if 0x1000 ≤ off ∧ off < 0x9000 then BitVec.ofNat 64 (m.mbuf.read (off - 0x1000) 8)
  else 0

/-- The number under which the last answer to a path is held. -/
def pathCode : Path → Nat
  | .ilufosko => 0
  | .bus => 1

/-- A read of the window, served from either path whoever holds the lock. -/
def State.windowRead (s : State) (path : Path) (off : Nat) : State :=
  let t := s.touch path
  { t with mgmt := { t.mgmt with answer := tset 0 t.mgmt.answer (pathCode path) (t.mgmt.readAt off) } }

/-- A write to the window: to MBUF, while the other path does not hold the lock, or to a register; any other write, one that is not an
aligned doubleword among them, has no effect. -/
def State.windowWrite (s : State) (path : Path) (off : Nat) (v : Word) : Out :=
  let t := s.touch path
  if off = 0x10 then t.request path (State.reqWord v)
  else if off = 0x18 then .next (t.writeMdom v)
  else if off = 0x20 then .next (t.writeMlock path v)
  else if off = 0x100 then .next (t.writeDoorbell v)
  else if off = 0x108 then t.writeJobnew v
  else if off = 0x110 then .next (t.writeQreset v)
  else if off = 0x118 then .next (t.writeJobend v)
  else if off % 8 = 0 ∧ 0x1000 ≤ off ∧ off ≤ 0x8FF8 ∧ t.mgmt.mayStage path then
    .next { t with mgmt := { t.mgmt with mbuf := t.mgmt.mbuf.write (off - 0x1000) 8 v.toNat } }
  else .next t

/-- A global write of the host at the home of one page: logged like any other (R112, R334). None while it waits for the page or for a log
or hold queue. -/
def State.hostPart (s : State) (a n v : Nat) : Option State :=
  let p := s.pageAt a
  if !p.resident then none
  else if p.discarded then some s
  else match s.homeWrite a n v none with
    | .yes t => some t
    | .full _ => none

/-- A global write of the host. -/
def State.hostStore (s : State) (job va n v : Nat) : Option State :=
  ((partsOn (jaddr job va) n).foldl (fun (q : Option State × Nat) p =>
    (q.1.bind fun t => t.hostPart p.1 p.2 (q.2 % 256 ^ p.2), q.2 / 256 ^ p.2)) (some s, v)).1

/-- WINDOW_WRITE: an access of the host on a path that reaches the module: a write or a read of the window, or, over Ilufosko, a global
write of a job's rings or data; or the next write of a program to the window that a commit has released, made there as one of the Ilufosko
path, without effect unless it is an aligned doubleword (DESIGN CHOICE, log entry 61). -/
def execWindowWrite (path : Path) (a : HostAccess) (s : State) : Out :=
  if !s.mgmt.reaches path then .next s
  else match a with
    | .write off v => s.windowWrite path off v
    | .read off => .next (s.windowRead path off)
    | .global job va size data =>
      if path == .ilufosko && s.mgmt.powered then orPressed s (s.hostStore job va size data) else .next s
    | .program => match s.toWindow with
      | [] => .next s
      | (off, n, v) :: r =>
        let t : State := { s with toWindow := r }
        if n = 8 ∧ off % 8 = 0 then t.windowWrite .ilufosko off (BitVec.ofNat 64 v) else .next t

/-! ### The debug port (R345) -/

/-- A context or a core is of a cluster that a job's rectangle covers: the others are gated (R348). -/
def State.ungated (s : State) (id : Nat) : Bool := s.jobs.any fun e => match e.2 with
  | none => false
  | some j => j.covers id

/-- A debugger's write of a byte of a job's global memory, at its page's home. -/
def State.pokeGlobal (s : State) (job va v : Nat) : State :=
  match s.homeWrite (jaddr job va) 1 v none with
  | .yes t => t
  | .full t => t

/-- What a debugger reads: a register, S, P, Q or global memory at INVASIVE; the dump at NON-INVASIVE or above. -/
def State.peek (s : State) : DebugTarget → Option VWord
  | .g c r => some (((s.ctx c).readG r).setWidth 512)
  | .v c r => some ((s.ctx c).readV r)
  | .k c r => some (((s.ctx c).readK r).setWidth 512)
  | .h c r => some (((s.ctx c).readH r).setWidth 512)
  | .seg c r => some (BitVec.ofNat 512 (((s.ctx c).readSeg r).dw0.toNat + 2 ^ 64 * ((s.ctx c).readSeg r).dw1.toNat))
  | .pc c => some ((s.ctx c).pc.setWidth 512)
  | .csr c r => some ((s.csr c r).setWidth 512)
  | .sByte core off => some (BitVec.ofNat 512 ((s.core core).s.cells.read (off % sSize) 1))
  | .pByte core off => some (BitVec.ofNat 512 ((s.core core).p.cells.read (off % 2 ^ 16) 1))
  | .qByte core off => some (BitVec.ofNat 512 ((s.core core).q.cells.read (off % 2 ^ 15) 1))
  | .gByte job va => some (BitVec.ofNat 512 (s.homeRead (pageOf (jaddr job va)) (jaddr job va) 1))
  | .dump die off => (s.mgmt.dump.bind fun d => d.dword die.val (8 * off)).map (BitVec.ofNat 512)

/-- What a debugger writes; what a gated cluster would hold is lost. -/
def State.poke (s : State) (v : VWord) : DebugTarget → State
  | .g c r => s.modCtx c fun x => x.writeG r (v.setWidth 64)
  | .v c r => s.modCtx c fun x => x.writeV r v
  | .k c r => s.modCtx c fun x => x.writeK r (v.setWidth 64)
  | .h c r => s.modCtx c fun x => x.writeH r (v.setWidth 16)
  | .seg c r => s.modCtx c fun x => x.writeSeg r (Seg.ofImage (v.setWidth 64) (v.extractLsb' 64 64))
  | .pc c => s.modCtx c fun x => { x with pc := v.setWidth 64, pinned := false, loopBuf := [] }
  | .csr c r => s.modCtx c fun x => x.setCsr r (v.setWidth 64)
  | .sByte core off => if s.ungated core then (s.writeS core (off % sSize) 1 (v.toNat % 256) none).getD (s.requestSeal true) else s
  | .pByte core off => if s.ungated core then s.modCore core fun k => { k with p := k.p.write 128 (off % 2 ^ 16) 1 (v.toNat % 256) } else s
  | .qByte core off => if s.ungated core then s.modCore core fun k => { k with q := k.q.write 128 (off % 2 ^ 15) 1 (v.toNat % 256) } else s
  | .gByte job va => s.pokeGlobal job va (v.toNat % 256)
  | .dump _ _ => s

/-- The debug level at which a target may be read: the dump from NON-INVASIVE on. -/
def DebugTarget.readable (l : DebugLevel) : DebugTarget → Bool
  | .dump _ _ => l != .off
  | .g _ _ | .v _ _ | .k _ _ | .h _ _ | .seg _ _ | .pc _ | .csr _ _ | .sByte _ _ | .pByte _ _ | .qByte _ _ | .gByte _ _ => l == .invasive

/-- DEBUGGER_WRITE: a debugger writes a register, S, P, Q or global memory at INVASIVE, or reads one of them or, from NON-INVASIVE on, a
doubleword of the dump; what it reads stands in the debug port. -/
def execDebuggerWrite (t : DebugTarget) (v : Option VWord) (s : State) : Out :=
  match v with
  | some w => .next (if s.invasive then s.poke w t else s)
  | none =>
    if DebugTarget.readable s.mgmt.dbg t then
      (match s.peek t with
        | none => .next s
        | some w => .next { s with mgmt := { s.mgmt with debugData := w } })
    else .next s

/-! ### In-field tests (R432) -/

/-- INFIELD_TEST: a test kernel that verifies as firmware does has run on a cluster that no job holds, on its cores or in a saved image; its
signature fails or passes the cluster. -/
def execInfieldTest (cluster : ClusterId) (kernel : FlashImage) (signature : Word) (s : State) : Out :=
  let cl := clusterOf cluster
  let held := (s.ctxs.any fun e => e.2.row.v && clusterOf e.1 == cl) ||
    s.saved.any fun e => clusterOf e.1 == cl && e.2.any fun q => q.2.any fun y => y.2.row.v
  if held || (s.cluster cl).tripped || !s.mgmt.verifies kernel then .next s
  else
    let t := s.modCluster cl fun q => { q with testDue := false }
    if signature = Config.testSignature then .next (t.modCluster cl fun q => { q with failed := false, fenced := false })
    else
      .next (t.jobs.foldl (fun u e => match e.2 with
        | none => u
        | some j => if j.covers cl then u.notice e.1 10 0 0 (BitVec.ofNat 64 (256 * xOf cl + yOf cl)) else u) (t.failCluster cl))

end Sys2Proof.Machine
end

