-- ==== Sys2Proof/Machine/Dispatch.lean ====
section
/-! DEFINITION. The meaning of every constructor of Instr: one arm each, one direct call. -/

namespace Sys2Proof.Machine

open Sys2Proof

def exec (i : Instr) (s : State) : Host.Outcome State Fault Refusal :=
  match i with
  | .add d a b => Sys2Proof.Machine.execAdd d a b s
  | .sub d a b => Sys2Proof.Machine.execSub d a b s
  | .iand d a b => Sys2Proof.Machine.execIand d a b s
  | .ior d a b => Sys2Proof.Machine.execIor d a b s
  | .ixor d a b => Sys2Proof.Machine.execIxor d a b s
  | .shl d a b => Sys2Proof.Machine.execShl d a b s
  | .shr d a b => Sys2Proof.Machine.execShr d a b s
  | .sra d a b => Sys2Proof.Machine.execSra d a b s
  | .rol d a b => Sys2Proof.Machine.execRol d a b s
  | .min d a b => Sys2Proof.Machine.execMin d a b s
  | .max d a b => Sys2Proof.Machine.execMax d a b s
  | .minn d a b => Sys2Proof.Machine.execMinn d a b s
  | .maxn d a b => Sys2Proof.Machine.execMaxn d a b s
  | .slt d a b => Sys2Proof.Machine.execSlt d a b s
  | .sltn d a b => Sys2Proof.Machine.execSltn d a b s
  | .seq d a b => Sys2Proof.Machine.execSeq d a b s
  | .sne d a b => Sys2Proof.Machine.execSne d a b s
  | .addw d a b => Sys2Proof.Machine.execAddw d a b s
  | .subw d a b => Sys2Proof.Machine.execSubw d a b s
  | .sel d a b c => Sys2Proof.Machine.execSel d a b c s
  | .clz d a => Sys2Proof.Machine.execClz d a s
  | .ctz d a => Sys2Proof.Machine.execCtz d a s
  | .popc d a => Sys2Proof.Machine.execPopc d a s
  | .abs d a => Sys2Proof.Machine.execAbs d a s
  | .sext ty d a => Sys2Proof.Machine.execSext ty d a s
  | .zext ty d a => Sys2Proof.Machine.execZext ty d a s
  | .addi d a imm => Sys2Proof.Machine.execAddi d a imm s
  | .andi d a imm => Sys2Proof.Machine.execAndi d a imm s
  | .ori d a imm => Sys2Proof.Machine.execOri d a imm s
  | .xori d a imm => Sys2Proof.Machine.execXori d a imm s
  | .shli d a sh => Sys2Proof.Machine.execShli d a sh s
  | .shri d a sh => Sys2Proof.Machine.execShri d a sh s
  | .srai d a sh => Sys2Proof.Machine.execSrai d a sh s
  | .roli d a sh => Sys2Proof.Machine.execRoli d a sh s
  | .slti d a imm => Sys2Proof.Machine.execSlti d a imm s
  | .li d imm => Sys2Proof.Machine.execLi d imm s
  | .bfx d a pos w1 => Sys2Proof.Machine.execBfx d a pos w1 s
  | .bfi d a pos w1 => Sys2Proof.Machine.execBfi d a pos w1 s
  | .lil d imm => Sys2Proof.Machine.execLil d imm s
  | .lpc d disp => Sys2Proof.Machine.execLpc d disp s
  | .mul d a b => Sys2Proof.Machine.execMul d a b s
  | .mulh d a b => Sys2Proof.Machine.execMulh d a b s
  | .mulhn d a b => Sys2Proof.Machine.execMulhn d a b s
  | .mulw d a b => Sys2Proof.Machine.execMulw d a b s
  | .mad d a b c => Sys2Proof.Machine.execMad d a b c s
  | .div d a b => Sys2Proof.Machine.execDiv d a b s
  | .divn d a b => Sys2Proof.Machine.execDivn d a b s
  | .rem d a b => Sys2Proof.Machine.execRem d a b s
  | .remn d a b => Sys2Proof.Machine.execRemn d a b s
  | .fadd d a b => Sys2Proof.Machine.execFadd d a b s
  | .fsub d a b => Sys2Proof.Machine.execFsub d a b s
  | .fmul d a b => Sys2Proof.Machine.execFmul d a b s
  | .ffma d a b c => Sys2Proof.Machine.execFfma d a b c s
  | .fmin d a b => Sys2Proof.Machine.execFmin d a b s
  | .fmax d a b => Sys2Proof.Machine.execFmax d a b s
  | .feq d a b => Sys2Proof.Machine.execFeq d a b s
  | .flt d a b => Sys2Proof.Machine.execFlt d a b s
  | .fle d a b => Sys2Proof.Machine.execFle d a b s
  | .fcvti ty d a => Sys2Proof.Machine.execFcvti ty d a s
  | .fcvtf ty d a => Sys2Proof.Machine.execFcvtf ty d a s
  | .fclass d a => Sys2Proof.Machine.execFclass d a s
  | .fdiv d a b => Sys2Proof.Machine.execFdiv d a b s
  | .fsqrt d a => Sys2Proof.Machine.execFsqrt d a s
  | .br disp => Sys2Proof.Machine.execBr disp s
  | .brl d disp => Sys2Proof.Machine.execBrl d disp s
  | .beq a b disp => Sys2Proof.Machine.execBeq a b disp s
  | .bne a b disp => Sys2Proof.Machine.execBne a b disp s
  | .blt a b disp => Sys2Proof.Machine.execBlt a b disp s
  | .bge a b disp => Sys2Proof.Machine.execBge a b disp s
  | .bltn a b disp => Sys2Proof.Machine.execBltn a b disp s
  | .bgen a b disp => Sys2Proof.Machine.execBgen a b disp s
  | .jr a => Sys2Proof.Machine.execJr a s
  | .jrl d a => Sys2Proof.Machine.execJrl d a s
  | .loop a disp => Sys2Proof.Machine.execLoop a disp s
  | .loopi cnt disp => Sys2Proof.Machine.execLoopi cnt disp s
  | .nop => Sys2Proof.Machine.execNop s
  | .yield => Sys2Proof.Machine.execYield s
  | .tend => Sys2Proof.Machine.execTend s
  | .ldb d m off => Sys2Proof.Machine.execLdb d m off s
  | .ldbn d m off => Sys2Proof.Machine.execLdbn d m off s
  | .ldh d m off => Sys2Proof.Machine.execLdh d m off s
  | .ldhn d m off => Sys2Proof.Machine.execLdhn d m off s
  | .ldw d m off => Sys2Proof.Machine.execLdw d m off s
  | .ldwn d m off => Sys2Proof.Machine.execLdwn d m off s
  | .ldd d m off => Sys2Proof.Machine.execLdd d m off s
  | .ldg d m off => Sys2Proof.Machine.execLdg d m off s
  | .ldv d m off => Sys2Proof.Machine.execLdv d m off s
  | .ldbF96m d m off => Sys2Proof.Machine.execLdbF96m d m off s
  | .ldbnF96m d m off => Sys2Proof.Machine.execLdbnF96m d m off s
  | .ldhF96m d m off => Sys2Proof.Machine.execLdhF96m d m off s
  | .ldhnF96m d m off => Sys2Proof.Machine.execLdhnF96m d m off s
  | .ldwF96m d m off => Sys2Proof.Machine.execLdwF96m d m off s
  | .ldwnF96m d m off => Sys2Proof.Machine.execLdwnF96m d m off s
  | .lddF96m d m off => Sys2Proof.Machine.execLddF96m d m off s
  | .ldgF96m d m off => Sys2Proof.Machine.execLdgF96m d m off s
  | .ldvF96m d m off => Sys2Proof.Machine.execLdvF96m d m off s
  | .stb d m off => Sys2Proof.Machine.execStb d m off s
  | .sth d m off => Sys2Proof.Machine.execSth d m off s
  | .stw d m off => Sys2Proof.Machine.execStw d m off s
  | .std d m off => Sys2Proof.Machine.execStd d m off s
  | .stg d m off => Sys2Proof.Machine.execStg d m off s
  | .stv d m off => Sys2Proof.Machine.execStv d m off s
  | .stbF96m d m off => Sys2Proof.Machine.execStbF96m d m off s
  | .sthF96m d m off => Sys2Proof.Machine.execSthF96m d m off s
  | .stwF96m d m off => Sys2Proof.Machine.execStwF96m d m off s
  | .stdF96m d m off => Sys2Proof.Machine.execStdF96m d m off s
  | .stgF96m d m off => Sys2Proof.Machine.execStgF96m d m off s
  | .stvF96m d m off => Sys2Proof.Machine.execStvF96m d m off s
  | .lr d m off => Sys2Proof.Machine.execLr d m off s
  | .sc d b m off => Sys2Proof.Machine.execSc d b m off s
  | .amoadd d b dd m off => Sys2Proof.Machine.execAmoadd d b dd m off s
  | .amoand d b dd m off => Sys2Proof.Machine.execAmoand d b dd m off s
  | .amoor d b dd m off => Sys2Proof.Machine.execAmoor d b dd m off s
  | .amoxor d b dd m off => Sys2Proof.Machine.execAmoxor d b dd m off s
  | .amomin d b dd m off => Sys2Proof.Machine.execAmomin d b dd m off s
  | .amomax d b dd m off => Sys2Proof.Machine.execAmomax d b dd m off s
  | .amominn d b dd m off => Sys2Proof.Machine.execAmominn d b dd m off s
  | .amomaxn d b dd m off => Sys2Proof.Machine.execAmomaxn d b dd m off s
  | .amoswp d b dd m off => Sys2Proof.Machine.execAmoswp d b dd m off s
  | .amocas d b dd m off => Sys2Proof.Machine.execAmocas d b dd m off s
  | .amofadd d b dd m off => Sys2Proof.Machine.execAmofadd d b dd m off s
  | .lrF96m d m off => Sys2Proof.Machine.execLrF96m d m off s
  | .scF96m d b m off => Sys2Proof.Machine.execScF96m d b m off s
  | .amoaddF96m d b dd m off => Sys2Proof.Machine.execAmoaddF96m d b dd m off s
  | .amoandF96m d b dd m off => Sys2Proof.Machine.execAmoandF96m d b dd m off s
  | .amoorF96m d b dd m off => Sys2Proof.Machine.execAmoorF96m d b dd m off s
  | .amoxorF96m d b dd m off => Sys2Proof.Machine.execAmoxorF96m d b dd m off s
  | .amominF96m d b dd m off => Sys2Proof.Machine.execAmominF96m d b dd m off s
  | .amomaxF96m d b dd m off => Sys2Proof.Machine.execAmomaxF96m d b dd m off s
  | .amominnF96m d b dd m off => Sys2Proof.Machine.execAmominnF96m d b dd m off s
  | .amomaxnF96m d b dd m off => Sys2Proof.Machine.execAmomaxnF96m d b dd m off s
  | .amoswpF96m d b dd m off => Sys2Proof.Machine.execAmoswpF96m d b dd m off s
  | .amocasF96m d b dd m off => Sys2Proof.Machine.execAmocasF96m d b dd m off s
  | .amofaddF96m d b dd m off => Sys2Proof.Machine.execAmofaddF96m d b dd m off s
  | .rndclose => Sys2Proof.Machine.execRndclose s
  | .fence scope => Sys2Proof.Machine.execFence scope s
  | .waitrs => Sys2Proof.Machine.execWaitrs s
  | .waitc mask => Sys2Proof.Machine.execWaitc mask s
  | .mbinc id v => Sys2Proof.Machine.execMbinc id v s
  | .mbincRemote id v a => Sys2Proof.Machine.execMbincRemote id v a s
  | .mbwait id v => Sys2Proof.Machine.execMbwait id v s
  | .mbrd d id => Sys2Proof.Machine.execMbrd d id s
  | .mbset id v => Sys2Proof.Machine.execMbset id v s
  | .chsend d a => Sys2Proof.Machine.execChsend d a s
  | .chrecv d a => Sys2Proof.Machine.execChrecv d a s
  | .sendn d a => Sys2Proof.Machine.execSendn d a s
  | .recvn d a b => Sys2Proof.Machine.execRecvn d a b s
  | .sqopen gang d a n b => Sys2Proof.Machine.execSqopen gang d a n b s
  | .sqjoin a b => Sys2Proof.Machine.execSqjoin a b s
  | .sqleave a => Sys2Proof.Machine.execSqleave a s
  | .sqclose d a => Sys2Proof.Machine.execSqclose d a s
  | .sqbar a => Sys2Proof.Machine.execSqbar a s
  | .sqarrive d a => Sys2Proof.Machine.execSqarrive d a s
  | .sqwait a => Sys2Proof.Machine.execSqwait a s
  | .sqvote op d a b => Sys2Proof.Machine.execSqvote op d a b s
  | .sqred op ty d a b => Sys2Proof.Machine.execSqred op ty d a b s
  | .sqscan op ty d a b => Sys2Proof.Machine.execSqscan op ty d a b s
  | .sqinfo self d a => Sys2Proof.Machine.execSqinfo self d a s
  | .sealpt => Sys2Proof.Machine.execSealpt s
  | .seal => Sys2Proof.Machine.execSeal s
  | .splitrd d => Sys2Proof.Machine.execSplitrd d s
  | .vadd ty d a b m => Sys2Proof.Machine.execVadd ty d a b m s
  | .vsub ty d a b m => Sys2Proof.Machine.execVsub ty d a b m s
  | .vmul ty d a b m => Sys2Proof.Machine.execVmul ty d a b m s
  | .vfma ty d a b c m => Sys2Proof.Machine.execVfma ty d a b c m s
  | .vmin ty d a b m => Sys2Proof.Machine.execVmin ty d a b m s
  | .vmax ty d a b m => Sys2Proof.Machine.execVmax ty d a b m s
  | .vabs ty d a m => Sys2Proof.Machine.execVabs ty d a m s
  | .vneg ty d a m => Sys2Proof.Machine.execVneg ty d a m s
  | .vand ty d a b m => Sys2Proof.Machine.execVand ty d a b m s
  | .vor ty d a b m => Sys2Proof.Machine.execVor ty d a b m s
  | .vxor ty d a b m => Sys2Proof.Machine.execVxor ty d a b m s
  | .vshl ty d a b m => Sys2Proof.Machine.execVshl ty d a b m s
  | .vshr ty d a b m => Sys2Proof.Machine.execVshr ty d a b m s
  | .vsra ty d a b m => Sys2Proof.Machine.execVsra ty d a b m s
  | .vcmp cond ty d a b m => Sys2Proof.Machine.execVcmp cond ty d a b m s
  | .vsel ty d a b c => Sys2Proof.Machine.execVsel ty d a b c s
  | .vbcast ty d a m => Sys2Proof.Machine.execVbcast ty d a m s
  | .vext ty d a b => Sys2Proof.Machine.execVext ty d a b s
  | .vins ty d a b => Sys2Proof.Machine.execVins ty d a b s
  | .vshuf ty d a b m => Sys2Proof.Machine.execVshuf ty d a b m s
  | .vred op ty d a m => Sys2Proof.Machine.execVred op ty d a m s
  | .vscan op ty d a m => Sys2Proof.Machine.execVscan op ty d a m s
  | .vcmprs ty d a m => Sys2Proof.Machine.execVcmprs ty d a m s
  | .vrcp ty d a m => Sys2Proof.Machine.execVrcp ty d a m s
  | .vrsq ty d a m => Sys2Proof.Machine.execVrsq ty d a m s
  | .vex2 ty d a m => Sys2Proof.Machine.execVex2 ty d a m s
  | .vlg2 ty d a m => Sys2Proof.Machine.execVlg2 ty d a m s
  | .vldx d b m off => Sys2Proof.Machine.execVldx d b m off s
  | .vstx d b m off => Sys2Proof.Machine.execVstx d b m off s
  | .kand d a b => Sys2Proof.Machine.execKand d a b s
  | .kor d a b => Sys2Proof.Machine.execKor d a b s
  | .kxor d a b => Sys2Proof.Machine.execKxor d a b s
  | .knot d a => Sys2Proof.Machine.execKnot d a s
  | .kmov f => Sys2Proof.Machine.execKmov f s
  | .kpop d a => Sys2Proof.Machine.execKpop d a s
  | .kset d a => Sys2Proof.Machine.execKset d a s
  | .vcvt ty ty2 d a m => Sys2Proof.Machine.execVcvt ty ty2 d a m s
  | .vlog ty d a b m => Sys2Proof.Machine.execVlog ty d a b m s
  | .vexp ty d a b m => Sys2Proof.Machine.execVexp ty d a b m s
  | .vemap op td ta tb w => Sys2Proof.Machine.execVemap op td ta tb w s
  | .vered op td ta w => Sys2Proof.Machine.execVered op td ta w s
  | .vescan op td ta w => Sys2Proof.Machine.execVescan op td ta w s
  | .vecvt td ta w => Sys2Proof.Machine.execVecvt td ta w s
  | .tdef t a imm => Sys2Proof.Machine.execTdef t a imm s
  | .trd d t q => Sys2Proof.Machine.execTrd d t q s
  | .tset field t a => Sys2Proof.Machine.execTset field t a s
  | .pclaim d a id n1 => Sys2Proof.Machine.execPclaim d a id n1 s
  | .prel a id n1 => Sys2Proof.Machine.execPrel a id n1 s
  | .qclaim d a id n1 => Sys2Proof.Machine.execQclaim d a id n1 s
  | .qrel a id n1 => Sys2Proof.Machine.execQrel a id n1 s
  | .mma shape z td ta tb w => Sys2Proof.Machine.execMma shape z td ta tb w s
  | .mmag shape z td ta tb a w => Sys2Proof.Machine.execMmag shape z td ta tb a w s
  | .qzero td w => Sys2Proof.Machine.execQzero td w s
  | .pload t td ta w => Sys2Proof.Machine.execPload t td ta w s
  | .qld td ta w => Sys2Proof.Machine.execQld td ta w s
  | .qst td ta w => Sys2Proof.Machine.execQst td ta w s
  | .qstl td ta w => Sys2Proof.Machine.execQstl td ta w s
  | .qcvt op td ta w => Sys2Proof.Machine.execQcvt op td ta w s
  | .cpy td ta w => Sys2Proof.Machine.execCpy td ta w s
  | .cpyx pull rs td ta a w => Sys2Proof.Machine.execCpyx pull rs td ta a w s
  | .bclose scope d => Sys2Proof.Machine.execBclose scope d s
  | .bwaitRel n => Sys2Proof.Machine.execBwaitRel n s
  | .bwaitLand n => Sys2Proof.Machine.execBwaitLand n s
  | .cstage d n => Sys2Proof.Machine.execCstage d n s
  | .ewait mask => Sys2Proof.Machine.execEwait mask s
  | .creduce op h root td ta w => Sys2Proof.Machine.execCreduce op h root td ta w s
  | .cbcast h root td ta w => Sys2Proof.Machine.execCbcast h root td ta w s
  | .callred op h td ta w => Sys2Proof.Machine.execCallred op h td ta w s
  | .cgather h td ta w => Sys2Proof.Machine.execCgather h td ta w s
  | .csrrd d csr => Sys2Proof.Machine.execCsrrd d csr s
  | .csrwr d csr a => Sys2Proof.Machine.execCsrwr d csr a s
  | .csrset d csr a => Sys2Proof.Machine.execCsrset d csr a s
  | .csrclr d csr a => Sys2Proof.Machine.execCsrclr d csr a s
  | .trap n => Sys2Proof.Machine.execTrap n s
  | .brk n => Sys2Proof.Machine.execBrk n s
  | .halt => Sys2Proof.Machine.execHalt s
  | .rte => Sys2Proof.Machine.execRte s
  | .segld d a b => Sys2Proof.Machine.execSegld d a b s
  | .segrd d a q => Sys2Proof.Machine.execSegrd d a q s
  | .idrd d => Sys2Proof.Machine.execIdrd d s
  | .ctxsave a => Sys2Proof.Machine.execCtxsave a s
  | .ctxload a => Sys2Proof.Machine.execCtxload a s
  | .lapStart core => Sys2Proof.Machine.execLapStart core s
  | .sidingOutputReentry core siding => Sys2Proof.Machine.execSidingOutputReentry core siding s
  | .tapeResultInjection ctx => Sys2Proof.Machine.execTapeResultInjection ctx s
  | .instructionRetire ctx => Sys2Proof.Machine.execInstructionRetire ctx s
  | .tagFree ctx => Sys2Proof.Machine.execTagFree ctx s
  | .fetchBlockArrival ctx block => Sys2Proof.Machine.execFetchBlockArrival ctx block s
  | .contextRejoin ctx => Sys2Proof.Machine.execContextRejoin ctx s
  | .preciseTrapTaken ctx => Sys2Proof.Machine.execPreciseTrapTaken ctx s
  | .impreciseTrapTaken ctx => Sys2Proof.Machine.execImpreciseTrapTaken ctx s
  | .discardedWrite ctx out addr => Sys2Proof.Machine.execDiscardedWrite ctx out addr s
  | .timingReplay core stage => Sys2Proof.Machine.execTimingReplay core stage s
  | .detectorRateReport core => Sys2Proof.Machine.execDetectorRateReport core s
  | .priorityPreemption core => Sys2Proof.Machine.execPriorityPreemption core s
  | .coreRestore core => Sys2Proof.Machine.execCoreRestore core s
  | .quotaPreemption ctx => Sys2Proof.Machine.execQuotaPreemption ctx s
  | .quotaRefill job => Sys2Proof.Machine.execQuotaRefill job s
  | .debuggerHalt ctx => Sys2Proof.Machine.execDebuggerHalt ctx s
  | .debuggerResume ctx => Sys2Proof.Machine.execDebuggerResume ctx s
  | .bpaddrWrite core n v => Sys2Proof.Machine.execBpaddrWrite core n v s
  | .bpctlWrite core n v => Sys2Proof.Machine.execBpctlWrite core n v s
  | .coreRemap cluster c phys => Sys2Proof.Machine.execCoreRemap cluster c phys s
  | .coreRetirement core => Sys2Proof.Machine.execCoreRetirement core s
  | .remoteWriteArrival msg => Sys2Proof.Machine.execRemoteWriteArrival msg s
  | .postedStoreAck msg => Sys2Proof.Machine.execPostedStoreAck msg s
  | .remoteRequestArrival msg => Sys2Proof.Machine.execRemoteRequestArrival msg s
  | .remoteReplyArrival msg => Sys2Proof.Machine.execRemoteReplyArrival msg s
  | .homeAccess msg => Sys2Proof.Machine.execHomeAccess msg s
  | .fullEmptyServe core granule => Sys2Proof.Machine.execFullEmptyServe core granule s
  | .retryNotice msg => Sys2Proof.Machine.execRetryNotice msg s
  | .granuleArrival msg => Sys2Proof.Machine.execGranuleArrival msg s
  | .deliveryAck msg => Sys2Proof.Machine.execDeliveryAck msg s
  | .granuleReturn msg => Sys2Proof.Machine.execGranuleReturn msg s
  | .refillRefused msg => Sys2Proof.Machine.execRefillRefused msg s
  | .refillRequest msg => Sys2Proof.Machine.execRefillRequest msg s
  | .channelRefill core record => Sys2Proof.Machine.execChannelRefill core record s
  | .namedMessageArrival msg => Sys2Proof.Machine.execNamedMessageArrival msg s
  | .deterministicUpdateArrival msg => Sys2Proof.Machine.execDeterministicUpdateArrival msg s
  | .roundCloseVote msg => Sys2Proof.Machine.execRoundCloseVote msg s
  | .roundClose launch => Sys2Proof.Machine.execRoundClose launch s
  | .roundApply launch port => Sys2Proof.Machine.execRoundApply launch port s
  | .roundComplete launch => Sys2Proof.Machine.execRoundComplete launch s
  | .fenceStampRequest msg => Sys2Proof.Machine.execFenceStampRequest msg s
  | .fenceStampReturn msg => Sys2Proof.Machine.execFenceStampReturn msg s
  | .squadAnswer msg => Sys2Proof.Machine.execSquadAnswer msg s
  | .squadMessageArrival msg => Sys2Proof.Machine.execSquadMessageArrival msg s
  | .generationComplete handle => Sys2Proof.Machine.execGenerationComplete handle s
  | .squadDeparture ctx handle => Sys2Proof.Machine.execSquadDeparture ctx handle s
  | .engineCommandStart core e => Sys2Proof.Machine.execEngineCommandStart core e s
  | .reservationGrant cluster => Sys2Proof.Machine.execReservationGrant cluster s
  | .engineCommandComplete core e => Sys2Proof.Machine.execEngineCommandComplete core e s
  | .scheduleEntryFire core => Sys2Proof.Machine.execScheduleEntryFire core s
  | .pageWait ctx => Sys2Proof.Machine.execPageWait ctx s
  | .pageWake page discard => Sys2Proof.Machine.execPageWake page discard s
  | .homeMove page port => Sys2Proof.Machine.execHomeMove page port s
  | .scrub t line => Sys2Proof.Machine.execScrub t line s
  | .waitLimit ctx => Sys2Proof.Machine.execWaitLimit ctx s
  | .sealInterval job => Sys2Proof.Machine.execSealInterval job s
  | .sealPrepare die => Sys2Proof.Machine.execSealPrepare die s
  | .dieReady die => Sys2Proof.Machine.execDieReady die s
  | .sealReady => Sys2Proof.Machine.execSealReady s
  | .sealCommit die => Sys2Proof.Machine.execSealCommit die s
  | .sealAbort => Sys2Proof.Machine.execSealAbort s
  | .resealTimer => Sys2Proof.Machine.execResealTimer s
  | .rollback => Sys2Proof.Machine.execRollback s
  | .containment job cluster => Sys2Proof.Machine.execContainment job cluster s
  | .domainFault f => Sys2Proof.Machine.execDomainFault f s
  | .coreFault core => Sys2Proof.Machine.execCoreFault core s
  | .watchdogStage1 job queue => Sys2Proof.Machine.execWatchdogStage1 job queue s
  | .watchdogStage2 job queue => Sys2Proof.Machine.execWatchdogStage2 job queue s
  | .watchdogStage3 job queue => Sys2Proof.Machine.execWatchdogStage3 job queue s
  | .replicaDigest job phase partner => Sys2Proof.Machine.execReplicaDigest job phase partner s
  | .provisionalSeal => Sys2Proof.Machine.execProvisionalSeal s
  | .infieldTest cluster kernel signature => Sys2Proof.Machine.execInfieldTest cluster kernel signature s
  | .thermalReading cluster quarters => Sys2Proof.Machine.execThermalReading cluster quarters s
  | .throttleStep cluster => Sys2Proof.Machine.execThrottleStep cluster s
  | .currentSample die percent atUs => Sys2Proof.Machine.execCurrentSample die percent atUs s
  | .fatalError f die => Sys2Proof.Machine.execFatalError f die s
  | .frequencyChange cluster c => Sys2Proof.Machine.execFrequencyChange cluster c s
  | .routerTableSwap cluster c => Sys2Proof.Machine.execRouterTableSwap cluster c s
  | .meshFlitRetry link flit crcOk => Sys2Proof.Machine.execMeshFlitRetry link flit crcOk s
  | .ilufoskoFlitReceive port flit => Sys2Proof.Machine.execIlufoskoFlitReceive port flit s
  | .ilufoskoNak port ack seq => Sys2Proof.Machine.execIlufoskoNak port ack seq s
  | .ilufoskoPortDown port c => Sys2Proof.Machine.execIlufoskoPortDown port c s
  | .commandRead job queue => Sys2Proof.Machine.execCommandRead job queue s
  | .launch job queue => Sys2Proof.Machine.execLaunch job queue s
  | .graph job queue => Sys2Proof.Machine.execGraph job queue s
  | .waitval job queue => Sys2Proof.Machine.execWaitval job queue s
  | .waitvalSatisfied job queue => Sys2Proof.Machine.execWaitvalSatisfied job queue s
  | .writeval job queue => Sys2Proof.Machine.execWriteval job queue s
  | .cancelLaunch job queue => Sys2Proof.Machine.execCancelLaunch job queue s
  | .cancelGraph job queue => Sys2Proof.Machine.execCancelGraph job queue s
  | .cancelPhase job queue => Sys2Proof.Machine.execCancelPhase job queue s
  | .cancelJob job queue => Sys2Proof.Machine.execCancelJob job queue s
  | .sealreq job queue => Sys2Proof.Machine.execSealreq job queue s
  | .commandFence job queue => Sys2Proof.Machine.execCommandFence job queue s
  | .launchStart launch => Sys2Proof.Machine.execLaunchStart launch s
  | .corePreparation launch core => Sys2Proof.Machine.execCorePreparation launch core s
  | .unitStart ctx => Sys2Proof.Machine.execUnitStart ctx s
  | .batonStart job phase => Sys2Proof.Machine.execBatonStart job phase s
  | .batonVisit job phase => Sys2Proof.Machine.execBatonVisit job phase s
  | .batonReturn job phase => Sys2Proof.Machine.execBatonReturn job phase s
  | .phaseEndNotice job phase die => Sys2Proof.Machine.execPhaseEndNotice job phase die s
  | .jobendEffect job => Sys2Proof.Machine.execJobendEffect job s
  | .jobEnd job => Sys2Proof.Machine.execJobEnd job s
  | .mdom v => Sys2Proof.Machine.execMdom v s
  | .mlock path v => Sys2Proof.Machine.execMlock path v s
  | .mlockTimeout => Sys2Proof.Machine.execMlockTimeout s
  | .doorbell v => Sys2Proof.Machine.execDoorbell v s
  | .jobnew v => Sys2Proof.Machine.execJobnew v s
  | .qreset v => Sys2Proof.Machine.execQreset v s
  | .jobend v => Sys2Proof.Machine.execJobend v s
  | .windowWrite path a => Sys2Proof.Machine.execWindowWrite path a s
  | .powerOn path => Sys2Proof.Machine.execPowerOn path s
  | .powerIdle path => Sys2Proof.Machine.execPowerIdle path s
  | .powerStandby path => Sys2Proof.Machine.execPowerStandby path s
  | .powerOff path => Sys2Proof.Machine.execPowerOff path s
  | .debugOff path => Sys2Proof.Machine.execDebugOff path s
  | .debugNonInvasive path => Sys2Proof.Machine.execDebugNonInvasive path s
  | .debugInvasive path => Sys2Proof.Machine.execDebugInvasive path s
  | .lifecycleDeployed path => Sys2Proof.Machine.execLifecycleDeployed path s
  | .lifecycleVendorDebug path => Sys2Proof.Machine.execLifecycleVendorDebug path s
  | .lifecycleRma path => Sys2Proof.Machine.execLifecycleRma path s
  | .lifecycleRetired path => Sys2Proof.Machine.execLifecycleRetired path s
  | .nonce path => Sys2Proof.Machine.execNonce path s
  | .attest path => Sys2Proof.Machine.execAttest path s
  | .keyload path => Sys2Proof.Machine.execKeyload path s
  | .extend path reg => Sys2Proof.Machine.execExtend path reg s
  | .mreqMalformed path v => Sys2Proof.Machine.execMreqMalformed path v s
  | .powerOnBoot => Sys2Proof.Machine.execPowerOnBoot s
  | .pipeCycle core => Sys2Proof.Machine.execPipeCycle core s
  | .batchReleased ctx num => Sys2Proof.Machine.execBatchReleased ctx num s
  | .debuggerStep ctx => Sys2Proof.Machine.execDebuggerStep ctx s
  | .debuggerWrite t v => Sys2Proof.Machine.execDebuggerWrite t v s
  | .newImage slot img => Sys2Proof.Machine.execNewImage slot img s

end Sys2Proof.Machine
end

