-- ==== Sys2Proof/Machine/Step.lean ====
section
/-! DEFINITION. One step of the module: the next turn of the agenda, or the current context's next instruction; and a state whose
next step runs a given instruction. -/

namespace Sys2Proof.Machine

open Sys2Proof

/-- One step: the first turn of the agenda is an event of the module or a context's turn; with no agenda the current context
takes its turn (log entry 1). -/
def step (s : State) : Host.Outcome State Fault Refusal :=
  match s.agenda with
  | [] => s.turn exec
  | .context c :: r => State.turn { s with agenda := r, cur := c } exec
  | .event i :: r => if Instr.isEvent i then exec i { s with agenda := r } else .fault .notAnEvent

/-- The state with an instruction's words at the current context's pc (moved to its block's start), in memory and in the context's fetch
buffer, the context in the rotation with nothing held against it, its code segment executable and long enough. -/
def State.withFetchWord (s : State) (nbits w : Nat) : State :=
  let c := s.cur
  let x := s.ctx c
  let off := blockOf x.pc.toNat
  let g := x.readSeg (s.csegOf c)
  let seg : Seg := { g with limit := BitVec.ofNat 40 (max g.limit.toNat (off + 32)), x := true }
  let y : Ctx := { x.writeSeg (s.csegOf c) seg with
    pc := BitVec.ofNat 64 off, run := .active, pinned := false, loopBuf := [], fetchBuf := [], kick := none, imprecise := [],
    quotaHeld := false, cquota := if x.spent then 0xFFFFFFFF else x.cquota, dbgHalt := false, sealHeld := false, bps := false, row := { x.row with pre := false } }
  let s1 := (s.setCtx c y).modCluster (clusterOf c) fun q => { q with icache := [], tripped := false, failed := false }
  let va := s1.codeVa c off
  let s2 := (s1.modPage (pageOf va) fun p => { p with resident := true }).gWriteRaw va 16 (w % 2 ^ nbits)
  let s3 := (s2.modCore (coreOf c) fun k => { k with bp := [] }).modCtx c fun x =>
    { x with fetchBuf := [(va, BitVec.ofNat 260 (s2.gRead va 32))] }
  { s3 with agenda := [], mgmt := { s.mgmt with pwr := .on } }

end Sys2Proof.Machine
end

