-- ==== Sys2Proof/Safety.lean ====
section
/-! DEFINITION. What counts as a safe state, and the words in which claims speak of a step: what an instruction writes and that it
changes nothing else. -/

namespace Sys2Proof.Safety

open Sys2Proof.Machine

/-! ### Memories in canonical form -/

/-- Every memory of a core is in its canonical form. -/
def coreOk (k : Core) : Prop := k.s.cells.wf = true ∧ k.p.cells.wf = true ∧ k.q.cells.wf = true

/-- Every core of a table, and of a table of saved images, has memories in canonical form. -/
def coresOk (m : SMap Core) : Prop := ∀ e ∈ m, coreOk e.2
def savedOk (m : SMap (List (Core × SMap Ctx))) : Prop := ∀ e ∈ m, ∀ i ∈ e.2, coreOk i.1
def areaOk (a : SealArea) : Prop := coresOk a.cores ∧ savedOk a.saved

/-- No frame of the stacks is given to two pages (R105). -/
def FramesOk (s : State) : Prop := ∀ p q f, (s.page p).frame = some f → (s.page q).frame = some f → p = q

/-- Every byte memory of the module is in its canonical form: global memory, the memories of every core and of every image a seal
or a pre-emption has saved, and the module controller's buffer; and no frame of global memory is given to two pages. -/
def MemoryOk (s : State) : Prop :=
  s.gmem.cells.wf = true ∧ coresOk s.cores ∧ savedOk s.saved ∧ areaOk s.seals.area ∧ areaOk s.seals.nextArea ∧
  (∀ a, s.seals.keptArea = some a → areaOk a) ∧ s.mgmt.mbuf.wf = true ∧ FramesOk s

/-! ### What a step leaves

Each predicate gives the whole next state: `s.setCtx s.cur x` differs from s in the current context only, and x lists the fields
that change. -/

/-- The step wrote g[d] := v, with g0 discarded, went on after `bytes` bytes, and changed nothing else of the module. -/
def WroteG (s t : State) (bytes : Nat) (d : GReg) (v : Word) : Prop :=
  ∃ g, t = s.setCtx s.cur { s.me with g := g, pc := s.me.pc + BitVec.ofNat 64 bytes, run := .active, kick := none } ∧
    ∀ r, Ctx.readG { s.me with g := g } r = if r = d ∧ r ≠ 0 then v else s.me.readG r

/-- The instruction answers a next state in which it wrote g[d] := v and changed nothing else but the pc. -/
def Computes (i : Instr) (s : State) (bytes : Nat) (d : GReg) (v : Word) : Prop :=
  ∃ t, exec i s = .next t ∧ WroteG s t bytes d v

/-- As WroteG, with flags raised in cstat. -/
def WroteGFlags (s t : State) (bytes : Nat) (d : GReg) (v : Word) (f : Flags) : Prop :=
  ∃ g, t = s.setCtx s.cur { s.me with g := g, pc := s.me.pc + BitVec.ofNat 64 bytes, run := .active, kick := none,
                                      cstat := s.me.cstat ||| f } ∧
    ∀ r, Ctx.readG { s.me with g := g } r = if r = d ∧ r ≠ 0 then v else s.me.readG r

/-- The instruction answers a next state in which it wrote g[d] := v, raised flags f and changed nothing else but the pc. -/
def ComputesFlags (i : Instr) (s : State) (bytes : Nat) (d : GReg) (v : Word) (f : Flags) : Prop :=
  ∃ t, exec i s = .next t ∧ WroteGFlags s t bytes d v f

/-- As WroteGFlags, for a vector register. -/
def WroteVFlags (s t : State) (bytes : Nat) (d : VReg) (v : VWord) (f : Flags) : Prop :=
  ∃ r, t = s.setCtx s.cur { s.me with v := r, pc := s.me.pc + BitVec.ofNat 64 bytes, run := .active, kick := none,
                                      cstat := s.me.cstat ||| f } ∧
    ∀ q, Ctx.readV { s.me with v := r } q = if q = d then v else s.me.readV q

/-- The instruction answers a next state in which it wrote v[d], raised flags f and changed nothing else but the pc. -/
def ComputesVFlags (i : Instr) (s : State) (bytes : Nat) (d : VReg) (v : VWord) (f : Flags) : Prop :=
  ∃ t, exec i s = .next t ∧ WroteVFlags s t bytes d v f

/-- As WroteGFlags, for a mask register. -/
def WroteKFlags (s t : State) (bytes : Nat) (d : KReg) (v : Word) (f : Flags) : Prop :=
  ∃ k, t = s.setCtx s.cur { s.me with k := k, pc := s.me.pc + BitVec.ofNat 64 bytes, run := .active, kick := none,
                                      cstat := s.me.cstat ||| f } ∧
    ∀ q, Ctx.readK { s.me with k := k } q = if q = d then v else s.me.readK q

/-- The instruction answers a next state in which it wrote k[d], raised flags f and changed nothing else but the pc. -/
def ComputesKFlags (i : Instr) (s : State) (bytes : Nat) (d : KReg) (v : Word) (f : Flags) : Prop :=
  ∃ t, exec i s = .next t ∧ WroteKFlags s t bytes d v f

/-- The state in which the current context has gone on after `bytes` bytes and nothing else has changed. -/
def passed (s : State) (bytes : Nat) : State :=
  s.setCtx s.cur { s.me with pc := s.me.pc + BitVec.ofNat 64 bytes, run := .active, kick := none }

/-- The state in which the current context has branched to a target: the loop state of a pinned body ends (R64), no register and
nothing else of the module has changed. -/
def branched (s : State) (target : Word) : State :=
  s.setCtx s.cur { s.me with pc := target, run := .active, kick := none, pinned := false, loopBuf := [],
                             loopCount := if s.me.pinned then 0 else s.me.loopCount }

/-- The context waits with its pc at the instruction: no register and nothing else of the module has changed; a wait that goes on
keeps its count of laps. -/
def Waits (s t : State) (w : Wait) : Prop :=
  ∃ laps limit, t = s.setCtx s.cur { s.me with run := .waiting w, waitLaps := laps, waitLimit := limit } ∧
    (s.me.run ≠ .waiting w → laps = 0 ∧ limit = s.me.cwlim) ∧
    (s.me.run = .waiting w → laps = s.me.waitLaps ∧ limit = s.me.waitLimit)

/-- The state differs only in the lists of reservations that bank units and memory ports hold. -/
def OnlyResvs (s t : State) : Prop :=
  ∃ cores clusters, t = { s with cores := cores, clusters := clusters } ∧
    (∀ c, ∃ l, tget Core.reset cores c = { s.core c with resvs := l }) ∧
    (∀ p, ∃ l, tget Cluster.reset clusters p = { s.cluster p with resvs := l })

/-- A precise trap at task level (R353): the trap CSRs hold the cause, the address and the words of the instruction, the
reservation is lost (R194), the context runs at handler level from cvec, the loop is unpinned with its state kept (R352), and no
register, flag, memory or queue changed. -/
def Trapped (s t : State) (cause : BitVec 8) (ceaddr cepc : Word) : Prop :=
  ∃ u words, OnlyResvs s u ∧ (∀ n < 4, tget 0 words n = s.me.ir.getD n 0) ∧
    t = u.setCtx s.cur { s.me with hl := true, pc := s.me.cvec ++ 0#2, run := .active, ctrap := cause, ceaddr := ceaddr,
                                   cepc := cepc.extractLsb' 2 62, cword := words, resv := none, pinned := false,
                                   loopBuf := [], kick := none }

/-- The instruction answers a next state in which the context took a precise trap at task level. -/
def Traps (i : Instr) (s : State) (cause : BitVec 8) (ceaddr cepc : Word) : Prop :=
  ∃ t, exec i s = .next t ∧ Trapped s t cause ceaddr cepc

end Sys2Proof.Safety
end

