-- ==== Sys2Proof/Certificates/Slice0/Obligations.lean ====
section
/-! DEFINITION. The statements for the provers, each with the rules of spec/ that it formalises, and the words they share. -/

open Sys2Proof Sys2Proof.Machine Sys2Proof.Safety

/-- O1. Each ALU.R instruction answers a next state in which g[d] holds the result of its row of the ALU.R table (a shift amount is
g[b][5:0]), g0 as d discards it, the pc is 8 further on, and nothing else of the module has changed: no flag, no other register,
no memory. [08_scalar_and_control_instructions.md, R161] -/
def Obligations.AluRegisterResults : Prop :=
  ∀ (s : State) (d a b c : GReg), let x := s.me.readG a; let y := s.me.readG b; let z := s.me.readG c; let sh := y.toNat % 64
    Computes (.add d a b) s 8 d (x + y) ∧ Computes (.sub d a b) s 8 d (x - y) ∧
    Computes (.iand d a b) s 8 d (x &&& y) ∧ Computes (.ior d a b) s 8 d (x ||| y) ∧
    Computes (.ixor d a b) s 8 d (x ^^^ y) ∧
    Computes (.shl d a b) s 8 d (BitVec.ofNat 64 (x.toNat * 2 ^ sh)) ∧
    Computes (.shr d a b) s 8 d (BitVec.ofNat 64 (x.toNat / 2 ^ sh)) ∧
    Computes (.sra d a b) s 8 d (BitVec.ofInt 64 (x.toInt / 2 ^ sh)) ∧
    Computes (.rol d a b) s 8 d ((x <<< sh) ||| (x >>> (64 - sh))) ∧
    Computes (.min d a b) s 8 d (if y.toInt < x.toInt then y else x) ∧
    Computes (.max d a b) s 8 d (if x.toInt < y.toInt then y else x) ∧
    Computes (.minn d a b) s 8 d (if y.toNat < x.toNat then y else x) ∧
    Computes (.maxn d a b) s 8 d (if x.toNat < y.toNat then y else x) ∧
    Computes (.slt d a b) s 8 d (if x.toInt < y.toInt then 1 else 0) ∧
    Computes (.sltn d a b) s 8 d (if x.toNat < y.toNat then 1 else 0) ∧
    Computes (.seq d a b) s 8 d (if x = y then 1 else 0) ∧ Computes (.sne d a b) s 8 d (if x = y then 0 else 1) ∧
    Computes (.addw d a b) s 8 d (((x + y).setWidth 32).signExtend 64) ∧
    Computes (.subw d a b) s 8 d (((x - y).setWidth 32).signExtend 64) ∧
    Computes (.sel d a b c) s 8 d (if z = 0 then y else x) ∧
    (∃ n : Nat, Computes (.clz d a) s 8 d (BitVec.ofNat 64 n) ∧ n ≤ 64 ∧ (∀ i < n, x.getMsbD i = false) ∧
      (n < 64 → x.getMsbD n = true)) ∧
    (∃ n : Nat, Computes (.ctz d a) s 8 d (BitVec.ofNat 64 n) ∧ n ≤ 64 ∧ (∀ i < n, x.getLsbD i = false) ∧
      (n < 64 → x.getLsbD n = true)) ∧
    Computes (.popc d a) s 8 d (BitVec.ofNat 64 ((List.range 64).countP fun i => x.getLsbD i)) ∧
    Computes (.abs d a) s 8 d (if x.toInt < 0 then 0 - x else x) ∧
    Computes (.sext .i8 d a) s 8 d ((x.setWidth 8).signExtend 64) ∧
    Computes (.sext .i16 d a) s 8 d ((x.setWidth 16).signExtend 64) ∧
    Computes (.sext .i32 d a) s 8 d ((x.setWidth 32).signExtend 64) ∧
    Computes (.zext .n8 d a) s 8 d ((x.setWidth 8).setWidth 64) ∧
    Computes (.zext .n16 d a) s 8 d ((x.setWidth 16).setWidth 64) ∧
    Computes (.zext .n32 d a) s 8 d ((x.setWidth 32).setWidth 64)

/-- O2. Each ALU.I instruction answers a next state in which g[d] holds the result of its row with i the sign-extended 20-bit
immediate (a shift takes its amount from the instruction; BFX extracts and BFI inserts w bits at pos, for every pos + w up to
64), LIL writes its 64-bit immediate, LPC the address addr + 4·D, IDRD the zero-extended identifier of the context; the pc goes
on by the instruction length and nothing else of the module changes. [08_scalar_and_control_instructions.md, R162, R163, R164,
R184] -/
def Obligations.AluImmediateResults : Prop :=
  ∀ (s : State) (d a : GReg) (imm : BitVec 20) (sh pos w1 : BitVec 6) (imm64 : BitVec 64) (disp : BitVec 32),
    let x := s.me.readG a; let i : Word := imm.signExtend 64
    Computes (.addi d a imm) s 8 d (x + i) ∧ Computes (.andi d a imm) s 8 d (x &&& i) ∧
    Computes (.ori d a imm) s 8 d (x ||| i) ∧ Computes (.xori d a imm) s 8 d (x ^^^ i) ∧
    Computes (.shli d a sh) s 8 d (BitVec.ofNat 64 (x.toNat * 2 ^ sh.toNat)) ∧
    Computes (.shri d a sh) s 8 d (BitVec.ofNat 64 (x.toNat / 2 ^ sh.toNat)) ∧
    Computes (.srai d a sh) s 8 d (BitVec.ofInt 64 (x.toInt / 2 ^ sh.toNat)) ∧
    Computes (.roli d a sh) s 8 d ((x <<< sh.toNat) ||| (x >>> (64 - sh.toNat))) ∧
    Computes (.slti d a imm) s 8 d (if x.toInt < imm.toInt then 1 else 0) ∧ Computes (.li d imm) s 8 d i ∧
    (pos.toNat + w1.toNat + 1 ≤ 64 →
      (∃ v, Computes (.bfx d a pos w1) s 8 d v ∧
        ∀ n, v.getLsbD n = (decide (n ≤ w1.toNat) && x.getLsbD (pos.toNat + n))) ∧
      (∃ v, Computes (.bfi d a pos w1) s 8 d v ∧
        ∀ n < 64, v.getLsbD n = if pos.toNat ≤ n ∧ n ≤ pos.toNat + w1.toNat then x.getLsbD (n - pos.toNat)
          else (s.me.readG d).getLsbD n)) ∧
    Computes (.lil d imm64) s 16 d imm64 ∧ Computes (.lpc d disp) s 12 d (s.me.pc + 4 * disp.signExtend 64) ∧
    Computes (.idrd d) s 8 d (BitVec.ofNat 64 (s.cur % 2 ^ 32))

/-- O3. MUL, MULH, MULHN, MULW and MAD answer a next state in which g[d] holds the low half of the product, the high half of the
signed or of the unsigned 128-bit product, the sign-extended low 32 bits of the product of the low halves, or the low half of
the product plus g[c]. With a divisor that is not zero, DIV, DIVN, REM and REMN answer a next state in which g[d] holds the
quotient truncated towards zero (that of the most negative number by −1 wraps to itself) or the remainder with the sign of the
dividend. Nothing else but the pc changes. With a zero divisor at task level each takes the precise trap INT_DIVIDE_ZERO (0x06),
with ceaddr the dividend and cepc its own address, and g[d] keeps its value. [08_scalar_and_control_instructions.md, R165, R166;
20_instruction_fault_catalogue.md, R374] -/
def Obligations.MultiplyAndDivideResults : Prop :=
  ∀ (s : State) (d a b c : GReg), let x := s.me.readG a; let y := s.me.readG b
    Computes (.mul d a b) s 8 d (x * y) ∧
    Computes (.mulh d a b) s 8 d ((x.signExtend 128 * y.signExtend 128).extractLsb' 64 64) ∧
    Computes (.mulhn d a b) s 8 d ((x.setWidth 128 * y.setWidth 128).extractLsb' 64 64) ∧
    Computes (.mulw d a b) s 8 d ((x.setWidth 32 * y.setWidth 32).signExtend 64) ∧
    Computes (.mad d a b c) s 8 d (x * y + s.me.readG c) ∧
    (y ≠ 0 →
      Computes (.div d a b) s 8 d (BitVec.ofInt 64 (x.toInt.tdiv y.toInt)) ∧
      Computes (.rem d a b) s 8 d (BitVec.ofInt 64 (x.toInt.tmod y.toInt)) ∧
      Computes (.divn d a b) s 8 d (x / y) ∧ Computes (.remn d a b) s 8 d (x % y)) ∧
    (y = 0 → s.me.hl = false →
      ∀ i ∈ ([.div d a b, .rem d a b, .divn d a b, .remn d a b] : List Instr), Traps i s 0x06 x s.me.pc)

/-- O4. When none of the flags that the operation raises is enabled, FADD, FSUB, FMUL, FFMA, FDIV, FSQRT, FMIN, FMAX, FEQ, FLT, FLE,
FCVTI and FCVTF answer a next state in which g[d] holds the 32-bit result with bits 63:32 clear (FCVTI: the clamped integer
extended as its type says), cstat has those flags ORed in, the pc is 8 further on, and nothing else changes; FCLASS writes its
mask and raises no flag. The results are those of the model’s exact FP32 operations of Machine/Ieee.lean. [06_number_formats.md,
R134, R135; 08_scalar_and_control_instructions.md, R167, R168, R169, R170; 19_traps_and_the_kill_wave.md, R358] -/
def Obligations.FpArithmeticResults : Prop :=
  ∀ (s : State) (d a b c : GReg), let f (r : GReg) : Nat := (s.me.readG r).toNat % 2 ^ 32
    let gives (i : Instr) (r : Nat × Flags) : Prop :=
      r.2 &&& s.me.enabled = 0 → ComputesFlags i s 8 d (BitVec.ofNat 64 (r.1 % 2 ^ 32)) r.2
    gives (.fadd d a b) (f32.add (f a) (f b)) ∧ gives (.fsub d a b) (f32.sub (f a) (f b)) ∧
    gives (.fmul d a b) (f32.mul (f a) (f b)) ∧ gives (.ffma d a b c) (f32.fma (f a) (f b) (f c)) ∧
    gives (.fdiv d a b) (f32.div (f a) (f b)) ∧ gives (.fsqrt d a) (f32.sqrt (f a)) ∧
    gives (.fmin d a b) (f32.minMax false (f a) (f b)) ∧ gives (.fmax d a b) (f32.minMax true (f a) (f b)) ∧
    (let r := f32.cmpEq (f a) (f b); gives (.feq d a b) (r.1.toNat, r.2)) ∧
    (let r := f32.cmpLt false (f a) (f b); gives (.flt d a b) (r.1.toNat, r.2)) ∧
    (let r := f32.cmpLt true (f a) (f b); gives (.fle d a b) (r.1.toNat, r.2)) ∧
    Computes (.fclass d a) s 8 d (BitVec.ofNat 64 (f32.classOf (f a))) ∧
    (let r := (f32.value (f a)).toInt (-2 ^ 31) (2 ^ 31 - 1)
     r.2 &&& s.me.enabled = 0 → ComputesFlags (.fcvti .i32 d a) s 8 d (BitVec.ofInt 64 r.1) r.2) ∧
    (let r := (f32.value (f a)).toInt (-2 ^ 63) (2 ^ 63 - 1)
     r.2 &&& s.me.enabled = 0 → ComputesFlags (.fcvti .i64 d a) s 8 d (BitVec.ofInt 64 r.1) r.2) ∧
    (let r := (f32.value (f a)).toInt 0 (2 ^ 32 - 1)
     r.2 &&& s.me.enabled = 0 → ComputesFlags (.fcvti .n32 d a) s 8 d (BitVec.ofInt 64 r.1) r.2) ∧
    (let r := (f32.value (f a)).toInt 0 (2 ^ 64 - 1)
     r.2 &&& s.me.enabled = 0 → ComputesFlags (.fcvti .n64 d a) s 8 d (BitVec.ofInt 64 r.1) r.2) ∧
    gives (.fcvtf .i32 d a) (f32.roundInt ((s.me.readG a).setWidth 32).toInt 0) ∧
    gives (.fcvtf .i64 d a) (f32.roundInt (s.me.readG a).toInt 0) ∧
    gives (.fcvtf .n32 d a) (f32.roundInt ((s.me.readG a).toNat % 2 ^ 32 : Nat) 0) ∧
    gives (.fcvtf .n64 d a) (f32.roundInt ((s.me.readG a).toNat : Int) 0)

/-! ### FP32 patterns by their fields (R134) -/

/-- The exponent and fraction fields, the sign, and the kinds of an FP32 pattern. -/
def Claim.fpExp (b : Nat) : Nat := b / 2 ^ 23 % 2 ^ 8
def Claim.fpFrac (b : Nat) : Nat := b % 2 ^ 23
def Claim.fpNeg (b : Nat) : Bool := decide (b / 2 ^ 31 % 2 = 1)
def Claim.fpNan (b : Nat) : Bool := decide (Claim.fpExp b = 255) && decide (Claim.fpFrac b ≠ 0)
def Claim.fpSignalling (b : Nat) : Bool := Claim.fpNan b && decide (Claim.fpFrac b < 2 ^ 22)
def Claim.fpFinite (b : Nat) : Prop := b < 2 ^ 32 ∧ Claim.fpExp b ≠ 255

/-- The value of a pattern that is no NaN, times 2^149; ±Inf stands at ±2^128 · 2^149, beyond every finite value. -/
def Claim.fpKey (b : Nat) : Int :=
  let m : Nat := if Claim.fpExp b = 0 then Claim.fpFrac b else (2 ^ 23 + Claim.fpFrac b) * 2 ^ (Claim.fpExp b - 1)
  if Claim.fpNeg b then -(m : Int) else m

/-- r is the pattern of the exact value x / (2^149 · unit) rounded to nearest, ties to even, and f has the flags NX and OF of
that rounding. -/
def Claim.RoundsTo (x unit : Int) (r : Nat) (f : Flags) : Prop :=
  if (2 ^ 25 - 1) * 2 ^ 252 * unit ≤ |x| then r % 2 ^ 31 = 0x7F800000 ∧ (Claim.fpNeg r = true ↔ x < 0) ∧ f = 0x005#12
  else Claim.fpFinite r ∧ (∀ q, Claim.fpFinite q → |Claim.fpKey r * unit - x| ≤ |Claim.fpKey q * unit - x| ∧
        (|Claim.fpKey r * unit - x| = |Claim.fpKey q * unit - x| → Claim.fpKey q ≠ Claim.fpKey r → r % 2 = 0)) ∧
      (f.getLsbD 0 = true ↔ Claim.fpKey r * unit ≠ x) ∧ f.getLsbD 2 = false

/-- O5. With NV not enabled, or no NaN that sets it: FMIN and FMAX return the operand with the smaller or larger value, −0 below +0,
the other operand for one NaN, 0x7FC0_0000 for two, NV for a signalling NaN; FEQ writes 1 for equal operands (+0 equals −0),
else 0, NV only for a signalling NaN; FLT and FLE write 1 or 0 and for any NaN set NV and write 0; FCLASS writes the 10-bit mask
of the operand’s kind and no flag. Each completes, and changes nothing else but the pc and cstat.
[08_scalar_and_control_instructions.md, R170] -/
def Obligations.FpMinMaxCompareClassify : Prop :=
  ∀ (s : State) (d a b : GReg), let x := (s.me.readG a).toNat % 2 ^ 32; let y := (s.me.readG b).toNat % 2 ^ 32
    let sig : Flags := if Claim.fpSignalling x || Claim.fpSignalling y then 0x010#12 else 0
    let any : Flags := if Claim.fpNan x || Claim.fpNan y then 0x010#12 else 0
    let below : Bool := decide (Claim.fpKey x < Claim.fpKey y) ||
      (decide (Claim.fpKey x = Claim.fpKey y) && Claim.fpNeg x && !Claim.fpNeg y)
    let pick (first : Bool) : Nat := if Claim.fpNan x && Claim.fpNan y then 0x7FC00000 else if Claim.fpNan x then y
      else if Claim.fpNan y then x else if first then x else y
    (sig &&& s.me.enabled = 0 →
      ComputesFlags (.fmin d a b) s 8 d (BitVec.ofNat 64 (pick below)) sig ∧
      ComputesFlags (.fmax d a b) s 8 d (BitVec.ofNat 64 (pick (!below))) sig ∧
      ComputesFlags (.feq d a b) s 8 d
        (if Claim.fpNan x = false ∧ Claim.fpNan y = false ∧ Claim.fpKey x = Claim.fpKey y then 1 else 0) sig) ∧
    (any &&& s.me.enabled = 0 →
      ComputesFlags (.flt d a b) s 8 d
        (if Claim.fpNan x = false ∧ Claim.fpNan y = false ∧ Claim.fpKey x < Claim.fpKey y then 1 else 0) any ∧
      ComputesFlags (.fle d a b) s 8 d
        (if Claim.fpNan x = false ∧ Claim.fpNan y = false ∧ Claim.fpKey x ≤ Claim.fpKey y then 1 else 0) any) ∧
    Computes (.fclass d a) s 8 d
      (let n := Claim.fpNeg x
       if Claim.fpNan x then (if Claim.fpSignalling x then 0x100 else 0x200)
       else if Claim.fpExp x = 255 then (if n then 0x001 else 0x080)
       else if Claim.fpExp x ≠ 0 then (if n then 0x002 else 0x040)
       else if Claim.fpFrac x ≠ 0 then (if n then 0x004 else 0x020)
       else (if n then 0x008 else 0x010))

/-- O6. For finite operands, with no enabled flag raised, FADD, FSUB, FMUL and FFMA complete with a result that is at least as near
to the exact sum, difference, product or fused sum as every finite FP32 number, an even one when two are equally near, or ±Inf
with OF and NX from half a unit above the largest finite number on; NX is raised exactly when the result is not exact.
[06_number_formats.md, R134; 08_scalar_and_control_instructions.md, R168] -/
def Obligations.FpSumsAndProductsRoundToNearest : Prop :=
  ∀ (s : State) (d a b c : GReg), let f (r : GReg) : Nat := (s.me.readG r).toNat % 2 ^ 32
    let x := Claim.fpKey (f a); let y := Claim.fpKey (f b); let z := Claim.fpKey (f c)
    Claim.fpFinite (f a) → Claim.fpFinite (f b) → Claim.fpFinite (f c) → s.me.cfemask = 0 → s.me.nlt = false →
      (∃ r fl, ComputesFlags (.fadd d a b) s 8 d (BitVec.ofNat 64 r) fl ∧ Claim.RoundsTo (x + y) 1 r fl) ∧
      (∃ r fl, ComputesFlags (.fsub d a b) s 8 d (BitVec.ofNat 64 r) fl ∧ Claim.RoundsTo (x - y) 1 r fl) ∧
      (∃ r fl, ComputesFlags (.fmul d a b) s 8 d (BitVec.ofNat 64 r) fl ∧ Claim.RoundsTo (x * y) (2 ^ 149) r fl) ∧
      (∃ r fl, ComputesFlags (.ffma d a b c) s 8 d (BitVec.ofNat 64 r) fl ∧
        Claim.RoundsTo (x * y + z * 2 ^ 149) (2 ^ 149) r fl)

/-- O7. When FADD, FSUB, FMUL, FFMA, FDIV, FSQRT, FMIN, FMAX, FEQ, FLT, FLE, or FCVTI or FCVTF of any of its four integer types, at
task level gives a result with a flag that cfemask enables, the context takes the precise trap FP_EXCEPTION (0x07): ceaddr holds
the flags raised at their cstat positions, cepc the instruction’s address, those flags are in cstat, and g[d] keeps its value.
[08_scalar_and_control_instructions.md, R169, R170; 19_traps_and_the_kill_wave.md, R353, R354, R358] -/
def Obligations.EnabledFlagTakesFpException : Prop :=
  ∀ (s : State) (d a b c : GReg), s.me.hl = false → let f (r : GReg) : Nat := (s.me.readG r).toNat % 2 ^ 32
    let traps (i : Instr) (fl : Flags) : Prop := fl &&& (s.me.cfemask.setWidth 12 ||| if s.me.nlt then 0x3E0#12 else 0) ≠ 0 →
      ∃ t, exec i s = .next t ∧
        Trapped (s.setCtx s.cur { s.me with cstat := s.me.cstat ||| fl }) t 0x07 (fl.setWidth 64) s.me.pc
    traps (.fadd d a b) (f32.add (f a) (f b)).2 ∧ traps (.fsub d a b) (f32.sub (f a) (f b)).2 ∧
    traps (.fmul d a b) (f32.mul (f a) (f b)).2 ∧ traps (.ffma d a b c) (f32.fma (f a) (f b) (f c)).2 ∧
    traps (.fdiv d a b) (f32.div (f a) (f b)).2 ∧ traps (.fsqrt d a) (f32.sqrt (f a)).2 ∧
    traps (.fmin d a b) (f32.minMax false (f a) (f b)).2 ∧ traps (.fmax d a b) (f32.minMax true (f a) (f b)).2 ∧
    traps (.feq d a b) (f32.cmpEq (f a) (f b)).2 ∧ traps (.flt d a b) (f32.cmpLt false (f a) (f b)).2 ∧
    traps (.fle d a b) (f32.cmpLt true (f a) (f b)).2 ∧
    traps (.fcvti .i32 d a) ((f32.value (f a)).toInt (-2 ^ 31) (2 ^ 31 - 1)).2 ∧
    traps (.fcvti .i64 d a) ((f32.value (f a)).toInt (-2 ^ 63) (2 ^ 63 - 1)).2 ∧
    traps (.fcvti .n32 d a) ((f32.value (f a)).toInt 0 (2 ^ 32 - 1)).2 ∧
    traps (.fcvti .n64 d a) ((f32.value (f a)).toInt 0 (2 ^ 64 - 1)).2 ∧
    traps (.fcvtf .i32 d a) (f32.roundInt ((s.me.readG a).setWidth 32).toInt 0).2 ∧
    traps (.fcvtf .i64 d a) (f32.roundInt (s.me.readG a).toInt 0).2 ∧
    traps (.fcvtf .n32 d a) (f32.roundInt ((s.me.readG a).toNat % 2 ^ 32 : Nat) 0).2 ∧
    traps (.fcvtf .n64 d a) (f32.roundInt ((s.me.readG a).toNat : Int) 0).2

/-- The step branched to a target and wrote the link g[d] := link, and changed nothing else. -/
def Claim.Linked (s t : State) (target : Word) (d : GReg) (link : Word) : Prop :=
  ∃ g, t = s.setCtx s.cur { s.me with g := g, pc := target, run := .active, kick := none, pinned := false, loopBuf := [],
                                      loopCount := if s.me.pinned then 0 else s.me.loopCount } ∧
    ∀ r, Ctx.readG { s.me with g := g } r = if r = d ∧ r ≠ 0 then link else s.me.readG r

/-- O8. BR, and BEQ, BNE, BLT, BGE, BLTN and BGEN when their condition on g[a] and g[b] holds, continue at addr + 4·D; when it does
not hold they continue at addr + 12. BRL writes addr + 12 and JRL addr + 8 to g[d] (the target g[a] read first), JR and JRL
continue at g[a], whatever its bits 1:0. A taken branch inside a pinned body ends the loop with the count at 0. Nothing else of
the module changes. [03_counterflow_core.md, R64; 08_scalar_and_control_instructions.md, R171, R172, R173] -/
def Obligations.BranchesAndJumps : Prop :=
  ∀ (s : State) (d a b : GReg) (disp : BitVec 32), let x := s.me.readG a; let y := s.me.readG b
    let target : Word := s.me.pc + 4 * disp.signExtend 64
    let goes (i : Instr) (taken : Prop) : Prop :=
      (taken → exec i s = .next (branched s target)) ∧ (¬taken → exec i s = .next (passed s 12))
    goes (.br disp) True ∧ goes (.beq a b disp) (x = y) ∧ goes (.bne a b disp) (x ≠ y) ∧
    goes (.blt a b disp) (x.toInt < y.toInt) ∧ goes (.bge a b disp) (y.toInt ≤ x.toInt) ∧
    goes (.bltn a b disp) (x.toNat < y.toNat) ∧ goes (.bgen a b disp) (y.toNat ≤ x.toNat) ∧
    exec (.jr a) s = .next (branched s x) ∧
    (∃ t, exec (.brl d disp) s = .next t ∧ Claim.Linked s t target d (s.me.pc + 12)) ∧
    (∃ t, exec (.jrl d a) s = .next t ∧ Claim.Linked s t x d (s.me.pc + 8))

/-- O9. LOOP with count g[a][31:0], and LOOPI with its count from the instruction: a count of 0 branches to the end label addr +
4·D; otherwise, when the body can be pinned, the loop state becomes the count, the body start addr + 12 and the end label, the
body is pinned and issue goes on at the body; while a block of the body has still to come the instruction waits for it; when the
body cannot be pinned (an end label at or below the body start, for one) the instruction takes the precise trap of the refusal
with the remaining count at 0. Nothing else changes. [03_counterflow_core.md, R64; 08_scalar_and_control_instructions.md, R174;
20_instruction_fault_catalogue.md, R373] -/
def Obligations.LoopsSetUpTheirState : Prop :=
  ∀ (s : State) (a : GReg) (cnt : BitVec 25) (disp : BitVec 32), let stop : Word := s.me.pc + 4 * disp.signExtend 64
    let sets (i : Instr) (n : BitVec 32) : Prop :=
      (n = 0 → exec i s = .next (branched s stop)) ∧
      (n ≠ 0 → s.pinning s.cur s.me.pc.toNat (s.me.pc + 12).toNat stop.toNat = .fits →
        ∃ buf, exec i s = .next (s.setCtx s.cur
          { s.me with pc := s.me.pc + 12, run := .active, kick := none, loopCount := n, loopStart := s.me.pc + 12,
                      loopEnd := stop, pinned := true, loopBuf := buf })) ∧
      (n ≠ 0 → s.pinning s.cur s.me.pc.toNat (s.me.pc + 12).toNat stop.toNat = .missing →
        ∃ t, exec i s = .next t ∧ Waits s t .fetch) ∧
      (∀ r, n ≠ 0 → s.me.hl = false →
        s.pinning s.cur s.me.pc.toNat (s.me.pc + 12).toNat stop.toNat = .refused r →
        ∃ t, exec i s = .next t ∧ Trapped (s.setCtx s.cur { s.me with loopCount := 0 }) t r.1 r.2 s.me.pc)
    sets (.loop a disp) ((s.me.readG a).setWidth 32) ∧ sets (.loopi cnt disp) (cnt.setWidth 32) ∧
    (stop.toNat ≤ (s.me.pc + 12).toNat →
      ∃ r, s.pinning s.cur s.me.pc.toNat (s.me.pc + 12).toNat stop.toNat = .refused r ∧ r.1 = 0x01)

/-- O10. At task level TRAP n takes the precise trap SOFTWARE (0x0F) with ceaddr the zero-extended n and cepc = addr + 8, and BRK n
the trap BREAKPOINT (0x0E) with cepc = addr. At handler level RTE continues at cepc at task level, pins the loop again exactly
when cepc lies inside its body and the remaining count is not zero, arms the skip rule of a pending breakpoint match, and
changes no other register or CSR and nothing else of the module. At task level RTE, HALT, SEGLD, CTXSAVE and CTXLOAD take the
precise trap PRIVILEGED (0x03) with ceaddr 0, and CSRWR, CSRSET and CSRCLR of any CSR but cstat, cmode, cfemask and cwlim take
it with ceaddr the CSR number; no register but the trap CSRs changes. [03_counterflow_core.md, R64;
08_scalar_and_control_instructions.md, R159, R177, R180, R182; 19_traps_and_the_kill_wave.md, R353;
20_instruction_fault_catalogue.md, R374] -/
def Obligations.TrapReturnAndPrivilege : Prop :=
  ∀ (s : State) (n : BitVec 20) (d a b : GReg) (sd : SReg) (csr : Csr),
    (s.me.hl = false →
      Traps (.trap n) s 0x0F (n.setWidth 64) (s.me.pc + 8) ∧ Traps (.brk n) s 0x0E (n.setWidth 64) s.me.pc) ∧
    (s.me.hl = true →
      let target : Word := s.me.cepc ++ 0#2
      let count := if s.me.pinned then 0 else s.me.loopCount
      let inside := decide (s.me.loopStart.toNat ≤ target.toNat ∧ target.toNat < s.me.loopEnd.toNat ∧ count ≠ 0)
      ∃ buf, exec .rte s = .next (s.setCtx s.cur
        { s.me with pc := target, hl := false, run := .active, kick := none, loopCount := count, pinned := inside,
                    loopBuf := buf, bpArmed := s.me.bps })) ∧
    (s.me.hl = false →
      (∀ i ∈ ([.rte, .halt, .segld sd a b, .ctxsave a, .ctxload a] : List Instr), Traps i s 0x03 0 s.me.pc) ∧
      (csr ∉ ([.cstat, .cmode, .cfemask, .cwlim] : List Csr) →
        ∀ i ∈ ([.csrwr d csr a, .csrset d csr a, .csrclr d csr a] : List Instr),
          Traps i s 0x03 (BitVec.ofNat 64 (Csr.code csr)) s.me.pc))

/-- O11. A precise trap raised at handler level (TRAP, BRK, a division by zero) does not enter the handler: it writes ctrap, cepc,
ceaddr and the words of the instruction, and the context stops as HALT stops, its registers kept, with a halt notice of kind 1
and the double-trap mark. A notice to a job whose mailbox ring is not full writes the record at base + 64 + 32·(WCNT mod
2^FMLOGN): the identifier in bits 31:0, the cause in bits 55:48 and the kind in bits 63:56 of its first doubleword, then info,
the split number and the controller time, and counts WCNT up by one; with a full ring it only counts LOST up. No register or
other table changes. (Mailboxes that do not wrap round the address space and whose pages are in memory, in a state that gives no
frame to two pages.) [08_scalar_and_control_instructions.md, R181; 19_traps_and_the_kill_wave.md, R356;
24_recovery_containment_and_power_faults.md, R420] -/
def Obligations.DoubleTrapsAndFaultMailboxNotices : Prop :=
  ∀ (s : State) (n : BitVec 20) (d a b : GReg),
    (s.me.hl = true →
      let halts (i : Instr) (cause : BitVec 8) (ceaddr cepc : Word) : Prop :=
        ∃ u words, OnlyResvs s u ∧ (∀ n < 4, tget 0 words n = s.me.ir.getD n 0) ∧
          exec i s = .next ((u.setCtx s.cur
            { s.me with run := .halted, ctrap := cause, ceaddr := ceaddr, cepc := cepc.extractLsb' 2 62, cword := words,
                        resv := none, kick := none }).notice s.me.row.job.toNat 1 cause s.cur 1)
      halts (.trap n) 0x0F (n.setWidth 64) (s.me.pc + 8) ∧ halts (.brk n) 0x0E (n.setWidth 64) s.me.pc ∧
      (s.me.readG b = 0 → halts (.div d a b) 0x06 (s.me.readG a) s.me.pc)) ∧
    ∀ (job kind id : Nat) (cause : BitVec 8) (info : Word) (j : Job), s.job job = some j →
      let base := jaddr job j.fmbox.toNat; let wcnt := s.gRead base 8; let rcnt := s.gRead (base + 8) 8
      let t := s.notice job kind cause id info
      j.fmbox.toNat + 64 + 32 * 2 ^ j.fmlogn ≤ 2 ^ 52 → kind < 256 → FramesOk s →
      (∀ a, base ≤ a → a < base + 64 + 32 * 2 ^ j.fmlogn → (s.page (pageOf a)).frame ≠ none) →
        { t with gmem := s.gmem } = s ∧
        ((wcnt + 2 ^ 64 - rcnt) % 2 ^ 64 ≠ 2 ^ j.fmlogn →
          let rec_ := base + 64 + 32 * (wcnt % 2 ^ j.fmlogn)
          t.gRead rec_ 8 = id % 2 ^ 32 + 2 ^ 48 * cause.toNat + 2 ^ 56 * kind ∧ t.gRead (rec_ + 8) 8 = info.toNat ∧
          t.gRead (rec_ + 16) 8 = s.seals.split.toNat ∧ t.gRead (rec_ + 24) 8 = s.mgmt.time.toNat ∧
          t.gRead base 8 = (wcnt + 1) % 2 ^ 64 ∧
          ∀ a, ¬(base ≤ a ∧ a < base + 8) → ¬(rec_ ≤ a ∧ a < rec_ + 32) → t.gRead a 1 = s.gRead a 1) ∧
        ((wcnt + 2 ^ 64 - rcnt) % 2 ^ 64 = 2 ^ j.fmlogn →
          t.gRead (base + 16) 8 = (s.gRead (base + 16) 8 + 1) % 2 ^ 64 ∧
          ∀ a, ¬(base + 16 ≤ a ∧ a < base + 24) → t.gRead a 1 = s.gRead a 1)

/-- O12. CSRRD of every CSR, and at handler level, or at task level for cstat, cmode, cfemask and cwlim, CSRWR, CSRSET and CSRCLR
(of cspill when base plus limit stays within 0x4_0000) complete: g[d] takes the old value of the CSR, the CSR its new value in
its writable fields (the reserved and RO ones keep theirs; a CSR without one changes nothing), and nothing else changes. CSRRD
of ccycle reads the cycle counter of the context’s core. [08_scalar_and_control_instructions.md, R176, R177, R178] -/
def Obligations.CsrReadsAndWrites : Prop :=
  ∀ (s : State) (d a : GReg) (csr : Csr), let old := s.csr s.cur csr; let v := s.me.readG a
    Computes (.csrrd d csr) s 8 d old ∧ s.csr s.cur .ccycle = (s.core s.myCore).cycle ∧
    ((s.me.hl = true ∨ csr ∈ ([.cstat, .cmode, .cfemask, .cwlim] : List Csr)) →
      let writes (i : Instr) (new : Word) : Prop :=
        (csr = .cspill → 16 * (new.toNat % 2 ^ 14) + 16 * (new.toNat / 2 ^ 17 % 2 ^ 15) ≤ 0x40000) →
          ∃ t, exec i s = .next t ∧ t.me.pc = s.me.pc + 8 ∧ t.me.run = .active ∧
            (∀ r, t.me.readG r = if r = d ∧ r ≠ 0 then old else s.me.readG r) ∧
            (∃ x, t = s.setCtx s.cur x) ∧
            (∀ c, c ≠ csr → t.csr s.cur c = s.csr s.cur c) ∧
            t.csr s.cur csr =
              (let keep (mask : Word) : Word := (old &&& ~~~mask) ||| (new &&& mask)
               match csr with
               | .cstat => keep 0xFFF | .cmode => keep 0x1C | .cfemask => keep 0x1F | .cwlim => keep 0xFFFF
               | .ctrap => keep 0xFF | .cepc => keep 0xFFFFFFFFFFFFFFFC | .ceaddr => new
               | .cvec => keep 0xFFFFFFFFFFFFFFFC | .cspill => keep 0xFFFFFFFFFFFE3FFF
               | .covf => keep 0xFFFFFFFFFFFFFFF0
               | .cword0 => old | .cword1 => old | .cword2 => old | .cword3 => old | .cid => old | .ccycle => old
               | .cquota => old | .csplit => old | .cpost => old)
      writes (.csrwr d csr a) v ∧ writes (.csrset d csr a) (old ||| v) ∧ writes (.csrclr d csr a) (old &&& ~~~v))

/-- O13. NOP goes on after 8 bytes and changes nothing. YIELD goes on and leaves the context ineligible until the next lap. HALT, at
handler level with the posted-store counters zero and no engine command left, stops the context with its registers kept and
posts a halt notice; before that it waits, for the counters first and then for the commands. SEGLD at handler level loads the
segment from the 16-byte image g[a], g[b]; SEGRD gives doubleword q of the image of s[a] (reserved bits 0); SPLITRD the split
number. Nothing else changes. [08_scalar_and_control_instructions.md, R175, R181, R183;
09_memory_and_synchronisation_instructions.md, R212] -/
def Obligations.HaltNopYieldSegments : Prop :=
  ∀ (s : State) (d a b : GReg) (sr : SReg),
    exec .nop s = .next (passed s 8) ∧
    exec .yield s = .next (s.setCtx s.cur
      { s.me with pc := s.me.pc + 8, kick := none, run := .waiting .lap, waitLaps := 0, waitLimit := s.me.cwlim }) ∧
    (s.me.hl = true → s.me.near = 0 → s.me.far = 0 → s.me.mem = 0 → s.commandsOf s.cur = [] →
      exec .halt s = .next ((s.setCtx s.cur { s.me with pc := s.me.pc + 8, kick := none, run := .halted }).notice
        s.me.row.job.toNat 1 0 s.cur 0)) ∧
    (s.me.hl = true → ¬(s.me.near = 0 ∧ s.me.far = 0 ∧ s.me.mem = 0) →
      ∃ t, exec .halt s = .next t ∧ Waits s t .counters) ∧
    (s.me.hl = true → s.me.near = 0 → s.me.far = 0 → s.me.mem = 0 → s.commandsOf s.cur ≠ [] →
      ∃ t, exec .halt s = .next t ∧ Waits s t .commands) ∧
    (s.me.hl = true → ∃ m, let x := s.me.readG a; let y := s.me.readG b
      exec (.segld sr a b) s = .next (s.setCtx s.cur
        { s.me with seg := m, pc := s.me.pc + 8, run := .active, kick := none }) ∧
      ∀ r, Ctx.readSeg { s.me with seg := m } r = if r = sr then
        { base := x.extractLsb' 0 52, limit := y.extractLsb' 0 40, r := y.getLsbD 40, w := y.getLsbD 41, x := y.getLsbD 42,
          a := y.getLsbD 43 } else s.me.readSeg r) ∧
    (let g := s.me.readSeg sr
     Computes (.segrd d sr false) s 8 d (g.base.setWidth 64) ∧
     Computes (.segrd d sr true) s 8 d
       (g.limit.setWidth 64 ||| (if g.r then 1 <<< 40 else 0) ||| (if g.w then 1 <<< 41 else 0) |||
        (if g.x then 1 <<< 42 else 0) ||| (if g.a then 1 <<< 43 else 0))) ∧
    Computes (.splitrd d) s 8 d s.seals.split

/-! ### Memory -/

/-- The bytes of every memory of the module are as before. -/
def Claim.SameBytes (s t : State) : Prop :=
  (∀ a, t.gmem.cells.byte a = s.gmem.cells.byte a) ∧
  ∀ c a, (t.core c).s.cells.byte a = (s.core c).s.cells.byte a ∧ (t.core c).p.cells.byte a = (s.core c).p.cells.byte a ∧
    (t.core c).q.cells.byte a = (s.core c).q.cells.byte a

/-- The n bytes from offset a of a core's S hold v, least significant first, and every other byte of the module is as before. -/
def Claim.StoredS (s t : State) (core : CoreId) (a n v : Nat) : Prop :=
  (∀ b, t.gmem.cells.byte b = s.gmem.cells.byte b) ∧
  ∀ c b, (t.core c).s.cells.byte b = (if c = core ∧ a ≤ b ∧ b < a + n then BitVec.ofNat 8 (v / 256 ^ (b - a))
      else (s.core c).s.cells.byte b) ∧
    (t.core c).p.cells.byte b = (s.core c).p.cells.byte b ∧ (t.core c).q.cells.byte b = (s.core c).q.cells.byte b

/-- The clocks of dies are the model's record of what has been read; nothing else of a die differs. -/
def Claim.OnlyClocks (s : State) (dies : SMap Die) : Prop := ∀ d, ∃ c, tget Die.reset dies d = { s.die d with clock := c }

/-- The cores differ at most in single-bit errors that a read has met: such a word is corrected and counted (R93, R402). -/
def Claim.OnlyCorrected (s : State) (cores : SMap Core) : Prop := ∀ c, ∃ mark seqs n,
  tget Core.reset cores c = { s.core c with s := { (s.core c).s with mark := mark, lineSeq := seqs }, singles := n } ∧
  ∀ w, tget .sound mark w = (s.core c).s.wordMark w ∨ ((s.core c).s.wordMark w = .single ∧ tget .sound mark w = .sound)

/-- A read was performed: the context is x with its pc `bytes` further on, and nothing else changed but clocks and the single-bit
errors met. -/
def Claim.ReadDone (s t : State) (bytes : Nat) (x : Ctx) : Prop :=
  ∃ dies cores seen, Claim.OnlyClocks s dies ∧ Claim.OnlyCorrected s cores ∧
    t = { s with dies := dies, cores := cores }.setCtx s.cur
      { x with pc := s.me.pc + BitVec.ofNat 64 bytes, run := .active, kick := none, seen := seen }

/-- The registers of x are those of the current context but for g[d], which holds v unless d is 0. -/
def Claim.WithG (s : State) (d : GReg) (v : Word) (x : Ctx) : Prop :=
  ∃ g, x = { s.me with g := g } ∧ ∀ r, Ctx.readG { s.me with g := g } r = if r = d ∧ r ≠ 0 then v else s.me.readG r

/-- The scalar loads of both forms: instruction, bytes read, length, the value that g[d] takes from the bytes read. -/
def Claim.loads (d : GReg) (m : MemAddr) (o : BitVec 12) (p : BitVec 40) : List (Instr × Nat × Nat × Word × (Nat → Word)) :=
  let e : Word := o.signExtend 64
  let f : Word := p.signExtend 64
  [(.ldb d m o, 1, 8, e, fun v => (BitVec.ofNat 8 v).signExtend 64), (.ldbn d m o, 1, 8, e, fun v => (BitVec.ofNat 8 v).setWidth 64),
   (.ldh d m o, 2, 8, e, fun v => (BitVec.ofNat 16 v).signExtend 64), (.ldhn d m o, 2, 8, e, fun v => (BitVec.ofNat 16 v).setWidth 64),
   (.ldw d m o, 4, 8, e, fun v => (BitVec.ofNat 32 v).signExtend 64), (.ldwn d m o, 4, 8, e, fun v => (BitVec.ofNat 32 v).setWidth 64),
   (.ldd d m o, 8, 8, e, fun v => BitVec.ofNat 64 v),
   (.ldbF96m d m p, 1, 12, f, fun v => (BitVec.ofNat 8 v).signExtend 64), (.ldbnF96m d m p, 1, 12, f, fun v => (BitVec.ofNat 8 v).setWidth 64),
   (.ldhF96m d m p, 2, 12, f, fun v => (BitVec.ofNat 16 v).signExtend 64), (.ldhnF96m d m p, 2, 12, f, fun v => (BitVec.ofNat 16 v).setWidth 64),
   (.ldwF96m d m p, 4, 12, f, fun v => (BitVec.ofNat 32 v).signExtend 64), (.ldwnF96m d m p, 4, 12, f, fun v => (BitVec.ofNat 32 v).setWidth 64),
   (.lddF96m d m p, 8, 12, f, fun v => BitVec.ofNat 64 v)]

/-- The stores of both forms: instruction, bytes stored, length, offset, the data. -/
def Claim.stores (s : State) (d : GReg) (vd : VReg) (m : MemAddr) (o : BitVec 12) (p : BitVec 40) :
    List (Instr × Nat × Nat × Word × Nat) :=
  let e : Word := o.signExtend 64
  let f : Word := p.signExtend 64
  let x := (s.me.readG d).toNat
  let two := x + 2 ^ 64 * (s.me.readG (Fin.ofNat 32 (d.val + 1))).toNat
  let v := (s.me.readV vd).toNat
  [(.stb d m o, 1, 8, e, x % 2 ^ 8), (.sth d m o, 2, 8, e, x % 2 ^ 16), (.stw d m o, 4, 8, e, x % 2 ^ 32), (.std d m o, 8, 8, e, x),
   (.stg d m o, 16, 8, e, two), (.stv vd m o, 64, 8, e, v),
   (.stbF96m d m p, 1, 12, f, x % 2 ^ 8), (.sthF96m d m p, 2, 12, f, x % 2 ^ 16), (.stwF96m d m p, 4, 12, f, x % 2 ^ 32),
   (.stdF96m d m p, 8, 12, f, x), (.stgF96m d m p, 16, 12, f, two), (.stvF96m vd m p, 64, 12, f, v)]

/-- The atomics of both forms: instruction, bytes, length, offset, and the value written for the old value (none: nothing is
written), with x = g[b] and the comparand g[d]. -/
def Claim.atomics (s : State) (d b : GReg) (dd : Bool) (m : MemAddr) (o : BitVec 12) (p : BitVec 40) :
    List (Instr × Nat × Nat × Word × (Word → Option Word)) :=
  let e : Word := o.signExtend 64
  let f : Word := p.signExtend 64
  let x := s.me.readG b
  let c := s.me.readG d
  let ops (mk : Nat → Instr) (len : Nat) (off : Word) : List (Instr × Nat × Nat × Word × (Word → Option Word)) :=
    [(mk 0, 8, len, off, fun y => some (y + x)), (mk 1, 8, len, off, fun y => some (y &&& x)),
     (mk 2, 8, len, off, fun y => some (y ||| x)), (mk 3, 8, len, off, fun y => some (y ^^^ x)),
     (mk 4, 8, len, off, fun y => some (if x.toInt < y.toInt then x else y)),
     (mk 5, 8, len, off, fun y => some (if y.toInt < x.toInt then x else y)),
     (mk 6, 8, len, off, fun y => some (if x.toNat < y.toNat then x else y)),
     (mk 7, 8, len, off, fun y => some (if y.toNat < x.toNat then x else y)),
     (mk 8, 8, len, off, fun _ => some x), (mk 9, 8, len, off, fun y => if y = c then some x else none)]
  ops (fun n => [Instr.amoadd d b dd m o, .amoand d b dd m o, .amoor d b dd m o, .amoxor d b dd m o, .amomin d b dd m o,
    .amomax d b dd m o, .amominn d b dd m o, .amomaxn d b dd m o, .amoswp d b dd m o, .amocas d b dd m o].getD n .nop) 8 e ++
  ops (fun n => [Instr.amoaddF96m d b dd m p, .amoandF96m d b dd m p, .amoorF96m d b dd m p, .amoxorF96m d b dd m p,
    .amominF96m d b dd m p, .amomaxF96m d b dd m p, .amominnF96m d b dd m p, .amomaxnF96m d b dd m p, .amoswpF96m d b dd m p,
    .amocasF96m d b dd m p].getD n .nop) 12 f

/-- An access to the core's own S at ea is aligned, inside S, and the wait-count field names no counter or one at zero. -/
def Claim.LocalAccess (s : State) (m : MemAddr) (ea : Word) (n : Nat) : Prop :=
  m.space = .localS ∧ ea.toNat % n = 0 ∧ ea.toNat + n ≤ 0x40000 ∧
  (m.wc = .near → s.me.near = 0) ∧ (m.wc = .far → s.me.far = 0) ∧ (m.wc = .mem → s.me.mem = 0)

/-- O14. A plain load of local S that is aligned, inside S, with its counter at zero and no poisoned word among the bytes it reads,
completes: LDB, LDH and LDW sign-extend, LDBN, LDHN and LDWN zero-extend, LDD takes 64 bits, LDG fills g[d] and g[d+1] (with d =
0 only g1), LDV v[d], in both the F64M and the F96M forms; the value is the little-endian bytes of S from ea on, with the bytes
of the core’s own posted stores that are not yet performed laid over them. Nothing else of the module changes but the pc, the
clocks of reads, and single-bit errors met, which are corrected. A plain store to local S that is aligned, inside S, with its
counter at zero, room in the undo buffer, no older unperformed posted store of the context to the same bytes (it waits for one)
and no narrow write over a poisoned word, completes: the 1, 2, 4, 8, 16 or 64 bytes from ea on hold the data, least significant
byte first, in both the F64M and the F96M forms; every other byte of S, of every other core, of P, Q and global memory, every
register and flag of the context, and the messages in flight are as before. [00_scope.md, R4; 05_memory_spaces_and_splits.md,
R90, R94, R112; 07_instruction_formats_and_opcode_map.md, R148; 09_memory_and_synchronisation_instructions.md, R187, R191, R192] -/
def Obligations.LocalLoadsAndStores : Prop :=
  ∀ (s : State) (d : GReg) (vd : VReg) (m : MemAddr) (o : BitVec 12) (p : BitVec 40), m.fe = .plain →
    let k := s.core s.myCore
    let own (ea : Word) (n : Nat) := s.ownBytes (some s.myCore) ea.toNat n
    let value (ea : Word) (n : Nat) : Nat := overlay (k.s.cells.read ea.toNat n) (own ea n)
    let ok (ea : Word) (n : Nat) : Prop := Claim.LocalAccess s m ea n ∧ k.s.consumes ea.toNat n (own ea n) = false
    (∀ e ∈ Claim.loads d m o p, let ea := s.me.readG m.a + e.2.2.2.1
      ok ea e.2.1 → ∃ t x, exec e.1 s = .next t ∧ Claim.ReadDone s t e.2.2.1 x ∧
        Claim.WithG s d (e.2.2.2.2 (value ea e.2.1)) x) ∧
    (∀ e ∈ [(Instr.ldg d m o, 8, s.me.readG m.a + o.signExtend 64), (.ldgF96m d m p, 12, s.me.readG m.a + p.signExtend 64)],
      ok e.2.2 16 → ∃ t g, exec e.1 s = .next t ∧ Claim.ReadDone s t e.2.1 { s.me with g := g } ∧
        ∀ r, Ctx.readG { s.me with g := g } r =
          if r = 0 then 0 else if r.val = (d.val + 1) % 32 then BitVec.ofNat 64 (value e.2.2 16 / 2 ^ 64)
          else if r = d then BitVec.ofNat 64 (value e.2.2 16) else s.me.readG r) ∧
    (∀ e ∈ [(Instr.ldv vd m o, 8, s.me.readG m.a + o.signExtend 64), (.ldvF96m vd m p, 12, s.me.readG m.a + p.signExtend 64)],
      ok e.2.2 64 → ∃ t v, exec e.1 s = .next t ∧ Claim.ReadDone s t e.2.1 { s.me with v := v } ∧
        ∀ r, Ctx.readV { s.me with v := v } r = if r = vd then BitVec.ofNat 512 (value e.2.2 64) else s.me.readV r) ∧
    ((s.core s.myCore).undo.length ≤ 100 →
    ∀ e ∈ Claim.stores s d vd m o p, let ea := s.me.readG m.a + e.2.2.2.1
      Claim.LocalAccess s m ea e.2.1 →
      (s.passes ea.toNat e.2.1 = true → ∃ t, exec e.1 s = .next t ∧ Waits s t .older) ∧
      (s.passes ea.toNat e.2.1 = false → (s.core s.myCore).s.poisonedPart ea.toNat e.2.1 = false →
        ∃ t, exec e.1 s = .next t ∧ Claim.StoredS s t s.myCore ea.toNat e.2.1 e.2.2.2.2 ∧
          t.me = { s.me with pc := s.me.pc + BitVec.ofNat 64 e.2.2.1, run := .active, kick := none } ∧
          (∀ c, c ≠ s.cur → ∃ r, t.ctx c = { s.ctx c with resv := r }) ∧ t.net = s.net ∧ t.mgmt = s.mgmt))

/-- O15. An atomic on local S that is aligned, inside S, with its counter at zero, room in the undo buffer, no older unperformed
posted store of the context to the same bytes, no poisoned word (and not a .D atomic in deterministic mode) completes: g[d]
takes the old doubleword, and the doubleword at ea becomes the sum, and, or, exclusive or, signed or unsigned minimum or maximum
with g[b], g[b] itself, or for AMOCAS g[b] where the old value equals g[d]. AMOFADD adds the FP32 words with the flags of the
sum and returns the old word. No other byte and no other register changes. [09_memory_and_synchronisation_instructions.md, R196] -/
def Obligations.LocalAtomics : Prop :=
  ∀ (s : State) (d b : GReg) (dd : Bool) (m : MemAddr) (o : BitVec 12) (p : BitVec 40),
    (s.core s.myCore).undo.length ≤ 100 → (s.me.da && dd) = false →
    let k := s.core s.myCore
    let after (t : State) (bytes : Nat) (v : Word) (f : Flags) : Prop :=
      (∀ r, t.me.readG r = if r = d ∧ r ≠ 0 then v else s.me.readG r) ∧
      t.me.pc = s.me.pc + BitVec.ofNat 64 bytes ∧ t.me.run = .active ∧ t.me.cstat = s.me.cstat ||| f ∧ t.me.hl = s.me.hl ∧
      t.me.v = s.me.v ∧ t.me.k = s.me.k ∧ t.me.seg = s.me.seg ∧ t.net = s.net
    (∀ e ∈ Claim.atomics s d b dd m o p, let ea := s.me.readG m.a + e.2.2.2.1
      Claim.LocalAccess s m ea 8 → s.passes ea.toNat 8 = false → k.s.poisoned ea.toNat 8 = false →
        let old : Word := BitVec.ofNat 64 (k.s.cells.read ea.toNat 8)
        ∃ t, exec e.1 s = .next t ∧ after t e.2.2.1 old 0 ∧
          match e.2.2.2.2 old with
          | some new => Claim.StoredS s t s.myCore ea.toNat 8 new.toNat
          | none => Claim.SameBytes s t) ∧
    (∀ e ∈ [(Instr.amofadd d b dd m o, 8, s.me.readG m.a + o.signExtend 64),
            (.amofaddF96m d b dd m p, 12, s.me.readG m.a + p.signExtend 64)],
      Claim.LocalAccess s m e.2.2 4 → s.passes e.2.2.toNat 4 = false → k.s.poisoned e.2.2.toNat 4 = false →
        let old := k.s.cells.read e.2.2.toNat 4
        let sum := f32.add old ((s.me.readG b).toNat % 2 ^ 32)
        sum.2 &&& s.me.enabled = 0 →
          ∃ t, exec e.1 s = .next t ∧ after t e.2.1 (BitVec.ofNat 64 old) sum.2 ∧
            Claim.StoredS s t s.myCore e.2.2.toNat 4 sum.1)

/-- O16. Where no older unperformed posted store of the context lies in the way, LR on local S completes with the doubleword at ea
in g[d] and the context’s reservation of its 16-byte granule at the bank unit, replacing an earlier one. SC completes: under a
reservation of the same context, bank and granule it stores g[b] and writes 0 to g[d]; without it, it stores nothing and writes
1. In both cases the context holds no reservation after it, and no byte of memory changes but the eight stored.
[09_memory_and_synchronisation_instructions.md, R193, R194] -/
def Obligations.LoadReserveStoreConditional : Prop :=
  ∀ (s : State) (d b : GReg) (m : MemAddr) (o : BitVec 12) (p : BitVec 40), let k := s.core s.myCore
    let wrote (t : State) (v : Word) : Prop := (∀ r, t.me.readG r = if r = d ∧ r ≠ 0 then v else s.me.readG r) ∧
      t.me.run = .active ∧ t.me.cstat = s.me.cstat ∧ t.me.v = s.me.v
    (∀ e ∈ [(Instr.lr d m o, 8, s.me.readG m.a + o.signExtend 64), (.lrF96m d m p, 12, s.me.readG m.a + p.signExtend 64)],
      Claim.LocalAccess s m e.2.2 8 → s.passes e.2.2.toNat 8 = false → k.s.poisoned e.2.2.toNat 8 = false →
        ∃ t, exec e.1 s = .next t ∧ wrote t (BitVec.ofNat 64 (k.s.cells.read e.2.2.toNat 8)) ∧
          t.me.pc = s.me.pc + BitVec.ofNat 64 e.2.1 ∧ Claim.SameBytes s t ∧
          t.me.resv = some { ctx := s.cur, holder := .bank s.myCore, granule := e.2.2.toNat / 16 * 16 }) ∧
    (∀ e ∈ [(Instr.sc d b m o, 8, s.me.readG m.a + o.signExtend 64), (.scF96m d b m p, 12, s.me.readG m.a + p.signExtend 64)],
      Claim.LocalAccess s m e.2.2 8 → s.passes e.2.2.toNat 8 = false → k.s.poisoned e.2.2.toNat 8 = false → k.undo.length ≤ 100 →
        let held : Prop := s.me.resv = some { ctx := s.cur, holder := .bank s.myCore, granule := e.2.2.toNat / 16 * 16 }
        ∃ t, exec e.1 s = .next t ∧ t.me.pc = s.me.pc + BitVec.ofNat 64 e.2.1 ∧ t.me.resv = none ∧
          (held → wrote t 0 ∧ Claim.StoredS s t s.myCore e.2.2.toNat 8 (s.me.readG b).toNat) ∧
          (¬held → wrote t 1 ∧ Claim.SameBytes s t))

/-- O17. An access of an instruction of opcodes 0x50 to 0x55 at task level takes the precise trap ALIGNMENT for an ea that is no
multiple of its size; otherwise SEGMENT_LIMIT outside the rows of local S, with ea[63:23] not 0 in cluster S, past the end of S
in remote S, or past the limit of its segment; otherwise SPILL_OVERFLOW for a byte of the spill window beyond limit + ovflen, or
a qualified or atomic access redirected out of the carve-out; otherwise SEGMENT_RIGHTS without the right of its kind, or for a
.D atomic in deterministic mode that is not to global memory. ceaddr is ea, cepc the instruction’s address, and no byte,
register or full/empty bit changes. [20_instruction_fault_catalogue.md, R375] -/
def Obligations.AccessChecksInOrder : Prop :=
  ∀ (s : State) (i : Instr) (r : MemRef), Instr.ref i = some r → s.me.hl = false →
    let ea := MemAddr.ea r.m s.me r.off
    let a := ea.toNat
    let g := s.me.readSeg r.m.seg
    let lim := 16 * s.me.spillLimit.toNat
    let beyondLimit : Prop := match r.m.space with
      | .localS => 0x40000 < a + r.size ∧ (a < 0x1000000 ∨ 0x101000000 < a + r.size)
      | .clusterS => 2 ^ 23 ≤ a
      | .remoteS => 2 ^ 18 < a + r.size
      | .global => g.limit.toNat < a + r.size
    let inCarve : Prop := r.m.space = .localS ∧ 0x1000000 ≤ a ∧ a + r.size ≤ 0x101000000 ∧
      16 * s.me.spillBase.toNat + lim ≤ 0x40000
    let atomic : Prop := r.kind ≠ .load ∧ r.kind ≠ .store
    let missing : Prop := r.m.space = .global ∧ a + r.size ≤ g.limit.toNat ∧
      ((r.kind = .load ∧ g.r = false) ∨ (r.kind = .store ∧ g.w = false) ∨ (atomic ∧ g.a = false))
    (a % r.size ≠ 0 → Traps i s 0x0B ea s.me.pc) ∧
    (a % r.size = 0 →
      (beyondLimit → Traps i s 0x04 ea s.me.pc) ∧
      (inCarve → lim + s.me.ovfLen.toNat < a - 0x1000000 + r.size ∨
          ((r.m.fe ≠ .plain ∨ atomic) ∧ lim < a - 0x1000000 + r.size) → Traps i s 0x0D ea s.me.pc) ∧
      (missing → Traps i s 0x05 ea s.me.pc) ∧
      (∀ op, r.kind = .amo op true → s.me.da = true →
        (r.m.space = .localS ∧ (a + r.size ≤ 0x40000 ∨ (inCarve ∧ a - 0x1000000 + r.size ≤ lim))) ∨
        (r.m.space = .clusterS ∧ a < 2 ^ 23) ∨ (r.m.space = .remoteS ∧ a + r.size ≤ 2 ^ 18) → Traps i s 0x05 ea s.me.pc))

/-- O18. With no access recorded in the core’s wait table, and for a store no older unperformed posted store of the context to the
same bytes: a .FW or .FC load of local S completes with its value when every granule it touches is full, and .FC leaves them
empty; otherwise it is recorded and the context waits at the first granule with its pc at the load. A .SE store completes
whatever the granules hold, a .EE store when all are empty, and both leave them full; a .EE store over a full granule is
recorded and waits, and no byte of memory changes. The full/empty bits of all other granules keep their values.
[05_memory_spaces_and_splits.md, R95, R96; 09_memory_and_synchronisation_instructions.md, R190, R191, R192] -/
def Obligations.FullEmptyAccesses : Prop :=
  ∀ (s : State) (d : GReg) (vd : VReg) (m : MemAddr) (o : BitVec 12) (p : BitVec 40),
    let k := s.core s.myCore
    k.feWait = [] → k.undo.length ≤ 100 → m.fe ≠ .plain →
    let touched (a n g : Nat) : Prop := a / 16 ≤ g ∧ g ≤ (a + n - 1) / 16
    let all (a n : Nat) (full : Bool) : Prop := ∀ g, touched a n g → tget false k.fe g = full
    let bits (t : State) (a n : Nat) (v : Bool) : Prop := ∀ g,
      (touched a n g → tget false (t.core s.myCore).fe g = v) ∧
      (¬touched a n g → tget false (t.core s.myCore).fe g = tget false k.fe g)
    let waits (i : Instr) (a n : Nat) : Prop := ∃ t, exec i s = .next t ∧ t.me.run = .waiting (.granule (a / 16 * 16)) ∧
      t.me.pc = s.me.pc ∧ (∀ r, t.me.readG r = s.me.readG r) ∧ Claim.SameBytes s t ∧
      (∃ w, (t.core s.myCore).feWait = [w] ∧ w.ctx = s.cur ∧ w.off = a ∧ w.size = n) ∧
      ∀ g, tget false (t.core s.myCore).fe g = tget false k.fe g
    (∀ e ∈ Claim.loads d m o p, let ea := s.me.readG m.a + e.2.2.2.1
      let own := s.ownBytes (some s.myCore) ea.toNat e.2.1
      Claim.LocalAccess s m ea e.2.1 → k.s.consumes ea.toNat e.2.1 own = false →
        (all ea.toNat e.2.1 true → ∃ t, exec e.1 s = .next t ∧ Claim.SameBytes s t ∧
          (∀ r, t.me.readG r = if r = d ∧ r ≠ 0 then e.2.2.2.2 (overlay (k.s.cells.read ea.toNat e.2.1) own) else s.me.readG r) ∧
          t.me.pc = s.me.pc + BitVec.ofNat 64 e.2.2.1 ∧ t.me.run = .active ∧
          (m.fe = .first → ∀ g, tget false (t.core s.myCore).fe g = tget false k.fe g) ∧
          (m.fe = .second → bits t ea.toNat e.2.1 false)) ∧
        (¬all ea.toNat e.2.1 true → waits e.1 ea.toNat e.2.1)) ∧
    (∀ e ∈ Claim.stores s d vd m o p, let ea := s.me.readG m.a + e.2.2.2.1
      Claim.LocalAccess s m ea e.2.1 → s.passes ea.toNat e.2.1 = false → k.s.poisonedPart ea.toNat e.2.1 = false →
        (m.fe = .first ∨ all ea.toNat e.2.1 false → ∃ t, exec e.1 s = .next t ∧
          Claim.StoredS s t s.myCore ea.toNat e.2.1 e.2.2.2.2 ∧ bits t ea.toNat e.2.1 true ∧
          t.me = { s.me with pc := s.me.pc + BitVec.ofNat 64 e.2.2.1, run := .active, kick := none }) ∧
        (m.fe = .second → ¬all ea.toNat e.2.1 false → waits e.1 ea.toNat e.2.1))

/-- The instruction has been sent as a request: one message more is in flight, the context awaits its reply with its pc at the
instruction, and no register, byte or full/empty bit has changed. -/
def Claim.Asked (s t : State) (i : Instr) (dest : Dest) (body : Body) : Prop :=
  (∃ q, t.net = s.net ++ [q] ∧ q.src = s.cur ∧ q.dest = dest ∧ q.body = body ∧ q.launch = s.me.row.launch.toNat) ∧
  t.me = { s.me with run := .reply i, waitLaps := 0, waitLimit := s.me.cwlim } ∧ Claim.SameBytes s t ∧
  ∀ c, (t.core c).fe = (s.core c).fe

/-- A posted operation has been performed: one message more is in flight, the counter of its kind has risen by one, the context has
gone on with g[d] written or not, and no byte has changed. -/
def Claim.Posted (s t : State) (bytes : Nat) (kind : PostKind) (dest : Dest) (body : Body) : Prop :=
  (∃ q, t.net = s.net ++ [q] ∧ q.src = s.cur ∧ q.dest = dest ∧ q.body = body) ∧
  t.me.near = (if kind = .near then s.me.near + 1 else s.me.near) ∧
  t.me.far = (if kind = .far then s.me.far + 1 else s.me.far) ∧
  t.me.mem = (if kind = .mem then s.me.mem + 1 else s.me.mem) ∧
  t.me.pc = s.me.pc + BitVec.ofNat 64 bytes ∧ t.me.run = .active ∧ t.me.cstat = s.me.cstat ∧ t.me.v = s.me.v ∧
  t.me.seg = s.me.seg ∧ Claim.SameBytes s t ∧ ∀ c, c ≠ s.cur → t.ctx c = s.ctx c

/-- O19. After the checks, with its counter at zero and its target inside the job: a load, LR, SC or plain atomic of cluster S (core
ea[22:18], offset ea[17:0]), of remote S (the core that g[a] names) or of global memory (the home of the page of segment base +
ea modulo 2^52 in the context’s job; in the spill window past the carve-out, of covf + the offset past it) is sent as one
request and the context awaits the reply, unless unperformed stores of the core give every byte of a plain load, which then
completes at once; a store with room in its counter and the store buffer is posted: the near, far or mem counter rises by one,
the store buffer takes the bytes, and the context goes on. No register is written and no byte changes.
[05_memory_spaces_and_splits.md, R91, R100, R101, R102, R103; 09_memory_and_synchronisation_instructions.md, R187, R188] -/
def Obligations.AccessesBeyondTheCore : Prop :=
  ∀ (s : State) (i : Instr) (r : MemRef), Instr.ref i = some r → (∀ op, r.kind = .amo op true → s.me.da = false) →
    let ea := (MemAddr.ea r.m s.me r.off).toNat
    let k := s.core s.myCore
    s.me.accessRefusal r.m r.kind ea r.size = none → s.me.waitCountZero r.m.wc = true →
    let sent (dest : Dest) (core : Option CoreId) (off : Nat) (kind : PostKind) (fe : FeQual) : Prop :=
      (r.kind = .load → s.rfsLoad r core off = none → ∃ t, exec i s = .next t ∧ Claim.Asked s t i dest (.load off r.size fe 0 0)) ∧
      (∀ v, r.kind = .load → s.rfsLoad r core off = some v → v = overlay 0 (s.ownBytes core off r.size) ∧
        exec i s = .next (s.done r.bytes (r.land v))) ∧
      (r.kind = .lr → ∃ t, exec i s = .next t ∧ Claim.Asked s t i dest (.lr off)) ∧
      (r.kind = .sc → ∃ t, exec i s = .next t ∧ Claim.Asked s t i dest (.sc off (s.me.readG r.b).toNat)) ∧
      (∀ op dd, r.kind = .amo op dd → ∃ t, exec i s = .next t ∧
        Claim.Asked s t i dest (.amo op off (s.me.readG r.b) (s.me.readG (Fin.ofNat 32 r.d)))) ∧
      (r.kind = .store → s.storeRoom kind = true → ∃ t, exec i s = .next t ∧
        Claim.Posted s t r.bytes kind dest (.store kind off r.size (r.data s.me) fe (MemAddr.ea r.m s.me r.off)) ∧
        (∀ q, t.me.readG q = s.me.readG q) ∧
        ∃ b, (t.core s.myCore).storeBuf = k.storeBuf ++ [b] ∧ b.ctx = s.cur ∧ b.core = core ∧ b.addr = off ∧
          b.size = r.size ∧ b.data = r.data s.me) ∧
      (r.kind = .store → s.storeRoom kind = false → ∃ t, exec i s = .next t ∧ Waits s t .postRoom)
    (r.m.space = .clusterS → let core := mkId (xOf s.cur) (yOf s.cur) (ea / 2 ^ 18 % 32) 0
      s.reaches s.cur core = true →
        sent (.core core) (some core) (ea % 2 ^ 18) (if dieOf s.cur = dieOf core then .near else .far) r.m.fe) ∧
    (r.m.space = .remoteS → let id := (s.me.readG r.m.a).toNat % 2 ^ 32; let core := mkId (xOf id) (yOf id) (cOf id) 0
      s.reaches s.cur id = true →
        sent (.core core) (some core) ea (if dieOf s.cur = dieOf core then .near else .far) r.m.fe) ∧
    (r.m.space = .global →
      let va := 2 ^ 52 * s.me.row.job.toNat + ((s.me.readSeg r.m.seg).base.toNat + ea) % 2 ^ 52
      sent (.home (va / 2 ^ 16)) none va .mem .plain) ∧
    (r.m.space = .localS → s.me.carveLimit ≤ ea - 0x1000000 → 0x1000000 ≤ ea →
      let va := 2 ^ 52 * s.me.row.job.toNat + (16 * s.me.covf.toNat + (ea - 0x1000000 - s.me.carveLimit)) % 2 ^ 52
      sent (.home (va / 2 ^ 16)) none va .mem .plain)

/-- O20. A remote-S access whose identifier names a core that the job does not reach, after its checks: a load, LR or atomic
completes with 0 in its destination and DZR set in cstat; a store, SC or atomic is dropped and leaves the pending imprecise trap
DISCARDED_WRITE with bit 63 of ceaddr set; nothing waits, no message is sent and no byte changes. [02_module_and_its_parts.md,
R21; 22_memory_and_synchronisation_faults.md, R397, R399] -/
def Obligations.AccessesOutsideTheJob : Prop :=
  ∀ (s : State) (i : Instr) (r : MemRef), Instr.ref i = some r → r.m.space = .remoteS →
    let ea := (MemAddr.ea r.m s.me r.off).toNat
    let id := (s.me.readG r.m.a).toNat % 2 ^ 32
    s.me.accessRefusal r.m r.kind ea r.size = none → s.me.waitCountZero r.m.wc = true → s.reaches s.cur id = false →
      ∃ t, exec i s = .next t ∧ t.net = s.net ∧ Claim.SameBytes s t ∧ t.me.run = .active ∧
        t.me.pc = s.me.pc + BitVec.ofNat 64 r.bytes ∧
        (r.kind ≠ .store → t.me.cstat = s.me.cstat ||| 0x400#12) ∧
        ((∃ w, r.how = .zx w ∨ r.how = .sx w) → ∀ q, r.kind ≠ .store →
          t.me.readG q = if q = Fin.ofNat 32 r.d then 0 else s.me.readG q) ∧
        (r.kind = .store ∨ r.kind = .sc ∨ (∃ op dd, r.kind = .amo op dd) →
          ∃ p ∈ t.me.imprecise, p.cause = 0x11 ∧
            (s.me.imprecise = [] → p.ceaddr = BitVec.ofNat 64 (2 ^ 63 + ea * 2 ^ 32 + id)))

/-- O21. With cmode.DA set, an atomic with .D to a global page that is not irrevocable, after its checks and with room in the mem
counter, is sent to the memory port of the page’s home as a posted store counted as mem, tagged with the launch, the tile and
the round of the context; g[d] takes 0, the context goes on, and no byte changes until its round closes. Without room it waits.
[09_memory_and_synchronisation_instructions.md, R197] -/
def Obligations.DeterministicUpdates : Prop :=
  ∀ (s : State) (i : Instr) (r : MemRef) (op : AmoOp), Instr.ref i = some r → r.kind = .amo op true → s.me.da = true →
    r.m.space = .global →
    let ea := MemAddr.ea r.m s.me r.off
    let va := 2 ^ 52 * s.me.row.job.toNat + ((s.me.readSeg r.m.seg).base.toNat + ea.toNat) % 2 ^ 52
    let page := s.page (va / 2 ^ 16)
    s.me.accessRefusal r.m r.kind ea.toNat r.size = none → s.me.waitCountZero r.m.wc = true → page.irrevocable = false →
      (s.me.mem ≠ 4095 → ∃ t, exec i s = .next t ∧
        Claim.Posted s t r.bytes .mem (.port page.home) (.det op va (s.me.readG r.b) (s.me.readG (Fin.ofNat 32 r.d)) ea
          s.me.row.launch.toNat s.me.tile s.me.round) ∧
        ∀ q, t.me.readG q = if q = Fin.ofNat 32 r.d then 0 else s.me.readG q) ∧
      (s.me.mem = 4095 → ∃ t, exec i s = .next t ∧ Waits s t .postRoom)

/-- The current context has gone on after `bytes` bytes with its registers as before, and nothing was stored. -/
def Claim.Moved (s t : State) (bytes : Nat) : Prop :=
  t.me.pc = s.me.pc + BitVec.ofNat 64 bytes ∧ t.me.run = .active ∧ (∀ r, t.me.readG r = s.me.readG r) ∧ t.me.v = s.me.v ∧
  t.me.k = s.me.k ∧ t.me.h = s.me.h ∧ t.me.cstat = s.me.cstat ∧ Claim.SameBytes s t

/-- The same, and no other context changed. -/
def Claim.WentOn (s t : State) (bytes : Nat) : Prop := Claim.Moved s t bytes ∧ ∀ c, c ≠ s.cur → t.ctx c = s.ctx c

/-- The registers after a pair was written: g[d + 1] the upper half, g[d] the lower one, g0 always 0. -/
def Claim.PairIn (s t : State) (d : GReg) (v : BitVec 128) : Prop := ∀ r, t.me.readG r =
  if r = 0 then 0 else if r.val = (d.val + 1) % 32 then v.extractLsb' 64 64 else if r = d then v.extractLsb' 0 64 else s.me.readG r

/-- O22. A FENCE is performed when the counters of its scope are zero (CTX and CORE none; CLUSTER and DIE near and mem; MODULE,
DOMAIN and G all three): it goes on and changes no register and no byte, and a FENCE.G asks the fence sequencer for a stamp and
awaits it; otherwise it waits. WAITC goes on when every named counter is zero, else waits. WAITRS goes on when the context holds
no reservation, else waits for its granule. RNDCLOSE with all counters zero sends the tile’s close vote for its round to the
launch’s controller, advances the round number and waits; it completes once the controller has completed that round.
[09_memory_and_synchronisation_instructions.md, R195, R198, R199, R200] -/
def Obligations.FencesAndCounterWaits : Prop :=
  ∀ (s : State) (scope : FenceScope) (mask : BitVec 3),
    let near := s.me.near = 0; let far := s.me.far = 0; let mem := s.me.mem = 0
    let needs : Prop := match scope with
      | .ctx => True | .core => True | .cluster => near ∧ mem | .die => near ∧ mem
      | .module => near ∧ far ∧ mem | .domain => near ∧ far ∧ mem | .g => near ∧ far ∧ mem
    (needs → scope ≠ .g → ∃ t, exec (.fence scope) s = .next t ∧ Claim.WentOn s t 8 ∧ t.net = s.net) ∧
    (needs → scope = .g → ∃ t q, exec (.fence scope) s = .next t ∧ t.net = s.net ++ [q] ∧ q.dest = .sequencer ∧
      q.body = .stampReq ∧ q.src = s.cur ∧ t.me.run = .reply (.fence .g) ∧ t.me.pc = s.me.pc ∧ Claim.SameBytes s t) ∧
    (¬needs → ∃ t, exec (.fence scope) s = .next t ∧ Waits s t .counters) ∧
    (let named : Prop := (mask.getLsbD 0 = true → near) ∧ (mask.getLsbD 1 = true → far) ∧ (mask.getLsbD 2 = true → mem)
     (named → exec (.waitc mask) s = .next (passed s 8)) ∧
     (¬named → ∃ t, exec (.waitc mask) s = .next t ∧ Waits s t .counters)) ∧
    (s.me.resv = none → exec .waitrs s = .next (passed s 8)) ∧
    (∀ r, s.me.resv = some r → ∃ t, exec .waitrs s = .next t ∧ Waits s t (.reservation r.granule)) ∧
    (s.me.voted = false → near ∧ far ∧ mem → ∃ t q, exec .rndclose s = .next t ∧ t.net = s.net ++ [q] ∧ q.src = s.cur ∧
      q.dest = .controller s.me.row.launch.toNat ∧ q.body = .vote s.me.tile s.me.round ∧ t.me.round = s.me.round + 1 ∧
      t.me.voted = true ∧ t.me.run = .waiting .round ∧ t.me.pc = s.me.pc ∧ Claim.SameBytes s t) ∧
    (s.me.voted = false → ¬(near ∧ far ∧ mem) → ∃ t, exec .rndclose s = .next t ∧ Waits s t .counters) ∧
    (∀ q, s.me.voted = true → s.launch s.me.row.launch.toNat = some q →
      (s.me.round ≤ q.round → ∃ t, exec .rndclose s = .next t ∧ Claim.WentOn s t 8 ∧ t.me.voted = false ∧
        t.me.round = s.me.round) ∧
      (q.round < s.me.round → ∃ t, exec .rndclose s = .next t ∧ Waits s t .round))

/-- O23. MBINC adds v to counter i of the own core modulo 2^16 and MBSET replaces it; MBRD writes it zero-extended to g[d]; MBWAIT
goes on when (counter − v) mod 2^16 < 2^15, or an update since it began to wait has met that, and otherwise waits for counter i.
MBINC with a register names a core: the own one as without it; another core inside the job gets a posted increment, counted near
on the own die and far elsewhere; a core outside the job gets nothing and the write is reported as dropped. No other counter,
register or byte changes. [05_memory_spaces_and_splits.md, R99; 09_memory_and_synchronisation_instructions.md, R201;
22_memory_and_synchronisation_faults.md, R399] -/
def Obligations.MailboxInstructions : Prop :=
  ∀ (s : State) (d a : GReg) (i : BitVec 8) (v : BitVec 16),
    let count (t : State) (c : CoreId) (j : Nat) : BitVec 16 := tget 0 (t.core c).mb j
    let now := count s s.myCore i.toNat
    let id := (s.me.readG a).toNat % 2 ^ 32
    let core := mkId (xOf id) (yOf id) (cOf id) 0
    let sets (j : Instr) (w : BitVec 16) : Prop := ∃ t, exec j s = .next t ∧ t.net = s.net ∧ Claim.Moved s t 8 ∧
      (∀ c, c ≠ s.cur → ∃ b, t.ctx c = { s.ctx c with met := b }) ∧ ∀ c n, count t c n = if c = s.myCore ∧ n = i.toNat then w else count s c n
    sets (.mbinc i v) (now + v) ∧ sets (.mbset i v) v ∧ Computes (.mbrd d i) s 8 d (now.setWidth 64) ∧
    (s.me.met = true ∨ (now - v).toNat < 2 ^ 15 → ∃ t, exec (.mbwait i v) s = .next t ∧ Claim.WentOn s t 8 ∧ t.cores = s.cores ∧ t.net = s.net) ∧
    (s.me.met = false → 2 ^ 15 ≤ (now - v).toNat → ∃ t, exec (.mbwait i v) s = .next t ∧ Waits s t (.mailbox i.toNat)) ∧
    (core = s.myCore → sets (.mbincRemote i v a) (now + v)) ∧
    (core ≠ s.myCore → s.reaches s.cur id = true →
      let kind : PostKind := if dieOf s.cur = dieOf core then .near else .far
      s.me.countRoom kind = true → ∃ t, exec (.mbincRemote i v a) s = .next t ∧
        Claim.Posted s t 8 kind (.core core) (.mbInc kind i v) ∧ (∀ r, t.me.readG r = s.me.readG r) ∧
        ∀ c n, count t c n = count s c n) ∧
    (core ≠ s.myCore → s.reaches s.cur id = false → ∃ t, exec (.mbincRemote i v a) s = .next t ∧ t.net = s.net ∧
      Claim.WentOn s t 8 ∧ (∃ p ∈ t.me.imprecise, p.cause = 0x11) ∧ ∀ c n, count t c n = count s c n)

/-- O24. With sound records, a CHSEND whose OUT + (SPILLED − REFILLED) is below SLEN posts the granule of index SENT with the pair
g[d], g[d+1] to DEST and counts SENT and OUT up by one; without room in the ring it waits. A CHRECV whose ring granule at NEXTRD
is full writes its 16 bytes to g[d], g[d+1], leaves it empty, counts NEXTRD up, and with SW set sends a refill request to SRC,
or drops and reports it when SRC names no core of the job; while the granule is empty it waits. Records that break a limit take
the trap CHANNEL. [09_memory_and_synchronisation_instructions.md, R202, R203, R204; 20_instruction_fault_catalogue.md, R377] -/
def Obligations.ChannelInstructions : Prop :=
  ∀ (s : State) (d a : GReg), let k := s.core s.myCore; let at_ := (s.me.readG a).toNat
    at_ % 32 = 0 → at_ + 32 ≤ 0x40000 → k.s.poisoned at_ 32 = false → k.undo.length ≤ 100 →
    (let r := k.sendRec at_
     let core := mkId (xOf r.dest) (yOf r.dest) (cOf r.dest) 0
     let kind : PostKind := if dieOf s.cur = dieOf core then .near else .far
     r.slen ≠ 0 → r.sbase + 16 * r.slen ≤ 0x40000 → r.clean = true →
       (r.out + (r.spilled + 2 ^ 32 - r.refilled) % 2 ^ 32 < r.slen → s.reaches s.cur r.dest = true → s.me.countRoom kind = true →
         ∃ t q, exec (.chsend d a) s = .next t ∧ t.net = s.net ++ [q] ∧ q.src = s.cur ∧ q.dest = .core core ∧
           q.body = .granule kind at_ r.rrec (BitVec.ofNat 32 r.sent) (s.me.readPair d) false 0 ∧
           (t.core s.myCore).sendRec at_ = { r with sent := (r.sent + 1) % 2 ^ 32, out := r.out + 1 } ∧
           t.me.pc = s.me.pc + 8 ∧ t.me.run = .active ∧ (∀ g, t.me.readG g = s.me.readG g) ∧
           t.me.count kind = s.me.count kind + 1 ∧ (t.core s.myCore).fe = k.fe) ∧
       (r.slen ≤ r.out + (r.spilled + 2 ^ 32 - r.refilled) % 2 ^ 32 →
         ∃ t, exec (.chsend d a) s = .next t ∧ Waits s t (.channel at_))) ∧
    (let r := k.recvRec at_
     let p := r.rbase + 16 * (r.nextrd % r.rlen)
     r.rlen ≠ 0 → r.rbase + 16 * r.rlen ≤ 0x40000 → r.clean = true → k.feWait = [] →
       (tget false k.fe (p / 16) = true → k.s.poisoned p 16 = false →
         ∃ t, exec (.chrecv d a) s = .next t ∧ Claim.PairIn s t d (BitVec.ofNat 128 (k.s.cells.read p 16)) ∧
           (t.core s.myCore).recvRec at_ = { r with nextrd := (r.nextrd + 1) % 2 ^ 32 } ∧
           tget false (t.core s.myCore).fe (p / 16) = false ∧ t.me.pc = s.me.pc + 8 ∧ t.me.run = .active ∧
           (r.sw = false → t.net = s.net) ∧
           (r.sw = true → s.reaches s.cur r.src = false → t.net = s.net ∧ ∃ q ∈ t.me.imprecise, q.cause = 0x11) ∧
           (r.sw = true → s.reaches s.cur r.src = true → ∃ q, t.net = s.net ++ [q] ∧ q.dest = .core (mkId (xOf r.src) (yOf r.src) (cOf r.src) 0) ∧
             q.body = .refillReq r.srec)) ∧
       (tget false k.fe (p / 16) = false → ∃ t, exec (.chrecv d a) s = .next t ∧ Waits s t (.channel at_))) ∧
    (s.me.hl = false → (k.sendRec at_).slen = 0 → Traps (.chsend d a) s 0x14 ((s.me.readG a <<< 32) ||| 2) s.me.pc) ∧
    (s.me.hl = false → (k.recvRec at_).rlen = 0 → Traps (.chrecv d a) s 0x14 ((s.me.readG a <<< 32) ||| 2) s.me.pc)

/-- O25. A SENDN to a context inside the job, with room in the counter, posts the pair g[d], g[d+1] tagged with the launch, the task
index and the send sequence of the sender, and counts the sequence up; to a core outside the job the message is dropped and
reported. A RECVN whose name (own launch, own context, task g[a][31:0], sequence g[b][31:0]) is in the core’s table writes the
message to g[d], g[d+1] and frees its entry, whatever else the table holds; otherwise it waits.
[09_memory_and_synchronisation_instructions.md, R205, R206] -/
def Obligations.NamedMessageInstructions : Prop :=
  ∀ (s : State) (d a b : GReg), let x := s.me; let id := (x.readG a).toNat % 2 ^ 32
    let core := mkId (xOf id) (yOf id) (cOf id) 0
    let kind : PostKind := if dieOf s.cur = dieOf core then .near else .far
    let named (m : NamedMsg) : Prop := m.launch = x.row.launch.toNat ∧ m.dst = s.cur ∧
      m.task = (x.readG a).setWidth 32 ∧ m.seq = (x.readG b).setWidth 32
    let table := (s.core s.myCore).named
    (s.reaches s.cur id = true → x.countRoom kind = true → ∃ t, exec (.sendn d a) s = .next t ∧
      Claim.Posted s t 8 kind (.core core)
        (.named kind { launch := x.row.launch.toNat, dst := mkId (xOf id) (yOf id) (cOf id) (kOf id), task := x.task,
                       seq := x.sendSeq, data := x.readPair d }) ∧
      t.me.sendSeq = x.sendSeq + 1 ∧ ∀ r, t.me.readG r = x.readG r) ∧
    (s.reaches s.cur id = false → ∃ t, exec (.sendn d a) s = .next t ∧ t.net = s.net ∧ Claim.WentOn s t 8 ∧
      ∃ p ∈ t.me.imprecise, p.cause = 0x11) ∧
    (∀ m, m ∈ table → named m → (∀ q ∈ table, named q → q.data = m.data) →
      ∃ t, exec (.recvn d a b) s = .next t ∧ Claim.PairIn s t d m.data ∧ t.me.pc = x.pc + 8 ∧ t.me.run = .active ∧
        (∀ q, q ∈ (t.core s.myCore).named ↔ q ∈ table ∧ ¬named q) ∧ Claim.SameBytes s t ∧ t.net = s.net) ∧
    ((∀ m ∈ table, ¬named m) → ∃ t, exec (.recvn d a b) s = .next t ∧ Waits s t (.named ((x.readG a).setWidth 32)))

/-- O26. SEALPT goes on at once when no seal is prepared on the context’s die, or that die has committed; otherwise the context
stops there for the seal, its pc at the instruction. SEAL that has not asked yet requests a seal and stops the context until the
commit of the seal that its request joins (the next one, or the one after a running one that has not taken its number); once the
split number has reached it, it goes on. Neither changes a register or a byte. [05_memory_spaces_and_splits.md, R113, R115;
09_memory_and_synchronisation_instructions.md, R212] -/
def Obligations.SplitInstructions : Prop :=
  ∀ (s : State), let die := s.die (dieOf s.cur)
    let stops (i : Instr) (w : Wait) : Prop := ∃ t, exec i s = .next t ∧ t.me.run = .waiting w ∧ t.me.atSeal = true ∧
      t.me.pc = s.me.pc ∧ (∀ r, t.me.readG r = s.me.readG r) ∧ Claim.SameBytes s t ∧ t.net = s.net
    ((die.prepared && !die.committed) = false → ∃ t, exec .sealpt s = .next t ∧ Claim.WentOn s t 8 ∧ t.me.atSeal = false) ∧
    ((die.prepared && !die.committed) = true → (∀ r n, s.me.run ≠ .waiting (.seal r n)) →
      stops .sealpt (.seal false (s.seals.split + 1))) ∧
    ((∀ n, s.me.run ≠ .waiting (.seal true n)) →
      stops .seal (.seal true (if s.seals.running ∧ ¬(s.seals.committing = true ∧ s.seals.commitRecord = s.seals.split)
        then s.seals.split + 2 else s.seals.split + 1)) ∧
      ∃ t, exec .seal s = .next t ∧ (s.replicaPhase = false → t.seals = { s.seals with requested := true })) ∧
    (∀ n, s.me.run = .waiting (.seal true n) →
      (n.toNat ≤ s.seals.split.toNat → ∃ t, exec .seal s = .next t ∧ Claim.WentOn s t 8 ∧ t.me.atSeal = false) ∧
      (s.seals.split.toNat < n.toNat → exec .seal s = .next s))

/-- O27. SQOPEN is sent to the directory of die g[a] mod 36 with the name, the forming count and GANG; SQJOIN (rank g[b][23:0]),
SQLEAVE, SQCLOSE, SQBAR, SQARRIVE, SQWAIT, SQVOTE (g[b][0]), SQRED, SQSCAN (g[b]) and SQINFO to the directory of die
h[a][15:10], for every die of the module; the context awaits the answer with its pc at the instruction, and no register or byte
changes. A handle whose die does not exist (36 to 63, and the empty handle) is refused with SQUAD, reason 1.
[09_memory_and_synchronisation_instructions.md, R207, R208; 20_instruction_fault_catalogue.md, R379] -/
def Obligations.SquadInstructionsAreSent : Prop :=
  ∀ (s : State) (d a b : GReg) (hd ha : HReg) (gang self : Bool) (n : BitVec 24) (vop : VoteOp) (op : RedOp) (ty : ElemTy),
    let h := s.me.readH ha
    let asks (i : Instr) (die : Nat) (h : BitVec 16) (r : SquadReq) : Prop :=
      ∃ t, exec i s = .next t ∧ Claim.Asked s t i (.directory die) (.squad h r)
    let forms : List (Instr × SquadReq) :=
      [(.sqjoin ha b, .join ((s.me.readG b).extractLsb' 0 24)), (.sqleave ha, .leave), (.sqclose d ha, .close), (.sqbar ha, .bar),
       (.sqarrive d ha, .arrive), (.sqwait ha, .wait), (.sqvote vop d ha b, .vote vop ((s.me.readG b).getLsbD 0)),
       (.sqred op ty d ha b, .red op ty (s.me.readG b)), (.sqscan op ty d ha b, .scan op ty (s.me.readG b)),
       (.sqinfo self d ha, .info self)]
    asks (.sqopen gang hd a n b) ((s.me.readG a).toNat % 36) 0xFFFF (.open (s.me.readG a) n gang) ∧
    ∀ e ∈ forms, (h.toNat / 1024 < 36 → asks e.1 (h.toNat / 1024) h e.2) ∧
      (36 ≤ h.toNat / 1024 → s.me.hl = false → Traps e.1 s 0x0C (BitVec.ofNat 64 (h.toNat + 2 ^ 16)) s.me.pc)

/-- A 4-byte access of a context to ea lies past the end of its space or segment (R375). -/
def Claim.lanePast (x : Ctx) (m : MemAddr) (ea : Nat) : Bool := match m.space with
  | .localS => decide (0x40000 < ea + 4 ∧ (ea < 0x1000000 ∨ 0x101000000 < ea + 4))
  | .clusterS => decide (2 ^ 23 ≤ ea)
  | .remoteS => decide (2 ^ 18 < ea + 4)
  | .global => decide ((x.readSeg m.seg).limit.toNat < ea + 4)

/-- The cause, if there is one, with which a plain 4-byte load or store of a context to ea is refused, its carve-out lying in S (R375). -/
def Claim.laneCause (x : Ctx) (m : MemAddr) (store : Bool) (ea : Nat) : Option (BitVec 8) :=
  let g := x.readSeg m.seg
  if ea % 4 ≠ 0 then some 0x0B
  else if Claim.lanePast x m ea then some 0x04
  else if m.space = .localS ∧ 0x1000000 ≤ ea ∧ 16 * x.spillLimit.toNat + x.ovfLen.toNat < ea - 0x1000000 + 4 then some 0x0D
  else if m.space = .global ∧ (if store then g.w else g.r) = false then some 0x05
  else none

/-! ### Vectors (R213 to R215) -/

/-- Lane i of a width. -/
def Claim.lane (w : Nat) (v : VWord) (i : Nat) : BitVec w := v.extractLsb' (w * i) w

/-- Lane i is active under a mask operand. -/
def Claim.active (x : Ctx) (m : Option KReg) (i : Nat) : Bool := match m with
  | none => true
  | some k => (x.readK k).getLsbD i

/-- The flags that the active lanes of a width raise, together. -/
def Claim.laneFlags (x : Ctx) (m : Option KReg) (n : Nat) (f : Nat → Flags) : Flags :=
  (List.range n).foldl (fun g i => if Claim.active x m i then g ||| f i else g) 0

/-- The instruction writes v[d] lane by lane and raises the flags of its active lanes: the active lanes take r i, the others keep
their values. -/
def Claim.Lanewise (i : Instr) (s : State) (w : Nat) (d : VReg) (m : Option KReg) (r : Nat → BitVec w) (f : Nat → Flags) : Prop :=
  let fl := Claim.laneFlags s.me m (512 / w) f
  fl &&& s.me.enabled = 0 → ∃ v, ComputesVFlags i s 8 d v fl ∧
    ∀ j < 512 / w, Claim.lane w v j = if Claim.active s.me m j then r j else Claim.lane w (s.me.readV d) j

def Claim.signedTypes : List ElemTy := [.i8, .i16, .i32, .i64]
def Claim.unsignedTypes : List ElemTy := [.n8, .n16, .n32, .n64]
def Claim.ieeeTypes : List (ElemTy × FFmt) := [(.f32, f32), (.f16, f16), (.bf16, bf16)]

/-- O28. For the eight integer types, VADD, VSUB, VMUL and VFMA give each active lane the result modulo 2^w, VMIN, VMAX, VABS and
VNEG follow the signedness of the type, VAND, VOR and VXOR act on the bits, VSHL, VSHR and VSRA shift by the low log2 w bits of
the lane of v[b]; the lanes that the mask leaves out keep the value of v[d], no flag is raised, the pc goes on by 8, and nothing
else changes. VCMP writes to k[d] the comparison of each active lane and 0 in every other bit. [10_vector_instructions.md, R213,
R214, R215, R216, R217] -/
def Obligations.VectorIntegerLanes : Prop :=
  ∀ (s : State) (d a b c : VReg) (k : KReg) (m : Option KReg) (ty : ElemTy),
    ty ∈ Claim.signedTypes ++ Claim.unsignedTypes →
    let signed := decide (ty ∈ Claim.signedTypes)
    let w := ElemTy.width ty
    let x (j : Nat) : BitVec w := Claim.lane w (s.me.readV a) j
    let y (j : Nat) : BitVec w := Claim.lane w (s.me.readV b) j
    let z (j : Nat) : BitVec w := Claim.lane w (s.me.readV c) j
    let below (p q : BitVec w) : Bool := if signed then decide (p.toInt < q.toInt) else decide (p.toNat < q.toNat)
    let lanes (i : Instr) (r : Nat → BitVec w) : Prop := Claim.Lanewise i s w d m r fun _ => 0
    let compares (cond : CmpCond) (p : BitVec w → BitVec w → Bool) : Prop :=
      ∃ v, ComputesKFlags (.vcmp cond ty k a b m) s 8 k v 0 ∧
        ∀ j < 64, v.getLsbD j = (decide (j < 512 / w) && Claim.active s.me m j && p (x j) (y j))
    lanes (.vadd ty d a b m) (fun j => x j + y j) ∧ lanes (.vsub ty d a b m) (fun j => x j - y j) ∧
    lanes (.vmul ty d a b m) (fun j => x j * y j) ∧ lanes (.vfma ty d a b c m) (fun j => x j * y j + z j) ∧
    lanes (.vmin ty d a b m) (fun j => if below (y j) (x j) then y j else x j) ∧
    lanes (.vmax ty d a b m) (fun j => if below (x j) (y j) then y j else x j) ∧
    lanes (.vabs ty d a m) (fun j => if signed && decide ((x j).toInt < 0) then 0 - x j else x j) ∧
    lanes (.vneg ty d a m) (fun j => 0 - x j) ∧
    lanes (.vand ty d a b m) (fun j => x j &&& y j) ∧ lanes (.vor ty d a b m) (fun j => x j ||| y j) ∧
    lanes (.vxor ty d a b m) (fun j => x j ^^^ y j) ∧
    lanes (.vshl ty d a b m) (fun j => x j <<< ((y j).toNat % w)) ∧
    lanes (.vshr ty d a b m) (fun j => x j >>> ((y j).toNat % w)) ∧
    lanes (.vsra ty d a b m) (fun j => (x j).sshiftRight ((y j).toNat % w)) ∧
    compares .eq (fun p q => p == q) ∧ compares .ne (fun p q => p != q) ∧ compares .lt below ∧
    compares .le (fun p q => !below q p) ∧ compares .gt (fun p q => below q p) ∧ compares .ge (fun p q => !below p q)

/-- O29. For FP32, FP16 and BF16, VADD, VSUB, VMUL, VFMA, VMIN, VMAX, VRCP, VRSQ, VEX2 and VLG2 give each active lane the correctly
rounded operation of the format, VABS clears and VNEG flips the sign bit, and VCMP compares; the flags of the active lanes are
ORed into cstat, the other lanes keep their values, and nothing else changes, when none of those flags is enabled; with an
enabled one at task level each takes FP_EXCEPTION and writes no lane and no mask. The operations are the model’s own of
Machine/Ieee.lean (VEX2 and VLG2 at a fixed internal precision, log entry 9). [06_number_formats.md, R134, R135;
10_vector_instructions.md, R215, R216, R217, R221; 19_traps_and_the_kill_wave.md, R358] -/
def Obligations.VectorFloatLanes : Prop :=
  ∀ (s : State) (d a b c : VReg) (k : KReg) (m : Option KReg), ∀ e ∈ Claim.ieeeTypes,
    let ty := e.1; let t := e.2; let w := ElemTy.width ty
    let x (j : Nat) : Nat := (Claim.lane w (s.me.readV a) j).toNat
    let y (j : Nat) : Nat := (Claim.lane w (s.me.readV b) j).toNat
    let z (j : Nat) : Nat := (Claim.lane w (s.me.readV c) j).toNat
    let traps (i : Instr) (f : Nat → Flags) : Prop :=
      let fl := Claim.laneFlags s.me m (512 / w) f
      s.me.hl = false → fl &&& s.me.enabled ≠ 0 → ∃ u, exec i s = .next u ∧
        Trapped (s.setCtx s.cur { s.me with cstat := s.me.cstat ||| fl }) u 0x07 (fl.setWidth 64) s.me.pc
    let lanes (i : Instr) (r : Nat → Nat × Flags) : Prop :=
      Claim.Lanewise i s w d m (fun j => BitVec.ofNat w (r j).1) (fun j => (r j).2) ∧ traps i fun j => (r j).2
    let compares (cond : CmpCond) (r : Nat → Bool × Flags) : Prop :=
      let fl := Claim.laneFlags s.me m (512 / w) fun j => (r j).2
      (fl &&& s.me.enabled = 0 → ∃ v, ComputesKFlags (.vcmp cond ty k a b m) s 8 k v fl ∧
        ∀ j < 64, v.getLsbD j = (decide (j < 512 / w) && Claim.active s.me m j && (r j).1)) ∧
      traps (.vcmp cond ty k a b m) fun j => (r j).2
    lanes (.vadd ty d a b m) (fun j => t.add (x j) (y j)) ∧ lanes (.vsub ty d a b m) (fun j => t.sub (x j) (y j)) ∧
    lanes (.vmul ty d a b m) (fun j => t.mul (x j) (y j)) ∧ lanes (.vfma ty d a b c m) (fun j => t.fma (x j) (y j) (z j)) ∧
    lanes (.vmin ty d a b m) (fun j => t.minMax false (x j) (y j)) ∧
    lanes (.vmax ty d a b m) (fun j => t.minMax true (x j) (y j)) ∧
    lanes (.vabs ty d a m) (fun j => (x j % 2 ^ (w - 1), 0)) ∧
    lanes (.vneg ty d a m) (fun j => ((x j + 2 ^ (w - 1)) % 2 ^ w, 0)) ∧
    lanes (.vrcp ty d a m) (fun j => t.rcp (x j)) ∧ lanes (.vrsq ty d a m) (fun j => t.rsq (x j)) ∧
    lanes (.vex2 ty d a m) (fun j => t.exp2 (x j)) ∧ lanes (.vlg2 ty d a m) (fun j => t.log2 (x j)) ∧
    compares .eq (fun j => t.cmpEq (x j) (y j)) ∧ compares .lt (fun j => t.cmpLt false (x j) (y j)) ∧
    compares .le (fun j => t.cmpLt true (x j) (y j)) ∧ compares .gt (fun j => t.cmpLt false (y j) (x j)) ∧
    compares .ge (fun j => t.cmpLt true (y j) (x j)) ∧
    compares .ne (fun j => (!(t.cmpEq (x j) (y j)).1, (t.cmpEq (x j) (y j)).2))

/-- O30. For the eight integer and three IEEE types: VSEL takes each lane from v[a] or v[b] by k[c], VBCAST fills the active lanes
from g[a], VINS writes g[a] into lane g[b] mod L, VEXT extends lane g[b] mod L into g[d], VSHUF takes lane v[b] mod L of v[a],
VCMPRS moves the active lanes of v[a] down in order and clears the rest. KAND, KOR, KXOR, KNOT, KMOV in its three forms, KPOP
(the number of set bits) and KSET (the low min(g[a], 64) bits) act on the 64-bit masks. No flag is raised and nothing else but
the pc changes. [10_vector_instructions.md, R217, R218, R219, R224] -/
def Obligations.VectorMovesAndMasks : Prop :=
  ∀ (s : State) (d a b : VReg) (g h : GReg) (m : Option KReg) (k p q : KReg) (ty : ElemTy),
    ty ∈ Claim.signedTypes ++ Claim.unsignedTypes ++ Claim.ieeeTypes.map Prod.fst →
    let w := ElemTy.width ty
    let n := 512 / w
    let x (j : Nat) : BitVec w := Claim.lane w (s.me.readV a) j
    let y (j : Nat) : BitVec w := Claim.lane w (s.me.readV b) j
    let at_ := (s.me.readG h).toNat % n
    let before (j : Nat) : Nat := (List.range j).countP fun i => Claim.active s.me m i
    let u := s.me.readK p; let v := s.me.readK q
    Claim.Lanewise (.vsel ty d a b k) s w d none (fun j => if (s.me.readK k).getLsbD j then x j else y j) (fun _ => 0) ∧
    Claim.Lanewise (.vbcast ty d g m) s w d m (fun _ => (s.me.readG g).setWidth w) (fun _ => 0) ∧
    Claim.Lanewise (.vins ty d g h) s w d none
      (fun j => if j = at_ then (s.me.readG g).setWidth w else Claim.lane w (s.me.readV d) j) (fun _ => 0) ∧
    Computes (.vext ty g a h) s 8 g
      (if ty ∈ Claim.signedTypes then (x at_).signExtend 64 else (x at_).setWidth 64) ∧
    Claim.Lanewise (.vshuf ty d a b m) s w d m (fun j => x ((y j).toNat % n)) (fun _ => 0) ∧
    (∃ r, ComputesVFlags (.vcmprs ty d a m) s 8 d r 0 ∧
      (∀ j < n, Claim.active s.me m j = true → Claim.lane w r (before j) = x j) ∧
      ∀ j < n, before n ≤ j → Claim.lane w r j = 0) ∧
    ComputesKFlags (.kand k p q) s 8 k (u &&& v) 0 ∧ ComputesKFlags (.kor k p q) s 8 k (u ||| v) 0 ∧
    ComputesKFlags (.kxor k p q) s 8 k (u ^^^ v) 0 ∧ ComputesKFlags (.knot k p) s 8 k (~~~u) 0 ∧
    ComputesKFlags (.kmov (.kg k g)) s 8 k (s.me.readG g) 0 ∧ Computes (.kmov (.gk g p)) s 8 g u ∧
    ComputesKFlags (.kmov (.kk k p)) s 8 k u 0 ∧
    Computes (.kpop g p) s 8 g (BitVec.ofNat 64 ((List.range 64).countP fun i => u.getLsbD i)) ∧
    ∃ r, ComputesKFlags (.kset k g) s 8 k r 0 ∧ ∀ i < 64, r.getLsbD i = decide (i < (s.me.readG g).toNat)

/-- O31. VRED writes to g[d] the pairwise tree of the active lanes of v[a] (the identity for none), extended as the type says, and
VSCAN gives each active lane the exclusive scan of the active lanes before it; for the integer types the sum and the scanned
sums are those modulo 2^w. VCVT, VLOG and VEXP convert the active lanes, one result lane for each source lane, and clear every
bit above them. Each raises the flags of its operations, when none is enabled, and changes nothing else; an enabled flag of VRED
or VSCAN at task level takes FP_EXCEPTION. The element operations are the model’s own. [04_work_hierarchy_and_squads.md, R87;
10_vector_instructions.md, R220, R222, R223] -/
def Obligations.VectorReductionsAndConversions : Prop :=
  ∀ (s : State) (op : RedOp) (ty ty2 : ElemTy) (d a : VReg) (g : GReg) (m : Option KReg),
    let w := ElemTy.width ty
    let n := 512 / w
    let x (j : Nat) : Nat := (Claim.lane w (s.me.readV a) j).toNat
    let act := (List.range n).filter fun j => Claim.active s.me m j
    let red := reduceList op ty (act.map x)
    let scan := scanList op ty (act.map x)
    let scanFlags := scan.foldl (fun f r => f ||| r.2) 0
    let converts (i : Instr) (lanes ws wd : Nat) (f : Nat → Nat × Flags) : Prop :=
      let r (j : Nat) : Nat × Flags := f (Claim.lane ws (s.me.readV a) j).toNat
      let fl := Claim.laneFlags s.me m lanes fun j => (r j).2
      fl &&& s.me.enabled = 0 → ∃ v, ComputesVFlags i s 8 d v fl ∧
        (∀ j < lanes, Claim.lane wd v j =
          if Claim.active s.me m j then BitVec.ofNat wd (r j).1 else Claim.lane wd (s.me.readV d) j) ∧
        v.toNat < 2 ^ (wd * lanes)
    (∀ e ∈ [(Instr.vred op ty g a m, red.2), (.vscan op ty d a m, scanFlags)], s.me.hl = false → e.2 &&& s.me.enabled ≠ 0 →
      ∃ u, exec e.1 s = .next u ∧
        Trapped (s.setCtx s.cur { s.me with cstat := s.me.cstat ||| e.2 }) u 0x07 (e.2.setWidth 64) s.me.pc) ∧
    (red.2 &&& s.me.enabled = 0 → ComputesFlags (.vred op ty g a m) s 8 g (ElemTy.extend ty red.1) red.2) ∧
    (scanFlags &&& s.me.enabled = 0 → ∃ v, ComputesVFlags (.vscan op ty d a m) s 8 d v scanFlags ∧
      (∀ j < n, Claim.active s.me m j = false → Claim.lane w v j = Claim.lane w (s.me.readV d) j) ∧
      ∀ j < act.length, Claim.lane w v (act.getD j 0) = BitVec.ofNat w (scan.getD j (0, 0)).1) ∧
    (op = .add → ty ∈ Claim.signedTypes ++ Claim.unsignedTypes →
      red.1 = (act.map x).sum % 2 ^ w ∧ scan.length = act.length ∧
      ∀ j < act.length, (scan.getD j (0, 0)).1 = ((act.map x).take j).sum % 2 ^ w) ∧
    converts (.vcvt ty ty2 d a m) (512 / max (ElemTy.width ty2) w) (ElemTy.width ty2) w (elemConv ty2 ty) ∧
    (ty ∈ ([.l8a, .l8b, .l4] : List ElemTy) →
      converts (.vlog ty d a g m) 16 32 w (fun v => logCode v (logOf ty) (scaleOf (s.me.readG g))) ∧
      converts (.vexp ty d a g m) 16 w 32 (fun v => linFromLog v (logOf ty) (scaleOf (s.me.readG g))))

/-- O32. With every lane whose index is not 0xFFFF_FFFF at an aligned 4-byte offset g[a] + off + index inside the own S, and the
counter at zero: VLDX fills lane i with the word there (the bytes of the core’s own unperformed posted stores laid over it) and
a skipped lane with 0; VSTX, with no older unperformed posted store of the context in the way, stores lane i there, a later lane
over an earlier one, and no other byte. Neither changes another register. In every space the first lane that fails its check
(alignment, limit, spill overflow, rights) at task level traps with that lane’s cause and ea before any byte is written.
[10_vector_instructions.md, R225, R226; 20_instruction_fault_catalogue.md, R375] -/
def Obligations.GathersAndScatters : Prop :=
  ∀ (s : State) (d b : VReg) (m : MemAddr) (off : BitVec 12), m.fe = .plain →
    let k := s.core s.myCore
    let index (j : Nat) : BitVec 32 := Claim.lane 32 (s.me.readV b) j
    let ea (j : Nat) : Nat := (s.me.readG m.a + off.signExtend 64 + (index j).setWidth 64).toNat
    let live (j : Nat) : Prop := j < 16 ∧ index j ≠ 0xFFFFFFFF#32
    let fits (j : Nat) : Prop := ea j % 4 = 0 ∧ ea j + 4 ≤ 0x40000
    let own (j : Nat) := s.ownBytes (some s.myCore) (ea j) 4
    let counted : Prop := (m.wc = .near → s.me.near = 0) ∧ (m.wc = .far → s.me.far = 0) ∧ (m.wc = .mem → s.me.mem = 0)
    (m.space = .localS → counted → (∀ j, live j → fits j) → (∀ j, live j → k.s.consumes (ea j) 4 (own j) = false) →
      ∃ t v, exec (.vldx d b m off) s = .next t ∧ Claim.ReadDone s t 8 { s.me with v := v } ∧
        (∀ r, r ≠ d → Ctx.readV { s.me with v := v } r = s.me.readV r) ∧
        ∀ j < 16, (live j → Claim.lane 32 (Ctx.readV { s.me with v := v } d) j =
            BitVec.ofNat 32 (overlay (k.s.cells.read (ea j) 4) (own j))) ∧
          (¬live j → Claim.lane 32 (Ctx.readV { s.me with v := v } d) j = 0)) ∧
    (m.space = .localS → counted → (∀ j, live j → fits j) → (∀ j, live j → k.s.poisonedPart (ea j) 4 = false) →
      (∀ j, live j → s.passes (ea j) 4 = false) → k.undo.length ≤ 80 →
      ∃ t, exec (.vstx d b m off) s = .next t ∧
        t.me = { s.me with pc := s.me.pc + 8, run := .active, kick := none } ∧ t.net = s.net ∧
        (∀ a, t.gmem.cells.byte a = s.gmem.cells.byte a) ∧
        (∀ c a, c ≠ s.myCore → (t.core c).s.cells.byte a = (s.core c).s.cells.byte a) ∧
        ∀ a, (∀ j, live j → ea j ≤ a → a < ea j + 4 → (∀ l, live l → j < l → ¬(ea l ≤ a ∧ a < ea l + 4)) →
            (t.core s.myCore).s.cells.byte a = (Claim.lane 32 (s.me.readV d) j).extractLsb' (8 * (a - ea j)) 8) ∧
          ((∀ j, live j → ¬(ea j ≤ a ∧ a < ea j + 4)) → (t.core s.myCore).s.cells.byte a = k.s.cells.byte a)) ∧
    (16 * s.me.spillBase.toNat + 16 * s.me.spillLimit.toNat ≤ 0x40000 → s.me.hl = false → ∀ j cause, live j →
      ∀ e ∈ [(false, Instr.vldx d b m off), (true, .vstx d b m off)], Claim.laneCause s.me m e.1 (ea j) = some cause →
        (∀ l < j, live l → Claim.laneCause s.me m e.1 (ea l) = none) → Traps e.2 s cause (BitVec.ofNat 64 (ea j)) s.me.pc)

/-! ### Engines -/

/-- The commands of the matrix, vector and copy engines: instruction, engine, and the value of the register it names, if any. -/
def Claim.commands (s : State) (op : MapOp) (red : RedOp) (sh : MmaShape) (cv : QcvtOp) (z pull rs : Bool) (td ta tb : TIdx)
    (a : GReg) (w : WaitSig) : List (Instr × EngineKind × Word) :=
  [(.vemap op td ta tb w, .vector, 0), (.vered red td ta w, .vector, 0), (.vescan red td ta w, .vector, 0),
   (.vecvt td ta w, .vector, 0), (.mma sh z td ta tb w, .matrix, 0), (.mmag sh z td ta tb a w, .matrix, s.me.readG a),
   (.qzero td w, .matrix, 0), (.pload z td ta w, .copy, 0), (.qld td ta w, .vector, 0), (.qst td ta w, .vector, 0),
   (.qstl td ta w, .vector, 0), (.qcvt cv td ta w, .vector, 0), (.cpy td ta w, .copy, 0),
   (.cpyx pull rs td ta a w, .copy, s.me.readG a)]

/-- A command as it enters its queue: the instruction, its context and launch, and every table entry and segment as it stands. -/
def Claim.IsCommand (s : State) (m : Cmd) (i : Instr) (arg : Word) (isRoot : Bool) : Prop :=
  m.instr = i ∧ m.ctx = s.cur ∧ m.launch = s.me.row.launch.toNat ∧ m.arg = arg ∧
  (∀ o ∈ Instr.operands i arg isRoot, ent m.ents o.role = tget Tensor.reset (s.core s.myCore).tt o.idx.val) ∧
  (∀ r : SReg, tget Seg.zero m.segs r.val = s.me.readSeg r) ∧ m.started = false ∧ m.readDone = false ∧ m.sched = false

/-- The context stays at its instruction with the command it has formed, and waits; no core changed. -/
def Claim.KeepsCommand (s t : State) (m : Cmd) (w : Wait) : Prop :=
  t.me.kick = some m ∧ t.me.run = .waiting w ∧ t.me.pc = s.me.pc ∧ (∀ r, t.me.readG r = s.me.readG r) ∧ t.cores = s.cores ∧
  t.clusters = s.clusters ∧ t.squads = s.squads ∧ t.gmem = s.gmem ∧ t.net = s.net

/-- A command and a core’s queues but for the marks that commands at the head of a queue have had their waits satisfied. -/
def Claim.unmet (m : Cmd) : Cmd := { m with met := false }
def Claim.unmetCore (k : Core) : Core :=
  { k with matrixQ := k.matrixQ.map Claim.unmet, vectorQ := k.vectorQ.map Claim.unmet, copyQ := k.copyQ.map Claim.unmet,
           firedQ := k.firedQ.map Claim.unmet }

/-- Units that a command takes from a quota (R290). -/
def Claim.quotaAfter (x : Ctx) (units : Nat) : BitVec 32 :=
  if x.quota = 0xFFFFFFFF then x.cquota else BitVec.ofNat 32 (x.cquota.toNat - units)

/-- The module differs from s in a core’s tensor table, entry td, and the current context has gone on. -/
def Claim.Entered (s t : State) (td : TIdx) (e : Tensor) : Prop :=
  ∃ tt, t = passed (s.setCore s.myCore { s.core s.myCore with tt := tt }) 8 ∧
    ∀ n : TIdx, tget Tensor.reset tt n.val = if n = td then e else tget Tensor.reset (s.core s.myCore).tt n.val

/-- The module differs from s in a claim table of the current core: the claims of the slots (q false) or tiles lo to lo + n − 1 hold v. -/
def Claim.Claimed (s u : State) (q : Bool) (lo n v : Nat) : Prop :=
  ∃ m, u = s.setCore s.myCore ((s.core s.myCore).setClaims q m) ∧
    ∀ j, tget 0 m j = if lo ≤ j ∧ j < lo + n then v else tget 0 ((s.core s.myCore).claims q) j

/-- O33. VEMAP, VERED, VESCAN, VECVT, QLD, QST, QSTL and QCVT go to the vector queue, MMA, MMAG and QZERO to the matrix queue,
PLOAD, CPY and CPYX to the copy queue of the core. A command that is refused nothing, with fewer than two commands queued there
(in LAP none of its own context), is appended with its table entries, segments and register as they stand; the context goes on
16 bytes further, its open batch takes the copy commands, its quota pays the units, and no register, byte or other queue
changes. Without room the context waits with the command kept, and a kept command enters once there is room.
[07_instruction_formats_and_opcode_map.md, R155; 10_vector_instructions.md, R228; 11_matrix_and_copy_instructions.md, R240,
R248] -/
def Obligations.EngineCommandsEnterTheirQueue : Prop :=
  ∀ (s : State) (op : MapOp) (red : RedOp) (sh : MmaShape) (cv : QcvtOp) (z pull rs : Bool) (td ta tb : TIdx) (a : GReg)
    (w : WaitSig), ∀ e ∈ Claim.commands s op red sh cv z pull rs td ta tb a w,
    let k := s.core s.myCore
    let q := k.queue e.2.1
    let room : Prop := if s.me.lap then ∀ m ∈ q, m.ctx ≠ s.cur else q.length < 2
    let enters (t : State) (m : Cmd) : Prop :=
      t.me = { s.me with pc := s.me.pc + 16, run := .active, kick := none, cquota := Claim.quotaAfter s.me m.units,
                         openBatch := if e.2.1 = .copy then s.me.openBatch ++ [m.id] else s.me.openBatch } ∧
      Claim.unmetCore (t.core s.myCore) = Claim.unmetCore (k.setQueue e.2.1 (q ++ [m])) ∧ (∀ c, c ≠ s.myCore → t.core c = s.core c) ∧
      (∀ c, c ≠ s.cur → t.ctx c = s.ctx c) ∧ t.gmem = s.gmem ∧ t.net = s.net
    (s.me.kick = none → s.cmdRefusal s.cur e.1 e.2.2 true = none →
      (room → ∃ t m, exec e.1 s = .next t ∧ Claim.IsCommand s m e.1 e.2.2 true ∧ enters t m) ∧
      (¬room → ∃ t m, exec e.1 s = .next t ∧ Claim.IsCommand s m e.1 e.2.2 true ∧ Claim.KeepsCommand s t m .queueRoom)) ∧
    (∀ m, s.me.kick = some m → m.instr = e.1 → m.ctx = s.cur →
      (room → ∃ t, exec e.1 s = .next t ∧ enters t { m with id := s.nextId }) ∧
      (¬room → ∃ t, exec e.1 s = .next t ∧ Claim.KeepsCommand s t m .queueRoom))

/-- O34. At task level a command with a refusal takes its trap (TENSOR_DESCRIPTOR, GROUP_BOUNDS or SLOT_CLAIM) precisely and enters
no queue. The first operand in the order TD (or the groups of MMAG), TA, TB decides before a later one: its entry not valid
gives reason 1 and an unsound entry reason 2, with ceaddr the index in bits 7:0, the role in 11:8 and the reason in 15:12.
[20_instruction_fault_catalogue.md, R381, R382, R383] -/
def Obligations.EngineCommandsRefused : Prop :=
  ∀ (s : State) (op : MapOp) (red : RedOp) (sh : MmaShape) (cv : QcvtOp) (z pull rs : Bool) (td ta tb : TIdx) (a : GReg)
    (w : WaitSig), s.me.kick = none → s.me.hl = false → let tt (n : TIdx) := tget Tensor.reset (s.core s.myCore).tt n.val
    ∀ e ∈ Claim.commands s op red sh cv z pull rs td ta tb a w,
      (∀ cause at_, s.cmdRefusal s.cur e.1 e.2.2 true = some (cause, at_) → Traps e.1 s cause at_ s.me.pc) ∧
      ((∀ b, e.1 ≠ .mmag sh z td ta tb b w) →
        ((tt td).valid = false → Traps e.1 s 0x09 (BitVec.ofNat 64 (td.val + 0x1000)) s.me.pc) ∧
        ((tt td).valid = true → (tt td).sound = false → Traps e.1 s 0x09 (BitVec.ofNat 64 (td.val + 0x2000)) s.me.pc)) ∧
      (e.1 = .mmag sh z td ta tb a w → (s.me.readG a).toNat % 256 ≠ 0 →
        ((tt td).valid = false → Traps e.1 s 0x09 (BitVec.ofNat 64 (td.val + 0x1400)) s.me.pc) ∧
        ((tt td).valid = true → (tt td).sound = false → Traps e.1 s 0x09 (BitVec.ofNat 64 (td.val + 0x2400)) s.me.pc))

/-- O35. CREDUCE, CBCAST, CALLRED and CGATHER of a member that is not leaving, whose last generation is complete or running, with
fewer than 16 commands in the collective engine of its core, complete: the command (its entries, and the root rank for CREDUCE
and CBCAST) is appended to that engine, the member’s count of arrivals rises by one with a contribution, and the member’s part
joins the collective of its next generation; 16 bytes on, no register changes. A member one generation further ahead waits for
its own; without room it waits. A handle that names no squad of the job takes SQUAD with reason 1, and a context that is no
member, or leaving, reason 2. [11_matrix_and_copy_instructions.md, R254, R255; 20_instruction_fault_catalogue.md, R379, R380] -/
def Obligations.CollectivesArriveAndQueue : Prop :=
  ∀ (s : State) (op : RedOp) (h : HReg) (b : GReg) (td ta : TIdx) (w : WaitSig),
    let name := s.me.readH h
    let root : BitVec 24 := (s.me.readG b).setWidth 24
    ∀ e ∈ [(Instr.creduce op h b td ta w, true), (.cbcast h b td ta w, true), (.callred op h td ta w, false),
           (.cgather h td ta w, false)],
      let arg : Word := if e.2 then root.setWidth 64 else 0
      let lane (t : State) := ((t.cluster (clusterOf s.cur)).coll s.myCore).map fun e => (e.1, Claim.unmet e.2)
      (∀ q p, s.squadOf s.cur name = some q → q.member s.cur s.me.row.launch.toNat = some p → p.leaving = none → s.me.kick = none →
        let isRoot := !e.2 || p.rank == root
        s.cmdRefusal s.cur e.1 arg isRoot = none →
        (q.ahead p.next ≤ 1 → (lane s).length < 16 → ∃ t m q' g c, exec e.1 s = .next t ∧ Claim.IsCommand s m e.1 arg isRoot ∧
          lane t = lane s ++ [(s.myCore, Claim.unmet m)] ∧ t.squad name.toNat = some q' ∧
          q'.member s.cur s.me.row.launch.toNat = some { p with arrivals := p.arrivals + 1 } ∧ q'.gen = q.gen ∧
          q'.contribs = q.contribs ++ [c] ∧ c.ctx = s.cur ∧ c.gen = p.next ∧ c.rank = p.rank ∧ c.cmd = some m.id ∧
          g ∈ t.colls ∧ g.handle = name.toNat ∧ g.gen = p.next ∧ g.closed = false ∧
          (∃ r ∈ g.parts, r.ctx = s.cur ∧ r.rank = p.rank ∧ r.cmd = m ∧ r.read = false) ∧
          t.me.pc = s.me.pc + 16 ∧ t.me.run = .active ∧ (∀ r, t.me.readG r = s.me.readG r) ∧
          (∀ c, Claim.unmetCore (t.core c) = Claim.unmetCore (s.core c)) ∧ t.gmem = s.gmem ∧ t.net = s.net) ∧
        (1 < q.ahead p.next → ∃ t m, exec e.1 s = .next t ∧ Claim.IsCommand s m e.1 arg isRoot ∧
          Claim.KeepsCommand s t m (.generation name (p.next - 1))) ∧
        (q.ahead p.next ≤ 1 → 16 ≤ (lane s).length → ∃ t m, exec e.1 s = .next t ∧ Claim.IsCommand s m e.1 arg isRoot ∧
          Claim.KeepsCommand s t m .queueRoom)) ∧
      (s.me.hl = false →
        (s.squadOf s.cur name = none → Traps e.1 s 0x0C (BitVec.ofNat 64 (name.toNat + 2 ^ 16)) s.me.pc) ∧
        (∀ q, s.squadOf s.cur name = some q → (∀ p, q.member s.cur s.me.row.launch.toNat = some p → p.leaving.isSome = true) →
          Traps e.1 s 0x0C (BitVec.ofNat 64 (name.toNat + 2 ^ 17)) s.me.pc))

/-- O36. TDEF with a source that is a multiple of 32, inside S and not poisoned makes the entry whose four doublewords are the bytes
read, and the entry is unchanged elsewhere; ALIGNMENT, SEGMENT_LIMIT and TENSOR_DESCRIPTOR reason 2 (an entry that breaks R138)
are its refusals. TRD writes doubleword q of the entry to g[d]. TSET replaces exactly the named field by the low bits of g[a];
on an entry that is not valid only VALID may be set (reason 1 otherwise), an unsound result is reason 2, and VALID can always be
cleared. [06_number_formats.md, R137, R138; 11_matrix_and_copy_instructions.md, R236; 20_instruction_fault_catalogue.md, R381] -/
def Obligations.TensorTableInstructions : Prop :=
  ∀ (s : State) (d a : GReg) (td : TIdx) (q : Fin 4) (imm : BitVec 20),
    let k := s.core s.myCore
    let old := tget Tensor.reset k.tt td.val
    let ea := s.me.readG a + imm.signExtend 64
    let own := s.ownBytes (some s.myCore) ea.toNat 32
    let v := s.me.readG a
    let unsound : Word := BitVec.ofNat 64 (td.val + 0x2000)
    (ea.toNat % 32 = 0 → ea.toNat + 32 ≤ 0x40000 → k.s.consumes ea.toNat 32 own = false →
      ∃ e, (∀ n : Fin 4, Tensor.dw e n.val = overlay (k.s.cells.read ea.toNat 32) own / 2 ^ (64 * n.val) % 2 ^ 64) ∧
        (e.sound = true → ∃ t cores, exec (.tdef td a imm) s = .next t ∧ Claim.OnlyCorrected s cores ∧
          Claim.Entered { s with cores := cores } t td e) ∧
        (e.sound = false → s.me.hl = false → ∃ t cores, exec (.tdef td a imm) s = .next t ∧ Claim.OnlyCorrected s cores ∧
          Trapped { s with cores := cores } t 0x09 unsound s.me.pc)) ∧
    (s.me.hl = false →
      (ea.toNat % 32 ≠ 0 → Traps (.tdef td a imm) s 0x0B ea s.me.pc) ∧
      (ea.toNat % 32 = 0 → 0x40000 < ea.toNat + 32 → Traps (.tdef td a imm) s 0x04 ea s.me.pc)) ∧
    Computes (.trd d td q) s 8 d (BitVec.ofNat 64 (Tensor.dw old q.val)) ∧
    (∀ e ∈ [(TField.base, { old with base := v.extractLsb' 0 48 }), (.scale, { old with scale := v.extractLsb' 0 10 }),
            (.rows, { old with rows := v.extractLsb' 0 32 }), (.cols, { old with cols := v.extractLsb' 0 32 }),
            (.stride, { old with stride := v.extractLsb' 0 40 }), (.extra, { old with extra := v.extractLsb' 0 32 }),
            (.seg, { old with seg := v.extractLsb' 0 3 })],
      (old.valid = true → e.2.sound = true → ∃ t, exec (.tset e.1 td a) s = .next t ∧ Claim.Entered s t td e.2) ∧
      (old.valid = true → e.2.sound = false → s.me.hl = false → Traps (.tset e.1 td a) s 0x09 unsound s.me.pc) ∧
      (old.valid = false → s.me.hl = false →
        Traps (.tset e.1 td a) s 0x09 (BitVec.ofNat 64 (td.val + 0x1000)) s.me.pc)) ∧
    (v.getLsbD 0 = true → old.sound = true →
      ∃ t, exec (.tset .valid td a) s = .next t ∧ Claim.Entered s t td { old with valid := true }) ∧
    (v.getLsbD 0 = true → old.sound = false → s.me.hl = false → Traps (.tset .valid td a) s 0x09 unsound s.me.pc) ∧
    (v.getLsbD 0 = false →
      ∃ t, exec (.tset .valid td a) s = .next t ∧ Claim.Entered s t td { old with valid := false })

/-- O37. A range lo = g[a] + i of n slots (P) or tiles (Q) within 0 to 127: a claim of a range whose indexes are free or the
caller’s own claims them all and writes 0 to g[d]; any other owner leaves every claim as it was and writes 1. A release of a
range that is wholly the caller’s frees it when no queued or running command of the context names an index of it, and waits
otherwise; an index that is not the caller’s is refused with SLOT_CLAIM reason 2 naming the first. A range past 127 is refused
with reason 3 and bits 31:0 of its first index. [11_matrix_and_copy_instructions.md, R238; 20_instruction_fault_catalogue.md,
R382] -/
def Obligations.ClaimsOfSlotsAndTiles : Prop :=
  ∀ (s : State) (d a : GReg) (i n1 : BitVec 7),
    let lo := (s.me.readG a).toNat + i.toNat
    let n := n1.toNat + 1
    let mine := kOf s.cur + 1
    ∀ e ∈ [(false, Instr.pclaim d a i n1, Instr.prel a i n1), (true, .qclaim d a i n1, .qrel a i n1)],
      let owner (j : Nat) := tget 0 ((s.core s.myCore).claims e.1) j
      let kind : Nat := if e.1 then 256 else 0
      let busy : Prop := ∃ m ∈ s.commandsOf s.cur, m.names e.1 lo n = true
      (lo + n ≤ 128 →
        ((∀ j, lo ≤ j → j < lo + n → owner j = 0 ∨ owner j = mine) →
          ∃ t u, exec e.2.1 s = .next t ∧ Claim.Claimed s u e.1 lo n mine ∧ WroteG u t 8 d 0) ∧
        ((∃ j, lo ≤ j ∧ j < lo + n ∧ owner j ≠ 0 ∧ owner j ≠ mine) → Computes e.2.1 s 8 d 1) ∧
        ((∀ j, lo ≤ j → j < lo + n → owner j = mine) →
          (¬busy → ∃ t u, exec e.2.2 s = .next t ∧ Claim.Claimed s u e.1 lo n 0 ∧ t = passed u 8) ∧
          (busy → ∃ t, exec e.2.2 s = .next t ∧ Waits s t .commands)) ∧
        (∀ j, s.me.hl = false → lo ≤ j → j < lo + n → owner j ≠ mine → (∀ x, lo ≤ x → x < j → owner x = mine) →
          Traps e.2.2 s 0x0A (BitVec.ofNat 64 (j + kind + 0x2000)) s.me.pc)) ∧
      (128 < lo + n → s.me.hl = false → ∀ x ∈ [e.2.1, e.2.2],
        Traps x s 0x0A (BitVec.ofNat 64 (kind + 0x3000 + 2 ^ 32 * (lo % 2 ^ 32))) s.me.pc)

/-- O38. CSTAGE adds n to the core’s stage number modulo 2^32 and writes it to g[d]. BCLOSE with fewer than 16 closed batches that
have not landed gives the open batch the next number, writes it to g[d], opens an empty one, and keeps as unread and unlanded
those of its commands still at work; with 16 it waits. BWAIT.REL and BWAIT.LAND go on when at most n closed batches have unread
sources, or have not landed, and wait otherwise. EWAIT goes on when no command of the context is queued or running in an engine
of its mask. [11_matrix_and_copy_instructions.md, R252, R253] -/
def Obligations.StagesBatchesAndEngineWaits : Prop :=
  ∀ (s : State) (d : GReg) (n : BitVec 20) (scope : FenceScope) (c mask : BitVec 4),
    let k := s.core s.myCore
    let stage := k.stage + n.setWidth 32
    let open_ := s.me.closed.filter fun b => !b.unlanded.isEmpty
    let unread := s.me.closed.filter fun b => !b.unread.isEmpty
    let atWork (id : Nat) : Prop := id ∈ s.me.openBatch ∧ ∃ m ∈ s.commandsOf s.cur, m.id = id
    let selects (m : Cmd) : Prop := match Instr.engine m.instr with
      | .matrix => mask.getLsbD 0 = true | .vector => mask.getLsbD 1 = true
      | .copy => mask.getLsbD 2 = true | .collective => mask.getLsbD 3 = true
    (∃ t, exec (.cstage d n) s = .next t ∧
      WroteG (s.setCore s.myCore { k with stage := stage }) t 8 d (stage.setWidth 64)) ∧
    (open_.length < 16 → ∃ t b, exec (.bclose scope d) s = .next t ∧ b.num = s.me.nextBatch ∧ b.scope = scope ∧
      (∀ id, id ∈ b.unlanded ↔ atWork id) ∧ (∀ id, id ∈ b.unread ↔ atWork id ∧ s.readDone s.cur id = false) ∧
      t.me.closed = (if b.unlanded = [] then open_ else open_ ++ [b]) ∧ t.me.openBatch = [] ∧
      t.me.nextBatch = s.me.nextBatch + 1 ∧ t.me.pc = s.me.pc + 8 ∧ t.me.run = .active ∧ t.cores = s.cores ∧ t.net = s.net ∧
      ∀ r, t.me.readG r = if r = d ∧ r ≠ 0 then s.me.nextBatch.setWidth 64 else s.me.readG r) ∧
    (16 ≤ open_.length → ∃ t, exec (.bclose scope d) s = .next t ∧ Waits s t .batch) ∧
    (unread.length ≤ c.toNat → exec (.bwaitRel c) s = .next (passed s 8)) ∧
    (c.toNat < unread.length → ∃ t, exec (.bwaitRel c) s = .next t ∧ Waits s t .batch) ∧
    (open_.length ≤ c.toNat → exec (.bwaitLand c) s = .next (passed s 8)) ∧
    (c.toNat < open_.length → ∃ t, exec (.bwaitLand c) s = .next t ∧ Waits s t .batch) ∧
    ((∀ m ∈ s.commandsOf s.cur, ¬selects m) → exec (.ewait mask) s = .next (passed s 8)) ∧
    ((∃ m ∈ s.commandsOf s.cur, selects m) → ∃ t, exec (.ewait mask) s = .next t ∧ Waits s t .batch)

/-- O39. At handler level, with g[a] a multiple of 16 and the image inside S: CTXSAVE, with no older unperformed posted store of the
context in the way, stores g1 to g31, the pc after it, v, k, h, the segments, the loop state, the eight CSRs, the cwords,
cspill, covf, the send sequence and cquota at the offsets of R185 and changes no other byte; CTXLOAD of unpoisoned bytes
replaces g, pc, v, k, h, the segments with their rights, the loop state, the CSRs (of cmode HL, DA, GBT, NLT and BPS), cspill,
covf and the send sequence by them, keeps LAP, cquota and the cwords, and leaves no body pinned that the image’s pc lies outside
of. At task level both trap PRIVILEGED; another offset traps ALIGNMENT or SEGMENT_LIMIT. [08_scalar_and_control_instructions.md,
R185, R186; 20_instruction_fault_catalogue.md, R374] -/
def Obligations.ContextImages : Prop :=
  ∀ (s : State) (a : GReg), let ea := s.me.readG a; let x := s.me; let k := s.core s.myCore
    let csrs : List Csr := [.cstat, .cmode, .cfemask, .cwlim, .ctrap, .cepc, .ceaddr, .cvec]
    (x.hl = true → ea.toNat % 16 = 0 → ea.toNat + 1072 ≤ 0x40000 →
      (k.undo.length ≤ 100 → s.passes ea.toNat 1072 = false → ∃ t img, exec (.ctxsave a) s = .next t ∧ Claim.StoredS s t s.myCore ea.toNat 1072 img ∧
        (let dw (o : Nat) : Word := BitVec.ofNat 64 (img / 256 ^ o)
         (∀ r : GReg, r ≠ 0 → dw (8 * (r.val - 1)) = x.readG r) ∧ dw 0xF8 = x.pc + 8 ∧
         (∀ r : VReg, BitVec.ofNat 512 (img / 256 ^ (0x100 + 64 * r.val)) = x.readV r) ∧
         (∀ r : KReg, dw (0x300 + 8 * r.val) = x.readK r) ∧
         (∀ r : HReg, BitVec.ofNat 16 (img / 256 ^ (0x320 + 2 * r.val)) = x.readH r) ∧
         (∀ r : SReg, dw (0x330 + 16 * r.val) = (x.readSeg r).dw0 ∧ dw (0x338 + 16 * r.val) = (x.readSeg r).dw1) ∧
         (x.pinned = false → dw 0x3B0 = x.loopCount.setWidth 64) ∧ dw 0x3B8 = x.loopStart ∧ dw 0x3C0 = x.loopEnd ∧
         (∀ j : Fin 8, dw (0x3C8 + 8 * j.val) = s.csr s.cur (csrs.getD j.val .cstat)) ∧
         (∀ j : Fin 4, BitVec.ofNat 32 (img / 256 ^ (0x408 + 4 * j.val)) = tget 0 x.cword j.val) ∧
         dw 0x418 = s.csr s.cur .cspill ∧ dw 0x420 = s.csr s.cur .covf ∧
         BitVec.ofNat 32 (img / 256 ^ 0x428) = x.sendSeq ∧ BitVec.ofNat 32 (img / 256 ^ 0x42C) = x.cquota) ∧
        t.me = { x with pc := x.pc + 8, run := .active, kick := none }) ∧
      (let own := s.ownBytes (some s.myCore) ea.toNat 1072
       let img := overlay (k.s.cells.read ea.toNat 1072) own
       let dw (o : Nat) : Word := BitVec.ofNat 64 (img / 256 ^ o)
       k.s.consumes ea.toNat 1072 own = false → ∃ t, exec (.ctxload a) s = .next t ∧ Claim.SameBytes s t ∧ t.net = s.net ∧
        (∀ r : GReg, r ≠ 0 → t.me.readG r = dw (8 * (r.val - 1))) ∧ t.me.pc = dw 0xF8 ∧ t.me.run = .active ∧
        (∀ r : VReg, t.me.readV r = BitVec.ofNat 512 (img / 256 ^ (0x100 + 64 * r.val))) ∧
        (∀ r : KReg, t.me.readK r = dw (0x300 + 8 * r.val)) ∧
        (∀ r : HReg, t.me.readH r = BitVec.ofNat 16 (img / 256 ^ (0x320 + 2 * r.val))) ∧
        (∀ r : SReg, (t.me.readSeg r).base = (dw (0x330 + 16 * r.val)).extractLsb' 0 52 ∧
          (t.me.readSeg r).limit = (dw (0x338 + 16 * r.val)).extractLsb' 0 40 ∧
          (t.me.readSeg r).r = (dw (0x338 + 16 * r.val)).getLsbD 40 ∧ (t.me.readSeg r).w = (dw (0x338 + 16 * r.val)).getLsbD 41 ∧
          (t.me.readSeg r).x = (dw (0x338 + 16 * r.val)).getLsbD 42 ∧ (t.me.readSeg r).a = (dw (0x338 + 16 * r.val)).getLsbD 43) ∧
        t.me.loopCount = (dw 0x3B0).setWidth 32 ∧ t.me.loopStart = dw 0x3B8 ∧ t.me.loopEnd = dw 0x3C0 ∧
        t.me.cstat = (dw 0x3C8).setWidth 12 ∧ t.me.hl = (dw 0x3D0).getLsbD 1 ∧ t.me.da = (dw 0x3D0).getLsbD 2 ∧
        t.me.gbt = (dw 0x3D0).getLsbD 3 ∧ t.me.nlt = (dw 0x3D0).getLsbD 4 ∧ t.me.bps = (dw 0x3D0).getLsbD 5 ∧
        t.me.spillBase = (dw 0x418).extractLsb' 0 14 ∧ t.me.spillLimit = (dw 0x418).extractLsb' 17 15 ∧
        t.me.ovfLen = (dw 0x418).extractLsb' 32 32 ∧
        (¬((dw 0x3B8).toNat ≤ (dw 0xF8).toNat ∧ (dw 0xF8).toNat < (dw 0x3C0).toNat ∧ (dw 0x3B0).toNat % 2 ^ 32 ≠ 0) → t.me.pinned = false) ∧
        t.me.cfemask = (dw 0x3D8).setWidth 5 ∧ t.me.cwlim = (dw 0x3E0).setWidth 16 ∧ t.me.ctrap = (dw 0x3E8).setWidth 8 ∧
        t.me.cepc = (dw 0x3F0).extractLsb' 2 62 ∧ t.me.ceaddr = dw 0x3F8 ∧ t.me.cvec = (dw 0x400).extractLsb' 2 62 ∧
        t.me.covf = (dw 0x420).extractLsb' 4 60 ∧ t.me.sendSeq = BitVec.ofNat 32 (img / 256 ^ 0x428) ∧
        t.me.lap = x.lap ∧ t.me.cquota = x.cquota ∧ t.me.cword = x.cword)) ∧
    ∀ i ∈ [Instr.ctxsave a, .ctxload a],
      (x.hl = false → Traps i s 0x03 0 x.pc) ∧
      (x.hl = true → ea.toNat % 16 ≠ 0 ∨ 0x40000 < ea.toNat + 1072 → ∃ t, exec i s = .next t ∧ t.me.run = .halted ∧
        t.me.ctrap = (if ea.toNat % 16 ≠ 0 then 0x0B else 0x04) ∧ t.me.ceaddr = ea)

/-- O40. TEND waits while a posted-store counter is not zero, and then while a command of its engines, or a due entry of its
launch’s schedule that has not fired, is left. Once quiet it is performed: its launch’s DONE rises by one and the completion
counter in global memory holds the new count (on a plain page in memory with room in the undo region and no write of dispatch
waiting). With no further task for the tile the context is unbound, idle, without a reservation, and the tile counts as
finished. With one, a launch with DET = 0 leaves the context bound and idle with its pc after TEND, and one with DET = 1 starts
the task at once when its core is prepared, no seal stands on its die and no debugger holds it: the context runs at ENTRY at
task level with the task in g1 and ARG in g3. The last unit of a running launch makes it COMPLETE.
[04_work_hierarchy_and_squads.md, R65, R67, R70, R71, R72] -/
def Obligations.TaskEnd : Prop :=
  ∀ (s : State), let x := s.me
    let quiet : Prop := x.near = 0 ∧ x.far = 0 ∧ x.mem = 0 ∧ s.commandsOf s.cur = []
    let l := x.row.launch.toNat
    let due : Prop := ∃ q ∈ (s.core s.myCore).sched, q.launch = l ∧ s.scheduleDue s.myCore q = true
    (¬(x.near = 0 ∧ x.far = 0 ∧ x.mem = 0) → ∃ t, exec .tend s = .next t ∧ Waits s t .counters) ∧
    (x.near = 0 ∧ x.far = 0 ∧ x.mem = 0 → s.commandsOf s.cur ≠ [] → ∃ t, exec .tend s = .next t ∧ Waits s t .commands) ∧
    (quiet → due → ∃ t, exec .tend s = .next t ∧ Waits s t .commands) ∧
    (∀ q, quiet → ¬due → s.launch l = some q →
      let va := jaddr q.job q.record.cntaddr.toNat
      let page := s.pageAt va
      let next := (Launch.give { q with done := q.done + 1 } x.tile).nextTask x.tile
      (q.done + 1 ≠ q.record.tasks → va % 8 = 0 → page.discarded = false → page.irrevocable = false → page.frame ≠ none → s.owes va = false →
        FramesOk s → undoBytes (s.die (dieOf page.home)).undo + 72 ≤ 2 ^ 30 →
        ∃ t q', exec .tend s = .next t ∧ t.launch l = some q' ∧ q'.done = q.done + 1 ∧ q'.state = q.state ∧
          t.gRead va 8 = counterWord q.state (q.done + 1) ∧ (∀ b, (∀ j < 8, b ≠ va + j) → t.gRead b 1 = s.gRead b 1) ∧
          (next = none → t.me.run = .idle ∧ t.me.resv = none ∧ t.me.row.v = false ∧ q'.finished = q.finished ++ [x.tile]) ∧
          (next ≠ none → q.record.det = false → t.me.run = .idle ∧ t.me.resv = none ∧ t.me.row = x.row ∧
            t.me.pc = x.pc + 8 ∧ q'.finished = q.finished ∧ ∀ r, t.me.readG r = x.readG r) ∧
          (∀ n, next = some n → q.record.det = true → x.row.v = true → q.state = .running → q.bound = true →
            q.prepared.contains s.myCore = true → s.phaseKnown (dieOf s.cur) q.job q.phase = true → x.dbgHalt = false →
            (s.die (dieOf s.cur)).prepared = false →
            t.me.run = .active ∧ t.me.pc = q.record.entry ∧ t.me.hl = false ∧ t.me.task = BitVec.ofNat 32 n ∧
            t.me.readG 1 = BitVec.ofNat 64 n ∧ t.me.readG 3 = q.record.arg ∧ t.me.resv = none ∧ t.me.row = x.row)) ∧
      (q.done + 1 = q.record.tasks → q.state = .running →
        ∃ t q', exec .tend s = .next t ∧ t.launch l = some q' ∧ q'.done = q.record.tasks ∧ q'.state = .complete)) ∧
    (quiet → ¬due → s.launch l = none → ∃ t, exec .tend s = .next t ∧ t.me.run = .idle ∧ t.me.resv = none)

/-! ### Events: messages -/

/-- The message is in flight, and its destination takes it now. -/
def Claim.Arrives (s : State) (m : Msg) : Prop :=
  s.msg m.id = some m ∧ s.ready m = true ∧ m.retry = false ∧ m.recorded = false

/-- The message arrives at a core whose present owner it is for. -/
def Claim.AtCore (s : State) (m : Msg) (core : CoreId) : Prop :=
  Claim.Arrives s m ∧ m.dest = .core core ∧ s.waitsAt core m.launch = false

/-- What comes back to a sender is taken now. -/
def Claim.Back (s : State) (m : Msg) : Prop := s.msg m.id = some m ∧ s.inOrder m = true

/-- No seal has to carry the message. -/
def Claim.Uncarried (s : State) (m : Msg) : Prop := ∀ d ∈ s.dies, d.2.carried.contains m.id = false

/-- The message has left the network. -/
def Claim.Taken (s t : State) (m : Msg) : Prop := t.net = s.net.filter fun q => q.id != m.id

/-- The message has left the network and an answer to its sender has entered it. -/
def Claim.Answered (s t : State) (m : Msg) (body : Body) : Prop :=
  ∃ q, t.net = (s.net.filter fun x => x.id != m.id) ++ [q] ∧ q.src = m.src ∧ q.dest = .ctx m.src ∧ q.launch = m.launch ∧ q.body = body

/-- O41. A posted store or mailbox increment that arrives at its core is performed and acknowledged; a load there is answered with
its bytes; a recorded full/empty access is served when its granules are in the state it waits for; a retried message is sent
again, last. At the home of a resident page a load is answered, a store is performed on an ordinary page, held on an irrevocable
one, and a load of a page that is not resident records the context and answers with the page-wait mark. PAGE_WAIT drops the
context until the wake, PAGE_WAKE makes the page resident, discarded if that is its choice, and its contexts issue again, and
HOME_MOVE, with room in the new port’s buffer for the page’s updates and in the new die’s hold queue for its held writes,
changes the home of that page only. [02_module_and_its_parts.md, R439; 05_memory_spaces_and_splits.md, R96, R106, R107, R117;
22_memory_and_synchronisation_faults.md, R394, R395, R396] -/
def Obligations.MessagesAtCoresAndHomes : Prop :=
  ∀ (s : State) (m : Msg) (core : CoreId) (page : Nat),
    let die := dieOf (s.page page).home
    (Claim.AtCore s m core → Claim.Uncarried s m → (s.core core).undo.length ≤ 100 →
      (∀ k off size data ea, m.body = .store k off size data .plain ea → size ≤ 64 → (s.core core).s.poisonedPart off size = false →
        ∃ t, exec (.remoteWriteArrival m.id) s = .next t ∧ Claim.StoredS s t core off size data ∧ Claim.Answered s t m (.ack k m.id)) ∧
      (∀ k i v, m.body = .mbInc k i v → ∃ t, exec (.remoteWriteArrival m.id) s = .next t ∧ Claim.SameBytes s t ∧
        Claim.Answered s t m (.ack k m.id) ∧ ∀ c n, tget 0 (t.core c).mb n =
          if c = core ∧ n = i.toNat then tget 0 (s.core c).mb n + v else tget 0 (s.core c).mb n)) ∧
    (Claim.AtCore s m core → ∀ off size low at_, m.body = .load off size .plain low at_ →
      let own := s.bytesFor m (some core) off size
      (s.core core).s.consumes off size own = false →
      ∃ t, exec (.remoteRequestArrival m.id) s = .next t ∧ Claim.SameBytes s t ∧
        Claim.Answered s t m (.reply m.id (overlay ((s.core core).s.cells.read off size) own) 0 .ok)) ∧
    (∀ off size low at_ g w, s.msg m.id = some m → m.body = .load off size .first low at_ → (s.core core).feWait = [w] →
      let own := s.bytesFor m (some core) off size
      w.ctx = m.src → w.msg = some m.id → w.off = off → w.size = size → w.wantFull = true → w.touches g = true →
      (s.core core).allFe off size true = true → s.savedFor core m.launch = false → (s.core core).s.consumes off size own = false →
      ∃ t, exec (.fullEmptyServe core g) s = .next t ∧ Claim.SameBytes s t ∧ (t.core core).feWait = [] ∧
        Claim.Answered s t m (.reply m.id (overlay ((s.core core).s.cells.read off size) own) 0 .ok)) ∧
    (s.msg m.id = some m → m.retry = true → exec (.retryNotice m.id) s =
      .next { s with net := (s.net.filter fun q => q.id != m.id) ++ [{ m with retry := false }] }) ∧
    (Claim.Arrives s m → m.dest = .home page → (s.page page).resident = true → (s.page page).discarded = false →
      (∀ va size low at_, m.body = .load va size .plain low at_ → low ≤ size → (s.die die).hold = [] →
        let a := jplus va low
        let k := s.core (coreOf m.src)
        let ownS := s.bytesFor m (some (coreOf m.src)) at_ low
        (∀ i < size - low, s.homePoisoned page (jplus a i) 1 = false) → k.s.consumes at_ low ownS = false →
        ∃ t, exec (.homeAccess m.id) s = .next t ∧ Claim.SameBytes s t ∧
          Claim.Answered s t m (.reply m.id (overlay (k.s.cells.read at_ low) ownS +
            256 ^ low * overlay (s.gRead a (size - low)) (s.bytesFor m none a (size - low))) 0 .ok)) ∧
      (∀ k va size data fe ea, m.body = .store k va size data fe ea → page = va / 65536 → 0 < size →
        va % 64 + size ≤ 64 → Claim.Uncarried s m → s.lowerPart m = none →
        ((s.page page).irrevocable = false → s.gPoisonedPart va size = false → undoBytes (s.die die).undo + 72 ≤ 2 ^ 30 →
          (s.page page).frame ≠ none → FramesOk s →
          ∃ t, exec (.homeAccess m.id) s = .next t ∧ Claim.Answered s t m (.ack k m.id) ∧
            ∀ a, t.gRead a 1 = if va ≤ a ∧ a < va + size then data / 256 ^ (a - va) % 256 else s.gRead a 1) ∧
        ((s.page page).irrevocable = true → s.inFmbox va = false → s.gPoisonedPart va size = false → (s.die die).hold.length < 4096 →
          ∃ t, exec (.homeAccess m.id) s = .next t ∧ Claim.Answered s t m (.ack k m.id) ∧ t.gmem = s.gmem ∧
            (t.die die).hold = (s.die die).hold ++
              [{ va := va, size := size, data := data % 256 ^ size, split := s.seals.split, poison := false,
                 writer := some (m.src, m.launch, ea) }]))) ∧
    (Claim.Arrives s m → m.dest = .home page → (s.page page).resident = false → ∀ va size low at_, m.body = .load va size .plain low at_ →
      ∃ t, exec (.homeAccess m.id) s = .next t ∧ Claim.SameBytes s t ∧ (t.page page).waiters = (s.page page).waiters ++ [m.src] ∧
        Claim.Answered s t m (.reply m.id page 0 .pageWait)) ∧
    (∀ of_ f, m ∈ s.net → m.body = .reply of_ page f .pageWait →
      (∀ q ∈ s.net, q.src = m.src → (∃ o p g, q.body = .reply o p g .pageWait) → q = m) →
      s.savedFor (coreOf m.src) m.launch = false → s.inOrder m = true → s.present m = true →
      ∃ t, exec (.pageWait m.src) s = .next t ∧ Claim.SameBytes s t ∧ (t.ctx m.src).run =
        (if (s.page page).waiters.contains m.src then .waiting (.page page) else .active) ∧
        ((s.core (coreOf m.src)).pipe.asking of_ = none → Claim.Taken s t m ∧ (t.ctx m.src).pc = (s.ctx m.src).pc) ∧
        (∀ q, (s.core (coreOf m.src)).pipe.asking of_ = some q → (t.ctx m.src).pc = q.addr)) ∧
    (∀ discard, ∃ t, exec (.pageWake page discard) s = .next t ∧ Claim.SameBytes s t ∧ (t.page page).resident = true ∧
      (t.page page).waiters = [] ∧ (t.page page).discarded = ((s.page page).discarded || discard) ∧
      ∀ c, (t.ctx c).run = if c ∈ (s.page page).waiters ∧ (s.ctx c).run = .waiting (.page page) then .active else (s.ctx c).run) ∧
    (∀ port, let of_ (l : List Update) := (l.filter fun u => u.va / 65536 == page).length
      let a := s.cluster (s.page page).home
      of_ (a.holding ++ a.ring) + (s.cluster port).holding.length ≤ 16 →
      die = dieOf port ∨ ((s.die die).hold.filter fun w => w.va / 65536 == page).length + (s.die (dieOf port)).hold.length ≤ 4096 →
      ∃ t, exec (.homeMove page port) s = .next t ∧ Claim.SameBytes s t ∧ (t.page page).home = port ∧
      ∀ p, p ≠ page → (t.page p).home = (s.page p).home)

/-- O42. Taken in the order in which its endpoint sent it, an acknowledgement lowers the counter of its kind and removes the store
from the store buffer. To a context that awaits it outside the pipe: a reply to a load writes the register that the load names,
and the context goes on after it; a reply that no context awaits is discarded. The fence sequencer answers a stamp request with
the next stamp, and the stamp lets its FENCE.G complete. The answer to SQOPEN writes the handle to h[d] and its status to g[b];
that to SQINFO, SQVOTE, SQRED, SQSCAN, SQARRIVE or SQCLOSE is written to g[d]; SQJOIN, SQLEAVE, SQBAR and SQWAIT go on with no
register written; an answer with a reason traps SQUAD. [05_memory_spaces_and_splits.md, R100, R102;
09_memory_and_synchronisation_instructions.md, R188, R199, R208; 20_instruction_fault_catalogue.md, R379] -/
def Obligations.AnswersAtTheirSenders : Prop :=
  ∀ (s : State) (m : Msg), Claim.Back s m → let x := s.ctx m.src
    let p := (s.core (coreOf m.src)).pipe
    let goesOn (t : State) (bytes : Nat) : Prop := Claim.Taken s t m ∧ Claim.SameBytes s t ∧
      (t.ctx m.src).pc = x.pc + BitVec.ofNat 64 bytes ∧ (t.ctx m.src).run = .active
    (∀ k n, m.body = .ack k n → s.savedFor (coreOf m.src) m.launch = false → x.row.launch.toNat = m.launch → x.count k ≠ 0 →
      ∃ t, exec (.postedStoreAck m.id) s = .next t ∧ Claim.Taken s t m ∧ Claim.SameBytes s t ∧
        (t.ctx m.src).count k = x.count k - 1 ∧
        (t.core (coreOf m.src)).storeBuf = (s.core (coreOf m.src)).storeBuf.filter fun e => e.msg != n) ∧
    (∀ d a o w of_ v, ∀ e ∈ Claim.loads d a o w, m.body = .reply of_ v 0 .ok → s.shut m = false → s.present m = true →
      p.asking of_ = none →
      x.run = .reply e.1 → ∃ t, exec (.remoteReplyArrival m.id) s = .next t ∧ goesOn t e.2.2.1 ∧
        ∀ r, (t.ctx m.src).readG r = if r = d ∧ r ≠ 0 then e.2.2.2.2 v else x.readG r) ∧
    (∀ of_ v f mark, m.body = .reply of_ v f mark → s.shut m = false → s.present m = false →
      exec (.remoteReplyArrival m.id) s = .next (s.dropMsg m.id)) ∧
    (m.body = .stampReq → s.ready m = true → ∃ t q, exec (.fenceStampRequest m.id) s = .next t ∧
      t.net = (s.net.filter fun z => z.id != m.id) ++ [q] ∧ q.dest = .ctx m.src ∧ q.body = .stamp (s.sequencer.served + 1) ∧
      t.sequencer.served = s.sequencer.served + 1 ∧ ∀ d, tget 0 q.clock d = tget 0 t.sequencer.clock d) ∧
    (∀ n, m.body = .stamp n → s.shut m = false → s.present m = true → p.asked (kOf m.src) = none →
      ∃ t, exec (.fenceStampReturn m.id) s = .next t ∧ goesOn t 8 ∧ ∀ r, (t.ctx m.src).readG r = x.readG r) ∧
    (∀ v st gen performed reason, m.body = .answer v st 0 reason performed gen → s.shut m = false → s.present m = true →
      p.asked (kOf m.src) = none →
      (∀ (d a b : GReg) (h : HReg) (gang self : Bool) (n : BitVec 24) (vop : VoteOp) (op : RedOp) (ty : ElemTy),
        let open_ : Instr := .sqopen gang h a n b
        let valued : List Instr := [.sqinfo self d h, .sqclose d h, .sqarrive d h, .sqvote vop d h b, .sqred op ty d h b, .sqscan op ty d h b]
        let plain : List Instr := [.sqjoin h b, .sqleave h, .sqbar h, .sqwait h]
        let answered (hs : HReg → BitVec 16) (g : GReg → Word) : Prop := ∃ t, exec (.squadAnswer m.id) s = .next t ∧ goesOn t 8 ∧
          (∀ r, (t.ctx m.src).readH r = hs r) ∧ ∀ r, (t.ctx m.src).readG r = g r
        (x.run = .reply open_ → reason = 0 →
          answered (fun r => if r = h then v.setWidth 16 else x.readH r) fun r => if r = b ∧ r ≠ 0 then st else x.readG r) ∧
        (∀ i ∈ valued, x.run = .reply i → reason = 0 → answered x.readH fun r => if r = d ∧ r ≠ 0 then v else x.readG r) ∧
        (∀ i ∈ plain, x.run = .reply i → reason = 0 → answered x.readH x.readG) ∧
        ∀ i ∈ open_ :: (valued ++ plain), x.run = .reply i →
          (reason ≠ 0 → x.hl = false → ∃ t, exec (.squadAnswer m.id) s = .next t ∧ (t.ctx m.src).hl = true ∧
            (t.ctx m.src).pc = x.cvec ++ 0#2 ∧ (t.ctx m.src).ctrap = 0x0C ∧ (t.ctx m.src).cepc =
              (if performed then x.pc + 8 else x.pc).extractLsb' 2 62 ∧ ∀ r, (t.ctx m.src).readG r = x.readG r)))

/-- O43. At the receiver the granule of index NEXTIN that finds its ring granule empty is stored there, sets its full bit, counts
NEXTIN up and is acknowledged. At the sender an acknowledgement of a direct granule lowers OUT, of a refill raises REFILLED and
clears INFL; a returned granule enters the spill ring at SPILLED, which rises, and OUT falls; a refused refill clears INFL; a
request sets POKE. The copy engine sends the head of the spill ring when poked and none is in flight, with POKE cleared and INFL
set. A named message enters a table with room and is acknowledged, else goes back for a retry.
[09_memory_and_synchronisation_instructions.md, R202, R203, R204, R205] -/
def Obligations.ChannelAndNamedMessageEvents : Prop :=
  ∀ (s : State) (m : Msg) (core : CoreId) (rec : Nat),
    let room (c : CoreId) : Prop := (s.core c).undo.length ≤ 100
    let sender := coreOf m.src
    let atSender : Prop := Claim.Back s m ∧ s.savedFor sender m.launch = false ∧ s.crossing (dieOf sender) = false ∧ room sender
    let r := (s.core sender).sendRec rec
    let p := r.sbase + 16 * (r.spilled % r.slen)
    (∀ k srec i data poison, Claim.AtCore s m core → m.body = .granule k srec rec i data false poison → room core →
      let q := (s.core core).recvRec rec
      let at_ := q.rbase + 16 * (q.nextin % q.rlen)
      q.rlen ≠ 0 → q.rbase + 16 * q.rlen ≤ 0x40000 → q.clean = true → i.toNat = q.nextin → tget false (s.core core).fe (at_ / 16) = false →
      at_ + 16 ≤ rec ∨ rec + 32 ≤ at_ →
      ∃ t, exec (.granuleArrival m.id) s = .next t ∧ Claim.Answered s t m (.delivered k srec false m.id) ∧
        (t.core core).recvRec rec = { q with nextin := (q.nextin + 1) % 2 ^ 32 } ∧
        (t.core core).s.cells.read at_ 16 = data.toNat ∧ tget false (t.core core).fe (at_ / 16) = true) ∧
    (∀ k n, atSender → m.body = .delivered k rec false n → r.clean = true → 0 < r.out →
      ∃ t, exec (.deliveryAck m.id) s = .next t ∧ Claim.Taken s t m ∧ (t.core sender).sendRec rec = { r with out := r.out - 1 }) ∧
    (∀ k n, atSender → m.body = .delivered k rec true n → r.clean = true → ∃ t, exec (.deliveryAck m.id) s = .next t ∧
      Claim.Taken s t m ∧ (t.core sender).sendRec rec = { r with refilled := (r.refilled + 1) % 2 ^ 32, infl := false }) ∧
    (∀ k i data n, atSender → m.body = .returned k rec i data n → r.clean = true → 0 < r.out → r.slen ≠ 0 →
      p + 16 ≤ rec ∨ rec + 32 ≤ p → ∃ t, exec (.granuleReturn m.id) s = .next t ∧ Claim.Taken s t m ∧
        (t.core sender).s.cells.read p 16 = data.toNat ∧
        (t.core sender).sendRec rec = { r with spilled := (r.spilled + 1) % 2 ^ 32, out := r.out - 1 }) ∧
    (atSender → m.body = .refused rec → r.clean = true → ∃ t, exec (.refillRefused m.id) s = .next t ∧ Claim.Taken s t m ∧
      (t.core sender).sendRec rec = { r with infl := false }) ∧
    (Claim.AtCore s m core → m.body = .refillReq rec → room core → ((s.core core).sendRec rec).clean = true →
      ∃ t, exec (.refillRequest m.id) s = .next t ∧ Claim.Taken s t m ∧
        (t.core core).sendRec rec = { (s.core core).sendRec rec with poke := true }) ∧
    (let q := (s.core core).sendRec rec
     let head := q.sbase + 16 * (q.refilled % q.slen)
     let c := s.refiller core rec
     room core → s.crossing (dieOf core) = false → q.infl = false → q.poke = true → q.spilled ≠ q.refilled → q.slen ≠ 0 → q.clean = true → s.reaches c.1 q.dest = true →
      ∃ t n k i poison, exec (.channelRefill core rec) s = .next t ∧ t.net = s.net ++ [n] ∧ n.src = c.1 ∧ n.launch = c.2 ∧
        n.dest = .core (mkId (xOf q.dest) (yOf q.dest) (cOf q.dest) 0) ∧
        n.body = .granule k rec q.rrec i (BitVec.ofNat 128 ((s.core core).s.cells.read head 16)) true poison ∧
        (t.core core).sendRec rec = { q with poke := false, infl := true }) ∧
    (∀ k n, Claim.AtCore s m core → m.body = .named k n →
      ((s.core core).named.length < 64 → Claim.Uncarried s m → ∃ t, exec (.namedMessageArrival m.id) s = .next t ∧
        Claim.Answered s t m (.ack k m.id) ∧ (t.core core).named = (s.core core).named ++ [n]) ∧
      (64 ≤ (s.core core).named.length → exec (.namedMessageArrival m.id) s =
        .next (s.modMsg m.id fun q => { q with retry := true })))

/-- O44. SQINFO reads the squad’s entry as it stands when the directory answers: .gen gives DEPARTED at bit 40, the number of
members in generation G at bits 39:16 and G at bits 15:0; .self gives member of G, join pending, leave pending and arrived in G
at bits 27 to 24 and the caller’s rank at bits 23:0, or 0xFF_FFFF for a caller that has none; every other bit is zero. At the
proxy of a domain squad, whose other members are in other modules, .self is the same and .gen gives G, and DEPARTED once a
member here has departed. [09_memory_and_synchronisation_instructions.md, R210] -/
def Obligations.SquadInfoWord : Prop :=
  ∀ (s : State) (m : Msg) (h : BitVec 16) (self : Bool) (q : Squad), Claim.Arrives s m →
    m.body = .squad h (.info self) → s.squadIn (s.jobFor m) h = some q →
    (q.proxy = true → self = false → ∃ t w, exec (.squadMessageArrival m.id) s = .next t ∧ Claim.Answered s t m (.answer w 0 0 0 true 0) ∧
      t.squads = s.squads ∧ w.toNat % 2 ^ 16 = q.gen.toNat ∧ w.toNat < 2 ^ 41 ∧ (q.departed = true → w.getLsbD 40 = true)) ∧
    (q.proxy = false ∨ self = true → ∃ t w, exec (.squadMessageArrival m.id) s = .next t ∧ Claim.Answered s t m (.answer w 0 0 0 true 0) ∧ t.squads = s.squads ∧
      (self = false → w.toNat = q.gen.toNat + 2 ^ 16 * ((q.members.filter fun p => p.active).length % 2 ^ 24) + 2 ^ 40 * q.departed.toNat) ∧
      (self = true → (∀ p, q.member m.src m.launch = some p →
          w.toNat = p.rank.toNat + 2 ^ 24 * (q.arrived p).toNat + 2 ^ 25 * p.leaving.isSome.toNat + 2 ^ 26 * (!p.active).toNat +
            2 ^ 27 * p.active.toNat) ∧
        (q.member m.src m.launch = none → w = 0xFFFFFF)))

/-- O45. A barrier of a member that may arrive counts its arrival and waits at the directory. A complete generation advances by one,
drops the members whose leave falls due, removes its contributions and answers those that wait for it. A killed context departs
its squad, which records DEPARTED (a membership that a saved image of its core holds stays). A deterministic update enters the
port’s buffer and is acknowledged. A vote counts the tile’s round; the round closes once every tile has voted or finished; each
port applies its updates of it and reports; the round is complete when all have, and the next one opens, while no seal is being
committed. [04_work_hierarchy_and_squads.md, R83, R84, R85, R86, R87, R88; 05_memory_spaces_and_splits.md, R97;
09_memory_and_synchronisation_instructions.md, R197, R198; 22_memory_and_synchronisation_faults.md, R408] -/
def Obligations.SquadGenerationsAndRounds : Prop :=
  ∀ (s : State) (m : Msg) (h : BitVec 16) (l : Nat) (port : ClusterId),
    (∀ q p, Claim.Arrives s m → m.body = .squad h .bar → s.squadIn (s.jobFor m) h = some q → q.member m.src m.launch = some p →
      (∀ k ∈ q.kept, k.ctx ≠ m.src) → p.unseen = none → p.leaving = none → q.ahead p.next ≤ 1 →
      ∃ t q', exec (.squadMessageArrival m.id) s = .next t ∧ t.squad h.toNat = some q' ∧ q'.gen = q.gen ∧
        q'.member m.src m.launch = some { p with arrivals := p.arrivals + 1, unseen := some p.next } ∧ q'.contribs = q.contribs ∧
        ∀ x ∈ t.net, x.id = m.id → x.recorded = true) ∧
    (∀ q, s.squad h.toNat = some q → q.complete = true → ∃ t q', exec (.generationComplete h) s = .next t ∧
      t.squad h.toNat = some q' ∧ q'.gen = q.gen + 1 ∧ q'.formed = true ∧ Claim.SameBytes s t ∧
      (∀ c, (∃ p ∈ q'.members, p.ctx = c) ↔ ∃ p ∈ q.members, p.ctx = c ∧ p.leaving ≠ some q.gen) ∧
      (∀ c ∈ q'.contribs, c.gen ≠ q.gen) ∧ ∀ c, c ∈ q.contribs → c.gen ≠ q.gen → c ∈ q'.contribs) ∧
    (∀ q p c, s.squad h.toNat = some q → s.departing q c = some p → (s.ctx c).run = .killed →
      ∃ t q', exec (.squadDeparture c h) s = .next t ∧ t.squad h.toNat = some q' ∧ q'.departed = true ∧ Claim.SameBytes s t) ∧
    (∀ op va x cmp ea tile round, Claim.Arrives s m → m.dest = .port port → m.body = .det op va x cmp ea l tile round →
      (s.pageAt va).resident = true → (s.cluster port).holding.length < 16 → Claim.Uncarried s m →
      ∃ t u, exec (.deterministicUpdateArrival m.id) s = .next t ∧ Claim.Answered s t m (.ack .mem m.id) ∧
        (t.cluster port).holding = (s.cluster port).holding ++ [u] ∧ u.launch = l ∧ u.round = round ∧ u.tile = tile ∧
        u.op = op ∧ u.va = va ∧ u.x = x ∧ u.cmp = cmp ∧ u.ctx = m.src ∧ t.gmem = s.gmem) ∧
    (∀ tile round q, s.msg m.id = some m → s.ready m = true → m.body = .vote tile round → s.launch m.launch = some q →
      ∃ t, exec (.roundCloseVote m.id) s = .next t ∧ Claim.Taken s t m ∧ t.launch m.launch =
        some { q with votes := tset 0 q.votes tile (max (tget 0 q.votes tile) (round + 1)) }) ∧
    (∀ q, s.launch l = some q → s.seals.committing = false →
      (q.closing = none → q.bound = true →
        (∀ i < q.record.ntiles, q.round < tget 0 q.votes i ∨ i ∈ q.finished) →
        ∃ ports, exec (.roundClose l) s = .next (s.setLaunch l (some { q with closing := some (q.round, ports) })) ∧
          ∀ p, p ∈ ports ↔ ∃ e ∈ s.clusters, e.1 = p ∧ ∃ u ∈ e.2.holding ++ e.2.ring, u.launch = l ∧ u.round = q.round) ∧
      (∀ round ports, q.closing = some (round, ports) → port ∈ ports →
        (∀ u ∈ (s.cluster port).holding ++ (s.cluster port).ring, u.launch = l → u.round = round →
          (s.pageAt u.va).resident = true ∧ (s.pageAt u.va).irrevocable = true) →
        ∃ t, exec (.roundApply l port) s = .next t ∧ t.gmem = s.gmem ∧
          t.launch l = some { q with closing := some (round, ports.filter (· != port)) } ∧
          ∀ u, u ∈ (t.cluster port).holding ++ (t.cluster port).ring ↔
            u ∈ (s.cluster port).holding ++ (s.cluster port).ring ∧ ¬(u.launch = l ∧ u.round = round)) ∧
      (∀ round ports u, q.closing = some (round, ports) → port ∈ ports → (s.cluster port).holding = [u] → (s.cluster port).ring = [] →
        u.launch = l → u.round = round → u.op = .add → u.va % 8 = 0 → (s.pageAt u.va).frame ≠ none → (s.pageAt u.va).resident = true →
        (s.pageAt u.va).discarded = false → (s.pageAt u.va).irrevocable = false → s.gPoisoned u.va 8 = false →
        undoBytes (s.die (dieOf (s.pageAt u.va).home)).undo + 72 ≤ 2 ^ 30 →
        ∃ t, exec (.roundApply l port) s = .next t ∧ t.gRead u.va 8 = (s.gRead u.va 8 + u.x.toNat) % 2 ^ 64 ∧
          (t.cluster port).holding = []) ∧
      (∀ round, q.closing = some (round, []) → exec (.roundComplete l) s =
        .next (s.setLaunch l (some { q with closing := none, round := round + 1 }))))

/-! ### Events: a core, its pipe and its engines -/

/-- The context took a trap: handler level, at its cvec, with its cause, address and return address, and its registers as before. -/
def Claim.AtHandler (s t : State) (c : CtxId) (cause : BitVec 8) (ceaddr cepc : Word) : Prop :=
  (t.ctx c).hl = true ∧ (t.ctx c).pc = (s.ctx c).cvec ++ 0#2 ∧ (t.ctx c).run = .active ∧ (t.ctx c).ctrap = cause ∧
  (t.ctx c).ceaddr = ceaddr ∧ (t.ctx c).cepc = cepc.extractLsb' 2 62 ∧ ∀ r, (t.ctx c).readG r = (s.ctx c).readG r

/-- O46. A lap starts when the cycle counter is a multiple of 16: every context takes its row’s slot mask and a YIELD ends. A cycle
moves a launched packet one stage up and counts the counter up; a replay cycle only counts the replay down. The oldest due
output of a stage enters its empty result position; the tape result whose turn it is enters the tape’s; the oldest complete
unmarked instruction retires, once in a cycle; a freed tag, one of at most two in a cycle, puts its result into the registers. A
fetch block that a context has requested comes from the cluster’s cache or from memory into both. A marked complete instruction
at the tape takes its precise trap in its turn, or for a comparator with ACT = 0 halts its context, and is killed with the
younger ones; an imprecise trap is taken at the boundary with cepc the next pc to issue, at the end label of a pinned body its
start. None of these happens in a replay, which no further detection prolongs. A dropped write is recorded or counted.
[03_counterflow_core.md, R38, R44, R45, R46, R47, R48, R49, R50, R51, R52, R53, R54, R63; 19_traps_and_the_kill_wave.md, R351,
R353, R357, R361; 22_memory_and_synchronisation_faults.md, R397] -/
def Obligations.PipeEvents : Prop :=
  ∀ (s : State) (core : CoreId) (c : CtxId) (w : Siding),
    let k := s.core core
    let p := (s.core (coreOf c)).pipe
    let x := s.ctx c
    (k.cycle.toNat % 16 = 0 → k.lapBegun = false → ∃ t, exec (.lapStart core) s = .next t ∧ (t.core core).lapBegun = true ∧
      ∀ n < 16, let d := ctxOf core n
        (t.ctx d).mask = (s.ctx d).row.slots ∧
        (t.ctx d).run = if (s.ctx d).run = .waiting .lap then .active else (s.ctx d).run) ∧
    ((s.cluster (clusterOf core)).tripped = false →
      (∀ n, k.pipe.replay = n + 1 → ∃ t, exec (.pipeCycle core) s = .next t ∧ (t.core core).pipe.replay = n ∧
        (t.core core).cycle = k.cycle ∧ (t.core core).pipe.instrs = k.pipe.instrs) ∧
      (∀ n q, n < 8 → k.pipe.replay = 0 → k.pipe.instrs = [(n, q)] → q.launched = true → q.asks = none → q.parked = false →
        k.pipe.results = [] → k.pipe.returns = [] → k.pipe.retire = [] → k.pipe.sidings = [] → k.pipe.inject = [] →
        (∀ d ∈ ctxsOf core, ((s.ctx d).run = .idle ∨ (s.ctx d).run = .halted ∨ s.mayRun d = false) ∧ (s.ctx d).waitLimit = 0) →
        ∃ t, exec (.pipeCycle core) s = .next t ∧ (t.core core).pipe.instrs = [(n + 1, q)] ∧
          (t.core core).cycle = k.cycle + 1 ∧ (t.core core).lapBegun = false)) ∧
    (∀ e, k.pipe.replay = 0 → e.siding = w → e.stage ∈ [3, 5, 6, 7, 8] → k.pipe.dueOutput e.stage = some e → k.pipe.resultAt e.stage = none →
      (∀ f ∈ k.pipe.sidings, f.left = 0 → f.dead = false → f.stage = e.stage) →
      ∃ t, exec (.sidingOutputReentry core w) s = .next t ∧ (t.core core).pipe.results = k.pipe.results ++
          [(e.stage, { e.result with since := if e.stage = 8 then k.cycle.toNat + 1 else 0 })] ∧
        (∀ f ∈ (t.core core).pipe.sidings, f.result.tag = e.result.tag → f.dead = true) ∧
        ∀ q ∈ (t.core core).pipe.retire, q.tag = e.result.tag → q.complete = true) ∧
    (let now := (s.core (coreOf c)).cycle.toNat
      let p1 := p.settleInjections (s.lapOn (coreOf c)) now
      p.replay = 0 → ∀ e, p1.injection (fun j => (s.ctx (ctxOf (coreOf c) j)).mask.getLsbD (now % 16)) now = some e → e.result.ctx = kOf c →
      p1.resultAt 9 = none → ∃ t, exec (.tapeResultInjection c) s = .next t ∧
        (t.core (coreOf c)).pipe.results = p1.results ++ [(9, { e.result with since := now + 1 })] ∧
        (t.core (coreOf c)).pipe.inject = p1.inject.filter fun f => f.result.tag != e.result.tag) ∧
    (∀ q, p.replay = 0 → p.atTape (kOf c) = some q → q.complete = true → q.mark = none → p.retiredNow.getLsbD (kOf c) = false →
      ∃ t, exec (.instructionRetire c) s = .next t ∧
      (t.core (coreOf c)).pipe.retire = p.retire.filter (fun r => r.tag != q.tag) ∧
      (t.core (coreOf c)).pipe.retired = p.retired ++ [q.tag]) ∧
    (∀ tag rest r d v, p.replay = 0 → p.window (kOf c) = tag :: rest → p.freeable tag = true → tget 0 p.freedNow (kOf c) < 2 →
      p.landing.find? (fun r => r.tag == tag) = some r → r.vals = [(Fin.val (n := 32) d, v)] → ∃ t, exec (.tagFree c) s = .next t ∧
        (∀ g, (t.ctx c).readG g = if g = d ∧ g ≠ 0 then v.setWidth 64 else x.readG g) ∧
        (t.ctx c).cstat = x.cstat ||| r.flags ∧ tag ∉ (t.core (coreOf c)).pipe.window (kOf c)) ∧
    (∀ block, s.requested c (32 * block) = true → (s.page (pageOf (32 * block))).resident = true →
      let cached := (s.cluster (clusterOf c)).icache.find? fun e => e.1 == 32 * block
      ∃ t b, exec (.fetchBlockArrival c block) s = .next t ∧
        ((s.fetchWindow c).contains (32 * block) = true → (∀ e ∈ x.fetchBuf, e.1 ≠ 32 * block) → (32 * block, b) ∈ (t.ctx c).fetchBuf) ∧
        (32 * block, b) ∈ (t.cluster (clusterOf c)).icache ∧ (cached = none → b.toNat % 2 ^ 256 = s.gRead (32 * block) 32 ∧
          (b.toNat < 2 ^ 256 ↔ ∀ i < 4, s.gPoisoned (32 * block + 8 * i) 8 = false)) ∧
        (∀ e, cached = some e → b = e.2) ∧ (t.ctx c).pc = x.pc) ∧
    (∀ v, x.run = .waiting v → s.eligible c = true →
      exec (.contextRejoin c) s = .next { s with agenda := .context c :: s.agenda }) ∧
    (∀ q cause at_ back, p.atTape (kOf c) = some q → q.complete = true → q.mark = some (cause, at_, back) → cause ≠ 0x07 →
      q.performed = false → s.tapeServes c = true → (x.lap = true ∨ (s.tapeOrder (coreOf c)).head? = some c) →
      (q.halts = false → x.hl = false → ∃ t, exec (.preciseTrapTaken c) s = .next t ∧ Claim.AtHandler s t c cause at_ back ∧
        (∀ n < 4, tget 0 (t.ctx c).cword n = q.words.getD n 0) ∧ q.tag ∉ (t.core (coreOf c)).pipe.window (kOf c)) ∧
      (q.halts = true → ∃ t, exec (.preciseTrapTaken c) s = .next t ∧ (t.ctx c).dbgHalt = true ∧ (t.ctx c).bps = true ∧
        (t.ctx c).pc = q.addr ∧ (∀ r, (t.ctx c).readG r = x.readG r) ∧ q.tag ∉ (t.core (coreOf c)).pipe.window (kOf c))) ∧
    (∀ i rest, s.interruptible c = true → s.tapeServes c = true → x.run = .active → x.imprecise = i :: rest → x.hl = false →
      p.window (kOf c) = [] →
      let taken (back : Word) (count : BitVec 32) : Prop := ∃ t, exec (.impreciseTrapTaken c) s = .next t ∧
        Claim.AtHandler s t c i.cause i.ceaddr back ∧ (t.ctx c).loopCount = count ∧ (∀ n < 4, tget 0 (t.ctx c).cword n = 0) ∧
        (t.ctx c).imprecise = rest
      ((x.pinned = true → x.pc ≠ x.loopEnd) → s.codeWord c x.pc.toNat ≠ some 0 → taken x.pc x.loopCount) ∧
      (x.pinned = true → x.pc = x.loopEnd → 1 < x.loopCount.toNat → s.codeWord c x.loopStart.toNat ≠ some 0 →
        taken x.loopStart (x.loopCount - 1))) ∧
    (∀ stage, (k.pipe.replay = 0 → ∃ t, exec (.timingReplay core stage) s = .next t ∧ (t.core core).detections = k.detections + 1 ∧
        (t.core core).pipe.replay = 2) ∧
      (k.pipe.replay ≠ 0 → exec (.timingReplay core stage) s = .next s)) ∧
    (∀ (out : Bool) (addr : BitVec 52), ∃ t, exec (.discardedWrite c out addr) s = .next t ∧
      ((∀ i ∈ x.imprecise, i.cause ≠ 0x11) → (t.ctx c).imprecise =
        x.imprecise ++ [{ cause := 0x11, ceaddr := BitVec.ofNat 64 (2 ^ 63 * out.toNat + addr.toNat) }]) ∧
      (∀ i, x.imprecise = [i] → i.cause = 0x11 → i.ceaddr.extractLsb' 52 11 ≠ 0x7FF →
        (t.ctx c).imprecise = [{ i with ceaddr := i.ceaddr + 2 ^ 52 }]))

/-- O47. With every request of the cycle placed, the first one of a cluster is granted when its cost fits the budget beside what is
held, and its command may start; otherwise it waits. The head of an engine whose wait field is met, with no refill before it,
asks for its reservation once and starts when it has it; its request stands after those of earlier cycles, and beside one of its
own cycle in the order of engine kinds. A started QZERO whose accesses are not held completes: the 64 values of its tile are
zero, the command leaves the queue and its signal adds SINC to the mailbox counter. Once a unit of its launch has started on the
core, the next entry of a schedule fires when the stage counter has reached its stage: it is queued as a command of its context,
or refused; before that nothing happens. The last read of a batch’s command releases it.
[07_instruction_formats_and_opcode_map.md, R155; 11_matrix_and_copy_instructions.md, R233, R245, R251, R253;
13_dispatch_and_power.md, R292] -/
def Obligations.EngineEvents : Prop :=
  ∀ (s : State) (cl : ClusterId) (core : CoreId), let cl := clusterOf cl; let q := s.cluster cl; let k := s.core core
    (∀ r rest, q.requests = r :: rest →
      (∀ k e m, s.askerOf k e = some m → s.mayAsk k e m = true → m.asked = true) →
      (q.held + r.cost ≤ q.budget → r.e ≠ .collective → ∃ t, exec (.reservationGrant cl) s = .next t ∧
        (t.cluster cl).requests = (rest.map fun z => { z with cycle := 0 }) ∧ (t.cluster cl).held = q.held + r.cost ∧
        (t.core r.core).queue r.e = ((s.core r.core).queue r.e).map fun m => if m.id = r.cmd then { m with granted := true } else m) ∧
      (q.budget < q.held + r.cost → exec (.reservationGrant cl) s = .next s)) ∧
    (∀ e m rest, e ≠ .collective → k.queue e = m :: rest → k.firedQ = [] → m.started = false →
      let w := Instr.waitSig m.instr
      let met : Prop := m.met = true ∨ w.we = false ∨ (tget 0 k.mb w.wmb.toNat - w.wth).toNat < 2 ^ 15
      let old := s.cluster (clusterOf core)
      let new : Reservation := { cycle := k.cycle.toNat + 1, core := core, e := e, cmd := m.id, cost := Instr.cost m.instr }
      (met → s.refillFirst core e = false → m.asked = false → ∃ t rest', exec (.engineCommandStart core e) s = .next t ∧
        (t.core core).queue e = { m with asked := true } :: rest' ∧
        ((∀ r ∈ old.requests, r.cycle ≠ new.cycle) → (t.cluster (clusterOf core)).requests = old.requests ++ [new]) ∧
        (∀ r start first, old.requests = [r] → r.cycle = new.cycle → old.group = some (r.cycle, start, first) →
          let rank (f : EngineKind) : Nat := (kindIndex f + 4 - start) % 4
          (t.cluster (clusterOf core)).requests = if rank e < rank r.e then [new, r] else [r, new])) ∧
      (met → s.refillFirst core e = false → m.asked = true → m.granted = true → ∃ t m' rest', exec (.engineCommandStart core e) s = .next t ∧
        (t.core core).queue e = m' :: rest' ∧ m'.started = true ∧ m'.id = m.id ∧ m'.instr = m.instr) ∧
      (¬met → exec (.engineCommandStart core e) s = .next s)) ∧
    (∀ m rest td w, k.matrixQ = m :: rest → m.started = true → m.instr = .qzero td w → coreOf m.ctx = core →
      s.engineHeld m = false →
      let tile := (ent m.ents 0).base.toNat / 256
      ∃ t, exec (.engineCommandComplete core .matrix) s = .next t ∧ (∀ b < 256, (t.core core).q.cells.byte (256 * tile + b) = 0) ∧
        (∀ a, a < 256 * tile ∨ 256 * tile + 256 ≤ a → (t.core core).q.cells.byte a = k.q.cells.byte a) ∧
        (∀ n ∈ (t.core core).matrixQ, n.id ≠ m.id) ∧ (∀ n, n ∈ k.matrixQ → n.id ≠ m.id → ∃ z ∈ (t.core core).matrixQ, Claim.unmet z = Claim.unmet n) ∧
        tget 0 (t.core core).mb w.smb.toNat = tget 0 k.mb w.smb.toNat + w.sinc.setWidth 16) ∧
    ((∀ q ∈ k.sched, ∀ e, q.entries[q.fired]? = some e → 2 ^ 31 ≤ (k.stage - e.stage).toNat) →
      exec (.scheduleEntryFire core) s = .next s) ∧
    (∀ q e, k.sched = [q] → q.entries[q.fired]? = some e → s.onCore core q.launch = true → (k.stage - e.stage).toNat < 2 ^ 31 →
      (∃ l, s.launch q.launch = some l ∧ l.begunOn core = true) →
      let c := ctxOf core e.k.toNat
      ∀ i, e.instr = some i →
        (s.cmdRefusal c i (e.tgt.setWidth 64) true = none → ∃ t m, exec (.scheduleEntryFire core) s = .next t ∧
          (t.core core).firedQ.map Claim.unmet = (k.firedQ ++ [m]).map Claim.unmet ∧ m.instr = i ∧ m.ctx = c ∧ m.sched = true ∧
          (t.core core).sched = [{ q with fired := q.fired + 1 }]) ∧
        (∀ r, s.cmdRefusal c i (e.tgt.setWidth 64) true = some r → ∃ t, exec (.scheduleEntryFire core) s = .next t ∧
          (t.core core).firedQ = k.firedQ ∧ (t.core core).sched = [{ q with fired := q.fired + 1 }])) ∧
    (∀ c b m, (s.ctx c).closed = [b] → b.unread = [m.id] → coreOf c = core → k.copyQ = [m] → m.started = true →
      m.readDone = false → s.engineHeld m = false → s.refillFirst core (Instr.engine m.instr) = false → s.awayTarget m = none →
      (s.copyReads m).2.readDone = true → ((s.copyReads m).1.ctx c).closed = [b] →
      ∃ t b', exec (.batchReleased c b.num.toNat) s = .next t ∧ (t.ctx c).closed = [b'] ∧ b'.num = b.num ∧ b'.unread = [] ∧
        b'.unlanded = b.unlanded)

/-- O48. A taken core’s bound contexts get PRE; once drained its image is saved and its contexts are free; a free core’s image comes
back whole. A context whose quota is used up is held, and a refill sets it. At debug level INVASIVE a bound context halts, a
context halted by a debugger or by HALT resumes or steps, registers and comparators are written, and registers read into the
debug port; at another level none of this happens. CORE_REMAP puts a spare in the place of a core whose contexts are idle,
pre-empted or held: with none bound its memories are as after reset and its wait table stays; a core with three errors in a word
is pre-empted and retired into a spare. A scrub corrects single-bit errors of its line and poisons uncorrectable words. A wait
past its limit traps WAIT_LIMIT with KIND, limit and object: at once, on its packet at the tape, or as the refusal mark of a
load that comes back. [02_module_and_its_parts.md, R18; 13_dispatch_and_power.md, R288, R289, R290, R291;
18_fabric_host_and_security.md, R345; 19_traps_and_the_kill_wave.md, R364, R365, R366; 22_memory_and_synchronisation_faults.md,
R400, R401, R402, R403, R404] -/
def Obligations.PreemptionDebugAndRepairEvents : Prop :=
  ∀ (s : State) (core : CoreId) (c : CtxId) (v : Word) (n : Fin 4), let k := s.core core; let x := s.ctx c
    let bound := (ctxsOf core).filter fun d => (s.ctx d).row.v
    let cl := clusterOf core
    (bound ≠ [] → (∀ d ∈ bound, (s.ctx d).row.pre = false) → s.preemptDue core = true → s.crossing (dieOf core) = false →
      ∃ t, exec (.priorityPreemption core) s = .next t ∧ ∀ d ∈ bound, (t.ctx d).row.pre = true) ∧
    ((∃ d ∈ bound, (s.ctx d).row.pre = true) → s.coreDrained core = true → s.crossing (dieOf core) = false → ∃ t xs, exec (.priorityPreemption core) s = .next t ∧
      tget [] t.saved core = (k, xs) :: tget [] s.saved core ∧ ∀ d ∈ ctxsOf core, t.ctx d = Ctx.reset ∧
        tget Ctx.reset xs d = { s.ctx d with row := { (s.ctx d).row with pre := false } }) ∧
    (∀ i xs rest, tget [] s.saved core = (i, xs) :: rest → (∀ d ∈ s.mateCores core, d = core) → s.together core = true → bound = [] → s.coreDrained core = true →
      s.crossing (dieOf core) = false →
      ∃ t, exec (.coreRestore core) s = .next t ∧ tget [] t.saved core = rest ∧ (∀ d ∈ ctxsOf core, t.ctx d = tget Ctx.reset xs d) ∧
        (t.core core).s = i.s ∧ (t.core core).p = i.p ∧ (t.core core).q = i.q ∧ (t.core core).tt = i.tt ∧ (t.core core).mb = i.mb ∧
        (t.core core).cycle = k.cycle) ∧
    (x.row.v = true → x.quota ≠ 0xFFFFFFFF → x.cquota = 0 → x.quotaHeld = false →
      ∃ t, exec (.quotaPreemption c) s = .next t ∧ (t.ctx c).quotaHeld = true) ∧
    (∀ job j, s.job job = some j → s.gangs = [] → ∃ t, exec (.quotaRefill job) s = .next t ∧
      ∀ d, (s.ctx d).row.v = true → (s.ctx d).row.job.toNat = job → (t.ctx d).cquota = (s.ctx d).quota ∧
        ((s.ctx d).quota ≠ 0 → (t.ctx d).quotaHeld = false)) ∧
    (s.mgmt.dbg = .invasive →
      (x.row.v = true → x.dbgHalt = false → ∃ t, exec (.debuggerHalt c) s = .next t ∧ (t.ctx c).dbgHalt = true ∧
        ((∀ q, (s.core (coreOf c)).pipe.atTape (kOf c) = some q → q.mark = none) → ∀ r, (t.ctx c).readG r = x.readG r)) ∧
      (x.row.v = true → x.dbgHalt = true ∨ x.run = .halted →
        let run := if x.run = .halted then .active else x.run
        let inside : Bool := decide (x.loopStart.toNat ≤ x.pc.toNat ∧ x.pc.toNat < x.loopEnd.toNat) && x.loopCount != 0
        let y : Ctx := if x.pinned = true then x else { x with loopBuf := [], pinned := inside }
        exec (.debuggerResume c) s = .next (s.setCtx c { y with dbgHalt := false, bpArmed := x.bps, run := run }) ∧
        exec (.debuggerStep c) s = .next { s.setCtx c { y with dbgHalt := true, stepping := true, bpArmed := x.bps, run := run } with
          agenda := .context c :: s.agenda }) ∧
      (∀ g vw, (∃ t, exec (.debuggerWrite (.g c g) (some vw)) s = .next t ∧
          ∀ r, (t.ctx c).readG r = if r = g ∧ r ≠ 0 then vw.setWidth 64 else x.readG r) ∧
        exec (.debuggerWrite (.g c g) none) s = .next { s with mgmt := { s.mgmt with debugData := (x.readG g).setWidth 512 } }) ∧
      (∃ t, exec (.bpaddrWrite core n v) s = .next t ∧ tget Breakpoint.zero (t.core core).bp n.val =
        { tget Breakpoint.zero k.bp n.val with addr := v.extractLsb' 2 62 }) ∧
      (∃ t, exec (.bpctlWrite core n v) s = .next t ∧ tget Breakpoint.zero (t.core core).bp n.val =
        { tget Breakpoint.zero k.bp n.val with act := v.getLsbD 17, en := v.getLsbD 16, ctx := v.extractLsb' 0 16 })) ∧
    (s.mgmt.dbg ≠ .invasive → ∀ target vw g, ∀ i ∈ [Instr.debuggerHalt c, .debuggerResume c, .debuggerStep c, .debuggerWrite target (some vw),
      .debuggerWrite (.g c g) none,
      .bpaddrWrite core n v, .bpctlWrite core n v], exec i s = .next s) ∧
    (∀ (l : Fin 32) (phys : Fin 34), let at_ := mkId (xOf cl) (yOf cl) l.val 0
      (∀ d ∈ ctxsOf at_, (s.ctx d).run = .idle ∨ (s.ctx d).quotaHeld = true ∨ (s.ctx d).row.pre = true) → s.coreDrained at_ = true →
      s.crossing (dieOf at_) = false → phys.val ∈ (s.cluster (clusterOf at_)).spares → ∃ t, exec (.coreRemap cl l phys) s = .next t ∧
        (t.cluster (clusterOf at_)).phys l.val = phys.val ∧ (t.core at_).feWait = (s.core at_).feWait ∧
        ((∀ d ∈ ctxsOf at_, (s.ctx d).row.v = false) → (t.core at_).s = Mem.empty ∧ (t.core at_).tt = []) ∧
        ((∃ d ∈ ctxsOf at_, (s.ctx d).row.v = true) → t.core at_ = s.core at_)) ∧
    ((∃ e ∈ k.singles, 3 ≤ e.2) → s.crossing (dieOf core) = false →
      ((s.cluster cl).spares = [] → ∃ t, exec (.coreRetirement core) s = .next t ∧ (t.core core).singles = [] ∧
        (t.cluster cl).coreTable = (s.cluster cl).coreTable) ∧
      (∀ p rest, (s.cluster cl).spares = p :: rest → (∃ d ∈ bound, (s.ctx d).row.pre = false) →
        ∃ t, exec (.coreRetirement core) s = .next t ∧ ∀ d ∈ bound, (t.ctx d).row.pre = true) ∧
      (∀ p rest, (s.cluster cl).spares = p :: rest → (∀ d ∈ bound, (s.ctx d).row.pre = true) → s.coreDrained core = true →
        ∃ t, exec (.coreRetirement core) s = .next t ∧ (t.cluster cl).phys (cOf core) = p ∧
          ∀ d ∈ bound, (t.ctx d).row.pre = false)) ∧
    (∀ line w, 16 * line ≤ w → w < 16 * line + 16 → ∃ t, exec (.scrub (.coreS core) line) s = .next t ∧ Claim.SameBytes s t ∧
      (t.core core).s.wordMark w = (match k.s.wordMark w with
        | .sound => .sound | .single => .sound | .latent => .poisoned | .poisoned => .poisoned)) ∧
    (∀ line w, 8 * line ≤ w → w < 8 * line + 8 → ∃ t, exec (.scrub .hbm line) s = .next t ∧ Claim.SameBytes s t ∧
      t.gmem.wordMark w = (match s.gmem.wordMark w with
        | .sound => .sound | .single => .sound | .latent => .poisoned | .poisoned => .poisoned)) ∧
    (∀ kind obj, s.overdueLoad c = none → s.boundedWait c = some (kind, obj, false) → x.waitLimit ≠ 0 →
      x.waitLimit.toNat < x.waitLaps → kind < 2 ^ 16 →
      let ceaddr := BitVec.ofNat 64 (kind + 2 ^ 16 * x.waitLimit.toNat + 2 ^ 32 * obj.toNat)
      ((s.core (coreOf c)).pipe.atTape (kOf c) = none → x.hl = false → ∃ t, exec (.waitLimit c) s = .next t ∧
        Claim.AtHandler s t c 0x08 ceaddr x.pc) ∧
      (∀ q, (s.core (coreOf c)).pipe.atTape (kOf c) = some q → ∃ t, exec (.waitLimit c) s = .next t ∧
        ∀ z ∈ (t.core (coreOf c)).pipe.retire, z.tag = q.tag → z.complete = true ∧ z.mark = some (0x08, ceaddr, q.addr))) ∧
    (∀ q msg off, s.overdueLoad c = some (q, msg, off) → Instr.siding q.instr = some .ls → x.lap = false →
      ∃ t e, exec (.waitLimit c) s = .next t ∧ e ∈ (t.core (coreOf c)).pipe.sidings ∧ e.result.tag = q.tag ∧
        e.result.mark = some (0x08, BitVec.ofNat 32 off ++ q.limit ++ 1#16, q.addr))

/-- O49. A job’s interval requests a seal (deferred while a replica phase runs); a provisional seal begins for a request during one.
PREPARE begins a requested seal, marks the die and holds its quiescent contexts. A prepared die without live contexts and
without messages flushes its holding buffers, moves its undo buffers and becomes ready. With every die ready the commit record
takes the next split number and COMMIT goes out; a die that commits takes that number, frees its logs, resumes its contexts and
performs its held writes once in order, one to the management window’s page being handed to the module controller, and the last
one ends the seal. An abort resumes everything, keeps the split and asks for a new seal 1 ms later; the third in a row asks at
once. [05_memory_spaces_and_splits.md, R111, R113, R114, R115, R117; 24_recovery_containment_and_power_faults.md, R427, R431] -/
def Obligations.SealEvents : Prop :=
  ∀ (s : State) (d : Fin 36), let x := s.die d.val; let c := s.seals
    (∀ job j, s.job job = some j → j.sealInt ≠ 0 → s.replicaPhase = false →
      exec (.sealInterval job) s = .next { s with seals := { c with requested := true } }) ∧
    (c.requested = true → c.running = false → s.replicaPhase = true → c.provisional = false →
      ∃ t, exec .provisionalSeal s = .next t ∧ t.seals.running = true ∧ t.seals.runProvisional = true ∧ t.seals.requested = false) ∧
    (c.requested = true → c.running = false → s.replicaPhase = false → x.prepared = false → x.off = false →
      ∃ t, exec (.sealPrepare d) s = .next t ∧ t.seals.running = true ∧ t.seals.requested = false ∧ (t.die d.val).prepared = true ∧
        (t.die d.val).ready = false ∧ Claim.SameBytes s t ∧
        ∀ k ∈ s.liveOn d.val, s.sealQuiet k = true → (t.ctx k).sealHeld = true) ∧
    (c.running = true → c.committing = false → x.prepared = true → x.ready = false →
      ((∃ k ∈ s.liveOn d.val, (s.ctx k).sealHeld = false ∧ s.sealQuiet k = false) →
        ∃ t, exec (.dieReady d) s = .next t ∧ (t.die d.val).ready = false) ∧
      (s.liveOn d.val = [] → s.net = [] → s.saved = [] → twf Cluster.reset s.clusters = true →
        (∀ q, dieOf q = d.val → (s.cluster q).ring.length + (s.cluster q).holding.length ≤ 65536) →
        undoBytes x.undo + 72 * (s.clusters.map fun e => e.2.holding.length).sum ≤ 2 ^ 30 → ∃ t, exec (.dieReady d) s = .next t ∧ (t.die d.val).ready = true ∧ Claim.SameBytes s t ∧
        ∀ q, dieOf q = d.val → (t.cluster q).holding = [] ∧ (t.cluster q).ring = (s.cluster q).ring ++ (s.cluster q).holding)) ∧
    (c.running = true → c.committing = false →
      ((∀ n < 36, (s.die n).ready = true ∨ (s.die n).off = true) → (∀ e ∈ s.clusters, e.2.holding = []) →
        (∀ m ∈ s.net, ∀ v st f r p g, m.body ≠ .answer v st f r p g) → ∃ t, exec .sealReady s = .next t ∧
        t.seals.committing = true ∧ t.seals.commitRecord = c.split + 1 ∧ t.seals.split = c.split ∧ t.jobs = s.jobs ∧
        t.seals.nextArea.jobs = s.jobs ∧ t.seals.nextArea.launches = s.launches) ∧
      ((∃ n < 36, (s.die n).ready = false ∧ (s.die n).off = false) → exec .sealReady s = .next s)) ∧
    (c.committing = true → x.ready = true → x.committed = false → x.carried = [] → s.owed = [] →
      (x.hold = [] → ∃ t, exec (.sealCommit d) s = .next t ∧ t.seals.split = c.commitRecord ∧ Claim.SameBytes s t ∧
        (∀ k ∈ s.liveOn d.val, (t.ctx k).sealHeld = false) ∧
        (∀ k, dieOf k = d.val → (t.core k).undo = [] ∧ (t.core k).written = []) ∧
        ((∀ n < 36, n ≠ d.val → (s.die n).committed = true ∨ (s.die n).off = true) →
          t.seals.running = false ∧ t.seals.committing = false ∧ t.seals.area = c.nextArea ∧ t.seals.aborts = 0)) ∧
      (∀ w, x.hold = [w] → w.split ≠ c.commitRecord → w.poison = false → w.va % 64 + w.size ≤ 64 → s.gPoisonedPart w.va w.size = false →
        (s.pageAt w.va).frame ≠ none → FramesOk s → ∃ t, exec (.sealCommit d) s = .next t ∧ (t.die d.val).hold = [] ∧
          ((s.pageAt w.va).window = false → t.outside = w :: s.outside ∧ t.toWindow = s.toWindow) ∧
          ((s.pageAt w.va).window = true → t.outside = s.outside ∧ t.toWindow = s.toWindow ++ [(w.va % 2 ^ 16, w.size, w.data)]) ∧
          ∀ a, t.gRead a 1 = if w.va ≤ a ∧ a < w.va + w.size then w.data / 256 ^ (a - w.va) % 256 else s.gRead a 1)) ∧
    (c.running = true → c.committing = false → ∃ t, exec .sealAbort s = .next t ∧ t.seals.running = false ∧
      t.seals.split = c.split ∧ t.seals.area = c.area ∧ (∀ n, (t.die n).prepared = false) ∧
      t.seals.aborts = (if 2 ≤ c.aborts then 0 else c.aborts + 1) ∧ t.seals.rearm = decide (c.aborts < 2) ∧
      (c.requested = true ∨ 2 ≤ c.aborts → t.seals.requested = true) ∧
      (s.blockers = [] → t.seals.requested = (c.requested || decide (2 ≤ c.aborts)))) ∧
    (c.rearm = true → exec .resealTimer s = .next { s with seals := { c with rearm := false, requested := true } })

/-- No seal is in progress, no core is pre-empted, now or in the current seal, and no log or save area is damaged. -/
def Claim.Steady (s : State) : Prop :=
  s.seals.running = false ∧ s.seals.committing = false ∧ s.saved = [] ∧ s.seals.area.saved = [] ∧
  s.seals.damaged = []

/-- Every context stands as the current seal holds it, and the split has not changed. -/
def Claim.RolledBack (s t : State) : Prop :=
  t.seals.split = s.seals.split ∧ t.squads = s.seals.area.squads ∧ t.launches = s.seals.area.launches ∧
  ∀ c, t.ctx c = { tget Ctx.reset s.seals.area.ctxs c with resv := none }

/-- The watchdog of a queue has reached the limit of a stage that has not acted on the command it works at. -/
def Claim.WatchdogDue (s : State) (job queue stage limit : Nat) (p : Pending) : Prop :=
  limit ≠ 0 ∧ ∃ q, s.queue job queue = some q ∧ limit ≤ q.watch ∧ q.watchStage < stage ∧ s.currentWork job queue = some p ∧
    s.doneOf p = q.watchDone ∧ p.graph = q.watchOf

/-- A doubleword of a job's global memory on an ordinary page that has a frame of its own, with room in the undo region of its
die, and no write of dispatch waiting for that page. -/
def Claim.Writable (s : State) (job : Nat) (a : Word) : Prop :=
  let va := jaddr job a.toNat
  va % 8 = 0 ∧ (s.pageAt va).discarded = false ∧ (s.pageAt va).irrevocable = false ∧ (s.pageAt va).frame ≠ none ∧ FramesOk s ∧ s.owes va = false ∧
    undoBytes (s.die (dieOf (s.pageAt va).home)).undo + 288 ≤ 2 ^ 30

/-- O50. A rollback without a seal in progress puts every context, squad and launch back as the current seal holds it and restores
the logged lines. Containment under a job’s CONTAIN policy unbinds every context of the kill cell and leaves the cluster failed
and fenced. A domain fault rolls back and excludes the failed part; a core fault follows the policy of the job that holds its
cluster. Watchdog stage 1 cancels the launches of the queue’s command, stage 2 kills their contexts, stage 3 fails the cluster
of one that is left. Equal replica digests release the phase; unequal ones roll back, and the second time cancel the job and
have its clusters tested. A test kernel that verifies passes or fails its cluster by its signature. A fatal error stops every
context, writes the dump if a region for its header can be written (else an earlier dump stays, log 45), and cancels every job.
[24_recovery_containment_and_power_faults.md, R419, R422, R423, R424, R426, R429, R430, R431, R432, R435] -/
def Obligations.RecoveryEvents : Prop :=
  ∀ (s : State) (cl : ClusterId) (job queue : Nat),
    let ruined (t : State) : Prop := (t.cluster (clusterOf cl)).failed = true ∧ (t.cluster (clusterOf cl)).fenced = true
    (Claim.Steady s → (∃ t, exec .rollback s = .next t ∧ Claim.RolledBack s t) ∧
      (∀ d x e, s.dies = [(d, x)] → x.undo = [e] → e.core = none → (∀ k ∈ s.cores, k.2.undo = []) → s.jobs = [] →
        s.seals.area.jobs = [] → e.line % 64 = 0 → ringPort e.line = none → (s.pageAt e.line).frame ≠ none → FramesOk s →
        ∃ t, exec .rollback s = .next t ∧ ∀ a, t.gRead a 1 =
          if e.line ≤ a ∧ a < e.line + 64 then e.old / 256 ^ (a - e.line) % 256 else s.gRead a 1) ∧
      (∃ t, exec (.domainFault (.memoryPort cl)) s = .next t ∧ Claim.RolledBack s t ∧ ruined t) ∧
      (∀ p : Fin 48, (∀ r ∈ s.routes, ∃ e ∈ s.routes, e.1 % 512 = r.1 % 512 ∧ ∃ q ∈ e.2, q ≠ p.val) →
        ∃ t, exec (.domainFault (.ilufosko p)) s = .next t ∧ Claim.RolledBack s t ∧ (t.port p.val).down = true ∧
        ∀ r ∈ t.routes, p.val ∉ r.2) ∧
      (∀ n j, s.jobAt (clusterOf cl) = some (n, j) → j.pol = .rollback →
        ∃ t, exec (.coreFault cl) s = .next t ∧ Claim.RolledBack s t ∧ ruined t)) ∧
    (s.jobAt (clusterOf cl) = none → ∃ t, exec (.coreFault cl) s = .next t ∧ ruined t ∧ t.ctxs = s.ctxs ∧ Claim.SameBytes s t) ∧
    (∀ j, s.job job = some j → j.pol = .contain → j.covers cl = true → 0 < j.kcw → 0 < j.kch → s.launches = [] →
      ∃ t, exec (.containment job cl) s = .next t ∧ ruined t ∧
        ∀ c, (j.cell cl).holds c = true → (t.ctx c).row.v = false) ∧
    (∀ j p, s.job job = some j →
      (Claim.WatchdogDue s job queue 1 j.wd1 p →
        ∀ l q g, s.graph p.graph = some g → g.launches = [l] → g.cnt = none → s.launch l = some q → q.graph = p.graph →
          q.state = .running → q.bound = false →
          ∃ t q', exec (.watchdogStage1 job queue) s = .next t ∧ t.launch l = some q' ∧ q'.state = .cancelled ∧
            ∃ u, t.queue job queue = some u ∧ u.watchStage = 1) ∧
      (Claim.WatchdogDue s job queue 2 j.wd2 p → s.lingering job queue = [] → ∃ t u, exec (.watchdogStage2 job queue) s = .next t ∧
        t.queue job queue = some u ∧ u.watchStage = 2 ∧
        ∀ c, (s.ctx c).row.v = true → (s.ctx c).row.launch.toNat ∈ s.graphLaunches p.graph → (s.ctx c).run ≠ .halted →
          (t.ctx c).run = .killed) ∧
      (Claim.WatchdogDue s job queue 3 j.wd3 p → s.lingering job queue = [] →
        (∀ c ∈ s.ctxsOfLaunches (s.graphLaunches p.graph), (s.ctx c).run = .killed ∨ (s.ctx c).run = .halted) →
        ∃ t u, exec (.watchdogStage3 job queue) s = .next t ∧ t.queue job queue = some u ∧ u.watchStage = 3) ∧
      (∀ c, Claim.WatchdogDue s job queue 3 j.wd3 p → s.lingering job queue = [] → s.ctxsOfLaunches (s.graphLaunches p.graph) = [c] →
        (s.ctx c).run = .active → clusterOf c = clusterOf cl → (∀ e ∈ s.jobs, ∀ y, e.2 = some y → y.covers (clusterOf cl) = false) →
        ∃ t, exec (.watchdogStage3 job queue) s = .next t ∧ ruined t)) ∧
    (∀ j phase partner, s.job job = some j → j.rep = true → j.sealWait = true → j.matched = false → phase + 1 = j.ended →
      (s.digest job j = partner → ∃ t, exec (.replicaDigest job phase partner) s = .next t ∧
        t.job job = some { j with matched := true, disagreed := none } ∧ t.seals = { s.seals with requested := true, deferred := false } ∧
        t.ctxs = s.ctxs ∧ t.launches = s.launches ∧ Claim.SameBytes s t) ∧
      (s.digest job j ≠ partner → j.disagreed = some phase → ∃ t j', exec (.replicaDigest job phase partner) s = .next t ∧
        t.job job = some j' ∧ j'.cancelled = true ∧ ∀ k ∈ j.rect, (t.cluster k).testDue = true) ∧
      (s.digest job j ≠ partner → j.disagreed ≠ some phase → Claim.Steady s → s.seals.provisional = false →
        ∃ t j', exec (.replicaDigest job phase partner) s = .next t ∧ Claim.RolledBack s t ∧ t.job job = some j' ∧
          j'.disagreed = some phase)) ∧
    (∀ kernel sig, s.mgmt.verifies kernel = false → exec (.infieldTest cl kernel sig) s = .next s) ∧
    (∀ kernel sig, (∀ e ∈ s.ctxs, e.2.row.v = true → clusterOf e.1 ≠ clusterOf cl) →
      (∀ e ∈ s.saved, clusterOf e.1 ≠ clusterOf cl) → (s.cluster (clusterOf cl)).tripped = false → s.mgmt.verifies kernel = true →
      (sig = Config.testSignature → ∃ t, exec (.infieldTest cl kernel sig) s = .next t ∧ t.ctxs = s.ctxs ∧
        (t.cluster (clusterOf cl)).failed = false ∧ (t.cluster (clusterOf cl)).fenced = false) ∧
      (sig ≠ Config.testSignature → ∃ t, exec (.infieldTest cl kernel sig) s = .next t ∧ t.ctxs = s.ctxs ∧ ruined t)) ∧
    (∀ f (die : Fin 36), ∃ t, exec (.fatalError f die) s = .next t ∧
      (∀ c, (s.ctx c).row.v = true → (t.ctx c).run = .killed ∨ (t.ctx c).run = .idle) ∧
      (∀ n j, t.job n = some j → j.cancelled = true) ∧
      (f ≠ .diePowerOff → if s.headerDie.isSome = true then ∃ d, t.mgmt.dump = some d ∧ d.code = f ∧ d.die = die.val ∧
        d.split = s.seals.split else t.mgmt.dump = s.mgmt.dump))

/-- O51. COMMAND_READ serves a queue of the lowest level with a ready command, in its turn, and so do the acceptance of a LAUNCH or
GRAPH, a WAITVAL, a WRITEVAL and a FENCE: out of turn nothing happens. It takes the 64 bytes of the slot at the consumed count,
which rises; a command it refuses stops the queue; a CANCEL or SEALREQ acts as soon as it is read. LAUNCH and GRAPH place their
launches, running and unbound, with their counters at 0 and their graph in its phase; one of a phase that has ended is refused,
and one of a cancelled job is cancelled at once. WAITVAL completes when its comparison holds, or has held after a write since it
started, and waits otherwise, tested again by WAITVAL_SATISFIED; WRITEVAL writes its value; a FENCE completes when it is the
oldest that is not complete; SEALREQ requests a seal. CANCEL of a launch, a graph, a phase or the job ends the launches it names
as CANCELLED and completes. [04_work_hierarchy_and_squads.md, R65, R72, R74; 13_dispatch_and_power.md, R281, R283, R284, R285,
R286, R288] -/
def Obligations.QueueCommandEvents : Prop :=
  ∀ (s : State) (job n : Nat) (j : Job) (q : Queue), s.job job = some j → j.queue n = some q →
    let slot := q.consumed.toNat % 2 ^ q.logn.toNat
    let bytes := s.dread job (q.base.toNat + 64 * slot) 64
    let c := Command.ofBytes bytes slot
    let left (t : State) (l : List Pending) : Prop := ∃ x, t.queue job n = some x ∧ x.cmds = l
    let served : Prop := s.nextServed 0 s.readies = some (q.prio.toNat, queueKey job n)
    let readable : Prop := q.stopped = false ∧ q.doorbell ≠ q.consumed ∧ j.cancelled = false ∧ (∀ p ∈ q.cmds, p.accepted = true) ∧
      s.seals.committing = false
    (∀ level key, s.nextServed 0 s.readies = some (level, key) → (level, key) ∈ s.readies ∧ ∀ e ∈ s.readies, level ≤ e.1) ∧
    (¬served → ∀ i ∈ [Instr.commandRead job n, .launch job n, .graph job n, .waitval job n, .commandFence job n],
      exec i s = .next s) ∧
    (readable → (q.prio.toNat, queueKey job n) ∈ s.readies) ∧
    (readable → served →
      (c.op.toNat = bytes / 2 ^ 56 % 2 ^ 8 ∧ c.addr.toNat = bytes / 2 ^ 64 % 2 ^ 64 ∧ c.value.toNat = bytes / 2 ^ 128 % 2 ^ 64) ∧
      (c.bad j = false → c.op ≠ 5 → c.op ≠ 6 → ∃ t x p, exec (.commandRead job n) s = .next t ∧ t.queue job n = some x ∧
        x.consumed = q.consumed + 1 ∧ x.cmds = q.cmds ++ [p] ∧ p.cmd = c ∧ p.started = false ∧ p.done = false ∧ p.met = false ∧
        p.accepted = decide (c.op = 3 ∨ c.op = 4 ∨ c.op = 7)) ∧
      (c.bad j = false → c.op = 6 → q.cmds = [] → s.replicaPhase = false → ∃ t x, exec (.commandRead job n) s = .next t ∧
        t.queue job n = some x ∧ x.consumed = q.consumed + 1 ∧ x.cmds = [] ∧ t.seals.requested = true) ∧
      (c.bad j = true → c.op ≠ 1 → c.op ≠ 2 → ∃ t x, exec (.commandRead job n) s = .next t ∧ t.queue job n = some x ∧
        x.stopped = true ∧ x.cmds = q.cmds)) ∧
    (∀ p, q.cmds = [p] → p.done = false →
      let set (t : State) (r : LaunchRec) (cnt : Option Word) : Prop := ∃ l g, t.launch s.nextLaunch = some l ∧ l.record = r ∧
        l.state = .running ∧ l.bound = false ∧ l.done = 0 ∧ l.job = job ∧ l.phase = p.cmd.phase.toNat ∧ l.prio = q.prio ∧
        l.graph = s.nextGraph ∧ t.graph s.nextGraph = some g ∧ g.launches = [s.nextLaunch] ∧ g.cnt = cnt ∧ g.state = .running ∧
        t.gRead (jaddr job r.cntaddr.toNat) 8 = 0 ∧ left t [{ p with accepted := true, graph := s.nextGraph }]
      let placed (t : State) (r : LaunchRec) (cnt : Option Word) : Prop := if j.cancelled then
        ∃ l, t.launch s.nextLaunch = some l ∧ l.record = r ∧ l.state = .cancelled else set t r cnt
      let phase := p.cmd.phase.toNat
      let opens : Prop := (j.phase phase).graphs = [] → Claim.Writable s job (j.phaseCtr + BitVec.ofNat 64 (8 * phase))
      (served → p.accepted = false → p.cmd.op = 1 →
        (phase < j.ended → p.cmd.addr.toNat % 256 ≠ 0 → ∃ t x, exec (.launch job n) s = .next t ∧ t.queue job n = some x ∧
          x.stopped = true ∧ x.cmds = [] ∧ t.launches = s.launches) ∧
        (j.ended ≤ phase → opens → ∀ r tl, s.readRecord job j p.cmd.addr = some (r, tl) →
          Claim.Writable s job r.cntaddr → ∃ t, exec (.launch job n) s = .next t ∧ placed t r none)) ∧
      (served → p.accepted = false → p.cmd.op = 2 → j.ended ≤ phase → opens → ∀ r tl,
        s.readGraph job j p.cmd.addr.toNat = some [(r, tl, [])] →
        Claim.Writable s job r.cntaddr → Claim.Writable s job p.cmd.cnt → ∃ t, exec (.graph job n) s = .next t ∧ placed t r (some p.cmd.cnt)) ∧
      (p.accepted = true → p.cmd.op = 3 → let v := s.dword job p.cmd.addr.toNat
        let met : Prop := p.met = true ∨ if p.cmd.mode = 0 then v = p.cmd.value else if p.cmd.mode = 1 then p.cmd.value.toNat ≤ v.toNat
          else (v - p.cmd.value).toNat < 2 ^ 63
        ∀ i ∈ [(Instr.waitval job n, false), (.waitvalSatisfied job n, true)], (i.2 = false → served) → p.started = i.2 →
          (met → ∃ t, exec i.1 s = .next t ∧ left t [] ∧ Claim.SameBytes s t) ∧
          (¬met → ∃ t, exec i.1 s = .next t ∧ left t [{ p with started := true }] ∧ Claim.SameBytes s t)) ∧
      (served → p.accepted = true → p.started = false → p.cmd.op = 4 → Claim.Writable s job p.cmd.addr →
        ∃ t, exec (.writeval job n) s = .next t ∧ left t [] ∧ t.gRead (jaddr job p.cmd.addr.toNat) 8 = p.cmd.value.toNat) ∧
      (served → p.cmd.op = 7 → ∃ t, exec (.commandFence job n) s = .next t ∧ left t []) ∧
      (p.accepted = false → p.cmd.op = 6 → s.replicaPhase = false → ∃ t, exec (.sealreq job n) s = .next t ∧ left t [] ∧
        t.seals.requested = true)) ∧
    (∀ l x g a, s.launches = [(l, some x)] → x.job = job → x.state = .running → x.bound = false → s.graph x.graph = some g →
      g.launches = [l] → g.cnt = some a → g.job = job →
      let names (c : Command) : Prop := if c.mode = 0 then x.record.cntaddr = c.addr else if c.mode = 1 then a = c.addr
        else if c.mode = 2 then x.phase = c.phase.toNat else True
      let ends (c : Command) (i : Instr) : Prop := ∃ t x', exec i s = .next t ∧ left t [] ∧ t.launch l = some x' ∧
        x'.state = .cancelled ∧ (c.mode = 3 → ∃ y, t.job job = some y ∧ y.cancelled = true)
      let event (c : Command) : Instr := if c.mode = 0 then .cancelLaunch job n else if c.mode = 1 then .cancelGraph job n
        else if c.mode = 2 then .cancelPhase job n else .cancelJob job n
      (∀ p, q.cmds = [p] → p.accepted = false → p.cmd.op = 5 → names p.cmd → ends p.cmd (event p.cmd)) ∧
      (readable → served → q.cmds = [] → c.bad j = false → c.op = 5 → names c → ends c (.commandRead job n)))

/-- O52. A launch that may begin, in its queue’s turn, binds its contexts to its job and tiles, when the clusters of a deterministic
job at a phase boundary stand at one frequency; else they are first ordered to the lowest of theirs. Preparing a core loads the
tensor table, without the reserved bits, and the segments that SEGMASK selects, empties the instruction cache, and records the
core. A unit starts with g1 the task, g2 the context’s identifier, g3 ARG, g4 to g11 INITG and every other register 0, at ENTRY,
at task level with the job’s handler. A phase without further work gets its baton; each visit adds the core’s count, takes its
colour and turns it white; back at the first core the phase ends when sum and colours allow, its counter and the job’s written,
else a new circuit starts; while a LAUNCH or GRAPH that has been read awaits its record, the phase or the job does not end. A
die learns of ended phases. JOBEND takes effect when every earlier command has been read; a job whose phases have ended ceases
to exist, its counter COMPLETE, and a cancelled one without a bound context does, its counter CANCELLED.
[04_work_hierarchy_and_squads.md, R66, R70, R71, R72, R73, R76, R77; 08_scalar_and_control_instructions.md, R177;
13_dispatch_and_power.md, R281] -/
def Obligations.LaunchAndPhaseEvents : Prop :=
  ∀ (s : State) (l : Nat) (q : Launch) (core : CoreId) (c : CtxId) (job phase : Nat), s.launch l = some q → let r := q.record
    (s.launchReady q = true → s.seals.committing = false → s.startTurn q = true → ∀ j, s.job q.job = some j → s.uneven j = true →
      ∃ t, exec (.launchStart l) s = .next t ∧ t.launch l = some q ∧ ∀ d ∈ j.rect, (t.cluster d).ordered = s.lowestStep j) ∧
    (∀ task, s.launchReady q = true → s.seals.committing = false → s.startTurn q = true →
      (∀ j, s.job q.job = some j → s.uneven j = false) → r.ctxIds = [c] → q.nextTask 0 = some task → ∃ t, exec (.launchStart l) s = .next t ∧
      t.launch l = some { q with bound := true } ∧ (t.ctx c).row.v = true ∧ (t.ctx c).row.job.toNat = q.job % 2 ^ 16 ∧
      (t.ctx c).row.launch.toNat = l % 2 ^ 32 ∧ (t.ctx c).row.task.toNat = task % 2 ^ 32 ∧ (t.ctx c).row.prio = q.prio ∧
      (t.ctx c).tile = 0 ∧ (t.ctx c).run = .idle) ∧
    (q.bound = true → core ∉ q.prepared → core ∈ r.coreIds → r.feclr = false → r.simglen = 0 → r.ttcnt ≤ 64 →
      ((s.die (dieOf core)).ready = true → (s.die (dieOf core)).committed = true) →
      (∀ d ∈ ctxsOf core, (s.ctx d).row.v = true → (s.ctx d).row.launch.toNat = l) → ∃ t, exec (.corePreparation l core) s = .next t ∧
        t.launch l = some { q with prepared := q.prepared ++ [core] } ∧ (t.cluster (clusterOf core)).icache = [] ∧
        Claim.SameBytes s t ∧ (∃ e ∈ (t.core core).sched, e.launch = l ∧ e.fired = 0) ∧
        (∀ i < 64, let e := tget Tensor.reset (t.core core).tt i
          let raw (w : Nat) : Nat := s.dread q.job (r.ttptr.toNat + 32 * i) 32 / 2 ^ (64 * w) % 2 ^ 64
          (i < r.ttcnt → Tensor.dw e 0 = raw 0 - 2 ^ 32 * (raw 0 / 2 ^ 32 % 2) ∧ Tensor.dw e 1 = raw 1 % 2 ^ 51 ∧
            Tensor.dw e 2 = raw 2 ∧ Tensor.dw e 3 = raw 3 % 2 ^ 40) ∧
          (r.ttcnt ≤ i → e = { tget Tensor.reset (s.core core).tt i with valid := false })) ∧
        ∀ n < 16, r.ctxs.getLsbD n = true → ∀ i : SReg, (t.ctx (ctxOf core n)).readSeg i =
          if r.segmask.getLsbD i.val then
            Seg.ofImage (s.dword q.job (r.segtab.toNat + 16 * i.val)) (s.dword q.job (r.segtab.toNat + 16 * i.val + 8)) else Seg.zero) ∧
    (∀ task j, l = (s.ctx c).row.launch.toNat → (s.ctx c).row.v = true → (s.ctx c).run = .idle → (s.ctx c).dbgHalt = false →
      q.state = .running → q.bound = true → coreOf c ∈ q.prepared →
      ((s.die (dieOf c)).prepared = true → (s.die (dieOf c)).committed = true) → s.phaseKnown (dieOf c) q.job q.phase = true →
      q.nextTask (s.ctx c).tile = some task → s.job q.job = some j → ∃ t, exec (.unitStart c) s = .next t ∧
        (∀ g : GReg, (t.ctx c).readG g = if g.val = 1 then BitVec.ofNat 64 task else if g.val = 2 then BitVec.ofNat 64 c
          else if g.val = 3 then r.arg else if 4 ≤ g.val ∧ g.val ≤ 11 then r.initg.getD (g.val - 4) 0 else 0) ∧
        (t.ctx c).pc = r.entry ∧ (t.ctx c).run = .active ∧ (t.ctx c).hl = false ∧ (t.ctx c).cstat = 0 ∧ (t.ctx c).cfemask = 0 ∧
        (t.ctx c).cwlim = r.wlim ∧ (t.ctx c).cquota = r.quota ∧ (t.ctx c).cvec = j.handler.extractLsb' 2 62 ∧
        (q.begunOn (coreOf c) = false → (t.core (coreOf c)).stage = 0) ∧
        (t.ctx c).sendSeq = 0 ∧ (t.ctx c).loopCount = 0 ∧ (t.ctx c).resv = none ∧ Claim.SameBytes s t) ∧
    (∀ j, s.job job = some j → let p := j.phase phase
      let counter : Word := j.phaseCtr + BitVec.ofNat 64 (8 * phase)
      let room : Prop := Claim.Writable s job counter ∧ Claim.Writable s job j.jobCtr ∧
        jaddr job counter.toNat ≠ jaddr job j.jobCtr.toNat
      let ends (t : State) : Prop := ∃ y, t.job job = some y ∧ y.ended = phase + 1 ∧ (y.phase phase).baton = none ∧
        t.gRead (jaddr job j.jobCtr.toNat) 8 = counterWord .running y.phasesDone ∧
        ((∀ g ∈ p.graphs, ∀ x, s.graph g = some x → x.state = .complete) → (y.phase phase).state = .complete ∧
          t.gRead (jaddr job counter.toNat) 8 = counterWord .complete p.done)
      let circuit (t : State) (cores : List CoreId) (first : CoreId) : Prop := ∃ y, t.job job = some y ∧
        (y.phase phase).baton = some { sum := 0, black := false, todo := cores, first := first }
      (phase = j.ended → p.baton = none → (j.endTaken = true ∨ j.cancelled = true → phase < j.highRead) →
        s.noFurtherWork j phase = true →
        (∀ d rest, s.phaseCores job phase = d :: rest → ∃ t, exec (.batonStart job phase) s = .next t ∧ circuit t (d :: rest) d) ∧
        (s.phaseCores job phase = [] → room → ∃ t, exec (.batonStart job phase) s = .next t ∧ ends t)) ∧
      (∀ b, p.baton = some b → let awaits : Prop := ∃ c ∈ j.reading, c.phase.toNat = phase
        (∀ d rest, b.todo = d :: rest → ∃ t y, exec (.batonVisit job phase) s = .next t ∧ t.job job = some y ∧
          (y.phase phase).baton = some { b with sum := b.sum + (s.core d).msgCount, black := b.black || (s.core d).black,
                                                 todo := rest } ∧ (t.core d).black = false) ∧
        (b.todo = [] → ¬awaits → b.black = false → b.sum = 0 → (s.core b.first).black = false → room →
          ∃ t, exec (.batonReturn job phase) s = .next t ∧ ends t) ∧
        (b.todo = [] → ¬awaits → b.black = true ∨ b.sum ≠ 0 ∨ (s.core b.first).black = true →
          ∃ t, exec (.batonReturn job phase) s = .next t ∧ circuit t (s.phaseCores job phase) b.first) ∧
        (awaits → exec (.batonReturn job phase) s = .next s)) ∧
      (∀ die : Fin 36, phase < j.ended → ∃ t, exec (.phaseEndNotice job phase die) s = .next t ∧
        (job, phase) ∈ (t.die die.val).knownEnds) ∧
      (j.endPosted = some [] → exec (.jobendEffect job) s = .next (s.setJob job (some { j with endTaken := true }))) ∧
      (j.cancelled = false → j.endTaken = true → j.reading = [] → j.highRead ≤ j.ended → Claim.Writable s job j.jobCtr →
        ∃ t, exec (.jobEnd job) s = .next t ∧ t.job job = none ∧
          t.gRead (jaddr job j.jobCtr.toNat) 8 = counterWord .complete j.ended) ∧
      (j.reading ≠ [] → exec (.jobEnd job) s = .next s) ∧
      (j.cancelled = true → j.reading = [] → s.jobBound job = false → (∀ e ∈ j.phases, e.1 < j.ended) → Claim.Writable s job j.jobCtr →
        ∃ t, exec (.jobEnd job) s = .next t ∧ t.job job = none ∧
          t.gRead (jaddr job j.jobCtr.toNat) 8 = counterWord .cancelled j.phasesDone) ∧
      (j.cancelled = true → s.jobBound job = true → exec (.jobEnd job) s = .next s))

/-- Nothing but one cluster has changed. -/
def Claim.OnlyCluster (s t : State) (c : ClusterId) : Prop := Claim.SameBytes s t ∧ ∀ d, d ≠ c → t.cluster d = s.cluster d

/-- A step n is ordered: it is the goal of FLL and LDO unless both stand there already (R293). -/
def Claim.Ordered (q : Cluster) (n : Nat) : Cluster :=
  { q with goal := if q.fll = n ∧ q.ldo = n then none else some n, goalNow := false }

/-- FREQUENCY_CHANGE on a cluster none of whose die's clusters is in a current step. -/
def Claim.ClockChanges (s : State) (id : CoreId) : Prop :=
  let c := clusterOf id; let q := s.cluster c
  let free : Prop := ∀ j, s.jobAt c = some j → s.detJob j.2 = false
  (∀ n : Fin 41,
    (free → ∃ t, exec (.frequencyChange id (.step n)) s = .next t ∧ Claim.OnlyCluster s t c ∧
      t.cluster c = { Claim.Ordered q n.val with fllSaved := if q.throttled then n.val else q.fllSaved }) ∧
    (∀ j, s.jobAt c = some j → s.detJob j.2 = true → ∃ t, exec (.frequencyChange id (.step n)) s = .next t ∧ Claim.SameBytes s t ∧
      ∀ x ∈ j.2.rect, (t.cluster x).goal = some n.val ∧ (t.cluster x).fll = (s.cluster x).fll) ∧
    (∀ mv, ∃ t, exec (.frequencyChange id (.voltage n mv)) s = .next t ∧ tget 0 t.mgmt.volts n.val = mv ∧ t.clusters = s.clusters)) ∧
  (∀ n, q.goal = some n →
    (q.fll ≤ n → ∃ t, exec (.frequencyChange id .ldo) s = .next t ∧ Claim.OnlyCluster s t c ∧ (t.cluster c).ldo = n ∧
      (t.cluster c).fll = q.fll) ∧
    (n < q.fll → ∃ t, exec (.frequencyChange id .ldo) s = .next t ∧ Claim.OnlyCluster s t c ∧ t.cluster c = q) ∧
    (free → s.atLap c = true →
      (n < q.fll ∨ (q.fll < n ∧ q.ldo = n) → ∃ t, exec (.frequencyChange id .fll) s = .next t ∧ Claim.OnlyCluster s t c ∧
        (t.cluster c).fll = n ∧ (t.cluster c).ldo = q.ldo) ∧
      (q.fll < n → q.ldo ≠ n → exec (.frequencyChange id .fll) s = .next s)) ∧
    (s.atLap c = false → free → exec (.frequencyChange id .fll) s = .next s) ∧
    (∀ j, q.goalNow = false → s.jobAt c = some j → s.detJob j.2 = true →
      (s.atPhaseBoundary j.2 = false → exec (.frequencyChange id .fll) s = .next s) ∧
      (s.atPhaseBoundary j.2 = true → (∀ x ∈ j.2.rect, (s.cluster x).goal = some n ∧
        (n < (s.cluster x).fll ∨ ((s.cluster x).fll < n ∧ (s.cluster x).ldo = n)) ∧ s.atLap x = true) → ∃ t, exec (.frequencyChange id .fll) s = .next t ∧ ∀ x ∈ j.2.rect, (t.cluster x).fll = n))) ∧
  (∀ b, (b < 8 → exec (.frequencyChange id (.budget b)) s = .next s) ∧
    (8 ≤ b → ∃ t, exec (.frequencyChange id (.budget b)) s = .next t ∧ Claim.OnlyCluster s t c ∧ t.cluster c =
      if q.throttled then { q with budget := max 8 (b / 2), budgetSaved := b } else { q with budget := b })) ∧
  (∀ h, (60 ≤ h → h ≤ 110 → ∃ t, exec (.frequencyChange id (.threshold h)) s = .next t ∧ Claim.OnlyCluster s t c ∧
      t.cluster c = { q with theta := h }) ∧
    (h < 60 ∨ 110 < h → exec (.frequencyChange id (.threshold h)) s = .next s))

/-- The output of best-effort traffic towards a destination: in X first, then in Y (R26; the outputs’ numbers are the model’s, log 61). -/
def Claim.RoutesInXThenY (at_ dst : ClusterId) : Prop :=
  (xOf at_ < xOf dst → meshOut at_ dst = 2) ∧ (xOf dst < xOf at_ → meshOut at_ dst = 4) ∧
  (xOf at_ = xOf dst → (yOf at_ < yOf dst → meshOut at_ dst = 1) ∧ (yOf dst < yOf at_ → meshOut at_ dst = 3) ∧
    (yOf at_ = yOf dst → meshOut at_ dst = 0))

/-- A mesh link and the flits that wait for it. -/
def Claim.LinkEvents (s : State) (link : Nat) : Prop :=
  let l := s.link link; let f := s.nextId; let here := linkRouter link
  let slot := tget Slot.zero (s.cluster here).slots (64 * (link % 5) + s.frame)
  let comes (x : MeshFlit) : Prop := link ∉ s.deadLinks ∧ (x.flow ≠ none ∨ s.deadLinks ≠ [] ∨ meshOut here x.dst = link % 5)
  let suits (e : Nat × MeshFlit) : Prop := slot.sch = true ∧ slot.inp.toNat ≤ 4 ∧ e.2.flow = some slot.flow ∧ e.2.inp.val = slot.inp.toNat
  let last (copy : Bool) : Nat := if copy then l.lastCopy else l.lastRest
  let turn (e : Nat × MeshFlit) : Nat := (e.2.inp.val + 5 - (last e.2.copy + 1) % 5) % 5
  (∀ dst, Claim.RoutesInXThenY here dst) ∧
  (∀ x ok, ¬comes x → exec (.meshFlitRetry link (some x) ok) s = exec (.meshFlitRetry link none ok) s) ∧
  (∀ ok, l.used = true ∨ link ∈ s.deadLinks → exec (.meshFlitRetry link none ok) s = .next s) ∧
  (∀ x ok, comes x → l.used = true → ∃ t, exec (.meshFlitRetry link (some x) ok) s = .next t ∧ t.nextId = f + 1 ∧
    t.link link = { l with waiting := l.waiting ++ [(f, x)] }) ∧
  (link ∉ s.deadLinks → l.used = false →
    (∀ flit ok, (flit = none ∨ ∃ x, flit = some x ∧ comes x) → l.asked = 0 →
      let w := match flit with
        | none => l.waiting
        | some x => l.waiting ++ [(f, x)]
      let goes (e : Nat × MeshFlit) : Prop := ∃ t, exec (.meshFlitRetry link flit ok) s = .next t ∧ t.link link =
        { waiting := w.filter fun y => y.1 != e.1, buffer := (e.1 :: l.buffer).take 4, asked := if ok then 0 else 1,
          delivered := if ok then e.1 :: l.delivered else l.delivered, used := true,
          lastCopy := if e.2.flow = none ∧ e.2.copy = true then e.2.inp.val else l.lastCopy,
          lastRest := if e.2.flow = none ∧ e.2.copy = false then e.2.inp.val else l.lastRest }
      (∀ pre e rest, w = pre ++ e :: rest →
        (suits e → (∀ y ∈ pre, ¬suits y) → goes e) ∧
        (e.2.flow = none → (∀ y ∈ w, ¬suits y) → (e.2.copy = true ∨ ∀ y ∈ w, y.2.flow = none → y.2.copy = false) →
          (∀ y ∈ pre, y.2.flow = none → y.2.copy = e.2.copy → turn e < turn y) →
          (∀ y ∈ rest, y.2.flow = none → y.2.copy = e.2.copy → turn e ≤ turn y) → goes e)) ∧
      ((∀ y ∈ w, ¬suits y ∧ y.2.flow ≠ none) → ∃ t, exec (.meshFlitRetry link flit ok) s = .next t ∧
        t.link link = { l with waiting := w })) ∧
    (∀ x rest, l.asked ≠ 0 → l.buffer = x :: rest →
      (∃ t, exec (.meshFlitRetry link none true) s = .next t ∧
        t.link link = { l with asked := 0, used := true, delivered := x :: l.delivered }) ∧
      ∃ t, exec (.meshFlitRetry link none false) s = .next t ∧ t.link link = { l with used := true }))

/-- Slot tables, the network’s frame and mesh links. -/
def Claim.RouterEvents (s : State) (id : CoreId) : Prop :=
  let c := clusterOf id; let q := s.cluster c
  (∀ (out : Fin 5) (entry : Fin 64) (v : BitVec 16), ∃ t, exec (.routerTableSwap id (.write out entry v)) s = .next t ∧
    Claim.OnlyCluster s t c ∧ (t.cluster c).slots = q.slots ∧ ∀ k, tget Slot.zero (t.cluster c).shadow k =
      if k = 64 * out.val + entry.val then { sch := v.getLsbD 15, inp := v.extractLsb' 12 3, flow := v.extractLsb' 0 12 }
      else tget Slot.zero q.shadow k) ∧
  (s.frame ≠ 63 → exec (.routerTableSwap id .swap) s = .next s) ∧
  (∀ i ∈ [Instr.routerTableSwap id .cycle, .routerTableSwap id .swap], (i = .routerTableSwap id .swap → s.frame = 63) →
    ∃ t, exec i s = .next t ∧ t.frame = (s.frame + 1) % 64 ∧ Claim.SameBytes s t ∧ (∀ link, (t.link link).used = false) ∧
      (∀ link l, s.links = [(link, l)] → t.link link = { l with used := false }) ∧
      ∀ d, t.cluster d = if (s.frame + 1) % 64 = 0 ∧ (s.cluster d).swapDue = true
        then { s.cluster d with slots := (s.cluster d).shadow, swapDue := false } else s.cluster d) ∧
  ∀ link : Nat, Claim.LinkEvents s link

/-- The port has sent a waiting flit under its next number. -/
def Claim.Sent (p p' : Port) (e : PortFlit) (rest : List PortFlit) : Prop :=
  p'.waiting = rest ∧ p'.txSeq = p.txSeq + 1 ∧
    p'.unacked = p.unacked ++ [{ e with flit := flitSealed e.flit p.txSeq, tries := 1 }]

/-- The Ilufosko ports of the module. -/
def Claim.PortEvents (s : State) (port : Fin 48) : Prop :=
  let p := s.port port.val; let now := s.mgmt.time.toNat; let p' := p.step now
  (p.down = false →
    p'.slot = (p.slot + 1) % 64 ∧ p'.rxSeq = p.rxSeq ∧ p'.delivered = p.delivered ∧
    (∀ e rest, p.answers = [] → p.again = 0 → p.unacked.length < 128 → p.waiting = e :: rest →
      (p.slot < 4 → e.flit.cls = .control → Claim.Sent p p' e rest) ∧
      (∀ f, 4 ≤ p.slot → tget none p.reserved p.slot = some f → e.flow = some f → Claim.Sent p p' e rest) ∧
      (4 ≤ p.slot → tget none p.reserved p.slot = none → e.flit.cls = .copy → Claim.Sent p p' e rest)) ∧
    (p.slot < 4 → p.answers = [] → p.again = 0 → (∀ e ∈ p.waiting, e.flit.cls ≠ .control) → p'.unacked = p.unacked) ∧
    (∀ a rest, p.slot < 4 → p.answers = a :: rest → p'.answers = rest ∧ p'.sent = a :: p.sent) ∧
    (p.again = 0 → 128 ≤ p.unacked.length → p'.unacked = p.unacked ∧ p'.waiting = p.waiting) ∧
    (∃ t, exec (.ilufoskoFlitReceive port none) s = .next t ∧ t.port port.val = p') ∧
    (∀ f : Flit,
      (flitSound f = true → f.seq = p.rxSeq → f.dst = s.mgmt.mdom → ∃ t, exec (.ilufoskoFlitReceive port (some f)) s = .next t ∧
        t.port port.val = { p' with rxSeq := p.rxSeq + 1, answers := p'.answers ++ [(true, p.rxSeq + 1)],
                                    delivered := f :: p.delivered }) ∧
      (flitSound f = true → f.seq ≠ p.rxSeq → (p.rxSeq - f.seq).toNat ≤ 128 →
        ∃ t, exec (.ilufoskoFlitReceive port (some f)) s = .next t ∧
          t.port port.val = { p' with answers := p'.answers ++ [(true, p.rxSeq)] }) ∧
      (flitSound f = false ∨ 128 < (p.rxSeq - f.seq).toNat → ∃ t, exec (.ilufoskoFlitReceive port (some f)) s = .next t ∧
        t.port port.val = { p' with answers := p'.answers ++ [(false, p.rxSeq)] })) ∧
    (∀ (f : Flit) x rest, flitSound f = true → f.seq = p.rxSeq → f.dst ≠ s.mgmt.mdom →
      (∀ e ∈ s.pins, e.1 ≠ (BitVec.ofNat 64 port.val, f.dst, f.cls)) → tget [] s.routes (512 * (port.val / 2) + f.dst.toNat) = x :: rest →
      x ≠ port.val → (s.port x).down = false → ∃ t, exec (.ilufoskoFlitReceive port (some f)) s = .next t ∧
        t.port x = { s.port x with waiting := (s.port x).waiting ++ [{ flow := none, flit := f, tries := 0 }] } ∧
        t.port port.val = { p' with rxSeq := p.rxSeq + 1, answers := p'.answers ++ [(true, p.rxSeq + 1)] }) ∧
    (∀ (n : BitVec 12) pre e rest, p.unacked = pre ++ e :: rest → e.flit.seq = n → (∀ x ∈ pre, x.flit.seq ≠ n) →
      (∃ t, exec (.ilufoskoNak port false n) s = .next t ∧
        t.port port.val = { p with unacked := e :: rest, again := rest.length + 1, since := now }) ∧
      ∃ t, exec (.ilufoskoNak port true n) s = .next t ∧
        t.port port.val = { p with unacked := e :: rest, again := min p.again (rest.length + 1), since := now }) ∧
    ((∀ x ∈ p.unacked, x.flit.seq ≠ p.txSeq) → ∃ t, exec (.ilufoskoNak port true p.txSeq) s = .next t ∧
      (t.port port.val).unacked = []) ∧
    (let lost : Prop := (∃ e ∈ p.unacked, 16 ≤ e.tries) ∨ (p.unacked ≠ [] ∧ p.since + 10 ≤ now);
      (¬lost → exec (.ilufoskoPortDown port .down) s = .next s) ∧
      (lost → ∃ t, exec (.ilufoskoPortDown port .down) s = .next t ∧ (t.port port.val).down = true ∧
        (∀ e ∈ t.routes, port.val ∉ e.2) ∧ ∀ e ∈ t.pins, e.2 ≠ port.val))) ∧
  (∀ (slot : Fin 64) flow,
    (slot.val < 4 → exec (.ilufoskoPortDown port (.reserve slot flow)) s = .next s) ∧
    (4 ≤ slot.val → ∃ t, exec (.ilufoskoPortDown port (.reserve slot flow)) s = .next t ∧
      tget none (t.port port.val).reserved slot.val = flow)) ∧
  (∀ dst ports, ∃ t, exec (.ilufoskoPortDown port (.route dst ports)) s = .next t ∧
    tget [] t.routes (512 * (port.val / 2) + dst.toNat) = ports.map Fin.val) ∧
  ∀ source flow (f : Flit) x, (s.port x).down = false → let iface := port.val / 2; let key := (source, f.dst, f.cls)
    (s.pins.find? (fun e => e.1 == key) = some (key, x) ∨
      ((∀ e ∈ s.pins, e.1 ≠ key) ∧ ∃ rest, tget [] s.routes (512 * iface + f.dst.toNat) = x :: rest)) →
    ∃ t, exec (.ilufoskoPortDown port (.send source flow f)) s = .next t ∧ (key, x) ∈ t.pins ∧
      (t.port x).waiting = (s.port x).waiting ++ [{ flow := flow, flit := f, tries := 0 }]

/-- O53. A step n that is ordered becomes the goal, to which the FLL switches at a lap boundary, going down before the voltage
follows and going up when it has settled; in a deterministic job every cluster switches together at a phase boundary. The
controller sets B, not below 8, θ between 60 and 110, and the voltage table. More than 64 detections lower n by 1. A reading at
the trip limit stops and fails the cluster, one at the threshold throttles it (B halved, not below 8), one 4 degrees below it
releases it, none within 1 ms of the last transition; throttling lowers n by 8 each 1 ms; three cool readings in a row clear a
trip. Two samples above 120 % set B to 8 and order n = 0 on the die, 1 ms without a sample above 100 % restores them, 1 ms above
100 % powers the die off. Dispatch writes shadow slots; a shadow table that is due is taken at a frame boundary. A flit waits at
the output that X-then-Y routing names; a slot carries the waiting flit of its flow and input, else best-effort traffic, copies
and collectives before the rest, the inputs round-robin, one flit in a network cycle. A mesh flit with a bad CRC is asked for
again from the link buffer and delivered once. A port sends by its frame, with at most 128 flits unacknowledged, delivers the
flit it expects, answers each flit with the number expected, sends again from the number named, keeps source, destination and
class to one port, passes on what is for another module, and is down after 16 tries or 10 us. The counting of a current sample
as in force from the last change is the model’s reading (log 33); that free routing around failed links lets a flit wait at any
output is its choice (log 61). [02_module_and_its_parts.md, R24, R25, R26; 13_dispatch_and_power.md, R292, R293, R294;
18_fabric_host_and_security.md, R331, R332, R333; 19_traps_and_the_kill_wave.md, R362, R363;
24_recovery_containment_and_power_faults.md, R433, R434] -/
def Obligations.FabricEvents : Prop :=
  ∀ (s : State) (id : CoreId), let c := clusterOf id; let q := s.cluster c; let now := s.mgmt.time.toNat
    ((∀ n, (s.die n).beforeStep = []) → Claim.ClockChanges s id ∧
      (s.jobAt c = none →
        (64 < (s.core id).detections → ∃ t, exec (.detectorRateReport id) s = .next t ∧ Claim.OnlyCluster s t c ∧
          (t.core id).detections = 0 ∧ t.cluster c =
            { Claim.Ordered q (q.ordered - 1) with fllSaved := if q.throttled then q.ordered - 1 else q.fllSaved }) ∧
        ((s.core id).detections ≤ 64 → exec (.detectorRateReport id) s = .next s)) ∧
      (∀ r, q.tripped = false → s.jobAt c = none → ∃ t, exec (.thermalReading id r) s = .next t ∧
        (∀ d, d ≠ c → t.cluster d = s.cluster d) ∧
        let may : Prop := ∀ x, q.lastShift = some x → x + 1000 ≤ now
        (t.cluster c).temp = r ∧
        (4 * min (q.theta + 10) 115 ≤ r → (t.cluster c).tripped = true ∧ (t.cluster c).failed = true) ∧
        (r < 4 * min (q.theta + 10) 115 → Claim.SameBytes s t ∧
          (q.throttled = false → 4 * q.theta ≤ r → may → t.cluster c =
            { q with temp := r, throttled := true, budget := max 8 (q.budget / 2), budgetSaved := q.budget, fllSaved := q.ordered,
                     lastShift := some now }) ∧
          (q.throttled = true → r ≤ 4 * q.theta - 16 → may →
            let back : Cluster := { q with temp := r, throttled := false, budget := q.budgetSaved, lastShift := some now }
            t.cluster c = if q.ordered = q.fllSaved then back else Claim.Ordered back q.fllSaved) ∧
          (¬may → t.cluster c = { q with temp := r }) ∧
          (q.throttled = false → r < 4 * q.theta → t.cluster c = { q with temp := r }) ∧
          (q.throttled = true → 4 * q.theta - 16 < r → t.cluster c = { q with temp := r }))) ∧
      (∀ j, q.throttled = true → s.jobAt c = some j → s.detJob j.2 = false →
        ∃ t, exec (.throttleStep id) s = .next t ∧ Claim.OnlyCluster s t c ∧ t.cluster c = Claim.Ordered q (q.ordered - 8))) ∧
    (∀ r, q.tripped = true → ∃ t, exec (.thermalReading id r) s = .next t ∧ Claim.OnlyCluster s t c ∧
      t.cluster c = { q with temp := r, tripped := !decide (r ≤ 4 * q.theta - 16 ∧ 2 ≤ q.coolReadings),
                             coolReadings := if r ≤ 4 * q.theta - 16 ∧ q.coolReadings < 2 then q.coolReadings + 1 else 0 }) ∧
    (∀ (d : Fin 36) (pct us : Nat), (s.die d.val).off = false → us < 2 ^ 64 → ∃ t, exec (.currentSample d pct us) s = .next t ∧
      t.mgmt.time.toNat = max now us ∧ let x := s.die d.val; let y := t.die d.val
      (x.stepAt = none → (pct ≤ 120 → y.overSamples = 0 ∧ y.stepAt = none ∧ t.clusters = s.clusters) ∧
        (120 < pct → x.overSamples = 0 → y.overSamples = 1 ∧ y.stepAt = none ∧ t.clusters = s.clusters) ∧
        (120 < pct → x.overSamples ≠ 0 → y.stepAt = some us ∧
          ∀ k ∈ dieClusters d.val, (t.cluster k).budget = 8 ∧ (t.cluster k).ordered = 0 ∧ (t.cluster k).goalNow = true ∧
            (t.cluster k).fll = (s.cluster k).fll)) ∧
      ∀ since last, x.stepAt = some since → x.lastOver = some last →
        (pct ≤ 100 → last + 1000 ≤ us → y.stepAt = none ∧
          ∀ k b n, x.beforeStep = [(k, b, n)] →
            t.cluster k = { Claim.Ordered (s.cluster k) n with budget := b, goalNow := true }) ∧
        (pct ≤ 100 → us < last + 1000 → y.stepAt = some us ∧ t.clusters = s.clusters) ∧
        (100 < pct → us < since + 1000 → y = { x with lastOver := some us } ∧ t.clusters = s.clusters) ∧
        (100 < pct → since + 1000 ≤ us → y.off = true ∧ ∀ n j, t.job n = some j → j.cancelled = true)) ∧
    Claim.RouterEvents s id ∧ ∀ port : Fin 48, Claim.PortEvents s port

/-- Register Mi of t is that of s extended with data (R340). -/
def Claim.Extended (s t : State) (i : Nat) (data : List Byte) : Prop :=
  tget 0 t.mgmt.meas i = Config.sha384 (bytesOf 48 (tget 0 s.mgmt.meas i).toNat ++ data)

/-- The digest of a change of lifecycle (kind 0) or debug level (kind 1), which M3 is extended with. -/
def Claim.changeDigest (kind old new : Nat) : List Byte := bytesOf 48 (Config.sha384 (Config.changeRecord kind old new)).toNat

/-- O54. MDOM is written while no job exists. MLOCK: a write of 1 takes a free lock, 0 frees the writer’s own, any other has no
effect; the lock frees itself after 1 s. DOORBELL adds its increment to the queue’s doorbell; QRESET restarts a stopped queue at
its doorbell; JOBEND notes the commands posted and not read. JOBNEW creates the job that the descriptor describes, with its
counter 0, and the module is ON, from IDLE too, with M2 extended and the cores of the job’s clusters as at reset; RESULT is 5
for a descriptor that breaks a limit. A window write reaches the register at its offset, or MBUF unless the other path holds the
lock; a read answers with MID, MSTAT, MDOM, MLOCK, a measurement or MBUF, and 0 elsewhere, and is an access of the lock’s
holder; a global write of the host over Ilufosko is performed at its home; a program’s aligned doubleword that a commit has
released to the window acts as a write there over Ilufosko (log 61). A malformed request ends with RESULT 5, one without the
lock has no effect. The ROM starts the first of slots A and B whose keys, version and two signatures hold, extends M0 and, with
the dispatch image, M2, and enters ON; a dispatch image that fails leaves STANDBY with RESULT 2. (RESULT 5 for a job number that
is taken, RESULT 1 where no job may run, and M2 at ON entry: log 34; that JOBNEW’s descriptor lies in the address space of job
number 0: log 3.) [13_dispatch_and_power.md, R280, R281, R283, R286; 18_fabric_host_and_security.md, R333, R334, R335, R336,
R337, R338, R339; 24_recovery_containment_and_power_faults.md, R419] -/
def Obligations.WindowWritesJobsAndBoot : Prop :=
  ∀ (s : State) (v : Word) (path : Path), let m := s.mgmt
    let job := v.toNat / 2 ^ 32 % 2 ^ 16
    (m.pwr ≠ .off → (s.jobs = [] → exec (.mdom v) s = .next { s with mgmt := { m with mdom := v.setWidth 9 } }) ∧
      (s.jobs ≠ [] → exec (.mdom v) s = .next s)) ∧
    (m.reaches path = true →
      (v.toNat % 4 = 1 → m.mlock = none →
        exec (.mlock path v) s = .next { s with mgmt := { m with mlock := some path, mlockAt := m.time } }) ∧
      (v.toNat % 4 = 0 → m.mlock = some path → ∃ t, exec (.mlock path v) s = .next t ∧ t.mgmt.mlock = none ∧
        { t with mgmt := m } = s) ∧
      (v.toNat % 4 ≠ 1 → m.mlock = none → exec (.mlock path v) s = .next s) ∧
      (∀ other, other ≠ path → m.mlock = some other → exec (.mlock path v) s = .next s)) ∧
    (∀ p, m.mlock = some p → exec .mlockTimeout s =
      .next (if m.mlockAt.toNat + 1000000 ≤ m.time.toNat then { s with mgmt := { m with mlock := none } } else s)) ∧
    (∀ q, (s.queue job (v.toNat / 2 ^ 16 % 64) = some q → ∃ t, exec (.doorbell v) s = .next t ∧ Claim.SameBytes s t ∧
        t.queue job (v.toNat / 2 ^ 16 % 64) = some { q with doorbell := q.doorbell + v.setWidth 16 }) ∧
      (s.queue job (v.toNat % 64) = some q → (q.stopped = true → ∃ t, exec (.qreset v) s = .next t ∧ Claim.SameBytes s t ∧
          t.queue job (v.toNat % 64) = some { q with stopped := false, consumed := q.doorbell }) ∧
        (q.stopped = false → exec (.qreset v) s = .next s))) ∧
    (∀ j, s.job job = some j → j.endPosted = none →
      exec (.jobend v) s = .next (s.setJob job (some { j with endPosted := some j.unreadPosts }))) ∧
    (m.pwr = .on →
      (m.lc.runsJobs = true → s.readJob v.toNat = none → exec (.jobnew v) s = .next (s.result 5)) ∧
      (m.lc.runsJobs = false → exec (.jobnew v) s = .next (s.result 1)) ∧
      ∀ n j, s.readJob v.toNat = some (n, j) → let dw (o : Nat) : Nat := s.dread 0 v.toNat 0x58 / 256 ^ o % 2 ^ 64
        (n = dw 0 / 2 ^ 48 ∧ j.handler.toNat = dw 8 ∧ j.phaseCtr.toNat = dw 0x18 ∧ j.jobCtr.toNat = dw 0x20 ∧
          j.cx0 = dw 0x28 / 2 ^ 56 ∧ j.cx0 + j.cwm1 ≤ 143 ∧ j.cy0 + j.chm1 ≤ 143 ∧ j.fmbox.toNat = dw 0x30 ∧ dw 0x30 % 64 = 0 ∧
          (j.pol = .contain ↔ dw 0x28 / 2 ^ 14 % 4 = 0) ∧ j.sealInt = dw 0x38 % 2 ^ 32 ∧ 1 ≤ dw 0 / 2 ^ 40 % 2 ^ 8 ∧
          ∀ k, (j.queue k).isSome = true ↔ k < dw 0 / 2 ^ 40 % 2 ^ 8) ∧
        (m.lc.runsJobs = true → (s.job n).isSome = true → exec (.jobnew v) s = .next (s.result 5)) ∧
        (m.lc.runsJobs = true → s.job n = none → Claim.Writable s n j.jobCtr → ∃ t, exec (.jobnew v) s = .next t ∧
          t.job n = some j ∧ t.gRead (jaddr n j.jobCtr.toNat) 8 = 0 ∧ t.mgmt = m)) ∧
    (m.pwr = .idle → ∀ n j, s.readJob v.toNat = some (n, j) → m.lc.runsJobs = true → s.job n = none → Claim.Writable s n j.jobCtr →
      ∃ t, exec (.jobnew v) s = .next t ∧ t.job n = some j ∧ t.gRead (jaddr n j.jobCtr.toNat) 8 = 0 ∧ t.mgmt.pwr = .on ∧
        (∀ c, j.covers c = true → (t.core c).s = Mem.empty ∧ (t.core c).p = Mem.empty ∧ (t.core c).q = Mem.empty) ∧
        ∀ d, m.dispatchImg = some d → Claim.Extended s t 2 (bytesOf 48 (imageDigest d).toNat)) ∧
    (m.reaches path = false → ∀ a, exec (.windowWrite path a) s = .next s) ∧
    (m.reaches path = true → m.mlock ≠ some path →
      (∀ e ∈ [(0x18, Instr.mdom v), (0x20, .mlock path v), (0x100, .doorbell v), (0x108, .jobnew v), (0x110, .qreset v),
              (0x118, .jobend v)], exec (.windowWrite path (.write e.1 v)) s = exec e.2 s) ∧
      (∀ off, off % 8 = 0 → 0x1000 ≤ off → off ≤ 0x8FF8 →
        (m.mlock = none → ∃ t, exec (.windowWrite path (.write off v)) s = .next t ∧ t.mgmt.mbuf.read (off - 0x1000) 8 = v.toNat ∧
          ∀ a, ¬(off ≤ a + 0x1000 ∧ a + 0x1000 < off + 8) → t.mgmt.mbuf.byte a = m.mbuf.byte a) ∧
        (m.mlock ≠ none → exec (.windowWrite path (.write off v)) s = .next s)) ∧
      exec (.mreqMalformed path v) s = .next s) ∧
    (m.reaches path = true → (s.toWindow = [] → exec (.windowWrite path .program) s = .next s) ∧
      ∀ off n data rest, s.toWindow = (off, n, data) :: rest → let u : State := { s with toWindow := rest }
        (n = 8 → off % 8 = 0 → m.reaches .ilufosko = true →
          exec (.windowWrite path .program) s = exec (.windowWrite .ilufosko (.write off (BitVec.ofNat 64 data))) u) ∧
        (n ≠ 8 ∨ off % 8 ≠ 0 → exec (.windowWrite path .program) s = .next u)) ∧
    (m.reaches path = true → ∀ off, ∃ t, exec (.windowWrite path (.read off)) s = .next t ∧ Claim.SameBytes s t ∧
      t.mgmt.mlockAt = (if m.mlock = some path then m.time else m.mlockAt) ∧
      let value := tget 0 t.mgmt.answer (pathCode path)
      (off = 0 → value = m.mid) ∧
      (off = 8 → value.toNat = m.lc.code + 2 ^ 8 * m.pwr.code + 2 ^ 10 * m.dbg.code + 2 ^ 15 * m.busy.toNat +
        2 ^ 16 * m.result.toNat + 2 ^ 24 * m.seq.toNat) ∧
      (off = 0x18 → value.toNat = m.mdom.toNat) ∧
      (off = 0x20 → value = match m.mlock with
        | none => 0
        | some .ilufosko => 1
        | some .bus => 2) ∧
      (∀ i k, i < 8 → k < 6 → off = 0x200 + 48 * i + 8 * k → value.toNat = (tget 0 m.meas i).toNat / 2 ^ (64 * k) % 2 ^ 64) ∧
      (off % 8 = 0 → 0x1000 ≤ off → off ≤ 0x8FF8 → value.toNat = m.mbuf.read (off - 0x1000) 8) ∧
      (off ≠ 0 → off ≠ 8 → off ≠ 0x18 → off ≠ 0x20 → (off < 0x200 ∨ 0x380 ≤ off) → (off < 0x1000 ∨ 0x9000 ≤ off) → value = 0)) ∧
    (∀ n a data, m.powered = true → Claim.Writable s n a → (s.pageAt (jaddr n a.toNat)).resident = true →
      ∃ t, exec (.windowWrite .ilufosko (.global n a.toNat 8 data)) s = .next t ∧
        t.gRead (jaddr n a.toNat) 8 = data % 2 ^ 64 ∧
        ∀ b, ¬(jaddr n a.toNat ≤ b ∧ b < jaddr n a.toNat + 8) → t.gRead b 1 = s.gRead b 1) ∧
    (s.admits path = true → v.toNat / 2 ^ 8 % 2 ^ 24 ≠ 0 ∨ v.toNat % 2 ^ 8 = 0 ∨ 7 < v.toNat % 2 ^ 8 →
      ∃ t, exec (.mreqMalformed path v) s = .next t ∧ t.mgmt.result = 5 ∧ t.mgmt.seq = m.seq + 1) ∧
    (∀ i, m.verifies i = true ↔ let digest := Config.sha384 (i.header ++ i.body)
      Config.sha384 (Config.headerRsaKey i.header) = m.fuseRsa ∧ Config.sha384 (Config.headerSlhKey i.header) = m.fuseSlh ∧
      m.fuseMinVersion ≤ Config.headerVersion i.header ∧
      Config.rsaValid (Config.headerRsaKey i.header) digest i.rsaSignature = true ∧
      Config.slhValid (Config.headerSlhKey i.header) digest i.slhSignature = true) ∧
    (m.pwr ≠ .off → m.pwr ≠ .standby ∨ m.fwRunning = true → exec .powerOnBoot s = .next s) ∧
    (m.pwr = .off ∨ (m.pwr = .standby ∧ m.fwRunning = false) → let fails : Prop := ∃ t, exec .powerOnBoot s = .next t ∧ t.mgmt.pwr = .standby ∧ t.mgmt.result = 2 ∧
        t.mgmt.fwRunning = false
      (m.slotA = none → m.slotB = none → fails) ∧
      ∀ a b d, m.slotA = some a → m.slotB = some b → m.fuseLc ≠ .retired → m.dispatchImg = some d →
        if m.verifies a = true ∨ m.verifies b = true then let i := if m.verifies a then a else b
          ∃ t, exec .powerOnBoot s = .next t ∧ t.mgmt.fwRunning = true ∧ t.mgmt.fwHeader = i.header ∧ Claim.Extended s t 0 (bytesOf 48 (imageDigest i).toNat) ∧
            if m.verifies d then t.mgmt.pwr = .on ∧ Claim.Extended s t 2 (bytesOf 48 (imageDigest d).toNat)
            else t.mgmt.pwr = .standby ∧ t.mgmt.result = 2
        else fails) ∧
    (∀ img, m.pwr = .standby → m.fwRunning = false →
      exec (.newImage false img) s = .next { s with mgmt := { m with slotA := some img } } ∧
      exec (.newImage true img) s = .next { s with mgmt := { m with slotB := some img } })

/-- O55. A request of the lock’s holder completes with RESULT and one more in SEQ. POWER 0 from STANDBY verifies the dispatch image
and enters ON, and takes an IDLE module to ON (log 34); 1 and 2 are refused (4) while a job exists; STANDBY closes debug, nonce
and lock; OFF loses all but fuses and flash. DEBUG follows R345: free, with a token, or not permitted (1); a raise extends M3;
lowering resumes halted contexts, and the level already in force ends with RESULT 0 (log 34). A token binds identifier, state,
target and nonce (else 3) and needs both signatures (else 2); its check consumes the nonce. LIFECYCLE changes as R344 says:
fuse, keys wiped, HBM with its undo regions zeroed, M3 extended; other changes are not permitted (1). NONCE makes the current
nonce and writes it to MBUF; ATTEST writes the report and consumes it; KEYLOAD checks in the order of R343 and moves to TENANT,
M4 extended; EXTEND extends M5 to M7. (Tokens for both raises in RMA are the model’s reading, log 34; the nonce, the signatures
and the confirmation of a wipe are free values.) [18_fabric_host_and_security.md, R337, R339, R340, R341, R342, R343, R344,
R345, R346, R347, R348] -/
def Obligations.ManagementRequests : Prop :=
  ∀ (s : State) (path : Path), s.admits path = true → let m := s.mgmt
    let ends (i : Instr) (r : Nat) (p : State → Prop) : Prop := ∃ t, exec i s = .next t ∧ t.mgmt.result = BitVec.ofNat 8 r ∧
      t.mgmt.seq = m.seq + 1 ∧ p t
    let same (i : Instr) (r : Nat) : Prop := ends i r fun t => t.mgmt.lc = m.lc ∧ t.mgmt.dbg = m.dbg ∧ t.mgmt.pwr = m.pwr ∧
      t.mgmt.tenant = m.tenant ∧ t.gmem = s.gmem
    (m.lc ≠ .retired → (m.pwr = .on → same (.powerOn path) 0) ∧ (m.pwr = .idle → ends (.powerOn path) 0 fun t => t.mgmt.pwr = .on) ∧
      ∀ d, m.pwr = .standby → m.dispatchImg = some d → if m.verifies d
        then ends (.powerOn path) 0 fun t => t.mgmt.pwr = .on ∧ Claim.Extended s t 2 (bytesOf 48 (imageDigest d).toNat)
        else same (.powerOn path) 2) ∧
    (m.lc = .retired → same (.powerOn path) 1) ∧
    (m.powered = true → s.jobs = [] → ends (.powerIdle path) 0 fun t => t.mgmt.pwr = .idle) ∧
    (s.jobs = [] → ends (.powerStandby path) 0 fun t => t.mgmt.pwr = .standby ∧ t.mgmt.dbg = .off ∧ t.mgmt.nonce = none ∧
      t.mgmt.mlock = none ∧ t.gmem = s.gmem) ∧
    (s.jobs ≠ [] → same (.powerStandby path) 4 ∧ (m.powered = true → same (.powerIdle path) 4)) ∧
    (∃ t, exec (.powerOff path) s = .next t ∧ t.mgmt.pwr = .off ∧ t.mgmt.lc = m.fuseLc ∧ t.mgmt.tenant = none ∧ t.jobs = [] ∧
      t.gmem = State.reset.gmem ∧ (∀ i, tget 0 t.mgmt.meas i = 0) ∧ t.mgmt.slotA = m.slotA ∧ t.mgmt.slotB = m.slotB) ∧
    (∀ e ∈ [(DebugLevel.off, Instr.debugOff path), (.nonInvasive, .debugNonInvasive path), (.invasive, .debugInvasive path)],
      let raised (t : State) : Prop := t.mgmt.dbg = e.1 ∧ Claim.Extended s t 3 (Claim.changeDigest 1 m.dbg.code e.1.code)
      let needs (k : Signer) : Prop := if m.token k e.1.code = 0 then ends e.2 0 fun t => raised t ∧ t.mgmt.nonce = none
        else ends e.2 (m.token k e.1.code) fun t => t.mgmt.dbg = m.dbg ∧ t.mgmt.nonce = none
      (e.1.code < m.dbg.code → ends e.2 0 fun t => t.mgmt.dbg = e.1 ∧ (∀ c, (t.ctx c).dbgHalt = false) ∧
        ∀ x ∈ t.saved, ∀ q ∈ x.2, ∀ y ∈ q.2, y.2.dbgHalt = false) ∧
      (m.dbg.code < e.1.code → m.powered = true →
        (m.lc = .mfg → ends e.2 0 raised) ∧ (m.lc = .deployed → e.1 = .nonInvasive → needs .vendor) ∧
        (m.lc = .deployed ∨ m.lc = .tenant → e.1 = .invasive → same e.2 1) ∧
        (m.lc = .tenant → e.1 = .nonInvasive → needs .tenant) ∧ (m.lc = .vendorDebug → e.1 = .nonInvasive → ends e.2 0 raised) ∧
        (m.lc = .vendorDebug ∨ m.lc = .rma → e.1 = .invasive → needs .vendor) ∧ (m.lc = .retired → same e.2 1)) ∧
      (m.dbg.code < e.1.code → m.powered = false → same e.2 1) ∧ (m.dbg = e.1 → same e.2 0)) ∧
    (∀ k target, (m.buf 0 8 ≠ m.mid.toNat ∨ m.buf 8 1 ≠ m.lc.code ∨ m.buf 9 1 ≠ target ∨
        m.nonce ≠ some (BitVec.ofNat 384 (m.buf 0x10 48)) → m.token k target = 3) ∧
      (m.buf 0 8 = m.mid.toNat → m.buf 8 1 = m.lc.code → m.buf 9 1 = target → m.buf 0xA 6 = 0 →
        m.nonce = some (BitVec.ofNat 384 (m.buf 0x10 48)) → m.token .vendor target =
          let digest := Config.sha384 (m.bufBytes 0 0x40)
          if Config.rsaValid (Config.headerRsaKey m.fwHeader) digest (m.bufBytes 0x40 384) = true ∧
             Config.slhValid (Config.headerSlhKey m.fwHeader) digest (m.bufBytes 0x1C0 16224) = true then 0 else 2)) ∧
    (let moved (t : State) (lc : Lifecycle) (fuse : Bool) : Prop := t.mgmt.lc = lc ∧ t.mgmt.fuseLc = (if fuse then lc else m.fuseLc) ∧
       Claim.Extended s t 3 (Claim.changeDigest 0 m.lc.code lc.code)
     let wiped (t : State) : Prop := t.mgmt.tenant = none ∧ t.gmem = Mem.empty ∧ t.pages = [] ∧ ∀ d, (t.die d).undo = [] ∧ (t.die d).keptUndo = []
     let withToken (target : Nat) (i : Instr) (p : State → Prop) : Prop := if m.token .vendor target = 0 then ends i 0 p
       else ends i (m.token .vendor target) fun t => t.mgmt.lc = m.lc ∧ t.mgmt.nonce = none
     (s.jobs = [] →
       (m.lc = .mfg → withToken 1 (.lifecycleDeployed path) fun t => moved t .deployed true ∧ t.mgmt.dbg = .off) ∧
       (m.lc = .tenant → ends (.lifecycleDeployed path) 0 fun t => moved t .deployed false ∧ wiped t) ∧
       (m.lc = .vendorDebug → ends (.lifecycleDeployed path) 0 fun t => moved t .deployed false ∧ t.mgmt.dbg = .off ∧
         t.ctxs = [] ∧ t.gmem = Mem.empty) ∧
       (m.lc = .deployed ∨ m.lc = .tenant → if m.token .vendor 3 ≠ 0 ∨ Config.wipeConfirmed s.fresh = true
         then withToken 3 (.lifecycleVendorDebug path) fun t => moved t .vendorDebug false ∧ wiped t
         else same (.lifecycleVendorDebug path) 1) ∧
       (m.lc = .deployed ∨ m.lc = .tenant ∨ m.lc = .vendorDebug →
         withToken 4 (.lifecycleRma path) fun t => moved t .rma true ∧ wiped t) ∧
       (m.lc = .deployed ∨ m.lc = .rma → withToken 5 (.lifecycleRetired path) fun t => moved t .retired true ∧
         t.mgmt.attestGone = true ∧ t.mgmt.pwr = .standby)) ∧
     (s.jobs ≠ [] → m.lc = .deployed → same (.lifecycleVendorDebug path) 4 ∧ same (.lifecycleRma path) 4 ∧
       same (.lifecycleRetired path) 4) ∧
     (m.lc = .deployed ∨ m.lc = .rma ∨ m.lc = .retired → same (.lifecycleDeployed path) 1) ∧
     (m.lc = .mfg ∨ m.lc = .vendorDebug ∨ m.lc = .rma ∨ m.lc = .retired → same (.lifecycleVendorDebug path) 1) ∧
     (m.lc = .mfg ∨ m.lc = .rma ∨ m.lc = .retired → same (.lifecycleRma path) 1) ∧
     (m.lc = .mfg ∨ m.lc = .tenant ∨ m.lc = .vendorDebug ∨ m.lc = .retired → same (.lifecycleRetired path) 1)) ∧
    (let n := Config.nonceValue m.nonces
     ends (.nonce path) 0 fun t => t.mgmt.nonce = some n ∧ t.mgmt.nonces = m.nonces + 1 ∧ t.mgmt.mbuf.read 0 48 = n.toNat) ∧
    (m.attestGone = false → (m.nonce = none → same (.attest path) 3) ∧
      ∀ n, m.nonce = some n → ends (.attest path) 0 fun t => let b := t.mgmt.mbuf; t.mgmt.nonce = none ∧
        b.read 0 8 = m.mid.toNat ∧ b.read 8 3 = m.lc.code + 256 * m.dbg.code + 65536 * m.pwr.code ∧
        b.read 0x10 8 = m.fwVersion.toNat ∧ b.read 0x18 48 = n.toNat ∧ ∀ i < 8, b.read (0x48 + 48 * i) 48 = (tget 0 m.meas i).toNat) ∧
    (let pkg := m.bufBytes 0 1152
     let gone (r : Nat) : Prop := ends (.keyload path) r fun t => t.mgmt.nonce = none ∧ t.mgmt.lc = m.lc
     (m.lc ≠ .deployed → gone 1) ∧ (m.lc = .deployed → (s.jobs ≠ [] → gone 4) ∧
       (s.jobs = [] → (m.nonce = none → gone 3) ∧ ∀ n, m.nonce = some n →
         (m.buf 0 8 ≠ m.mid.toNat ∨ BitVec.ofNat 384 (m.buf 8 48) ≠ n → gone 3) ∧
         (m.buf 0 8 = m.mid.toNat → BitVec.ofNat 384 (m.buf 8 48) = n → if Config.onCurve (m.bufBytes 0x38 97) = false then gone 5
           else match m.openPackage n with
             | none => gone 2
             | some p => (p % 2 ^ 32 = 0 ∨ 16 < p % 2 ^ 32 ∨ p / 2 ^ 32 % 2 ^ 32 ≠ 0 → plainOk p = false) ∧
               if plainOk p = true ∧ m.buf 0x99 7 = 0 ∧ m.buf 0xAC 4 = 0
                 then ends (.keyload path) 0 fun t => t.mgmt.lc = .tenant ∧ t.mgmt.tenant = some p ∧ t.mgmt.nonce = none ∧
                   Claim.Extended s t 4 (bytesOf 48 (Config.sha384 pkg).toNat) ∧ Claim.Extended s t 3 (Claim.changeDigest 0 m.lc.code 2)
                 else gone 5)))) ∧
    (∀ r, (5 ≤ r → r ≤ 7 → ends (.extend path r) 0 fun t => Claim.Extended s t r (m.bufBytes 0 48)) ∧
      (r < 5 ∨ 7 < r → same (.extend path r) 5))

/-- O56. The step takes the first turn of the agenda: an event is executed; a context becomes the current one; with an empty agenda
the current context keeps its turn. A context that may issue, with nothing pending and no packet in the pipe, at an aligned,
resident, checked and unpoisoned address with no comparator match or one that the skip rule passes: the step is exec of the
instruction that the words of its loop buffer, its fetch buffer or the cluster’s instruction cache decode to, with those words
latched, a tag taken and its charge taken, after a loop at its end label has gone round and filler has been passed; words that
decode to no instruction take ILLEGAL_ENCODING; with the block still to come the context only waits. A waiting context’s step is
exec of the instruction it waits at. (The agenda and the atomic step are the model’s own, log 1 and 10.)
[03_counterflow_core.md, R36, R63, R64; 13_dispatch_and_power.md, R290; 19_traps_and_the_kill_wave.md, R366;
20_instruction_fault_catalogue.md, R370, R371, R372] -/
def Obligations.StepRunsDecodedInstruction : Prop :=
  ∀ s : State,
    (∀ i r, s.agenda = .event i :: r → Instr.isEvent i = true → step s = exec i { s with agenda := r }) ∧
    ∀ u : State, (s.agenda = [] ∧ u = s) ∨ (∃ c r, s.agenda = .context c :: r ∧ u = { s with agenda := r, cur := c }) →
      u.me.stepping = false → u.eligible u.cur = true → u.me.imprecise = [] → u.windowEmpty u.cur = true →
      (u.me.run = .active → let v := State.settle u.cur fillerFuel u
        let t := v.fetchHits v.cur
        let pc := t.me.pc.toNat
        let ws := t.codeWords t.cur pc
        let issued (n : Nat) : State := (t.modMe Ctx.skipped).latch (takenWords ws) n
        pc % 4 = 0 → (t.page (pageOf (t.codeVa t.cur pc))).resident = true →
        ((t.me.bps && t.me.bpArmed) = true ∨ (t.core t.myCore).matching t.cur t.me.pc = none) →
        t.fetchCheck t.cur pc = none → t.fetchChecks t.cur pc (takenWords ws).length = none →
        (∀ n < (takenWords ws).length, t.fetchPoisoned t.cur (pc + 4 * n) 4 = false) →
          (∀ i n, decode ws = .ok (i, n) → step s = exec i (issued (Instr.charge i))) ∧
          (∀ e, decode ws = .error e → ws.headD 0 ≠ 0 → ws.headD 0 % 8 ≠ 4 →
            step s = .next ((issued 1).trap 0x01 (e.ceaddr 0) t.me.pc)) ∧
          (ws.headD 0 = 0 → step s = .next t)) ∧
      (∀ w i n, u.me.run = .waiting w → decode (u.me.ir.map BitVec.toNat) = .ok (i, n) → step s = exec i u)

/-- O57. After reset every CSR but cid reads 0, every segment has limit 0 and no rights, the slot rows are 0; P, Q and the mailbox
counters of every core are 0, every tensor table entry has its reset value, no slot or tile is claimed, no comparator is
enabled, the cycle counter is 0; core tables are the identity, B is 64, the throttle threshold 100, the slot tables 0; no squad,
job, launch or message exists; the split is 0; MSTAT’s SEQ, RESULT, BUSY, DBG and PWR are 0, the measurement registers and the
controller time 0. Every memory is in canonical form, and no context may issue. (That the dies are up and the module ON, with
every context idle, is the reading of log 2 and 4.) [02_module_and_its_parts.md, R18, R24; 04_work_hierarchy_and_squads.md, R80;
05_memory_spaces_and_splits.md, R90, R98, R99, R111; 06_number_formats.md, R137; 08_scalar_and_control_instructions.md, R178,
R183; 13_dispatch_and_power.md, R287, R292, R294; 18_fabric_host_and_security.md, R336, R340; 19_traps_and_the_kill_wave.md,
R365] -/
def Obligations.ResetState : Prop :=
  (∀ c : CtxId, (∀ r : Csr, r ≠ .cid → State.reset.csr c r = 0) ∧ (∀ i, (State.reset.ctx c).readSeg i = Seg.zero) ∧
    (State.reset.ctx c).row = Row.zero ∧ State.reset.eligible c = false) ∧
  (∀ c : CoreId, let k := State.reset.core c
    (∀ a, k.p.cells.byte a = 0 ∧ k.q.cells.byte a = 0) ∧ (∀ n, tget 0 k.mb n = 0) ∧
    (∀ n, tget Tensor.reset k.tt n = Tensor.reset) ∧ Tensor.reset.valid = false ∧ Tensor.reset.extra = 0x7FC00000 ∧
    (∀ q n, tget 0 (k.claims q) n = 0) ∧ (∀ n, (tget Breakpoint.zero k.bp n).en = false) ∧ k.cycle = 0) ∧
  (∀ c : ClusterId, let q := State.reset.cluster c
    (∀ n, tget n q.coreTable n = n) ∧ q.budget = 64 ∧ q.theta = 100 ∧ q.slots = []) ∧
  State.reset.squads = [] ∧ State.reset.jobs = [] ∧ State.reset.launches = [] ∧ State.reset.net = [] ∧
  State.reset.seals.split = 0 ∧ State.reset.mgmt.seq = 0 ∧ State.reset.mgmt.result = 0 ∧ State.reset.mgmt.busy = false ∧
  State.reset.mgmt.dbg = .off ∧ State.reset.mgmt.pwr = .on ∧ State.reset.mgmt.time = 0 ∧
  (∀ n, tget 0 State.reset.mgmt.meas n = 0) ∧ MemoryOk State.reset

/-- O58. From every state in which global memory, the S, P and Q of every core, those of every saved and sealed image, and the
module controller’s buffer are in canonical form (addresses strictly rising, no entry equal to what an unlisted address reads
as) and no frame of global memory belongs to two pages, a step that answers a next state, of an instruction or of an event,
leaves them all in canonical form and no frame shared; equal memories are thus equal data. [00_scope.md, R4;
05_memory_spaces_and_splits.md, R90, R111, R112] -/
def Obligations.StepKeepsMemoryCanonical : Prop :=
  ∀ s t : State, MemoryOk s → step s = .next t → MemoryOk t

/-- O59. For every well-formed instruction, with every operand at every value that its encoding admits, its words are two to four
32-bit words, with the length in bits 1:0 of the first and the 0b100 marker in every later one, and decoding them, whatever
words follow in the block, gives that instruction and its length. Conversely, 32-bit words that decode to an instruction are
that instruction’s words, and it is well-formed: no reserved bit is ignored and no two encodings mean one instruction.
[07_instruction_formats_and_opcode_map.md, R140, R141, R144, R145, R146, R147, R148, R149, R150, R151;
20_instruction_fault_catalogue.md, R370] -/
def Obligations.DecodeEncodeRoundTrip : Prop :=
  (∀ (i : Instr) (rest : List Nat), Instr.wf i = true → let ws := encode i
    2 ≤ ws.length ∧ ws.length ≤ 4 ∧ (∀ w ∈ ws, w < 2 ^ 32) ∧ ws.headD 0 % 4 + 1 = ws.length ∧ (∀ w ∈ ws.tail, w % 8 = 4) ∧
    decode (ws ++ rest) = .ok (i, ws.length)) ∧
  (∀ (ws : List Nat) (i : Instr) (n : Nat), (∀ w ∈ ws, w < 2 ^ 32) → decode ws = .ok (i, n) →
    Instr.wf i = true ∧ encode i = ws.take n)

/-- O60. ADDI g6, g5, 2 and BFX g5, g6, 4, 8 (F64I); LDG g10, [s1:g8], AMOADD g0, g9, [s2:g13 + 8] and AMOCAS.ACQ g6, g7, [s1:g4 +
8] (F64M); FENCE.G and WAITC mem; SQSCAN.add.i64 g13, h0, g4; CSRWR g0, cwlim, g5; MMA.4x1 t8, t2, t3 with its wait and signal
fields (F128E): each decodes, with its length, from words written bit by bit from the format tables and the opcode map. ADD with
ty = 3 is refused with reason 4 at bit 8 of word 1. [07_instruction_formats_and_opcode_map.md, R144, R146, R147, R148, R151,
R157; 20_instruction_fault_catalogue.md, R371] -/
def Obligations.SampleWordsDecode : Prop :=
  let m (a : GReg) (s : SReg) (o : MemOrd) : MemAddr := ⟨a, 0, o, .none, .plain, s, .global⟩
  decode [0x00029809, 0x00000014] = .ok (.addi 6 5 2, 2) ∧ decode [0x42031409, 0x00000E24] = .ok (.bfx 5 6 4 7, 2) ∧
  decode [0x0E042941, 0x00030004] = .ok (.ldg 10 (m 8 1 .none) 0, 2) ∧
  decode [0x04968151, 0x00050044] = .ok (.amoadd 0 9 false (m 13 2 .none) 8, 2) ∧
  decode [0x16721951, 0x01030044] = .ok (.amocas 6 7 false (m 4 1 .acq) 8, 2) ∧
  decode [0x0000015D, 0x00300004] = .ok (.fence .g, 2) ∧ decode [0x0400015D, 0x00200004] = .ok (.waitc 4, 2) ∧
  decode [0x104035A9, 0x00000404] = .ok (.sqscan .add .i64 13 0 4, 2) ∧
  decode [0x02028341, 0x01800004] = .ok (.csrwr 0 .cwlim 5, 2) ∧
  decode [0x000002CB, 0x80018444, 0x0800080C, 0x00000814] = .ok (.mma .s4x1 false 8 2 3 ⟨true, 1, 1, 1, 2⟩, 4) ∧
  decode [0x00731405, 0x00000304] = .error ⟨4, 1, 8⟩
end

