-- ==== Sys2Proof/Laws/Table.lean ====
section
/-! SUPPORT. Laws of the sparse tables: a read after a write, and the canonical form that every write keeps. -/

namespace Sys2Proof.Machine

variable {α : Type}

@[simp] theorem tget_nil (d : α) (k : Nat) : tget d [] k = d := rfl

theorem tget_terase (d : α) (m : List (Nat × α)) (k j : Nat) :
    tget d (terase m k) j = if j = k then d else tget d m j := by
  induction m with
  | nil => simp [terase, tget]
  | cons e r ih =>
    obtain ⟨k', v⟩ := e
    by_cases h : k' = k
    · subst h
      simp only [terase, if_true, ih, tget]
      split <;> rename_i h1
      · rfl
      · simp [Ne.symm h1]
    · simp only [terase, h, if_false, tget, ih]
      split <;> rename_i h1
      · subst h1; simp [h]
      · rfl

theorem tget_tinsert (d : α) (m : List (Nat × α)) (k : Nat) (v : α) (j : Nat) (h : tget d m k = d)
    (hn : ∀ w, (k, w) ∉ m) : tget d (tinsert m k v) j = if j = k then v else tget d m j := by
  induction m with
  | nil => simp [tinsert, tget, eq_comm]
  | cons e r ih =>
    obtain ⟨k', v'⟩ := e
    have hk : k' ≠ k := fun e => hn v' (by simp [e])
    simp only [tinsert]
    split
    · simp only [tget, eq_comm (a := k) (b := j)]
    · have hr : tget d r k = d := by simpa [tget, hk] using h
      simp only [tget, ih hr fun w hw => hn w (by simp [hw])]
      split <;> rename_i h1
      · subst h1; simp [hk]
      · rfl

theorem terase_not_mem (m : List (Nat × α)) (k : Nat) (w : α) : (k, w) ∉ terase m k := by
  induction m with
  | nil => simp [terase]
  | cons e r ih =>
    obtain ⟨k', v⟩ := e
    by_cases h : k' = k
    · simpa [terase, h] using ih
    · simp [terase, h, ih, Ne.symm h]

/-- A read after a write. -/
theorem tget_tset [DecidableEq α] (d : α) (m : List (Nat × α)) (k : Nat) (v : α) (j : Nat) :
    tget d (tset d m k v) j = if j = k then v else tget d m j := by
  unfold tset
  split
  · next h => simp [tget_terase, h]
  · rw [tget_tinsert d _ k v j (by simp [tget_terase]) fun w => terase_not_mem m k w]
    simp only [tget_terase]
    split <;> simp_all

@[simp] theorem tget_tset_same [DecidableEq α] (d : α) (m : List (Nat × α)) (k : Nat) (v : α) :
    tget d (tset d m k v) k = v := by simp [tget_tset]

theorem tget_tset_other [DecidableEq α] (d : α) (m : List (Nat × α)) {k j : Nat} (v : α) (h : j ≠ k) :
    tget d (tset d m k v) j = tget d m j := by simp [tget_tset, h]

/-! ### The canonical form -/

theorem twfFrom_mono [DecidableEq α] {d : α} {m : List (Nat × α)} {a b : Nat} (h : b ≤ a)
    (w : twfFrom d a m = true) : twfFrom d b m = true := by
  cases m with
  | nil => rfl
  | cons e r =>
    simp only [twfFrom, Bool.and_eq_true, decide_eq_true_eq] at w ⊢
    exact ⟨⟨by omega, w.1.2⟩, w.2⟩

theorem twfFrom_terase [DecidableEq α] {d : α} (k : Nat) {m : List (Nat × α)} {a : Nat}
    (w : twfFrom d a m = true) : twfFrom d a (terase m k) = true := by
  induction m generalizing a with
  | nil => rfl
  | cons e r ih =>
    simp only [twfFrom, Bool.and_eq_true, decide_eq_true_eq] at w
    simp only [terase]
    split
    · exact twfFrom_mono (by omega) (ih w.2)
    · simp only [twfFrom, Bool.and_eq_true, decide_eq_true_eq]
      exact ⟨w.1, ih w.2⟩

theorem twfFrom_tinsert [DecidableEq α] {d : α} {k : Nat} {v : α} (hv : v ≠ d) {m : List (Nat × α)} {a : Nat}
    (ha : a ≤ k) (hn : ∀ x, (k, x) ∉ m) (w : twfFrom d a m = true) : twfFrom d a (tinsert m k v) = true := by
  induction m generalizing a with
  | nil => simp [tinsert, twfFrom, ha, hv]
  | cons e r ih =>
    obtain ⟨k', v'⟩ := e
    have hk : k' ≠ k := fun e => hn v' (by simp [e])
    simp only [twfFrom, Bool.and_eq_true, decide_eq_true_eq] at w
    simp only [tinsert]
    split
    · simp only [twfFrom, Bool.and_eq_true, decide_eq_true_eq]
      exact ⟨⟨ha, hv⟩, ⟨by omega, w.1.2⟩, w.2⟩
    · simp only [twfFrom, Bool.and_eq_true, decide_eq_true_eq]
      exact ⟨w.1, ih (by omega) (fun x hx => hn x (by simp [hx])) w.2⟩

/-- A write keeps the canonical form. -/
theorem twf_tset [DecidableEq α] {d : α} {m : List (Nat × α)} (k : Nat) (v : α) (w : twf d m = true) :
    twf d (tset d m k v) = true := by
  unfold tset twf at *
  split
  · exact twfFrom_terase k w
  · next h => exact twfFrom_tinsert h (Nat.zero_le k) (fun x => terase_not_mem m k x) (twfFrom_terase k w)

/-- In a canonical table every listed value is what its key reads as. -/
theorem tget_of_mem [DecidableEq α] {d : α} {m : List (Nat × α)} {a k : Nat} {v : α} (w : twfFrom d a m = true)
    (h : (k, v) ∈ m) : tget d m k = v ∧ a ≤ k := by
  induction m generalizing a with
  | nil => simp at h
  | cons e r ih =>
    obtain ⟨k', v'⟩ := e
    simp only [twfFrom, Bool.and_eq_true, decide_eq_true_eq] at w
    rcases List.mem_cons.1 h with h | h
    · cases h; simp [tget, w.1.1]
    · obtain ⟨h1, h2⟩ := ih w.2 h
      exact ⟨by simpa [tget, show k' ≠ k by omega] using h1, by omega⟩

/-- A property of every value that a table holds is kept when the new value has it. -/
theorem forall_tset [DecidableEq α] {d : α} {m : List (Nat × α)} {p : α → Prop} (k : Nat) {v : α} (hv : p v)
    (h : ∀ e ∈ m, p e.2) : ∀ e ∈ tset d m k v, p e.2 := by
  have he : ∀ m : List (Nat × α), (∀ e ∈ m, p e.2) → ∀ e ∈ terase m k, p e.2 := by
    intro m h
    induction m with
    | nil => simp [terase]
    | cons e r ih =>
      obtain ⟨k', v'⟩ := e
      simp only [List.forall_mem_cons] at h
      simp only [terase]
      split
      · exact ih h.2
      · exact List.forall_mem_cons.2 ⟨h.1, ih h.2⟩
  have hi : ∀ m : List (Nat × α), (∀ e ∈ m, p e.2) → ∀ e ∈ tinsert m k v, p e.2 := by
    intro m h
    induction m with
    | nil => simpa [tinsert] using hv
    | cons e r ih =>
      simp only [List.forall_mem_cons] at h
      simp only [tinsert]
      split
      · exact List.forall_mem_cons.2 ⟨hv, List.forall_mem_cons.2 h⟩
      · exact List.forall_mem_cons.2 ⟨h.1, ih h.2⟩
  unfold tset
  split
  · exact he m h
  · exact hi _ (he m h)

/-- A property of the default and of every listed value is a property of every read. -/
theorem tget_forall {d : α} {m : List (Nat × α)} {p : α → Prop} (hd : p d) (h : ∀ e ∈ m, p e.2) (k : Nat) :
    p (tget d m k) := by
  induction m with
  | nil => exact hd
  | cons e r ih =>
    obtain ⟨k', v'⟩ := e
    simp only [List.forall_mem_cons] at h
    simp only [tget]
    split
    · exact h.1
    · exact ih h.2

end Sys2Proof.Machine
end

