-- ==== Sys2Proof/Laws/Memory.lean ====
section
/-! SUPPORT. Laws of byte memories: a byte after a write, a read after a write, and the canonical form that every memory
operation keeps. -/

namespace Sys2Proof.Machine

theorem byte_setByte (m : Memory) (a : Nat) (b : Byte) (c : Nat) :
    (m.setByte a b).byte c = if c = a then b else m.byte c := tget_tset ..

/-- Byte c after n bytes of v were written at a: byte c - a of v inside, the old byte outside (R4). -/
theorem byte_write (m : Memory) (a n v c : Nat) :
    (m.write a n v).byte c = if a ≤ c ∧ c < a + n then BitVec.ofNat 8 (v / 256 ^ (c - a)) else m.byte c := by
  induction n generalizing m a v with
  | zero => simp [Memory.write]
  | succ n ih =>
    simp only [Memory.write, ih, byte_setByte]
    by_cases h1 : c = a
    · subst h1; simp
    · by_cases h2 : a ≤ c ∧ c < a + (n + 1)
      · rw [if_pos (by omega), if_pos h2, show c - a = (c - (a + 1)) + 1 by omega, Nat.pow_succ, Nat.mul_comm,
          Nat.div_div_eq_div_mul]
      · rw [if_neg (by omega), if_neg h1, if_neg h2]

/-- Bytes outside a write are unchanged. -/
theorem byte_write_outside (m : Memory) {a n c : Nat} (v : Nat) (h : c < a ∨ a + n ≤ c) :
    (m.write a n v).byte c = m.byte c := by rw [byte_write, if_neg (by omega)]

/-- A read depends on the bytes of its range only. -/
theorem read_congr {m m' : Memory} {a n : Nat} (h : ∀ i < n, m.byte (a + i) = m'.byte (a + i)) :
    m.read a n = m'.read a n := by
  induction n generalizing a with
  | zero => rfl
  | succ n ih =>
    have h0 := h 0 (by omega)
    simp only [Nat.add_zero] at h0
    simp only [Memory.read, h0]
    rw [ih fun i hi => by have := h (i + 1) (by omega); rwa [← Nat.add_assoc, Nat.add_right_comm] at this]

/-- A read after a write to the same place gives the value written. -/
theorem read_write (m : Memory) (a n v : Nat) : (m.write a n v).read a n = v % 256 ^ n := by
  have key : ∀ n a v (m : Memory), (∀ i < n, m.byte (a + i) = BitVec.ofNat 8 (v / 256 ^ i)) → m.read a n = v % 256 ^ n := by
    intro n
    induction n with
    | zero => intro a v m _; simp [Memory.read, Nat.mod_one]
    | succ n ih =>
      intro a v m h
      have h0 := h 0 (by omega)
      simp only [Nat.add_zero, Nat.pow_zero, Nat.div_one] at h0
      have := ih (a + 1) (v / 256) m fun i hi => by
        have := h (i + 1) (by omega)
        rw [show a + 1 + i = a + (i + 1) by omega, this, Nat.pow_succ, Nat.mul_comm, Nat.div_div_eq_div_mul]
      simp only [Memory.read, h0, this, BitVec.toNat_ofNat]
      rw [show 256 ^ (n + 1) = 256 * 256 ^ n from Nat.pow_succ', Nat.mod_mul]
  exact key n a v _ fun i hi => by rw [byte_write, if_pos (by omega), Nat.add_sub_cancel_left]

/-- A read that a write does not touch. -/
theorem read_write_outside (m : Memory) {a n b k : Nat} (v : Nat) (h : b + k ≤ a ∨ a + n ≤ b) :
    (m.write a n v).read b k = m.read b k :=
  read_congr fun i hi => byte_write_outside m v (by omega)

theorem read_lt (m : Memory) (a n : Nat) : m.read a n < 256 ^ n := by
  induction n generalizing a with
  | zero => simp [Memory.read]
  | succ n ih =>
    have h1 := ih (a + 1)
    have h2 := (m.byte a).isLt
    simp only [Memory.read, Nat.pow_succ]
    omega

/-! ### The canonical form -/

/-- Writing a byte keeps the canonical form. -/
theorem wf_setByte {m : Memory} (a : Nat) (b : Byte) (w : m.wf = true) : (m.setByte a b).wf = true := twf_tset a b w

/-- Writing bytes keeps the canonical form. -/
theorem wf_write {m : Memory} (a n v : Nat) (w : m.wf = true) : (m.write a n v).wf = true := by
  induction n generalizing m a v with
  | zero => exact w
  | succ n ih => exact ih _ _ (wf_setByte a _ w)

/-- A write of a memory with its marks keeps the canonical form of the bytes. -/
theorem wf_mem_write {m : Mem} (line a n v : Nat) (w : m.cells.wf = true) : (m.write line a n v).cells.wf = true :=
  wf_write a n v w

@[simp] theorem cells_mem_write (m : Mem) (line a n v : Nat) : (m.write line a n v).cells = m.cells.write a n v := rfl
@[simp] theorem cells_setMark (m : Mem) (w : Nat) (k : WordMark) : (m.setMark w k).cells = m.cells := rfl
@[simp] theorem cells_poison (m : Mem) (a n : Nat) : (m.poison a n).cells = m.cells := rfl

/-- The empty memory is canonical. -/
theorem wf_empty : Memory.wf [] = true := rfl

end Sys2Proof.Machine
end

