-- ==== Sys2Proof/Laws/State.lean ====
section
/-! SUPPORT. One lemma per field per update: what each named update of the state, of a context and of a core leaves as it was,
and what it gives. Each holds by unfolding the update once. -/

namespace Sys2Proof.Machine

/-! ### Updates of the state: the fields they leave -/

@[simp] theorem State.setCtx_cur (s : State) (c : CtxId) (x : Ctx) : (s.setCtx c x).cur = s.cur := rfl
@[simp] theorem State.setCtx_agenda (s : State) (c : CtxId) (x : Ctx) : (s.setCtx c x).agenda = s.agenda := rfl
@[simp] theorem State.setCtx_fresh (s : State) (c : CtxId) (x : Ctx) : (s.setCtx c x).fresh = s.fresh := rfl
@[simp] theorem State.setCtx_nextId (s : State) (c : CtxId) (x : Ctx) : (s.setCtx c x).nextId = s.nextId := rfl
@[simp] theorem State.setCtx_cores (s : State) (c : CtxId) (x : Ctx) : (s.setCtx c x).cores = s.cores := rfl
@[simp] theorem State.setCtx_clusters (s : State) (c : CtxId) (x : Ctx) : (s.setCtx c x).clusters = s.clusters := rfl
@[simp] theorem State.setCtx_dies (s : State) (c : CtxId) (x : Ctx) : (s.setCtx c x).dies = s.dies := rfl
@[simp] theorem State.setCtx_gmem (s : State) (c : CtxId) (x : Ctx) : (s.setCtx c x).gmem = s.gmem := rfl
@[simp] theorem State.setCtx_gwritten (s : State) (c : CtxId) (x : Ctx) : (s.setCtx c x).gwritten = s.gwritten := rfl
@[simp] theorem State.setCtx_pages (s : State) (c : CtxId) (x : Ctx) : (s.setCtx c x).pages = s.pages := rfl
@[simp] theorem State.setCtx_frame (s : State) (c : CtxId) (x : Ctx) : (s.setCtx c x).frame = s.frame := rfl
@[simp] theorem State.setCtx_net (s : State) (c : CtxId) (x : Ctx) : (s.setCtx c x).net = s.net := rfl
@[simp] theorem State.setCtx_applied (s : State) (c : CtxId) (x : Ctx) : (s.setCtx c x).applied = s.applied := rfl
@[simp] theorem State.setCtx_dispatchClock (s : State) (c : CtxId) (x : Ctx) : (s.setCtx c x).dispatchClock = s.dispatchClock := rfl
@[simp] theorem State.setCtx_squads (s : State) (c : CtxId) (x : Ctx) : (s.setCtx c x).squads = s.squads := rfl
@[simp] theorem State.setCtx_colls (s : State) (c : CtxId) (x : Ctx) : (s.setCtx c x).colls = s.colls := rfl
@[simp] theorem State.setCtx_jobs (s : State) (c : CtxId) (x : Ctx) : (s.setCtx c x).jobs = s.jobs := rfl
@[simp] theorem State.setCtx_launches (s : State) (c : CtxId) (x : Ctx) : (s.setCtx c x).launches = s.launches := rfl
@[simp] theorem State.setCtx_graphs (s : State) (c : CtxId) (x : Ctx) : (s.setCtx c x).graphs = s.graphs := rfl
@[simp] theorem State.setCtx_nextLaunch (s : State) (c : CtxId) (x : Ctx) : (s.setCtx c x).nextLaunch = s.nextLaunch := rfl
@[simp] theorem State.setCtx_nextGraph (s : State) (c : CtxId) (x : Ctx) : (s.setCtx c x).nextGraph = s.nextGraph := rfl
@[simp] theorem State.setCtx_served (s : State) (c : CtxId) (x : Ctx) : (s.setCtx c x).served = s.served := rfl
@[simp] theorem State.setCtx_saved (s : State) (c : CtxId) (x : Ctx) : (s.setCtx c x).saved = s.saved := rfl
@[simp] theorem State.setCtx_seals (s : State) (c : CtxId) (x : Ctx) : (s.setCtx c x).seals = s.seals := rfl
@[simp] theorem State.setCtx_sequencer (s : State) (c : CtxId) (x : Ctx) : (s.setCtx c x).sequencer = s.sequencer := rfl
@[simp] theorem State.setCtx_mgmt (s : State) (c : CtxId) (x : Ctx) : (s.setCtx c x).mgmt = s.mgmt := rfl
@[simp] theorem State.setCtx_ports (s : State) (c : CtxId) (x : Ctx) : (s.setCtx c x).ports = s.ports := rfl
@[simp] theorem State.setCtx_routes (s : State) (c : CtxId) (x : Ctx) : (s.setCtx c x).routes = s.routes := rfl
@[simp] theorem State.setCtx_pins (s : State) (c : CtxId) (x : Ctx) : (s.setCtx c x).pins = s.pins := rfl
@[simp] theorem State.setCtx_links (s : State) (c : CtxId) (x : Ctx) : (s.setCtx c x).links = s.links := rfl
@[simp] theorem State.setCtx_deadLinks (s : State) (c : CtxId) (x : Ctx) : (s.setCtx c x).deadLinks = s.deadLinks := rfl
@[simp] theorem State.setCtx_owed (s : State) (c : CtxId) (x : Ctx) : (s.setCtx c x).owed = s.owed := rfl
@[simp] theorem State.setCtx_toWindow (s : State) (c : CtxId) (x : Ctx) : (s.setCtx c x).toWindow = s.toWindow := rfl
@[simp] theorem State.setCtx_outside (s : State) (c : CtxId) (x : Ctx) : (s.setCtx c x).outside = s.outside := rfl

@[simp] theorem State.modCtx_cur (s : State) (c : CtxId) (f : Ctx → Ctx) : (s.modCtx c f).cur = s.cur := rfl
@[simp] theorem State.modCtx_agenda (s : State) (c : CtxId) (f : Ctx → Ctx) : (s.modCtx c f).agenda = s.agenda := rfl
@[simp] theorem State.modCtx_fresh (s : State) (c : CtxId) (f : Ctx → Ctx) : (s.modCtx c f).fresh = s.fresh := rfl
@[simp] theorem State.modCtx_nextId (s : State) (c : CtxId) (f : Ctx → Ctx) : (s.modCtx c f).nextId = s.nextId := rfl
@[simp] theorem State.modCtx_cores (s : State) (c : CtxId) (f : Ctx → Ctx) : (s.modCtx c f).cores = s.cores := rfl
@[simp] theorem State.modCtx_clusters (s : State) (c : CtxId) (f : Ctx → Ctx) : (s.modCtx c f).clusters = s.clusters := rfl
@[simp] theorem State.modCtx_dies (s : State) (c : CtxId) (f : Ctx → Ctx) : (s.modCtx c f).dies = s.dies := rfl
@[simp] theorem State.modCtx_gmem (s : State) (c : CtxId) (f : Ctx → Ctx) : (s.modCtx c f).gmem = s.gmem := rfl
@[simp] theorem State.modCtx_gwritten (s : State) (c : CtxId) (f : Ctx → Ctx) : (s.modCtx c f).gwritten = s.gwritten := rfl
@[simp] theorem State.modCtx_pages (s : State) (c : CtxId) (f : Ctx → Ctx) : (s.modCtx c f).pages = s.pages := rfl
@[simp] theorem State.modCtx_frame (s : State) (c : CtxId) (f : Ctx → Ctx) : (s.modCtx c f).frame = s.frame := rfl
@[simp] theorem State.modCtx_net (s : State) (c : CtxId) (f : Ctx → Ctx) : (s.modCtx c f).net = s.net := rfl
@[simp] theorem State.modCtx_applied (s : State) (c : CtxId) (f : Ctx → Ctx) : (s.modCtx c f).applied = s.applied := rfl
@[simp] theorem State.modCtx_dispatchClock (s : State) (c : CtxId) (f : Ctx → Ctx) : (s.modCtx c f).dispatchClock = s.dispatchClock := rfl
@[simp] theorem State.modCtx_squads (s : State) (c : CtxId) (f : Ctx → Ctx) : (s.modCtx c f).squads = s.squads := rfl
@[simp] theorem State.modCtx_colls (s : State) (c : CtxId) (f : Ctx → Ctx) : (s.modCtx c f).colls = s.colls := rfl
@[simp] theorem State.modCtx_jobs (s : State) (c : CtxId) (f : Ctx → Ctx) : (s.modCtx c f).jobs = s.jobs := rfl
@[simp] theorem State.modCtx_launches (s : State) (c : CtxId) (f : Ctx → Ctx) : (s.modCtx c f).launches = s.launches := rfl
@[simp] theorem State.modCtx_graphs (s : State) (c : CtxId) (f : Ctx → Ctx) : (s.modCtx c f).graphs = s.graphs := rfl
@[simp] theorem State.modCtx_nextLaunch (s : State) (c : CtxId) (f : Ctx → Ctx) : (s.modCtx c f).nextLaunch = s.nextLaunch := rfl
@[simp] theorem State.modCtx_nextGraph (s : State) (c : CtxId) (f : Ctx → Ctx) : (s.modCtx c f).nextGraph = s.nextGraph := rfl
@[simp] theorem State.modCtx_served (s : State) (c : CtxId) (f : Ctx → Ctx) : (s.modCtx c f).served = s.served := rfl
@[simp] theorem State.modCtx_saved (s : State) (c : CtxId) (f : Ctx → Ctx) : (s.modCtx c f).saved = s.saved := rfl
@[simp] theorem State.modCtx_seals (s : State) (c : CtxId) (f : Ctx → Ctx) : (s.modCtx c f).seals = s.seals := rfl
@[simp] theorem State.modCtx_sequencer (s : State) (c : CtxId) (f : Ctx → Ctx) : (s.modCtx c f).sequencer = s.sequencer := rfl
@[simp] theorem State.modCtx_mgmt (s : State) (c : CtxId) (f : Ctx → Ctx) : (s.modCtx c f).mgmt = s.mgmt := rfl
@[simp] theorem State.modCtx_ports (s : State) (c : CtxId) (f : Ctx → Ctx) : (s.modCtx c f).ports = s.ports := rfl
@[simp] theorem State.modCtx_routes (s : State) (c : CtxId) (f : Ctx → Ctx) : (s.modCtx c f).routes = s.routes := rfl
@[simp] theorem State.modCtx_pins (s : State) (c : CtxId) (f : Ctx → Ctx) : (s.modCtx c f).pins = s.pins := rfl
@[simp] theorem State.modCtx_links (s : State) (c : CtxId) (f : Ctx → Ctx) : (s.modCtx c f).links = s.links := rfl
@[simp] theorem State.modCtx_deadLinks (s : State) (c : CtxId) (f : Ctx → Ctx) : (s.modCtx c f).deadLinks = s.deadLinks := rfl
@[simp] theorem State.modCtx_owed (s : State) (c : CtxId) (f : Ctx → Ctx) : (s.modCtx c f).owed = s.owed := rfl
@[simp] theorem State.modCtx_toWindow (s : State) (c : CtxId) (f : Ctx → Ctx) : (s.modCtx c f).toWindow = s.toWindow := rfl
@[simp] theorem State.modCtx_outside (s : State) (c : CtxId) (f : Ctx → Ctx) : (s.modCtx c f).outside = s.outside := rfl

@[simp] theorem State.setCore_cur (s : State) (c : CoreId) (x : Core) : (s.setCore c x).cur = s.cur := rfl
@[simp] theorem State.setCore_agenda (s : State) (c : CoreId) (x : Core) : (s.setCore c x).agenda = s.agenda := rfl
@[simp] theorem State.setCore_fresh (s : State) (c : CoreId) (x : Core) : (s.setCore c x).fresh = s.fresh := rfl
@[simp] theorem State.setCore_nextId (s : State) (c : CoreId) (x : Core) : (s.setCore c x).nextId = s.nextId := rfl
@[simp] theorem State.setCore_ctxs (s : State) (c : CoreId) (x : Core) : (s.setCore c x).ctxs = s.ctxs := rfl
@[simp] theorem State.setCore_clusters (s : State) (c : CoreId) (x : Core) : (s.setCore c x).clusters = s.clusters := rfl
@[simp] theorem State.setCore_dies (s : State) (c : CoreId) (x : Core) : (s.setCore c x).dies = s.dies := rfl
@[simp] theorem State.setCore_gmem (s : State) (c : CoreId) (x : Core) : (s.setCore c x).gmem = s.gmem := rfl
@[simp] theorem State.setCore_gwritten (s : State) (c : CoreId) (x : Core) : (s.setCore c x).gwritten = s.gwritten := rfl
@[simp] theorem State.setCore_pages (s : State) (c : CoreId) (x : Core) : (s.setCore c x).pages = s.pages := rfl
@[simp] theorem State.setCore_frame (s : State) (c : CoreId) (x : Core) : (s.setCore c x).frame = s.frame := rfl
@[simp] theorem State.setCore_net (s : State) (c : CoreId) (x : Core) : (s.setCore c x).net = s.net := rfl
@[simp] theorem State.setCore_applied (s : State) (c : CoreId) (x : Core) : (s.setCore c x).applied = s.applied := rfl
@[simp] theorem State.setCore_dispatchClock (s : State) (c : CoreId) (x : Core) : (s.setCore c x).dispatchClock = s.dispatchClock := rfl
@[simp] theorem State.setCore_squads (s : State) (c : CoreId) (x : Core) : (s.setCore c x).squads = s.squads := rfl
@[simp] theorem State.setCore_colls (s : State) (c : CoreId) (x : Core) : (s.setCore c x).colls = s.colls := rfl
@[simp] theorem State.setCore_jobs (s : State) (c : CoreId) (x : Core) : (s.setCore c x).jobs = s.jobs := rfl
@[simp] theorem State.setCore_launches (s : State) (c : CoreId) (x : Core) : (s.setCore c x).launches = s.launches := rfl
@[simp] theorem State.setCore_graphs (s : State) (c : CoreId) (x : Core) : (s.setCore c x).graphs = s.graphs := rfl
@[simp] theorem State.setCore_nextLaunch (s : State) (c : CoreId) (x : Core) : (s.setCore c x).nextLaunch = s.nextLaunch := rfl
@[simp] theorem State.setCore_nextGraph (s : State) (c : CoreId) (x : Core) : (s.setCore c x).nextGraph = s.nextGraph := rfl
@[simp] theorem State.setCore_served (s : State) (c : CoreId) (x : Core) : (s.setCore c x).served = s.served := rfl
@[simp] theorem State.setCore_saved (s : State) (c : CoreId) (x : Core) : (s.setCore c x).saved = s.saved := rfl
@[simp] theorem State.setCore_seals (s : State) (c : CoreId) (x : Core) : (s.setCore c x).seals = s.seals := rfl
@[simp] theorem State.setCore_sequencer (s : State) (c : CoreId) (x : Core) : (s.setCore c x).sequencer = s.sequencer := rfl
@[simp] theorem State.setCore_mgmt (s : State) (c : CoreId) (x : Core) : (s.setCore c x).mgmt = s.mgmt := rfl
@[simp] theorem State.setCore_ports (s : State) (c : CoreId) (x : Core) : (s.setCore c x).ports = s.ports := rfl
@[simp] theorem State.setCore_routes (s : State) (c : CoreId) (x : Core) : (s.setCore c x).routes = s.routes := rfl
@[simp] theorem State.setCore_pins (s : State) (c : CoreId) (x : Core) : (s.setCore c x).pins = s.pins := rfl
@[simp] theorem State.setCore_links (s : State) (c : CoreId) (x : Core) : (s.setCore c x).links = s.links := rfl
@[simp] theorem State.setCore_deadLinks (s : State) (c : CoreId) (x : Core) : (s.setCore c x).deadLinks = s.deadLinks := rfl
@[simp] theorem State.setCore_owed (s : State) (c : CoreId) (x : Core) : (s.setCore c x).owed = s.owed := rfl
@[simp] theorem State.setCore_toWindow (s : State) (c : CoreId) (x : Core) : (s.setCore c x).toWindow = s.toWindow := rfl
@[simp] theorem State.setCore_outside (s : State) (c : CoreId) (x : Core) : (s.setCore c x).outside = s.outside := rfl

@[simp] theorem State.modCore_cur (s : State) (c : CoreId) (f : Core → Core) : (s.modCore c f).cur = s.cur := rfl
@[simp] theorem State.modCore_agenda (s : State) (c : CoreId) (f : Core → Core) : (s.modCore c f).agenda = s.agenda := rfl
@[simp] theorem State.modCore_fresh (s : State) (c : CoreId) (f : Core → Core) : (s.modCore c f).fresh = s.fresh := rfl
@[simp] theorem State.modCore_nextId (s : State) (c : CoreId) (f : Core → Core) : (s.modCore c f).nextId = s.nextId := rfl
@[simp] theorem State.modCore_ctxs (s : State) (c : CoreId) (f : Core → Core) : (s.modCore c f).ctxs = s.ctxs := rfl
@[simp] theorem State.modCore_clusters (s : State) (c : CoreId) (f : Core → Core) : (s.modCore c f).clusters = s.clusters := rfl
@[simp] theorem State.modCore_dies (s : State) (c : CoreId) (f : Core → Core) : (s.modCore c f).dies = s.dies := rfl
@[simp] theorem State.modCore_gmem (s : State) (c : CoreId) (f : Core → Core) : (s.modCore c f).gmem = s.gmem := rfl
@[simp] theorem State.modCore_gwritten (s : State) (c : CoreId) (f : Core → Core) : (s.modCore c f).gwritten = s.gwritten := rfl
@[simp] theorem State.modCore_pages (s : State) (c : CoreId) (f : Core → Core) : (s.modCore c f).pages = s.pages := rfl
@[simp] theorem State.modCore_frame (s : State) (c : CoreId) (f : Core → Core) : (s.modCore c f).frame = s.frame := rfl
@[simp] theorem State.modCore_net (s : State) (c : CoreId) (f : Core → Core) : (s.modCore c f).net = s.net := rfl
@[simp] theorem State.modCore_applied (s : State) (c : CoreId) (f : Core → Core) : (s.modCore c f).applied = s.applied := rfl
@[simp] theorem State.modCore_dispatchClock (s : State) (c : CoreId) (f : Core → Core) : (s.modCore c f).dispatchClock = s.dispatchClock := rfl
@[simp] theorem State.modCore_squads (s : State) (c : CoreId) (f : Core → Core) : (s.modCore c f).squads = s.squads := rfl
@[simp] theorem State.modCore_colls (s : State) (c : CoreId) (f : Core → Core) : (s.modCore c f).colls = s.colls := rfl
@[simp] theorem State.modCore_jobs (s : State) (c : CoreId) (f : Core → Core) : (s.modCore c f).jobs = s.jobs := rfl
@[simp] theorem State.modCore_launches (s : State) (c : CoreId) (f : Core → Core) : (s.modCore c f).launches = s.launches := rfl
@[simp] theorem State.modCore_graphs (s : State) (c : CoreId) (f : Core → Core) : (s.modCore c f).graphs = s.graphs := rfl
@[simp] theorem State.modCore_nextLaunch (s : State) (c : CoreId) (f : Core → Core) : (s.modCore c f).nextLaunch = s.nextLaunch := rfl
@[simp] theorem State.modCore_nextGraph (s : State) (c : CoreId) (f : Core → Core) : (s.modCore c f).nextGraph = s.nextGraph := rfl
@[simp] theorem State.modCore_served (s : State) (c : CoreId) (f : Core → Core) : (s.modCore c f).served = s.served := rfl
@[simp] theorem State.modCore_saved (s : State) (c : CoreId) (f : Core → Core) : (s.modCore c f).saved = s.saved := rfl
@[simp] theorem State.modCore_seals (s : State) (c : CoreId) (f : Core → Core) : (s.modCore c f).seals = s.seals := rfl
@[simp] theorem State.modCore_sequencer (s : State) (c : CoreId) (f : Core → Core) : (s.modCore c f).sequencer = s.sequencer := rfl
@[simp] theorem State.modCore_mgmt (s : State) (c : CoreId) (f : Core → Core) : (s.modCore c f).mgmt = s.mgmt := rfl
@[simp] theorem State.modCore_ports (s : State) (c : CoreId) (f : Core → Core) : (s.modCore c f).ports = s.ports := rfl
@[simp] theorem State.modCore_routes (s : State) (c : CoreId) (f : Core → Core) : (s.modCore c f).routes = s.routes := rfl
@[simp] theorem State.modCore_pins (s : State) (c : CoreId) (f : Core → Core) : (s.modCore c f).pins = s.pins := rfl
@[simp] theorem State.modCore_links (s : State) (c : CoreId) (f : Core → Core) : (s.modCore c f).links = s.links := rfl
@[simp] theorem State.modCore_deadLinks (s : State) (c : CoreId) (f : Core → Core) : (s.modCore c f).deadLinks = s.deadLinks := rfl
@[simp] theorem State.modCore_owed (s : State) (c : CoreId) (f : Core → Core) : (s.modCore c f).owed = s.owed := rfl
@[simp] theorem State.modCore_toWindow (s : State) (c : CoreId) (f : Core → Core) : (s.modCore c f).toWindow = s.toWindow := rfl
@[simp] theorem State.modCore_outside (s : State) (c : CoreId) (f : Core → Core) : (s.modCore c f).outside = s.outside := rfl

@[simp] theorem State.setCluster_cur (s : State) (c : ClusterId) (x : Cluster) : (s.setCluster c x).cur = s.cur := rfl
@[simp] theorem State.setCluster_agenda (s : State) (c : ClusterId) (x : Cluster) : (s.setCluster c x).agenda = s.agenda := rfl
@[simp] theorem State.setCluster_fresh (s : State) (c : ClusterId) (x : Cluster) : (s.setCluster c x).fresh = s.fresh := rfl
@[simp] theorem State.setCluster_nextId (s : State) (c : ClusterId) (x : Cluster) : (s.setCluster c x).nextId = s.nextId := rfl
@[simp] theorem State.setCluster_ctxs (s : State) (c : ClusterId) (x : Cluster) : (s.setCluster c x).ctxs = s.ctxs := rfl
@[simp] theorem State.setCluster_cores (s : State) (c : ClusterId) (x : Cluster) : (s.setCluster c x).cores = s.cores := rfl
@[simp] theorem State.setCluster_dies (s : State) (c : ClusterId) (x : Cluster) : (s.setCluster c x).dies = s.dies := rfl
@[simp] theorem State.setCluster_gmem (s : State) (c : ClusterId) (x : Cluster) : (s.setCluster c x).gmem = s.gmem := rfl
@[simp] theorem State.setCluster_gwritten (s : State) (c : ClusterId) (x : Cluster) : (s.setCluster c x).gwritten = s.gwritten := rfl
@[simp] theorem State.setCluster_pages (s : State) (c : ClusterId) (x : Cluster) : (s.setCluster c x).pages = s.pages := rfl
@[simp] theorem State.setCluster_frame (s : State) (c : ClusterId) (x : Cluster) : (s.setCluster c x).frame = s.frame := rfl
@[simp] theorem State.setCluster_net (s : State) (c : ClusterId) (x : Cluster) : (s.setCluster c x).net = s.net := rfl
@[simp] theorem State.setCluster_applied (s : State) (c : ClusterId) (x : Cluster) : (s.setCluster c x).applied = s.applied := rfl
@[simp] theorem State.setCluster_dispatchClock (s : State) (c : ClusterId) (x : Cluster) : (s.setCluster c x).dispatchClock = s.dispatchClock := rfl
@[simp] theorem State.setCluster_squads (s : State) (c : ClusterId) (x : Cluster) : (s.setCluster c x).squads = s.squads := rfl
@[simp] theorem State.setCluster_colls (s : State) (c : ClusterId) (x : Cluster) : (s.setCluster c x).colls = s.colls := rfl
@[simp] theorem State.setCluster_jobs (s : State) (c : ClusterId) (x : Cluster) : (s.setCluster c x).jobs = s.jobs := rfl
@[simp] theorem State.setCluster_launches (s : State) (c : ClusterId) (x : Cluster) : (s.setCluster c x).launches = s.launches := rfl
@[simp] theorem State.setCluster_graphs (s : State) (c : ClusterId) (x : Cluster) : (s.setCluster c x).graphs = s.graphs := rfl
@[simp] theorem State.setCluster_nextLaunch (s : State) (c : ClusterId) (x : Cluster) : (s.setCluster c x).nextLaunch = s.nextLaunch := rfl
@[simp] theorem State.setCluster_nextGraph (s : State) (c : ClusterId) (x : Cluster) : (s.setCluster c x).nextGraph = s.nextGraph := rfl
@[simp] theorem State.setCluster_served (s : State) (c : ClusterId) (x : Cluster) : (s.setCluster c x).served = s.served := rfl
@[simp] theorem State.setCluster_saved (s : State) (c : ClusterId) (x : Cluster) : (s.setCluster c x).saved = s.saved := rfl
@[simp] theorem State.setCluster_seals (s : State) (c : ClusterId) (x : Cluster) : (s.setCluster c x).seals = s.seals := rfl
@[simp] theorem State.setCluster_sequencer (s : State) (c : ClusterId) (x : Cluster) : (s.setCluster c x).sequencer = s.sequencer := rfl
@[simp] theorem State.setCluster_mgmt (s : State) (c : ClusterId) (x : Cluster) : (s.setCluster c x).mgmt = s.mgmt := rfl
@[simp] theorem State.setCluster_ports (s : State) (c : ClusterId) (x : Cluster) : (s.setCluster c x).ports = s.ports := rfl
@[simp] theorem State.setCluster_routes (s : State) (c : ClusterId) (x : Cluster) : (s.setCluster c x).routes = s.routes := rfl
@[simp] theorem State.setCluster_pins (s : State) (c : ClusterId) (x : Cluster) : (s.setCluster c x).pins = s.pins := rfl
@[simp] theorem State.setCluster_links (s : State) (c : ClusterId) (x : Cluster) : (s.setCluster c x).links = s.links := rfl
@[simp] theorem State.setCluster_deadLinks (s : State) (c : ClusterId) (x : Cluster) : (s.setCluster c x).deadLinks = s.deadLinks := rfl
@[simp] theorem State.setCluster_owed (s : State) (c : ClusterId) (x : Cluster) : (s.setCluster c x).owed = s.owed := rfl
@[simp] theorem State.setCluster_toWindow (s : State) (c : ClusterId) (x : Cluster) : (s.setCluster c x).toWindow = s.toWindow := rfl
@[simp] theorem State.setCluster_outside (s : State) (c : ClusterId) (x : Cluster) : (s.setCluster c x).outside = s.outside := rfl

@[simp] theorem State.modCluster_cur (s : State) (c : ClusterId) (f : Cluster → Cluster) : (s.modCluster c f).cur = s.cur := rfl
@[simp] theorem State.modCluster_agenda (s : State) (c : ClusterId) (f : Cluster → Cluster) : (s.modCluster c f).agenda = s.agenda := rfl
@[simp] theorem State.modCluster_fresh (s : State) (c : ClusterId) (f : Cluster → Cluster) : (s.modCluster c f).fresh = s.fresh := rfl
@[simp] theorem State.modCluster_nextId (s : State) (c : ClusterId) (f : Cluster → Cluster) : (s.modCluster c f).nextId = s.nextId := rfl
@[simp] theorem State.modCluster_ctxs (s : State) (c : ClusterId) (f : Cluster → Cluster) : (s.modCluster c f).ctxs = s.ctxs := rfl
@[simp] theorem State.modCluster_cores (s : State) (c : ClusterId) (f : Cluster → Cluster) : (s.modCluster c f).cores = s.cores := rfl
@[simp] theorem State.modCluster_dies (s : State) (c : ClusterId) (f : Cluster → Cluster) : (s.modCluster c f).dies = s.dies := rfl
@[simp] theorem State.modCluster_gmem (s : State) (c : ClusterId) (f : Cluster → Cluster) : (s.modCluster c f).gmem = s.gmem := rfl
@[simp] theorem State.modCluster_gwritten (s : State) (c : ClusterId) (f : Cluster → Cluster) : (s.modCluster c f).gwritten = s.gwritten := rfl
@[simp] theorem State.modCluster_pages (s : State) (c : ClusterId) (f : Cluster → Cluster) : (s.modCluster c f).pages = s.pages := rfl
@[simp] theorem State.modCluster_frame (s : State) (c : ClusterId) (f : Cluster → Cluster) : (s.modCluster c f).frame = s.frame := rfl
@[simp] theorem State.modCluster_net (s : State) (c : ClusterId) (f : Cluster → Cluster) : (s.modCluster c f).net = s.net := rfl
@[simp] theorem State.modCluster_applied (s : State) (c : ClusterId) (f : Cluster → Cluster) : (s.modCluster c f).applied = s.applied := rfl
@[simp] theorem State.modCluster_dispatchClock (s : State) (c : ClusterId) (f : Cluster → Cluster) : (s.modCluster c f).dispatchClock = s.dispatchClock := rfl
@[simp] theorem State.modCluster_squads (s : State) (c : ClusterId) (f : Cluster → Cluster) : (s.modCluster c f).squads = s.squads := rfl
@[simp] theorem State.modCluster_colls (s : State) (c : ClusterId) (f : Cluster → Cluster) : (s.modCluster c f).colls = s.colls := rfl
@[simp] theorem State.modCluster_jobs (s : State) (c : ClusterId) (f : Cluster → Cluster) : (s.modCluster c f).jobs = s.jobs := rfl
@[simp] theorem State.modCluster_launches (s : State) (c : ClusterId) (f : Cluster → Cluster) : (s.modCluster c f).launches = s.launches := rfl
@[simp] theorem State.modCluster_graphs (s : State) (c : ClusterId) (f : Cluster → Cluster) : (s.modCluster c f).graphs = s.graphs := rfl
@[simp] theorem State.modCluster_nextLaunch (s : State) (c : ClusterId) (f : Cluster → Cluster) : (s.modCluster c f).nextLaunch = s.nextLaunch := rfl
@[simp] theorem State.modCluster_nextGraph (s : State) (c : ClusterId) (f : Cluster → Cluster) : (s.modCluster c f).nextGraph = s.nextGraph := rfl
@[simp] theorem State.modCluster_served (s : State) (c : ClusterId) (f : Cluster → Cluster) : (s.modCluster c f).served = s.served := rfl
@[simp] theorem State.modCluster_saved (s : State) (c : ClusterId) (f : Cluster → Cluster) : (s.modCluster c f).saved = s.saved := rfl
@[simp] theorem State.modCluster_seals (s : State) (c : ClusterId) (f : Cluster → Cluster) : (s.modCluster c f).seals = s.seals := rfl
@[simp] theorem State.modCluster_sequencer (s : State) (c : ClusterId) (f : Cluster → Cluster) : (s.modCluster c f).sequencer = s.sequencer := rfl
@[simp] theorem State.modCluster_mgmt (s : State) (c : ClusterId) (f : Cluster → Cluster) : (s.modCluster c f).mgmt = s.mgmt := rfl
@[simp] theorem State.modCluster_ports (s : State) (c : ClusterId) (f : Cluster → Cluster) : (s.modCluster c f).ports = s.ports := rfl
@[simp] theorem State.modCluster_routes (s : State) (c : ClusterId) (f : Cluster → Cluster) : (s.modCluster c f).routes = s.routes := rfl
@[simp] theorem State.modCluster_pins (s : State) (c : ClusterId) (f : Cluster → Cluster) : (s.modCluster c f).pins = s.pins := rfl
@[simp] theorem State.modCluster_links (s : State) (c : ClusterId) (f : Cluster → Cluster) : (s.modCluster c f).links = s.links := rfl
@[simp] theorem State.modCluster_deadLinks (s : State) (c : ClusterId) (f : Cluster → Cluster) : (s.modCluster c f).deadLinks = s.deadLinks := rfl
@[simp] theorem State.modCluster_owed (s : State) (c : ClusterId) (f : Cluster → Cluster) : (s.modCluster c f).owed = s.owed := rfl
@[simp] theorem State.modCluster_toWindow (s : State) (c : ClusterId) (f : Cluster → Cluster) : (s.modCluster c f).toWindow = s.toWindow := rfl
@[simp] theorem State.modCluster_outside (s : State) (c : ClusterId) (f : Cluster → Cluster) : (s.modCluster c f).outside = s.outside := rfl

@[simp] theorem State.setDie_cur (s : State) (d : Nat) (x : Die) : (s.setDie d x).cur = s.cur := rfl
@[simp] theorem State.setDie_agenda (s : State) (d : Nat) (x : Die) : (s.setDie d x).agenda = s.agenda := rfl
@[simp] theorem State.setDie_fresh (s : State) (d : Nat) (x : Die) : (s.setDie d x).fresh = s.fresh := rfl
@[simp] theorem State.setDie_nextId (s : State) (d : Nat) (x : Die) : (s.setDie d x).nextId = s.nextId := rfl
@[simp] theorem State.setDie_ctxs (s : State) (d : Nat) (x : Die) : (s.setDie d x).ctxs = s.ctxs := rfl
@[simp] theorem State.setDie_cores (s : State) (d : Nat) (x : Die) : (s.setDie d x).cores = s.cores := rfl
@[simp] theorem State.setDie_clusters (s : State) (d : Nat) (x : Die) : (s.setDie d x).clusters = s.clusters := rfl
@[simp] theorem State.setDie_gmem (s : State) (d : Nat) (x : Die) : (s.setDie d x).gmem = s.gmem := rfl
@[simp] theorem State.setDie_gwritten (s : State) (d : Nat) (x : Die) : (s.setDie d x).gwritten = s.gwritten := rfl
@[simp] theorem State.setDie_pages (s : State) (d : Nat) (x : Die) : (s.setDie d x).pages = s.pages := rfl
@[simp] theorem State.setDie_frame (s : State) (d : Nat) (x : Die) : (s.setDie d x).frame = s.frame := rfl
@[simp] theorem State.setDie_net (s : State) (d : Nat) (x : Die) : (s.setDie d x).net = s.net := rfl
@[simp] theorem State.setDie_applied (s : State) (d : Nat) (x : Die) : (s.setDie d x).applied = s.applied := rfl
@[simp] theorem State.setDie_dispatchClock (s : State) (d : Nat) (x : Die) : (s.setDie d x).dispatchClock = s.dispatchClock := rfl
@[simp] theorem State.setDie_squads (s : State) (d : Nat) (x : Die) : (s.setDie d x).squads = s.squads := rfl
@[simp] theorem State.setDie_colls (s : State) (d : Nat) (x : Die) : (s.setDie d x).colls = s.colls := rfl
@[simp] theorem State.setDie_jobs (s : State) (d : Nat) (x : Die) : (s.setDie d x).jobs = s.jobs := rfl
@[simp] theorem State.setDie_launches (s : State) (d : Nat) (x : Die) : (s.setDie d x).launches = s.launches := rfl
@[simp] theorem State.setDie_graphs (s : State) (d : Nat) (x : Die) : (s.setDie d x).graphs = s.graphs := rfl
@[simp] theorem State.setDie_nextLaunch (s : State) (d : Nat) (x : Die) : (s.setDie d x).nextLaunch = s.nextLaunch := rfl
@[simp] theorem State.setDie_nextGraph (s : State) (d : Nat) (x : Die) : (s.setDie d x).nextGraph = s.nextGraph := rfl
@[simp] theorem State.setDie_served (s : State) (d : Nat) (x : Die) : (s.setDie d x).served = s.served := rfl
@[simp] theorem State.setDie_saved (s : State) (d : Nat) (x : Die) : (s.setDie d x).saved = s.saved := rfl
@[simp] theorem State.setDie_seals (s : State) (d : Nat) (x : Die) : (s.setDie d x).seals = s.seals := rfl
@[simp] theorem State.setDie_sequencer (s : State) (d : Nat) (x : Die) : (s.setDie d x).sequencer = s.sequencer := rfl
@[simp] theorem State.setDie_mgmt (s : State) (d : Nat) (x : Die) : (s.setDie d x).mgmt = s.mgmt := rfl
@[simp] theorem State.setDie_ports (s : State) (d : Nat) (x : Die) : (s.setDie d x).ports = s.ports := rfl
@[simp] theorem State.setDie_routes (s : State) (d : Nat) (x : Die) : (s.setDie d x).routes = s.routes := rfl
@[simp] theorem State.setDie_pins (s : State) (d : Nat) (x : Die) : (s.setDie d x).pins = s.pins := rfl
@[simp] theorem State.setDie_links (s : State) (d : Nat) (x : Die) : (s.setDie d x).links = s.links := rfl
@[simp] theorem State.setDie_deadLinks (s : State) (d : Nat) (x : Die) : (s.setDie d x).deadLinks = s.deadLinks := rfl
@[simp] theorem State.setDie_owed (s : State) (d : Nat) (x : Die) : (s.setDie d x).owed = s.owed := rfl
@[simp] theorem State.setDie_toWindow (s : State) (d : Nat) (x : Die) : (s.setDie d x).toWindow = s.toWindow := rfl
@[simp] theorem State.setDie_outside (s : State) (d : Nat) (x : Die) : (s.setDie d x).outside = s.outside := rfl

@[simp] theorem State.modDie_cur (s : State) (d : Nat) (f : Die → Die) : (s.modDie d f).cur = s.cur := rfl
@[simp] theorem State.modDie_agenda (s : State) (d : Nat) (f : Die → Die) : (s.modDie d f).agenda = s.agenda := rfl
@[simp] theorem State.modDie_fresh (s : State) (d : Nat) (f : Die → Die) : (s.modDie d f).fresh = s.fresh := rfl
@[simp] theorem State.modDie_nextId (s : State) (d : Nat) (f : Die → Die) : (s.modDie d f).nextId = s.nextId := rfl
@[simp] theorem State.modDie_ctxs (s : State) (d : Nat) (f : Die → Die) : (s.modDie d f).ctxs = s.ctxs := rfl
@[simp] theorem State.modDie_cores (s : State) (d : Nat) (f : Die → Die) : (s.modDie d f).cores = s.cores := rfl
@[simp] theorem State.modDie_clusters (s : State) (d : Nat) (f : Die → Die) : (s.modDie d f).clusters = s.clusters := rfl
@[simp] theorem State.modDie_gmem (s : State) (d : Nat) (f : Die → Die) : (s.modDie d f).gmem = s.gmem := rfl
@[simp] theorem State.modDie_gwritten (s : State) (d : Nat) (f : Die → Die) : (s.modDie d f).gwritten = s.gwritten := rfl
@[simp] theorem State.modDie_pages (s : State) (d : Nat) (f : Die → Die) : (s.modDie d f).pages = s.pages := rfl
@[simp] theorem State.modDie_frame (s : State) (d : Nat) (f : Die → Die) : (s.modDie d f).frame = s.frame := rfl
@[simp] theorem State.modDie_net (s : State) (d : Nat) (f : Die → Die) : (s.modDie d f).net = s.net := rfl
@[simp] theorem State.modDie_applied (s : State) (d : Nat) (f : Die → Die) : (s.modDie d f).applied = s.applied := rfl
@[simp] theorem State.modDie_dispatchClock (s : State) (d : Nat) (f : Die → Die) : (s.modDie d f).dispatchClock = s.dispatchClock := rfl
@[simp] theorem State.modDie_squads (s : State) (d : Nat) (f : Die → Die) : (s.modDie d f).squads = s.squads := rfl
@[simp] theorem State.modDie_colls (s : State) (d : Nat) (f : Die → Die) : (s.modDie d f).colls = s.colls := rfl
@[simp] theorem State.modDie_jobs (s : State) (d : Nat) (f : Die → Die) : (s.modDie d f).jobs = s.jobs := rfl
@[simp] theorem State.modDie_launches (s : State) (d : Nat) (f : Die → Die) : (s.modDie d f).launches = s.launches := rfl
@[simp] theorem State.modDie_graphs (s : State) (d : Nat) (f : Die → Die) : (s.modDie d f).graphs = s.graphs := rfl
@[simp] theorem State.modDie_nextLaunch (s : State) (d : Nat) (f : Die → Die) : (s.modDie d f).nextLaunch = s.nextLaunch := rfl
@[simp] theorem State.modDie_nextGraph (s : State) (d : Nat) (f : Die → Die) : (s.modDie d f).nextGraph = s.nextGraph := rfl
@[simp] theorem State.modDie_served (s : State) (d : Nat) (f : Die → Die) : (s.modDie d f).served = s.served := rfl
@[simp] theorem State.modDie_saved (s : State) (d : Nat) (f : Die → Die) : (s.modDie d f).saved = s.saved := rfl
@[simp] theorem State.modDie_seals (s : State) (d : Nat) (f : Die → Die) : (s.modDie d f).seals = s.seals := rfl
@[simp] theorem State.modDie_sequencer (s : State) (d : Nat) (f : Die → Die) : (s.modDie d f).sequencer = s.sequencer := rfl
@[simp] theorem State.modDie_mgmt (s : State) (d : Nat) (f : Die → Die) : (s.modDie d f).mgmt = s.mgmt := rfl
@[simp] theorem State.modDie_ports (s : State) (d : Nat) (f : Die → Die) : (s.modDie d f).ports = s.ports := rfl
@[simp] theorem State.modDie_routes (s : State) (d : Nat) (f : Die → Die) : (s.modDie d f).routes = s.routes := rfl
@[simp] theorem State.modDie_pins (s : State) (d : Nat) (f : Die → Die) : (s.modDie d f).pins = s.pins := rfl
@[simp] theorem State.modDie_links (s : State) (d : Nat) (f : Die → Die) : (s.modDie d f).links = s.links := rfl
@[simp] theorem State.modDie_deadLinks (s : State) (d : Nat) (f : Die → Die) : (s.modDie d f).deadLinks = s.deadLinks := rfl
@[simp] theorem State.modDie_owed (s : State) (d : Nat) (f : Die → Die) : (s.modDie d f).owed = s.owed := rfl
@[simp] theorem State.modDie_toWindow (s : State) (d : Nat) (f : Die → Die) : (s.modDie d f).toWindow = s.toWindow := rfl
@[simp] theorem State.modDie_outside (s : State) (d : Nat) (f : Die → Die) : (s.modDie d f).outside = s.outside := rfl

@[simp] theorem State.setPage_cur (s : State) (p : Nat) (x : Page) : (s.setPage p x).cur = s.cur := rfl
@[simp] theorem State.setPage_agenda (s : State) (p : Nat) (x : Page) : (s.setPage p x).agenda = s.agenda := rfl
@[simp] theorem State.setPage_fresh (s : State) (p : Nat) (x : Page) : (s.setPage p x).fresh = s.fresh := rfl
@[simp] theorem State.setPage_nextId (s : State) (p : Nat) (x : Page) : (s.setPage p x).nextId = s.nextId := rfl
@[simp] theorem State.setPage_ctxs (s : State) (p : Nat) (x : Page) : (s.setPage p x).ctxs = s.ctxs := rfl
@[simp] theorem State.setPage_cores (s : State) (p : Nat) (x : Page) : (s.setPage p x).cores = s.cores := rfl
@[simp] theorem State.setPage_clusters (s : State) (p : Nat) (x : Page) : (s.setPage p x).clusters = s.clusters := rfl
@[simp] theorem State.setPage_dies (s : State) (p : Nat) (x : Page) : (s.setPage p x).dies = s.dies := rfl
@[simp] theorem State.setPage_gmem (s : State) (p : Nat) (x : Page) : (s.setPage p x).gmem = s.gmem := rfl
@[simp] theorem State.setPage_gwritten (s : State) (p : Nat) (x : Page) : (s.setPage p x).gwritten = s.gwritten := rfl
@[simp] theorem State.setPage_frame (s : State) (p : Nat) (x : Page) : (s.setPage p x).frame = s.frame := rfl
@[simp] theorem State.setPage_net (s : State) (p : Nat) (x : Page) : (s.setPage p x).net = s.net := rfl
@[simp] theorem State.setPage_applied (s : State) (p : Nat) (x : Page) : (s.setPage p x).applied = s.applied := rfl
@[simp] theorem State.setPage_dispatchClock (s : State) (p : Nat) (x : Page) : (s.setPage p x).dispatchClock = s.dispatchClock := rfl
@[simp] theorem State.setPage_squads (s : State) (p : Nat) (x : Page) : (s.setPage p x).squads = s.squads := rfl
@[simp] theorem State.setPage_colls (s : State) (p : Nat) (x : Page) : (s.setPage p x).colls = s.colls := rfl
@[simp] theorem State.setPage_jobs (s : State) (p : Nat) (x : Page) : (s.setPage p x).jobs = s.jobs := rfl
@[simp] theorem State.setPage_launches (s : State) (p : Nat) (x : Page) : (s.setPage p x).launches = s.launches := rfl
@[simp] theorem State.setPage_graphs (s : State) (p : Nat) (x : Page) : (s.setPage p x).graphs = s.graphs := rfl
@[simp] theorem State.setPage_nextLaunch (s : State) (p : Nat) (x : Page) : (s.setPage p x).nextLaunch = s.nextLaunch := rfl
@[simp] theorem State.setPage_nextGraph (s : State) (p : Nat) (x : Page) : (s.setPage p x).nextGraph = s.nextGraph := rfl
@[simp] theorem State.setPage_served (s : State) (p : Nat) (x : Page) : (s.setPage p x).served = s.served := rfl
@[simp] theorem State.setPage_saved (s : State) (p : Nat) (x : Page) : (s.setPage p x).saved = s.saved := rfl
@[simp] theorem State.setPage_seals (s : State) (p : Nat) (x : Page) : (s.setPage p x).seals = s.seals := rfl
@[simp] theorem State.setPage_sequencer (s : State) (p : Nat) (x : Page) : (s.setPage p x).sequencer = s.sequencer := rfl
@[simp] theorem State.setPage_mgmt (s : State) (p : Nat) (x : Page) : (s.setPage p x).mgmt = s.mgmt := rfl
@[simp] theorem State.setPage_ports (s : State) (p : Nat) (x : Page) : (s.setPage p x).ports = s.ports := rfl
@[simp] theorem State.setPage_routes (s : State) (p : Nat) (x : Page) : (s.setPage p x).routes = s.routes := rfl
@[simp] theorem State.setPage_pins (s : State) (p : Nat) (x : Page) : (s.setPage p x).pins = s.pins := rfl
@[simp] theorem State.setPage_links (s : State) (p : Nat) (x : Page) : (s.setPage p x).links = s.links := rfl
@[simp] theorem State.setPage_deadLinks (s : State) (p : Nat) (x : Page) : (s.setPage p x).deadLinks = s.deadLinks := rfl
@[simp] theorem State.setPage_owed (s : State) (p : Nat) (x : Page) : (s.setPage p x).owed = s.owed := rfl
@[simp] theorem State.setPage_toWindow (s : State) (p : Nat) (x : Page) : (s.setPage p x).toWindow = s.toWindow := rfl
@[simp] theorem State.setPage_outside (s : State) (p : Nat) (x : Page) : (s.setPage p x).outside = s.outside := rfl

@[simp] theorem State.modPage_cur (s : State) (p : Nat) (f : Page → Page) : (s.modPage p f).cur = s.cur := rfl
@[simp] theorem State.modPage_agenda (s : State) (p : Nat) (f : Page → Page) : (s.modPage p f).agenda = s.agenda := rfl
@[simp] theorem State.modPage_fresh (s : State) (p : Nat) (f : Page → Page) : (s.modPage p f).fresh = s.fresh := rfl
@[simp] theorem State.modPage_nextId (s : State) (p : Nat) (f : Page → Page) : (s.modPage p f).nextId = s.nextId := rfl
@[simp] theorem State.modPage_ctxs (s : State) (p : Nat) (f : Page → Page) : (s.modPage p f).ctxs = s.ctxs := rfl
@[simp] theorem State.modPage_cores (s : State) (p : Nat) (f : Page → Page) : (s.modPage p f).cores = s.cores := rfl
@[simp] theorem State.modPage_clusters (s : State) (p : Nat) (f : Page → Page) : (s.modPage p f).clusters = s.clusters := rfl
@[simp] theorem State.modPage_dies (s : State) (p : Nat) (f : Page → Page) : (s.modPage p f).dies = s.dies := rfl
@[simp] theorem State.modPage_gmem (s : State) (p : Nat) (f : Page → Page) : (s.modPage p f).gmem = s.gmem := rfl
@[simp] theorem State.modPage_gwritten (s : State) (p : Nat) (f : Page → Page) : (s.modPage p f).gwritten = s.gwritten := rfl
@[simp] theorem State.modPage_frame (s : State) (p : Nat) (f : Page → Page) : (s.modPage p f).frame = s.frame := rfl
@[simp] theorem State.modPage_net (s : State) (p : Nat) (f : Page → Page) : (s.modPage p f).net = s.net := rfl
@[simp] theorem State.modPage_applied (s : State) (p : Nat) (f : Page → Page) : (s.modPage p f).applied = s.applied := rfl
@[simp] theorem State.modPage_dispatchClock (s : State) (p : Nat) (f : Page → Page) : (s.modPage p f).dispatchClock = s.dispatchClock := rfl
@[simp] theorem State.modPage_squads (s : State) (p : Nat) (f : Page → Page) : (s.modPage p f).squads = s.squads := rfl
@[simp] theorem State.modPage_colls (s : State) (p : Nat) (f : Page → Page) : (s.modPage p f).colls = s.colls := rfl
@[simp] theorem State.modPage_jobs (s : State) (p : Nat) (f : Page → Page) : (s.modPage p f).jobs = s.jobs := rfl
@[simp] theorem State.modPage_launches (s : State) (p : Nat) (f : Page → Page) : (s.modPage p f).launches = s.launches := rfl
@[simp] theorem State.modPage_graphs (s : State) (p : Nat) (f : Page → Page) : (s.modPage p f).graphs = s.graphs := rfl
@[simp] theorem State.modPage_nextLaunch (s : State) (p : Nat) (f : Page → Page) : (s.modPage p f).nextLaunch = s.nextLaunch := rfl
@[simp] theorem State.modPage_nextGraph (s : State) (p : Nat) (f : Page → Page) : (s.modPage p f).nextGraph = s.nextGraph := rfl
@[simp] theorem State.modPage_served (s : State) (p : Nat) (f : Page → Page) : (s.modPage p f).served = s.served := rfl
@[simp] theorem State.modPage_saved (s : State) (p : Nat) (f : Page → Page) : (s.modPage p f).saved = s.saved := rfl
@[simp] theorem State.modPage_seals (s : State) (p : Nat) (f : Page → Page) : (s.modPage p f).seals = s.seals := rfl
@[simp] theorem State.modPage_sequencer (s : State) (p : Nat) (f : Page → Page) : (s.modPage p f).sequencer = s.sequencer := rfl
@[simp] theorem State.modPage_mgmt (s : State) (p : Nat) (f : Page → Page) : (s.modPage p f).mgmt = s.mgmt := rfl
@[simp] theorem State.modPage_ports (s : State) (p : Nat) (f : Page → Page) : (s.modPage p f).ports = s.ports := rfl
@[simp] theorem State.modPage_routes (s : State) (p : Nat) (f : Page → Page) : (s.modPage p f).routes = s.routes := rfl
@[simp] theorem State.modPage_pins (s : State) (p : Nat) (f : Page → Page) : (s.modPage p f).pins = s.pins := rfl
@[simp] theorem State.modPage_links (s : State) (p : Nat) (f : Page → Page) : (s.modPage p f).links = s.links := rfl
@[simp] theorem State.modPage_deadLinks (s : State) (p : Nat) (f : Page → Page) : (s.modPage p f).deadLinks = s.deadLinks := rfl
@[simp] theorem State.modPage_owed (s : State) (p : Nat) (f : Page → Page) : (s.modPage p f).owed = s.owed := rfl
@[simp] theorem State.modPage_toWindow (s : State) (p : Nat) (f : Page → Page) : (s.modPage p f).toWindow = s.toWindow := rfl
@[simp] theorem State.modPage_outside (s : State) (p : Nat) (f : Page → Page) : (s.modPage p f).outside = s.outside := rfl

@[simp] theorem State.setSquad_cur (s : State) (h : Nat) (x : Option Squad) : (s.setSquad h x).cur = s.cur := rfl
@[simp] theorem State.setSquad_agenda (s : State) (h : Nat) (x : Option Squad) : (s.setSquad h x).agenda = s.agenda := rfl
@[simp] theorem State.setSquad_fresh (s : State) (h : Nat) (x : Option Squad) : (s.setSquad h x).fresh = s.fresh := rfl
@[simp] theorem State.setSquad_nextId (s : State) (h : Nat) (x : Option Squad) : (s.setSquad h x).nextId = s.nextId := rfl
@[simp] theorem State.setSquad_ctxs (s : State) (h : Nat) (x : Option Squad) : (s.setSquad h x).ctxs = s.ctxs := rfl
@[simp] theorem State.setSquad_cores (s : State) (h : Nat) (x : Option Squad) : (s.setSquad h x).cores = s.cores := rfl
@[simp] theorem State.setSquad_clusters (s : State) (h : Nat) (x : Option Squad) : (s.setSquad h x).clusters = s.clusters := rfl
@[simp] theorem State.setSquad_dies (s : State) (h : Nat) (x : Option Squad) : (s.setSquad h x).dies = s.dies := rfl
@[simp] theorem State.setSquad_gmem (s : State) (h : Nat) (x : Option Squad) : (s.setSquad h x).gmem = s.gmem := rfl
@[simp] theorem State.setSquad_gwritten (s : State) (h : Nat) (x : Option Squad) : (s.setSquad h x).gwritten = s.gwritten := rfl
@[simp] theorem State.setSquad_pages (s : State) (h : Nat) (x : Option Squad) : (s.setSquad h x).pages = s.pages := rfl
@[simp] theorem State.setSquad_frame (s : State) (h : Nat) (x : Option Squad) : (s.setSquad h x).frame = s.frame := rfl
@[simp] theorem State.setSquad_net (s : State) (h : Nat) (x : Option Squad) : (s.setSquad h x).net = s.net := rfl
@[simp] theorem State.setSquad_applied (s : State) (h : Nat) (x : Option Squad) : (s.setSquad h x).applied = s.applied := rfl
@[simp] theorem State.setSquad_dispatchClock (s : State) (h : Nat) (x : Option Squad) : (s.setSquad h x).dispatchClock = s.dispatchClock := rfl
@[simp] theorem State.setSquad_colls (s : State) (h : Nat) (x : Option Squad) : (s.setSquad h x).colls = s.colls := rfl
@[simp] theorem State.setSquad_jobs (s : State) (h : Nat) (x : Option Squad) : (s.setSquad h x).jobs = s.jobs := rfl
@[simp] theorem State.setSquad_launches (s : State) (h : Nat) (x : Option Squad) : (s.setSquad h x).launches = s.launches := rfl
@[simp] theorem State.setSquad_graphs (s : State) (h : Nat) (x : Option Squad) : (s.setSquad h x).graphs = s.graphs := rfl
@[simp] theorem State.setSquad_nextLaunch (s : State) (h : Nat) (x : Option Squad) : (s.setSquad h x).nextLaunch = s.nextLaunch := rfl
@[simp] theorem State.setSquad_nextGraph (s : State) (h : Nat) (x : Option Squad) : (s.setSquad h x).nextGraph = s.nextGraph := rfl
@[simp] theorem State.setSquad_served (s : State) (h : Nat) (x : Option Squad) : (s.setSquad h x).served = s.served := rfl
@[simp] theorem State.setSquad_saved (s : State) (h : Nat) (x : Option Squad) : (s.setSquad h x).saved = s.saved := rfl
@[simp] theorem State.setSquad_seals (s : State) (h : Nat) (x : Option Squad) : (s.setSquad h x).seals = s.seals := rfl
@[simp] theorem State.setSquad_sequencer (s : State) (h : Nat) (x : Option Squad) : (s.setSquad h x).sequencer = s.sequencer := rfl
@[simp] theorem State.setSquad_mgmt (s : State) (h : Nat) (x : Option Squad) : (s.setSquad h x).mgmt = s.mgmt := rfl
@[simp] theorem State.setSquad_ports (s : State) (h : Nat) (x : Option Squad) : (s.setSquad h x).ports = s.ports := rfl
@[simp] theorem State.setSquad_routes (s : State) (h : Nat) (x : Option Squad) : (s.setSquad h x).routes = s.routes := rfl
@[simp] theorem State.setSquad_pins (s : State) (h : Nat) (x : Option Squad) : (s.setSquad h x).pins = s.pins := rfl
@[simp] theorem State.setSquad_links (s : State) (h : Nat) (x : Option Squad) : (s.setSquad h x).links = s.links := rfl
@[simp] theorem State.setSquad_deadLinks (s : State) (h : Nat) (x : Option Squad) : (s.setSquad h x).deadLinks = s.deadLinks := rfl
@[simp] theorem State.setSquad_owed (s : State) (h : Nat) (x : Option Squad) : (s.setSquad h x).owed = s.owed := rfl
@[simp] theorem State.setSquad_toWindow (s : State) (h : Nat) (x : Option Squad) : (s.setSquad h x).toWindow = s.toWindow := rfl
@[simp] theorem State.setSquad_outside (s : State) (h : Nat) (x : Option Squad) : (s.setSquad h x).outside = s.outside := rfl

@[simp] theorem State.setJob_cur (s : State) (j : Nat) (x : Option Job) : (s.setJob j x).cur = s.cur := rfl
@[simp] theorem State.setJob_agenda (s : State) (j : Nat) (x : Option Job) : (s.setJob j x).agenda = s.agenda := rfl
@[simp] theorem State.setJob_fresh (s : State) (j : Nat) (x : Option Job) : (s.setJob j x).fresh = s.fresh := rfl
@[simp] theorem State.setJob_nextId (s : State) (j : Nat) (x : Option Job) : (s.setJob j x).nextId = s.nextId := rfl
@[simp] theorem State.setJob_ctxs (s : State) (j : Nat) (x : Option Job) : (s.setJob j x).ctxs = s.ctxs := rfl
@[simp] theorem State.setJob_cores (s : State) (j : Nat) (x : Option Job) : (s.setJob j x).cores = s.cores := rfl
@[simp] theorem State.setJob_clusters (s : State) (j : Nat) (x : Option Job) : (s.setJob j x).clusters = s.clusters := rfl
@[simp] theorem State.setJob_dies (s : State) (j : Nat) (x : Option Job) : (s.setJob j x).dies = s.dies := rfl
@[simp] theorem State.setJob_gmem (s : State) (j : Nat) (x : Option Job) : (s.setJob j x).gmem = s.gmem := rfl
@[simp] theorem State.setJob_gwritten (s : State) (j : Nat) (x : Option Job) : (s.setJob j x).gwritten = s.gwritten := rfl
@[simp] theorem State.setJob_pages (s : State) (j : Nat) (x : Option Job) : (s.setJob j x).pages = s.pages := rfl
@[simp] theorem State.setJob_frame (s : State) (j : Nat) (x : Option Job) : (s.setJob j x).frame = s.frame := rfl
@[simp] theorem State.setJob_net (s : State) (j : Nat) (x : Option Job) : (s.setJob j x).net = s.net := rfl
@[simp] theorem State.setJob_applied (s : State) (j : Nat) (x : Option Job) : (s.setJob j x).applied = s.applied := rfl
@[simp] theorem State.setJob_dispatchClock (s : State) (j : Nat) (x : Option Job) : (s.setJob j x).dispatchClock = s.dispatchClock := rfl
@[simp] theorem State.setJob_squads (s : State) (j : Nat) (x : Option Job) : (s.setJob j x).squads = s.squads := rfl
@[simp] theorem State.setJob_colls (s : State) (j : Nat) (x : Option Job) : (s.setJob j x).colls = s.colls := rfl
@[simp] theorem State.setJob_launches (s : State) (j : Nat) (x : Option Job) : (s.setJob j x).launches = s.launches := rfl
@[simp] theorem State.setJob_graphs (s : State) (j : Nat) (x : Option Job) : (s.setJob j x).graphs = s.graphs := rfl
@[simp] theorem State.setJob_nextLaunch (s : State) (j : Nat) (x : Option Job) : (s.setJob j x).nextLaunch = s.nextLaunch := rfl
@[simp] theorem State.setJob_nextGraph (s : State) (j : Nat) (x : Option Job) : (s.setJob j x).nextGraph = s.nextGraph := rfl
@[simp] theorem State.setJob_served (s : State) (j : Nat) (x : Option Job) : (s.setJob j x).served = s.served := rfl
@[simp] theorem State.setJob_saved (s : State) (j : Nat) (x : Option Job) : (s.setJob j x).saved = s.saved := rfl
@[simp] theorem State.setJob_seals (s : State) (j : Nat) (x : Option Job) : (s.setJob j x).seals = s.seals := rfl
@[simp] theorem State.setJob_sequencer (s : State) (j : Nat) (x : Option Job) : (s.setJob j x).sequencer = s.sequencer := rfl
@[simp] theorem State.setJob_mgmt (s : State) (j : Nat) (x : Option Job) : (s.setJob j x).mgmt = s.mgmt := rfl
@[simp] theorem State.setJob_ports (s : State) (j : Nat) (x : Option Job) : (s.setJob j x).ports = s.ports := rfl
@[simp] theorem State.setJob_routes (s : State) (j : Nat) (x : Option Job) : (s.setJob j x).routes = s.routes := rfl
@[simp] theorem State.setJob_pins (s : State) (j : Nat) (x : Option Job) : (s.setJob j x).pins = s.pins := rfl
@[simp] theorem State.setJob_links (s : State) (j : Nat) (x : Option Job) : (s.setJob j x).links = s.links := rfl
@[simp] theorem State.setJob_deadLinks (s : State) (j : Nat) (x : Option Job) : (s.setJob j x).deadLinks = s.deadLinks := rfl
@[simp] theorem State.setJob_owed (s : State) (j : Nat) (x : Option Job) : (s.setJob j x).owed = s.owed := rfl
@[simp] theorem State.setJob_toWindow (s : State) (j : Nat) (x : Option Job) : (s.setJob j x).toWindow = s.toWindow := rfl
@[simp] theorem State.setJob_outside (s : State) (j : Nat) (x : Option Job) : (s.setJob j x).outside = s.outside := rfl

@[simp] theorem State.modJob_cur (s : State) (j : Nat) (f : Job → Job) : (s.modJob j f).cur = s.cur := rfl
@[simp] theorem State.modJob_agenda (s : State) (j : Nat) (f : Job → Job) : (s.modJob j f).agenda = s.agenda := rfl
@[simp] theorem State.modJob_fresh (s : State) (j : Nat) (f : Job → Job) : (s.modJob j f).fresh = s.fresh := rfl
@[simp] theorem State.modJob_nextId (s : State) (j : Nat) (f : Job → Job) : (s.modJob j f).nextId = s.nextId := rfl
@[simp] theorem State.modJob_ctxs (s : State) (j : Nat) (f : Job → Job) : (s.modJob j f).ctxs = s.ctxs := rfl
@[simp] theorem State.modJob_cores (s : State) (j : Nat) (f : Job → Job) : (s.modJob j f).cores = s.cores := rfl
@[simp] theorem State.modJob_clusters (s : State) (j : Nat) (f : Job → Job) : (s.modJob j f).clusters = s.clusters := rfl
@[simp] theorem State.modJob_dies (s : State) (j : Nat) (f : Job → Job) : (s.modJob j f).dies = s.dies := rfl
@[simp] theorem State.modJob_gmem (s : State) (j : Nat) (f : Job → Job) : (s.modJob j f).gmem = s.gmem := rfl
@[simp] theorem State.modJob_gwritten (s : State) (j : Nat) (f : Job → Job) : (s.modJob j f).gwritten = s.gwritten := rfl
@[simp] theorem State.modJob_pages (s : State) (j : Nat) (f : Job → Job) : (s.modJob j f).pages = s.pages := rfl
@[simp] theorem State.modJob_frame (s : State) (j : Nat) (f : Job → Job) : (s.modJob j f).frame = s.frame := rfl
@[simp] theorem State.modJob_net (s : State) (j : Nat) (f : Job → Job) : (s.modJob j f).net = s.net := rfl
@[simp] theorem State.modJob_applied (s : State) (j : Nat) (f : Job → Job) : (s.modJob j f).applied = s.applied := rfl
@[simp] theorem State.modJob_dispatchClock (s : State) (j : Nat) (f : Job → Job) : (s.modJob j f).dispatchClock = s.dispatchClock := rfl
@[simp] theorem State.modJob_squads (s : State) (j : Nat) (f : Job → Job) : (s.modJob j f).squads = s.squads := rfl
@[simp] theorem State.modJob_colls (s : State) (j : Nat) (f : Job → Job) : (s.modJob j f).colls = s.colls := rfl
@[simp] theorem State.modJob_launches (s : State) (j : Nat) (f : Job → Job) : (s.modJob j f).launches = s.launches := rfl
@[simp] theorem State.modJob_graphs (s : State) (j : Nat) (f : Job → Job) : (s.modJob j f).graphs = s.graphs := rfl
@[simp] theorem State.modJob_nextLaunch (s : State) (j : Nat) (f : Job → Job) : (s.modJob j f).nextLaunch = s.nextLaunch := rfl
@[simp] theorem State.modJob_nextGraph (s : State) (j : Nat) (f : Job → Job) : (s.modJob j f).nextGraph = s.nextGraph := rfl
@[simp] theorem State.modJob_served (s : State) (j : Nat) (f : Job → Job) : (s.modJob j f).served = s.served := rfl
@[simp] theorem State.modJob_saved (s : State) (j : Nat) (f : Job → Job) : (s.modJob j f).saved = s.saved := rfl
@[simp] theorem State.modJob_seals (s : State) (j : Nat) (f : Job → Job) : (s.modJob j f).seals = s.seals := rfl
@[simp] theorem State.modJob_sequencer (s : State) (j : Nat) (f : Job → Job) : (s.modJob j f).sequencer = s.sequencer := rfl
@[simp] theorem State.modJob_mgmt (s : State) (j : Nat) (f : Job → Job) : (s.modJob j f).mgmt = s.mgmt := rfl
@[simp] theorem State.modJob_ports (s : State) (j : Nat) (f : Job → Job) : (s.modJob j f).ports = s.ports := rfl
@[simp] theorem State.modJob_routes (s : State) (j : Nat) (f : Job → Job) : (s.modJob j f).routes = s.routes := rfl
@[simp] theorem State.modJob_pins (s : State) (j : Nat) (f : Job → Job) : (s.modJob j f).pins = s.pins := rfl
@[simp] theorem State.modJob_links (s : State) (j : Nat) (f : Job → Job) : (s.modJob j f).links = s.links := rfl
@[simp] theorem State.modJob_deadLinks (s : State) (j : Nat) (f : Job → Job) : (s.modJob j f).deadLinks = s.deadLinks := rfl
@[simp] theorem State.modJob_owed (s : State) (j : Nat) (f : Job → Job) : (s.modJob j f).owed = s.owed := rfl
@[simp] theorem State.modJob_toWindow (s : State) (j : Nat) (f : Job → Job) : (s.modJob j f).toWindow = s.toWindow := rfl
@[simp] theorem State.modJob_outside (s : State) (j : Nat) (f : Job → Job) : (s.modJob j f).outside = s.outside := rfl

@[simp] theorem State.setLaunch_cur (s : State) (l : Nat) (x : Option Launch) : (s.setLaunch l x).cur = s.cur := rfl
@[simp] theorem State.setLaunch_agenda (s : State) (l : Nat) (x : Option Launch) : (s.setLaunch l x).agenda = s.agenda := rfl
@[simp] theorem State.setLaunch_fresh (s : State) (l : Nat) (x : Option Launch) : (s.setLaunch l x).fresh = s.fresh := rfl
@[simp] theorem State.setLaunch_nextId (s : State) (l : Nat) (x : Option Launch) : (s.setLaunch l x).nextId = s.nextId := rfl
@[simp] theorem State.setLaunch_ctxs (s : State) (l : Nat) (x : Option Launch) : (s.setLaunch l x).ctxs = s.ctxs := rfl
@[simp] theorem State.setLaunch_cores (s : State) (l : Nat) (x : Option Launch) : (s.setLaunch l x).cores = s.cores := rfl
@[simp] theorem State.setLaunch_clusters (s : State) (l : Nat) (x : Option Launch) : (s.setLaunch l x).clusters = s.clusters := rfl
@[simp] theorem State.setLaunch_dies (s : State) (l : Nat) (x : Option Launch) : (s.setLaunch l x).dies = s.dies := rfl
@[simp] theorem State.setLaunch_gmem (s : State) (l : Nat) (x : Option Launch) : (s.setLaunch l x).gmem = s.gmem := rfl
@[simp] theorem State.setLaunch_gwritten (s : State) (l : Nat) (x : Option Launch) : (s.setLaunch l x).gwritten = s.gwritten := rfl
@[simp] theorem State.setLaunch_pages (s : State) (l : Nat) (x : Option Launch) : (s.setLaunch l x).pages = s.pages := rfl
@[simp] theorem State.setLaunch_frame (s : State) (l : Nat) (x : Option Launch) : (s.setLaunch l x).frame = s.frame := rfl
@[simp] theorem State.setLaunch_net (s : State) (l : Nat) (x : Option Launch) : (s.setLaunch l x).net = s.net := rfl
@[simp] theorem State.setLaunch_applied (s : State) (l : Nat) (x : Option Launch) : (s.setLaunch l x).applied = s.applied := rfl
@[simp] theorem State.setLaunch_dispatchClock (s : State) (l : Nat) (x : Option Launch) : (s.setLaunch l x).dispatchClock = s.dispatchClock := rfl
@[simp] theorem State.setLaunch_squads (s : State) (l : Nat) (x : Option Launch) : (s.setLaunch l x).squads = s.squads := rfl
@[simp] theorem State.setLaunch_colls (s : State) (l : Nat) (x : Option Launch) : (s.setLaunch l x).colls = s.colls := rfl
@[simp] theorem State.setLaunch_jobs (s : State) (l : Nat) (x : Option Launch) : (s.setLaunch l x).jobs = s.jobs := rfl
@[simp] theorem State.setLaunch_graphs (s : State) (l : Nat) (x : Option Launch) : (s.setLaunch l x).graphs = s.graphs := rfl
@[simp] theorem State.setLaunch_nextLaunch (s : State) (l : Nat) (x : Option Launch) : (s.setLaunch l x).nextLaunch = s.nextLaunch := rfl
@[simp] theorem State.setLaunch_nextGraph (s : State) (l : Nat) (x : Option Launch) : (s.setLaunch l x).nextGraph = s.nextGraph := rfl
@[simp] theorem State.setLaunch_served (s : State) (l : Nat) (x : Option Launch) : (s.setLaunch l x).served = s.served := rfl
@[simp] theorem State.setLaunch_saved (s : State) (l : Nat) (x : Option Launch) : (s.setLaunch l x).saved = s.saved := rfl
@[simp] theorem State.setLaunch_seals (s : State) (l : Nat) (x : Option Launch) : (s.setLaunch l x).seals = s.seals := rfl
@[simp] theorem State.setLaunch_sequencer (s : State) (l : Nat) (x : Option Launch) : (s.setLaunch l x).sequencer = s.sequencer := rfl
@[simp] theorem State.setLaunch_mgmt (s : State) (l : Nat) (x : Option Launch) : (s.setLaunch l x).mgmt = s.mgmt := rfl
@[simp] theorem State.setLaunch_ports (s : State) (l : Nat) (x : Option Launch) : (s.setLaunch l x).ports = s.ports := rfl
@[simp] theorem State.setLaunch_routes (s : State) (l : Nat) (x : Option Launch) : (s.setLaunch l x).routes = s.routes := rfl
@[simp] theorem State.setLaunch_pins (s : State) (l : Nat) (x : Option Launch) : (s.setLaunch l x).pins = s.pins := rfl
@[simp] theorem State.setLaunch_links (s : State) (l : Nat) (x : Option Launch) : (s.setLaunch l x).links = s.links := rfl
@[simp] theorem State.setLaunch_deadLinks (s : State) (l : Nat) (x : Option Launch) : (s.setLaunch l x).deadLinks = s.deadLinks := rfl
@[simp] theorem State.setLaunch_owed (s : State) (l : Nat) (x : Option Launch) : (s.setLaunch l x).owed = s.owed := rfl
@[simp] theorem State.setLaunch_toWindow (s : State) (l : Nat) (x : Option Launch) : (s.setLaunch l x).toWindow = s.toWindow := rfl
@[simp] theorem State.setLaunch_outside (s : State) (l : Nat) (x : Option Launch) : (s.setLaunch l x).outside = s.outside := rfl

@[simp] theorem State.modLaunch_cur (s : State) (l : Nat) (f : Launch → Launch) : (s.modLaunch l f).cur = s.cur := rfl
@[simp] theorem State.modLaunch_agenda (s : State) (l : Nat) (f : Launch → Launch) : (s.modLaunch l f).agenda = s.agenda := rfl
@[simp] theorem State.modLaunch_fresh (s : State) (l : Nat) (f : Launch → Launch) : (s.modLaunch l f).fresh = s.fresh := rfl
@[simp] theorem State.modLaunch_nextId (s : State) (l : Nat) (f : Launch → Launch) : (s.modLaunch l f).nextId = s.nextId := rfl
@[simp] theorem State.modLaunch_ctxs (s : State) (l : Nat) (f : Launch → Launch) : (s.modLaunch l f).ctxs = s.ctxs := rfl
@[simp] theorem State.modLaunch_cores (s : State) (l : Nat) (f : Launch → Launch) : (s.modLaunch l f).cores = s.cores := rfl
@[simp] theorem State.modLaunch_clusters (s : State) (l : Nat) (f : Launch → Launch) : (s.modLaunch l f).clusters = s.clusters := rfl
@[simp] theorem State.modLaunch_dies (s : State) (l : Nat) (f : Launch → Launch) : (s.modLaunch l f).dies = s.dies := rfl
@[simp] theorem State.modLaunch_gmem (s : State) (l : Nat) (f : Launch → Launch) : (s.modLaunch l f).gmem = s.gmem := rfl
@[simp] theorem State.modLaunch_gwritten (s : State) (l : Nat) (f : Launch → Launch) : (s.modLaunch l f).gwritten = s.gwritten := rfl
@[simp] theorem State.modLaunch_pages (s : State) (l : Nat) (f : Launch → Launch) : (s.modLaunch l f).pages = s.pages := rfl
@[simp] theorem State.modLaunch_frame (s : State) (l : Nat) (f : Launch → Launch) : (s.modLaunch l f).frame = s.frame := rfl
@[simp] theorem State.modLaunch_net (s : State) (l : Nat) (f : Launch → Launch) : (s.modLaunch l f).net = s.net := rfl
@[simp] theorem State.modLaunch_applied (s : State) (l : Nat) (f : Launch → Launch) : (s.modLaunch l f).applied = s.applied := rfl
@[simp] theorem State.modLaunch_dispatchClock (s : State) (l : Nat) (f : Launch → Launch) : (s.modLaunch l f).dispatchClock = s.dispatchClock := rfl
@[simp] theorem State.modLaunch_squads (s : State) (l : Nat) (f : Launch → Launch) : (s.modLaunch l f).squads = s.squads := rfl
@[simp] theorem State.modLaunch_colls (s : State) (l : Nat) (f : Launch → Launch) : (s.modLaunch l f).colls = s.colls := rfl
@[simp] theorem State.modLaunch_jobs (s : State) (l : Nat) (f : Launch → Launch) : (s.modLaunch l f).jobs = s.jobs := rfl
@[simp] theorem State.modLaunch_graphs (s : State) (l : Nat) (f : Launch → Launch) : (s.modLaunch l f).graphs = s.graphs := rfl
@[simp] theorem State.modLaunch_nextLaunch (s : State) (l : Nat) (f : Launch → Launch) : (s.modLaunch l f).nextLaunch = s.nextLaunch := rfl
@[simp] theorem State.modLaunch_nextGraph (s : State) (l : Nat) (f : Launch → Launch) : (s.modLaunch l f).nextGraph = s.nextGraph := rfl
@[simp] theorem State.modLaunch_served (s : State) (l : Nat) (f : Launch → Launch) : (s.modLaunch l f).served = s.served := rfl
@[simp] theorem State.modLaunch_saved (s : State) (l : Nat) (f : Launch → Launch) : (s.modLaunch l f).saved = s.saved := rfl
@[simp] theorem State.modLaunch_seals (s : State) (l : Nat) (f : Launch → Launch) : (s.modLaunch l f).seals = s.seals := rfl
@[simp] theorem State.modLaunch_sequencer (s : State) (l : Nat) (f : Launch → Launch) : (s.modLaunch l f).sequencer = s.sequencer := rfl
@[simp] theorem State.modLaunch_mgmt (s : State) (l : Nat) (f : Launch → Launch) : (s.modLaunch l f).mgmt = s.mgmt := rfl
@[simp] theorem State.modLaunch_ports (s : State) (l : Nat) (f : Launch → Launch) : (s.modLaunch l f).ports = s.ports := rfl
@[simp] theorem State.modLaunch_routes (s : State) (l : Nat) (f : Launch → Launch) : (s.modLaunch l f).routes = s.routes := rfl
@[simp] theorem State.modLaunch_pins (s : State) (l : Nat) (f : Launch → Launch) : (s.modLaunch l f).pins = s.pins := rfl
@[simp] theorem State.modLaunch_links (s : State) (l : Nat) (f : Launch → Launch) : (s.modLaunch l f).links = s.links := rfl
@[simp] theorem State.modLaunch_deadLinks (s : State) (l : Nat) (f : Launch → Launch) : (s.modLaunch l f).deadLinks = s.deadLinks := rfl
@[simp] theorem State.modLaunch_owed (s : State) (l : Nat) (f : Launch → Launch) : (s.modLaunch l f).owed = s.owed := rfl
@[simp] theorem State.modLaunch_toWindow (s : State) (l : Nat) (f : Launch → Launch) : (s.modLaunch l f).toWindow = s.toWindow := rfl
@[simp] theorem State.modLaunch_outside (s : State) (l : Nat) (f : Launch → Launch) : (s.modLaunch l f).outside = s.outside := rfl

@[simp] theorem State.setGraph_cur (s : State) (g : Nat) (x : Option Graph) : (s.setGraph g x).cur = s.cur := rfl
@[simp] theorem State.setGraph_agenda (s : State) (g : Nat) (x : Option Graph) : (s.setGraph g x).agenda = s.agenda := rfl
@[simp] theorem State.setGraph_fresh (s : State) (g : Nat) (x : Option Graph) : (s.setGraph g x).fresh = s.fresh := rfl
@[simp] theorem State.setGraph_nextId (s : State) (g : Nat) (x : Option Graph) : (s.setGraph g x).nextId = s.nextId := rfl
@[simp] theorem State.setGraph_ctxs (s : State) (g : Nat) (x : Option Graph) : (s.setGraph g x).ctxs = s.ctxs := rfl
@[simp] theorem State.setGraph_cores (s : State) (g : Nat) (x : Option Graph) : (s.setGraph g x).cores = s.cores := rfl
@[simp] theorem State.setGraph_clusters (s : State) (g : Nat) (x : Option Graph) : (s.setGraph g x).clusters = s.clusters := rfl
@[simp] theorem State.setGraph_dies (s : State) (g : Nat) (x : Option Graph) : (s.setGraph g x).dies = s.dies := rfl
@[simp] theorem State.setGraph_gmem (s : State) (g : Nat) (x : Option Graph) : (s.setGraph g x).gmem = s.gmem := rfl
@[simp] theorem State.setGraph_gwritten (s : State) (g : Nat) (x : Option Graph) : (s.setGraph g x).gwritten = s.gwritten := rfl
@[simp] theorem State.setGraph_pages (s : State) (g : Nat) (x : Option Graph) : (s.setGraph g x).pages = s.pages := rfl
@[simp] theorem State.setGraph_frame (s : State) (g : Nat) (x : Option Graph) : (s.setGraph g x).frame = s.frame := rfl
@[simp] theorem State.setGraph_net (s : State) (g : Nat) (x : Option Graph) : (s.setGraph g x).net = s.net := rfl
@[simp] theorem State.setGraph_applied (s : State) (g : Nat) (x : Option Graph) : (s.setGraph g x).applied = s.applied := rfl
@[simp] theorem State.setGraph_dispatchClock (s : State) (g : Nat) (x : Option Graph) : (s.setGraph g x).dispatchClock = s.dispatchClock := rfl
@[simp] theorem State.setGraph_squads (s : State) (g : Nat) (x : Option Graph) : (s.setGraph g x).squads = s.squads := rfl
@[simp] theorem State.setGraph_colls (s : State) (g : Nat) (x : Option Graph) : (s.setGraph g x).colls = s.colls := rfl
@[simp] theorem State.setGraph_jobs (s : State) (g : Nat) (x : Option Graph) : (s.setGraph g x).jobs = s.jobs := rfl
@[simp] theorem State.setGraph_launches (s : State) (g : Nat) (x : Option Graph) : (s.setGraph g x).launches = s.launches := rfl
@[simp] theorem State.setGraph_nextLaunch (s : State) (g : Nat) (x : Option Graph) : (s.setGraph g x).nextLaunch = s.nextLaunch := rfl
@[simp] theorem State.setGraph_nextGraph (s : State) (g : Nat) (x : Option Graph) : (s.setGraph g x).nextGraph = s.nextGraph := rfl
@[simp] theorem State.setGraph_served (s : State) (g : Nat) (x : Option Graph) : (s.setGraph g x).served = s.served := rfl
@[simp] theorem State.setGraph_saved (s : State) (g : Nat) (x : Option Graph) : (s.setGraph g x).saved = s.saved := rfl
@[simp] theorem State.setGraph_seals (s : State) (g : Nat) (x : Option Graph) : (s.setGraph g x).seals = s.seals := rfl
@[simp] theorem State.setGraph_sequencer (s : State) (g : Nat) (x : Option Graph) : (s.setGraph g x).sequencer = s.sequencer := rfl
@[simp] theorem State.setGraph_mgmt (s : State) (g : Nat) (x : Option Graph) : (s.setGraph g x).mgmt = s.mgmt := rfl
@[simp] theorem State.setGraph_ports (s : State) (g : Nat) (x : Option Graph) : (s.setGraph g x).ports = s.ports := rfl
@[simp] theorem State.setGraph_routes (s : State) (g : Nat) (x : Option Graph) : (s.setGraph g x).routes = s.routes := rfl
@[simp] theorem State.setGraph_pins (s : State) (g : Nat) (x : Option Graph) : (s.setGraph g x).pins = s.pins := rfl
@[simp] theorem State.setGraph_links (s : State) (g : Nat) (x : Option Graph) : (s.setGraph g x).links = s.links := rfl
@[simp] theorem State.setGraph_deadLinks (s : State) (g : Nat) (x : Option Graph) : (s.setGraph g x).deadLinks = s.deadLinks := rfl
@[simp] theorem State.setGraph_owed (s : State) (g : Nat) (x : Option Graph) : (s.setGraph g x).owed = s.owed := rfl
@[simp] theorem State.setGraph_toWindow (s : State) (g : Nat) (x : Option Graph) : (s.setGraph g x).toWindow = s.toWindow := rfl
@[simp] theorem State.setGraph_outside (s : State) (g : Nat) (x : Option Graph) : (s.setGraph g x).outside = s.outside := rfl

@[simp] theorem State.modGraph_cur (s : State) (g : Nat) (f : Graph → Graph) : (s.modGraph g f).cur = s.cur := rfl
@[simp] theorem State.modGraph_agenda (s : State) (g : Nat) (f : Graph → Graph) : (s.modGraph g f).agenda = s.agenda := rfl
@[simp] theorem State.modGraph_fresh (s : State) (g : Nat) (f : Graph → Graph) : (s.modGraph g f).fresh = s.fresh := rfl
@[simp] theorem State.modGraph_nextId (s : State) (g : Nat) (f : Graph → Graph) : (s.modGraph g f).nextId = s.nextId := rfl
@[simp] theorem State.modGraph_ctxs (s : State) (g : Nat) (f : Graph → Graph) : (s.modGraph g f).ctxs = s.ctxs := rfl
@[simp] theorem State.modGraph_cores (s : State) (g : Nat) (f : Graph → Graph) : (s.modGraph g f).cores = s.cores := rfl
@[simp] theorem State.modGraph_clusters (s : State) (g : Nat) (f : Graph → Graph) : (s.modGraph g f).clusters = s.clusters := rfl
@[simp] theorem State.modGraph_dies (s : State) (g : Nat) (f : Graph → Graph) : (s.modGraph g f).dies = s.dies := rfl
@[simp] theorem State.modGraph_gmem (s : State) (g : Nat) (f : Graph → Graph) : (s.modGraph g f).gmem = s.gmem := rfl
@[simp] theorem State.modGraph_gwritten (s : State) (g : Nat) (f : Graph → Graph) : (s.modGraph g f).gwritten = s.gwritten := rfl
@[simp] theorem State.modGraph_pages (s : State) (g : Nat) (f : Graph → Graph) : (s.modGraph g f).pages = s.pages := rfl
@[simp] theorem State.modGraph_frame (s : State) (g : Nat) (f : Graph → Graph) : (s.modGraph g f).frame = s.frame := rfl
@[simp] theorem State.modGraph_net (s : State) (g : Nat) (f : Graph → Graph) : (s.modGraph g f).net = s.net := rfl
@[simp] theorem State.modGraph_applied (s : State) (g : Nat) (f : Graph → Graph) : (s.modGraph g f).applied = s.applied := rfl
@[simp] theorem State.modGraph_dispatchClock (s : State) (g : Nat) (f : Graph → Graph) : (s.modGraph g f).dispatchClock = s.dispatchClock := rfl
@[simp] theorem State.modGraph_squads (s : State) (g : Nat) (f : Graph → Graph) : (s.modGraph g f).squads = s.squads := rfl
@[simp] theorem State.modGraph_colls (s : State) (g : Nat) (f : Graph → Graph) : (s.modGraph g f).colls = s.colls := rfl
@[simp] theorem State.modGraph_jobs (s : State) (g : Nat) (f : Graph → Graph) : (s.modGraph g f).jobs = s.jobs := rfl
@[simp] theorem State.modGraph_launches (s : State) (g : Nat) (f : Graph → Graph) : (s.modGraph g f).launches = s.launches := rfl
@[simp] theorem State.modGraph_nextLaunch (s : State) (g : Nat) (f : Graph → Graph) : (s.modGraph g f).nextLaunch = s.nextLaunch := rfl
@[simp] theorem State.modGraph_nextGraph (s : State) (g : Nat) (f : Graph → Graph) : (s.modGraph g f).nextGraph = s.nextGraph := rfl
@[simp] theorem State.modGraph_served (s : State) (g : Nat) (f : Graph → Graph) : (s.modGraph g f).served = s.served := rfl
@[simp] theorem State.modGraph_saved (s : State) (g : Nat) (f : Graph → Graph) : (s.modGraph g f).saved = s.saved := rfl
@[simp] theorem State.modGraph_seals (s : State) (g : Nat) (f : Graph → Graph) : (s.modGraph g f).seals = s.seals := rfl
@[simp] theorem State.modGraph_sequencer (s : State) (g : Nat) (f : Graph → Graph) : (s.modGraph g f).sequencer = s.sequencer := rfl
@[simp] theorem State.modGraph_mgmt (s : State) (g : Nat) (f : Graph → Graph) : (s.modGraph g f).mgmt = s.mgmt := rfl
@[simp] theorem State.modGraph_ports (s : State) (g : Nat) (f : Graph → Graph) : (s.modGraph g f).ports = s.ports := rfl
@[simp] theorem State.modGraph_routes (s : State) (g : Nat) (f : Graph → Graph) : (s.modGraph g f).routes = s.routes := rfl
@[simp] theorem State.modGraph_pins (s : State) (g : Nat) (f : Graph → Graph) : (s.modGraph g f).pins = s.pins := rfl
@[simp] theorem State.modGraph_links (s : State) (g : Nat) (f : Graph → Graph) : (s.modGraph g f).links = s.links := rfl
@[simp] theorem State.modGraph_deadLinks (s : State) (g : Nat) (f : Graph → Graph) : (s.modGraph g f).deadLinks = s.deadLinks := rfl
@[simp] theorem State.modGraph_owed (s : State) (g : Nat) (f : Graph → Graph) : (s.modGraph g f).owed = s.owed := rfl
@[simp] theorem State.modGraph_toWindow (s : State) (g : Nat) (f : Graph → Graph) : (s.modGraph g f).toWindow = s.toWindow := rfl
@[simp] theorem State.modGraph_outside (s : State) (g : Nat) (f : Graph → Graph) : (s.modGraph g f).outside = s.outside := rfl

@[simp] theorem State.setPort_cur (s : State) (p : Nat) (x : Port) : (s.setPort p x).cur = s.cur := rfl
@[simp] theorem State.setPort_agenda (s : State) (p : Nat) (x : Port) : (s.setPort p x).agenda = s.agenda := rfl
@[simp] theorem State.setPort_fresh (s : State) (p : Nat) (x : Port) : (s.setPort p x).fresh = s.fresh := rfl
@[simp] theorem State.setPort_nextId (s : State) (p : Nat) (x : Port) : (s.setPort p x).nextId = s.nextId := rfl
@[simp] theorem State.setPort_ctxs (s : State) (p : Nat) (x : Port) : (s.setPort p x).ctxs = s.ctxs := rfl
@[simp] theorem State.setPort_cores (s : State) (p : Nat) (x : Port) : (s.setPort p x).cores = s.cores := rfl
@[simp] theorem State.setPort_clusters (s : State) (p : Nat) (x : Port) : (s.setPort p x).clusters = s.clusters := rfl
@[simp] theorem State.setPort_dies (s : State) (p : Nat) (x : Port) : (s.setPort p x).dies = s.dies := rfl
@[simp] theorem State.setPort_gmem (s : State) (p : Nat) (x : Port) : (s.setPort p x).gmem = s.gmem := rfl
@[simp] theorem State.setPort_gwritten (s : State) (p : Nat) (x : Port) : (s.setPort p x).gwritten = s.gwritten := rfl
@[simp] theorem State.setPort_pages (s : State) (p : Nat) (x : Port) : (s.setPort p x).pages = s.pages := rfl
@[simp] theorem State.setPort_frame (s : State) (p : Nat) (x : Port) : (s.setPort p x).frame = s.frame := rfl
@[simp] theorem State.setPort_net (s : State) (p : Nat) (x : Port) : (s.setPort p x).net = s.net := rfl
@[simp] theorem State.setPort_applied (s : State) (p : Nat) (x : Port) : (s.setPort p x).applied = s.applied := rfl
@[simp] theorem State.setPort_dispatchClock (s : State) (p : Nat) (x : Port) : (s.setPort p x).dispatchClock = s.dispatchClock := rfl
@[simp] theorem State.setPort_squads (s : State) (p : Nat) (x : Port) : (s.setPort p x).squads = s.squads := rfl
@[simp] theorem State.setPort_colls (s : State) (p : Nat) (x : Port) : (s.setPort p x).colls = s.colls := rfl
@[simp] theorem State.setPort_jobs (s : State) (p : Nat) (x : Port) : (s.setPort p x).jobs = s.jobs := rfl
@[simp] theorem State.setPort_launches (s : State) (p : Nat) (x : Port) : (s.setPort p x).launches = s.launches := rfl
@[simp] theorem State.setPort_graphs (s : State) (p : Nat) (x : Port) : (s.setPort p x).graphs = s.graphs := rfl
@[simp] theorem State.setPort_nextLaunch (s : State) (p : Nat) (x : Port) : (s.setPort p x).nextLaunch = s.nextLaunch := rfl
@[simp] theorem State.setPort_nextGraph (s : State) (p : Nat) (x : Port) : (s.setPort p x).nextGraph = s.nextGraph := rfl
@[simp] theorem State.setPort_served (s : State) (p : Nat) (x : Port) : (s.setPort p x).served = s.served := rfl
@[simp] theorem State.setPort_saved (s : State) (p : Nat) (x : Port) : (s.setPort p x).saved = s.saved := rfl
@[simp] theorem State.setPort_seals (s : State) (p : Nat) (x : Port) : (s.setPort p x).seals = s.seals := rfl
@[simp] theorem State.setPort_sequencer (s : State) (p : Nat) (x : Port) : (s.setPort p x).sequencer = s.sequencer := rfl
@[simp] theorem State.setPort_mgmt (s : State) (p : Nat) (x : Port) : (s.setPort p x).mgmt = s.mgmt := rfl
@[simp] theorem State.setPort_routes (s : State) (p : Nat) (x : Port) : (s.setPort p x).routes = s.routes := rfl
@[simp] theorem State.setPort_pins (s : State) (p : Nat) (x : Port) : (s.setPort p x).pins = s.pins := rfl
@[simp] theorem State.setPort_links (s : State) (p : Nat) (x : Port) : (s.setPort p x).links = s.links := rfl
@[simp] theorem State.setPort_deadLinks (s : State) (p : Nat) (x : Port) : (s.setPort p x).deadLinks = s.deadLinks := rfl
@[simp] theorem State.setPort_owed (s : State) (p : Nat) (x : Port) : (s.setPort p x).owed = s.owed := rfl
@[simp] theorem State.setPort_toWindow (s : State) (p : Nat) (x : Port) : (s.setPort p x).toWindow = s.toWindow := rfl
@[simp] theorem State.setPort_outside (s : State) (p : Nat) (x : Port) : (s.setPort p x).outside = s.outside := rfl

@[simp] theorem State.setLink_cur (s : State) (l : Nat) (x : Link) : (s.setLink l x).cur = s.cur := rfl
@[simp] theorem State.setLink_agenda (s : State) (l : Nat) (x : Link) : (s.setLink l x).agenda = s.agenda := rfl
@[simp] theorem State.setLink_fresh (s : State) (l : Nat) (x : Link) : (s.setLink l x).fresh = s.fresh := rfl
@[simp] theorem State.setLink_nextId (s : State) (l : Nat) (x : Link) : (s.setLink l x).nextId = s.nextId := rfl
@[simp] theorem State.setLink_ctxs (s : State) (l : Nat) (x : Link) : (s.setLink l x).ctxs = s.ctxs := rfl
@[simp] theorem State.setLink_cores (s : State) (l : Nat) (x : Link) : (s.setLink l x).cores = s.cores := rfl
@[simp] theorem State.setLink_clusters (s : State) (l : Nat) (x : Link) : (s.setLink l x).clusters = s.clusters := rfl
@[simp] theorem State.setLink_dies (s : State) (l : Nat) (x : Link) : (s.setLink l x).dies = s.dies := rfl
@[simp] theorem State.setLink_gmem (s : State) (l : Nat) (x : Link) : (s.setLink l x).gmem = s.gmem := rfl
@[simp] theorem State.setLink_gwritten (s : State) (l : Nat) (x : Link) : (s.setLink l x).gwritten = s.gwritten := rfl
@[simp] theorem State.setLink_pages (s : State) (l : Nat) (x : Link) : (s.setLink l x).pages = s.pages := rfl
@[simp] theorem State.setLink_frame (s : State) (l : Nat) (x : Link) : (s.setLink l x).frame = s.frame := rfl
@[simp] theorem State.setLink_net (s : State) (l : Nat) (x : Link) : (s.setLink l x).net = s.net := rfl
@[simp] theorem State.setLink_applied (s : State) (l : Nat) (x : Link) : (s.setLink l x).applied = s.applied := rfl
@[simp] theorem State.setLink_dispatchClock (s : State) (l : Nat) (x : Link) : (s.setLink l x).dispatchClock = s.dispatchClock := rfl
@[simp] theorem State.setLink_squads (s : State) (l : Nat) (x : Link) : (s.setLink l x).squads = s.squads := rfl
@[simp] theorem State.setLink_colls (s : State) (l : Nat) (x : Link) : (s.setLink l x).colls = s.colls := rfl
@[simp] theorem State.setLink_jobs (s : State) (l : Nat) (x : Link) : (s.setLink l x).jobs = s.jobs := rfl
@[simp] theorem State.setLink_launches (s : State) (l : Nat) (x : Link) : (s.setLink l x).launches = s.launches := rfl
@[simp] theorem State.setLink_graphs (s : State) (l : Nat) (x : Link) : (s.setLink l x).graphs = s.graphs := rfl
@[simp] theorem State.setLink_nextLaunch (s : State) (l : Nat) (x : Link) : (s.setLink l x).nextLaunch = s.nextLaunch := rfl
@[simp] theorem State.setLink_nextGraph (s : State) (l : Nat) (x : Link) : (s.setLink l x).nextGraph = s.nextGraph := rfl
@[simp] theorem State.setLink_served (s : State) (l : Nat) (x : Link) : (s.setLink l x).served = s.served := rfl
@[simp] theorem State.setLink_saved (s : State) (l : Nat) (x : Link) : (s.setLink l x).saved = s.saved := rfl
@[simp] theorem State.setLink_seals (s : State) (l : Nat) (x : Link) : (s.setLink l x).seals = s.seals := rfl
@[simp] theorem State.setLink_sequencer (s : State) (l : Nat) (x : Link) : (s.setLink l x).sequencer = s.sequencer := rfl
@[simp] theorem State.setLink_mgmt (s : State) (l : Nat) (x : Link) : (s.setLink l x).mgmt = s.mgmt := rfl
@[simp] theorem State.setLink_ports (s : State) (l : Nat) (x : Link) : (s.setLink l x).ports = s.ports := rfl
@[simp] theorem State.setLink_routes (s : State) (l : Nat) (x : Link) : (s.setLink l x).routes = s.routes := rfl
@[simp] theorem State.setLink_pins (s : State) (l : Nat) (x : Link) : (s.setLink l x).pins = s.pins := rfl
@[simp] theorem State.setLink_deadLinks (s : State) (l : Nat) (x : Link) : (s.setLink l x).deadLinks = s.deadLinks := rfl
@[simp] theorem State.setLink_owed (s : State) (l : Nat) (x : Link) : (s.setLink l x).owed = s.owed := rfl
@[simp] theorem State.setLink_toWindow (s : State) (l : Nat) (x : Link) : (s.setLink l x).toWindow = s.toWindow := rfl
@[simp] theorem State.setLink_outside (s : State) (l : Nat) (x : Link) : (s.setLink l x).outside = s.outside := rfl

@[simp] theorem State.modMe_cur (s : State) (f : Ctx → Ctx) : (s.modMe f).cur = s.cur := rfl
@[simp] theorem State.modMe_agenda (s : State) (f : Ctx → Ctx) : (s.modMe f).agenda = s.agenda := rfl
@[simp] theorem State.modMe_fresh (s : State) (f : Ctx → Ctx) : (s.modMe f).fresh = s.fresh := rfl
@[simp] theorem State.modMe_nextId (s : State) (f : Ctx → Ctx) : (s.modMe f).nextId = s.nextId := rfl
@[simp] theorem State.modMe_cores (s : State) (f : Ctx → Ctx) : (s.modMe f).cores = s.cores := rfl
@[simp] theorem State.modMe_clusters (s : State) (f : Ctx → Ctx) : (s.modMe f).clusters = s.clusters := rfl
@[simp] theorem State.modMe_dies (s : State) (f : Ctx → Ctx) : (s.modMe f).dies = s.dies := rfl
@[simp] theorem State.modMe_gmem (s : State) (f : Ctx → Ctx) : (s.modMe f).gmem = s.gmem := rfl
@[simp] theorem State.modMe_gwritten (s : State) (f : Ctx → Ctx) : (s.modMe f).gwritten = s.gwritten := rfl
@[simp] theorem State.modMe_pages (s : State) (f : Ctx → Ctx) : (s.modMe f).pages = s.pages := rfl
@[simp] theorem State.modMe_frame (s : State) (f : Ctx → Ctx) : (s.modMe f).frame = s.frame := rfl
@[simp] theorem State.modMe_net (s : State) (f : Ctx → Ctx) : (s.modMe f).net = s.net := rfl
@[simp] theorem State.modMe_applied (s : State) (f : Ctx → Ctx) : (s.modMe f).applied = s.applied := rfl
@[simp] theorem State.modMe_dispatchClock (s : State) (f : Ctx → Ctx) : (s.modMe f).dispatchClock = s.dispatchClock := rfl
@[simp] theorem State.modMe_squads (s : State) (f : Ctx → Ctx) : (s.modMe f).squads = s.squads := rfl
@[simp] theorem State.modMe_colls (s : State) (f : Ctx → Ctx) : (s.modMe f).colls = s.colls := rfl
@[simp] theorem State.modMe_jobs (s : State) (f : Ctx → Ctx) : (s.modMe f).jobs = s.jobs := rfl
@[simp] theorem State.modMe_launches (s : State) (f : Ctx → Ctx) : (s.modMe f).launches = s.launches := rfl
@[simp] theorem State.modMe_graphs (s : State) (f : Ctx → Ctx) : (s.modMe f).graphs = s.graphs := rfl
@[simp] theorem State.modMe_nextLaunch (s : State) (f : Ctx → Ctx) : (s.modMe f).nextLaunch = s.nextLaunch := rfl
@[simp] theorem State.modMe_nextGraph (s : State) (f : Ctx → Ctx) : (s.modMe f).nextGraph = s.nextGraph := rfl
@[simp] theorem State.modMe_served (s : State) (f : Ctx → Ctx) : (s.modMe f).served = s.served := rfl
@[simp] theorem State.modMe_saved (s : State) (f : Ctx → Ctx) : (s.modMe f).saved = s.saved := rfl
@[simp] theorem State.modMe_seals (s : State) (f : Ctx → Ctx) : (s.modMe f).seals = s.seals := rfl
@[simp] theorem State.modMe_sequencer (s : State) (f : Ctx → Ctx) : (s.modMe f).sequencer = s.sequencer := rfl
@[simp] theorem State.modMe_mgmt (s : State) (f : Ctx → Ctx) : (s.modMe f).mgmt = s.mgmt := rfl
@[simp] theorem State.modMe_ports (s : State) (f : Ctx → Ctx) : (s.modMe f).ports = s.ports := rfl
@[simp] theorem State.modMe_routes (s : State) (f : Ctx → Ctx) : (s.modMe f).routes = s.routes := rfl
@[simp] theorem State.modMe_pins (s : State) (f : Ctx → Ctx) : (s.modMe f).pins = s.pins := rfl
@[simp] theorem State.modMe_links (s : State) (f : Ctx → Ctx) : (s.modMe f).links = s.links := rfl
@[simp] theorem State.modMe_deadLinks (s : State) (f : Ctx → Ctx) : (s.modMe f).deadLinks = s.deadLinks := rfl
@[simp] theorem State.modMe_owed (s : State) (f : Ctx → Ctx) : (s.modMe f).owed = s.owed := rfl
@[simp] theorem State.modMe_toWindow (s : State) (f : Ctx → Ctx) : (s.modMe f).toWindow = s.toWindow := rfl
@[simp] theorem State.modMe_outside (s : State) (f : Ctx → Ctx) : (s.modMe f).outside = s.outside := rfl

@[simp] theorem State.done_cur (s : State) (n : Nat) (f : Ctx → Ctx) : (s.done n f).cur = s.cur := rfl
@[simp] theorem State.done_agenda (s : State) (n : Nat) (f : Ctx → Ctx) : (s.done n f).agenda = s.agenda := rfl
@[simp] theorem State.done_fresh (s : State) (n : Nat) (f : Ctx → Ctx) : (s.done n f).fresh = s.fresh := rfl
@[simp] theorem State.done_nextId (s : State) (n : Nat) (f : Ctx → Ctx) : (s.done n f).nextId = s.nextId := rfl
@[simp] theorem State.done_cores (s : State) (n : Nat) (f : Ctx → Ctx) : (s.done n f).cores = s.cores := rfl
@[simp] theorem State.done_clusters (s : State) (n : Nat) (f : Ctx → Ctx) : (s.done n f).clusters = s.clusters := rfl
@[simp] theorem State.done_dies (s : State) (n : Nat) (f : Ctx → Ctx) : (s.done n f).dies = s.dies := rfl
@[simp] theorem State.done_gmem (s : State) (n : Nat) (f : Ctx → Ctx) : (s.done n f).gmem = s.gmem := rfl
@[simp] theorem State.done_gwritten (s : State) (n : Nat) (f : Ctx → Ctx) : (s.done n f).gwritten = s.gwritten := rfl
@[simp] theorem State.done_pages (s : State) (n : Nat) (f : Ctx → Ctx) : (s.done n f).pages = s.pages := rfl
@[simp] theorem State.done_frame (s : State) (n : Nat) (f : Ctx → Ctx) : (s.done n f).frame = s.frame := rfl
@[simp] theorem State.done_net (s : State) (n : Nat) (f : Ctx → Ctx) : (s.done n f).net = s.net := rfl
@[simp] theorem State.done_applied (s : State) (n : Nat) (f : Ctx → Ctx) : (s.done n f).applied = s.applied := rfl
@[simp] theorem State.done_dispatchClock (s : State) (n : Nat) (f : Ctx → Ctx) : (s.done n f).dispatchClock = s.dispatchClock := rfl
@[simp] theorem State.done_squads (s : State) (n : Nat) (f : Ctx → Ctx) : (s.done n f).squads = s.squads := rfl
@[simp] theorem State.done_colls (s : State) (n : Nat) (f : Ctx → Ctx) : (s.done n f).colls = s.colls := rfl
@[simp] theorem State.done_jobs (s : State) (n : Nat) (f : Ctx → Ctx) : (s.done n f).jobs = s.jobs := rfl
@[simp] theorem State.done_launches (s : State) (n : Nat) (f : Ctx → Ctx) : (s.done n f).launches = s.launches := rfl
@[simp] theorem State.done_graphs (s : State) (n : Nat) (f : Ctx → Ctx) : (s.done n f).graphs = s.graphs := rfl
@[simp] theorem State.done_nextLaunch (s : State) (n : Nat) (f : Ctx → Ctx) : (s.done n f).nextLaunch = s.nextLaunch := rfl
@[simp] theorem State.done_nextGraph (s : State) (n : Nat) (f : Ctx → Ctx) : (s.done n f).nextGraph = s.nextGraph := rfl
@[simp] theorem State.done_served (s : State) (n : Nat) (f : Ctx → Ctx) : (s.done n f).served = s.served := rfl
@[simp] theorem State.done_saved (s : State) (n : Nat) (f : Ctx → Ctx) : (s.done n f).saved = s.saved := rfl
@[simp] theorem State.done_seals (s : State) (n : Nat) (f : Ctx → Ctx) : (s.done n f).seals = s.seals := rfl
@[simp] theorem State.done_sequencer (s : State) (n : Nat) (f : Ctx → Ctx) : (s.done n f).sequencer = s.sequencer := rfl
@[simp] theorem State.done_mgmt (s : State) (n : Nat) (f : Ctx → Ctx) : (s.done n f).mgmt = s.mgmt := rfl
@[simp] theorem State.done_ports (s : State) (n : Nat) (f : Ctx → Ctx) : (s.done n f).ports = s.ports := rfl
@[simp] theorem State.done_routes (s : State) (n : Nat) (f : Ctx → Ctx) : (s.done n f).routes = s.routes := rfl
@[simp] theorem State.done_pins (s : State) (n : Nat) (f : Ctx → Ctx) : (s.done n f).pins = s.pins := rfl
@[simp] theorem State.done_links (s : State) (n : Nat) (f : Ctx → Ctx) : (s.done n f).links = s.links := rfl
@[simp] theorem State.done_deadLinks (s : State) (n : Nat) (f : Ctx → Ctx) : (s.done n f).deadLinks = s.deadLinks := rfl
@[simp] theorem State.done_owed (s : State) (n : Nat) (f : Ctx → Ctx) : (s.done n f).owed = s.owed := rfl
@[simp] theorem State.done_toWindow (s : State) (n : Nat) (f : Ctx → Ctx) : (s.done n f).toWindow = s.toWindow := rfl
@[simp] theorem State.done_outside (s : State) (n : Nat) (f : Ctx → Ctx) : (s.done n f).outside = s.outside := rfl

@[simp] theorem State.waits_cur (s : State) (w : Wait) : (s.waits w).cur = s.cur := rfl
@[simp] theorem State.waits_agenda (s : State) (w : Wait) : (s.waits w).agenda = s.agenda := rfl
@[simp] theorem State.waits_fresh (s : State) (w : Wait) : (s.waits w).fresh = s.fresh := rfl
@[simp] theorem State.waits_nextId (s : State) (w : Wait) : (s.waits w).nextId = s.nextId := rfl
@[simp] theorem State.waits_cores (s : State) (w : Wait) : (s.waits w).cores = s.cores := rfl
@[simp] theorem State.waits_clusters (s : State) (w : Wait) : (s.waits w).clusters = s.clusters := rfl
@[simp] theorem State.waits_dies (s : State) (w : Wait) : (s.waits w).dies = s.dies := rfl
@[simp] theorem State.waits_gmem (s : State) (w : Wait) : (s.waits w).gmem = s.gmem := rfl
@[simp] theorem State.waits_gwritten (s : State) (w : Wait) : (s.waits w).gwritten = s.gwritten := rfl
@[simp] theorem State.waits_pages (s : State) (w : Wait) : (s.waits w).pages = s.pages := rfl
@[simp] theorem State.waits_frame (s : State) (w : Wait) : (s.waits w).frame = s.frame := rfl
@[simp] theorem State.waits_net (s : State) (w : Wait) : (s.waits w).net = s.net := rfl
@[simp] theorem State.waits_applied (s : State) (w : Wait) : (s.waits w).applied = s.applied := rfl
@[simp] theorem State.waits_dispatchClock (s : State) (w : Wait) : (s.waits w).dispatchClock = s.dispatchClock := rfl
@[simp] theorem State.waits_squads (s : State) (w : Wait) : (s.waits w).squads = s.squads := rfl
@[simp] theorem State.waits_colls (s : State) (w : Wait) : (s.waits w).colls = s.colls := rfl
@[simp] theorem State.waits_jobs (s : State) (w : Wait) : (s.waits w).jobs = s.jobs := rfl
@[simp] theorem State.waits_launches (s : State) (w : Wait) : (s.waits w).launches = s.launches := rfl
@[simp] theorem State.waits_graphs (s : State) (w : Wait) : (s.waits w).graphs = s.graphs := rfl
@[simp] theorem State.waits_nextLaunch (s : State) (w : Wait) : (s.waits w).nextLaunch = s.nextLaunch := rfl
@[simp] theorem State.waits_nextGraph (s : State) (w : Wait) : (s.waits w).nextGraph = s.nextGraph := rfl
@[simp] theorem State.waits_served (s : State) (w : Wait) : (s.waits w).served = s.served := rfl
@[simp] theorem State.waits_saved (s : State) (w : Wait) : (s.waits w).saved = s.saved := rfl
@[simp] theorem State.waits_seals (s : State) (w : Wait) : (s.waits w).seals = s.seals := rfl
@[simp] theorem State.waits_sequencer (s : State) (w : Wait) : (s.waits w).sequencer = s.sequencer := rfl
@[simp] theorem State.waits_mgmt (s : State) (w : Wait) : (s.waits w).mgmt = s.mgmt := rfl
@[simp] theorem State.waits_ports (s : State) (w : Wait) : (s.waits w).ports = s.ports := rfl
@[simp] theorem State.waits_routes (s : State) (w : Wait) : (s.waits w).routes = s.routes := rfl
@[simp] theorem State.waits_pins (s : State) (w : Wait) : (s.waits w).pins = s.pins := rfl
@[simp] theorem State.waits_links (s : State) (w : Wait) : (s.waits w).links = s.links := rfl
@[simp] theorem State.waits_deadLinks (s : State) (w : Wait) : (s.waits w).deadLinks = s.deadLinks := rfl
@[simp] theorem State.waits_owed (s : State) (w : Wait) : (s.waits w).owed = s.owed := rfl
@[simp] theorem State.waits_toWindow (s : State) (w : Wait) : (s.waits w).toWindow = s.toWindow := rfl
@[simp] theorem State.waits_outside (s : State) (w : Wait) : (s.waits w).outside = s.outside := rfl

@[simp] theorem State.dropMsg_cur (s : State) (m : Nat) : (s.dropMsg m).cur = s.cur := rfl
@[simp] theorem State.dropMsg_agenda (s : State) (m : Nat) : (s.dropMsg m).agenda = s.agenda := rfl
@[simp] theorem State.dropMsg_fresh (s : State) (m : Nat) : (s.dropMsg m).fresh = s.fresh := rfl
@[simp] theorem State.dropMsg_nextId (s : State) (m : Nat) : (s.dropMsg m).nextId = s.nextId := rfl
@[simp] theorem State.dropMsg_ctxs (s : State) (m : Nat) : (s.dropMsg m).ctxs = s.ctxs := rfl
@[simp] theorem State.dropMsg_cores (s : State) (m : Nat) : (s.dropMsg m).cores = s.cores := rfl
@[simp] theorem State.dropMsg_clusters (s : State) (m : Nat) : (s.dropMsg m).clusters = s.clusters := rfl
@[simp] theorem State.dropMsg_dies (s : State) (m : Nat) : (s.dropMsg m).dies = s.dies := rfl
@[simp] theorem State.dropMsg_gmem (s : State) (m : Nat) : (s.dropMsg m).gmem = s.gmem := rfl
@[simp] theorem State.dropMsg_gwritten (s : State) (m : Nat) : (s.dropMsg m).gwritten = s.gwritten := rfl
@[simp] theorem State.dropMsg_pages (s : State) (m : Nat) : (s.dropMsg m).pages = s.pages := rfl
@[simp] theorem State.dropMsg_frame (s : State) (m : Nat) : (s.dropMsg m).frame = s.frame := rfl
@[simp] theorem State.dropMsg_applied (s : State) (m : Nat) : (s.dropMsg m).applied = s.applied := rfl
@[simp] theorem State.dropMsg_dispatchClock (s : State) (m : Nat) : (s.dropMsg m).dispatchClock = s.dispatchClock := rfl
@[simp] theorem State.dropMsg_squads (s : State) (m : Nat) : (s.dropMsg m).squads = s.squads := rfl
@[simp] theorem State.dropMsg_colls (s : State) (m : Nat) : (s.dropMsg m).colls = s.colls := rfl
@[simp] theorem State.dropMsg_jobs (s : State) (m : Nat) : (s.dropMsg m).jobs = s.jobs := rfl
@[simp] theorem State.dropMsg_launches (s : State) (m : Nat) : (s.dropMsg m).launches = s.launches := rfl
@[simp] theorem State.dropMsg_graphs (s : State) (m : Nat) : (s.dropMsg m).graphs = s.graphs := rfl
@[simp] theorem State.dropMsg_nextLaunch (s : State) (m : Nat) : (s.dropMsg m).nextLaunch = s.nextLaunch := rfl
@[simp] theorem State.dropMsg_nextGraph (s : State) (m : Nat) : (s.dropMsg m).nextGraph = s.nextGraph := rfl
@[simp] theorem State.dropMsg_served (s : State) (m : Nat) : (s.dropMsg m).served = s.served := rfl
@[simp] theorem State.dropMsg_saved (s : State) (m : Nat) : (s.dropMsg m).saved = s.saved := rfl
@[simp] theorem State.dropMsg_seals (s : State) (m : Nat) : (s.dropMsg m).seals = s.seals := rfl
@[simp] theorem State.dropMsg_sequencer (s : State) (m : Nat) : (s.dropMsg m).sequencer = s.sequencer := rfl
@[simp] theorem State.dropMsg_mgmt (s : State) (m : Nat) : (s.dropMsg m).mgmt = s.mgmt := rfl
@[simp] theorem State.dropMsg_ports (s : State) (m : Nat) : (s.dropMsg m).ports = s.ports := rfl
@[simp] theorem State.dropMsg_routes (s : State) (m : Nat) : (s.dropMsg m).routes = s.routes := rfl
@[simp] theorem State.dropMsg_pins (s : State) (m : Nat) : (s.dropMsg m).pins = s.pins := rfl
@[simp] theorem State.dropMsg_links (s : State) (m : Nat) : (s.dropMsg m).links = s.links := rfl
@[simp] theorem State.dropMsg_deadLinks (s : State) (m : Nat) : (s.dropMsg m).deadLinks = s.deadLinks := rfl
@[simp] theorem State.dropMsg_owed (s : State) (m : Nat) : (s.dropMsg m).owed = s.owed := rfl
@[simp] theorem State.dropMsg_toWindow (s : State) (m : Nat) : (s.dropMsg m).toWindow = s.toWindow := rfl
@[simp] theorem State.dropMsg_outside (s : State) (m : Nat) : (s.dropMsg m).outside = s.outside := rfl

@[simp] theorem State.modMsg_cur (s : State) (m : Nat) (f : Msg → Msg) : (s.modMsg m f).cur = s.cur := rfl
@[simp] theorem State.modMsg_agenda (s : State) (m : Nat) (f : Msg → Msg) : (s.modMsg m f).agenda = s.agenda := rfl
@[simp] theorem State.modMsg_fresh (s : State) (m : Nat) (f : Msg → Msg) : (s.modMsg m f).fresh = s.fresh := rfl
@[simp] theorem State.modMsg_nextId (s : State) (m : Nat) (f : Msg → Msg) : (s.modMsg m f).nextId = s.nextId := rfl
@[simp] theorem State.modMsg_ctxs (s : State) (m : Nat) (f : Msg → Msg) : (s.modMsg m f).ctxs = s.ctxs := rfl
@[simp] theorem State.modMsg_cores (s : State) (m : Nat) (f : Msg → Msg) : (s.modMsg m f).cores = s.cores := rfl
@[simp] theorem State.modMsg_clusters (s : State) (m : Nat) (f : Msg → Msg) : (s.modMsg m f).clusters = s.clusters := rfl
@[simp] theorem State.modMsg_dies (s : State) (m : Nat) (f : Msg → Msg) : (s.modMsg m f).dies = s.dies := rfl
@[simp] theorem State.modMsg_gmem (s : State) (m : Nat) (f : Msg → Msg) : (s.modMsg m f).gmem = s.gmem := rfl
@[simp] theorem State.modMsg_gwritten (s : State) (m : Nat) (f : Msg → Msg) : (s.modMsg m f).gwritten = s.gwritten := rfl
@[simp] theorem State.modMsg_pages (s : State) (m : Nat) (f : Msg → Msg) : (s.modMsg m f).pages = s.pages := rfl
@[simp] theorem State.modMsg_frame (s : State) (m : Nat) (f : Msg → Msg) : (s.modMsg m f).frame = s.frame := rfl
@[simp] theorem State.modMsg_applied (s : State) (m : Nat) (f : Msg → Msg) : (s.modMsg m f).applied = s.applied := rfl
@[simp] theorem State.modMsg_dispatchClock (s : State) (m : Nat) (f : Msg → Msg) : (s.modMsg m f).dispatchClock = s.dispatchClock := rfl
@[simp] theorem State.modMsg_squads (s : State) (m : Nat) (f : Msg → Msg) : (s.modMsg m f).squads = s.squads := rfl
@[simp] theorem State.modMsg_colls (s : State) (m : Nat) (f : Msg → Msg) : (s.modMsg m f).colls = s.colls := rfl
@[simp] theorem State.modMsg_jobs (s : State) (m : Nat) (f : Msg → Msg) : (s.modMsg m f).jobs = s.jobs := rfl
@[simp] theorem State.modMsg_launches (s : State) (m : Nat) (f : Msg → Msg) : (s.modMsg m f).launches = s.launches := rfl
@[simp] theorem State.modMsg_graphs (s : State) (m : Nat) (f : Msg → Msg) : (s.modMsg m f).graphs = s.graphs := rfl
@[simp] theorem State.modMsg_nextLaunch (s : State) (m : Nat) (f : Msg → Msg) : (s.modMsg m f).nextLaunch = s.nextLaunch := rfl
@[simp] theorem State.modMsg_nextGraph (s : State) (m : Nat) (f : Msg → Msg) : (s.modMsg m f).nextGraph = s.nextGraph := rfl
@[simp] theorem State.modMsg_served (s : State) (m : Nat) (f : Msg → Msg) : (s.modMsg m f).served = s.served := rfl
@[simp] theorem State.modMsg_saved (s : State) (m : Nat) (f : Msg → Msg) : (s.modMsg m f).saved = s.saved := rfl
@[simp] theorem State.modMsg_seals (s : State) (m : Nat) (f : Msg → Msg) : (s.modMsg m f).seals = s.seals := rfl
@[simp] theorem State.modMsg_sequencer (s : State) (m : Nat) (f : Msg → Msg) : (s.modMsg m f).sequencer = s.sequencer := rfl
@[simp] theorem State.modMsg_mgmt (s : State) (m : Nat) (f : Msg → Msg) : (s.modMsg m f).mgmt = s.mgmt := rfl
@[simp] theorem State.modMsg_ports (s : State) (m : Nat) (f : Msg → Msg) : (s.modMsg m f).ports = s.ports := rfl
@[simp] theorem State.modMsg_routes (s : State) (m : Nat) (f : Msg → Msg) : (s.modMsg m f).routes = s.routes := rfl
@[simp] theorem State.modMsg_pins (s : State) (m : Nat) (f : Msg → Msg) : (s.modMsg m f).pins = s.pins := rfl
@[simp] theorem State.modMsg_links (s : State) (m : Nat) (f : Msg → Msg) : (s.modMsg m f).links = s.links := rfl
@[simp] theorem State.modMsg_deadLinks (s : State) (m : Nat) (f : Msg → Msg) : (s.modMsg m f).deadLinks = s.deadLinks := rfl
@[simp] theorem State.modMsg_owed (s : State) (m : Nat) (f : Msg → Msg) : (s.modMsg m f).owed = s.owed := rfl
@[simp] theorem State.modMsg_toWindow (s : State) (m : Nat) (f : Msg → Msg) : (s.modMsg m f).toWindow = s.toWindow := rfl
@[simp] theorem State.modMsg_outside (s : State) (m : Nat) (f : Msg → Msg) : (s.modMsg m f).outside = s.outside := rfl

/-! ### The part that an update gives, and the others of its kind -/

theorem State.ctx_setCtx (s : State) (c : Nat) (x : Ctx) (d : Nat) :
    (s.setCtx c x).ctx d = if d = c then x else s.ctx d := tget_tset ..
@[simp] theorem State.ctx_setCtx_same (s : State) (c : Nat) (x : Ctx) : (s.setCtx c x).ctx c = x := tget_tset_same ..
theorem State.ctx_setCtx_other (s : State) {c d : Nat} (x : Ctx) (h : d ≠ c) : (s.setCtx c x).ctx d = s.ctx d :=
  tget_tset_other _ _ _ h
theorem State.ctx_modCtx (s : State) (c : Nat) (f : Ctx → Ctx) (d : Nat) :
    (s.modCtx c f).ctx d = if d = c then f (s.ctx c) else s.ctx d := tget_tset ..
@[simp] theorem State.ctx_modCtx_same (s : State) (c : Nat) (f : Ctx → Ctx) : (s.modCtx c f).ctx c = f (s.ctx c) :=
  tget_tset_same ..
theorem State.ctx_modCtx_other (s : State) {c d : Nat} (f : Ctx → Ctx) (h : d ≠ c) :
    (s.modCtx c f).ctx d = s.ctx d := tget_tset_other _ _ _ h
@[simp] theorem State.setCore_ctx (s : State) (c : CoreId) (x : Core) (k : Nat) : (s.setCore c x).ctx k = s.ctx k := rfl
@[simp] theorem State.modCore_ctx (s : State) (c : CoreId) (f : Core → Core) (k : Nat) : (s.modCore c f).ctx k = s.ctx k := rfl
@[simp] theorem State.setCluster_ctx (s : State) (c : ClusterId) (x : Cluster) (k : Nat) : (s.setCluster c x).ctx k = s.ctx k := rfl
@[simp] theorem State.modCluster_ctx (s : State) (c : ClusterId) (f : Cluster → Cluster) (k : Nat) : (s.modCluster c f).ctx k = s.ctx k := rfl
@[simp] theorem State.setDie_ctx (s : State) (d : Nat) (x : Die) (k : Nat) : (s.setDie d x).ctx k = s.ctx k := rfl
@[simp] theorem State.modDie_ctx (s : State) (d : Nat) (f : Die → Die) (k : Nat) : (s.modDie d f).ctx k = s.ctx k := rfl
@[simp] theorem State.setPage_ctx (s : State) (p : Nat) (x : Page) (k : Nat) : (s.setPage p x).ctx k = s.ctx k := rfl
@[simp] theorem State.modPage_ctx (s : State) (p : Nat) (f : Page → Page) (k : Nat) : (s.modPage p f).ctx k = s.ctx k := rfl
@[simp] theorem State.setSquad_ctx (s : State) (h : Nat) (x : Option Squad) (k : Nat) : (s.setSquad h x).ctx k = s.ctx k := rfl
@[simp] theorem State.setJob_ctx (s : State) (j : Nat) (x : Option Job) (k : Nat) : (s.setJob j x).ctx k = s.ctx k := rfl
@[simp] theorem State.modJob_ctx (s : State) (j : Nat) (f : Job → Job) (k : Nat) : (s.modJob j f).ctx k = s.ctx k := rfl
@[simp] theorem State.setLaunch_ctx (s : State) (l : Nat) (x : Option Launch) (k : Nat) : (s.setLaunch l x).ctx k = s.ctx k := rfl
@[simp] theorem State.modLaunch_ctx (s : State) (l : Nat) (f : Launch → Launch) (k : Nat) : (s.modLaunch l f).ctx k = s.ctx k := rfl
@[simp] theorem State.setGraph_ctx (s : State) (g : Nat) (x : Option Graph) (k : Nat) : (s.setGraph g x).ctx k = s.ctx k := rfl
@[simp] theorem State.modGraph_ctx (s : State) (g : Nat) (f : Graph → Graph) (k : Nat) : (s.modGraph g f).ctx k = s.ctx k := rfl
@[simp] theorem State.setPort_ctx (s : State) (p : Nat) (x : Port) (k : Nat) : (s.setPort p x).ctx k = s.ctx k := rfl
@[simp] theorem State.setLink_ctx (s : State) (l : Nat) (x : Link) (k : Nat) : (s.setLink l x).ctx k = s.ctx k := rfl
@[simp] theorem State.dropMsg_ctx (s : State) (m : Nat) (k : Nat) : (s.dropMsg m).ctx k = s.ctx k := rfl
@[simp] theorem State.modMsg_ctx (s : State) (m : Nat) (f : Msg → Msg) (k : Nat) : (s.modMsg m f).ctx k = s.ctx k := rfl

theorem State.core_setCore (s : State) (c : Nat) (x : Core) (d : Nat) :
    (s.setCore c x).core d = if d = c then x else s.core d := tget_tset ..
@[simp] theorem State.core_setCore_same (s : State) (c : Nat) (x : Core) : (s.setCore c x).core c = x := tget_tset_same ..
theorem State.core_setCore_other (s : State) {c d : Nat} (x : Core) (h : d ≠ c) : (s.setCore c x).core d = s.core d :=
  tget_tset_other _ _ _ h
theorem State.core_modCore (s : State) (c : Nat) (f : Core → Core) (d : Nat) :
    (s.modCore c f).core d = if d = c then f (s.core c) else s.core d := tget_tset ..
@[simp] theorem State.core_modCore_same (s : State) (c : Nat) (f : Core → Core) : (s.modCore c f).core c = f (s.core c) :=
  tget_tset_same ..
theorem State.core_modCore_other (s : State) {c d : Nat} (f : Core → Core) (h : d ≠ c) :
    (s.modCore c f).core d = s.core d := tget_tset_other _ _ _ h
@[simp] theorem State.setCtx_core (s : State) (c : CtxId) (x : Ctx) (k : Nat) : (s.setCtx c x).core k = s.core k := rfl
@[simp] theorem State.modCtx_core (s : State) (c : CtxId) (f : Ctx → Ctx) (k : Nat) : (s.modCtx c f).core k = s.core k := rfl
@[simp] theorem State.setCluster_core (s : State) (c : ClusterId) (x : Cluster) (k : Nat) : (s.setCluster c x).core k = s.core k := rfl
@[simp] theorem State.modCluster_core (s : State) (c : ClusterId) (f : Cluster → Cluster) (k : Nat) : (s.modCluster c f).core k = s.core k := rfl
@[simp] theorem State.setDie_core (s : State) (d : Nat) (x : Die) (k : Nat) : (s.setDie d x).core k = s.core k := rfl
@[simp] theorem State.modDie_core (s : State) (d : Nat) (f : Die → Die) (k : Nat) : (s.modDie d f).core k = s.core k := rfl
@[simp] theorem State.setPage_core (s : State) (p : Nat) (x : Page) (k : Nat) : (s.setPage p x).core k = s.core k := rfl
@[simp] theorem State.modPage_core (s : State) (p : Nat) (f : Page → Page) (k : Nat) : (s.modPage p f).core k = s.core k := rfl
@[simp] theorem State.setSquad_core (s : State) (h : Nat) (x : Option Squad) (k : Nat) : (s.setSquad h x).core k = s.core k := rfl
@[simp] theorem State.setJob_core (s : State) (j : Nat) (x : Option Job) (k : Nat) : (s.setJob j x).core k = s.core k := rfl
@[simp] theorem State.modJob_core (s : State) (j : Nat) (f : Job → Job) (k : Nat) : (s.modJob j f).core k = s.core k := rfl
@[simp] theorem State.setLaunch_core (s : State) (l : Nat) (x : Option Launch) (k : Nat) : (s.setLaunch l x).core k = s.core k := rfl
@[simp] theorem State.modLaunch_core (s : State) (l : Nat) (f : Launch → Launch) (k : Nat) : (s.modLaunch l f).core k = s.core k := rfl
@[simp] theorem State.setGraph_core (s : State) (g : Nat) (x : Option Graph) (k : Nat) : (s.setGraph g x).core k = s.core k := rfl
@[simp] theorem State.modGraph_core (s : State) (g : Nat) (f : Graph → Graph) (k : Nat) : (s.modGraph g f).core k = s.core k := rfl
@[simp] theorem State.setPort_core (s : State) (p : Nat) (x : Port) (k : Nat) : (s.setPort p x).core k = s.core k := rfl
@[simp] theorem State.setLink_core (s : State) (l : Nat) (x : Link) (k : Nat) : (s.setLink l x).core k = s.core k := rfl
@[simp] theorem State.modMe_core (s : State) (f : Ctx → Ctx) (k : Nat) : (s.modMe f).core k = s.core k := rfl
@[simp] theorem State.done_core (s : State) (n : Nat) (f : Ctx → Ctx) (k : Nat) : (s.done n f).core k = s.core k := rfl
@[simp] theorem State.waits_core (s : State) (w : Wait) (k : Nat) : (s.waits w).core k = s.core k := rfl
@[simp] theorem State.dropMsg_core (s : State) (m : Nat) (k : Nat) : (s.dropMsg m).core k = s.core k := rfl
@[simp] theorem State.modMsg_core (s : State) (m : Nat) (f : Msg → Msg) (k : Nat) : (s.modMsg m f).core k = s.core k := rfl

theorem State.cluster_setCluster (s : State) (c : Nat) (x : Cluster) (d : Nat) :
    (s.setCluster c x).cluster d = if d = c then x else s.cluster d := tget_tset ..
@[simp] theorem State.cluster_setCluster_same (s : State) (c : Nat) (x : Cluster) : (s.setCluster c x).cluster c = x := tget_tset_same ..
theorem State.cluster_setCluster_other (s : State) {c d : Nat} (x : Cluster) (h : d ≠ c) : (s.setCluster c x).cluster d = s.cluster d :=
  tget_tset_other _ _ _ h
theorem State.cluster_modCluster (s : State) (c : Nat) (f : Cluster → Cluster) (d : Nat) :
    (s.modCluster c f).cluster d = if d = c then f (s.cluster c) else s.cluster d := tget_tset ..
@[simp] theorem State.cluster_modCluster_same (s : State) (c : Nat) (f : Cluster → Cluster) : (s.modCluster c f).cluster c = f (s.cluster c) :=
  tget_tset_same ..
theorem State.cluster_modCluster_other (s : State) {c d : Nat} (f : Cluster → Cluster) (h : d ≠ c) :
    (s.modCluster c f).cluster d = s.cluster d := tget_tset_other _ _ _ h
@[simp] theorem State.setCtx_cluster (s : State) (c : CtxId) (x : Ctx) (k : Nat) : (s.setCtx c x).cluster k = s.cluster k := rfl
@[simp] theorem State.modCtx_cluster (s : State) (c : CtxId) (f : Ctx → Ctx) (k : Nat) : (s.modCtx c f).cluster k = s.cluster k := rfl
@[simp] theorem State.setCore_cluster (s : State) (c : CoreId) (x : Core) (k : Nat) : (s.setCore c x).cluster k = s.cluster k := rfl
@[simp] theorem State.modCore_cluster (s : State) (c : CoreId) (f : Core → Core) (k : Nat) : (s.modCore c f).cluster k = s.cluster k := rfl
@[simp] theorem State.setDie_cluster (s : State) (d : Nat) (x : Die) (k : Nat) : (s.setDie d x).cluster k = s.cluster k := rfl
@[simp] theorem State.modDie_cluster (s : State) (d : Nat) (f : Die → Die) (k : Nat) : (s.modDie d f).cluster k = s.cluster k := rfl
@[simp] theorem State.setPage_cluster (s : State) (p : Nat) (x : Page) (k : Nat) : (s.setPage p x).cluster k = s.cluster k := rfl
@[simp] theorem State.modPage_cluster (s : State) (p : Nat) (f : Page → Page) (k : Nat) : (s.modPage p f).cluster k = s.cluster k := rfl
@[simp] theorem State.setSquad_cluster (s : State) (h : Nat) (x : Option Squad) (k : Nat) : (s.setSquad h x).cluster k = s.cluster k := rfl
@[simp] theorem State.setJob_cluster (s : State) (j : Nat) (x : Option Job) (k : Nat) : (s.setJob j x).cluster k = s.cluster k := rfl
@[simp] theorem State.modJob_cluster (s : State) (j : Nat) (f : Job → Job) (k : Nat) : (s.modJob j f).cluster k = s.cluster k := rfl
@[simp] theorem State.setLaunch_cluster (s : State) (l : Nat) (x : Option Launch) (k : Nat) : (s.setLaunch l x).cluster k = s.cluster k := rfl
@[simp] theorem State.modLaunch_cluster (s : State) (l : Nat) (f : Launch → Launch) (k : Nat) : (s.modLaunch l f).cluster k = s.cluster k := rfl
@[simp] theorem State.setGraph_cluster (s : State) (g : Nat) (x : Option Graph) (k : Nat) : (s.setGraph g x).cluster k = s.cluster k := rfl
@[simp] theorem State.modGraph_cluster (s : State) (g : Nat) (f : Graph → Graph) (k : Nat) : (s.modGraph g f).cluster k = s.cluster k := rfl
@[simp] theorem State.setPort_cluster (s : State) (p : Nat) (x : Port) (k : Nat) : (s.setPort p x).cluster k = s.cluster k := rfl
@[simp] theorem State.setLink_cluster (s : State) (l : Nat) (x : Link) (k : Nat) : (s.setLink l x).cluster k = s.cluster k := rfl
@[simp] theorem State.modMe_cluster (s : State) (f : Ctx → Ctx) (k : Nat) : (s.modMe f).cluster k = s.cluster k := rfl
@[simp] theorem State.done_cluster (s : State) (n : Nat) (f : Ctx → Ctx) (k : Nat) : (s.done n f).cluster k = s.cluster k := rfl
@[simp] theorem State.waits_cluster (s : State) (w : Wait) (k : Nat) : (s.waits w).cluster k = s.cluster k := rfl
@[simp] theorem State.dropMsg_cluster (s : State) (m : Nat) (k : Nat) : (s.dropMsg m).cluster k = s.cluster k := rfl
@[simp] theorem State.modMsg_cluster (s : State) (m : Nat) (f : Msg → Msg) (k : Nat) : (s.modMsg m f).cluster k = s.cluster k := rfl

theorem State.die_setDie (s : State) (c : Nat) (x : Die) (d : Nat) :
    (s.setDie c x).die d = if d = c then x else s.die d := tget_tset ..
@[simp] theorem State.die_setDie_same (s : State) (c : Nat) (x : Die) : (s.setDie c x).die c = x := tget_tset_same ..
theorem State.die_setDie_other (s : State) {c d : Nat} (x : Die) (h : d ≠ c) : (s.setDie c x).die d = s.die d :=
  tget_tset_other _ _ _ h
theorem State.die_modDie (s : State) (c : Nat) (f : Die → Die) (d : Nat) :
    (s.modDie c f).die d = if d = c then f (s.die c) else s.die d := tget_tset ..
@[simp] theorem State.die_modDie_same (s : State) (c : Nat) (f : Die → Die) : (s.modDie c f).die c = f (s.die c) :=
  tget_tset_same ..
theorem State.die_modDie_other (s : State) {c d : Nat} (f : Die → Die) (h : d ≠ c) :
    (s.modDie c f).die d = s.die d := tget_tset_other _ _ _ h
@[simp] theorem State.setCtx_die (s : State) (c : CtxId) (x : Ctx) (k : Nat) : (s.setCtx c x).die k = s.die k := rfl
@[simp] theorem State.modCtx_die (s : State) (c : CtxId) (f : Ctx → Ctx) (k : Nat) : (s.modCtx c f).die k = s.die k := rfl
@[simp] theorem State.setCore_die (s : State) (c : CoreId) (x : Core) (k : Nat) : (s.setCore c x).die k = s.die k := rfl
@[simp] theorem State.modCore_die (s : State) (c : CoreId) (f : Core → Core) (k : Nat) : (s.modCore c f).die k = s.die k := rfl
@[simp] theorem State.setCluster_die (s : State) (c : ClusterId) (x : Cluster) (k : Nat) : (s.setCluster c x).die k = s.die k := rfl
@[simp] theorem State.modCluster_die (s : State) (c : ClusterId) (f : Cluster → Cluster) (k : Nat) : (s.modCluster c f).die k = s.die k := rfl
@[simp] theorem State.setPage_die (s : State) (p : Nat) (x : Page) (k : Nat) : (s.setPage p x).die k = s.die k := rfl
@[simp] theorem State.modPage_die (s : State) (p : Nat) (f : Page → Page) (k : Nat) : (s.modPage p f).die k = s.die k := rfl
@[simp] theorem State.setSquad_die (s : State) (h : Nat) (x : Option Squad) (k : Nat) : (s.setSquad h x).die k = s.die k := rfl
@[simp] theorem State.setJob_die (s : State) (j : Nat) (x : Option Job) (k : Nat) : (s.setJob j x).die k = s.die k := rfl
@[simp] theorem State.modJob_die (s : State) (j : Nat) (f : Job → Job) (k : Nat) : (s.modJob j f).die k = s.die k := rfl
@[simp] theorem State.setLaunch_die (s : State) (l : Nat) (x : Option Launch) (k : Nat) : (s.setLaunch l x).die k = s.die k := rfl
@[simp] theorem State.modLaunch_die (s : State) (l : Nat) (f : Launch → Launch) (k : Nat) : (s.modLaunch l f).die k = s.die k := rfl
@[simp] theorem State.setGraph_die (s : State) (g : Nat) (x : Option Graph) (k : Nat) : (s.setGraph g x).die k = s.die k := rfl
@[simp] theorem State.modGraph_die (s : State) (g : Nat) (f : Graph → Graph) (k : Nat) : (s.modGraph g f).die k = s.die k := rfl
@[simp] theorem State.setPort_die (s : State) (p : Nat) (x : Port) (k : Nat) : (s.setPort p x).die k = s.die k := rfl
@[simp] theorem State.setLink_die (s : State) (l : Nat) (x : Link) (k : Nat) : (s.setLink l x).die k = s.die k := rfl
@[simp] theorem State.modMe_die (s : State) (f : Ctx → Ctx) (k : Nat) : (s.modMe f).die k = s.die k := rfl
@[simp] theorem State.done_die (s : State) (n : Nat) (f : Ctx → Ctx) (k : Nat) : (s.done n f).die k = s.die k := rfl
@[simp] theorem State.waits_die (s : State) (w : Wait) (k : Nat) : (s.waits w).die k = s.die k := rfl
@[simp] theorem State.dropMsg_die (s : State) (m : Nat) (k : Nat) : (s.dropMsg m).die k = s.die k := rfl
@[simp] theorem State.modMsg_die (s : State) (m : Nat) (f : Msg → Msg) (k : Nat) : (s.modMsg m f).die k = s.die k := rfl

theorem State.page_setPage (s : State) (c : Nat) (x : Page) (d : Nat) :
    (s.setPage c x).page d = if d = c then x else s.page d := tget_tset ..
@[simp] theorem State.page_setPage_same (s : State) (c : Nat) (x : Page) : (s.setPage c x).page c = x := tget_tset_same ..
theorem State.page_setPage_other (s : State) {c d : Nat} (x : Page) (h : d ≠ c) : (s.setPage c x).page d = s.page d :=
  tget_tset_other _ _ _ h
theorem State.page_modPage (s : State) (c : Nat) (f : Page → Page) (d : Nat) :
    (s.modPage c f).page d = if d = c then f (s.page c) else s.page d := tget_tset ..
@[simp] theorem State.page_modPage_same (s : State) (c : Nat) (f : Page → Page) : (s.modPage c f).page c = f (s.page c) :=
  tget_tset_same ..
theorem State.page_modPage_other (s : State) {c d : Nat} (f : Page → Page) (h : d ≠ c) :
    (s.modPage c f).page d = s.page d := tget_tset_other _ _ _ h
@[simp] theorem State.setCtx_page (s : State) (c : CtxId) (x : Ctx) (k : Nat) : (s.setCtx c x).page k = s.page k := rfl
@[simp] theorem State.modCtx_page (s : State) (c : CtxId) (f : Ctx → Ctx) (k : Nat) : (s.modCtx c f).page k = s.page k := rfl
@[simp] theorem State.setCore_page (s : State) (c : CoreId) (x : Core) (k : Nat) : (s.setCore c x).page k = s.page k := rfl
@[simp] theorem State.modCore_page (s : State) (c : CoreId) (f : Core → Core) (k : Nat) : (s.modCore c f).page k = s.page k := rfl
@[simp] theorem State.setCluster_page (s : State) (c : ClusterId) (x : Cluster) (k : Nat) : (s.setCluster c x).page k = s.page k := rfl
@[simp] theorem State.modCluster_page (s : State) (c : ClusterId) (f : Cluster → Cluster) (k : Nat) : (s.modCluster c f).page k = s.page k := rfl
@[simp] theorem State.setDie_page (s : State) (d : Nat) (x : Die) (k : Nat) : (s.setDie d x).page k = s.page k := rfl
@[simp] theorem State.modDie_page (s : State) (d : Nat) (f : Die → Die) (k : Nat) : (s.modDie d f).page k = s.page k := rfl
@[simp] theorem State.setSquad_page (s : State) (h : Nat) (x : Option Squad) (k : Nat) : (s.setSquad h x).page k = s.page k := rfl
@[simp] theorem State.setJob_page (s : State) (j : Nat) (x : Option Job) (k : Nat) : (s.setJob j x).page k = s.page k := rfl
@[simp] theorem State.modJob_page (s : State) (j : Nat) (f : Job → Job) (k : Nat) : (s.modJob j f).page k = s.page k := rfl
@[simp] theorem State.setLaunch_page (s : State) (l : Nat) (x : Option Launch) (k : Nat) : (s.setLaunch l x).page k = s.page k := rfl
@[simp] theorem State.modLaunch_page (s : State) (l : Nat) (f : Launch → Launch) (k : Nat) : (s.modLaunch l f).page k = s.page k := rfl
@[simp] theorem State.setGraph_page (s : State) (g : Nat) (x : Option Graph) (k : Nat) : (s.setGraph g x).page k = s.page k := rfl
@[simp] theorem State.modGraph_page (s : State) (g : Nat) (f : Graph → Graph) (k : Nat) : (s.modGraph g f).page k = s.page k := rfl
@[simp] theorem State.setPort_page (s : State) (p : Nat) (x : Port) (k : Nat) : (s.setPort p x).page k = s.page k := rfl
@[simp] theorem State.setLink_page (s : State) (l : Nat) (x : Link) (k : Nat) : (s.setLink l x).page k = s.page k := rfl
@[simp] theorem State.modMe_page (s : State) (f : Ctx → Ctx) (k : Nat) : (s.modMe f).page k = s.page k := rfl
@[simp] theorem State.done_page (s : State) (n : Nat) (f : Ctx → Ctx) (k : Nat) : (s.done n f).page k = s.page k := rfl
@[simp] theorem State.waits_page (s : State) (w : Wait) (k : Nat) : (s.waits w).page k = s.page k := rfl
@[simp] theorem State.dropMsg_page (s : State) (m : Nat) (k : Nat) : (s.dropMsg m).page k = s.page k := rfl
@[simp] theorem State.modMsg_page (s : State) (m : Nat) (f : Msg → Msg) (k : Nat) : (s.modMsg m f).page k = s.page k := rfl

theorem State.squad_setSquad (s : State) (c : Nat) (x : Option Squad) (d : Nat) :
    (s.setSquad c x).squad d = if d = c then x else s.squad d := tget_tset ..
@[simp] theorem State.squad_setSquad_same (s : State) (c : Nat) (x : Option Squad) : (s.setSquad c x).squad c = x := tget_tset_same ..
theorem State.squad_setSquad_other (s : State) {c d : Nat} (x : Option Squad) (h : d ≠ c) : (s.setSquad c x).squad d = s.squad d :=
  tget_tset_other _ _ _ h
@[simp] theorem State.setCtx_squad (s : State) (c : CtxId) (x : Ctx) (k : Nat) : (s.setCtx c x).squad k = s.squad k := rfl
@[simp] theorem State.modCtx_squad (s : State) (c : CtxId) (f : Ctx → Ctx) (k : Nat) : (s.modCtx c f).squad k = s.squad k := rfl
@[simp] theorem State.setCore_squad (s : State) (c : CoreId) (x : Core) (k : Nat) : (s.setCore c x).squad k = s.squad k := rfl
@[simp] theorem State.modCore_squad (s : State) (c : CoreId) (f : Core → Core) (k : Nat) : (s.modCore c f).squad k = s.squad k := rfl
@[simp] theorem State.setCluster_squad (s : State) (c : ClusterId) (x : Cluster) (k : Nat) : (s.setCluster c x).squad k = s.squad k := rfl
@[simp] theorem State.modCluster_squad (s : State) (c : ClusterId) (f : Cluster → Cluster) (k : Nat) : (s.modCluster c f).squad k = s.squad k := rfl
@[simp] theorem State.setDie_squad (s : State) (d : Nat) (x : Die) (k : Nat) : (s.setDie d x).squad k = s.squad k := rfl
@[simp] theorem State.modDie_squad (s : State) (d : Nat) (f : Die → Die) (k : Nat) : (s.modDie d f).squad k = s.squad k := rfl
@[simp] theorem State.setPage_squad (s : State) (p : Nat) (x : Page) (k : Nat) : (s.setPage p x).squad k = s.squad k := rfl
@[simp] theorem State.modPage_squad (s : State) (p : Nat) (f : Page → Page) (k : Nat) : (s.modPage p f).squad k = s.squad k := rfl
@[simp] theorem State.setJob_squad (s : State) (j : Nat) (x : Option Job) (k : Nat) : (s.setJob j x).squad k = s.squad k := rfl
@[simp] theorem State.modJob_squad (s : State) (j : Nat) (f : Job → Job) (k : Nat) : (s.modJob j f).squad k = s.squad k := rfl
@[simp] theorem State.setLaunch_squad (s : State) (l : Nat) (x : Option Launch) (k : Nat) : (s.setLaunch l x).squad k = s.squad k := rfl
@[simp] theorem State.modLaunch_squad (s : State) (l : Nat) (f : Launch → Launch) (k : Nat) : (s.modLaunch l f).squad k = s.squad k := rfl
@[simp] theorem State.setGraph_squad (s : State) (g : Nat) (x : Option Graph) (k : Nat) : (s.setGraph g x).squad k = s.squad k := rfl
@[simp] theorem State.modGraph_squad (s : State) (g : Nat) (f : Graph → Graph) (k : Nat) : (s.modGraph g f).squad k = s.squad k := rfl
@[simp] theorem State.setPort_squad (s : State) (p : Nat) (x : Port) (k : Nat) : (s.setPort p x).squad k = s.squad k := rfl
@[simp] theorem State.setLink_squad (s : State) (l : Nat) (x : Link) (k : Nat) : (s.setLink l x).squad k = s.squad k := rfl
@[simp] theorem State.modMe_squad (s : State) (f : Ctx → Ctx) (k : Nat) : (s.modMe f).squad k = s.squad k := rfl
@[simp] theorem State.done_squad (s : State) (n : Nat) (f : Ctx → Ctx) (k : Nat) : (s.done n f).squad k = s.squad k := rfl
@[simp] theorem State.waits_squad (s : State) (w : Wait) (k : Nat) : (s.waits w).squad k = s.squad k := rfl
@[simp] theorem State.dropMsg_squad (s : State) (m : Nat) (k : Nat) : (s.dropMsg m).squad k = s.squad k := rfl
@[simp] theorem State.modMsg_squad (s : State) (m : Nat) (f : Msg → Msg) (k : Nat) : (s.modMsg m f).squad k = s.squad k := rfl

theorem State.job_setJob (s : State) (c : Nat) (x : Option Job) (d : Nat) :
    (s.setJob c x).job d = if d = c then x else s.job d := tget_tset ..
@[simp] theorem State.job_setJob_same (s : State) (c : Nat) (x : Option Job) : (s.setJob c x).job c = x := tget_tset_same ..
theorem State.job_setJob_other (s : State) {c d : Nat} (x : Option Job) (h : d ≠ c) : (s.setJob c x).job d = s.job d :=
  tget_tset_other _ _ _ h
theorem State.job_modJob (s : State) (c : Nat) (f : Job → Job) (d : Nat) :
    (s.modJob c f).job d = if d = c then (s.job c).map f else s.job d := tget_tset ..
@[simp] theorem State.setCtx_job (s : State) (c : CtxId) (x : Ctx) (k : Nat) : (s.setCtx c x).job k = s.job k := rfl
@[simp] theorem State.modCtx_job (s : State) (c : CtxId) (f : Ctx → Ctx) (k : Nat) : (s.modCtx c f).job k = s.job k := rfl
@[simp] theorem State.setCore_job (s : State) (c : CoreId) (x : Core) (k : Nat) : (s.setCore c x).job k = s.job k := rfl
@[simp] theorem State.modCore_job (s : State) (c : CoreId) (f : Core → Core) (k : Nat) : (s.modCore c f).job k = s.job k := rfl
@[simp] theorem State.setCluster_job (s : State) (c : ClusterId) (x : Cluster) (k : Nat) : (s.setCluster c x).job k = s.job k := rfl
@[simp] theorem State.modCluster_job (s : State) (c : ClusterId) (f : Cluster → Cluster) (k : Nat) : (s.modCluster c f).job k = s.job k := rfl
@[simp] theorem State.setDie_job (s : State) (d : Nat) (x : Die) (k : Nat) : (s.setDie d x).job k = s.job k := rfl
@[simp] theorem State.modDie_job (s : State) (d : Nat) (f : Die → Die) (k : Nat) : (s.modDie d f).job k = s.job k := rfl
@[simp] theorem State.setPage_job (s : State) (p : Nat) (x : Page) (k : Nat) : (s.setPage p x).job k = s.job k := rfl
@[simp] theorem State.modPage_job (s : State) (p : Nat) (f : Page → Page) (k : Nat) : (s.modPage p f).job k = s.job k := rfl
@[simp] theorem State.setSquad_job (s : State) (h : Nat) (x : Option Squad) (k : Nat) : (s.setSquad h x).job k = s.job k := rfl
@[simp] theorem State.setLaunch_job (s : State) (l : Nat) (x : Option Launch) (k : Nat) : (s.setLaunch l x).job k = s.job k := rfl
@[simp] theorem State.modLaunch_job (s : State) (l : Nat) (f : Launch → Launch) (k : Nat) : (s.modLaunch l f).job k = s.job k := rfl
@[simp] theorem State.setGraph_job (s : State) (g : Nat) (x : Option Graph) (k : Nat) : (s.setGraph g x).job k = s.job k := rfl
@[simp] theorem State.modGraph_job (s : State) (g : Nat) (f : Graph → Graph) (k : Nat) : (s.modGraph g f).job k = s.job k := rfl
@[simp] theorem State.setPort_job (s : State) (p : Nat) (x : Port) (k : Nat) : (s.setPort p x).job k = s.job k := rfl
@[simp] theorem State.setLink_job (s : State) (l : Nat) (x : Link) (k : Nat) : (s.setLink l x).job k = s.job k := rfl
@[simp] theorem State.modMe_job (s : State) (f : Ctx → Ctx) (k : Nat) : (s.modMe f).job k = s.job k := rfl
@[simp] theorem State.done_job (s : State) (n : Nat) (f : Ctx → Ctx) (k : Nat) : (s.done n f).job k = s.job k := rfl
@[simp] theorem State.waits_job (s : State) (w : Wait) (k : Nat) : (s.waits w).job k = s.job k := rfl
@[simp] theorem State.dropMsg_job (s : State) (m : Nat) (k : Nat) : (s.dropMsg m).job k = s.job k := rfl
@[simp] theorem State.modMsg_job (s : State) (m : Nat) (f : Msg → Msg) (k : Nat) : (s.modMsg m f).job k = s.job k := rfl

theorem State.launch_setLaunch (s : State) (c : Nat) (x : Option Launch) (d : Nat) :
    (s.setLaunch c x).launch d = if d = c then x else s.launch d := tget_tset ..
@[simp] theorem State.launch_setLaunch_same (s : State) (c : Nat) (x : Option Launch) : (s.setLaunch c x).launch c = x := tget_tset_same ..
theorem State.launch_setLaunch_other (s : State) {c d : Nat} (x : Option Launch) (h : d ≠ c) : (s.setLaunch c x).launch d = s.launch d :=
  tget_tset_other _ _ _ h
theorem State.launch_modLaunch (s : State) (c : Nat) (f : Launch → Launch) (d : Nat) :
    (s.modLaunch c f).launch d = if d = c then (s.launch c).map f else s.launch d := tget_tset ..
@[simp] theorem State.setCtx_launch (s : State) (c : CtxId) (x : Ctx) (k : Nat) : (s.setCtx c x).launch k = s.launch k := rfl
@[simp] theorem State.modCtx_launch (s : State) (c : CtxId) (f : Ctx → Ctx) (k : Nat) : (s.modCtx c f).launch k = s.launch k := rfl
@[simp] theorem State.setCore_launch (s : State) (c : CoreId) (x : Core) (k : Nat) : (s.setCore c x).launch k = s.launch k := rfl
@[simp] theorem State.modCore_launch (s : State) (c : CoreId) (f : Core → Core) (k : Nat) : (s.modCore c f).launch k = s.launch k := rfl
@[simp] theorem State.setCluster_launch (s : State) (c : ClusterId) (x : Cluster) (k : Nat) : (s.setCluster c x).launch k = s.launch k := rfl
@[simp] theorem State.modCluster_launch (s : State) (c : ClusterId) (f : Cluster → Cluster) (k : Nat) : (s.modCluster c f).launch k = s.launch k := rfl
@[simp] theorem State.setDie_launch (s : State) (d : Nat) (x : Die) (k : Nat) : (s.setDie d x).launch k = s.launch k := rfl
@[simp] theorem State.modDie_launch (s : State) (d : Nat) (f : Die → Die) (k : Nat) : (s.modDie d f).launch k = s.launch k := rfl
@[simp] theorem State.setPage_launch (s : State) (p : Nat) (x : Page) (k : Nat) : (s.setPage p x).launch k = s.launch k := rfl
@[simp] theorem State.modPage_launch (s : State) (p : Nat) (f : Page → Page) (k : Nat) : (s.modPage p f).launch k = s.launch k := rfl
@[simp] theorem State.setSquad_launch (s : State) (h : Nat) (x : Option Squad) (k : Nat) : (s.setSquad h x).launch k = s.launch k := rfl
@[simp] theorem State.setJob_launch (s : State) (j : Nat) (x : Option Job) (k : Nat) : (s.setJob j x).launch k = s.launch k := rfl
@[simp] theorem State.modJob_launch (s : State) (j : Nat) (f : Job → Job) (k : Nat) : (s.modJob j f).launch k = s.launch k := rfl
@[simp] theorem State.setGraph_launch (s : State) (g : Nat) (x : Option Graph) (k : Nat) : (s.setGraph g x).launch k = s.launch k := rfl
@[simp] theorem State.modGraph_launch (s : State) (g : Nat) (f : Graph → Graph) (k : Nat) : (s.modGraph g f).launch k = s.launch k := rfl
@[simp] theorem State.setPort_launch (s : State) (p : Nat) (x : Port) (k : Nat) : (s.setPort p x).launch k = s.launch k := rfl
@[simp] theorem State.setLink_launch (s : State) (l : Nat) (x : Link) (k : Nat) : (s.setLink l x).launch k = s.launch k := rfl
@[simp] theorem State.modMe_launch (s : State) (f : Ctx → Ctx) (k : Nat) : (s.modMe f).launch k = s.launch k := rfl
@[simp] theorem State.done_launch (s : State) (n : Nat) (f : Ctx → Ctx) (k : Nat) : (s.done n f).launch k = s.launch k := rfl
@[simp] theorem State.waits_launch (s : State) (w : Wait) (k : Nat) : (s.waits w).launch k = s.launch k := rfl
@[simp] theorem State.dropMsg_launch (s : State) (m : Nat) (k : Nat) : (s.dropMsg m).launch k = s.launch k := rfl
@[simp] theorem State.modMsg_launch (s : State) (m : Nat) (f : Msg → Msg) (k : Nat) : (s.modMsg m f).launch k = s.launch k := rfl

theorem State.graph_setGraph (s : State) (c : Nat) (x : Option Graph) (d : Nat) :
    (s.setGraph c x).graph d = if d = c then x else s.graph d := tget_tset ..
@[simp] theorem State.graph_setGraph_same (s : State) (c : Nat) (x : Option Graph) : (s.setGraph c x).graph c = x := tget_tset_same ..
theorem State.graph_setGraph_other (s : State) {c d : Nat} (x : Option Graph) (h : d ≠ c) : (s.setGraph c x).graph d = s.graph d :=
  tget_tset_other _ _ _ h
theorem State.graph_modGraph (s : State) (c : Nat) (f : Graph → Graph) (d : Nat) :
    (s.modGraph c f).graph d = if d = c then (s.graph c).map f else s.graph d := tget_tset ..
@[simp] theorem State.setCtx_graph (s : State) (c : CtxId) (x : Ctx) (k : Nat) : (s.setCtx c x).graph k = s.graph k := rfl
@[simp] theorem State.modCtx_graph (s : State) (c : CtxId) (f : Ctx → Ctx) (k : Nat) : (s.modCtx c f).graph k = s.graph k := rfl
@[simp] theorem State.setCore_graph (s : State) (c : CoreId) (x : Core) (k : Nat) : (s.setCore c x).graph k = s.graph k := rfl
@[simp] theorem State.modCore_graph (s : State) (c : CoreId) (f : Core → Core) (k : Nat) : (s.modCore c f).graph k = s.graph k := rfl
@[simp] theorem State.setCluster_graph (s : State) (c : ClusterId) (x : Cluster) (k : Nat) : (s.setCluster c x).graph k = s.graph k := rfl
@[simp] theorem State.modCluster_graph (s : State) (c : ClusterId) (f : Cluster → Cluster) (k : Nat) : (s.modCluster c f).graph k = s.graph k := rfl
@[simp] theorem State.setDie_graph (s : State) (d : Nat) (x : Die) (k : Nat) : (s.setDie d x).graph k = s.graph k := rfl
@[simp] theorem State.modDie_graph (s : State) (d : Nat) (f : Die → Die) (k : Nat) : (s.modDie d f).graph k = s.graph k := rfl
@[simp] theorem State.setPage_graph (s : State) (p : Nat) (x : Page) (k : Nat) : (s.setPage p x).graph k = s.graph k := rfl
@[simp] theorem State.modPage_graph (s : State) (p : Nat) (f : Page → Page) (k : Nat) : (s.modPage p f).graph k = s.graph k := rfl
@[simp] theorem State.setSquad_graph (s : State) (h : Nat) (x : Option Squad) (k : Nat) : (s.setSquad h x).graph k = s.graph k := rfl
@[simp] theorem State.setJob_graph (s : State) (j : Nat) (x : Option Job) (k : Nat) : (s.setJob j x).graph k = s.graph k := rfl
@[simp] theorem State.modJob_graph (s : State) (j : Nat) (f : Job → Job) (k : Nat) : (s.modJob j f).graph k = s.graph k := rfl
@[simp] theorem State.setLaunch_graph (s : State) (l : Nat) (x : Option Launch) (k : Nat) : (s.setLaunch l x).graph k = s.graph k := rfl
@[simp] theorem State.modLaunch_graph (s : State) (l : Nat) (f : Launch → Launch) (k : Nat) : (s.modLaunch l f).graph k = s.graph k := rfl
@[simp] theorem State.setPort_graph (s : State) (p : Nat) (x : Port) (k : Nat) : (s.setPort p x).graph k = s.graph k := rfl
@[simp] theorem State.setLink_graph (s : State) (l : Nat) (x : Link) (k : Nat) : (s.setLink l x).graph k = s.graph k := rfl
@[simp] theorem State.modMe_graph (s : State) (f : Ctx → Ctx) (k : Nat) : (s.modMe f).graph k = s.graph k := rfl
@[simp] theorem State.done_graph (s : State) (n : Nat) (f : Ctx → Ctx) (k : Nat) : (s.done n f).graph k = s.graph k := rfl
@[simp] theorem State.waits_graph (s : State) (w : Wait) (k : Nat) : (s.waits w).graph k = s.graph k := rfl
@[simp] theorem State.dropMsg_graph (s : State) (m : Nat) (k : Nat) : (s.dropMsg m).graph k = s.graph k := rfl
@[simp] theorem State.modMsg_graph (s : State) (m : Nat) (f : Msg → Msg) (k : Nat) : (s.modMsg m f).graph k = s.graph k := rfl

theorem State.port_setPort (s : State) (c : Nat) (x : Port) (d : Nat) :
    (s.setPort c x).port d = if d = c then x else s.port d := tget_tset ..
@[simp] theorem State.port_setPort_same (s : State) (c : Nat) (x : Port) : (s.setPort c x).port c = x := tget_tset_same ..
theorem State.port_setPort_other (s : State) {c d : Nat} (x : Port) (h : d ≠ c) : (s.setPort c x).port d = s.port d :=
  tget_tset_other _ _ _ h
@[simp] theorem State.setCtx_port (s : State) (c : CtxId) (x : Ctx) (k : Nat) : (s.setCtx c x).port k = s.port k := rfl
@[simp] theorem State.modCtx_port (s : State) (c : CtxId) (f : Ctx → Ctx) (k : Nat) : (s.modCtx c f).port k = s.port k := rfl
@[simp] theorem State.setCore_port (s : State) (c : CoreId) (x : Core) (k : Nat) : (s.setCore c x).port k = s.port k := rfl
@[simp] theorem State.modCore_port (s : State) (c : CoreId) (f : Core → Core) (k : Nat) : (s.modCore c f).port k = s.port k := rfl
@[simp] theorem State.setCluster_port (s : State) (c : ClusterId) (x : Cluster) (k : Nat) : (s.setCluster c x).port k = s.port k := rfl
@[simp] theorem State.modCluster_port (s : State) (c : ClusterId) (f : Cluster → Cluster) (k : Nat) : (s.modCluster c f).port k = s.port k := rfl
@[simp] theorem State.setDie_port (s : State) (d : Nat) (x : Die) (k : Nat) : (s.setDie d x).port k = s.port k := rfl
@[simp] theorem State.modDie_port (s : State) (d : Nat) (f : Die → Die) (k : Nat) : (s.modDie d f).port k = s.port k := rfl
@[simp] theorem State.setPage_port (s : State) (p : Nat) (x : Page) (k : Nat) : (s.setPage p x).port k = s.port k := rfl
@[simp] theorem State.modPage_port (s : State) (p : Nat) (f : Page → Page) (k : Nat) : (s.modPage p f).port k = s.port k := rfl
@[simp] theorem State.setSquad_port (s : State) (h : Nat) (x : Option Squad) (k : Nat) : (s.setSquad h x).port k = s.port k := rfl
@[simp] theorem State.setJob_port (s : State) (j : Nat) (x : Option Job) (k : Nat) : (s.setJob j x).port k = s.port k := rfl
@[simp] theorem State.modJob_port (s : State) (j : Nat) (f : Job → Job) (k : Nat) : (s.modJob j f).port k = s.port k := rfl
@[simp] theorem State.setLaunch_port (s : State) (l : Nat) (x : Option Launch) (k : Nat) : (s.setLaunch l x).port k = s.port k := rfl
@[simp] theorem State.modLaunch_port (s : State) (l : Nat) (f : Launch → Launch) (k : Nat) : (s.modLaunch l f).port k = s.port k := rfl
@[simp] theorem State.setGraph_port (s : State) (g : Nat) (x : Option Graph) (k : Nat) : (s.setGraph g x).port k = s.port k := rfl
@[simp] theorem State.modGraph_port (s : State) (g : Nat) (f : Graph → Graph) (k : Nat) : (s.modGraph g f).port k = s.port k := rfl
@[simp] theorem State.setLink_port (s : State) (l : Nat) (x : Link) (k : Nat) : (s.setLink l x).port k = s.port k := rfl
@[simp] theorem State.modMe_port (s : State) (f : Ctx → Ctx) (k : Nat) : (s.modMe f).port k = s.port k := rfl
@[simp] theorem State.done_port (s : State) (n : Nat) (f : Ctx → Ctx) (k : Nat) : (s.done n f).port k = s.port k := rfl
@[simp] theorem State.waits_port (s : State) (w : Wait) (k : Nat) : (s.waits w).port k = s.port k := rfl
@[simp] theorem State.dropMsg_port (s : State) (m : Nat) (k : Nat) : (s.dropMsg m).port k = s.port k := rfl
@[simp] theorem State.modMsg_port (s : State) (m : Nat) (f : Msg → Msg) (k : Nat) : (s.modMsg m f).port k = s.port k := rfl

theorem State.link_setLink (s : State) (c : Nat) (x : Link) (d : Nat) :
    (s.setLink c x).link d = if d = c then x else s.link d := tget_tset ..
@[simp] theorem State.link_setLink_same (s : State) (c : Nat) (x : Link) : (s.setLink c x).link c = x := tget_tset_same ..
theorem State.link_setLink_other (s : State) {c d : Nat} (x : Link) (h : d ≠ c) : (s.setLink c x).link d = s.link d :=
  tget_tset_other _ _ _ h
@[simp] theorem State.setCtx_link (s : State) (c : CtxId) (x : Ctx) (k : Nat) : (s.setCtx c x).link k = s.link k := rfl
@[simp] theorem State.modCtx_link (s : State) (c : CtxId) (f : Ctx → Ctx) (k : Nat) : (s.modCtx c f).link k = s.link k := rfl
@[simp] theorem State.setCore_link (s : State) (c : CoreId) (x : Core) (k : Nat) : (s.setCore c x).link k = s.link k := rfl
@[simp] theorem State.modCore_link (s : State) (c : CoreId) (f : Core → Core) (k : Nat) : (s.modCore c f).link k = s.link k := rfl
@[simp] theorem State.setCluster_link (s : State) (c : ClusterId) (x : Cluster) (k : Nat) : (s.setCluster c x).link k = s.link k := rfl
@[simp] theorem State.modCluster_link (s : State) (c : ClusterId) (f : Cluster → Cluster) (k : Nat) : (s.modCluster c f).link k = s.link k := rfl
@[simp] theorem State.setDie_link (s : State) (d : Nat) (x : Die) (k : Nat) : (s.setDie d x).link k = s.link k := rfl
@[simp] theorem State.modDie_link (s : State) (d : Nat) (f : Die → Die) (k : Nat) : (s.modDie d f).link k = s.link k := rfl
@[simp] theorem State.setPage_link (s : State) (p : Nat) (x : Page) (k : Nat) : (s.setPage p x).link k = s.link k := rfl
@[simp] theorem State.modPage_link (s : State) (p : Nat) (f : Page → Page) (k : Nat) : (s.modPage p f).link k = s.link k := rfl
@[simp] theorem State.setSquad_link (s : State) (h : Nat) (x : Option Squad) (k : Nat) : (s.setSquad h x).link k = s.link k := rfl
@[simp] theorem State.setJob_link (s : State) (j : Nat) (x : Option Job) (k : Nat) : (s.setJob j x).link k = s.link k := rfl
@[simp] theorem State.modJob_link (s : State) (j : Nat) (f : Job → Job) (k : Nat) : (s.modJob j f).link k = s.link k := rfl
@[simp] theorem State.setLaunch_link (s : State) (l : Nat) (x : Option Launch) (k : Nat) : (s.setLaunch l x).link k = s.link k := rfl
@[simp] theorem State.modLaunch_link (s : State) (l : Nat) (f : Launch → Launch) (k : Nat) : (s.modLaunch l f).link k = s.link k := rfl
@[simp] theorem State.setGraph_link (s : State) (g : Nat) (x : Option Graph) (k : Nat) : (s.setGraph g x).link k = s.link k := rfl
@[simp] theorem State.modGraph_link (s : State) (g : Nat) (f : Graph → Graph) (k : Nat) : (s.modGraph g f).link k = s.link k := rfl
@[simp] theorem State.setPort_link (s : State) (p : Nat) (x : Port) (k : Nat) : (s.setPort p x).link k = s.link k := rfl
@[simp] theorem State.modMe_link (s : State) (f : Ctx → Ctx) (k : Nat) : (s.modMe f).link k = s.link k := rfl
@[simp] theorem State.done_link (s : State) (n : Nat) (f : Ctx → Ctx) (k : Nat) : (s.done n f).link k = s.link k := rfl
@[simp] theorem State.waits_link (s : State) (w : Wait) (k : Nat) : (s.waits w).link k = s.link k := rfl
@[simp] theorem State.dropMsg_link (s : State) (m : Nat) (k : Nat) : (s.dropMsg m).link k = s.link k := rfl
@[simp] theorem State.modMsg_link (s : State) (m : Nat) (f : Msg → Msg) (k : Nat) : (s.modMsg m f).link k = s.link k := rfl

@[simp] theorem State.me_modMe (s : State) (f : Ctx → Ctx) : (s.modMe f).me = f s.me := tget_tset_same ..
@[simp] theorem State.me_done (s : State) (n : Nat) (f : Ctx → Ctx) : (s.done n f).me = (f s.me).advance n := tget_tset_same ..
@[simp] theorem State.me_waits (s : State) (w : Wait) : (s.waits w).me = s.me.wait w := tget_tset_same ..
theorem State.ctx_modMe (s : State) (f : Ctx → Ctx) {c : CtxId} (h : c ≠ s.cur) : (s.modMe f).ctx c = s.ctx c :=
  tget_tset_other _ _ _ h
theorem State.ctx_done (s : State) (n : Nat) (f : Ctx → Ctx) {c : CtxId} (h : c ≠ s.cur) : (s.done n f).ctx c = s.ctx c :=
  tget_tset_other _ _ _ h
theorem State.ctx_waits (s : State) (w : Wait) {c : CtxId} (h : c ≠ s.cur) : (s.waits w).ctx c = s.ctx c :=
  tget_tset_other _ _ _ h

/-! ### Updates of a context -/

theorem Ctx.readG_writeG (x : Ctx) (r : GReg) (v : Word) (q : GReg) :
    (x.writeG r v).readG q = if q = r ∧ r ≠ 0 then v else x.readG q := by
  unfold Ctx.readG Ctx.writeG
  by_cases hq : q = 0 <;> by_cases hr : r = 0 <;> simp_all [tget_tset, Fin.val_inj, eq_comm]

@[simp] theorem Ctx.readG_zero (x : Ctx) : x.readG 0 = 0 := rfl
theorem Ctx.readV_writeV (x : Ctx) (r : VReg) (v : VWord) (q : VReg) :
    (x.writeV r v).readV q = if q = r then v else x.readV q := by simp [Ctx.readV, Ctx.writeV, tget_tset, Fin.val_inj]
theorem Ctx.readK_writeK (x : Ctx) (r : KReg) (v : Word) (q : KReg) :
    (x.writeK r v).readK q = if q = r then v else x.readK q := by simp [Ctx.readK, Ctx.writeK, tget_tset, Fin.val_inj]
theorem Ctx.readH_writeH (x : Ctx) (r : HReg) (v : BitVec 16) (q : HReg) :
    (x.writeH r v).readH q = if q = r then v else x.readH q := by simp [Ctx.readH, Ctx.writeH, tget_tset, Fin.val_inj]
theorem Ctx.readSeg_writeSeg (x : Ctx) (r : SReg) (v : Seg) (q : SReg) :
    (x.writeSeg r v).readSeg q = if q = r then v else x.readSeg q := by
  simp [Ctx.readSeg, Ctx.writeSeg, tget_tset, Fin.val_inj]

@[simp] theorem Ctx.writeV_g (x : Ctx) (r : VReg) (v : VWord) : (x.writeV r v).g = x.g := rfl
@[simp] theorem Ctx.writeV_k (x : Ctx) (r : VReg) (v : VWord) : (x.writeV r v).k = x.k := rfl
@[simp] theorem Ctx.writeV_h (x : Ctx) (r : VReg) (v : VWord) : (x.writeV r v).h = x.h := rfl
@[simp] theorem Ctx.writeV_seg (x : Ctx) (r : VReg) (v : VWord) : (x.writeV r v).seg = x.seg := rfl
@[simp] theorem Ctx.writeV_pc (x : Ctx) (r : VReg) (v : VWord) : (x.writeV r v).pc = x.pc := rfl
@[simp] theorem Ctx.writeV_loopCount (x : Ctx) (r : VReg) (v : VWord) : (x.writeV r v).loopCount = x.loopCount := rfl
@[simp] theorem Ctx.writeV_loopStart (x : Ctx) (r : VReg) (v : VWord) : (x.writeV r v).loopStart = x.loopStart := rfl
@[simp] theorem Ctx.writeV_loopEnd (x : Ctx) (r : VReg) (v : VWord) : (x.writeV r v).loopEnd = x.loopEnd := rfl
@[simp] theorem Ctx.writeV_pinned (x : Ctx) (r : VReg) (v : VWord) : (x.writeV r v).pinned = x.pinned := rfl
@[simp] theorem Ctx.writeV_loopBuf (x : Ctx) (r : VReg) (v : VWord) : (x.writeV r v).loopBuf = x.loopBuf := rfl
@[simp] theorem Ctx.writeV_fetchBuf (x : Ctx) (r : VReg) (v : VWord) : (x.writeV r v).fetchBuf = x.fetchBuf := rfl
@[simp] theorem Ctx.writeV_ir (x : Ctx) (r : VReg) (v : VWord) : (x.writeV r v).ir = x.ir := rfl
@[simp] theorem Ctx.writeV_cstat (x : Ctx) (r : VReg) (v : VWord) : (x.writeV r v).cstat = x.cstat := rfl
@[simp] theorem Ctx.writeV_bps (x : Ctx) (r : VReg) (v : VWord) : (x.writeV r v).bps = x.bps := rfl
@[simp] theorem Ctx.writeV_nlt (x : Ctx) (r : VReg) (v : VWord) : (x.writeV r v).nlt = x.nlt := rfl
@[simp] theorem Ctx.writeV_gbt (x : Ctx) (r : VReg) (v : VWord) : (x.writeV r v).gbt = x.gbt := rfl
@[simp] theorem Ctx.writeV_da (x : Ctx) (r : VReg) (v : VWord) : (x.writeV r v).da = x.da := rfl
@[simp] theorem Ctx.writeV_hl (x : Ctx) (r : VReg) (v : VWord) : (x.writeV r v).hl = x.hl := rfl
@[simp] theorem Ctx.writeV_lap (x : Ctx) (r : VReg) (v : VWord) : (x.writeV r v).lap = x.lap := rfl
@[simp] theorem Ctx.writeV_bpArmed (x : Ctx) (r : VReg) (v : VWord) : (x.writeV r v).bpArmed = x.bpArmed := rfl
@[simp] theorem Ctx.writeV_cfemask (x : Ctx) (r : VReg) (v : VWord) : (x.writeV r v).cfemask = x.cfemask := rfl
@[simp] theorem Ctx.writeV_cwlim (x : Ctx) (r : VReg) (v : VWord) : (x.writeV r v).cwlim = x.cwlim := rfl
@[simp] theorem Ctx.writeV_ctrap (x : Ctx) (r : VReg) (v : VWord) : (x.writeV r v).ctrap = x.ctrap := rfl
@[simp] theorem Ctx.writeV_cepc (x : Ctx) (r : VReg) (v : VWord) : (x.writeV r v).cepc = x.cepc := rfl
@[simp] theorem Ctx.writeV_ceaddr (x : Ctx) (r : VReg) (v : VWord) : (x.writeV r v).ceaddr = x.ceaddr := rfl
@[simp] theorem Ctx.writeV_cvec (x : Ctx) (r : VReg) (v : VWord) : (x.writeV r v).cvec = x.cvec := rfl
@[simp] theorem Ctx.writeV_cword (x : Ctx) (r : VReg) (v : VWord) : (x.writeV r v).cword = x.cword := rfl
@[simp] theorem Ctx.writeV_cquota (x : Ctx) (r : VReg) (v : VWord) : (x.writeV r v).cquota = x.cquota := rfl
@[simp] theorem Ctx.writeV_quota (x : Ctx) (r : VReg) (v : VWord) : (x.writeV r v).quota = x.quota := rfl
@[simp] theorem Ctx.writeV_ovfLen (x : Ctx) (r : VReg) (v : VWord) : (x.writeV r v).ovfLen = x.ovfLen := rfl
@[simp] theorem Ctx.writeV_spillLimit (x : Ctx) (r : VReg) (v : VWord) : (x.writeV r v).spillLimit = x.spillLimit := rfl
@[simp] theorem Ctx.writeV_spillBase (x : Ctx) (r : VReg) (v : VWord) : (x.writeV r v).spillBase = x.spillBase := rfl
@[simp] theorem Ctx.writeV_covf (x : Ctx) (r : VReg) (v : VWord) : (x.writeV r v).covf = x.covf := rfl
@[simp] theorem Ctx.writeV_near (x : Ctx) (r : VReg) (v : VWord) : (x.writeV r v).near = x.near := rfl
@[simp] theorem Ctx.writeV_far (x : Ctx) (r : VReg) (v : VWord) : (x.writeV r v).far = x.far := rfl
@[simp] theorem Ctx.writeV_mem (x : Ctx) (r : VReg) (v : VWord) : (x.writeV r v).mem = x.mem := rfl
@[simp] theorem Ctx.writeV_sendSeq (x : Ctx) (r : VReg) (v : VWord) : (x.writeV r v).sendSeq = x.sendSeq := rfl
@[simp] theorem Ctx.writeV_seen (x : Ctx) (r : VReg) (v : VWord) : (x.writeV r v).seen = x.seen := rfl
@[simp] theorem Ctx.writeV_resv (x : Ctx) (r : VReg) (v : VWord) : (x.writeV r v).resv = x.resv := rfl
@[simp] theorem Ctx.writeV_run (x : Ctx) (r : VReg) (v : VWord) : (x.writeV r v).run = x.run := rfl
@[simp] theorem Ctx.writeV_quotaHeld (x : Ctx) (r : VReg) (v : VWord) : (x.writeV r v).quotaHeld = x.quotaHeld := rfl
@[simp] theorem Ctx.writeV_dbgHalt (x : Ctx) (r : VReg) (v : VWord) : (x.writeV r v).dbgHalt = x.dbgHalt := rfl
@[simp] theorem Ctx.writeV_stepping (x : Ctx) (r : VReg) (v : VWord) : (x.writeV r v).stepping = x.stepping := rfl
@[simp] theorem Ctx.writeV_sealHeld (x : Ctx) (r : VReg) (v : VWord) : (x.writeV r v).sealHeld = x.sealHeld := rfl
@[simp] theorem Ctx.writeV_atSeal (x : Ctx) (r : VReg) (v : VWord) : (x.writeV r v).atSeal = x.atSeal := rfl
@[simp] theorem Ctx.writeV_waitLaps (x : Ctx) (r : VReg) (v : VWord) : (x.writeV r v).waitLaps = x.waitLaps := rfl
@[simp] theorem Ctx.writeV_waitLimit (x : Ctx) (r : VReg) (v : VWord) : (x.writeV r v).waitLimit = x.waitLimit := rfl
@[simp] theorem Ctx.writeV_imprecise (x : Ctx) (r : VReg) (v : VWord) : (x.writeV r v).imprecise = x.imprecise := rfl
@[simp] theorem Ctx.writeV_precise (x : Ctx) (r : VReg) (v : VWord) : (x.writeV r v).precise = x.precise := rfl
@[simp] theorem Ctx.writeV_openBatch (x : Ctx) (r : VReg) (v : VWord) : (x.writeV r v).openBatch = x.openBatch := rfl
@[simp] theorem Ctx.writeV_closed (x : Ctx) (r : VReg) (v : VWord) : (x.writeV r v).closed = x.closed := rfl
@[simp] theorem Ctx.writeV_nextBatch (x : Ctx) (r : VReg) (v : VWord) : (x.writeV r v).nextBatch = x.nextBatch := rfl
@[simp] theorem Ctx.writeV_row (x : Ctx) (r : VReg) (v : VWord) : (x.writeV r v).row = x.row := rfl
@[simp] theorem Ctx.writeV_mask (x : Ctx) (r : VReg) (v : VWord) : (x.writeV r v).mask = x.mask := rfl
@[simp] theorem Ctx.writeV_tile (x : Ctx) (r : VReg) (v : VWord) : (x.writeV r v).tile = x.tile := rfl
@[simp] theorem Ctx.writeV_task (x : Ctx) (r : VReg) (v : VWord) : (x.writeV r v).task = x.task := rfl
@[simp] theorem Ctx.writeV_round (x : Ctx) (r : VReg) (v : VWord) : (x.writeV r v).round = x.round := rfl
@[simp] theorem Ctx.writeV_kick (x : Ctx) (r : VReg) (v : VWord) : (x.writeV r v).kick = x.kick := rfl
@[simp] theorem Ctx.writeV_voted (x : Ctx) (r : VReg) (v : VWord) : (x.writeV r v).voted = x.voted := rfl
@[simp] theorem Ctx.writeV_met (x : Ctx) (r : VReg) (v : VWord) : (x.writeV r v).met = x.met := rfl

@[simp] theorem Ctx.writeK_g (x : Ctx) (r : KReg) (v : Word) : (x.writeK r v).g = x.g := rfl
@[simp] theorem Ctx.writeK_v (x : Ctx) (r : KReg) (v : Word) : (x.writeK r v).v = x.v := rfl
@[simp] theorem Ctx.writeK_h (x : Ctx) (r : KReg) (v : Word) : (x.writeK r v).h = x.h := rfl
@[simp] theorem Ctx.writeK_seg (x : Ctx) (r : KReg) (v : Word) : (x.writeK r v).seg = x.seg := rfl
@[simp] theorem Ctx.writeK_pc (x : Ctx) (r : KReg) (v : Word) : (x.writeK r v).pc = x.pc := rfl
@[simp] theorem Ctx.writeK_loopCount (x : Ctx) (r : KReg) (v : Word) : (x.writeK r v).loopCount = x.loopCount := rfl
@[simp] theorem Ctx.writeK_loopStart (x : Ctx) (r : KReg) (v : Word) : (x.writeK r v).loopStart = x.loopStart := rfl
@[simp] theorem Ctx.writeK_loopEnd (x : Ctx) (r : KReg) (v : Word) : (x.writeK r v).loopEnd = x.loopEnd := rfl
@[simp] theorem Ctx.writeK_pinned (x : Ctx) (r : KReg) (v : Word) : (x.writeK r v).pinned = x.pinned := rfl
@[simp] theorem Ctx.writeK_loopBuf (x : Ctx) (r : KReg) (v : Word) : (x.writeK r v).loopBuf = x.loopBuf := rfl
@[simp] theorem Ctx.writeK_fetchBuf (x : Ctx) (r : KReg) (v : Word) : (x.writeK r v).fetchBuf = x.fetchBuf := rfl
@[simp] theorem Ctx.writeK_ir (x : Ctx) (r : KReg) (v : Word) : (x.writeK r v).ir = x.ir := rfl
@[simp] theorem Ctx.writeK_cstat (x : Ctx) (r : KReg) (v : Word) : (x.writeK r v).cstat = x.cstat := rfl
@[simp] theorem Ctx.writeK_bps (x : Ctx) (r : KReg) (v : Word) : (x.writeK r v).bps = x.bps := rfl
@[simp] theorem Ctx.writeK_nlt (x : Ctx) (r : KReg) (v : Word) : (x.writeK r v).nlt = x.nlt := rfl
@[simp] theorem Ctx.writeK_gbt (x : Ctx) (r : KReg) (v : Word) : (x.writeK r v).gbt = x.gbt := rfl
@[simp] theorem Ctx.writeK_da (x : Ctx) (r : KReg) (v : Word) : (x.writeK r v).da = x.da := rfl
@[simp] theorem Ctx.writeK_hl (x : Ctx) (r : KReg) (v : Word) : (x.writeK r v).hl = x.hl := rfl
@[simp] theorem Ctx.writeK_lap (x : Ctx) (r : KReg) (v : Word) : (x.writeK r v).lap = x.lap := rfl
@[simp] theorem Ctx.writeK_bpArmed (x : Ctx) (r : KReg) (v : Word) : (x.writeK r v).bpArmed = x.bpArmed := rfl
@[simp] theorem Ctx.writeK_cfemask (x : Ctx) (r : KReg) (v : Word) : (x.writeK r v).cfemask = x.cfemask := rfl
@[simp] theorem Ctx.writeK_cwlim (x : Ctx) (r : KReg) (v : Word) : (x.writeK r v).cwlim = x.cwlim := rfl
@[simp] theorem Ctx.writeK_ctrap (x : Ctx) (r : KReg) (v : Word) : (x.writeK r v).ctrap = x.ctrap := rfl
@[simp] theorem Ctx.writeK_cepc (x : Ctx) (r : KReg) (v : Word) : (x.writeK r v).cepc = x.cepc := rfl
@[simp] theorem Ctx.writeK_ceaddr (x : Ctx) (r : KReg) (v : Word) : (x.writeK r v).ceaddr = x.ceaddr := rfl
@[simp] theorem Ctx.writeK_cvec (x : Ctx) (r : KReg) (v : Word) : (x.writeK r v).cvec = x.cvec := rfl
@[simp] theorem Ctx.writeK_cword (x : Ctx) (r : KReg) (v : Word) : (x.writeK r v).cword = x.cword := rfl
@[simp] theorem Ctx.writeK_cquota (x : Ctx) (r : KReg) (v : Word) : (x.writeK r v).cquota = x.cquota := rfl
@[simp] theorem Ctx.writeK_quota (x : Ctx) (r : KReg) (v : Word) : (x.writeK r v).quota = x.quota := rfl
@[simp] theorem Ctx.writeK_ovfLen (x : Ctx) (r : KReg) (v : Word) : (x.writeK r v).ovfLen = x.ovfLen := rfl
@[simp] theorem Ctx.writeK_spillLimit (x : Ctx) (r : KReg) (v : Word) : (x.writeK r v).spillLimit = x.spillLimit := rfl
@[simp] theorem Ctx.writeK_spillBase (x : Ctx) (r : KReg) (v : Word) : (x.writeK r v).spillBase = x.spillBase := rfl
@[simp] theorem Ctx.writeK_covf (x : Ctx) (r : KReg) (v : Word) : (x.writeK r v).covf = x.covf := rfl
@[simp] theorem Ctx.writeK_near (x : Ctx) (r : KReg) (v : Word) : (x.writeK r v).near = x.near := rfl
@[simp] theorem Ctx.writeK_far (x : Ctx) (r : KReg) (v : Word) : (x.writeK r v).far = x.far := rfl
@[simp] theorem Ctx.writeK_mem (x : Ctx) (r : KReg) (v : Word) : (x.writeK r v).mem = x.mem := rfl
@[simp] theorem Ctx.writeK_sendSeq (x : Ctx) (r : KReg) (v : Word) : (x.writeK r v).sendSeq = x.sendSeq := rfl
@[simp] theorem Ctx.writeK_seen (x : Ctx) (r : KReg) (v : Word) : (x.writeK r v).seen = x.seen := rfl
@[simp] theorem Ctx.writeK_resv (x : Ctx) (r : KReg) (v : Word) : (x.writeK r v).resv = x.resv := rfl
@[simp] theorem Ctx.writeK_run (x : Ctx) (r : KReg) (v : Word) : (x.writeK r v).run = x.run := rfl
@[simp] theorem Ctx.writeK_quotaHeld (x : Ctx) (r : KReg) (v : Word) : (x.writeK r v).quotaHeld = x.quotaHeld := rfl
@[simp] theorem Ctx.writeK_dbgHalt (x : Ctx) (r : KReg) (v : Word) : (x.writeK r v).dbgHalt = x.dbgHalt := rfl
@[simp] theorem Ctx.writeK_stepping (x : Ctx) (r : KReg) (v : Word) : (x.writeK r v).stepping = x.stepping := rfl
@[simp] theorem Ctx.writeK_sealHeld (x : Ctx) (r : KReg) (v : Word) : (x.writeK r v).sealHeld = x.sealHeld := rfl
@[simp] theorem Ctx.writeK_atSeal (x : Ctx) (r : KReg) (v : Word) : (x.writeK r v).atSeal = x.atSeal := rfl
@[simp] theorem Ctx.writeK_waitLaps (x : Ctx) (r : KReg) (v : Word) : (x.writeK r v).waitLaps = x.waitLaps := rfl
@[simp] theorem Ctx.writeK_waitLimit (x : Ctx) (r : KReg) (v : Word) : (x.writeK r v).waitLimit = x.waitLimit := rfl
@[simp] theorem Ctx.writeK_imprecise (x : Ctx) (r : KReg) (v : Word) : (x.writeK r v).imprecise = x.imprecise := rfl
@[simp] theorem Ctx.writeK_precise (x : Ctx) (r : KReg) (v : Word) : (x.writeK r v).precise = x.precise := rfl
@[simp] theorem Ctx.writeK_openBatch (x : Ctx) (r : KReg) (v : Word) : (x.writeK r v).openBatch = x.openBatch := rfl
@[simp] theorem Ctx.writeK_closed (x : Ctx) (r : KReg) (v : Word) : (x.writeK r v).closed = x.closed := rfl
@[simp] theorem Ctx.writeK_nextBatch (x : Ctx) (r : KReg) (v : Word) : (x.writeK r v).nextBatch = x.nextBatch := rfl
@[simp] theorem Ctx.writeK_row (x : Ctx) (r : KReg) (v : Word) : (x.writeK r v).row = x.row := rfl
@[simp] theorem Ctx.writeK_mask (x : Ctx) (r : KReg) (v : Word) : (x.writeK r v).mask = x.mask := rfl
@[simp] theorem Ctx.writeK_tile (x : Ctx) (r : KReg) (v : Word) : (x.writeK r v).tile = x.tile := rfl
@[simp] theorem Ctx.writeK_task (x : Ctx) (r : KReg) (v : Word) : (x.writeK r v).task = x.task := rfl
@[simp] theorem Ctx.writeK_round (x : Ctx) (r : KReg) (v : Word) : (x.writeK r v).round = x.round := rfl
@[simp] theorem Ctx.writeK_kick (x : Ctx) (r : KReg) (v : Word) : (x.writeK r v).kick = x.kick := rfl
@[simp] theorem Ctx.writeK_voted (x : Ctx) (r : KReg) (v : Word) : (x.writeK r v).voted = x.voted := rfl
@[simp] theorem Ctx.writeK_met (x : Ctx) (r : KReg) (v : Word) : (x.writeK r v).met = x.met := rfl

@[simp] theorem Ctx.writeH_g (x : Ctx) (r : HReg) (v : BitVec 16) : (x.writeH r v).g = x.g := rfl
@[simp] theorem Ctx.writeH_v (x : Ctx) (r : HReg) (v : BitVec 16) : (x.writeH r v).v = x.v := rfl
@[simp] theorem Ctx.writeH_k (x : Ctx) (r : HReg) (v : BitVec 16) : (x.writeH r v).k = x.k := rfl
@[simp] theorem Ctx.writeH_seg (x : Ctx) (r : HReg) (v : BitVec 16) : (x.writeH r v).seg = x.seg := rfl
@[simp] theorem Ctx.writeH_pc (x : Ctx) (r : HReg) (v : BitVec 16) : (x.writeH r v).pc = x.pc := rfl
@[simp] theorem Ctx.writeH_loopCount (x : Ctx) (r : HReg) (v : BitVec 16) : (x.writeH r v).loopCount = x.loopCount := rfl
@[simp] theorem Ctx.writeH_loopStart (x : Ctx) (r : HReg) (v : BitVec 16) : (x.writeH r v).loopStart = x.loopStart := rfl
@[simp] theorem Ctx.writeH_loopEnd (x : Ctx) (r : HReg) (v : BitVec 16) : (x.writeH r v).loopEnd = x.loopEnd := rfl
@[simp] theorem Ctx.writeH_pinned (x : Ctx) (r : HReg) (v : BitVec 16) : (x.writeH r v).pinned = x.pinned := rfl
@[simp] theorem Ctx.writeH_loopBuf (x : Ctx) (r : HReg) (v : BitVec 16) : (x.writeH r v).loopBuf = x.loopBuf := rfl
@[simp] theorem Ctx.writeH_fetchBuf (x : Ctx) (r : HReg) (v : BitVec 16) : (x.writeH r v).fetchBuf = x.fetchBuf := rfl
@[simp] theorem Ctx.writeH_ir (x : Ctx) (r : HReg) (v : BitVec 16) : (x.writeH r v).ir = x.ir := rfl
@[simp] theorem Ctx.writeH_cstat (x : Ctx) (r : HReg) (v : BitVec 16) : (x.writeH r v).cstat = x.cstat := rfl
@[simp] theorem Ctx.writeH_bps (x : Ctx) (r : HReg) (v : BitVec 16) : (x.writeH r v).bps = x.bps := rfl
@[simp] theorem Ctx.writeH_nlt (x : Ctx) (r : HReg) (v : BitVec 16) : (x.writeH r v).nlt = x.nlt := rfl
@[simp] theorem Ctx.writeH_gbt (x : Ctx) (r : HReg) (v : BitVec 16) : (x.writeH r v).gbt = x.gbt := rfl
@[simp] theorem Ctx.writeH_da (x : Ctx) (r : HReg) (v : BitVec 16) : (x.writeH r v).da = x.da := rfl
@[simp] theorem Ctx.writeH_hl (x : Ctx) (r : HReg) (v : BitVec 16) : (x.writeH r v).hl = x.hl := rfl
@[simp] theorem Ctx.writeH_lap (x : Ctx) (r : HReg) (v : BitVec 16) : (x.writeH r v).lap = x.lap := rfl
@[simp] theorem Ctx.writeH_bpArmed (x : Ctx) (r : HReg) (v : BitVec 16) : (x.writeH r v).bpArmed = x.bpArmed := rfl
@[simp] theorem Ctx.writeH_cfemask (x : Ctx) (r : HReg) (v : BitVec 16) : (x.writeH r v).cfemask = x.cfemask := rfl
@[simp] theorem Ctx.writeH_cwlim (x : Ctx) (r : HReg) (v : BitVec 16) : (x.writeH r v).cwlim = x.cwlim := rfl
@[simp] theorem Ctx.writeH_ctrap (x : Ctx) (r : HReg) (v : BitVec 16) : (x.writeH r v).ctrap = x.ctrap := rfl
@[simp] theorem Ctx.writeH_cepc (x : Ctx) (r : HReg) (v : BitVec 16) : (x.writeH r v).cepc = x.cepc := rfl
@[simp] theorem Ctx.writeH_ceaddr (x : Ctx) (r : HReg) (v : BitVec 16) : (x.writeH r v).ceaddr = x.ceaddr := rfl
@[simp] theorem Ctx.writeH_cvec (x : Ctx) (r : HReg) (v : BitVec 16) : (x.writeH r v).cvec = x.cvec := rfl
@[simp] theorem Ctx.writeH_cword (x : Ctx) (r : HReg) (v : BitVec 16) : (x.writeH r v).cword = x.cword := rfl
@[simp] theorem Ctx.writeH_cquota (x : Ctx) (r : HReg) (v : BitVec 16) : (x.writeH r v).cquota = x.cquota := rfl
@[simp] theorem Ctx.writeH_quota (x : Ctx) (r : HReg) (v : BitVec 16) : (x.writeH r v).quota = x.quota := rfl
@[simp] theorem Ctx.writeH_ovfLen (x : Ctx) (r : HReg) (v : BitVec 16) : (x.writeH r v).ovfLen = x.ovfLen := rfl
@[simp] theorem Ctx.writeH_spillLimit (x : Ctx) (r : HReg) (v : BitVec 16) : (x.writeH r v).spillLimit = x.spillLimit := rfl
@[simp] theorem Ctx.writeH_spillBase (x : Ctx) (r : HReg) (v : BitVec 16) : (x.writeH r v).spillBase = x.spillBase := rfl
@[simp] theorem Ctx.writeH_covf (x : Ctx) (r : HReg) (v : BitVec 16) : (x.writeH r v).covf = x.covf := rfl
@[simp] theorem Ctx.writeH_near (x : Ctx) (r : HReg) (v : BitVec 16) : (x.writeH r v).near = x.near := rfl
@[simp] theorem Ctx.writeH_far (x : Ctx) (r : HReg) (v : BitVec 16) : (x.writeH r v).far = x.far := rfl
@[simp] theorem Ctx.writeH_mem (x : Ctx) (r : HReg) (v : BitVec 16) : (x.writeH r v).mem = x.mem := rfl
@[simp] theorem Ctx.writeH_sendSeq (x : Ctx) (r : HReg) (v : BitVec 16) : (x.writeH r v).sendSeq = x.sendSeq := rfl
@[simp] theorem Ctx.writeH_seen (x : Ctx) (r : HReg) (v : BitVec 16) : (x.writeH r v).seen = x.seen := rfl
@[simp] theorem Ctx.writeH_resv (x : Ctx) (r : HReg) (v : BitVec 16) : (x.writeH r v).resv = x.resv := rfl
@[simp] theorem Ctx.writeH_run (x : Ctx) (r : HReg) (v : BitVec 16) : (x.writeH r v).run = x.run := rfl
@[simp] theorem Ctx.writeH_quotaHeld (x : Ctx) (r : HReg) (v : BitVec 16) : (x.writeH r v).quotaHeld = x.quotaHeld := rfl
@[simp] theorem Ctx.writeH_dbgHalt (x : Ctx) (r : HReg) (v : BitVec 16) : (x.writeH r v).dbgHalt = x.dbgHalt := rfl
@[simp] theorem Ctx.writeH_stepping (x : Ctx) (r : HReg) (v : BitVec 16) : (x.writeH r v).stepping = x.stepping := rfl
@[simp] theorem Ctx.writeH_sealHeld (x : Ctx) (r : HReg) (v : BitVec 16) : (x.writeH r v).sealHeld = x.sealHeld := rfl
@[simp] theorem Ctx.writeH_atSeal (x : Ctx) (r : HReg) (v : BitVec 16) : (x.writeH r v).atSeal = x.atSeal := rfl
@[simp] theorem Ctx.writeH_waitLaps (x : Ctx) (r : HReg) (v : BitVec 16) : (x.writeH r v).waitLaps = x.waitLaps := rfl
@[simp] theorem Ctx.writeH_waitLimit (x : Ctx) (r : HReg) (v : BitVec 16) : (x.writeH r v).waitLimit = x.waitLimit := rfl
@[simp] theorem Ctx.writeH_imprecise (x : Ctx) (r : HReg) (v : BitVec 16) : (x.writeH r v).imprecise = x.imprecise := rfl
@[simp] theorem Ctx.writeH_precise (x : Ctx) (r : HReg) (v : BitVec 16) : (x.writeH r v).precise = x.precise := rfl
@[simp] theorem Ctx.writeH_openBatch (x : Ctx) (r : HReg) (v : BitVec 16) : (x.writeH r v).openBatch = x.openBatch := rfl
@[simp] theorem Ctx.writeH_closed (x : Ctx) (r : HReg) (v : BitVec 16) : (x.writeH r v).closed = x.closed := rfl
@[simp] theorem Ctx.writeH_nextBatch (x : Ctx) (r : HReg) (v : BitVec 16) : (x.writeH r v).nextBatch = x.nextBatch := rfl
@[simp] theorem Ctx.writeH_row (x : Ctx) (r : HReg) (v : BitVec 16) : (x.writeH r v).row = x.row := rfl
@[simp] theorem Ctx.writeH_mask (x : Ctx) (r : HReg) (v : BitVec 16) : (x.writeH r v).mask = x.mask := rfl
@[simp] theorem Ctx.writeH_tile (x : Ctx) (r : HReg) (v : BitVec 16) : (x.writeH r v).tile = x.tile := rfl
@[simp] theorem Ctx.writeH_task (x : Ctx) (r : HReg) (v : BitVec 16) : (x.writeH r v).task = x.task := rfl
@[simp] theorem Ctx.writeH_round (x : Ctx) (r : HReg) (v : BitVec 16) : (x.writeH r v).round = x.round := rfl
@[simp] theorem Ctx.writeH_kick (x : Ctx) (r : HReg) (v : BitVec 16) : (x.writeH r v).kick = x.kick := rfl
@[simp] theorem Ctx.writeH_voted (x : Ctx) (r : HReg) (v : BitVec 16) : (x.writeH r v).voted = x.voted := rfl
@[simp] theorem Ctx.writeH_met (x : Ctx) (r : HReg) (v : BitVec 16) : (x.writeH r v).met = x.met := rfl

@[simp] theorem Ctx.writeSeg_g (x : Ctx) (r : SReg) (v : Seg) : (x.writeSeg r v).g = x.g := rfl
@[simp] theorem Ctx.writeSeg_v (x : Ctx) (r : SReg) (v : Seg) : (x.writeSeg r v).v = x.v := rfl
@[simp] theorem Ctx.writeSeg_k (x : Ctx) (r : SReg) (v : Seg) : (x.writeSeg r v).k = x.k := rfl
@[simp] theorem Ctx.writeSeg_h (x : Ctx) (r : SReg) (v : Seg) : (x.writeSeg r v).h = x.h := rfl
@[simp] theorem Ctx.writeSeg_pc (x : Ctx) (r : SReg) (v : Seg) : (x.writeSeg r v).pc = x.pc := rfl
@[simp] theorem Ctx.writeSeg_loopCount (x : Ctx) (r : SReg) (v : Seg) : (x.writeSeg r v).loopCount = x.loopCount := rfl
@[simp] theorem Ctx.writeSeg_loopStart (x : Ctx) (r : SReg) (v : Seg) : (x.writeSeg r v).loopStart = x.loopStart := rfl
@[simp] theorem Ctx.writeSeg_loopEnd (x : Ctx) (r : SReg) (v : Seg) : (x.writeSeg r v).loopEnd = x.loopEnd := rfl
@[simp] theorem Ctx.writeSeg_pinned (x : Ctx) (r : SReg) (v : Seg) : (x.writeSeg r v).pinned = x.pinned := rfl
@[simp] theorem Ctx.writeSeg_loopBuf (x : Ctx) (r : SReg) (v : Seg) : (x.writeSeg r v).loopBuf = x.loopBuf := rfl
@[simp] theorem Ctx.writeSeg_fetchBuf (x : Ctx) (r : SReg) (v : Seg) : (x.writeSeg r v).fetchBuf = x.fetchBuf := rfl
@[simp] theorem Ctx.writeSeg_ir (x : Ctx) (r : SReg) (v : Seg) : (x.writeSeg r v).ir = x.ir := rfl
@[simp] theorem Ctx.writeSeg_cstat (x : Ctx) (r : SReg) (v : Seg) : (x.writeSeg r v).cstat = x.cstat := rfl
@[simp] theorem Ctx.writeSeg_bps (x : Ctx) (r : SReg) (v : Seg) : (x.writeSeg r v).bps = x.bps := rfl
@[simp] theorem Ctx.writeSeg_nlt (x : Ctx) (r : SReg) (v : Seg) : (x.writeSeg r v).nlt = x.nlt := rfl
@[simp] theorem Ctx.writeSeg_gbt (x : Ctx) (r : SReg) (v : Seg) : (x.writeSeg r v).gbt = x.gbt := rfl
@[simp] theorem Ctx.writeSeg_da (x : Ctx) (r : SReg) (v : Seg) : (x.writeSeg r v).da = x.da := rfl
@[simp] theorem Ctx.writeSeg_hl (x : Ctx) (r : SReg) (v : Seg) : (x.writeSeg r v).hl = x.hl := rfl
@[simp] theorem Ctx.writeSeg_lap (x : Ctx) (r : SReg) (v : Seg) : (x.writeSeg r v).lap = x.lap := rfl
@[simp] theorem Ctx.writeSeg_bpArmed (x : Ctx) (r : SReg) (v : Seg) : (x.writeSeg r v).bpArmed = x.bpArmed := rfl
@[simp] theorem Ctx.writeSeg_cfemask (x : Ctx) (r : SReg) (v : Seg) : (x.writeSeg r v).cfemask = x.cfemask := rfl
@[simp] theorem Ctx.writeSeg_cwlim (x : Ctx) (r : SReg) (v : Seg) : (x.writeSeg r v).cwlim = x.cwlim := rfl
@[simp] theorem Ctx.writeSeg_ctrap (x : Ctx) (r : SReg) (v : Seg) : (x.writeSeg r v).ctrap = x.ctrap := rfl
@[simp] theorem Ctx.writeSeg_cepc (x : Ctx) (r : SReg) (v : Seg) : (x.writeSeg r v).cepc = x.cepc := rfl
@[simp] theorem Ctx.writeSeg_ceaddr (x : Ctx) (r : SReg) (v : Seg) : (x.writeSeg r v).ceaddr = x.ceaddr := rfl
@[simp] theorem Ctx.writeSeg_cvec (x : Ctx) (r : SReg) (v : Seg) : (x.writeSeg r v).cvec = x.cvec := rfl
@[simp] theorem Ctx.writeSeg_cword (x : Ctx) (r : SReg) (v : Seg) : (x.writeSeg r v).cword = x.cword := rfl
@[simp] theorem Ctx.writeSeg_cquota (x : Ctx) (r : SReg) (v : Seg) : (x.writeSeg r v).cquota = x.cquota := rfl
@[simp] theorem Ctx.writeSeg_quota (x : Ctx) (r : SReg) (v : Seg) : (x.writeSeg r v).quota = x.quota := rfl
@[simp] theorem Ctx.writeSeg_ovfLen (x : Ctx) (r : SReg) (v : Seg) : (x.writeSeg r v).ovfLen = x.ovfLen := rfl
@[simp] theorem Ctx.writeSeg_spillLimit (x : Ctx) (r : SReg) (v : Seg) : (x.writeSeg r v).spillLimit = x.spillLimit := rfl
@[simp] theorem Ctx.writeSeg_spillBase (x : Ctx) (r : SReg) (v : Seg) : (x.writeSeg r v).spillBase = x.spillBase := rfl
@[simp] theorem Ctx.writeSeg_covf (x : Ctx) (r : SReg) (v : Seg) : (x.writeSeg r v).covf = x.covf := rfl
@[simp] theorem Ctx.writeSeg_near (x : Ctx) (r : SReg) (v : Seg) : (x.writeSeg r v).near = x.near := rfl
@[simp] theorem Ctx.writeSeg_far (x : Ctx) (r : SReg) (v : Seg) : (x.writeSeg r v).far = x.far := rfl
@[simp] theorem Ctx.writeSeg_mem (x : Ctx) (r : SReg) (v : Seg) : (x.writeSeg r v).mem = x.mem := rfl
@[simp] theorem Ctx.writeSeg_sendSeq (x : Ctx) (r : SReg) (v : Seg) : (x.writeSeg r v).sendSeq = x.sendSeq := rfl
@[simp] theorem Ctx.writeSeg_seen (x : Ctx) (r : SReg) (v : Seg) : (x.writeSeg r v).seen = x.seen := rfl
@[simp] theorem Ctx.writeSeg_resv (x : Ctx) (r : SReg) (v : Seg) : (x.writeSeg r v).resv = x.resv := rfl
@[simp] theorem Ctx.writeSeg_run (x : Ctx) (r : SReg) (v : Seg) : (x.writeSeg r v).run = x.run := rfl
@[simp] theorem Ctx.writeSeg_quotaHeld (x : Ctx) (r : SReg) (v : Seg) : (x.writeSeg r v).quotaHeld = x.quotaHeld := rfl
@[simp] theorem Ctx.writeSeg_dbgHalt (x : Ctx) (r : SReg) (v : Seg) : (x.writeSeg r v).dbgHalt = x.dbgHalt := rfl
@[simp] theorem Ctx.writeSeg_stepping (x : Ctx) (r : SReg) (v : Seg) : (x.writeSeg r v).stepping = x.stepping := rfl
@[simp] theorem Ctx.writeSeg_sealHeld (x : Ctx) (r : SReg) (v : Seg) : (x.writeSeg r v).sealHeld = x.sealHeld := rfl
@[simp] theorem Ctx.writeSeg_atSeal (x : Ctx) (r : SReg) (v : Seg) : (x.writeSeg r v).atSeal = x.atSeal := rfl
@[simp] theorem Ctx.writeSeg_waitLaps (x : Ctx) (r : SReg) (v : Seg) : (x.writeSeg r v).waitLaps = x.waitLaps := rfl
@[simp] theorem Ctx.writeSeg_waitLimit (x : Ctx) (r : SReg) (v : Seg) : (x.writeSeg r v).waitLimit = x.waitLimit := rfl
@[simp] theorem Ctx.writeSeg_imprecise (x : Ctx) (r : SReg) (v : Seg) : (x.writeSeg r v).imprecise = x.imprecise := rfl
@[simp] theorem Ctx.writeSeg_precise (x : Ctx) (r : SReg) (v : Seg) : (x.writeSeg r v).precise = x.precise := rfl
@[simp] theorem Ctx.writeSeg_openBatch (x : Ctx) (r : SReg) (v : Seg) : (x.writeSeg r v).openBatch = x.openBatch := rfl
@[simp] theorem Ctx.writeSeg_closed (x : Ctx) (r : SReg) (v : Seg) : (x.writeSeg r v).closed = x.closed := rfl
@[simp] theorem Ctx.writeSeg_nextBatch (x : Ctx) (r : SReg) (v : Seg) : (x.writeSeg r v).nextBatch = x.nextBatch := rfl
@[simp] theorem Ctx.writeSeg_row (x : Ctx) (r : SReg) (v : Seg) : (x.writeSeg r v).row = x.row := rfl
@[simp] theorem Ctx.writeSeg_mask (x : Ctx) (r : SReg) (v : Seg) : (x.writeSeg r v).mask = x.mask := rfl
@[simp] theorem Ctx.writeSeg_tile (x : Ctx) (r : SReg) (v : Seg) : (x.writeSeg r v).tile = x.tile := rfl
@[simp] theorem Ctx.writeSeg_task (x : Ctx) (r : SReg) (v : Seg) : (x.writeSeg r v).task = x.task := rfl
@[simp] theorem Ctx.writeSeg_round (x : Ctx) (r : SReg) (v : Seg) : (x.writeSeg r v).round = x.round := rfl
@[simp] theorem Ctx.writeSeg_kick (x : Ctx) (r : SReg) (v : Seg) : (x.writeSeg r v).kick = x.kick := rfl
@[simp] theorem Ctx.writeSeg_voted (x : Ctx) (r : SReg) (v : Seg) : (x.writeSeg r v).voted = x.voted := rfl
@[simp] theorem Ctx.writeSeg_met (x : Ctx) (r : SReg) (v : Seg) : (x.writeSeg r v).met = x.met := rfl

@[simp] theorem Ctx.advance_g (x : Ctx) (n : Nat) : (x.advance n).g = x.g := rfl
@[simp] theorem Ctx.advance_v (x : Ctx) (n : Nat) : (x.advance n).v = x.v := rfl
@[simp] theorem Ctx.advance_k (x : Ctx) (n : Nat) : (x.advance n).k = x.k := rfl
@[simp] theorem Ctx.advance_h (x : Ctx) (n : Nat) : (x.advance n).h = x.h := rfl
@[simp] theorem Ctx.advance_seg (x : Ctx) (n : Nat) : (x.advance n).seg = x.seg := rfl
@[simp] theorem Ctx.advance_loopCount (x : Ctx) (n : Nat) : (x.advance n).loopCount = x.loopCount := rfl
@[simp] theorem Ctx.advance_loopStart (x : Ctx) (n : Nat) : (x.advance n).loopStart = x.loopStart := rfl
@[simp] theorem Ctx.advance_loopEnd (x : Ctx) (n : Nat) : (x.advance n).loopEnd = x.loopEnd := rfl
@[simp] theorem Ctx.advance_pinned (x : Ctx) (n : Nat) : (x.advance n).pinned = x.pinned := rfl
@[simp] theorem Ctx.advance_loopBuf (x : Ctx) (n : Nat) : (x.advance n).loopBuf = x.loopBuf := rfl
@[simp] theorem Ctx.advance_fetchBuf (x : Ctx) (n : Nat) : (x.advance n).fetchBuf = x.fetchBuf := rfl
@[simp] theorem Ctx.advance_ir (x : Ctx) (n : Nat) : (x.advance n).ir = x.ir := rfl
@[simp] theorem Ctx.advance_cstat (x : Ctx) (n : Nat) : (x.advance n).cstat = x.cstat := rfl
@[simp] theorem Ctx.advance_bps (x : Ctx) (n : Nat) : (x.advance n).bps = x.bps := rfl
@[simp] theorem Ctx.advance_nlt (x : Ctx) (n : Nat) : (x.advance n).nlt = x.nlt := rfl
@[simp] theorem Ctx.advance_gbt (x : Ctx) (n : Nat) : (x.advance n).gbt = x.gbt := rfl
@[simp] theorem Ctx.advance_da (x : Ctx) (n : Nat) : (x.advance n).da = x.da := rfl
@[simp] theorem Ctx.advance_hl (x : Ctx) (n : Nat) : (x.advance n).hl = x.hl := rfl
@[simp] theorem Ctx.advance_lap (x : Ctx) (n : Nat) : (x.advance n).lap = x.lap := rfl
@[simp] theorem Ctx.advance_bpArmed (x : Ctx) (n : Nat) : (x.advance n).bpArmed = x.bpArmed := rfl
@[simp] theorem Ctx.advance_cfemask (x : Ctx) (n : Nat) : (x.advance n).cfemask = x.cfemask := rfl
@[simp] theorem Ctx.advance_cwlim (x : Ctx) (n : Nat) : (x.advance n).cwlim = x.cwlim := rfl
@[simp] theorem Ctx.advance_ctrap (x : Ctx) (n : Nat) : (x.advance n).ctrap = x.ctrap := rfl
@[simp] theorem Ctx.advance_cepc (x : Ctx) (n : Nat) : (x.advance n).cepc = x.cepc := rfl
@[simp] theorem Ctx.advance_ceaddr (x : Ctx) (n : Nat) : (x.advance n).ceaddr = x.ceaddr := rfl
@[simp] theorem Ctx.advance_cvec (x : Ctx) (n : Nat) : (x.advance n).cvec = x.cvec := rfl
@[simp] theorem Ctx.advance_cword (x : Ctx) (n : Nat) : (x.advance n).cword = x.cword := rfl
@[simp] theorem Ctx.advance_cquota (x : Ctx) (n : Nat) : (x.advance n).cquota = x.cquota := rfl
@[simp] theorem Ctx.advance_quota (x : Ctx) (n : Nat) : (x.advance n).quota = x.quota := rfl
@[simp] theorem Ctx.advance_ovfLen (x : Ctx) (n : Nat) : (x.advance n).ovfLen = x.ovfLen := rfl
@[simp] theorem Ctx.advance_spillLimit (x : Ctx) (n : Nat) : (x.advance n).spillLimit = x.spillLimit := rfl
@[simp] theorem Ctx.advance_spillBase (x : Ctx) (n : Nat) : (x.advance n).spillBase = x.spillBase := rfl
@[simp] theorem Ctx.advance_covf (x : Ctx) (n : Nat) : (x.advance n).covf = x.covf := rfl
@[simp] theorem Ctx.advance_near (x : Ctx) (n : Nat) : (x.advance n).near = x.near := rfl
@[simp] theorem Ctx.advance_far (x : Ctx) (n : Nat) : (x.advance n).far = x.far := rfl
@[simp] theorem Ctx.advance_mem (x : Ctx) (n : Nat) : (x.advance n).mem = x.mem := rfl
@[simp] theorem Ctx.advance_sendSeq (x : Ctx) (n : Nat) : (x.advance n).sendSeq = x.sendSeq := rfl
@[simp] theorem Ctx.advance_seen (x : Ctx) (n : Nat) : (x.advance n).seen = x.seen := rfl
@[simp] theorem Ctx.advance_resv (x : Ctx) (n : Nat) : (x.advance n).resv = x.resv := rfl
@[simp] theorem Ctx.advance_quotaHeld (x : Ctx) (n : Nat) : (x.advance n).quotaHeld = x.quotaHeld := rfl
@[simp] theorem Ctx.advance_dbgHalt (x : Ctx) (n : Nat) : (x.advance n).dbgHalt = x.dbgHalt := rfl
@[simp] theorem Ctx.advance_stepping (x : Ctx) (n : Nat) : (x.advance n).stepping = x.stepping := rfl
@[simp] theorem Ctx.advance_sealHeld (x : Ctx) (n : Nat) : (x.advance n).sealHeld = x.sealHeld := rfl
@[simp] theorem Ctx.advance_atSeal (x : Ctx) (n : Nat) : (x.advance n).atSeal = x.atSeal := rfl
@[simp] theorem Ctx.advance_waitLaps (x : Ctx) (n : Nat) : (x.advance n).waitLaps = x.waitLaps := rfl
@[simp] theorem Ctx.advance_waitLimit (x : Ctx) (n : Nat) : (x.advance n).waitLimit = x.waitLimit := rfl
@[simp] theorem Ctx.advance_imprecise (x : Ctx) (n : Nat) : (x.advance n).imprecise = x.imprecise := rfl
@[simp] theorem Ctx.advance_precise (x : Ctx) (n : Nat) : (x.advance n).precise = x.precise := rfl
@[simp] theorem Ctx.advance_openBatch (x : Ctx) (n : Nat) : (x.advance n).openBatch = x.openBatch := rfl
@[simp] theorem Ctx.advance_closed (x : Ctx) (n : Nat) : (x.advance n).closed = x.closed := rfl
@[simp] theorem Ctx.advance_nextBatch (x : Ctx) (n : Nat) : (x.advance n).nextBatch = x.nextBatch := rfl
@[simp] theorem Ctx.advance_row (x : Ctx) (n : Nat) : (x.advance n).row = x.row := rfl
@[simp] theorem Ctx.advance_mask (x : Ctx) (n : Nat) : (x.advance n).mask = x.mask := rfl
@[simp] theorem Ctx.advance_tile (x : Ctx) (n : Nat) : (x.advance n).tile = x.tile := rfl
@[simp] theorem Ctx.advance_task (x : Ctx) (n : Nat) : (x.advance n).task = x.task := rfl
@[simp] theorem Ctx.advance_round (x : Ctx) (n : Nat) : (x.advance n).round = x.round := rfl
@[simp] theorem Ctx.advance_voted (x : Ctx) (n : Nat) : (x.advance n).voted = x.voted := rfl
@[simp] theorem Ctx.advance_met (x : Ctx) (n : Nat) : (x.advance n).met = x.met := rfl

@[simp] theorem Ctx.goto_g (x : Ctx) (t : Word) : (x.goto t).g = x.g := rfl
@[simp] theorem Ctx.goto_v (x : Ctx) (t : Word) : (x.goto t).v = x.v := rfl
@[simp] theorem Ctx.goto_k (x : Ctx) (t : Word) : (x.goto t).k = x.k := rfl
@[simp] theorem Ctx.goto_h (x : Ctx) (t : Word) : (x.goto t).h = x.h := rfl
@[simp] theorem Ctx.goto_seg (x : Ctx) (t : Word) : (x.goto t).seg = x.seg := rfl
@[simp] theorem Ctx.goto_loopStart (x : Ctx) (t : Word) : (x.goto t).loopStart = x.loopStart := rfl
@[simp] theorem Ctx.goto_loopEnd (x : Ctx) (t : Word) : (x.goto t).loopEnd = x.loopEnd := rfl
@[simp] theorem Ctx.goto_fetchBuf (x : Ctx) (t : Word) : (x.goto t).fetchBuf = x.fetchBuf := rfl
@[simp] theorem Ctx.goto_ir (x : Ctx) (t : Word) : (x.goto t).ir = x.ir := rfl
@[simp] theorem Ctx.goto_cstat (x : Ctx) (t : Word) : (x.goto t).cstat = x.cstat := rfl
@[simp] theorem Ctx.goto_bps (x : Ctx) (t : Word) : (x.goto t).bps = x.bps := rfl
@[simp] theorem Ctx.goto_nlt (x : Ctx) (t : Word) : (x.goto t).nlt = x.nlt := rfl
@[simp] theorem Ctx.goto_gbt (x : Ctx) (t : Word) : (x.goto t).gbt = x.gbt := rfl
@[simp] theorem Ctx.goto_da (x : Ctx) (t : Word) : (x.goto t).da = x.da := rfl
@[simp] theorem Ctx.goto_hl (x : Ctx) (t : Word) : (x.goto t).hl = x.hl := rfl
@[simp] theorem Ctx.goto_lap (x : Ctx) (t : Word) : (x.goto t).lap = x.lap := rfl
@[simp] theorem Ctx.goto_bpArmed (x : Ctx) (t : Word) : (x.goto t).bpArmed = x.bpArmed := rfl
@[simp] theorem Ctx.goto_cfemask (x : Ctx) (t : Word) : (x.goto t).cfemask = x.cfemask := rfl
@[simp] theorem Ctx.goto_cwlim (x : Ctx) (t : Word) : (x.goto t).cwlim = x.cwlim := rfl
@[simp] theorem Ctx.goto_ctrap (x : Ctx) (t : Word) : (x.goto t).ctrap = x.ctrap := rfl
@[simp] theorem Ctx.goto_cepc (x : Ctx) (t : Word) : (x.goto t).cepc = x.cepc := rfl
@[simp] theorem Ctx.goto_ceaddr (x : Ctx) (t : Word) : (x.goto t).ceaddr = x.ceaddr := rfl
@[simp] theorem Ctx.goto_cvec (x : Ctx) (t : Word) : (x.goto t).cvec = x.cvec := rfl
@[simp] theorem Ctx.goto_cword (x : Ctx) (t : Word) : (x.goto t).cword = x.cword := rfl
@[simp] theorem Ctx.goto_cquota (x : Ctx) (t : Word) : (x.goto t).cquota = x.cquota := rfl
@[simp] theorem Ctx.goto_quota (x : Ctx) (t : Word) : (x.goto t).quota = x.quota := rfl
@[simp] theorem Ctx.goto_ovfLen (x : Ctx) (t : Word) : (x.goto t).ovfLen = x.ovfLen := rfl
@[simp] theorem Ctx.goto_spillLimit (x : Ctx) (t : Word) : (x.goto t).spillLimit = x.spillLimit := rfl
@[simp] theorem Ctx.goto_spillBase (x : Ctx) (t : Word) : (x.goto t).spillBase = x.spillBase := rfl
@[simp] theorem Ctx.goto_covf (x : Ctx) (t : Word) : (x.goto t).covf = x.covf := rfl
@[simp] theorem Ctx.goto_near (x : Ctx) (t : Word) : (x.goto t).near = x.near := rfl
@[simp] theorem Ctx.goto_far (x : Ctx) (t : Word) : (x.goto t).far = x.far := rfl
@[simp] theorem Ctx.goto_mem (x : Ctx) (t : Word) : (x.goto t).mem = x.mem := rfl
@[simp] theorem Ctx.goto_sendSeq (x : Ctx) (t : Word) : (x.goto t).sendSeq = x.sendSeq := rfl
@[simp] theorem Ctx.goto_seen (x : Ctx) (t : Word) : (x.goto t).seen = x.seen := rfl
@[simp] theorem Ctx.goto_resv (x : Ctx) (t : Word) : (x.goto t).resv = x.resv := rfl
@[simp] theorem Ctx.goto_quotaHeld (x : Ctx) (t : Word) : (x.goto t).quotaHeld = x.quotaHeld := rfl
@[simp] theorem Ctx.goto_dbgHalt (x : Ctx) (t : Word) : (x.goto t).dbgHalt = x.dbgHalt := rfl
@[simp] theorem Ctx.goto_stepping (x : Ctx) (t : Word) : (x.goto t).stepping = x.stepping := rfl
@[simp] theorem Ctx.goto_sealHeld (x : Ctx) (t : Word) : (x.goto t).sealHeld = x.sealHeld := rfl
@[simp] theorem Ctx.goto_atSeal (x : Ctx) (t : Word) : (x.goto t).atSeal = x.atSeal := rfl
@[simp] theorem Ctx.goto_waitLaps (x : Ctx) (t : Word) : (x.goto t).waitLaps = x.waitLaps := rfl
@[simp] theorem Ctx.goto_waitLimit (x : Ctx) (t : Word) : (x.goto t).waitLimit = x.waitLimit := rfl
@[simp] theorem Ctx.goto_imprecise (x : Ctx) (t : Word) : (x.goto t).imprecise = x.imprecise := rfl
@[simp] theorem Ctx.goto_precise (x : Ctx) (t : Word) : (x.goto t).precise = x.precise := rfl
@[simp] theorem Ctx.goto_openBatch (x : Ctx) (t : Word) : (x.goto t).openBatch = x.openBatch := rfl
@[simp] theorem Ctx.goto_closed (x : Ctx) (t : Word) : (x.goto t).closed = x.closed := rfl
@[simp] theorem Ctx.goto_nextBatch (x : Ctx) (t : Word) : (x.goto t).nextBatch = x.nextBatch := rfl
@[simp] theorem Ctx.goto_row (x : Ctx) (t : Word) : (x.goto t).row = x.row := rfl
@[simp] theorem Ctx.goto_mask (x : Ctx) (t : Word) : (x.goto t).mask = x.mask := rfl
@[simp] theorem Ctx.goto_tile (x : Ctx) (t : Word) : (x.goto t).tile = x.tile := rfl
@[simp] theorem Ctx.goto_task (x : Ctx) (t : Word) : (x.goto t).task = x.task := rfl
@[simp] theorem Ctx.goto_round (x : Ctx) (t : Word) : (x.goto t).round = x.round := rfl
@[simp] theorem Ctx.goto_voted (x : Ctx) (t : Word) : (x.goto t).voted = x.voted := rfl
@[simp] theorem Ctx.goto_met (x : Ctx) (t : Word) : (x.goto t).met = x.met := rfl

@[simp] theorem Ctx.repin_g (x : Ctx) : (x.repin).g = x.g := rfl
@[simp] theorem Ctx.repin_v (x : Ctx) : (x.repin).v = x.v := rfl
@[simp] theorem Ctx.repin_k (x : Ctx) : (x.repin).k = x.k := rfl
@[simp] theorem Ctx.repin_h (x : Ctx) : (x.repin).h = x.h := rfl
@[simp] theorem Ctx.repin_seg (x : Ctx) : (x.repin).seg = x.seg := rfl
@[simp] theorem Ctx.repin_pc (x : Ctx) : (x.repin).pc = x.pc := rfl
@[simp] theorem Ctx.repin_loopCount (x : Ctx) : (x.repin).loopCount = x.loopCount := rfl
@[simp] theorem Ctx.repin_loopStart (x : Ctx) : (x.repin).loopStart = x.loopStart := rfl
@[simp] theorem Ctx.repin_loopEnd (x : Ctx) : (x.repin).loopEnd = x.loopEnd := rfl
@[simp] theorem Ctx.repin_fetchBuf (x : Ctx) : (x.repin).fetchBuf = x.fetchBuf := rfl
@[simp] theorem Ctx.repin_ir (x : Ctx) : (x.repin).ir = x.ir := rfl
@[simp] theorem Ctx.repin_cstat (x : Ctx) : (x.repin).cstat = x.cstat := rfl
@[simp] theorem Ctx.repin_bps (x : Ctx) : (x.repin).bps = x.bps := rfl
@[simp] theorem Ctx.repin_nlt (x : Ctx) : (x.repin).nlt = x.nlt := rfl
@[simp] theorem Ctx.repin_gbt (x : Ctx) : (x.repin).gbt = x.gbt := rfl
@[simp] theorem Ctx.repin_da (x : Ctx) : (x.repin).da = x.da := rfl
@[simp] theorem Ctx.repin_hl (x : Ctx) : (x.repin).hl = x.hl := rfl
@[simp] theorem Ctx.repin_lap (x : Ctx) : (x.repin).lap = x.lap := rfl
@[simp] theorem Ctx.repin_bpArmed (x : Ctx) : (x.repin).bpArmed = x.bpArmed := rfl
@[simp] theorem Ctx.repin_cfemask (x : Ctx) : (x.repin).cfemask = x.cfemask := rfl
@[simp] theorem Ctx.repin_cwlim (x : Ctx) : (x.repin).cwlim = x.cwlim := rfl
@[simp] theorem Ctx.repin_ctrap (x : Ctx) : (x.repin).ctrap = x.ctrap := rfl
@[simp] theorem Ctx.repin_cepc (x : Ctx) : (x.repin).cepc = x.cepc := rfl
@[simp] theorem Ctx.repin_ceaddr (x : Ctx) : (x.repin).ceaddr = x.ceaddr := rfl
@[simp] theorem Ctx.repin_cvec (x : Ctx) : (x.repin).cvec = x.cvec := rfl
@[simp] theorem Ctx.repin_cword (x : Ctx) : (x.repin).cword = x.cword := rfl
@[simp] theorem Ctx.repin_cquota (x : Ctx) : (x.repin).cquota = x.cquota := rfl
@[simp] theorem Ctx.repin_quota (x : Ctx) : (x.repin).quota = x.quota := rfl
@[simp] theorem Ctx.repin_ovfLen (x : Ctx) : (x.repin).ovfLen = x.ovfLen := rfl
@[simp] theorem Ctx.repin_spillLimit (x : Ctx) : (x.repin).spillLimit = x.spillLimit := rfl
@[simp] theorem Ctx.repin_spillBase (x : Ctx) : (x.repin).spillBase = x.spillBase := rfl
@[simp] theorem Ctx.repin_covf (x : Ctx) : (x.repin).covf = x.covf := rfl
@[simp] theorem Ctx.repin_near (x : Ctx) : (x.repin).near = x.near := rfl
@[simp] theorem Ctx.repin_far (x : Ctx) : (x.repin).far = x.far := rfl
@[simp] theorem Ctx.repin_mem (x : Ctx) : (x.repin).mem = x.mem := rfl
@[simp] theorem Ctx.repin_sendSeq (x : Ctx) : (x.repin).sendSeq = x.sendSeq := rfl
@[simp] theorem Ctx.repin_seen (x : Ctx) : (x.repin).seen = x.seen := rfl
@[simp] theorem Ctx.repin_resv (x : Ctx) : (x.repin).resv = x.resv := rfl
@[simp] theorem Ctx.repin_run (x : Ctx) : (x.repin).run = x.run := rfl
@[simp] theorem Ctx.repin_quotaHeld (x : Ctx) : (x.repin).quotaHeld = x.quotaHeld := rfl
@[simp] theorem Ctx.repin_dbgHalt (x : Ctx) : (x.repin).dbgHalt = x.dbgHalt := rfl
@[simp] theorem Ctx.repin_stepping (x : Ctx) : (x.repin).stepping = x.stepping := rfl
@[simp] theorem Ctx.repin_sealHeld (x : Ctx) : (x.repin).sealHeld = x.sealHeld := rfl
@[simp] theorem Ctx.repin_atSeal (x : Ctx) : (x.repin).atSeal = x.atSeal := rfl
@[simp] theorem Ctx.repin_waitLaps (x : Ctx) : (x.repin).waitLaps = x.waitLaps := rfl
@[simp] theorem Ctx.repin_waitLimit (x : Ctx) : (x.repin).waitLimit = x.waitLimit := rfl
@[simp] theorem Ctx.repin_imprecise (x : Ctx) : (x.repin).imprecise = x.imprecise := rfl
@[simp] theorem Ctx.repin_precise (x : Ctx) : (x.repin).precise = x.precise := rfl
@[simp] theorem Ctx.repin_openBatch (x : Ctx) : (x.repin).openBatch = x.openBatch := rfl
@[simp] theorem Ctx.repin_closed (x : Ctx) : (x.repin).closed = x.closed := rfl
@[simp] theorem Ctx.repin_nextBatch (x : Ctx) : (x.repin).nextBatch = x.nextBatch := rfl
@[simp] theorem Ctx.repin_row (x : Ctx) : (x.repin).row = x.row := rfl
@[simp] theorem Ctx.repin_mask (x : Ctx) : (x.repin).mask = x.mask := rfl
@[simp] theorem Ctx.repin_tile (x : Ctx) : (x.repin).tile = x.tile := rfl
@[simp] theorem Ctx.repin_task (x : Ctx) : (x.repin).task = x.task := rfl
@[simp] theorem Ctx.repin_round (x : Ctx) : (x.repin).round = x.round := rfl
@[simp] theorem Ctx.repin_kick (x : Ctx) : (x.repin).kick = x.kick := rfl
@[simp] theorem Ctx.repin_voted (x : Ctx) : (x.repin).voted = x.voted := rfl
@[simp] theorem Ctx.repin_met (x : Ctx) : (x.repin).met = x.met := rfl

@[simp] theorem Ctx.raise_g (x : Ctx) (f : Flags) : (x.raise f).g = x.g := rfl
@[simp] theorem Ctx.raise_v (x : Ctx) (f : Flags) : (x.raise f).v = x.v := rfl
@[simp] theorem Ctx.raise_k (x : Ctx) (f : Flags) : (x.raise f).k = x.k := rfl
@[simp] theorem Ctx.raise_h (x : Ctx) (f : Flags) : (x.raise f).h = x.h := rfl
@[simp] theorem Ctx.raise_seg (x : Ctx) (f : Flags) : (x.raise f).seg = x.seg := rfl
@[simp] theorem Ctx.raise_pc (x : Ctx) (f : Flags) : (x.raise f).pc = x.pc := rfl
@[simp] theorem Ctx.raise_loopCount (x : Ctx) (f : Flags) : (x.raise f).loopCount = x.loopCount := rfl
@[simp] theorem Ctx.raise_loopStart (x : Ctx) (f : Flags) : (x.raise f).loopStart = x.loopStart := rfl
@[simp] theorem Ctx.raise_loopEnd (x : Ctx) (f : Flags) : (x.raise f).loopEnd = x.loopEnd := rfl
@[simp] theorem Ctx.raise_pinned (x : Ctx) (f : Flags) : (x.raise f).pinned = x.pinned := rfl
@[simp] theorem Ctx.raise_loopBuf (x : Ctx) (f : Flags) : (x.raise f).loopBuf = x.loopBuf := rfl
@[simp] theorem Ctx.raise_fetchBuf (x : Ctx) (f : Flags) : (x.raise f).fetchBuf = x.fetchBuf := rfl
@[simp] theorem Ctx.raise_ir (x : Ctx) (f : Flags) : (x.raise f).ir = x.ir := rfl
@[simp] theorem Ctx.raise_bps (x : Ctx) (f : Flags) : (x.raise f).bps = x.bps := rfl
@[simp] theorem Ctx.raise_nlt (x : Ctx) (f : Flags) : (x.raise f).nlt = x.nlt := rfl
@[simp] theorem Ctx.raise_gbt (x : Ctx) (f : Flags) : (x.raise f).gbt = x.gbt := rfl
@[simp] theorem Ctx.raise_da (x : Ctx) (f : Flags) : (x.raise f).da = x.da := rfl
@[simp] theorem Ctx.raise_hl (x : Ctx) (f : Flags) : (x.raise f).hl = x.hl := rfl
@[simp] theorem Ctx.raise_lap (x : Ctx) (f : Flags) : (x.raise f).lap = x.lap := rfl
@[simp] theorem Ctx.raise_bpArmed (x : Ctx) (f : Flags) : (x.raise f).bpArmed = x.bpArmed := rfl
@[simp] theorem Ctx.raise_cfemask (x : Ctx) (f : Flags) : (x.raise f).cfemask = x.cfemask := rfl
@[simp] theorem Ctx.raise_cwlim (x : Ctx) (f : Flags) : (x.raise f).cwlim = x.cwlim := rfl
@[simp] theorem Ctx.raise_ctrap (x : Ctx) (f : Flags) : (x.raise f).ctrap = x.ctrap := rfl
@[simp] theorem Ctx.raise_cepc (x : Ctx) (f : Flags) : (x.raise f).cepc = x.cepc := rfl
@[simp] theorem Ctx.raise_ceaddr (x : Ctx) (f : Flags) : (x.raise f).ceaddr = x.ceaddr := rfl
@[simp] theorem Ctx.raise_cvec (x : Ctx) (f : Flags) : (x.raise f).cvec = x.cvec := rfl
@[simp] theorem Ctx.raise_cword (x : Ctx) (f : Flags) : (x.raise f).cword = x.cword := rfl
@[simp] theorem Ctx.raise_cquota (x : Ctx) (f : Flags) : (x.raise f).cquota = x.cquota := rfl
@[simp] theorem Ctx.raise_quota (x : Ctx) (f : Flags) : (x.raise f).quota = x.quota := rfl
@[simp] theorem Ctx.raise_ovfLen (x : Ctx) (f : Flags) : (x.raise f).ovfLen = x.ovfLen := rfl
@[simp] theorem Ctx.raise_spillLimit (x : Ctx) (f : Flags) : (x.raise f).spillLimit = x.spillLimit := rfl
@[simp] theorem Ctx.raise_spillBase (x : Ctx) (f : Flags) : (x.raise f).spillBase = x.spillBase := rfl
@[simp] theorem Ctx.raise_covf (x : Ctx) (f : Flags) : (x.raise f).covf = x.covf := rfl
@[simp] theorem Ctx.raise_near (x : Ctx) (f : Flags) : (x.raise f).near = x.near := rfl
@[simp] theorem Ctx.raise_far (x : Ctx) (f : Flags) : (x.raise f).far = x.far := rfl
@[simp] theorem Ctx.raise_mem (x : Ctx) (f : Flags) : (x.raise f).mem = x.mem := rfl
@[simp] theorem Ctx.raise_sendSeq (x : Ctx) (f : Flags) : (x.raise f).sendSeq = x.sendSeq := rfl
@[simp] theorem Ctx.raise_seen (x : Ctx) (f : Flags) : (x.raise f).seen = x.seen := rfl
@[simp] theorem Ctx.raise_resv (x : Ctx) (f : Flags) : (x.raise f).resv = x.resv := rfl
@[simp] theorem Ctx.raise_run (x : Ctx) (f : Flags) : (x.raise f).run = x.run := rfl
@[simp] theorem Ctx.raise_quotaHeld (x : Ctx) (f : Flags) : (x.raise f).quotaHeld = x.quotaHeld := rfl
@[simp] theorem Ctx.raise_dbgHalt (x : Ctx) (f : Flags) : (x.raise f).dbgHalt = x.dbgHalt := rfl
@[simp] theorem Ctx.raise_stepping (x : Ctx) (f : Flags) : (x.raise f).stepping = x.stepping := rfl
@[simp] theorem Ctx.raise_sealHeld (x : Ctx) (f : Flags) : (x.raise f).sealHeld = x.sealHeld := rfl
@[simp] theorem Ctx.raise_atSeal (x : Ctx) (f : Flags) : (x.raise f).atSeal = x.atSeal := rfl
@[simp] theorem Ctx.raise_waitLaps (x : Ctx) (f : Flags) : (x.raise f).waitLaps = x.waitLaps := rfl
@[simp] theorem Ctx.raise_waitLimit (x : Ctx) (f : Flags) : (x.raise f).waitLimit = x.waitLimit := rfl
@[simp] theorem Ctx.raise_imprecise (x : Ctx) (f : Flags) : (x.raise f).imprecise = x.imprecise := rfl
@[simp] theorem Ctx.raise_precise (x : Ctx) (f : Flags) : (x.raise f).precise = x.precise := rfl
@[simp] theorem Ctx.raise_openBatch (x : Ctx) (f : Flags) : (x.raise f).openBatch = x.openBatch := rfl
@[simp] theorem Ctx.raise_closed (x : Ctx) (f : Flags) : (x.raise f).closed = x.closed := rfl
@[simp] theorem Ctx.raise_nextBatch (x : Ctx) (f : Flags) : (x.raise f).nextBatch = x.nextBatch := rfl
@[simp] theorem Ctx.raise_row (x : Ctx) (f : Flags) : (x.raise f).row = x.row := rfl
@[simp] theorem Ctx.raise_mask (x : Ctx) (f : Flags) : (x.raise f).mask = x.mask := rfl
@[simp] theorem Ctx.raise_tile (x : Ctx) (f : Flags) : (x.raise f).tile = x.tile := rfl
@[simp] theorem Ctx.raise_task (x : Ctx) (f : Flags) : (x.raise f).task = x.task := rfl
@[simp] theorem Ctx.raise_round (x : Ctx) (f : Flags) : (x.raise f).round = x.round := rfl
@[simp] theorem Ctx.raise_kick (x : Ctx) (f : Flags) : (x.raise f).kick = x.kick := rfl
@[simp] theorem Ctx.raise_voted (x : Ctx) (f : Flags) : (x.raise f).voted = x.voted := rfl
@[simp] theorem Ctx.raise_met (x : Ctx) (f : Flags) : (x.raise f).met = x.met := rfl

@[simp] theorem Ctx.enterHandler_g (x : Ctx) : (x.enterHandler).g = x.g := rfl
@[simp] theorem Ctx.enterHandler_v (x : Ctx) : (x.enterHandler).v = x.v := rfl
@[simp] theorem Ctx.enterHandler_k (x : Ctx) : (x.enterHandler).k = x.k := rfl
@[simp] theorem Ctx.enterHandler_h (x : Ctx) : (x.enterHandler).h = x.h := rfl
@[simp] theorem Ctx.enterHandler_seg (x : Ctx) : (x.enterHandler).seg = x.seg := rfl
@[simp] theorem Ctx.enterHandler_loopCount (x : Ctx) : (x.enterHandler).loopCount = x.loopCount := rfl
@[simp] theorem Ctx.enterHandler_loopStart (x : Ctx) : (x.enterHandler).loopStart = x.loopStart := rfl
@[simp] theorem Ctx.enterHandler_loopEnd (x : Ctx) : (x.enterHandler).loopEnd = x.loopEnd := rfl
@[simp] theorem Ctx.enterHandler_fetchBuf (x : Ctx) : (x.enterHandler).fetchBuf = x.fetchBuf := rfl
@[simp] theorem Ctx.enterHandler_ir (x : Ctx) : (x.enterHandler).ir = x.ir := rfl
@[simp] theorem Ctx.enterHandler_cstat (x : Ctx) : (x.enterHandler).cstat = x.cstat := rfl
@[simp] theorem Ctx.enterHandler_bps (x : Ctx) : (x.enterHandler).bps = x.bps := rfl
@[simp] theorem Ctx.enterHandler_nlt (x : Ctx) : (x.enterHandler).nlt = x.nlt := rfl
@[simp] theorem Ctx.enterHandler_gbt (x : Ctx) : (x.enterHandler).gbt = x.gbt := rfl
@[simp] theorem Ctx.enterHandler_da (x : Ctx) : (x.enterHandler).da = x.da := rfl
@[simp] theorem Ctx.enterHandler_lap (x : Ctx) : (x.enterHandler).lap = x.lap := rfl
@[simp] theorem Ctx.enterHandler_bpArmed (x : Ctx) : (x.enterHandler).bpArmed = x.bpArmed := rfl
@[simp] theorem Ctx.enterHandler_cfemask (x : Ctx) : (x.enterHandler).cfemask = x.cfemask := rfl
@[simp] theorem Ctx.enterHandler_cwlim (x : Ctx) : (x.enterHandler).cwlim = x.cwlim := rfl
@[simp] theorem Ctx.enterHandler_ctrap (x : Ctx) : (x.enterHandler).ctrap = x.ctrap := rfl
@[simp] theorem Ctx.enterHandler_cepc (x : Ctx) : (x.enterHandler).cepc = x.cepc := rfl
@[simp] theorem Ctx.enterHandler_ceaddr (x : Ctx) : (x.enterHandler).ceaddr = x.ceaddr := rfl
@[simp] theorem Ctx.enterHandler_cvec (x : Ctx) : (x.enterHandler).cvec = x.cvec := rfl
@[simp] theorem Ctx.enterHandler_cword (x : Ctx) : (x.enterHandler).cword = x.cword := rfl
@[simp] theorem Ctx.enterHandler_cquota (x : Ctx) : (x.enterHandler).cquota = x.cquota := rfl
@[simp] theorem Ctx.enterHandler_quota (x : Ctx) : (x.enterHandler).quota = x.quota := rfl
@[simp] theorem Ctx.enterHandler_ovfLen (x : Ctx) : (x.enterHandler).ovfLen = x.ovfLen := rfl
@[simp] theorem Ctx.enterHandler_spillLimit (x : Ctx) : (x.enterHandler).spillLimit = x.spillLimit := rfl
@[simp] theorem Ctx.enterHandler_spillBase (x : Ctx) : (x.enterHandler).spillBase = x.spillBase := rfl
@[simp] theorem Ctx.enterHandler_covf (x : Ctx) : (x.enterHandler).covf = x.covf := rfl
@[simp] theorem Ctx.enterHandler_near (x : Ctx) : (x.enterHandler).near = x.near := rfl
@[simp] theorem Ctx.enterHandler_far (x : Ctx) : (x.enterHandler).far = x.far := rfl
@[simp] theorem Ctx.enterHandler_mem (x : Ctx) : (x.enterHandler).mem = x.mem := rfl
@[simp] theorem Ctx.enterHandler_sendSeq (x : Ctx) : (x.enterHandler).sendSeq = x.sendSeq := rfl
@[simp] theorem Ctx.enterHandler_seen (x : Ctx) : (x.enterHandler).seen = x.seen := rfl
@[simp] theorem Ctx.enterHandler_resv (x : Ctx) : (x.enterHandler).resv = x.resv := rfl
@[simp] theorem Ctx.enterHandler_quotaHeld (x : Ctx) : (x.enterHandler).quotaHeld = x.quotaHeld := rfl
@[simp] theorem Ctx.enterHandler_dbgHalt (x : Ctx) : (x.enterHandler).dbgHalt = x.dbgHalt := rfl
@[simp] theorem Ctx.enterHandler_stepping (x : Ctx) : (x.enterHandler).stepping = x.stepping := rfl
@[simp] theorem Ctx.enterHandler_sealHeld (x : Ctx) : (x.enterHandler).sealHeld = x.sealHeld := rfl
@[simp] theorem Ctx.enterHandler_atSeal (x : Ctx) : (x.enterHandler).atSeal = x.atSeal := rfl
@[simp] theorem Ctx.enterHandler_waitLaps (x : Ctx) : (x.enterHandler).waitLaps = x.waitLaps := rfl
@[simp] theorem Ctx.enterHandler_waitLimit (x : Ctx) : (x.enterHandler).waitLimit = x.waitLimit := rfl
@[simp] theorem Ctx.enterHandler_imprecise (x : Ctx) : (x.enterHandler).imprecise = x.imprecise := rfl
@[simp] theorem Ctx.enterHandler_precise (x : Ctx) : (x.enterHandler).precise = x.precise := rfl
@[simp] theorem Ctx.enterHandler_openBatch (x : Ctx) : (x.enterHandler).openBatch = x.openBatch := rfl
@[simp] theorem Ctx.enterHandler_closed (x : Ctx) : (x.enterHandler).closed = x.closed := rfl
@[simp] theorem Ctx.enterHandler_nextBatch (x : Ctx) : (x.enterHandler).nextBatch = x.nextBatch := rfl
@[simp] theorem Ctx.enterHandler_row (x : Ctx) : (x.enterHandler).row = x.row := rfl
@[simp] theorem Ctx.enterHandler_mask (x : Ctx) : (x.enterHandler).mask = x.mask := rfl
@[simp] theorem Ctx.enterHandler_tile (x : Ctx) : (x.enterHandler).tile = x.tile := rfl
@[simp] theorem Ctx.enterHandler_task (x : Ctx) : (x.enterHandler).task = x.task := rfl
@[simp] theorem Ctx.enterHandler_round (x : Ctx) : (x.enterHandler).round = x.round := rfl
@[simp] theorem Ctx.enterHandler_kick (x : Ctx) : (x.enterHandler).kick = x.kick := rfl
@[simp] theorem Ctx.enterHandler_voted (x : Ctx) : (x.enterHandler).voted = x.voted := rfl
@[simp] theorem Ctx.enterHandler_met (x : Ctx) : (x.enterHandler).met = x.met := rfl

@[simp] theorem Ctx.trapCsrs_g (x : Ctx) (c : BitVec 8) (e p : Word) (w : List (BitVec 32)) : (x.trapCsrs c e p w).g = x.g := rfl
@[simp] theorem Ctx.trapCsrs_v (x : Ctx) (c : BitVec 8) (e p : Word) (w : List (BitVec 32)) : (x.trapCsrs c e p w).v = x.v := rfl
@[simp] theorem Ctx.trapCsrs_k (x : Ctx) (c : BitVec 8) (e p : Word) (w : List (BitVec 32)) : (x.trapCsrs c e p w).k = x.k := rfl
@[simp] theorem Ctx.trapCsrs_h (x : Ctx) (c : BitVec 8) (e p : Word) (w : List (BitVec 32)) : (x.trapCsrs c e p w).h = x.h := rfl
@[simp] theorem Ctx.trapCsrs_seg (x : Ctx) (c : BitVec 8) (e p : Word) (w : List (BitVec 32)) : (x.trapCsrs c e p w).seg = x.seg := rfl
@[simp] theorem Ctx.trapCsrs_pc (x : Ctx) (c : BitVec 8) (e p : Word) (w : List (BitVec 32)) : (x.trapCsrs c e p w).pc = x.pc := rfl
@[simp] theorem Ctx.trapCsrs_loopCount (x : Ctx) (c : BitVec 8) (e p : Word) (w : List (BitVec 32)) : (x.trapCsrs c e p w).loopCount = x.loopCount := rfl
@[simp] theorem Ctx.trapCsrs_loopStart (x : Ctx) (c : BitVec 8) (e p : Word) (w : List (BitVec 32)) : (x.trapCsrs c e p w).loopStart = x.loopStart := rfl
@[simp] theorem Ctx.trapCsrs_loopEnd (x : Ctx) (c : BitVec 8) (e p : Word) (w : List (BitVec 32)) : (x.trapCsrs c e p w).loopEnd = x.loopEnd := rfl
@[simp] theorem Ctx.trapCsrs_pinned (x : Ctx) (c : BitVec 8) (e p : Word) (w : List (BitVec 32)) : (x.trapCsrs c e p w).pinned = x.pinned := rfl
@[simp] theorem Ctx.trapCsrs_loopBuf (x : Ctx) (c : BitVec 8) (e p : Word) (w : List (BitVec 32)) : (x.trapCsrs c e p w).loopBuf = x.loopBuf := rfl
@[simp] theorem Ctx.trapCsrs_fetchBuf (x : Ctx) (c : BitVec 8) (e p : Word) (w : List (BitVec 32)) : (x.trapCsrs c e p w).fetchBuf = x.fetchBuf := rfl
@[simp] theorem Ctx.trapCsrs_ir (x : Ctx) (c : BitVec 8) (e p : Word) (w : List (BitVec 32)) : (x.trapCsrs c e p w).ir = x.ir := rfl
@[simp] theorem Ctx.trapCsrs_cstat (x : Ctx) (c : BitVec 8) (e p : Word) (w : List (BitVec 32)) : (x.trapCsrs c e p w).cstat = x.cstat := rfl
@[simp] theorem Ctx.trapCsrs_bps (x : Ctx) (c : BitVec 8) (e p : Word) (w : List (BitVec 32)) : (x.trapCsrs c e p w).bps = x.bps := rfl
@[simp] theorem Ctx.trapCsrs_nlt (x : Ctx) (c : BitVec 8) (e p : Word) (w : List (BitVec 32)) : (x.trapCsrs c e p w).nlt = x.nlt := rfl
@[simp] theorem Ctx.trapCsrs_gbt (x : Ctx) (c : BitVec 8) (e p : Word) (w : List (BitVec 32)) : (x.trapCsrs c e p w).gbt = x.gbt := rfl
@[simp] theorem Ctx.trapCsrs_da (x : Ctx) (c : BitVec 8) (e p : Word) (w : List (BitVec 32)) : (x.trapCsrs c e p w).da = x.da := rfl
@[simp] theorem Ctx.trapCsrs_hl (x : Ctx) (c : BitVec 8) (e p : Word) (w : List (BitVec 32)) : (x.trapCsrs c e p w).hl = x.hl := rfl
@[simp] theorem Ctx.trapCsrs_lap (x : Ctx) (c : BitVec 8) (e p : Word) (w : List (BitVec 32)) : (x.trapCsrs c e p w).lap = x.lap := rfl
@[simp] theorem Ctx.trapCsrs_bpArmed (x : Ctx) (c : BitVec 8) (e p : Word) (w : List (BitVec 32)) : (x.trapCsrs c e p w).bpArmed = x.bpArmed := rfl
@[simp] theorem Ctx.trapCsrs_cfemask (x : Ctx) (c : BitVec 8) (e p : Word) (w : List (BitVec 32)) : (x.trapCsrs c e p w).cfemask = x.cfemask := rfl
@[simp] theorem Ctx.trapCsrs_cwlim (x : Ctx) (c : BitVec 8) (e p : Word) (w : List (BitVec 32)) : (x.trapCsrs c e p w).cwlim = x.cwlim := rfl
@[simp] theorem Ctx.trapCsrs_cvec (x : Ctx) (c : BitVec 8) (e p : Word) (w : List (BitVec 32)) : (x.trapCsrs c e p w).cvec = x.cvec := rfl
@[simp] theorem Ctx.trapCsrs_cquota (x : Ctx) (c : BitVec 8) (e p : Word) (w : List (BitVec 32)) : (x.trapCsrs c e p w).cquota = x.cquota := rfl
@[simp] theorem Ctx.trapCsrs_quota (x : Ctx) (c : BitVec 8) (e p : Word) (w : List (BitVec 32)) : (x.trapCsrs c e p w).quota = x.quota := rfl
@[simp] theorem Ctx.trapCsrs_ovfLen (x : Ctx) (c : BitVec 8) (e p : Word) (w : List (BitVec 32)) : (x.trapCsrs c e p w).ovfLen = x.ovfLen := rfl
@[simp] theorem Ctx.trapCsrs_spillLimit (x : Ctx) (c : BitVec 8) (e p : Word) (w : List (BitVec 32)) : (x.trapCsrs c e p w).spillLimit = x.spillLimit := rfl
@[simp] theorem Ctx.trapCsrs_spillBase (x : Ctx) (c : BitVec 8) (e p : Word) (w : List (BitVec 32)) : (x.trapCsrs c e p w).spillBase = x.spillBase := rfl
@[simp] theorem Ctx.trapCsrs_covf (x : Ctx) (c : BitVec 8) (e p : Word) (w : List (BitVec 32)) : (x.trapCsrs c e p w).covf = x.covf := rfl
@[simp] theorem Ctx.trapCsrs_near (x : Ctx) (c : BitVec 8) (e p : Word) (w : List (BitVec 32)) : (x.trapCsrs c e p w).near = x.near := rfl
@[simp] theorem Ctx.trapCsrs_far (x : Ctx) (c : BitVec 8) (e p : Word) (w : List (BitVec 32)) : (x.trapCsrs c e p w).far = x.far := rfl
@[simp] theorem Ctx.trapCsrs_mem (x : Ctx) (c : BitVec 8) (e p : Word) (w : List (BitVec 32)) : (x.trapCsrs c e p w).mem = x.mem := rfl
@[simp] theorem Ctx.trapCsrs_sendSeq (x : Ctx) (c : BitVec 8) (e p : Word) (w : List (BitVec 32)) : (x.trapCsrs c e p w).sendSeq = x.sendSeq := rfl
@[simp] theorem Ctx.trapCsrs_seen (x : Ctx) (c : BitVec 8) (e p : Word) (w : List (BitVec 32)) : (x.trapCsrs c e p w).seen = x.seen := rfl
@[simp] theorem Ctx.trapCsrs_resv (x : Ctx) (c : BitVec 8) (e p : Word) (w : List (BitVec 32)) : (x.trapCsrs c e p w).resv = x.resv := rfl
@[simp] theorem Ctx.trapCsrs_run (x : Ctx) (c : BitVec 8) (e p : Word) (w : List (BitVec 32)) : (x.trapCsrs c e p w).run = x.run := rfl
@[simp] theorem Ctx.trapCsrs_quotaHeld (x : Ctx) (c : BitVec 8) (e p : Word) (w : List (BitVec 32)) : (x.trapCsrs c e p w).quotaHeld = x.quotaHeld := rfl
@[simp] theorem Ctx.trapCsrs_dbgHalt (x : Ctx) (c : BitVec 8) (e p : Word) (w : List (BitVec 32)) : (x.trapCsrs c e p w).dbgHalt = x.dbgHalt := rfl
@[simp] theorem Ctx.trapCsrs_stepping (x : Ctx) (c : BitVec 8) (e p : Word) (w : List (BitVec 32)) : (x.trapCsrs c e p w).stepping = x.stepping := rfl
@[simp] theorem Ctx.trapCsrs_sealHeld (x : Ctx) (c : BitVec 8) (e p : Word) (w : List (BitVec 32)) : (x.trapCsrs c e p w).sealHeld = x.sealHeld := rfl
@[simp] theorem Ctx.trapCsrs_atSeal (x : Ctx) (c : BitVec 8) (e p : Word) (w : List (BitVec 32)) : (x.trapCsrs c e p w).atSeal = x.atSeal := rfl
@[simp] theorem Ctx.trapCsrs_waitLaps (x : Ctx) (c : BitVec 8) (e p : Word) (w : List (BitVec 32)) : (x.trapCsrs c e p w).waitLaps = x.waitLaps := rfl
@[simp] theorem Ctx.trapCsrs_waitLimit (x : Ctx) (c : BitVec 8) (e p : Word) (w : List (BitVec 32)) : (x.trapCsrs c e p w).waitLimit = x.waitLimit := rfl
@[simp] theorem Ctx.trapCsrs_imprecise (x : Ctx) (c : BitVec 8) (e p : Word) (w : List (BitVec 32)) : (x.trapCsrs c e p w).imprecise = x.imprecise := rfl
@[simp] theorem Ctx.trapCsrs_precise (x : Ctx) (c : BitVec 8) (e p : Word) (w : List (BitVec 32)) : (x.trapCsrs c e p w).precise = x.precise := rfl
@[simp] theorem Ctx.trapCsrs_openBatch (x : Ctx) (c : BitVec 8) (e p : Word) (w : List (BitVec 32)) : (x.trapCsrs c e p w).openBatch = x.openBatch := rfl
@[simp] theorem Ctx.trapCsrs_closed (x : Ctx) (c : BitVec 8) (e p : Word) (w : List (BitVec 32)) : (x.trapCsrs c e p w).closed = x.closed := rfl
@[simp] theorem Ctx.trapCsrs_nextBatch (x : Ctx) (c : BitVec 8) (e p : Word) (w : List (BitVec 32)) : (x.trapCsrs c e p w).nextBatch = x.nextBatch := rfl
@[simp] theorem Ctx.trapCsrs_row (x : Ctx) (c : BitVec 8) (e p : Word) (w : List (BitVec 32)) : (x.trapCsrs c e p w).row = x.row := rfl
@[simp] theorem Ctx.trapCsrs_mask (x : Ctx) (c : BitVec 8) (e p : Word) (w : List (BitVec 32)) : (x.trapCsrs c e p w).mask = x.mask := rfl
@[simp] theorem Ctx.trapCsrs_tile (x : Ctx) (c : BitVec 8) (e p : Word) (w : List (BitVec 32)) : (x.trapCsrs c e p w).tile = x.tile := rfl
@[simp] theorem Ctx.trapCsrs_task (x : Ctx) (c : BitVec 8) (e p : Word) (w : List (BitVec 32)) : (x.trapCsrs c e p w).task = x.task := rfl
@[simp] theorem Ctx.trapCsrs_round (x : Ctx) (c : BitVec 8) (e p : Word) (w : List (BitVec 32)) : (x.trapCsrs c e p w).round = x.round := rfl
@[simp] theorem Ctx.trapCsrs_voted (x : Ctx) (c : BitVec 8) (e p : Word) (w : List (BitVec 32)) : (x.trapCsrs c e p w).voted = x.voted := rfl
@[simp] theorem Ctx.trapCsrs_met (x : Ctx) (c : BitVec 8) (e p : Word) (w : List (BitVec 32)) : (x.trapCsrs c e p w).met = x.met := rfl

@[simp] theorem Ctx.writeG_v (x : Ctx) (r : GReg) (v : Word) : (x.writeG r v).v = x.v := by unfold Ctx.writeG; split <;> rfl
@[simp] theorem Ctx.writeG_k (x : Ctx) (r : GReg) (v : Word) : (x.writeG r v).k = x.k := by unfold Ctx.writeG; split <;> rfl
@[simp] theorem Ctx.writeG_h (x : Ctx) (r : GReg) (v : Word) : (x.writeG r v).h = x.h := by unfold Ctx.writeG; split <;> rfl
@[simp] theorem Ctx.writeG_seg (x : Ctx) (r : GReg) (v : Word) : (x.writeG r v).seg = x.seg := by unfold Ctx.writeG; split <;> rfl
@[simp] theorem Ctx.writeG_pc (x : Ctx) (r : GReg) (v : Word) : (x.writeG r v).pc = x.pc := by unfold Ctx.writeG; split <;> rfl
@[simp] theorem Ctx.writeG_loopCount (x : Ctx) (r : GReg) (v : Word) : (x.writeG r v).loopCount = x.loopCount := by unfold Ctx.writeG; split <;> rfl
@[simp] theorem Ctx.writeG_loopStart (x : Ctx) (r : GReg) (v : Word) : (x.writeG r v).loopStart = x.loopStart := by unfold Ctx.writeG; split <;> rfl
@[simp] theorem Ctx.writeG_loopEnd (x : Ctx) (r : GReg) (v : Word) : (x.writeG r v).loopEnd = x.loopEnd := by unfold Ctx.writeG; split <;> rfl
@[simp] theorem Ctx.writeG_pinned (x : Ctx) (r : GReg) (v : Word) : (x.writeG r v).pinned = x.pinned := by unfold Ctx.writeG; split <;> rfl
@[simp] theorem Ctx.writeG_loopBuf (x : Ctx) (r : GReg) (v : Word) : (x.writeG r v).loopBuf = x.loopBuf := by unfold Ctx.writeG; split <;> rfl
@[simp] theorem Ctx.writeG_fetchBuf (x : Ctx) (r : GReg) (v : Word) : (x.writeG r v).fetchBuf = x.fetchBuf := by unfold Ctx.writeG; split <;> rfl
@[simp] theorem Ctx.writeG_ir (x : Ctx) (r : GReg) (v : Word) : (x.writeG r v).ir = x.ir := by unfold Ctx.writeG; split <;> rfl
@[simp] theorem Ctx.writeG_cstat (x : Ctx) (r : GReg) (v : Word) : (x.writeG r v).cstat = x.cstat := by unfold Ctx.writeG; split <;> rfl
@[simp] theorem Ctx.writeG_bps (x : Ctx) (r : GReg) (v : Word) : (x.writeG r v).bps = x.bps := by unfold Ctx.writeG; split <;> rfl
@[simp] theorem Ctx.writeG_nlt (x : Ctx) (r : GReg) (v : Word) : (x.writeG r v).nlt = x.nlt := by unfold Ctx.writeG; split <;> rfl
@[simp] theorem Ctx.writeG_gbt (x : Ctx) (r : GReg) (v : Word) : (x.writeG r v).gbt = x.gbt := by unfold Ctx.writeG; split <;> rfl
@[simp] theorem Ctx.writeG_da (x : Ctx) (r : GReg) (v : Word) : (x.writeG r v).da = x.da := by unfold Ctx.writeG; split <;> rfl
@[simp] theorem Ctx.writeG_hl (x : Ctx) (r : GReg) (v : Word) : (x.writeG r v).hl = x.hl := by unfold Ctx.writeG; split <;> rfl
@[simp] theorem Ctx.writeG_lap (x : Ctx) (r : GReg) (v : Word) : (x.writeG r v).lap = x.lap := by unfold Ctx.writeG; split <;> rfl
@[simp] theorem Ctx.writeG_bpArmed (x : Ctx) (r : GReg) (v : Word) : (x.writeG r v).bpArmed = x.bpArmed := by unfold Ctx.writeG; split <;> rfl
@[simp] theorem Ctx.writeG_cfemask (x : Ctx) (r : GReg) (v : Word) : (x.writeG r v).cfemask = x.cfemask := by unfold Ctx.writeG; split <;> rfl
@[simp] theorem Ctx.writeG_cwlim (x : Ctx) (r : GReg) (v : Word) : (x.writeG r v).cwlim = x.cwlim := by unfold Ctx.writeG; split <;> rfl
@[simp] theorem Ctx.writeG_ctrap (x : Ctx) (r : GReg) (v : Word) : (x.writeG r v).ctrap = x.ctrap := by unfold Ctx.writeG; split <;> rfl
@[simp] theorem Ctx.writeG_cepc (x : Ctx) (r : GReg) (v : Word) : (x.writeG r v).cepc = x.cepc := by unfold Ctx.writeG; split <;> rfl
@[simp] theorem Ctx.writeG_ceaddr (x : Ctx) (r : GReg) (v : Word) : (x.writeG r v).ceaddr = x.ceaddr := by unfold Ctx.writeG; split <;> rfl
@[simp] theorem Ctx.writeG_cvec (x : Ctx) (r : GReg) (v : Word) : (x.writeG r v).cvec = x.cvec := by unfold Ctx.writeG; split <;> rfl
@[simp] theorem Ctx.writeG_cword (x : Ctx) (r : GReg) (v : Word) : (x.writeG r v).cword = x.cword := by unfold Ctx.writeG; split <;> rfl
@[simp] theorem Ctx.writeG_cquota (x : Ctx) (r : GReg) (v : Word) : (x.writeG r v).cquota = x.cquota := by unfold Ctx.writeG; split <;> rfl
@[simp] theorem Ctx.writeG_quota (x : Ctx) (r : GReg) (v : Word) : (x.writeG r v).quota = x.quota := by unfold Ctx.writeG; split <;> rfl
@[simp] theorem Ctx.writeG_ovfLen (x : Ctx) (r : GReg) (v : Word) : (x.writeG r v).ovfLen = x.ovfLen := by unfold Ctx.writeG; split <;> rfl
@[simp] theorem Ctx.writeG_spillLimit (x : Ctx) (r : GReg) (v : Word) : (x.writeG r v).spillLimit = x.spillLimit := by unfold Ctx.writeG; split <;> rfl
@[simp] theorem Ctx.writeG_spillBase (x : Ctx) (r : GReg) (v : Word) : (x.writeG r v).spillBase = x.spillBase := by unfold Ctx.writeG; split <;> rfl
@[simp] theorem Ctx.writeG_covf (x : Ctx) (r : GReg) (v : Word) : (x.writeG r v).covf = x.covf := by unfold Ctx.writeG; split <;> rfl
@[simp] theorem Ctx.writeG_near (x : Ctx) (r : GReg) (v : Word) : (x.writeG r v).near = x.near := by unfold Ctx.writeG; split <;> rfl
@[simp] theorem Ctx.writeG_far (x : Ctx) (r : GReg) (v : Word) : (x.writeG r v).far = x.far := by unfold Ctx.writeG; split <;> rfl
@[simp] theorem Ctx.writeG_mem (x : Ctx) (r : GReg) (v : Word) : (x.writeG r v).mem = x.mem := by unfold Ctx.writeG; split <;> rfl
@[simp] theorem Ctx.writeG_sendSeq (x : Ctx) (r : GReg) (v : Word) : (x.writeG r v).sendSeq = x.sendSeq := by unfold Ctx.writeG; split <;> rfl
@[simp] theorem Ctx.writeG_seen (x : Ctx) (r : GReg) (v : Word) : (x.writeG r v).seen = x.seen := by unfold Ctx.writeG; split <;> rfl
@[simp] theorem Ctx.writeG_resv (x : Ctx) (r : GReg) (v : Word) : (x.writeG r v).resv = x.resv := by unfold Ctx.writeG; split <;> rfl
@[simp] theorem Ctx.writeG_run (x : Ctx) (r : GReg) (v : Word) : (x.writeG r v).run = x.run := by unfold Ctx.writeG; split <;> rfl
@[simp] theorem Ctx.writeG_quotaHeld (x : Ctx) (r : GReg) (v : Word) : (x.writeG r v).quotaHeld = x.quotaHeld := by unfold Ctx.writeG; split <;> rfl
@[simp] theorem Ctx.writeG_dbgHalt (x : Ctx) (r : GReg) (v : Word) : (x.writeG r v).dbgHalt = x.dbgHalt := by unfold Ctx.writeG; split <;> rfl
@[simp] theorem Ctx.writeG_stepping (x : Ctx) (r : GReg) (v : Word) : (x.writeG r v).stepping = x.stepping := by unfold Ctx.writeG; split <;> rfl
@[simp] theorem Ctx.writeG_sealHeld (x : Ctx) (r : GReg) (v : Word) : (x.writeG r v).sealHeld = x.sealHeld := by unfold Ctx.writeG; split <;> rfl
@[simp] theorem Ctx.writeG_atSeal (x : Ctx) (r : GReg) (v : Word) : (x.writeG r v).atSeal = x.atSeal := by unfold Ctx.writeG; split <;> rfl
@[simp] theorem Ctx.writeG_waitLaps (x : Ctx) (r : GReg) (v : Word) : (x.writeG r v).waitLaps = x.waitLaps := by unfold Ctx.writeG; split <;> rfl
@[simp] theorem Ctx.writeG_waitLimit (x : Ctx) (r : GReg) (v : Word) : (x.writeG r v).waitLimit = x.waitLimit := by unfold Ctx.writeG; split <;> rfl
@[simp] theorem Ctx.writeG_imprecise (x : Ctx) (r : GReg) (v : Word) : (x.writeG r v).imprecise = x.imprecise := by unfold Ctx.writeG; split <;> rfl
@[simp] theorem Ctx.writeG_precise (x : Ctx) (r : GReg) (v : Word) : (x.writeG r v).precise = x.precise := by unfold Ctx.writeG; split <;> rfl
@[simp] theorem Ctx.writeG_openBatch (x : Ctx) (r : GReg) (v : Word) : (x.writeG r v).openBatch = x.openBatch := by unfold Ctx.writeG; split <;> rfl
@[simp] theorem Ctx.writeG_closed (x : Ctx) (r : GReg) (v : Word) : (x.writeG r v).closed = x.closed := by unfold Ctx.writeG; split <;> rfl
@[simp] theorem Ctx.writeG_nextBatch (x : Ctx) (r : GReg) (v : Word) : (x.writeG r v).nextBatch = x.nextBatch := by unfold Ctx.writeG; split <;> rfl
@[simp] theorem Ctx.writeG_row (x : Ctx) (r : GReg) (v : Word) : (x.writeG r v).row = x.row := by unfold Ctx.writeG; split <;> rfl
@[simp] theorem Ctx.writeG_mask (x : Ctx) (r : GReg) (v : Word) : (x.writeG r v).mask = x.mask := by unfold Ctx.writeG; split <;> rfl
@[simp] theorem Ctx.writeG_tile (x : Ctx) (r : GReg) (v : Word) : (x.writeG r v).tile = x.tile := by unfold Ctx.writeG; split <;> rfl
@[simp] theorem Ctx.writeG_task (x : Ctx) (r : GReg) (v : Word) : (x.writeG r v).task = x.task := by unfold Ctx.writeG; split <;> rfl
@[simp] theorem Ctx.writeG_round (x : Ctx) (r : GReg) (v : Word) : (x.writeG r v).round = x.round := by unfold Ctx.writeG; split <;> rfl
@[simp] theorem Ctx.writeG_kick (x : Ctx) (r : GReg) (v : Word) : (x.writeG r v).kick = x.kick := by unfold Ctx.writeG; split <;> rfl
@[simp] theorem Ctx.writeG_voted (x : Ctx) (r : GReg) (v : Word) : (x.writeG r v).voted = x.voted := by unfold Ctx.writeG; split <;> rfl
@[simp] theorem Ctx.writeG_met (x : Ctx) (r : GReg) (v : Word) : (x.writeG r v).met = x.met := by unfold Ctx.writeG; split <;> rfl

@[simp] theorem Ctx.wait_g (x : Ctx) (w : Wait) : (x.wait w).g = x.g := by unfold Ctx.wait; split <;> rfl
@[simp] theorem Ctx.wait_v (x : Ctx) (w : Wait) : (x.wait w).v = x.v := by unfold Ctx.wait; split <;> rfl
@[simp] theorem Ctx.wait_k (x : Ctx) (w : Wait) : (x.wait w).k = x.k := by unfold Ctx.wait; split <;> rfl
@[simp] theorem Ctx.wait_h (x : Ctx) (w : Wait) : (x.wait w).h = x.h := by unfold Ctx.wait; split <;> rfl
@[simp] theorem Ctx.wait_seg (x : Ctx) (w : Wait) : (x.wait w).seg = x.seg := by unfold Ctx.wait; split <;> rfl
@[simp] theorem Ctx.wait_pc (x : Ctx) (w : Wait) : (x.wait w).pc = x.pc := by unfold Ctx.wait; split <;> rfl
@[simp] theorem Ctx.wait_loopCount (x : Ctx) (w : Wait) : (x.wait w).loopCount = x.loopCount := by unfold Ctx.wait; split <;> rfl
@[simp] theorem Ctx.wait_loopStart (x : Ctx) (w : Wait) : (x.wait w).loopStart = x.loopStart := by unfold Ctx.wait; split <;> rfl
@[simp] theorem Ctx.wait_loopEnd (x : Ctx) (w : Wait) : (x.wait w).loopEnd = x.loopEnd := by unfold Ctx.wait; split <;> rfl
@[simp] theorem Ctx.wait_pinned (x : Ctx) (w : Wait) : (x.wait w).pinned = x.pinned := by unfold Ctx.wait; split <;> rfl
@[simp] theorem Ctx.wait_loopBuf (x : Ctx) (w : Wait) : (x.wait w).loopBuf = x.loopBuf := by unfold Ctx.wait; split <;> rfl
@[simp] theorem Ctx.wait_fetchBuf (x : Ctx) (w : Wait) : (x.wait w).fetchBuf = x.fetchBuf := by unfold Ctx.wait; split <;> rfl
@[simp] theorem Ctx.wait_ir (x : Ctx) (w : Wait) : (x.wait w).ir = x.ir := by unfold Ctx.wait; split <;> rfl
@[simp] theorem Ctx.wait_cstat (x : Ctx) (w : Wait) : (x.wait w).cstat = x.cstat := by unfold Ctx.wait; split <;> rfl
@[simp] theorem Ctx.wait_bps (x : Ctx) (w : Wait) : (x.wait w).bps = x.bps := by unfold Ctx.wait; split <;> rfl
@[simp] theorem Ctx.wait_nlt (x : Ctx) (w : Wait) : (x.wait w).nlt = x.nlt := by unfold Ctx.wait; split <;> rfl
@[simp] theorem Ctx.wait_gbt (x : Ctx) (w : Wait) : (x.wait w).gbt = x.gbt := by unfold Ctx.wait; split <;> rfl
@[simp] theorem Ctx.wait_da (x : Ctx) (w : Wait) : (x.wait w).da = x.da := by unfold Ctx.wait; split <;> rfl
@[simp] theorem Ctx.wait_hl (x : Ctx) (w : Wait) : (x.wait w).hl = x.hl := by unfold Ctx.wait; split <;> rfl
@[simp] theorem Ctx.wait_lap (x : Ctx) (w : Wait) : (x.wait w).lap = x.lap := by unfold Ctx.wait; split <;> rfl
@[simp] theorem Ctx.wait_bpArmed (x : Ctx) (w : Wait) : (x.wait w).bpArmed = x.bpArmed := by unfold Ctx.wait; split <;> rfl
@[simp] theorem Ctx.wait_cfemask (x : Ctx) (w : Wait) : (x.wait w).cfemask = x.cfemask := by unfold Ctx.wait; split <;> rfl
@[simp] theorem Ctx.wait_cwlim (x : Ctx) (w : Wait) : (x.wait w).cwlim = x.cwlim := by unfold Ctx.wait; split <;> rfl
@[simp] theorem Ctx.wait_ctrap (x : Ctx) (w : Wait) : (x.wait w).ctrap = x.ctrap := by unfold Ctx.wait; split <;> rfl
@[simp] theorem Ctx.wait_cepc (x : Ctx) (w : Wait) : (x.wait w).cepc = x.cepc := by unfold Ctx.wait; split <;> rfl
@[simp] theorem Ctx.wait_ceaddr (x : Ctx) (w : Wait) : (x.wait w).ceaddr = x.ceaddr := by unfold Ctx.wait; split <;> rfl
@[simp] theorem Ctx.wait_cvec (x : Ctx) (w : Wait) : (x.wait w).cvec = x.cvec := by unfold Ctx.wait; split <;> rfl
@[simp] theorem Ctx.wait_cword (x : Ctx) (w : Wait) : (x.wait w).cword = x.cword := by unfold Ctx.wait; split <;> rfl
@[simp] theorem Ctx.wait_cquota (x : Ctx) (w : Wait) : (x.wait w).cquota = x.cquota := by unfold Ctx.wait; split <;> rfl
@[simp] theorem Ctx.wait_quota (x : Ctx) (w : Wait) : (x.wait w).quota = x.quota := by unfold Ctx.wait; split <;> rfl
@[simp] theorem Ctx.wait_ovfLen (x : Ctx) (w : Wait) : (x.wait w).ovfLen = x.ovfLen := by unfold Ctx.wait; split <;> rfl
@[simp] theorem Ctx.wait_spillLimit (x : Ctx) (w : Wait) : (x.wait w).spillLimit = x.spillLimit := by unfold Ctx.wait; split <;> rfl
@[simp] theorem Ctx.wait_spillBase (x : Ctx) (w : Wait) : (x.wait w).spillBase = x.spillBase := by unfold Ctx.wait; split <;> rfl
@[simp] theorem Ctx.wait_covf (x : Ctx) (w : Wait) : (x.wait w).covf = x.covf := by unfold Ctx.wait; split <;> rfl
@[simp] theorem Ctx.wait_near (x : Ctx) (w : Wait) : (x.wait w).near = x.near := by unfold Ctx.wait; split <;> rfl
@[simp] theorem Ctx.wait_far (x : Ctx) (w : Wait) : (x.wait w).far = x.far := by unfold Ctx.wait; split <;> rfl
@[simp] theorem Ctx.wait_mem (x : Ctx) (w : Wait) : (x.wait w).mem = x.mem := by unfold Ctx.wait; split <;> rfl
@[simp] theorem Ctx.wait_sendSeq (x : Ctx) (w : Wait) : (x.wait w).sendSeq = x.sendSeq := by unfold Ctx.wait; split <;> rfl
@[simp] theorem Ctx.wait_seen (x : Ctx) (w : Wait) : (x.wait w).seen = x.seen := by unfold Ctx.wait; split <;> rfl
@[simp] theorem Ctx.wait_resv (x : Ctx) (w : Wait) : (x.wait w).resv = x.resv := by unfold Ctx.wait; split <;> rfl
@[simp] theorem Ctx.wait_quotaHeld (x : Ctx) (w : Wait) : (x.wait w).quotaHeld = x.quotaHeld := by unfold Ctx.wait; split <;> rfl
@[simp] theorem Ctx.wait_dbgHalt (x : Ctx) (w : Wait) : (x.wait w).dbgHalt = x.dbgHalt := by unfold Ctx.wait; split <;> rfl
@[simp] theorem Ctx.wait_stepping (x : Ctx) (w : Wait) : (x.wait w).stepping = x.stepping := by unfold Ctx.wait; split <;> rfl
@[simp] theorem Ctx.wait_sealHeld (x : Ctx) (w : Wait) : (x.wait w).sealHeld = x.sealHeld := by unfold Ctx.wait; split <;> rfl
@[simp] theorem Ctx.wait_atSeal (x : Ctx) (w : Wait) : (x.wait w).atSeal = x.atSeal := by unfold Ctx.wait; split <;> rfl
@[simp] theorem Ctx.wait_imprecise (x : Ctx) (w : Wait) : (x.wait w).imprecise = x.imprecise := by unfold Ctx.wait; split <;> rfl
@[simp] theorem Ctx.wait_precise (x : Ctx) (w : Wait) : (x.wait w).precise = x.precise := by unfold Ctx.wait; split <;> rfl
@[simp] theorem Ctx.wait_openBatch (x : Ctx) (w : Wait) : (x.wait w).openBatch = x.openBatch := by unfold Ctx.wait; split <;> rfl
@[simp] theorem Ctx.wait_closed (x : Ctx) (w : Wait) : (x.wait w).closed = x.closed := by unfold Ctx.wait; split <;> rfl
@[simp] theorem Ctx.wait_nextBatch (x : Ctx) (w : Wait) : (x.wait w).nextBatch = x.nextBatch := by unfold Ctx.wait; split <;> rfl
@[simp] theorem Ctx.wait_row (x : Ctx) (w : Wait) : (x.wait w).row = x.row := by unfold Ctx.wait; split <;> rfl
@[simp] theorem Ctx.wait_mask (x : Ctx) (w : Wait) : (x.wait w).mask = x.mask := by unfold Ctx.wait; split <;> rfl
@[simp] theorem Ctx.wait_tile (x : Ctx) (w : Wait) : (x.wait w).tile = x.tile := by unfold Ctx.wait; split <;> rfl
@[simp] theorem Ctx.wait_task (x : Ctx) (w : Wait) : (x.wait w).task = x.task := by unfold Ctx.wait; split <;> rfl
@[simp] theorem Ctx.wait_round (x : Ctx) (w : Wait) : (x.wait w).round = x.round := by unfold Ctx.wait; split <;> rfl
@[simp] theorem Ctx.wait_kick (x : Ctx) (w : Wait) : (x.wait w).kick = x.kick := by unfold Ctx.wait; split <;> rfl
@[simp] theorem Ctx.wait_voted (x : Ctx) (w : Wait) : (x.wait w).voted = x.voted := by unfold Ctx.wait; split <;> rfl
@[simp] theorem Ctx.wait_met (x : Ctx) (w : Wait) : (x.wait w).met = x.met := by unfold Ctx.wait; split <;> rfl

@[simp] theorem Ctx.writeV_readG (x : Ctx) (r : VReg) (v : VWord) (q : GReg) : (x.writeV r v).readG q = x.readG q := rfl
@[simp] theorem Ctx.writeK_readG (x : Ctx) (r : KReg) (v : Word) (q : GReg) : (x.writeK r v).readG q = x.readG q := rfl
@[simp] theorem Ctx.writeH_readG (x : Ctx) (r : HReg) (v : BitVec 16) (q : GReg) : (x.writeH r v).readG q = x.readG q := rfl
@[simp] theorem Ctx.writeSeg_readG (x : Ctx) (r : SReg) (v : Seg) (q : GReg) : (x.writeSeg r v).readG q = x.readG q := rfl
@[simp] theorem Ctx.advance_readG (x : Ctx) (n : Nat) (q : GReg) : (x.advance n).readG q = x.readG q := rfl
@[simp] theorem Ctx.goto_readG (x : Ctx) (t : Word) (q : GReg) : (x.goto t).readG q = x.readG q := rfl
@[simp] theorem Ctx.repin_readG (x : Ctx) (q : GReg) : (x.repin).readG q = x.readG q := rfl
@[simp] theorem Ctx.raise_readG (x : Ctx) (f : Flags) (q : GReg) : (x.raise f).readG q = x.readG q := rfl
@[simp] theorem Ctx.enterHandler_readG (x : Ctx) (q : GReg) : (x.enterHandler).readG q = x.readG q := rfl
@[simp] theorem Ctx.trapCsrs_readG (x : Ctx) (c : BitVec 8) (e p : Word) (w : List (BitVec 32)) (q : GReg) : (x.trapCsrs c e p w).readG q = x.readG q := rfl
@[simp] theorem Ctx.wait_readG (x : Ctx) (w : Wait) (q : GReg) : (x.wait w).readG q = x.readG q := by unfold Ctx.wait; split <;> rfl
@[simp] theorem Ctx.writeK_readV (x : Ctx) (r : KReg) (v : Word) (q : VReg) : (x.writeK r v).readV q = x.readV q := rfl
@[simp] theorem Ctx.writeH_readV (x : Ctx) (r : HReg) (v : BitVec 16) (q : VReg) : (x.writeH r v).readV q = x.readV q := rfl
@[simp] theorem Ctx.writeSeg_readV (x : Ctx) (r : SReg) (v : Seg) (q : VReg) : (x.writeSeg r v).readV q = x.readV q := rfl
@[simp] theorem Ctx.advance_readV (x : Ctx) (n : Nat) (q : VReg) : (x.advance n).readV q = x.readV q := rfl
@[simp] theorem Ctx.goto_readV (x : Ctx) (t : Word) (q : VReg) : (x.goto t).readV q = x.readV q := rfl
@[simp] theorem Ctx.repin_readV (x : Ctx) (q : VReg) : (x.repin).readV q = x.readV q := rfl
@[simp] theorem Ctx.raise_readV (x : Ctx) (f : Flags) (q : VReg) : (x.raise f).readV q = x.readV q := rfl
@[simp] theorem Ctx.enterHandler_readV (x : Ctx) (q : VReg) : (x.enterHandler).readV q = x.readV q := rfl
@[simp] theorem Ctx.trapCsrs_readV (x : Ctx) (c : BitVec 8) (e p : Word) (w : List (BitVec 32)) (q : VReg) : (x.trapCsrs c e p w).readV q = x.readV q := rfl
@[simp] theorem Ctx.wait_readV (x : Ctx) (w : Wait) (q : VReg) : (x.wait w).readV q = x.readV q := by unfold Ctx.wait; split <;> rfl
@[simp] theorem Ctx.writeG_readV (x : Ctx) (r : GReg) (v : Word) (q : VReg) : (x.writeG r v).readV q = x.readV q := by
  unfold Ctx.writeG; split <;> rfl
@[simp] theorem Ctx.writeV_readK (x : Ctx) (r : VReg) (v : VWord) (q : KReg) : (x.writeV r v).readK q = x.readK q := rfl
@[simp] theorem Ctx.writeH_readK (x : Ctx) (r : HReg) (v : BitVec 16) (q : KReg) : (x.writeH r v).readK q = x.readK q := rfl
@[simp] theorem Ctx.writeSeg_readK (x : Ctx) (r : SReg) (v : Seg) (q : KReg) : (x.writeSeg r v).readK q = x.readK q := rfl
@[simp] theorem Ctx.advance_readK (x : Ctx) (n : Nat) (q : KReg) : (x.advance n).readK q = x.readK q := rfl
@[simp] theorem Ctx.goto_readK (x : Ctx) (t : Word) (q : KReg) : (x.goto t).readK q = x.readK q := rfl
@[simp] theorem Ctx.repin_readK (x : Ctx) (q : KReg) : (x.repin).readK q = x.readK q := rfl
@[simp] theorem Ctx.raise_readK (x : Ctx) (f : Flags) (q : KReg) : (x.raise f).readK q = x.readK q := rfl
@[simp] theorem Ctx.enterHandler_readK (x : Ctx) (q : KReg) : (x.enterHandler).readK q = x.readK q := rfl
@[simp] theorem Ctx.trapCsrs_readK (x : Ctx) (c : BitVec 8) (e p : Word) (w : List (BitVec 32)) (q : KReg) : (x.trapCsrs c e p w).readK q = x.readK q := rfl
@[simp] theorem Ctx.wait_readK (x : Ctx) (w : Wait) (q : KReg) : (x.wait w).readK q = x.readK q := by unfold Ctx.wait; split <;> rfl
@[simp] theorem Ctx.writeG_readK (x : Ctx) (r : GReg) (v : Word) (q : KReg) : (x.writeG r v).readK q = x.readK q := by
  unfold Ctx.writeG; split <;> rfl
@[simp] theorem Ctx.writeV_readH (x : Ctx) (r : VReg) (v : VWord) (q : HReg) : (x.writeV r v).readH q = x.readH q := rfl
@[simp] theorem Ctx.writeK_readH (x : Ctx) (r : KReg) (v : Word) (q : HReg) : (x.writeK r v).readH q = x.readH q := rfl
@[simp] theorem Ctx.writeSeg_readH (x : Ctx) (r : SReg) (v : Seg) (q : HReg) : (x.writeSeg r v).readH q = x.readH q := rfl
@[simp] theorem Ctx.advance_readH (x : Ctx) (n : Nat) (q : HReg) : (x.advance n).readH q = x.readH q := rfl
@[simp] theorem Ctx.goto_readH (x : Ctx) (t : Word) (q : HReg) : (x.goto t).readH q = x.readH q := rfl
@[simp] theorem Ctx.repin_readH (x : Ctx) (q : HReg) : (x.repin).readH q = x.readH q := rfl
@[simp] theorem Ctx.raise_readH (x : Ctx) (f : Flags) (q : HReg) : (x.raise f).readH q = x.readH q := rfl
@[simp] theorem Ctx.enterHandler_readH (x : Ctx) (q : HReg) : (x.enterHandler).readH q = x.readH q := rfl
@[simp] theorem Ctx.trapCsrs_readH (x : Ctx) (c : BitVec 8) (e p : Word) (w : List (BitVec 32)) (q : HReg) : (x.trapCsrs c e p w).readH q = x.readH q := rfl
@[simp] theorem Ctx.wait_readH (x : Ctx) (w : Wait) (q : HReg) : (x.wait w).readH q = x.readH q := by unfold Ctx.wait; split <;> rfl
@[simp] theorem Ctx.writeG_readH (x : Ctx) (r : GReg) (v : Word) (q : HReg) : (x.writeG r v).readH q = x.readH q := by
  unfold Ctx.writeG; split <;> rfl
@[simp] theorem Ctx.writeV_readSeg (x : Ctx) (r : VReg) (v : VWord) (q : SReg) : (x.writeV r v).readSeg q = x.readSeg q := rfl
@[simp] theorem Ctx.writeK_readSeg (x : Ctx) (r : KReg) (v : Word) (q : SReg) : (x.writeK r v).readSeg q = x.readSeg q := rfl
@[simp] theorem Ctx.writeH_readSeg (x : Ctx) (r : HReg) (v : BitVec 16) (q : SReg) : (x.writeH r v).readSeg q = x.readSeg q := rfl
@[simp] theorem Ctx.advance_readSeg (x : Ctx) (n : Nat) (q : SReg) : (x.advance n).readSeg q = x.readSeg q := rfl
@[simp] theorem Ctx.goto_readSeg (x : Ctx) (t : Word) (q : SReg) : (x.goto t).readSeg q = x.readSeg q := rfl
@[simp] theorem Ctx.repin_readSeg (x : Ctx) (q : SReg) : (x.repin).readSeg q = x.readSeg q := rfl
@[simp] theorem Ctx.raise_readSeg (x : Ctx) (f : Flags) (q : SReg) : (x.raise f).readSeg q = x.readSeg q := rfl
@[simp] theorem Ctx.enterHandler_readSeg (x : Ctx) (q : SReg) : (x.enterHandler).readSeg q = x.readSeg q := rfl
@[simp] theorem Ctx.trapCsrs_readSeg (x : Ctx) (c : BitVec 8) (e p : Word) (w : List (BitVec 32)) (q : SReg) : (x.trapCsrs c e p w).readSeg q = x.readSeg q := rfl
@[simp] theorem Ctx.wait_readSeg (x : Ctx) (w : Wait) (q : SReg) : (x.wait w).readSeg q = x.readSeg q := by unfold Ctx.wait; split <;> rfl
@[simp] theorem Ctx.writeG_readSeg (x : Ctx) (r : GReg) (v : Word) (q : SReg) : (x.writeG r v).readSeg q = x.readSeg q := by
  unfold Ctx.writeG; split <;> rfl

@[simp] theorem Ctx.advance_pc (x : Ctx) (n : Nat) : (x.advance n).pc = x.pc + BitVec.ofNat 64 n := rfl
@[simp] theorem Ctx.advance_run (x : Ctx) (n : Nat) : (x.advance n).run = .active := rfl
@[simp] theorem Ctx.advance_kick (x : Ctx) (n : Nat) : (x.advance n).kick = none := rfl
@[simp] theorem Ctx.goto_pc (x : Ctx) (t : Word) : (x.goto t).pc = t := rfl
@[simp] theorem Ctx.goto_run (x : Ctx) (t : Word) : (x.goto t).run = .active := rfl
@[simp] theorem Ctx.goto_pinned (x : Ctx) (t : Word) : (x.goto t).pinned = false := rfl
@[simp] theorem Ctx.raise_cstat (x : Ctx) (f : Flags) : (x.raise f).cstat = x.cstat ||| f := rfl
@[simp] theorem Ctx.enterHandler_hl (x : Ctx) : x.enterHandler.hl = true := rfl
@[simp] theorem Ctx.enterHandler_pc (x : Ctx) : x.enterHandler.pc = x.cvec ++ 0#2 := rfl
@[simp] theorem Ctx.enterHandler_run (x : Ctx) : x.enterHandler.run = .active := rfl
@[simp] theorem Ctx.trapCsrs_ctrap (x : Ctx) (c : BitVec 8) (e p : Word) (w : List (BitVec 32)) : (x.trapCsrs c e p w).ctrap = c := rfl
@[simp] theorem Ctx.trapCsrs_ceaddr (x : Ctx) (c : BitVec 8) (e p : Word) (w : List (BitVec 32)) : (x.trapCsrs c e p w).ceaddr = e := rfl
@[simp] theorem Ctx.trapCsrs_cepc (x : Ctx) (c : BitVec 8) (e p : Word) (w : List (BitVec 32)) :
    (x.trapCsrs c e p w).cepc = p.extractLsb' 2 62 := rfl
@[simp] theorem Ctx.trapCsrs_cword (x : Ctx) (c : BitVec 8) (e p : Word) (w : List (BitVec 32)) :
    (x.trapCsrs c e p w).cword = cwordsOf w := rfl
theorem Ctx.wait_run (x : Ctx) (w : Wait) : (x.wait w).run = .waiting w := by
  unfold Ctx.wait
  split
  · assumption
  · rfl

end Sys2Proof.Machine
end

