-- ==== Sys2Proof/Laws/Ops.lean ====
section
/-! SUPPORT. One law per shared operation: all that it can do, in the words of Safety. -/

namespace Sys2Proof.Machine

open Sys2Proof.Safety

/-- The general registers after a write to one of them. -/
theorem writeG_reads (x : Ctx) (d : GReg) (v : Word) :
    ∃ g, x.writeG d v = { x with g := g } ∧ ∀ r, Ctx.readG { x with g := g } r = if r = d ∧ r ≠ 0 then v else x.readG r := by
  refine ⟨(x.writeG d v).g, ?_, fun r => ?_⟩
  · unfold Ctx.writeG; split <;> rfl
  · have h : ({ x with g := (x.writeG d v).g } : Ctx).readG r = (x.writeG d v).readG r := rfl
    rw [h, Ctx.readG_writeG]
    by_cases e : r = d <;> simp_all

/-- Writing a general register and going on. -/
theorem setG_wrote (s : State) (bytes : Nat) (d : GReg) (v : Word) : WroteG s (s.done bytes (·.writeG d v)) bytes d v := by
  obtain ⟨g, h, hr⟩ := writeG_reads s.me d v
  refine ⟨g, ?_, hr⟩
  change s.setCtx s.cur ((s.me.writeG d v).advance bytes) = _
  rw [h]; rfl

/-- A register instruction answers by writing its result. -/
theorem computes_of_setG {i : Instr} {s : State} {bytes : Nat} {d : GReg} {v : Word} (h : exec i s = s.setG bytes d v) :
    Computes i s bytes d v := ⟨_, h, setG_wrote ..⟩

/-- With no enabled flag among those raised, `finish` writes and raises. -/
theorem finish_clear {s : State} {bytes : Nat} {f : Flags} {w : Ctx → Ctx} (h : f &&& s.me.enabled = 0) :
    s.finish bytes f w = .next (s.done bytes fun x => (w x).raise f) := if_pos h

/-- With an enabled flag among those raised, `finish` takes the FP exception. -/
theorem finish_enabled {s : State} {bytes : Nat} {f : Flags} {w : Ctx → Ctx} (h : f &&& s.me.enabled ≠ 0) :
    s.finish bytes f w = .next ((s.modMe (·.raise f)).trap causeFp (f.setWidth 64) s.me.pc) := if_neg h

theorem finishG_wrote (s : State) (bytes : Nat) (d : GReg) (v : Word) (f : Flags) :
    WroteGFlags s (s.done bytes fun x => (x.writeG d v).raise f) bytes d v f := by
  obtain ⟨g, h, hr⟩ := writeG_reads s.me d v
  refine ⟨g, ?_, hr⟩
  change s.setCtx s.cur (((s.me.writeG d v).raise f).advance bytes) = _
  rw [h]; rfl

theorem finishV_wrote (s : State) (bytes : Nat) (d : VReg) (v : VWord) (f : Flags) :
    WroteVFlags s (s.done bytes fun x => (x.writeV d v).raise f) bytes d v f :=
  ⟨_, rfl, fun q => Ctx.readV_writeV s.me d v q⟩

theorem finishK_wrote (s : State) (bytes : Nat) (d : KReg) (v : Word) (f : Flags) :
    WroteKFlags s (s.done bytes fun x => (x.writeK d v).raise f) bytes d v f :=
  ⟨_, rfl, fun q => Ctx.readK_writeK s.me d v q⟩

theorem done_passed (s : State) (bytes : Nat) : s.done bytes id = passed s bytes := rfl

theorem goto_branched (s : State) (target : Word) : s.modMe (·.goto target) = branched s target := rfl

theorem waits_waits (s : State) (w : Wait) : Waits s (s.waits w) w := by
  by_cases h : s.me.run = .waiting w
  · refine ⟨s.me.waitLaps, s.me.waitLimit, ?_, fun n => absurd h n, fun _ => ⟨rfl, rfl⟩⟩
    change s.setCtx s.cur (s.me.wait w) = _
    rw [Ctx.wait, if_pos h, ← h]
  · refine ⟨0, s.me.cwlim, ?_, fun _ => ⟨rfl, rfl⟩, fun n => absurd n h⟩
    change s.setCtx s.cur (s.me.wait w) = _
    rw [Ctx.wait, if_neg h]

/-! ### Reservations and traps -/

theorem tset_tset {α : Type} [DecidableEq α] (d : α) (m : List (Nat × α)) (k : Nat) (v w : α) :
    tset d (tset d m k v) k w = tset d m k w := by
  have h : ∀ m : List (Nat × α), (∀ x, (k, x) ∉ m) → terase m k = m := by
    intro m
    induction m with
    | nil => intro _; rfl
    | cons e r ih =>
      intro hn
      obtain ⟨k', v'⟩ := e
      have : k' ≠ k := fun e => hn v' (by simp [e])
      simp [terase, this, ih fun x hx => hn x (by simp [hx])]
  have hi : ∀ m : List (Nat × α), (∀ x, (k, x) ∉ m) → terase (tinsert m k v) k = m := by
    intro m
    induction m with
    | nil => intro _; simp [tinsert, terase]
    | cons e r ih =>
      intro hn
      obtain ⟨k', v'⟩ := e
      have hk : k' ≠ k := fun e => hn v' (by simp [e])
      have hr : ∀ x, (k, x) ∉ r := fun x hx => hn x (by simp [hx])
      simp only [tinsert]
      split
      · simp [terase, hk, h r hr]
      · simp [terase, hk, ih hr]
  have e : terase (tset d m k v) k = terase m k := by
    unfold tset
    split
    · exact h _ fun x => terase_not_mem m k x
    · exact hi _ fun x => terase_not_mem m k x
  unfold tset at *
  rw [e]

theorem State.setCtx_setCtx (s : State) (c : CtxId) (x y : Ctx) : (s.setCtx c x).setCtx c y = s.setCtx c y := by
  simp only [State.setCtx, tset_tset]

/-- Losing a reservation changes the context's own and its holder's list, and nothing else. -/
theorem loseResv_spec (s : State) (c : CtxId) (x : Ctx) :
    ∃ u, OnlyResvs s u ∧ (s.loseResv c).setCtx c x = u.setCtx c x ∧ (s.loseResv c).ctx c = { s.ctx c with resv := none } ∧
      (s.loseResv c).cur = s.cur := by
  have same : OnlyResvs s s := ⟨s.cores, s.clusters, rfl, fun c => ⟨_, rfl⟩, fun p => ⟨_, rfl⟩⟩
  unfold State.loseResv
  split
  · next h => exact ⟨s, same, rfl, by rw [← h], rfl⟩
  · dsimp only
    split
    · next core _ =>
      refine ⟨s.modCore core fun k => { k with resvs := k.resvs.filter fun q => q.ctx != c },
        ⟨_, _, rfl, fun d => ?_, fun p => ⟨_, rfl⟩⟩, ?_, ?_, rfl⟩
      · rw [show tget Core.reset (tset Core.reset s.cores core _) d = _ from tget_tset ..]
        split
        · next h => subst h; exact ⟨_, rfl⟩
        · exact ⟨_, rfl⟩
      · exact congrArg (fun m => ({ s.modCore core fun k => { k with resvs := k.resvs.filter fun q => q.ctx != c }
            with ctxs := m } : State)) (tset_tset ..)
      · simp
    · next port _ =>
      refine ⟨s.modCluster port fun k => { k with resvs := k.resvs.filter fun q => q.ctx != c },
        ⟨_, _, rfl, fun d => ⟨_, rfl⟩, fun p => ?_⟩, ?_, ?_, rfl⟩
      · rw [show tget Cluster.reset (tset Cluster.reset s.clusters port _) p = _ from tget_tset ..]
        split
        · next h => subst h; exact ⟨_, rfl⟩
        · exact ⟨_, rfl⟩
      · exact congrArg (fun m => ({ s.modCluster port fun k => { k with resvs := k.resvs.filter fun q => q.ctx != c }
            with ctxs := m } : State)) (tset_tset ..)
      · simp

theorem cwordsOf_get (ws : List (BitVec 32)) (n : Nat) (h : n < 4) : tget 0 (cwordsOf ws) n = ws.getD n 0 := by
  unfold cwordsOf
  simp only [span, List.foldl, tget_tset]
  rcases n with _ | _ | _ | _ | n
  all_goals first | omega | simp

theorem State.modMe_modMe (s : State) (f g : Ctx → Ctx) : (s.modMe f).modMe g = s.modMe fun x => g (f x) := by
  change (s.setCtx s.cur (f s.me)).setCtx s.cur (g ((s.modMe f).me)) = _
  rw [State.setCtx_setCtx, State.me_modMe]
  rfl

/-- A precise trap at task level. -/
theorem trap_trapped {s : State} (h : s.me.hl = false) (cause : BitVec 8) (ceaddr cepc : Word) :
    Trapped s (s.trap cause ceaddr cepc) cause ceaddr cepc := by
  obtain ⟨u, h1, h2, h3, h4⟩ := loseResv_spec s s.cur
    (({ s.me with resv := none }.trapCsrs cause ceaddr cepc s.me.ir).enterHandler)
  refine ⟨u, cwordsOf s.me.ir, h1, fun n hn => cwordsOf_get _ n hn, ?_⟩
  have e : s.trap cause ceaddr cepc =
      (s.loseResv s.cur).modMe fun x => (x.trapCsrs cause ceaddr cepc x.ir).enterHandler := by
    rw [← State.modMe_modMe]
    simp [State.trap, h]
  have hm : ∀ f : Ctx → Ctx, (s.loseResv s.cur).modMe f = (s.loseResv s.cur).setCtx s.cur (f { s.me with resv := none }) := by
    intro f
    change (s.loseResv s.cur).setCtx (s.loseResv s.cur).cur (f ((s.loseResv s.cur).ctx (s.loseResv s.cur).cur)) = _
    rw [h4, h3]; rfl
  rw [e, hm]
  exact h2

/-- A refusal at task level is its trap, with cepc the instruction's own address (R369). -/
theorem refuse_trapped {i : Instr} {s : State} {cause : BitVec 8} {ceaddr : Word} (hl : s.me.hl = false)
    (h : exec i s = s.refuse cause ceaddr) : Traps i s cause ceaddr s.me.pc := ⟨_, h, trap_trapped hl ..⟩

end Sys2Proof.Machine
end

