-- ==== Sys2Proof/Laws/PerInstr.lean ====
section
/-! SUPPORT. A law per constructor of Instr: a well-formed instruction has two to four words (R140); an event has none. -/

namespace Sys2Proof.Laws

/-- A well-formed instruction is two to four words long; an instruction that is not an event of the module has at least two. -/
def Words.Statement (i : Instr) : Prop := Instr.wf i = true → 2 ≤ (encode i).length ∧ (encode i).length ≤ 4

theorem Words.of_length {i : Instr} (n : Nat) (h : (encode i).length = n) (h2 : 2 ≤ n) (h4 : n ≤ 4) : Words.Statement i :=
  fun _ => h ▸ ⟨h2, h4⟩

theorem Words.add (d a b : GReg) : Words.Statement (.add d a b) := Words.of_length 2 rfl (by decide) (by decide)
theorem Words.sub (d a b : GReg) : Words.Statement (.sub d a b) := Words.of_length 2 rfl (by decide) (by decide)
theorem Words.iand (d a b : GReg) : Words.Statement (.iand d a b) := Words.of_length 2 rfl (by decide) (by decide)
theorem Words.ior (d a b : GReg) : Words.Statement (.ior d a b) := Words.of_length 2 rfl (by decide) (by decide)
theorem Words.ixor (d a b : GReg) : Words.Statement (.ixor d a b) := Words.of_length 2 rfl (by decide) (by decide)
theorem Words.shl (d a b : GReg) : Words.Statement (.shl d a b) := Words.of_length 2 rfl (by decide) (by decide)
theorem Words.shr (d a b : GReg) : Words.Statement (.shr d a b) := Words.of_length 2 rfl (by decide) (by decide)
theorem Words.sra (d a b : GReg) : Words.Statement (.sra d a b) := Words.of_length 2 rfl (by decide) (by decide)
theorem Words.rol (d a b : GReg) : Words.Statement (.rol d a b) := Words.of_length 2 rfl (by decide) (by decide)
theorem Words.min (d a b : GReg) : Words.Statement (.min d a b) := Words.of_length 2 rfl (by decide) (by decide)
theorem Words.max (d a b : GReg) : Words.Statement (.max d a b) := Words.of_length 2 rfl (by decide) (by decide)
theorem Words.minn (d a b : GReg) : Words.Statement (.minn d a b) := Words.of_length 2 rfl (by decide) (by decide)
theorem Words.maxn (d a b : GReg) : Words.Statement (.maxn d a b) := Words.of_length 2 rfl (by decide) (by decide)
theorem Words.slt (d a b : GReg) : Words.Statement (.slt d a b) := Words.of_length 2 rfl (by decide) (by decide)
theorem Words.sltn (d a b : GReg) : Words.Statement (.sltn d a b) := Words.of_length 2 rfl (by decide) (by decide)
theorem Words.seq (d a b : GReg) : Words.Statement (.seq d a b) := Words.of_length 2 rfl (by decide) (by decide)
theorem Words.sne (d a b : GReg) : Words.Statement (.sne d a b) := Words.of_length 2 rfl (by decide) (by decide)
theorem Words.addw (d a b : GReg) : Words.Statement (.addw d a b) := Words.of_length 2 rfl (by decide) (by decide)
theorem Words.subw (d a b : GReg) : Words.Statement (.subw d a b) := Words.of_length 2 rfl (by decide) (by decide)
theorem Words.sel (d a b c : GReg) : Words.Statement (.sel d a b c) := Words.of_length 2 rfl (by decide) (by decide)
theorem Words.clz (d a : GReg) : Words.Statement (.clz d a) := Words.of_length 2 rfl (by decide) (by decide)
theorem Words.ctz (d a : GReg) : Words.Statement (.ctz d a) := Words.of_length 2 rfl (by decide) (by decide)
theorem Words.popc (d a : GReg) : Words.Statement (.popc d a) := Words.of_length 2 rfl (by decide) (by decide)
theorem Words.abs (d a : GReg) : Words.Statement (.abs d a) := Words.of_length 2 rfl (by decide) (by decide)
theorem Words.sext (ty : ElemTy) (d a : GReg) : Words.Statement (.sext ty d a) := Words.of_length 2 rfl (by decide) (by decide)
theorem Words.zext (ty : ElemTy) (d a : GReg) : Words.Statement (.zext ty d a) := Words.of_length 2 rfl (by decide) (by decide)
theorem Words.addi (d a : GReg) (imm : BitVec 20) : Words.Statement (.addi d a imm) := Words.of_length 2 rfl (by decide) (by decide)
theorem Words.andi (d a : GReg) (imm : BitVec 20) : Words.Statement (.andi d a imm) := Words.of_length 2 rfl (by decide) (by decide)
theorem Words.ori (d a : GReg) (imm : BitVec 20) : Words.Statement (.ori d a imm) := Words.of_length 2 rfl (by decide) (by decide)
theorem Words.xori (d a : GReg) (imm : BitVec 20) : Words.Statement (.xori d a imm) := Words.of_length 2 rfl (by decide) (by decide)
theorem Words.shli (d a : GReg) (sh : BitVec 6) : Words.Statement (.shli d a sh) := Words.of_length 2 rfl (by decide) (by decide)
theorem Words.shri (d a : GReg) (sh : BitVec 6) : Words.Statement (.shri d a sh) := Words.of_length 2 rfl (by decide) (by decide)
theorem Words.srai (d a : GReg) (sh : BitVec 6) : Words.Statement (.srai d a sh) := Words.of_length 2 rfl (by decide) (by decide)
theorem Words.roli (d a : GReg) (sh : BitVec 6) : Words.Statement (.roli d a sh) := Words.of_length 2 rfl (by decide) (by decide)
theorem Words.slti (d a : GReg) (imm : BitVec 20) : Words.Statement (.slti d a imm) := Words.of_length 2 rfl (by decide) (by decide)
theorem Words.li (d : GReg) (imm : BitVec 20) : Words.Statement (.li d imm) := Words.of_length 2 rfl (by decide) (by decide)
theorem Words.bfx (d a : GReg) (pos w1 : BitVec 6) : Words.Statement (.bfx d a pos w1) := Words.of_length 2 rfl (by decide) (by decide)
theorem Words.bfi (d a : GReg) (pos w1 : BitVec 6) : Words.Statement (.bfi d a pos w1) := Words.of_length 2 rfl (by decide) (by decide)
theorem Words.lil (d : GReg) (imm : BitVec 64) : Words.Statement (.lil d imm) := Words.of_length 4 rfl (by decide) (by decide)
theorem Words.lpc (d : GReg) (disp : BitVec 32) : Words.Statement (.lpc d disp) := Words.of_length 3 rfl (by decide) (by decide)
theorem Words.mul (d a b : GReg) : Words.Statement (.mul d a b) := Words.of_length 2 rfl (by decide) (by decide)
theorem Words.mulh (d a b : GReg) : Words.Statement (.mulh d a b) := Words.of_length 2 rfl (by decide) (by decide)
theorem Words.mulhn (d a b : GReg) : Words.Statement (.mulhn d a b) := Words.of_length 2 rfl (by decide) (by decide)
theorem Words.mulw (d a b : GReg) : Words.Statement (.mulw d a b) := Words.of_length 2 rfl (by decide) (by decide)
theorem Words.mad (d a b c : GReg) : Words.Statement (.mad d a b c) := Words.of_length 2 rfl (by decide) (by decide)
theorem Words.div (d a b : GReg) : Words.Statement (.div d a b) := Words.of_length 2 rfl (by decide) (by decide)
theorem Words.divn (d a b : GReg) : Words.Statement (.divn d a b) := Words.of_length 2 rfl (by decide) (by decide)
theorem Words.rem (d a b : GReg) : Words.Statement (.rem d a b) := Words.of_length 2 rfl (by decide) (by decide)
theorem Words.remn (d a b : GReg) : Words.Statement (.remn d a b) := Words.of_length 2 rfl (by decide) (by decide)
theorem Words.fadd (d a b : GReg) : Words.Statement (.fadd d a b) := Words.of_length 2 rfl (by decide) (by decide)
theorem Words.fsub (d a b : GReg) : Words.Statement (.fsub d a b) := Words.of_length 2 rfl (by decide) (by decide)
theorem Words.fmul (d a b : GReg) : Words.Statement (.fmul d a b) := Words.of_length 2 rfl (by decide) (by decide)
theorem Words.ffma (d a b c : GReg) : Words.Statement (.ffma d a b c) := Words.of_length 2 rfl (by decide) (by decide)
theorem Words.fmin (d a b : GReg) : Words.Statement (.fmin d a b) := Words.of_length 2 rfl (by decide) (by decide)
theorem Words.fmax (d a b : GReg) : Words.Statement (.fmax d a b) := Words.of_length 2 rfl (by decide) (by decide)
theorem Words.feq (d a b : GReg) : Words.Statement (.feq d a b) := Words.of_length 2 rfl (by decide) (by decide)
theorem Words.flt (d a b : GReg) : Words.Statement (.flt d a b) := Words.of_length 2 rfl (by decide) (by decide)
theorem Words.fle (d a b : GReg) : Words.Statement (.fle d a b) := Words.of_length 2 rfl (by decide) (by decide)
theorem Words.fcvti (ty : ElemTy) (d a : GReg) : Words.Statement (.fcvti ty d a) := Words.of_length 2 rfl (by decide) (by decide)
theorem Words.fcvtf (ty : ElemTy) (d a : GReg) : Words.Statement (.fcvtf ty d a) := Words.of_length 2 rfl (by decide) (by decide)
theorem Words.fclass (d a : GReg) : Words.Statement (.fclass d a) := Words.of_length 2 rfl (by decide) (by decide)
theorem Words.fdiv (d a b : GReg) : Words.Statement (.fdiv d a b) := Words.of_length 2 rfl (by decide) (by decide)
theorem Words.fsqrt (d a : GReg) : Words.Statement (.fsqrt d a) := Words.of_length 2 rfl (by decide) (by decide)
theorem Words.br (disp : BitVec 32) : Words.Statement (.br disp) := Words.of_length 3 rfl (by decide) (by decide)
theorem Words.brl (d : GReg) (disp : BitVec 32) : Words.Statement (.brl d disp) := Words.of_length 3 rfl (by decide) (by decide)
theorem Words.beq (a b : GReg) (disp : BitVec 32) : Words.Statement (.beq a b disp) := Words.of_length 3 rfl (by decide) (by decide)
theorem Words.bne (a b : GReg) (disp : BitVec 32) : Words.Statement (.bne a b disp) := Words.of_length 3 rfl (by decide) (by decide)
theorem Words.blt (a b : GReg) (disp : BitVec 32) : Words.Statement (.blt a b disp) := Words.of_length 3 rfl (by decide) (by decide)
theorem Words.bge (a b : GReg) (disp : BitVec 32) : Words.Statement (.bge a b disp) := Words.of_length 3 rfl (by decide) (by decide)
theorem Words.bltn (a b : GReg) (disp : BitVec 32) : Words.Statement (.bltn a b disp) := Words.of_length 3 rfl (by decide) (by decide)
theorem Words.bgen (a b : GReg) (disp : BitVec 32) : Words.Statement (.bgen a b disp) := Words.of_length 3 rfl (by decide) (by decide)
theorem Words.jr (a : GReg) : Words.Statement (.jr a) := Words.of_length 2 rfl (by decide) (by decide)
theorem Words.jrl (d a : GReg) : Words.Statement (.jrl d a) := Words.of_length 2 rfl (by decide) (by decide)
theorem Words.loop (a : GReg) (disp : BitVec 32) : Words.Statement (.loop a disp) := Words.of_length 3 rfl (by decide) (by decide)
theorem Words.loopi (cnt : BitVec 25) (disp : BitVec 32) : Words.Statement (.loopi cnt disp) := Words.of_length 3 rfl (by decide) (by decide)
theorem Words.nop : Words.Statement (.nop) := Words.of_length 2 rfl (by decide) (by decide)
theorem Words.yield : Words.Statement (.yield) := Words.of_length 2 rfl (by decide) (by decide)
theorem Words.tend : Words.Statement (.tend) := Words.of_length 2 rfl (by decide) (by decide)
theorem Words.ldb (d : GReg) (m : MemAddr) (off : BitVec 12) : Words.Statement (.ldb d m off) := Words.of_length 2 rfl (by decide) (by decide)
theorem Words.ldbn (d : GReg) (m : MemAddr) (off : BitVec 12) : Words.Statement (.ldbn d m off) := Words.of_length 2 rfl (by decide) (by decide)
theorem Words.ldh (d : GReg) (m : MemAddr) (off : BitVec 12) : Words.Statement (.ldh d m off) := Words.of_length 2 rfl (by decide) (by decide)
theorem Words.ldhn (d : GReg) (m : MemAddr) (off : BitVec 12) : Words.Statement (.ldhn d m off) := Words.of_length 2 rfl (by decide) (by decide)
theorem Words.ldw (d : GReg) (m : MemAddr) (off : BitVec 12) : Words.Statement (.ldw d m off) := Words.of_length 2 rfl (by decide) (by decide)
theorem Words.ldwn (d : GReg) (m : MemAddr) (off : BitVec 12) : Words.Statement (.ldwn d m off) := Words.of_length 2 rfl (by decide) (by decide)
theorem Words.ldd (d : GReg) (m : MemAddr) (off : BitVec 12) : Words.Statement (.ldd d m off) := Words.of_length 2 rfl (by decide) (by decide)
theorem Words.ldg (d : GReg) (m : MemAddr) (off : BitVec 12) : Words.Statement (.ldg d m off) := Words.of_length 2 rfl (by decide) (by decide)
theorem Words.ldv (d : VReg) (m : MemAddr) (off : BitVec 12) : Words.Statement (.ldv d m off) := Words.of_length 2 rfl (by decide) (by decide)
theorem Words.ldbF96m (d : GReg) (m : MemAddr) (off : BitVec 40) : Words.Statement (.ldbF96m d m off) := Words.of_length 3 rfl (by decide) (by decide)
theorem Words.ldbnF96m (d : GReg) (m : MemAddr) (off : BitVec 40) : Words.Statement (.ldbnF96m d m off) := Words.of_length 3 rfl (by decide) (by decide)
theorem Words.ldhF96m (d : GReg) (m : MemAddr) (off : BitVec 40) : Words.Statement (.ldhF96m d m off) := Words.of_length 3 rfl (by decide) (by decide)
theorem Words.ldhnF96m (d : GReg) (m : MemAddr) (off : BitVec 40) : Words.Statement (.ldhnF96m d m off) := Words.of_length 3 rfl (by decide) (by decide)
theorem Words.ldwF96m (d : GReg) (m : MemAddr) (off : BitVec 40) : Words.Statement (.ldwF96m d m off) := Words.of_length 3 rfl (by decide) (by decide)
theorem Words.ldwnF96m (d : GReg) (m : MemAddr) (off : BitVec 40) : Words.Statement (.ldwnF96m d m off) := Words.of_length 3 rfl (by decide) (by decide)
theorem Words.lddF96m (d : GReg) (m : MemAddr) (off : BitVec 40) : Words.Statement (.lddF96m d m off) := Words.of_length 3 rfl (by decide) (by decide)
theorem Words.ldgF96m (d : GReg) (m : MemAddr) (off : BitVec 40) : Words.Statement (.ldgF96m d m off) := Words.of_length 3 rfl (by decide) (by decide)
theorem Words.ldvF96m (d : VReg) (m : MemAddr) (off : BitVec 40) : Words.Statement (.ldvF96m d m off) := Words.of_length 3 rfl (by decide) (by decide)
theorem Words.stb (d : GReg) (m : MemAddr) (off : BitVec 12) : Words.Statement (.stb d m off) := Words.of_length 2 rfl (by decide) (by decide)
theorem Words.sth (d : GReg) (m : MemAddr) (off : BitVec 12) : Words.Statement (.sth d m off) := Words.of_length 2 rfl (by decide) (by decide)
theorem Words.stw (d : GReg) (m : MemAddr) (off : BitVec 12) : Words.Statement (.stw d m off) := Words.of_length 2 rfl (by decide) (by decide)
theorem Words.std (d : GReg) (m : MemAddr) (off : BitVec 12) : Words.Statement (.std d m off) := Words.of_length 2 rfl (by decide) (by decide)
theorem Words.stg (d : GReg) (m : MemAddr) (off : BitVec 12) : Words.Statement (.stg d m off) := Words.of_length 2 rfl (by decide) (by decide)
theorem Words.stv (d : VReg) (m : MemAddr) (off : BitVec 12) : Words.Statement (.stv d m off) := Words.of_length 2 rfl (by decide) (by decide)
theorem Words.stbF96m (d : GReg) (m : MemAddr) (off : BitVec 40) : Words.Statement (.stbF96m d m off) := Words.of_length 3 rfl (by decide) (by decide)
theorem Words.sthF96m (d : GReg) (m : MemAddr) (off : BitVec 40) : Words.Statement (.sthF96m d m off) := Words.of_length 3 rfl (by decide) (by decide)
theorem Words.stwF96m (d : GReg) (m : MemAddr) (off : BitVec 40) : Words.Statement (.stwF96m d m off) := Words.of_length 3 rfl (by decide) (by decide)
theorem Words.stdF96m (d : GReg) (m : MemAddr) (off : BitVec 40) : Words.Statement (.stdF96m d m off) := Words.of_length 3 rfl (by decide) (by decide)
theorem Words.stgF96m (d : GReg) (m : MemAddr) (off : BitVec 40) : Words.Statement (.stgF96m d m off) := Words.of_length 3 rfl (by decide) (by decide)
theorem Words.stvF96m (d : VReg) (m : MemAddr) (off : BitVec 40) : Words.Statement (.stvF96m d m off) := Words.of_length 3 rfl (by decide) (by decide)
theorem Words.lr (d : GReg) (m : MemAddr) (off : BitVec 12) : Words.Statement (.lr d m off) := Words.of_length 2 rfl (by decide) (by decide)
theorem Words.sc (d b : GReg) (m : MemAddr) (off : BitVec 12) : Words.Statement (.sc d b m off) := Words.of_length 2 rfl (by decide) (by decide)
theorem Words.amoadd (d b : GReg) (dd : Bool) (m : MemAddr) (off : BitVec 12) : Words.Statement (.amoadd d b dd m off) := Words.of_length 2 rfl (by decide) (by decide)
theorem Words.amoand (d b : GReg) (dd : Bool) (m : MemAddr) (off : BitVec 12) : Words.Statement (.amoand d b dd m off) := Words.of_length 2 rfl (by decide) (by decide)
theorem Words.amoor (d b : GReg) (dd : Bool) (m : MemAddr) (off : BitVec 12) : Words.Statement (.amoor d b dd m off) := Words.of_length 2 rfl (by decide) (by decide)
theorem Words.amoxor (d b : GReg) (dd : Bool) (m : MemAddr) (off : BitVec 12) : Words.Statement (.amoxor d b dd m off) := Words.of_length 2 rfl (by decide) (by decide)
theorem Words.amomin (d b : GReg) (dd : Bool) (m : MemAddr) (off : BitVec 12) : Words.Statement (.amomin d b dd m off) := Words.of_length 2 rfl (by decide) (by decide)
theorem Words.amomax (d b : GReg) (dd : Bool) (m : MemAddr) (off : BitVec 12) : Words.Statement (.amomax d b dd m off) := Words.of_length 2 rfl (by decide) (by decide)
theorem Words.amominn (d b : GReg) (dd : Bool) (m : MemAddr) (off : BitVec 12) : Words.Statement (.amominn d b dd m off) := Words.of_length 2 rfl (by decide) (by decide)
theorem Words.amomaxn (d b : GReg) (dd : Bool) (m : MemAddr) (off : BitVec 12) : Words.Statement (.amomaxn d b dd m off) := Words.of_length 2 rfl (by decide) (by decide)
theorem Words.amoswp (d b : GReg) (dd : Bool) (m : MemAddr) (off : BitVec 12) : Words.Statement (.amoswp d b dd m off) := Words.of_length 2 rfl (by decide) (by decide)
theorem Words.amocas (d b : GReg) (dd : Bool) (m : MemAddr) (off : BitVec 12) : Words.Statement (.amocas d b dd m off) := Words.of_length 2 rfl (by decide) (by decide)
theorem Words.amofadd (d b : GReg) (dd : Bool) (m : MemAddr) (off : BitVec 12) : Words.Statement (.amofadd d b dd m off) := Words.of_length 2 rfl (by decide) (by decide)
theorem Words.lrF96m (d : GReg) (m : MemAddr) (off : BitVec 40) : Words.Statement (.lrF96m d m off) := Words.of_length 3 rfl (by decide) (by decide)
theorem Words.scF96m (d b : GReg) (m : MemAddr) (off : BitVec 40) : Words.Statement (.scF96m d b m off) := Words.of_length 3 rfl (by decide) (by decide)
theorem Words.amoaddF96m (d b : GReg) (dd : Bool) (m : MemAddr) (off : BitVec 40) : Words.Statement (.amoaddF96m d b dd m off) := Words.of_length 3 rfl (by decide) (by decide)
theorem Words.amoandF96m (d b : GReg) (dd : Bool) (m : MemAddr) (off : BitVec 40) : Words.Statement (.amoandF96m d b dd m off) := Words.of_length 3 rfl (by decide) (by decide)
theorem Words.amoorF96m (d b : GReg) (dd : Bool) (m : MemAddr) (off : BitVec 40) : Words.Statement (.amoorF96m d b dd m off) := Words.of_length 3 rfl (by decide) (by decide)
theorem Words.amoxorF96m (d b : GReg) (dd : Bool) (m : MemAddr) (off : BitVec 40) : Words.Statement (.amoxorF96m d b dd m off) := Words.of_length 3 rfl (by decide) (by decide)
theorem Words.amominF96m (d b : GReg) (dd : Bool) (m : MemAddr) (off : BitVec 40) : Words.Statement (.amominF96m d b dd m off) := Words.of_length 3 rfl (by decide) (by decide)
theorem Words.amomaxF96m (d b : GReg) (dd : Bool) (m : MemAddr) (off : BitVec 40) : Words.Statement (.amomaxF96m d b dd m off) := Words.of_length 3 rfl (by decide) (by decide)
theorem Words.amominnF96m (d b : GReg) (dd : Bool) (m : MemAddr) (off : BitVec 40) : Words.Statement (.amominnF96m d b dd m off) := Words.of_length 3 rfl (by decide) (by decide)
theorem Words.amomaxnF96m (d b : GReg) (dd : Bool) (m : MemAddr) (off : BitVec 40) : Words.Statement (.amomaxnF96m d b dd m off) := Words.of_length 3 rfl (by decide) (by decide)
theorem Words.amoswpF96m (d b : GReg) (dd : Bool) (m : MemAddr) (off : BitVec 40) : Words.Statement (.amoswpF96m d b dd m off) := Words.of_length 3 rfl (by decide) (by decide)
theorem Words.amocasF96m (d b : GReg) (dd : Bool) (m : MemAddr) (off : BitVec 40) : Words.Statement (.amocasF96m d b dd m off) := Words.of_length 3 rfl (by decide) (by decide)
theorem Words.amofaddF96m (d b : GReg) (dd : Bool) (m : MemAddr) (off : BitVec 40) : Words.Statement (.amofaddF96m d b dd m off) := Words.of_length 3 rfl (by decide) (by decide)
theorem Words.rndclose : Words.Statement (.rndclose) := Words.of_length 2 rfl (by decide) (by decide)
theorem Words.fence (scope : FenceScope) : Words.Statement (.fence scope) := Words.of_length 2 rfl (by decide) (by decide)
theorem Words.waitrs : Words.Statement (.waitrs) := Words.of_length 2 rfl (by decide) (by decide)
theorem Words.waitc (mask : BitVec 3) : Words.Statement (.waitc mask) := Words.of_length 2 rfl (by decide) (by decide)
theorem Words.mbinc (i : BitVec 8) (v : BitVec 16) : Words.Statement (.mbinc i v) := Words.of_length 2 rfl (by decide) (by decide)
theorem Words.mbincRemote (i : BitVec 8) (v : BitVec 16) (a : GReg) : Words.Statement (.mbincRemote i v a) := Words.of_length 2 rfl (by decide) (by decide)
theorem Words.mbwait (i : BitVec 8) (v : BitVec 16) : Words.Statement (.mbwait i v) := Words.of_length 2 rfl (by decide) (by decide)
theorem Words.mbrd (d : GReg) (i : BitVec 8) : Words.Statement (.mbrd d i) := Words.of_length 2 rfl (by decide) (by decide)
theorem Words.mbset (i : BitVec 8) (v : BitVec 16) : Words.Statement (.mbset i v) := Words.of_length 2 rfl (by decide) (by decide)
theorem Words.chsend (d a : GReg) : Words.Statement (.chsend d a) := Words.of_length 2 rfl (by decide) (by decide)
theorem Words.chrecv (d a : GReg) : Words.Statement (.chrecv d a) := Words.of_length 2 rfl (by decide) (by decide)
theorem Words.sendn (d a : GReg) : Words.Statement (.sendn d a) := Words.of_length 2 rfl (by decide) (by decide)
theorem Words.recvn (d a b : GReg) : Words.Statement (.recvn d a b) := Words.of_length 2 rfl (by decide) (by decide)
theorem Words.sqopen (gang : Bool) (d : HReg) (a : GReg) (n : BitVec 24) (b : GReg) : Words.Statement (.sqopen gang d a n b) := Words.of_length 2 rfl (by decide) (by decide)
theorem Words.sqjoin (a : HReg) (b : GReg) : Words.Statement (.sqjoin a b) := Words.of_length 2 rfl (by decide) (by decide)
theorem Words.sqleave (a : HReg) : Words.Statement (.sqleave a) := Words.of_length 2 rfl (by decide) (by decide)
theorem Words.sqclose (d : GReg) (a : HReg) : Words.Statement (.sqclose d a) := Words.of_length 2 rfl (by decide) (by decide)
theorem Words.sqbar (a : HReg) : Words.Statement (.sqbar a) := Words.of_length 2 rfl (by decide) (by decide)
theorem Words.sqarrive (d : GReg) (a : HReg) : Words.Statement (.sqarrive d a) := Words.of_length 2 rfl (by decide) (by decide)
theorem Words.sqwait (a : HReg) : Words.Statement (.sqwait a) := Words.of_length 2 rfl (by decide) (by decide)
theorem Words.sqvote (op : VoteOp) (d : GReg) (a : HReg) (b : GReg) : Words.Statement (.sqvote op d a b) := Words.of_length 2 rfl (by decide) (by decide)
theorem Words.sqred (op : RedOp) (ty : ElemTy) (d : GReg) (a : HReg) (b : GReg) : Words.Statement (.sqred op ty d a b) := Words.of_length 2 rfl (by decide) (by decide)
theorem Words.sqscan (op : RedOp) (ty : ElemTy) (d : GReg) (a : HReg) (b : GReg) : Words.Statement (.sqscan op ty d a b) := Words.of_length 2 rfl (by decide) (by decide)
theorem Words.sqinfo (self : Bool) (d : GReg) (a : HReg) : Words.Statement (.sqinfo self d a) := Words.of_length 2 rfl (by decide) (by decide)
theorem Words.sealpt : Words.Statement (.sealpt) := Words.of_length 2 rfl (by decide) (by decide)
theorem Words.seal : Words.Statement (.seal) := Words.of_length 2 rfl (by decide) (by decide)
theorem Words.splitrd (d : GReg) : Words.Statement (.splitrd d) := Words.of_length 2 rfl (by decide) (by decide)
theorem Words.vadd (ty : ElemTy) (d a b : VReg) (m : Option KReg) : Words.Statement (.vadd ty d a b m) := Words.of_length 2 rfl (by decide) (by decide)
theorem Words.vsub (ty : ElemTy) (d a b : VReg) (m : Option KReg) : Words.Statement (.vsub ty d a b m) := Words.of_length 2 rfl (by decide) (by decide)
theorem Words.vmul (ty : ElemTy) (d a b : VReg) (m : Option KReg) : Words.Statement (.vmul ty d a b m) := Words.of_length 2 rfl (by decide) (by decide)
theorem Words.vfma (ty : ElemTy) (d a b c : VReg) (m : Option KReg) : Words.Statement (.vfma ty d a b c m) := Words.of_length 2 rfl (by decide) (by decide)
theorem Words.vmin (ty : ElemTy) (d a b : VReg) (m : Option KReg) : Words.Statement (.vmin ty d a b m) := Words.of_length 2 rfl (by decide) (by decide)
theorem Words.vmax (ty : ElemTy) (d a b : VReg) (m : Option KReg) : Words.Statement (.vmax ty d a b m) := Words.of_length 2 rfl (by decide) (by decide)
theorem Words.vabs (ty : ElemTy) (d a : VReg) (m : Option KReg) : Words.Statement (.vabs ty d a m) := Words.of_length 2 rfl (by decide) (by decide)
theorem Words.vneg (ty : ElemTy) (d a : VReg) (m : Option KReg) : Words.Statement (.vneg ty d a m) := Words.of_length 2 rfl (by decide) (by decide)
theorem Words.vand (ty : ElemTy) (d a b : VReg) (m : Option KReg) : Words.Statement (.vand ty d a b m) := Words.of_length 2 rfl (by decide) (by decide)
theorem Words.vor (ty : ElemTy) (d a b : VReg) (m : Option KReg) : Words.Statement (.vor ty d a b m) := Words.of_length 2 rfl (by decide) (by decide)
theorem Words.vxor (ty : ElemTy) (d a b : VReg) (m : Option KReg) : Words.Statement (.vxor ty d a b m) := Words.of_length 2 rfl (by decide) (by decide)
theorem Words.vshl (ty : ElemTy) (d a b : VReg) (m : Option KReg) : Words.Statement (.vshl ty d a b m) := Words.of_length 2 rfl (by decide) (by decide)
theorem Words.vshr (ty : ElemTy) (d a b : VReg) (m : Option KReg) : Words.Statement (.vshr ty d a b m) := Words.of_length 2 rfl (by decide) (by decide)
theorem Words.vsra (ty : ElemTy) (d a b : VReg) (m : Option KReg) : Words.Statement (.vsra ty d a b m) := Words.of_length 2 rfl (by decide) (by decide)
theorem Words.vcmp (cond : CmpCond) (ty : ElemTy) (d : KReg) (a b : VReg) (m : Option KReg) : Words.Statement (.vcmp cond ty d a b m) := Words.of_length 2 rfl (by decide) (by decide)
theorem Words.vsel (ty : ElemTy) (d a b : VReg) (c : KReg) : Words.Statement (.vsel ty d a b c) := Words.of_length 2 rfl (by decide) (by decide)
theorem Words.vbcast (ty : ElemTy) (d : VReg) (a : GReg) (m : Option KReg) : Words.Statement (.vbcast ty d a m) := Words.of_length 2 rfl (by decide) (by decide)
theorem Words.vext (ty : ElemTy) (d : GReg) (a : VReg) (b : GReg) : Words.Statement (.vext ty d a b) := Words.of_length 2 rfl (by decide) (by decide)
theorem Words.vins (ty : ElemTy) (d : VReg) (a b : GReg) : Words.Statement (.vins ty d a b) := Words.of_length 2 rfl (by decide) (by decide)
theorem Words.vshuf (ty : ElemTy) (d a b : VReg) (m : Option KReg) : Words.Statement (.vshuf ty d a b m) := Words.of_length 2 rfl (by decide) (by decide)
theorem Words.vred (op : RedOp) (ty : ElemTy) (d : GReg) (a : VReg) (m : Option KReg) : Words.Statement (.vred op ty d a m) := Words.of_length 2 rfl (by decide) (by decide)
theorem Words.vscan (op : RedOp) (ty : ElemTy) (d a : VReg) (m : Option KReg) : Words.Statement (.vscan op ty d a m) := Words.of_length 2 rfl (by decide) (by decide)
theorem Words.vcmprs (ty : ElemTy) (d a : VReg) (m : Option KReg) : Words.Statement (.vcmprs ty d a m) := Words.of_length 2 rfl (by decide) (by decide)
theorem Words.vrcp (ty : ElemTy) (d a : VReg) (m : Option KReg) : Words.Statement (.vrcp ty d a m) := Words.of_length 2 rfl (by decide) (by decide)
theorem Words.vrsq (ty : ElemTy) (d a : VReg) (m : Option KReg) : Words.Statement (.vrsq ty d a m) := Words.of_length 2 rfl (by decide) (by decide)
theorem Words.vex2 (ty : ElemTy) (d a : VReg) (m : Option KReg) : Words.Statement (.vex2 ty d a m) := Words.of_length 2 rfl (by decide) (by decide)
theorem Words.vlg2 (ty : ElemTy) (d a : VReg) (m : Option KReg) : Words.Statement (.vlg2 ty d a m) := Words.of_length 2 rfl (by decide) (by decide)
theorem Words.vldx (d b : VReg) (m : MemAddr) (off : BitVec 12) : Words.Statement (.vldx d b m off) := Words.of_length 2 rfl (by decide) (by decide)
theorem Words.vstx (d b : VReg) (m : MemAddr) (off : BitVec 12) : Words.Statement (.vstx d b m off) := Words.of_length 2 rfl (by decide) (by decide)
theorem Words.kand (d a b : KReg) : Words.Statement (.kand d a b) := Words.of_length 2 rfl (by decide) (by decide)
theorem Words.kor (d a b : KReg) : Words.Statement (.kor d a b) := Words.of_length 2 rfl (by decide) (by decide)
theorem Words.kxor (d a b : KReg) : Words.Statement (.kxor d a b) := Words.of_length 2 rfl (by decide) (by decide)
theorem Words.knot (d a : KReg) : Words.Statement (.knot d a) := Words.of_length 2 rfl (by decide) (by decide)
theorem Words.kmov (f : KMovForm) : Words.Statement (.kmov f) := Words.of_length 2 (by cases f <;> rfl) (by decide) (by decide)
theorem Words.kpop (d : GReg) (a : KReg) : Words.Statement (.kpop d a) := Words.of_length 2 rfl (by decide) (by decide)
theorem Words.kset (d : KReg) (a : GReg) : Words.Statement (.kset d a) := Words.of_length 2 rfl (by decide) (by decide)
theorem Words.vcvt (ty ty2 : ElemTy) (d a : VReg) (m : Option KReg) : Words.Statement (.vcvt ty ty2 d a m) := Words.of_length 2 rfl (by decide) (by decide)
theorem Words.vlog (ty : ElemTy) (d a : VReg) (b : GReg) (m : Option KReg) : Words.Statement (.vlog ty d a b m) := Words.of_length 2 rfl (by decide) (by decide)
theorem Words.vexp (ty : ElemTy) (d a : VReg) (b : GReg) (m : Option KReg) : Words.Statement (.vexp ty d a b m) := Words.of_length 2 rfl (by decide) (by decide)
theorem Words.vemap (op : MapOp) (td ta tb : TIdx) (w : WaitSig) : Words.Statement (.vemap op td ta tb w) := Words.of_length 4 rfl (by decide) (by decide)
theorem Words.vered (op : RedOp) (td ta : TIdx) (w : WaitSig) : Words.Statement (.vered op td ta w) := Words.of_length 4 rfl (by decide) (by decide)
theorem Words.vescan (op : RedOp) (td ta : TIdx) (w : WaitSig) : Words.Statement (.vescan op td ta w) := Words.of_length 4 rfl (by decide) (by decide)
theorem Words.vecvt (td ta : TIdx) (w : WaitSig) : Words.Statement (.vecvt td ta w) := Words.of_length 4 rfl (by decide) (by decide)
theorem Words.tdef (t : TIdx) (a : GReg) (imm : BitVec 20) : Words.Statement (.tdef t a imm) := Words.of_length 2 rfl (by decide) (by decide)
theorem Words.trd (d : GReg) (t : TIdx) (q : Fin 4) : Words.Statement (.trd d t q) := Words.of_length 2 rfl (by decide) (by decide)
theorem Words.tset (field : TField) (t : TIdx) (a : GReg) : Words.Statement (.tset field t a) := Words.of_length 2 rfl (by decide) (by decide)
theorem Words.pclaim (d a : GReg) (i n1 : BitVec 7) : Words.Statement (.pclaim d a i n1) := Words.of_length 2 rfl (by decide) (by decide)
theorem Words.prel (a : GReg) (i n1 : BitVec 7) : Words.Statement (.prel a i n1) := Words.of_length 2 rfl (by decide) (by decide)
theorem Words.qclaim (d a : GReg) (i n1 : BitVec 7) : Words.Statement (.qclaim d a i n1) := Words.of_length 2 rfl (by decide) (by decide)
theorem Words.qrel (a : GReg) (i n1 : BitVec 7) : Words.Statement (.qrel a i n1) := Words.of_length 2 rfl (by decide) (by decide)
theorem Words.mma (shape : MmaShape) (z : Bool) (td ta tb : TIdx) (w : WaitSig) : Words.Statement (.mma shape z td ta tb w) := Words.of_length 4 rfl (by decide) (by decide)
theorem Words.mmag (shape : MmaShape) (z : Bool) (td ta tb : TIdx) (a : GReg) (w : WaitSig) : Words.Statement (.mmag shape z td ta tb a w) := Words.of_length 4 rfl (by decide) (by decide)
theorem Words.qzero (td : TIdx) (w : WaitSig) : Words.Statement (.qzero td w) := Words.of_length 4 rfl (by decide) (by decide)
theorem Words.pload (t : Bool) (td ta : TIdx) (w : WaitSig) : Words.Statement (.pload t td ta w) := Words.of_length 4 rfl (by decide) (by decide)
theorem Words.qld (td ta : TIdx) (w : WaitSig) : Words.Statement (.qld td ta w) := Words.of_length 4 rfl (by decide) (by decide)
theorem Words.qst (td ta : TIdx) (w : WaitSig) : Words.Statement (.qst td ta w) := Words.of_length 4 rfl (by decide) (by decide)
theorem Words.qstl (td ta : TIdx) (w : WaitSig) : Words.Statement (.qstl td ta w) := Words.of_length 4 rfl (by decide) (by decide)
theorem Words.qcvt (op : QcvtOp) (td ta : TIdx) (w : WaitSig) : Words.Statement (.qcvt op td ta w) := Words.of_length 4 rfl (by decide) (by decide)
theorem Words.cpy (td ta : TIdx) (w : WaitSig) : Words.Statement (.cpy td ta w) := Words.of_length 4 rfl (by decide) (by decide)
theorem Words.cpyx (pull rs : Bool) (td ta : TIdx) (a : GReg) (w : WaitSig) : Words.Statement (.cpyx pull rs td ta a w) := Words.of_length 4 rfl (by decide) (by decide)
theorem Words.bclose (scope : FenceScope) (d : GReg) : Words.Statement (.bclose scope d) := Words.of_length 2 rfl (by decide) (by decide)
theorem Words.bwaitRel (n : BitVec 4) : Words.Statement (.bwaitRel n) := Words.of_length 2 rfl (by decide) (by decide)
theorem Words.bwaitLand (n : BitVec 4) : Words.Statement (.bwaitLand n) := Words.of_length 2 rfl (by decide) (by decide)
theorem Words.cstage (d : GReg) (n : BitVec 20) : Words.Statement (.cstage d n) := Words.of_length 2 rfl (by decide) (by decide)
theorem Words.ewait (mask : BitVec 4) : Words.Statement (.ewait mask) := Words.of_length 2 rfl (by decide) (by decide)
theorem Words.creduce (op : RedOp) (h : HReg) (root : GReg) (td ta : TIdx) (w : WaitSig) : Words.Statement (.creduce op h root td ta w) := Words.of_length 4 rfl (by decide) (by decide)
theorem Words.cbcast (h : HReg) (root : GReg) (td ta : TIdx) (w : WaitSig) : Words.Statement (.cbcast h root td ta w) := Words.of_length 4 rfl (by decide) (by decide)
theorem Words.callred (op : RedOp) (h : HReg) (td ta : TIdx) (w : WaitSig) : Words.Statement (.callred op h td ta w) := Words.of_length 4 rfl (by decide) (by decide)
theorem Words.cgather (h : HReg) (td ta : TIdx) (w : WaitSig) : Words.Statement (.cgather h td ta w) := Words.of_length 4 rfl (by decide) (by decide)
theorem Words.csrrd (d : GReg) (csr : Csr) : Words.Statement (.csrrd d csr) := Words.of_length 2 rfl (by decide) (by decide)
theorem Words.csrwr (d : GReg) (csr : Csr) (a : GReg) : Words.Statement (.csrwr d csr a) := Words.of_length 2 rfl (by decide) (by decide)
theorem Words.csrset (d : GReg) (csr : Csr) (a : GReg) : Words.Statement (.csrset d csr a) := Words.of_length 2 rfl (by decide) (by decide)
theorem Words.csrclr (d : GReg) (csr : Csr) (a : GReg) : Words.Statement (.csrclr d csr a) := Words.of_length 2 rfl (by decide) (by decide)
theorem Words.trap (n : BitVec 20) : Words.Statement (.trap n) := Words.of_length 2 rfl (by decide) (by decide)
theorem Words.brk (n : BitVec 20) : Words.Statement (.brk n) := Words.of_length 2 rfl (by decide) (by decide)
theorem Words.halt : Words.Statement (.halt) := Words.of_length 2 rfl (by decide) (by decide)
theorem Words.rte : Words.Statement (.rte) := Words.of_length 2 rfl (by decide) (by decide)
theorem Words.segld (d : SReg) (a b : GReg) : Words.Statement (.segld d a b) := Words.of_length 2 rfl (by decide) (by decide)
theorem Words.segrd (d : GReg) (a : SReg) (q : Bool) : Words.Statement (.segrd d a q) := Words.of_length 2 rfl (by decide) (by decide)
theorem Words.idrd (d : GReg) : Words.Statement (.idrd d) := Words.of_length 2 rfl (by decide) (by decide)
theorem Words.ctxsave (a : GReg) : Words.Statement (.ctxsave a) := Words.of_length 2 rfl (by decide) (by decide)
theorem Words.ctxload (a : GReg) : Words.Statement (.ctxload a) := Words.of_length 2 rfl (by decide) (by decide)
theorem Words.lapStart (core : CoreId) : Words.Statement (.lapStart core) := nofun
theorem Words.sidingOutputReentry (core : CoreId) (siding : Siding) : Words.Statement (.sidingOutputReentry core siding) := nofun
theorem Words.tapeResultInjection (ctx : CtxId) : Words.Statement (.tapeResultInjection ctx) := nofun
theorem Words.instructionRetire (ctx : CtxId) : Words.Statement (.instructionRetire ctx) := nofun
theorem Words.tagFree (ctx : CtxId) : Words.Statement (.tagFree ctx) := nofun
theorem Words.fetchBlockArrival (ctx : CtxId) (block : Nat) : Words.Statement (.fetchBlockArrival ctx block) := nofun
theorem Words.contextRejoin (ctx : CtxId) : Words.Statement (.contextRejoin ctx) := nofun
theorem Words.preciseTrapTaken (ctx : CtxId) : Words.Statement (.preciseTrapTaken ctx) := nofun
theorem Words.impreciseTrapTaken (ctx : CtxId) : Words.Statement (.impreciseTrapTaken ctx) := nofun
theorem Words.discardedWrite (ctx : CtxId) (out : Bool) (addr : BitVec 52) : Words.Statement (.discardedWrite ctx out addr) := nofun
theorem Words.timingReplay (core : CoreId) (stage : Fin 8) : Words.Statement (.timingReplay core stage) := nofun
theorem Words.detectorRateReport (core : CoreId) : Words.Statement (.detectorRateReport core) := nofun
theorem Words.priorityPreemption (core : CoreId) : Words.Statement (.priorityPreemption core) := nofun
theorem Words.coreRestore (core : CoreId) : Words.Statement (.coreRestore core) := nofun
theorem Words.quotaPreemption (ctx : CtxId) : Words.Statement (.quotaPreemption ctx) := nofun
theorem Words.quotaRefill (job : Nat) : Words.Statement (.quotaRefill job) := nofun
theorem Words.debuggerHalt (ctx : CtxId) : Words.Statement (.debuggerHalt ctx) := nofun
theorem Words.debuggerResume (ctx : CtxId) : Words.Statement (.debuggerResume ctx) := nofun
theorem Words.bpaddrWrite (core : CoreId) (n : Fin 4) (v : Word) : Words.Statement (.bpaddrWrite core n v) := nofun
theorem Words.bpctlWrite (core : CoreId) (n : Fin 4) (v : Word) : Words.Statement (.bpctlWrite core n v) := nofun
theorem Words.coreRemap (cluster : ClusterId) (c : Fin 32) (phys : Fin 34) : Words.Statement (.coreRemap cluster c phys) := nofun
theorem Words.coreRetirement (core : CoreId) : Words.Statement (.coreRetirement core) := nofun
theorem Words.remoteWriteArrival (msg : Nat) : Words.Statement (.remoteWriteArrival msg) := nofun
theorem Words.postedStoreAck (msg : Nat) : Words.Statement (.postedStoreAck msg) := nofun
theorem Words.remoteRequestArrival (msg : Nat) : Words.Statement (.remoteRequestArrival msg) := nofun
theorem Words.remoteReplyArrival (msg : Nat) : Words.Statement (.remoteReplyArrival msg) := nofun
theorem Words.homeAccess (msg : Nat) : Words.Statement (.homeAccess msg) := nofun
theorem Words.fullEmptyServe (core : CoreId) (granule : Nat) : Words.Statement (.fullEmptyServe core granule) := nofun
theorem Words.retryNotice (msg : Nat) : Words.Statement (.retryNotice msg) := nofun
theorem Words.granuleArrival (msg : Nat) : Words.Statement (.granuleArrival msg) := nofun
theorem Words.deliveryAck (msg : Nat) : Words.Statement (.deliveryAck msg) := nofun
theorem Words.granuleReturn (msg : Nat) : Words.Statement (.granuleReturn msg) := nofun
theorem Words.refillRefused (msg : Nat) : Words.Statement (.refillRefused msg) := nofun
theorem Words.refillRequest (msg : Nat) : Words.Statement (.refillRequest msg) := nofun
theorem Words.channelRefill (core : CoreId) (record : Nat) : Words.Statement (.channelRefill core record) := nofun
theorem Words.namedMessageArrival (msg : Nat) : Words.Statement (.namedMessageArrival msg) := nofun
theorem Words.deterministicUpdateArrival (msg : Nat) : Words.Statement (.deterministicUpdateArrival msg) := nofun
theorem Words.roundCloseVote (msg : Nat) : Words.Statement (.roundCloseVote msg) := nofun
theorem Words.roundClose (launch : Nat) : Words.Statement (.roundClose launch) := nofun
theorem Words.roundApply (launch : Nat) (port : ClusterId) : Words.Statement (.roundApply launch port) := nofun
theorem Words.roundComplete (launch : Nat) : Words.Statement (.roundComplete launch) := nofun
theorem Words.fenceStampRequest (msg : Nat) : Words.Statement (.fenceStampRequest msg) := nofun
theorem Words.fenceStampReturn (msg : Nat) : Words.Statement (.fenceStampReturn msg) := nofun
theorem Words.squadAnswer (msg : Nat) : Words.Statement (.squadAnswer msg) := nofun
theorem Words.squadMessageArrival (msg : Nat) : Words.Statement (.squadMessageArrival msg) := nofun
theorem Words.generationComplete (handle : BitVec 16) : Words.Statement (.generationComplete handle) := nofun
theorem Words.squadDeparture (ctx : CtxId) (handle : BitVec 16) : Words.Statement (.squadDeparture ctx handle) := nofun
theorem Words.engineCommandStart (core : CoreId) (e : EngineKind) : Words.Statement (.engineCommandStart core e) := nofun
theorem Words.reservationGrant (cluster : ClusterId) : Words.Statement (.reservationGrant cluster) := nofun
theorem Words.engineCommandComplete (core : CoreId) (e : EngineKind) : Words.Statement (.engineCommandComplete core e) := nofun
theorem Words.scheduleEntryFire (core : CoreId) : Words.Statement (.scheduleEntryFire core) := nofun
theorem Words.pageWait (ctx : CtxId) : Words.Statement (.pageWait ctx) := nofun
theorem Words.pageWake (page : Nat) (discard : Bool) : Words.Statement (.pageWake page discard) := nofun
theorem Words.homeMove (page : Nat) (port : ClusterId) : Words.Statement (.homeMove page port) := nofun
theorem Words.scrub (t : ScrubTarget) (line : Nat) : Words.Statement (.scrub t line) := nofun
theorem Words.waitLimit (ctx : CtxId) : Words.Statement (.waitLimit ctx) := nofun
theorem Words.sealInterval (job : Nat) : Words.Statement (.sealInterval job) := nofun
theorem Words.sealPrepare (die : Fin 36) : Words.Statement (.sealPrepare die) := nofun
theorem Words.dieReady (die : Fin 36) : Words.Statement (.dieReady die) := nofun
theorem Words.sealReady : Words.Statement (.sealReady) := nofun
theorem Words.sealCommit (die : Fin 36) : Words.Statement (.sealCommit die) := nofun
theorem Words.sealAbort : Words.Statement (.sealAbort) := nofun
theorem Words.resealTimer : Words.Statement (.resealTimer) := nofun
theorem Words.rollback : Words.Statement (.rollback) := nofun
theorem Words.containment (job : Nat) (cluster : ClusterId) : Words.Statement (.containment job cluster) := nofun
theorem Words.domainFault (f : DomainFaultKind) : Words.Statement (.domainFault f) := nofun
theorem Words.coreFault (core : CoreId) : Words.Statement (.coreFault core) := nofun
theorem Words.watchdogStage1 (job queue : Nat) : Words.Statement (.watchdogStage1 job queue) := nofun
theorem Words.watchdogStage2 (job queue : Nat) : Words.Statement (.watchdogStage2 job queue) := nofun
theorem Words.watchdogStage3 (job queue : Nat) : Words.Statement (.watchdogStage3 job queue) := nofun
theorem Words.replicaDigest (job phase : Nat) (partner : BitVec 384) : Words.Statement (.replicaDigest job phase partner) := nofun
theorem Words.provisionalSeal : Words.Statement (.provisionalSeal) := nofun
theorem Words.infieldTest (cluster : ClusterId) (kernel : FlashImage) (signature : Word) : Words.Statement (.infieldTest cluster kernel signature) := nofun
theorem Words.thermalReading (cluster : ClusterId) (quarters : Nat) : Words.Statement (.thermalReading cluster quarters) := nofun
theorem Words.throttleStep (cluster : ClusterId) : Words.Statement (.throttleStep cluster) := nofun
theorem Words.currentSample (die : Fin 36) (percent : Nat) (atUs : Nat) : Words.Statement (.currentSample die percent atUs) := nofun
theorem Words.fatalError (f : FatalKind) (die : Fin 36) : Words.Statement (.fatalError f die) := nofun
theorem Words.frequencyChange (cluster : ClusterId) (c : ClusterChange) : Words.Statement (.frequencyChange cluster c) := nofun
theorem Words.routerTableSwap (cluster : ClusterId) (c : RouterChange) : Words.Statement (.routerTableSwap cluster c) := nofun
theorem Words.meshFlitRetry (link : Nat) (flit : Option MeshFlit) (crcOk : Bool) : Words.Statement (.meshFlitRetry link flit crcOk) := nofun
theorem Words.ilufoskoFlitReceive (port : Fin 48) (flit : Option Flit) : Words.Statement (.ilufoskoFlitReceive port flit) := nofun
theorem Words.ilufoskoNak (port : Fin 48) (ack : Bool) (seq : BitVec 12) : Words.Statement (.ilufoskoNak port ack seq) := nofun
theorem Words.ilufoskoPortDown (port : Fin 48) (c : PortChange) : Words.Statement (.ilufoskoPortDown port c) := nofun
theorem Words.commandRead (job queue : Nat) : Words.Statement (.commandRead job queue) := nofun
theorem Words.launch (job queue : Nat) : Words.Statement (.launch job queue) := nofun
theorem Words.graph (job queue : Nat) : Words.Statement (.graph job queue) := nofun
theorem Words.waitval (job queue : Nat) : Words.Statement (.waitval job queue) := nofun
theorem Words.waitvalSatisfied (job queue : Nat) : Words.Statement (.waitvalSatisfied job queue) := nofun
theorem Words.writeval (job queue : Nat) : Words.Statement (.writeval job queue) := nofun
theorem Words.cancelLaunch (job queue : Nat) : Words.Statement (.cancelLaunch job queue) := nofun
theorem Words.cancelGraph (job queue : Nat) : Words.Statement (.cancelGraph job queue) := nofun
theorem Words.cancelPhase (job queue : Nat) : Words.Statement (.cancelPhase job queue) := nofun
theorem Words.cancelJob (job queue : Nat) : Words.Statement (.cancelJob job queue) := nofun
theorem Words.sealreq (job queue : Nat) : Words.Statement (.sealreq job queue) := nofun
theorem Words.commandFence (job queue : Nat) : Words.Statement (.commandFence job queue) := nofun
theorem Words.launchStart (launch : Nat) : Words.Statement (.launchStart launch) := nofun
theorem Words.corePreparation (launch : Nat) (core : CoreId) : Words.Statement (.corePreparation launch core) := nofun
theorem Words.unitStart (ctx : CtxId) : Words.Statement (.unitStart ctx) := nofun
theorem Words.batonStart (job phase : Nat) : Words.Statement (.batonStart job phase) := nofun
theorem Words.batonVisit (job phase : Nat) : Words.Statement (.batonVisit job phase) := nofun
theorem Words.batonReturn (job phase : Nat) : Words.Statement (.batonReturn job phase) := nofun
theorem Words.phaseEndNotice (job phase : Nat) (die : Fin 36) : Words.Statement (.phaseEndNotice job phase die) := nofun
theorem Words.jobendEffect (job : Nat) : Words.Statement (.jobendEffect job) := nofun
theorem Words.jobEnd (job : Nat) : Words.Statement (.jobEnd job) := nofun
theorem Words.mdom (v : Word) : Words.Statement (.mdom v) := nofun
theorem Words.mlock (path : Path) (v : Word) : Words.Statement (.mlock path v) := nofun
theorem Words.mlockTimeout : Words.Statement (.mlockTimeout) := nofun
theorem Words.doorbell (v : Word) : Words.Statement (.doorbell v) := nofun
theorem Words.jobnew (v : Word) : Words.Statement (.jobnew v) := nofun
theorem Words.qreset (v : Word) : Words.Statement (.qreset v) := nofun
theorem Words.jobend (v : Word) : Words.Statement (.jobend v) := nofun
theorem Words.windowWrite (path : Path) (a : HostAccess) : Words.Statement (.windowWrite path a) := nofun
theorem Words.powerOn (path : Path) : Words.Statement (.powerOn path) := nofun
theorem Words.powerIdle (path : Path) : Words.Statement (.powerIdle path) := nofun
theorem Words.powerStandby (path : Path) : Words.Statement (.powerStandby path) := nofun
theorem Words.powerOff (path : Path) : Words.Statement (.powerOff path) := nofun
theorem Words.debugOff (path : Path) : Words.Statement (.debugOff path) := nofun
theorem Words.debugNonInvasive (path : Path) : Words.Statement (.debugNonInvasive path) := nofun
theorem Words.debugInvasive (path : Path) : Words.Statement (.debugInvasive path) := nofun
theorem Words.lifecycleDeployed (path : Path) : Words.Statement (.lifecycleDeployed path) := nofun
theorem Words.lifecycleVendorDebug (path : Path) : Words.Statement (.lifecycleVendorDebug path) := nofun
theorem Words.lifecycleRma (path : Path) : Words.Statement (.lifecycleRma path) := nofun
theorem Words.lifecycleRetired (path : Path) : Words.Statement (.lifecycleRetired path) := nofun
theorem Words.nonce (path : Path) : Words.Statement (.nonce path) := nofun
theorem Words.attest (path : Path) : Words.Statement (.attest path) := nofun
theorem Words.keyload (path : Path) : Words.Statement (.keyload path) := nofun
theorem Words.extend (path : Path) (reg : Nat) : Words.Statement (.extend path reg) := nofun
theorem Words.mreqMalformed (path : Path) (v : Word) : Words.Statement (.mreqMalformed path v) := nofun
theorem Words.powerOnBoot : Words.Statement (.powerOnBoot) := nofun
theorem Words.pipeCycle (core : CoreId) : Words.Statement (.pipeCycle core) := nofun
theorem Words.batchReleased (ctx : CtxId) (num : Nat) : Words.Statement (.batchReleased ctx num) := nofun
theorem Words.debuggerStep (ctx : CtxId) : Words.Statement (.debuggerStep ctx) := nofun
theorem Words.debuggerWrite (t : DebugTarget) (v : Option VWord) : Words.Statement (.debuggerWrite t v) := nofun
theorem Words.newImage (slot : Bool) (img : FlashImage) : Words.Statement (.newImage slot img) := nofun

end Sys2Proof.Laws
end

