-- ==== Sys2Proof/Tests/Slice0.lean ====
section
/-! SUPPORT. Tests: ill-formed terms that WellFormed refuses, words that decode, single steps, and for every statement with hypotheses
a state that meets them. Expected values are the spec's, or worked out by hand from its rules. -/

set_option maxRecDepth 100000
set_option exponentiation.threshold 10000

namespace Sys2Proof.Tests

open Sys2Proof Sys2Proof.Machine

/-- The state that an instruction leads to. -/
def after (i : Instr) (s : State) : State := nextOf s (exec i s)

/-- The instruction answers a next state. -/
def completes (i : Instr) (s : State) : Bool := match exec i s with
  | .next _ => true
  | .fault _ => false
  | .refused _ => false

/-- General registers set. -/
def regs (l : List (GReg × Nat)) (s : State) : State := l.foldl (fun t e => t.modMe (·.writeG e.1 (BitVec.ofNat 64 e.2))) s

/-- A general register after an instruction. -/
def reg (i : Instr) (s : State) (r : GReg) : Nat := ((after i s).me.readG r).toNat

/-- After reset; at handler level. -/
def s0 : State := State.reset
def h0 : State := s0.modMe fun x => { x with hl := true }

/-- The cause, the ceaddr and the cepc of a trap that an instruction takes; a context at handler level after it. -/
def trapOf (i : Instr) (s : State) : Bool × Nat × Nat × Nat :=
  let x := (after i s).me
  (x.hl, x.ctrap.toNat, x.ceaddr.toNat, 4 * x.cepc.toNat)

/-- The wait of the current context after an instruction. -/
def waitOf (i : Instr) (s : State) : Option Wait := match (after i s).me.run with
  | .waiting w => some w
  | .idle => none
  | .active => none
  | .reply _ => none
  | .halted => none
  | .killed => none

/-- An entry of a table is the default or listed. -/
theorem tget_listed {α : Type} (d : α) (m : List (Nat × α)) (k : Nat) : tget d m k = d ∨ (k, tget d m k) ∈ m := by
  induction m with
  | nil => exact .inl rfl
  | cons e r ih =>
    obtain ⟨k', v⟩ := e
    simp only [tget]
    split
    · next h => subst h; exact .inr (List.mem_cons_self ..)
    · exact ih.imp_right (List.mem_cons_of_mem _)

/-- No two listed pages have one frame. -/
def framesApart (s : State) : Bool :=
  s.pages.all fun e => s.pages.all fun f => !(e.2.frame == f.2.frame && e.2.frame.isSome) || e.1 == f.1

theorem framesOk (s : State) (h : framesApart s = true) : Safety.FramesOk s := by
  intro p q f hp hq
  have listed (r : Nat) (hr : (s.page r).frame = some f) : (r, s.page r) ∈ s.pages := by
    rcases tget_listed Page.reset s.pages r with e | e
    · have : s.page r = Page.reset := e
      rw [this] at hr
      cases hr
    · exact e
  simp only [framesApart, List.all_eq_true] at h
  have := h _ (listed p hp) _ (listed q hq)
  simpa [hp, hq] using this

/-! ### Well-formed instructions (R145 to R154) -/

def at8 (sp : Space) (seg : SReg) (c : GReg) (fe : FeQual) (o : MemOrd) : MemAddr := ⟨8, c, o, .none, fe, seg, sp⟩
def ws0 : WaitSig := ⟨false, 0, 0, 0, 0⟩

theorem test_wf_types : Instr.wf (.sext .n8 1 2) = false ∧ Instr.wf (.sext .i8 1 2) = true ∧ Instr.wf (.zext .i8 1 2) = false ∧
    Instr.wf (.fcvti .f32 1 2) = false ∧ Instr.wf (.fcvti .n64 1 2) = true ∧ Instr.wf (.vlog .f32 1 2 3 none) = false ∧
    Instr.wf (.vshl .f32 1 2 3 none) = false ∧ Instr.wf (.vrcp .i32 1 2 none) = false ∧ Instr.wf (.vadd .l4 1 2 3 none) = false ∧
    Instr.wf (.sqred .add .i8 1 0 2) = false ∧ Instr.wf (.sqred .band .f32 1 0 2) = false ∧
    Instr.wf (.sqred .add .f32 1 0 2) = true := by decide
theorem test_wf_memory : Instr.wf (.ldd 1 (at8 .localS 1 0 .plain .none) 0) = false ∧
    Instr.wf (.ldd 1 (at8 .global 1 0 .plain .none) 0) = true ∧ Instr.wf (.ldd 1 (at8 .localS 0 3 .plain .none) 0) = false ∧
    Instr.wf (.ldd 1 (at8 .remoteS 0 3 .plain .none) 0) = true ∧ Instr.wf (.ldd 1 (at8 .global 0 0 .first .none) 0) = false ∧
    Instr.wf (.ldd 1 (at8 .localS 0 0 .first .none) 0) = true ∧ Instr.wf (.lr 1 (at8 .localS 0 0 .first .none) 0) = false ∧
    Instr.wf (.ldd 1 (at8 .localS 0 0 .plain .rel) 0) = false ∧ Instr.wf (.std 1 (at8 .localS 0 0 .plain .acq) 0) = false ∧
    Instr.wf (.ldg 1 (at8 .localS 0 0 .plain .none) 0) = false ∧ Instr.wf (.ldg 2 (at8 .localS 0 0 .plain .none) 0) = true := by
  decide
theorem test_wf_fields : Instr.wf (.bfx 1 2 60 4) = false ∧ Instr.wf (.bfx 1 2 60 3) = true ∧ Instr.wf (.waitc 0) = false ∧
    Instr.wf (.chsend 1 2) = false ∧ Instr.wf (.recvn 3 1 2) = false ∧ Instr.wf (.sqopen false 1 2 0 3) = false ∧
    Instr.wf (.ewait 0) = false ∧ Instr.wf (.bclose .g 1) = false := by decide
theorem test_wf_engines : Instr.wf (.vemap .add 1 2 3 ⟨false, 1, 0, 0, 0⟩) = false ∧ Instr.wf (.vemap .add 1 2 3 ⟨false, 0, 0, 0, 1⟩) = false ∧
    Instr.wf (.vemap .copy 1 2 3 ws0) = false ∧ Instr.wf (.vemap .copy 1 2 0 ws0) = true ∧
    Instr.wf (.mmag .quad false 1 2 3 4 ws0) = false ∧ Instr.wf (.mmag .s4x1 false 61 2 3 4 ws0) = false ∧
    Instr.wf (.mmag .s4x1 false 60 2 3 4 ws0) = true := by decide
theorem test_wf_events : Instr.wf .rollback = false ∧ encode .rollback = [] := by decide

/-! ### Words written out from the encodings of the rules decode to their instructions, and encode to them (R144 to R157) -/

/-- The words decode to the instruction, and are its words. -/
def Words (ws : List Nat) (i : Instr) : Prop := decode ws = .ok (i, ws.length) ∧ encode i = ws ∧ Instr.wf i = true

theorem test_decode_alu_r : Words [0x02629C05, 0x00000004] (.sub 7 5 6) :=
  ⟨by decide, by decide, by decide⟩
theorem test_decode_alu_r_ext : Words [0x30029C05, 0x00000204] (.sext .i16 7 5) :=
  ⟨by decide, by decide, by decide⟩
theorem test_decode_alu_i : Words [0x42031409, 0x00000E24] (.bfx 5 6 4 7) :=
  ⟨by decide, by decide, by decide⟩
theorem test_decode_lil : Words [0x0000240F, 0xB2A19084, 0xB72EA61C, 0x000001FC] (.lil 9 0xFEDCBA9876543210) :=
  ⟨by decide, by decide, by decide⟩
theorem test_decode_lpc : Words [0x00000C12, 0xFFFFFFF4, 0x0000003C] (.lpc 3 0xFFFFFFFE) :=
  ⟨by decide, by decide, by decide⟩
theorem test_decode_mul : Words [0x08310481, 0x00000024] (.mad 1 2 3 4) :=
  ⟨by decide, by decide, by decide⟩
theorem test_decode_div : Words [0x07DF7C85, 0x00000004] (.remn 31 30 29) :=
  ⟨by decide, by decide, by decide⟩
theorem test_decode_fp : Words [0x120290C1, 0x00000804] (.fcvti .n64 4 5) :=
  ⟨by decide, by decide, by decide⟩
theorem test_decode_fdiv : Words [0x020290C5, 0x00000004] (.fsqrt 4 5) :=
  ⟨by decide, by decide, by decide⟩
theorem test_decode_br : Words [0x02007902, 0x0000000C, 0x0000000C] (.brl 30 0x20000001) :=
  ⟨by decide, by decide, by decide⟩
theorem test_decode_bcc : Words [0x08208106, 0xFFFFFFEC, 0x0000003C] (.bltn 1 2 0xFFFFFFFD) :=
  ⟨by decide, by decide, by decide⟩
theorem test_decode_jr : Words [0x02047909, 0x00000004] (.jrl 30 8) :=
  ⟨by decide, by decide, by decide⟩
theorem test_decode_loop : Words [0x0200010E, 0x0000004C, 0x7FFFFFC4] (.loopi 0x1FFFFFF 9) :=
  ⟨by decide, by decide, by decide⟩
theorem test_decode_misc : Words [0x04000111, 0x00000004] (.tend) :=
  ⟨by decide, by decide, by decide⟩
theorem test_decode_ld : Words [0x0A020D41, 0x01E0FFFC] (.ldwn 3 ⟨4, 0, .acq, .mem, .second, 0, .clusterS⟩ 0xFFF) :=
  ⟨by decide, by decide, by decide⟩
theorem test_decode_ld96 : Words [0x10021D46, 0x000B3C4C, 0x0091A2B4] (.ldvF96m 7 ⟨4, 0, .none, .none, .plain, 5, .global⟩ 0x123456789) :=
  ⟨by decide, by decide, by decide⟩
theorem test_decode_st : Words [0x08021949, 0x26118084] (.stg 6 ⟨4, 9, .rel, .none, .first, 0, .remoteS⟩ 16) :=
  ⟨by decide, by decide, by decide⟩
theorem test_decode_st96 : Words [0x0002194E, 0x00407FFC, 0x7FFFFFFC] (.stbF96m 6 ⟨4, 0, .none, .near, .plain, 0, .localS⟩ 0xFFFFFFFFFF) :=
  ⟨by decide, by decide, by decide⟩
theorem test_decode_amo : Words [0x84310551, 0x03030044] (.amoadd 1 3 true ⟨2, 0, .ar, .none, .plain, 1, .global⟩ 8) :=
  ⟨by decide, by decide, by decide⟩
theorem test_decode_amo96 : Words [0x02310556, 0x00800044, 0x00000004] (.scF96m 1 3 ⟨2, 0, .none, .far, .plain, 0, .localS⟩ 8) :=
  ⟨by decide, by decide, by decide⟩
theorem test_decode_rnd : Words [0x00000159, 0x00000004] (.rndclose) :=
  ⟨by decide, by decide, by decide⟩
theorem test_decode_ord : Words [0x0000015D, 0x00280004] (.fence .domain) :=
  ⟨by decide, by decide, by decide⟩
theorem test_decode_mbx : Words [0x020481A1, 0x6404000C] (.mbincRemote 200 0x8001 9) :=
  ⟨by decide, by decide, by decide⟩
theorem test_decode_chn : Words [0x066291A5, 0x00000004] (.recvn 4 5 6) :=
  ⟨by decide, by decide, by decide⟩
theorem test_decode_sq : Words [0x0C5191A9, 0x00080004] (.sqvote .all 4 3 5) :=
  ⟨by decide, by decide, by decide⟩
theorem test_decode_sqop : Words [0x00629DAD, 0x0FFFFFF4] (.sqopen true 7 5 0xFFFFFE 6) :=
  ⟨by decide, by decide, by decide⟩
theorem test_decode_spl : Words [0x040025B1, 0x00000004] (.splitrd 9) :=
  ⟨by decide, by decide, by decide⟩
theorem test_decode_var : Words [0x1C6389E1, 0x00270A04] (.vcmp .gt .f16 2 7 6 (some 3)) :=
  ⟨by decide, by decide, by decide⟩
theorem test_decode_vprm : Words [0x0A0105E5, 0x00100404] (.vscan .max .i64 1 2 none) :=
  ⟨by decide, by decide, by decide⟩
theorem test_decode_vfn : Words [0x040105E9, 0x00000B04] (.vex2 .bf16 1 2 none) :=
  ⟨by decide, by decide, by decide⟩
theorem test_decode_vgs : Words [0x02520DED, 0x02057FC4] (.vstx 3 5 ⟨4, 0, .rel, .none, .plain, 2, .global⟩ 0xFF8) :=
  ⟨by decide, by decide, by decide⟩
theorem test_decode_msk : Words [0x080F89F1, 0x00000004] (.kmov (.kg 2 31)) :=
  ⟨by decide, by decide, by decide⟩
theorem test_decode_cvt : Words [0x00010661, 0x00009104] (.vcvt .i8 .f32 1 2 none) :=
  ⟨by decide, by decide, by decide⟩
theorem test_decode_veng : Words [0x00000283, 0x10008014, 0x00000004, 0x0000082C] (.vemap .add 2 0 1 ⟨false, 0, 0, 1, 5⟩) :=
  ⟨by decide, by decide, by decide⟩
theorem test_decode_ttab : Words [0x000202C1, 0x01800004] (.tdef 3 4 0) :=
  ⟨by decide, by decide, by decide⟩
theorem test_decode_clm : Words [0x000016C5, 0x01800044] (.pclaim 5 0 8 3) :=
  ⟨by decide, by decide, by decide⟩
theorem test_decode_mma : Words [0x000002CB, 0x80018444, 0x0800080C, 0x00000814] (.mma .s4x1 false 8 2 3 ⟨true, 1, 1, 1, 2⟩) :=
  ⟨by decide, by decide, by decide⟩
theorem test_decode_pld : Words [0x000002CF, 0x0000040C, 0x00000004, 0x00000004] (.pload false 1 2 ⟨false, 0, 0, 0, 0⟩) :=
  ⟨by decide, by decide, by decide⟩
theorem test_decode_qmv : Words [0x040002D3, 0x00007DFC, 0x0FFFFFFC, 0x00000004] (.qstl 63 62 ⟨true, 0xFFFF, 255, 0, 0⟩) :=
  ⟨by decide, by decide, by decide⟩
theorem test_decode_cpy : Words [0x00000303, 0x0000040C, 0x00000004, 0x0007FFFC] (.cpy 1 2 ⟨false, 0, 0, 255, 255⟩) :=
  ⟨by decide, by decide, by decide⟩
theorem test_decode_bat : Words [0x00001705, 0x02000004] (.bclose .module 5) :=
  ⟨by decide, by decide, by decide⟩
theorem test_decode_csr : Words [0x02028341, 0x01800004] (.csrwr 0 .cwlim 5) :=
  ⟨by decide, by decide, by decide⟩
theorem test_decode_trp : Words [0x00000345, 0x007FFFFC] (.trap 0xFFFFF) :=
  ⟨by decide, by decide, by decide⟩
theorem test_decode_sys : Words [0x00520F49, 0x00000004] (.segld 3 4 5) :=
  ⟨by decide, by decide, by decide⟩

/-! ### Scalar instructions: the examples of R166 and R169, boundary values, a source that is also the destination -/

def big : Nat := 2 ^ 63
def a1 : State := regs [(5, 2 ^ 64 - 1), (6, 1), (7, big), (8, 0x1234), (9, 63), (10, 2 ^ 64 - 7), (11, 2), (12, 0)] s0

theorem test_add_wraps : reg (.add 5 5 6) a1 5 = 0 ∧ reg (.add 0 5 6) a1 0 = 0 := by decide
theorem test_sub_wraps : reg (.sub 1 12 6) a1 1 = 2 ^ 64 - 1 := by decide
theorem test_logic : reg (.iand 1 5 8) a1 1 = 0x1234 ∧ reg (.ior 1 8 6) a1 1 = 0x1235 ∧ reg (.ixor 1 5 8) a1 1 = 2 ^ 64 - 0x1235 := by
  decide
theorem test_shifts : reg (.shl 1 6 9) a1 1 = big ∧ reg (.shr 1 7 9) a1 1 = 1 ∧ reg (.sra 1 7 9) a1 1 = 2 ^ 64 - 1 ∧
    reg (.rol 1 7 6) a1 1 = 1 ∧ reg (.shl 1 6 5) a1 1 = big := by decide
theorem test_min_max : reg (.min 1 7 6) a1 1 = big ∧ reg (.max 1 7 6) a1 1 = 1 ∧ reg (.minn 1 7 6) a1 1 = 1 ∧
    reg (.maxn 1 7 6) a1 1 = big := by decide
theorem test_compare : reg (.slt 1 5 6) a1 1 = 1 ∧ reg (.sltn 1 5 6) a1 1 = 0 ∧ reg (.seq 1 5 5) a1 1 = 1 ∧
    reg (.sne 1 5 6) a1 1 = 1 := by decide
theorem test_words : reg (.addw 1 9 7) a1 1 = 63 ∧ reg (.subw 1 12 6) a1 1 = 2 ^ 64 - 1 ∧ reg (.sel 1 5 6 12) a1 1 = 1 ∧
    reg (.sel 1 5 6 6) a1 1 = 2 ^ 64 - 1 := by decide
theorem test_counts : reg (.clz 1 6) a1 1 = 63 ∧ reg (.clz 1 12) a1 1 = 64 ∧ reg (.ctz 1 7) a1 1 = 63 ∧ reg (.ctz 1 12) a1 1 = 64 ∧
    reg (.popc 1 5) a1 1 = 64 := by decide
theorem test_extends : reg (.abs 1 10) a1 1 = 7 ∧ reg (.abs 1 7) a1 1 = big ∧ reg (.sext .i8 1 5) a1 1 = 2 ^ 64 - 1 ∧
    reg (.zext .n16 1 5) a1 1 = 0xFFFF ∧ reg (.sext .i32 1 8) a1 1 = 0x1234 := by decide
theorem test_immediates : reg (.addi 1 6 0xFFFFF) a1 1 = 0 ∧ reg (.andi 1 5 0x80000) a1 1 = 2 ^ 64 - 2 ^ 19 ∧
    reg (.ori 1 12 0xFFFFF) a1 1 = 2 ^ 64 - 1 ∧ reg (.xori 1 5 1) a1 1 = 2 ^ 64 - 2 ∧ reg (.slti 1 5 0) a1 1 = 1 ∧
    reg (.li 1 0x80000) a1 1 = 2 ^ 64 - 2 ^ 19 := by decide
theorem test_immediate_shifts : reg (.shli 1 6 63) a1 1 = big ∧ reg (.shri 1 5 63) a1 1 = 1 ∧ reg (.srai 1 7 63) a1 1 = 2 ^ 64 - 1 ∧
    reg (.roli 1 7 0) a1 1 = big := by decide
/-- BFI g7, g6, 8, 4 of 0xA into 0x1234 (R162). -/
theorem test_bfi : reg (.bfi 7 6 8 3) (regs [(6, 0xA), (7, 0x1234)] s0) 7 = 0x1A34 ∧ reg (.bfx 5 8 4 7) a1 5 = 0x23 ∧
    reg (.bfx 5 7 0 63) a1 5 = big := by decide
theorem test_lil_lpc_idrd : reg (.lil 1 0xFEDCBA9876543210) a1 1 = 0xFEDCBA9876543210 ∧
    (after (.lil 1 5) a1).me.pc = 16 ∧ reg (.lpc 1 0xFFFFFFFF) a1 1 = 2 ^ 64 - 4 ∧ (after (.lpc 1 0) a1).me.pc = 12 ∧
    reg (.idrd 1) { s0 with cur := 0x06AC870C } 1 = 0x06AC870C := by decide
theorem test_multiply : reg (.mul 1 5 5) a1 1 = 1 ∧ reg (.mulh 1 5 7) a1 1 = 0 ∧ reg (.mulhn 1 5 5) a1 1 = 2 ^ 64 - 2 ∧
    reg (.mulh 1 7 7) a1 1 = 2 ^ 62 ∧ reg (.mulw 1 5 5) a1 1 = 1 ∧ reg (.mad 1 5 6 8) a1 1 = 0x1233 := by decide
/-- The table of R166. -/
theorem test_divide : reg (.div 1 10 11) a1 1 = 2 ^ 64 - 3 ∧ reg (.rem 1 10 11) a1 1 = 2 ^ 64 - 1 ∧
    reg (.divn 1 10 11) a1 1 = 0x7FFFFFFFFFFFFFFC ∧ reg (.remn 1 10 11) a1 1 = 1 ∧ reg (.div 1 7 5) a1 1 = big ∧
    reg (.rem 1 7 5) a1 1 = 0 := by decide
theorem test_hyps_MultiplyAndDivideResults : a1.me.readG 11 ≠ 0 ∧ a1.me.readG 12 = 0 ∧ a1.me.hl = false ∧
    trapOf (.div 1 10 12) a1 = (true, 0x06, 2 ^ 64 - 7, 0) ∧ reg (.div 10 10 12) a1 10 = 2 ^ 64 - 7 ∧
    trapOf (.remn 1 10 12) a1 = (true, 0x06, 2 ^ 64 - 7, 0) := by decide

/-! ### FP32 (R134, R166 to R170, R358) -/

/-- 1.5, 2.5, -0, +0, a quiet NaN, a signalling NaN, +Inf, the largest number, the smallest one, 2^24, 3. -/
def f1 : State := regs [(1, 0x3FC00000), (2, 0x40200000), (3, 0x80000000), (4, 0), (5, 0x7FC00001), (6, 0x7F800001),
  (7, 0x7F800000), (8, 0x7F7FFFFF), (9, 1), (10, 0x4B800000), (11, 0x40400000)] s0
def fl (i : Instr) (s : State) : Nat × Nat := (reg i s 20, (after i s).me.cstat.toNat)

theorem test_fadd : fl (.fadd 20 1 2) f1 = (0x40800000, 0) ∧ fl (.fadd 20 8 8) f1 = (0x7F800000, 0x5) ∧
    fl (.fadd 20 10 9) f1 = (0x4B800000, 1) ∧ fl (.fadd 20 6 1) f1 = (0x7FC00000, 0x10) := by decide
theorem test_fsub : fl (.fsub 20 7 7) f1 = (0x7FC00000, 0x10) ∧ fl (.fsub 20 1 1) f1 = (0, 0) := by decide
theorem test_fmul : fl (.fmul 20 1 2) f1 = (0x40700000, 0) ∧ fl (.fmul 20 4 7) f1 = (0x7FC00000, 0x10) := by decide
theorem test_ffma : fl (.ffma 20 1 2 3) f1 = (0x40700000, 0) := by decide
theorem test_fdiv : fl (.fdiv 20 1 4) f1 = (0x7F800000, 0x8) ∧ fl (.fdiv 20 4 4) f1 = (0x7FC00000, 0x10) ∧
    fl (.fdiv 20 2 11) f1 = (0x3F555555, 1) := by decide
theorem test_fsqrt : fl (.fsqrt 20 3) f1 = (0x80000000, 0) ∧ fl (.fsqrt 20 10) f1 = (0x45800000, 0) := by decide
theorem test_fmin_fmax : fl (.fmin 20 4 3) f1 = (0x80000000, 0) ∧ fl (.fmax 20 5 1) f1 = (0x3FC00000, 0) ∧
    fl (.fmin 20 6 1) f1 = (0x3FC00000, 0x10) ∧ fl (.fmax 20 5 5) f1 = (0x7FC00000, 0) := by decide
theorem test_compares : fl (.feq 20 3 4) f1 = (1, 0) ∧ fl (.feq 20 5 5) f1 = (0, 0) ∧ fl (.flt 20 5 1) f1 = (0, 0x10) ∧
    fl (.fle 20 3 4) f1 = (1, 0) ∧ fl (.flt 20 1 2) f1 = (1, 0) := by decide
theorem test_fclass : fl (.fclass 20 6) f1 = (0x100, 0) ∧ fl (.fclass 20 9) f1 = (0x20, 0) ∧ fl (.fclass 20 3) f1 = (8, 0) := by decide
/-- The examples of R169. -/
theorem test_fcvti : fl (.fcvti .i32 20 2) f1 = (2, 1) ∧ fl (.fcvti .i32 20 7) f1 = (0x7FFFFFFF, 0x10) ∧
    fl (.fcvti .n32 20 5) f1 = (0, 0x10) := by decide
theorem test_fcvtf : fl (.fcvtf .i64 20 12) (regs [(12, 2 ^ 64 - 1)] f1) = (0xBF800000, 0) ∧
    fl (.fcvtf .n64 20 12) (regs [(12, 2 ^ 64 - 1)] f1) = (0x5F800000, 1) := by decide

def f2 : State := f1.modMe fun x => { x with cfemask := 0x1F }
theorem test_hyps_FpArithmeticResults : (f32.add 0x3FC00000 0x40200000).2 &&& f2.me.enabled = 0 ∧
    (f32.div 0x3FC00000 0).2 &&& f1.me.enabled = 0 ∧ ((f32.value 0x40200000).toInt (-2 ^ 31) (2 ^ 31 - 1)).2 &&& f1.me.enabled = 0 := by
  decide
theorem test_hyps_FpMinMaxCompareClassify : Claim.fpSignalling 0x7F800001 = true ∧ (0x010#12 &&& f1.me.enabled = 0) ∧
    Claim.fpNan 0x7F800000 = false ∧ Claim.fpSignalling 0x7FC00000 = false := by decide
theorem test_hyps_FpSumsAndProductsRoundToNearest : Claim.fpFinite 0x7F7FFFFF ∧ Claim.fpFinite 0x80000001 ∧
    ¬Claim.fpFinite 0x7F800000 ∧ f1.me.cfemask = 0 ∧ f1.me.nlt = false := by unfold Claim.fpFinite; decide
theorem test_hyps_EnabledFlagTakesFpException : f2.me.hl = false ∧
    (f32.add 0x7F7FFFFF 0x7F7FFFFF).2 &&& (f2.me.cfemask.setWidth 12 ||| if f2.me.nlt then 0x3E0#12 else 0) ≠ 0 ∧
    trapOf (.fadd 20 8 8) f2 = (true, 0x07, 5, 0) ∧ fl (.fadd 20 8 8) f2 = (0, 5) ∧ trapOf (.fdiv 20 1 4) f2 = (true, 0x07, 8, 0) := by
  decide

/-! ### Branches, loops, traps, CSRs (R64, R171 to R183, R353 to R356) -/

def b1 : State := a1.modMe fun x => { x with pc := 0x100 }
def pcOf (i : Instr) (s : State) : Nat := (after i s).me.pc.toNat

theorem test_branches : pcOf (.br 0xFFFFFFFE) b1 = 0xF8 ∧ pcOf (.beq 5 6 4) b1 = 0x10C ∧ pcOf (.bne 5 6 4) b1 = 0x110 ∧
    pcOf (.blt 5 6 4) b1 = 0x110 ∧ pcOf (.bltn 5 6 4) b1 = 0x10C ∧ pcOf (.bge 6 6 4) b1 = 0x110 ∧ pcOf (.bgen 6 5 4) b1 = 0x10C := by
  decide
theorem test_jumps : pcOf (.jr 8) b1 = 0x1234 ∧ reg (.brl 30 4) b1 30 = 0x10C ∧ reg (.jrl 8 8) b1 8 = 0x108 ∧
    pcOf (.jrl 8 8) b1 = 0x1234 := by decide
/-- A body of one NOP at 0x10C up to 0x114, in a code segment of 4 KiB, its block fetched; the block still to come. -/
def l0 : State := b1.modMe fun x => x.writeSeg 0 { Seg.zero with limit := 0x1000, x := true }
def l1 : State := l0.modMe fun x => { x with fetchBuf := [(0x100, 0x0000000400000111#260 <<< (96 : Nat))] }
theorem test_loop_pins : (after (.loop 9 5) l1).me.pinned = true ∧ (after (.loop 9 5) l1).me.loopCount = 63 ∧
    (after (.loop 9 5) l1).me.loopStart = 0x10C ∧ (after (.loop 9 5) l1).me.loopEnd = 0x114 ∧
    (after (.loopi 3 5) l1).me.loopCount = 3 := by decide
theorem test_hyps_LoopsSetUpTheirState : pcOf (.loop 12 5) l1 = 0x114 ∧ (l1.me.readG 9).setWidth 32 ≠ 0#32 ∧
    l1.pinning 0 0x100 0x10C 0x114 = .fits ∧ l1.me.hl = false ∧
    l0.pinning 0 0x100 0x10C 0x114 = .missing ∧ waitOf (.loop 9 5) l0 = some .fetch ∧
    l1.pinning 0 0x100 0x10C 0x10C = .refused (0x01, BitVec.ofNat 64 (10 + 2 ^ 32 * 0xC)) ∧
    trapOf (.loop 9 3) l1 = (true, 0x01, 10 + 2 ^ 32 * 0xC, 0x100) := by decide
theorem test_trap_brk : trapOf (.trap 0xFFFFF) b1 = (true, 0x0F, 0xFFFFF, 0x108) ∧ trapOf (.brk 3) b1 = (true, 0x0E, 3, 0x100) := by
  decide
def h1 : State := b1.modMe fun x => { x with hl := true, cepc := 0x80, loopStart := 0x200, loopEnd := 0x208, loopCount := 2 }
theorem test_rte : pcOf .rte h1 = 0x200 ∧ (after .rte h1).me.hl = false ∧ (after .rte h1).me.pinned = true := by decide
theorem test_hyps_TrapReturnAndPrivilege : b1.me.hl = false ∧ h1.me.hl = true ∧ Csr.cvec ∉ ([.cstat, .cmode, .cfemask, .cwlim] : List Csr) ∧
    trapOf .halt b1 = (true, 0x03, 0, 0x100) ∧ trapOf (.csrwr 1 .cvec 5) b1 = (true, 0x03, (Csr.code .cvec), 0x100) ∧
    completes (.csrwr 1 .cwlim 5) b1 = true ∧ trapOf (.csrwr 1 .cwlim 5) b1 = (false, 0, 0, 0) := by decide

/-- A job whose fault mailbox of 16 records stands at 0x10000, with no queue. -/
def j1 : Job :=
  { refill := 10, dtag := 0, handler := 0x4000, phaseCtr := 0x20000, jobCtr := 0x21000, cx0 := 0, cy0 := 0, cwm1 := 47, chm1 := 11,
    kcw := 4, kch := 4, pol := .contain, fmbox := 0x10000, fmlogn := 4, sealInt := 1000, wd1 := 1, wd2 := 2, wd3 := 3,
    rep := false, partner := 0, digLen := 0, digAddr := 0, queues := [], phases := [], highRead := 0, ended := 0,
    endPosted := none, endTaken := false, cancelled := false, disagreed := none, sealWait := false, matched := false }
def row1 : Row := { Row.zero with v := true, job := 1, launch := 1 }
/-- An address of job 1. -/
def at1 (a : Nat) : Nat := jaddr 1 a
theorem test_hyps_EnabledFlagTakesFpException_converts : trapOf (.fcvtf .i32 20 12) (regs [(12, 2 ^ 31 - 1)] f2) = (true, 0x07, 1, 0) ∧
    trapOf (.fcvtf .n64 20 12) (regs [(12, 2 ^ 64 - 1)] f2) = (true, 0x07, 1, 0) ∧ trapOf (.fcvti .n32 20 5) f2 = (true, 0x07, 0x10, 0) ∧
    trapOf (.fmin 20 6 1) f2 = (true, 0x07, 0x10, 0) ∧ trapOf (.flt 20 5 1) f2 = (true, 0x07, 0x10, 0) := by decide
/-- Job 1, whose launch 1 binds the current context, with the page of its mailbox in memory. -/
def js : State := ((s0.setJob 1 (some j1)).bringIn (pageOf (at1 0x10000))).modMe fun x => { x with row := row1, run := .active, quota := 0xFFFFFFFF, cquota := 0xFFFFFFFF }
def jh : State := js.modMe fun x => { x with hl := true }
theorem test_double_trap : (after (.trap 7) jh).me.run = .halted ∧ (after (.trap 7) jh).me.hl = true ∧
    (after (.trap 7) jh).gRead (at1 0x10000) 8 = 1 ∧ (after (.trap 7) jh).gRead (at1 0x10040) 8 = 2 ^ 48 * 0x0F + 2 ^ 56 := by decide
theorem test_hyps_DoubleTrapsAndFaultMailboxNotices : jh.me.hl = true ∧ jh.me.readG 3 = 0 ∧ js.job 1 = some j1 ∧
    j1.fmbox.toNat + 64 + 32 * 2 ^ j1.fmlogn ≤ 2 ^ 52 ∧ (js.gRead (at1 0x10000) 8 + 2 ^ 64 - js.gRead (at1 0x10008) 8) % 2 ^ 64 ≠ 2 ^ 4 ∧
    (js.gWriteRaw (at1 0x10000) 8 16).gRead (at1 0x10000) 8 = 2 ^ j1.fmlogn ∧ (js.page (pageOf (at1 0x1023F))).frame = some 0 ∧
    ((js.gWriteRaw (at1 0x10000) 8 16).notice 1 1 0 0 0).gRead (at1 0x10010) 8 = 1 := by decide
theorem test_hyps_DoubleTrapsAndFaultMailboxNotices_frames : Safety.FramesOk js := framesOk js (by decide)
theorem test_csr : reg (.csrwr 1 .cfemask 5) b1 1 = 0 ∧ (after (.csrwr 1 .cfemask 5) b1).csr 0 .cfemask = 0x1F ∧
    (after (.csrset 1 .cwlim 8) b1).csr 0 .cwlim = 0x1234 ∧ (after (.csrclr 1 .cid 5) h1).csr 0 .cid = b1.csr 0 .cid ∧
    (after (.csrwr 1 .cepc 5) h1).csr 0 .cepc = 0 - 4 := by decide
theorem test_hyps_CsrReadsAndWrites : Csr.cspill ≠ .ccycle ∧ h1.me.hl = true ∧ (h1.me.readG 8).toNat % 2 ^ 14 * 16 +
    16 * ((h1.me.readG 8).toNat / 2 ^ 17 % 2 ^ 15) ≤ 0x40000 ∧ (after (.csrwr 1 .cspill 8) h1).csr 0 .cspill = 0x1234 := by decide
def c1 : State := jh.modMe fun x => { x with near := 1 }
theorem test_halt : (after .halt jh).me.run = .halted ∧ (after .halt jh).gRead (at1 0x10040) 8 = 2 ^ 56 ∧ waitOf .halt c1 = some .counters := by
  decide
theorem test_hyps_HaltNopYieldSegments : jh.me.hl = true ∧ jh.me.near = 0 ∧ jh.me.far = 0 ∧ jh.me.mem = 0 ∧ jh.commandsOf 0 = [] ∧
    c1.me.hl = true ∧ ¬(c1.me.near = 0 ∧ c1.me.far = 0 ∧ c1.me.mem = 0) := by decide
theorem test_nop_yield : (after .nop b1).me = { b1.me with pc := 0x108, run := .active } ∧ waitOf .yield b1 = some .lap ∧ pcOf .yield b1 = 0x108 := by decide
theorem test_segments : reg (.segrd 1 3 false) (after (.segld 3 5 5) h1) 1 = 2 ^ 52 - 1 ∧
    reg (.segrd 1 3 true) (after (.segld 3 5 5) h1) 1 = 2 ^ 44 - 1 ∧ reg (.splitrd 1) b1 1 = 0 := by decide

/-! ### Memory (R90 to R103, R187 to R200, R375, R397, R399) -/

/-- The memory fields of g8 in a space. -/
def ma (sp : Space) : MemAddr := ⟨8, 0, .none, .none, .plain, 0, sp⟩
def fem (f : FeQual) : MemAddr := ⟨8, 0, .none, .none, f, 0, .localS⟩
def sByte (s : State) (a : Nat) : Nat := ((s.core 0).s.cells.byte a).toNat
def sRead (s : State) (a n : Nat) : Nat := (s.core 0).s.cells.read a n
/-- S with bytes at an address, g8 the address. -/
def inS (a n v : Nat) (s : State) : State := regs [(8, a)] (s.modCore 0 fun k => { k with s := k.s.write 16 a n v })
def m1 : State := inS 0x40 16 0xFEDCBA98765432108877665544332280 js

theorem test_load_widths : reg (.ldb 1 (ma .localS) 0) m1 1 = 2 ^ 64 - 0x80 ∧ reg (.ldbn 1 (ma .localS) 0) m1 1 = 0x80 ∧
    reg (.ldh 1 (ma .localS) 2) m1 1 = 0x4433 ∧ reg (.ldhn 1 (ma .localS) 6) m1 1 = 0x8877 ∧
    reg (.ldw 1 (ma .localS) 4) m1 1 = 2 ^ 64 - 2 ^ 32 + 0x88776655 ∧ reg (.ldwn 1 (ma .localS) 4) m1 1 = 0x88776655 := by decide
theorem test_load_wide : reg (.ldd 8 (ma .localS) 8) m1 8 = 0xFEDCBA9876543210 ∧ reg (.ldg 6 (ma .localS) 0) m1 7 = 0xFEDCBA9876543210 ∧
    reg (.ldg 0 (ma .localS) 0) m1 0 = 0 ∧ reg (.ldg 0 (ma .localS) 0) m1 1 = 0xFEDCBA9876543210 ∧
    (((after (.ldv 3 (ma .localS) 0) m1).me.readV 3).extractLsb' 0 192).toNat = 0xFEDCBA98765432108877665544332280 := by decide
theorem test_load_f96m : reg (.lddF96m 1 (ma .localS) 0xFFFFFFFFF8) (regs [(8, 0x48)] m1) 1 = 0x8877665544332280 ∧
    pcOf (.lddF96m 1 (ma .localS) 0) m1 = 12 := by decide
theorem test_stores : sRead (after (.stb 9 (ma .localS) 1) (regs [(9, 0x1FF)] m1)) 0x40 4 = 0x4433FF80 ∧
    sRead (after (.std 9 (ma .localS) 8) (regs [(9, 5)] m1)) 0x40 16 = 0x0000000000000005_8877665544332280 ∧
    sRead (after (.stgF96m 10 (ma .localS) 0) (regs [(10, 1), (11, 2)] m1)) 0x40 16 = 2 ^ 65 + 1 := by decide
/-- The last bytes of S; one byte further is beyond it. -/
theorem test_store_at_end : sByte (after (.stb 9 (ma .localS) 0) (regs [(8, 0x3FFFF), (9, 7)] js)) 0x3FFFF = 7 ∧
    trapOf (.stb 9 (ma .localS) 0) (regs [(8, 0x40000)] js) = (true, 0x04, 0x40000, 0) := by decide
/-- A posted store of the context to its own core, by its identifier, that has not been performed. -/
def own1 : State := after (.std 10 ⟨8, 9, .none, .none, .plain, 0, .remoteS⟩ 0) (regs [(8, 0), (9, 0x40), (10, 0x77)] m1)
theorem test_own_bytes : reg (.ldb 1 (ma .localS) 0) (regs [(8, 0x40)] own1) 1 = 0x77 ∧
    waitOf (.std 9 (ma .localS) 0) (regs [(8, 0x40)] own1) = some .older := by decide
theorem test_hyps_LocalLoadsAndStores : (ma .localS).fe = .plain ∧ Claim.LocalAccess m1 (ma .localS) 0x40 64 ∧
    Claim.LocalAccess m1 (ma .localS) 0x3FFF8 8 ∧ (m1.core 0).s.consumes 0x40 64 [] = false ∧
    m1.ownBytes (some 0) 0x40 64 = [] ∧ m1.passes 0x40 64 = false ∧ own1.passes 0x40 8 = true ∧ (m1.core 0).undo.length ≤ 100 ∧ (m1.core 0).s.poisonedPart 0x40 64 = false := by
  refine ⟨rfl, ⟨rfl, ?_⟩, ⟨rfl, ?_⟩, ?_⟩ <;> decide

def am (op : GReg → GReg → Bool → MemAddr → BitVec 12 → Instr) (x c : Nat) : Nat × Nat :=
  let s := regs [(9, x), (10, c)] (inS 0x40 8 (2 ^ 63) js)
  (reg (op 10 9 false (ma .localS) 0) s 10, sRead (after (op 10 9 false (ma .localS) 0) s) 0x40 8)
theorem test_atomics : am .amoadd (2 ^ 63) 0 = (2 ^ 63, 0) ∧ am .amoand 1 0 = (2 ^ 63, 0) ∧ am .amoor 1 0 = (2 ^ 63, 2 ^ 63 + 1) ∧
    am .amoxor (2 ^ 63) 0 = (2 ^ 63, 0) ∧ am .amomin 1 0 = (2 ^ 63, 2 ^ 63) ∧ am .amomax 1 0 = (2 ^ 63, 1) := by decide
theorem test_atomics_rest : am .amominn 1 0 = (2 ^ 63, 1) ∧ am .amomaxn 1 0 = (2 ^ 63, 2 ^ 63) ∧ am .amoswp 5 0 = (2 ^ 63, 5) ∧
    am .amocas 5 (2 ^ 63) = (2 ^ 63, 5) ∧ am .amocas 5 6 = (2 ^ 63, 2 ^ 63) := by decide
theorem test_amofadd : (let s := regs [(9, 0x3F800000)] (inS 0x44 4 0x40000000 js)
    (reg (.amofadd 10 9 false (ma .localS) 0) s 10, sRead (after (.amofadd 10 9 false (ma .localS) 0) s) 0x44 4)) =
    (0x40000000, 0x40400000) := by decide
theorem test_hyps_LocalAtomics : (m1.me.da && true) = false ∧ m1.passes 0x44 4 = false ∧ Claim.LocalAccess m1 (ma .localS) 0x40 8 ∧
    (m1.core 0).s.poisoned 0x40 8 = false ∧ Claim.LocalAccess m1 (ma .localS) 0x44 4 ∧
    (f32.add 0x40000000 0x3F800000).2 &&& m1.me.enabled = 0 := by
  refine ⟨by decide, by decide, ⟨rfl, ?_⟩, by decide, ⟨rfl, ?_⟩, ?_⟩ <;> decide
def lrd : State := after (.lr 1 (ma .localS) 0) m1
theorem test_lr_sc : reg (.lr 1 (ma .localS) 0) m1 1 = 0x8877665544332280 ∧ reg (.sc 2 8 (ma .localS) 8) lrd 2 = 0 ∧
    sRead (after (.sc 2 8 (ma .localS) 8) lrd) 0x48 8 = 0x40 ∧ reg (.sc 2 8 (ma .localS) 0) m1 2 = 1 ∧
    sRead (after (.sc 2 8 (ma .localS) 0) m1) 0x40 8 = 0x8877665544332280 ∧ (after (.sc 2 8 (ma .localS) 8) lrd).me.resv = none := by decide
theorem test_hyps_LoadReserveStoreConditional : lrd.me.resv = some { ctx := 0, holder := .bank 0, granule := 0x40 } ∧
    m1.me.resv = none ∧ lrd.passes 0x40 8 = false ∧ (lrd.core 0).undo.length ≤ 100 := by decide

theorem test_alignment : trapOf (.ldd 1 (ma .localS) 4) m1 = (true, 0x0B, 0x44, 0) ∧ reg (.ldd 1 (ma .localS) 4) m1 1 = 0 ∧
    trapOf (.ldh 1 (ma .localS) 1) (regs [(8, 2 ^ 40)] js) = (true, 0x0B, 2 ^ 40 + 1, 0) := by decide
/-- A carve-out of 32 bytes at 0x100 with 16 bytes of overflow area. -/
def sp1 : State := (regs [(8, 0x1000000)] js).modMe fun x => { x with spillBase := 0x10, spillLimit := 2, ovfLen := 16, covf := 0x100 }
theorem test_spill : sByte (after (.stb 8 (ma .localS) 31) (regs [(8, 0x1000000)] sp1)) 0x11F = 0 ∧
    trapOf (.ldb 1 (ma .localS) 48) sp1 = (true, 0x0D, 0x1000030, 0) ∧
    trapOf (.ldb 1 (fem .first) 32) sp1 = (true, 0x0D, 0x1000020, 0) := by decide
/-- Segment s1 at 0x5000 of 0x100 bytes, all rights; s2 without rights. -/
def g1 : State := (regs [(8, 0x10), (9, 0xAB)] js).modMe fun x =>
  (x.writeSeg 1 { base := 0x5000, limit := 0x100, r := true, w := true, x := false, a := true }).writeSeg 2 { Seg.zero with limit := 0x100 }
def mg (n : SReg) : MemAddr := ⟨8, 0, .none, .none, .plain, n, .global⟩
theorem test_segment_checks : trapOf (.ldd 1 (mg 1) 0xF0) g1 = (true, 0x04, 0x100, 0) ∧ trapOf (.ldd 1 (mg 2) 0) g1 = (true, 0x05, 0x10, 0) ∧
    trapOf (.amoadd 1 2 true (ma .localS) 0) (g1.modMe fun x => { x with da := true }) = (true, 0x05, 0x10, 0) ∧
    trapOf (.ldd 1 (ma .clusterS) 0) (regs [(8, 2 ^ 23)] js) = (true, 0x04, 2 ^ 23, 0) := by decide
theorem test_hyps_AccessChecksInOrder : (Instr.ref (.ldd 1 (mg 1) 0)).isSome = true ∧ g1.me.hl = false ∧
    (g1.me.readSeg 1).limit = 0x100 ∧ (g1.me.readSeg 2).r = false ∧ 16 * sp1.me.spillBase.toNat + 32 ≤ 0x40000 := by decide
def da1 (a : Nat) : State := (regs [(8, a)] g1).modMe fun x => { x with da := true }
theorem test_hyps_AccessChecksInOrder_det : trapOf (.amoadd 1 2 true (ma .clusterS) 0) (da1 0x10) = (true, 0x05, 0x10, 0) ∧
    trapOf (.amoadd 1 2 true ⟨8, 0, .none, .none, .plain, 0, .remoteS⟩ 0) (da1 0x10) = (true, 0x05, 0, 0) ∧
    trapOf (.amoadd 1 2 true (ma .localS) 0) (sp1.modMe fun x => { x with da := true }) = (true, 0x05, 0x1000000, 0) := by decide


def fe1 : State := m1.modCore 0 fun k => { k with fe := tset false k.fe 4 true }
def feBit (s : State) (g : Nat) : Bool := tget false (s.core 0).fe g
theorem test_full_empty_loads : reg (.ldd 1 (fem .first) 0) fe1 1 = 0x8877665544332280 ∧ feBit (after (.ldd 1 (fem .first) 0) fe1) 4 = true ∧
    feBit (after (.ldd 1 (fem .second) 0) fe1) 4 = false ∧ waitOf (.ldd 1 (fem .first) 0) m1 = some (.granule 0x40) := by decide
theorem test_full_empty_stores : feBit (after (.std 8 (fem .first) 0) m1) 4 = true ∧ feBit (after (.std 8 (fem .second) 0) m1) 4 = true ∧
    waitOf (.std 8 (fem .second) 0) fe1 = some (.granule 0x40) ∧ sRead (after (.std 8 (fem .second) 0) fe1) 0x40 8 = 0x8877665544332280 := by
  decide
theorem test_hyps_FullEmptyAccesses : (fe1.core 0).feWait = [] ∧ (fem .first).fe ≠ .plain ∧ feBit fe1 4 = true ∧ feBit m1 4 = false ∧
    (fe1.core 0).undo.length ≤ 100 ∧ (fem .second).fe = .second := by decide

/-- The message that an instruction sends. -/
def sentOf (i : Instr) (s : State) : Option (Dest × Body) := ((after i s).net.getLast?).map fun m => (m.dest, m.body)
def far : Nat := mkId 24 0 3 0
def mr : MemAddr := ⟨8, 9, .none, .none, .plain, 0, .remoteS⟩
/-- g8 names core 3 of the cluster on the next die, g9 an offset; the job's rectangle reaches it. -/
def r1 : State := regs [(8, far), (9, 0x20), (10, 0x77)] js
theorem test_remote : sentOf (.ldd 1 mr 8) r1 = some (.core far, .load 0x28 8 .plain 0 0) ∧
    sentOf (.std 10 mr 0) r1 = some (.core far, .store .far 0x20 8 0x77 .plain 0x20) ∧ (after (.std 10 mr 0) r1).me.far = 1 ∧
    (after (.ldd 1 mr 8) r1).me.run = .reply (.ldd 1 mr 8) ∧ sentOf (.lr 1 mr 0) r1 = some (.core far, .lr 0x20) := by decide
theorem test_cluster : sentOf (.stw 10 (ma .clusterS) 0) (regs [(8, 2 ^ 18 * 5 + 0x40)] r1) =
    some (.core (mkId 0 0 5 0), .store .near 0x40 4 0x77 .plain (BitVec.ofNat 64 (2 ^ 18 * 5 + 0x40))) ∧
    sentOf (.amoadd 1 10 false (ma .clusterS) 0) (regs [(8, 2 ^ 18 * 5 + 0x40)] r1) =
      some (.core (mkId 0 0 5 0), .amo .add 0x40 0x77 0) := by decide
theorem test_global : sentOf (.std 9 (mg 1) 0) g1 = some (.home (2 ^ 36), .store .mem (at1 0x5010) 8 0xAB .plain 0x10) ∧
    (after (.std 9 (mg 1) 0) g1).me.mem = 1 ∧ sentOf (.sc 1 9 (mg 1) 0) g1 = some (.home (2 ^ 36), .sc (at1 0x5010) 0xAB) := by decide
/-- A load from a store of its own context that has not been performed. -/
def rfs1 : State := after (.std 10 mr 0) r1
theorem test_read_own_store : reg (.ldd 1 mr 0) rfs1 1 = 0x77 ∧ (after (.ldd 1 mr 0) rfs1).me.run = .active := by decide
def full : State := r1.modMe fun x => { x with far := 4095 }
theorem test_hyps_AccessesBeyondTheCore : (Instr.ref (.std 10 mr 0)).isSome = true ∧ r1.me.waitCountZero .none = true ∧
    r1.me.accessRefusal mr .store 0x20 8 = none ∧ r1.reaches 0 far = true ∧ r1.storeRoom .far = true ∧ full.storeRoom .far = false ∧
    waitOf (.std 10 mr 0) full = some .postRoom ∧ ((Instr.ref (.ldd 1 mr 0)).map fun r =>
      ((rfs1.rfsLoad r (some far) 0x20).isSome, r1.rfsLoad r (some far) 0x20)) = some (true, none) ∧ r1.reaches 0 (mkId 0 0 5 0) = true ∧ g1.me.accessRefusal (mg 1) .load 0x10 8 = none := by
  decide
/-- A core of cluster (48, 0), beyond the job's 48 columns. -/
def o1 : State := regs [(8, mkId 48 0 0 0), (9, 0x20), (10, 0x77)] js
theorem test_outside : reg (.ldd 1 mr 0) (regs [(1, 5)] o1) 1 = 0 ∧ (after (.ldd 1 mr 0) o1).me.cstat = 0x400 ∧
    (after (.ldd 1 mr 0) o1).net = [] ∧ ((after (.std 10 mr 0) o1).me.imprecise.map fun p => (p.cause, p.ceaddr.toNat)) =
      [(0x11, 2 ^ 63 + 0x20 * 2 ^ 32 + mkId 48 0 0 0)] ∧ (after (.std 10 mr 0) o1).me.far = 0 := by decide
theorem test_hyps_AccessesOutsideTheJob : o1.reaches 0 (mkId 48 0 0 0) = false ∧ o1.me.accessRefusal mr .load 0x20 8 = none ∧
    mr.space = .remoteS := by decide
def d1 : State := g1.modMe fun x => { x with da := true, tile := 3, round := 2 }
theorem test_deterministic_update : sentOf (.amoadd 1 9 true (mg 1) 0) d1 = some (.port 0, .det .add (at1 0x5010) 0xAB 0 0x10 1 3 2) ∧
    (after (.amoadd 9 9 true (mg 1) 0) d1).me.readG 9 = 0 ∧ (after (.amoadd 1 9 true (mg 1) 0) d1).me.mem = 1 := by decide
theorem test_hyps_DeterministicUpdates : d1.me.da = true ∧ d1.me.accessRefusal (mg 1) (.amo .add true) 0x10 8 = none ∧
    (d1.page (2 ^ 36)).irrevocable = false ∧ d1.me.mem ≠ 4095 ∧
    waitOf (.amoadd 1 9 true (mg 1) 0) (d1.modMe fun x => { x with mem := 4095 }) = some .postRoom := by decide

/-! ### Fences, rounds, mailboxes, channels, messages, splits, squads (R95 to R117, R195 to R212, R377 to R379) -/

def rec1 : LaunchRec :=
  { entry := 0x100, arg := 7, cores := 1, hm1 := 0, wm1 := 0, y0 := 0, x0 := 0, tasks := 2, cseg := 0, feclr := false, det := false,
    lap := false, ctxs := 1, segtab := 0x30000, quota := 1000, ttcnt := 0, segmask := 0, ttptr := 0, wlim := 5, spill := 0,
    ovfbase := 0, simglen := 0, ovfstride := 0, simg := 0, csched := 0, cscnt := 0, tlist := 0, cntaddr := 0x22000,
    initg := [1, 2, 3, 4, 5, 6, 7, 8] }
def q1 : Launch :=
  { job := 1, phase := 0, graph := 1, preds := [], record := rec1, prio := 0, bound := true, prepared := [0], state := .running, done := 0,
    tlist := [], next := 1, given := [], ran := [], votes := [], finished := [], closing := none, round := 0 }
/-- The launch placed. -/
def ls : State := js.setLaunch 1 (some q1)
def near1 : State := ls.modMe fun x => { x with near := 1 }

theorem test_fence : pcOf (.fence .module) ls = 8 ∧ waitOf (.fence .cluster) near1 = some .counters ∧ pcOf (.fence .core) near1 = 8 ∧
    sentOf (.fence .g) ls = some (.sequencer, .stampReq) ∧ (after (.fence .g) ls).me.run = .reply (.fence .g) := by decide
theorem test_waitc : pcOf (.waitc 6) near1 = 8 ∧ waitOf (.waitc 1) near1 = some .counters := by decide
theorem test_waitrs : pcOf .waitrs m1 = 8 ∧ waitOf .waitrs lrd = some (.reservation 0x40) := by decide
theorem test_rndclose : sentOf .rndclose ls = some (.controller 1, .vote 0 0) ∧ (after .rndclose ls).me.round = 1 ∧
    waitOf .rndclose ls = some .round ∧ waitOf .rndclose near1 = some .counters := by decide
def voted : State := after .rndclose ls
theorem test_hyps_FencesAndCounterWaits : ls.me.near = 0 ∧ ls.me.far = 0 ∧ ls.me.mem = 0 ∧ near1.me.near ≠ 0 ∧ ls.me.voted = false ∧
    voted.me.voted = true ∧ voted.launch 1 = some q1 ∧ waitOf .rndclose voted = some .round ∧
    pcOf .rndclose (voted.setLaunch 1 (some { q1 with round := 1 })) = 8 := by decide

def mb (i : Nat) (s : State) : Nat := (tget 0 (s.core 0).mb i).toNat
def mb1 : State := after (.mbset 3 0xFFFF) js
theorem test_mailbox : mb 3 mb1 = 0xFFFF ∧ mb 3 (after (.mbinc 3 2) mb1) = 1 ∧ reg (.mbrd 1 3) mb1 1 = 0xFFFF ∧
    pcOf (.mbwait 3 0x8000) mb1 = 16 ∧ waitOf (.mbwait 3 0x7FFF) mb1 = some (.mailbox 3) := by decide
theorem test_mailbox_remote : mb 3 (after (.mbincRemote 3 2 9) (regs [(9, 5)] mb1)) = 1 ∧
    sentOf (.mbincRemote 3 2 8) r1 = some (.core far, .mbInc .far 3 2) ∧ (after (.mbincRemote 3 2 8) r1).me.far = 1 ∧
    (after (.mbincRemote 3 2 8) o1).me.imprecise.length = 1 := by decide
theorem test_hyps_MailboxInstructions : ((0xFFFF : BitVec 16) - 0x8000).toNat < 2 ^ 15 ∧ 2 ^ 15 ≤ ((0xFFFF : BitVec 16) - 0x7FFF).toNat ∧
    mkId 0 0 0 0 = js.myCore ∧ mkId (xOf far) (yOf far) (cOf far) 0 ≠ r1.myCore ∧ r1.me.countRoom .far = true ∧
    o1.reaches 0 (mkId 48 0 0 0) = false := by decide

/-- A send record at 0x100 (R202): a spill ring of 2 granules at 0x200, for the receive record 0x140 of core 3 on the next die; a
receive record at 0x140 with its ring of 2 granules at 0x300, from the same core. -/
def ch1 : State := regs [(8, 0x100), (9, 0x140), (4, 0x11), (5, 0x22)] (inS 0x140 32
  (far + 2 ^ 32 * 0x300 + 2 ^ 50 * 2 + 2 ^ 64 * (2 ^ 32 + 2 ^ 46 * 0x100)) (inS 0x100 32
    (far + 2 ^ 46 * 0x140 + 2 ^ 128 * (2 ^ 32 * 0x200 + 2 ^ 50 * 2)) js))
/-- The first ring granule is full. -/
def ch2 : State := ch1.modCore 0 fun k => { k with s := k.s.write 16 0x300 16 (7 + 2 ^ 64 * 9), fe := tset false k.fe 0x30 true }
/-- Two granules are out. -/
def ch3 : State := ch1.modCore 0 fun k => { k with s := k.s.write 16 0x118 8 (2 ^ 48 * 2) }
theorem test_chsend : sentOf (.chsend 4 8) ch1 = some (.core far, .granule .far 0x100 0x140 0 ((0x22 : Word) ++ (0x11 : Word)) false 0) ∧
    ((after (.chsend 4 8) ch1).core 0).sendRec 0x100 = { (ch1.core 0).sendRec 0x100 with sent := 1, out := 1 } ∧
    (after (.chsend 4 8) ch1).me.far = 1 ∧ waitOf (.chsend 4 8) ch3 = some (.channel 0x100) := by decide
theorem test_chrecv : reg (.chrecv 4 9) ch2 4 = 7 ∧ reg (.chrecv 4 9) ch2 5 = 9 ∧ feBit (after (.chrecv 4 9) ch2) 0x30 = false ∧
    sentOf (.chrecv 4 9) ch2 = some (.core far, .refillReq 0x100) ∧ waitOf (.chrecv 4 9) ch1 = some (.channel 0x140) := by decide
theorem test_hyps_ChannelInstructions : (ch1.core 0).s.poisoned 0x100 32 = false ∧ (ch1.core 0).undo.length ≤ 100 ∧
    ((ch1.core 0).sendRec 0x100).clean = true ∧ ((ch1.core 0).recvRec 0x140).clean = true ∧ ((ch1.core 0).recvRec 0x140).sw = true ∧
    (ch1.core 0).feWait = [] ∧ ch1.reaches 0 far = true ∧ ch1.me.countRoom .far = true ∧
    (after (.chrecv 4 9) (ch2.modCore 0 fun k => { k with s := k.s.write 16 0x140 4 (mkId 48 0 0 0) })).me.imprecise.length = 1 ∧ trapOf (.chsend 4 8) (regs [(8, 0x400)] js) = (true, 0x14, 2 ^ 32 * 0x400 + 2, 0) ∧
    trapOf (.chrecv 4 9) (regs [(9, 0x400)] js) = (true, 0x14, 2 ^ 32 * 0x400 + 2, 0) ∧ ch1.me.hl = false := by decide

def named1 : NamedMsg := { launch := 1, dst := 0, task := 6, seq := 2, data := 0x5_0000000000000003 }
def nm : State := regs [(8, 6), (9, 2)] (ls.modCore 0 fun k => { k with named := [{ named1 with seq := 1 }, named1] })
theorem test_sendn : sentOf (.sendn 4 8) (regs [(4, 1), (5, 2)] r1) = some (.core far, .named .far
    { launch := 1, dst := far, task := 0, seq := 0, data := 0x2_0000000000000001 }) ∧ (after (.sendn 4 8) r1).me.sendSeq = 1 ∧
    (after (.sendn 4 8) o1).me.imprecise.length = 1 := by decide
theorem test_recvn : reg (.recvn 4 8 9) nm 4 = 3 ∧ reg (.recvn 4 8 9) nm 5 = 5 ∧ ((after (.recvn 4 8 9) nm).core 0).named =
    [{ named1 with seq := 1 }] ∧ waitOf (.recvn 4 8 9) (regs [(9, 3)] nm) = some (.named 6) := by decide
theorem test_hyps_NamedMessageInstructions : r1.reaches 0 far = true ∧ r1.me.countRoom .far = true ∧
    o1.reaches 0 (mkId 48 0 0 0) = false ∧ named1 ∈ (nm.core 0).named ∧ (nm.me.readG 8).setWidth 32 = named1.task ∧
    nm.me.row.launch.toNat = 1 := by decide

/-- A seal is prepared on the context's die. -/
def sealing : State := { ls with seals := { ls.seals with running := true } }.modDie 0 fun d => { d with prepared := true }
theorem test_sealpt : pcOf .sealpt ls = 8 ∧ waitOf .sealpt sealing = some (.seal false 1) ∧ (after .sealpt sealing).me.atSeal = true := by
  decide
theorem test_seal : waitOf .seal ls = some (.seal true 1) ∧ (after .seal ls).seals.requested = true ∧
    waitOf .seal sealing = some (.seal true 2) ∧
    pcOf .seal { after .seal ls with seals := { (after .seal ls).seals with split := 1 } } = 8 := by decide
theorem test_hyps_SplitInstructions : ((ls.die 0).prepared && !(ls.die 0).committed) = false ∧
    ((sealing.die 0).prepared && !(sealing.die 0).committed) = true ∧ (∀ n, ls.me.run ≠ .waiting (.seal true n)) ∧
    (after .seal ls).me.run = .waiting (.seal true 1) ∧ ls.replicaPhase = false ∧
    after .seal (after .seal ls) = after .seal ls := by
  refine ⟨?_, ?_, fun n => nofun, ?_, ?_, ?_⟩ <;> decide

/-- h3 holds the handle of entry 5 of die 23, h4 that of a die that does not exist. -/
def sq1 : State := regs [(5, 37), (6, 9)] (ls.modMe fun x => (x.writeH 3 0x5C05).writeH 4 (36 * 1024))
theorem test_squad_sent : sentOf (.sqopen true 2 5 8 1) sq1 = some (.directory 1, .squad 0xFFFF (.open 37 8 true)) ∧
    sentOf (.sqjoin 3 6) sq1 = some (.directory 23, .squad 0x5C05 (.join 9)) ∧
    sentOf (.sqred .max .n32 1 3 6) sq1 = some (.directory 23, .squad 0x5C05 (.red .max .n32 9)) ∧
    trapOf (.sqbar 4) sq1 = (true, 0x0C, 36 * 1024 + 2 ^ 16, 0) := by decide
theorem test_squad_sent_more : sentOf (.sqarrive 1 3) sq1 = some (.directory 23, .squad 0x5C05 .arrive) ∧
    sentOf (.sqvote .all 1 3 6) sq1 = some (.directory 23, .squad 0x5C05 (.vote .all true)) ∧
    sentOf (.sqinfo true 1 3) sq1 = some (.directory 23, .squad 0x5C05 (.info true)) := by decide
theorem test_hyps_SquadInstructionsAreSent : (sq1.me.readH 3).toNat / 1024 < 36 ∧ 36 ≤ (sq1.me.readH 4).toNat / 1024 ∧
    sq1.me.hl = false := by decide

/-! ### Vectors (R213 to R226) -/

def vset (l : List (VReg × Nat)) (s : State) : State := l.foldl (fun t e => t.modMe (·.writeV e.1 (BitVec.ofNat 512 e.2))) s
/-- A field of a vector register after an instruction. -/
def vf (i : Instr) (s : State) (r : VReg) (lo n : Nat) : Nat := (((after i s).me.readV r).extractLsb' lo n).toNat
def v1 : State := (vset [(1, 0x80_7F_FF_01), (2, 0x01_01_01_02), (3, 0x40000000_3F800000), (4, 0x3F800000_00000000), (5, 0x01_00_03_02)]
  (regs [(9, 0x1FF), (10, 65)] ls)).modMe fun x => (x.writeK 1 0b0101).writeK 2 0b0011

theorem test_vector_integer : vf (.vadd .i8 0 1 2 none) v1 0 0 32 = 0x81_80_00_03 ∧ vf (.vsub .n8 0 1 2 none) v1 0 0 32 = 0x7F_7E_FE_FF ∧
    vf (.vmul .i8 0 1 2 none) v1 0 0 32 = 0x80_7F_FF_02 ∧ vf (.vfma .i8 0 1 2 2 none) v1 0 0 32 = 0x81_80_00_04 ∧
    vf (.vadd .i8 1 1 2 (some 1)) v1 1 0 32 = 0x80_80_FF_03 := by decide
theorem test_vector_min_max : vf (.vmin .i8 0 1 2 none) v1 0 0 32 = 0x80_01_FF_01 ∧ vf (.vmax .n8 0 1 2 none) v1 0 0 32 = 0x80_7F_FF_02 ∧
    vf (.vabs .i8 0 1 none) v1 0 0 32 = 0x80_7F_01_01 ∧ vf (.vneg .n8 0 1 none) v1 0 0 32 = 0x80_81_01_FF := by decide
theorem test_vector_bits : vf (.vand .n8 0 1 2 none) v1 0 0 32 = 0x00_01_01_00 ∧ vf (.vor .n8 0 1 2 none) v1 0 0 32 = 0x81_7F_FF_03 ∧
    vf (.vxor .n8 0 1 2 none) v1 0 0 32 = 0x81_7E_FE_03 ∧ vf (.vshl .i8 0 1 2 none) v1 0 0 32 = 0x00_FE_FE_04 ∧
    vf (.vshr .i8 0 1 2 none) v1 0 0 32 = 0x40_3F_7F_00 ∧ vf (.vsra .i8 0 1 2 none) v1 0 0 32 = 0xC0_3F_FF_00 := by decide
def kf (i : Instr) (s : State) (r : KReg) : Nat := ((after i s).me.readK r).toNat
theorem test_vector_compare : kf (.vcmp .lt .i8 0 1 2 none) v1 0 = 0b1011 ∧ kf (.vcmp .ge .n8 0 1 2 (some 1)) v1 0 = 0b0100 ∧
    kf (.vcmp .le .f32 0 3 4 none) v1 0 = 2 ^ 16 - 4 := by decide
theorem test_vector_float : vf (.vadd .f32 0 3 4 none) v1 0 0 64 = 0x40400000_3F800000 ∧ vf (.vsub .f32 0 3 4 none) v1 0 0 64 = 0x3F800000_3F800000 ∧
    vf (.vmul .f32 0 3 4 none) v1 0 0 64 = 0x40000000_00000000 ∧ vf (.vrcp .f32 0 3 (some 2)) v1 0 0 64 = 0x3F000000_3F800000 := by decide
theorem test_vector_float_more : vf (.vrsq .f32 0 3 (some 1)) v1 0 0 32 = 0x3F800000 ∧ vf (.vex2 .f32 0 3 (some 2)) v1 0 0 64 = 0x40800000_40000000 ∧
    vf (.vlg2 .f32 0 3 (some 2)) v1 0 0 64 = 0x3F800000_00000000 := by decide
theorem test_hyps_VectorFloatLanes : Claim.laneFlags v1.me none 16 (fun _ => 0) &&& v1.me.enabled = 0 ∧
    (ElemTy.f32, f32) ∈ Claim.ieeeTypes ∧ v1.me.hl = false ∧
    trapOf (.vadd .f32 0 3 4 none) ((vset [(3, 0x7F800001)] v1).modMe fun x => { x with cfemask := 0x1F }) = (true, 0x07, 0x10, 0) := by
  decide
def v1e : State := (vset [(3, 0x7F800001), (6, 0x7FFF)] v1).modMe fun x => { x with cfemask := 0x1F }
theorem test_hyps_VectorFloatLanes_traps : trapOf (.vcmp .ge .f32 0 3 4 none) v1e = (true, 0x07, 0x10, 0) ∧ trapOf (.vcmp .ne .f32 0 3 4 none) v1e = (true, 0x07, 0x10, 0) ∧
    kf (.vcmp .ge .f32 0 3 4 none) v1 0 = 2 ^ 16 - 1 ∧ trapOf (.vmin .f32 0 3 4 none) v1e = (true, 0x07, 0x10, 0) := by decide
theorem test_hyps_VectorReductionsAndConversions_traps : trapOf (.vred .add .f32 1 3 (some 2)) v1e = (true, 0x07, 0x10, 0) ∧
    trapOf (.vscan .add .f32 0 3 none) v1e = (true, 0x07, 0x10, 0) := by decide
theorem test_hyps_VectorIntegerLanes : ElemTy.n8 ∈ Claim.signedTypes ++ Claim.unsignedTypes ∧ (0 : Flags) &&& v1.me.enabled = 0 := by decide
theorem test_vector_moves : vf (.vsel .i8 0 1 2 1) v1 0 0 32 = 0x01_7F_01_01 ∧ vf (.vbcast .i8 1 9 (some 2)) v1 1 0 32 = 0x80_7F_FF_FF ∧
    reg (.vext .i8 1 1 10) v1 1 = 2 ^ 64 - 1 ∧ reg (.vext .n8 1 1 10) v1 1 = 0xFF ∧ vf (.vins .i8 1 9 10) v1 1 0 32 = 0x80_7F_FF_01 := by
  decide
theorem test_vector_shuffle : vf (.vshuf .i8 0 1 5 none) v1 0 0 32 = 0xFF_01_80_7F ∧ vf (.vcmprs .i8 0 1 (some 1)) v1 0 0 32 = 0x00_00_7F_01 ∧
    vf (.vins .i8 1 9 0) v1 1 0 32 = 0x80_7F_FF_FF := by decide
theorem test_masks : kf (.kand 0 1 2) v1 0 = 1 ∧ kf (.kor 0 1 2) v1 0 = 7 ∧ kf (.kxor 0 1 2) v1 0 = 6 ∧ kf (.knot 0 1) v1 0 = 2 ^ 64 - 6 ∧
    kf (.kmov (.kg 0 9)) v1 0 = 0x1FF ∧ reg (.kmov (.gk 1 1)) v1 1 = 5 ∧ reg (.kpop 1 1) v1 1 = 2 := by decide
theorem test_kset : kf (.kset 0 10) v1 0 = 2 ^ 64 - 1 ∧ kf (.kset 0 6) (regs [(6, 3)] v1) 0 = 7 ∧ kf (.kmov (.kk 0 1)) v1 0 = 5 := by decide
theorem test_hyps_VectorMovesAndMasks : ElemTy.bf16 ∈ Claim.signedTypes ++ Claim.unsignedTypes ++ Claim.ieeeTypes.map Prod.fst := by decide
theorem test_vector_reduce : reg (.vred .add .i8 1 1 (some 2)) v1 1 = 0 ∧ reg (.vred .max .n8 1 1 none) v1 1 = 0xFF ∧
    vf (.vscan .add .n8 0 1 none) v1 0 0 32 = 0x7F_00_01_00 := by decide
theorem test_vector_convert : vf (.vcvt .i32 .f32 0 3 (some 2)) v1 0 0 64 = 0x2_00000001 ∧ vf (.vcvt .f32 .i8 0 1 (some 2)) v1 0 0 64 = 0xBF800000_3F800000 := by
  decide
theorem test_hyps_VectorReductionsAndConversions : ElemTy.l8a ∈ ([.l8a, .l8b, .l4] : List ElemTy) ∧
    (reduceList .add .i8 [0x01, 0xFF]).2 &&& v1.me.enabled = 0 ∧ (reduceList .add .i8 [0x01, 0xFF]).1 = 0 ∧
    ElemTy.i8 ∈ Claim.signedTypes ++ Claim.unsignedTypes := by decide
/-- Indices 4, skipped, and skipped in every other lane. -/
def vx : State := vset [(1, 2 ^ 512 - 2 ^ 32 + 4), (2, 0xAABBCCDD)] m1
theorem test_gather_scatter : vf (.vldx 3 1 (ma .localS) 0) vx 3 0 64 = 0x88776655 ∧
    sRead (after (.vstx 2 1 (ma .localS) 0) vx) 0x40 8 = 0xAABBCCDD_44332280 ∧
    trapOf (.vldx 3 1 (ma .localS) 1) vx = (true, 0x0B, 0x45, 0) := by decide
theorem test_hyps_GathersAndScatters : (vx.core 0).undo.length ≤ 80 ∧ (vx.core 0).s.poisonedPart 0x44 4 = false ∧
    vx.ownBytes (some 0) 0x44 4 = [] ∧ vx.passes 0x44 4 = false ∧ (vx.core 0).s.consumes 0x44 4 [] = false ∧ (ma .localS).fe = .plain := by decide
/-- Lanes past the end of S, of the spill window and of a segment, and without the right. -/
def vs : State := m1.modMe fun x => ({ x with spillBase := 0x10, spillLimit := 2, ovfLen := 0 }).writeSeg 2 { Seg.zero with limit := 0x100 }
theorem test_hyps_GathersAndScatters_lanes : Claim.laneCause vs.me (ma .localS) false 0x40000 = some 0x04 ∧ Claim.laneCause vs.me (ma .localS) false 0x1000020 = some 0x0D ∧
    Claim.laneCause vs.me ⟨8, 0, .none, .none, .plain, 2, .global⟩ false 0x100 = some 0x04 ∧
    Claim.laneCause vs.me ⟨8, 0, .none, .none, .plain, 2, .global⟩ false 0x40 = some 0x05 ∧ Claim.laneCause vs.me (ma .localS) false 0x44 = none ∧
    vs.me.hl = false ∧ trapOf (.vldx 3 1 ⟨8, 0, .none, .none, .plain, 2, .global⟩ 0) (vset [(1, 2 ^ 512 - 2 ^ 32 + 4)] vs) = (true, 0x05, 0x44, 0) := by decide


/-! ### Engines and collectives (R137 to R139, R155, R228 to R257, R381 to R384) -/

/-- Entries: t3, t4, t5 integers of 8 bits, 2 x 4, at 0x100, 0x200 and 0x300 of S; t6 slot 1 and t7 slot 2, 8-bit log codes; t8 tile 2,
4 x 16; t9 FP32 of 4 x 16 at 0x400 in S; t10 log codes as slot 1 holds them, at 0x800 in S; t11 as t3 with one column. -/
def ti (base rows cols : Nat) : Tensor :=
  { Tensor.reset with valid := true, kind := .int, sgn := true, base := BitVec.ofNat 48 base, rows := BitVec.ofNat 32 rows,
                      cols := BitVec.ofNat 32 cols, stride := BitVec.ofNat 40 cols }
def tp (space base : Nat) : Tensor :=
  { Tensor.reset with valid := true, kind := .log, sgn := true, fa := 7, fb := 3, bias := 64, space := BitVec.ofNat 2 space,
                      base := BitVec.ofNat 48 base, rows := 16, cols := 32, stride := 32 }
def tf (space base : Nat) : Tensor :=
  { Tensor.reset with valid := true, kind := .ieee, space := BitVec.ofNat 2 space, base := BitVec.ofNat 48 base, rows := 4,
                      cols := 16, stride := 64 }
def noWait : WaitSig := { we := false, wth := 0, wmb := 0, sinc := 0, smb := 0 }
def ents : List (Nat × Tensor) :=
  [(3, ti 0x100 2 4), (4, ti 0x200 2 4), (5, ti 0x300 2 4), (6, tp 1 512), (7, tp 1 1024), (8, tf 2 512), (9, tf 0 0x400),
   (10, tp 0 0x800), (11, ti 0x380 2 1), (12, { tf 2 768 with rows := 16, cols := 4, stride := 16 }),
   (13, { tf 0 0x600 with kind := .log, sgn := true, fa := 7, fb := 3, bias := 64, stride := 16 }), (14, { tf 2 768 with rows := 16, cols := 4, stride := 16 }), (16, { tf 2 512 with rows := 16, cols := 4, stride := 16 }),
   (17, { tf 2 768 with rows := 16, cols := 4, stride := 16 }), (20, { ti 0 2 4 with fa := 4 }), (22, tf 2 512), (23, tf 2 768)]
def e0 : State := regs [(9, 4), (10, 0x04090005), (11, 0x0302)] (ls.modCore 0 fun k =>
  { k with tt := ents.foldl (fun m e => tset Tensor.reset m e.1 e.2) [], pclaim := [(1, 1), (2, 1)], qclaim := [(2, 1), (3, 1)] })
/-- The refusal of a command, and how many commands the queues of core 0 hold after it. -/
def kick (i : Instr) (s : State) : Option (Nat × Nat) × Nat × Nat × Nat × Nat :=
  let k := (after i s).core 0
  ((s.cmdRefusal 0 i (Instr.argOf s.me i) true).map fun e => (e.1.toNat, e.2.toNat), k.matrixQ.length, k.vectorQ.length, k.copyQ.length,
    pcOf i s)
theorem test_vector_commands : kick (.vemap .add 5 3 4 noWait) e0 = (none, 0, 1, 0, 16) ∧ kick (.vered .max 11 3 noWait) e0 = (none, 0, 1, 0, 16) ∧
    kick (.vescan .bxor 5 3 noWait) e0 = (none, 0, 1, 0, 16) ∧ kick (.vecvt 5 3 noWait) e0 = (none, 0, 1, 0, 16) := by decide
theorem test_tile_commands : kick (.qld 8 9 noWait) e0 = (none, 0, 1, 0, 16) ∧ kick (.qst 9 8 noWait) e0 = (none, 0, 1, 0, 16) ∧
    kick (.qstl 13 8 noWait) e0 = (none, 0, 1, 0, 16) ∧ kick (.qcvt .copy 8 8 noWait) e0 = (none, 0, 1, 0, 16) := by decide
theorem test_matrix_commands : kick (.mma .s1x4 false 8 6 7 noWait) e0 = (none, 1, 0, 0, 16) ∧
    kick (.mmag .s1x4 false 8 6 7 9 noWait) e0 = (none, 1, 0, 0, 16) ∧ kick (.qzero 8 noWait) e0 = (none, 1, 0, 0, 16) := by decide
theorem test_copy_commands : kick (.pload false 6 10 noWait) e0 = (none, 0, 0, 1, 16) ∧ kick (.cpy 4 3 noWait) e0 = (none, 0, 0, 1, 16) ∧
    kick (.cpyx true false 4 3 9 noWait) e0 = (none, 0, 0, 1, 16) ∧ (after (.cpy 4 3 noWait) e0).me.openBatch = [e0.nextId] := by decide
/-- A quota of 5 units, of which a CPY of 8 bytes takes one; a full queue. -/
def e1 : State := e0.modMe fun x => { x with quota := 5, cquota := 5 }
def e2 : State := after (.cpy 4 3 noWait) (after (.cpy 4 3 noWait) e0)
def e3 : State := after (.cpy 4 3 noWait) e2
theorem test_hyps_EngineCommandsEnterTheirQueue : (after (.cpy 4 3 noWait) e1).me.cquota = 4 ∧ e0.me.kick = none ∧ e0.me.lap = false ∧
    (e0.core 0).copyQ.length = 0 ∧ (e2.core 0).copyQ.length = 2 ∧ waitOf (.cpy 4 3 noWait) e2 = some .queueRoom ∧
    (e3.me.kick.map fun m => (m.instr, m.ctx)) = some (.cpy 4 3 noWait, 0) ∧ ¬(e3.core 0).copyQ.length < 2 ∧
    kick (.cpy 4 3 noWait) (e3.modCore 0 fun k => { k with copyQ := [] }) = (none, 0, 0, 1, 48) := by decide

/-- The example of R381, ceaddr 0x1203: entry 3 is not valid, and is operand TB. -/
def e4 : State := regs [(9, 0x0409_0005)] (e0.modCore 0 fun k => { k with tt := tset Tensor.reset k.tt 3 Tensor.reset })
theorem test_tensor_refusals : trapOf (.mma .s4x1 false 12 6 3 noWait) e4 = (true, 0x09, 0x1203, 0) ∧
    trapOf (.cpy 20 3 noWait) e0 = (true, 0x09, 0x2014, 0) ∧ trapOf (.cpy 8 3 noWait) e0 = (true, 0x09, 0x3008, 0) ∧
    trapOf (.cpy 4 11 noWait) e0 = (true, 0x09, 0x810B, 0) := by decide
/-- The example of R383. -/
theorem test_group_bounds : trapOf (.mmag .s4x1 false 14 6 7 10 noWait) (e0.modMe fun x => { x with gbt := true }) =
    (true, 0x12, 0x0000000304090005, 0) := by decide
theorem test_slot_refusal : trapOf (.qzero 8 noWait) (e0.modCore 0 fun k => { k with qclaim := [] }) = (true, 0x0A, 0x1102, 0) ∧
    trapOf (.pload false 6 10 noWait) (e0.modCore 0 fun k => { k with pclaim := [(1, 2)] }) = (true, 0x0A, 0x1001, 0) := by decide
theorem test_hyps_EngineCommandsRefused : e4.me.kick = none ∧ e4.me.hl = false ∧ (tget Tensor.reset (e4.core 0).tt 3).valid = false ∧
    trapOf (.cpy 3 4 noWait) e4 = (true, 0x09, 0x1003, 0) ∧ (tget Tensor.reset (e0.core 0).tt 20).valid = true ∧
    (tget Tensor.reset (e0.core 0).tt 20).sound = false ∧ trapOf (.mmag .s4x1 false 3 6 7 9 noWait) e4 = (true, 0x09, 0x1403, 0) ∧
    trapOf (.mmag .s4x1 false 20 6 7 9 noWait) e0 = (true, 0x09, 0x2414, 0) ∧ (e4.me.readG 9).toNat % 256 ≠ 0 ∧
    e0.cmdRefusal 0 (.cpy 8 3 noWait) 0 true = some (0x09, 0x3008) := by decide

/-- The command at the head of an engine's queue of core 0 has started; its completion. -/
def running (i : Instr) (s : State) : State :=
  let t := after i s
  let f (m : Cmd) : Cmd := { m with started := true, granted := true, asked := true, data := t.startData m }
  t.modCore 0 fun k => { k with matrixQ := k.matrixQ.map f, vectorQ := k.vectorQ.map f, copyQ := k.copyQ.map f }
def done (i : Instr) (s : State) : State :=
  let t := running i s
  nextOf t (execEngineCommandComplete 0 (Instr.engine i) t)
/-- Data for the entries: A, B, FP32 1.0, 2.0 and -3.0, and log codes of 1.0 in slots 1 and 2 with a 2.0 and a -1.0. -/
def e5 : State := e0.modCore 0 fun k =>
  { k with s := (((k.s.write 16 0x100 8 0x80FF017F_FF030201).write 16 0x200 8 0x0101010101010101).write 16 0x400 12
             0xC040000040000000_3F800000).write 16 0x800 3 0x484040,
           p := ((k.p.write 128 512 4 0x48404040).write 128 576 1 0x40).write 128 1024 4 0xC0404040,
           q := k.q.write 128 512 12 0xC040000040000000_3F800000 }
def sAt (i : Instr) (a n : Nat) : Nat := sRead (done i e5) a n
def qAt (i : Instr) (a n : Nat) : Nat := ((done i e5).core 0).q.cells.read a n
theorem test_vemap : sAt (.vemap .add 5 3 4 noWait) 0x300 8 = 0x81000280_00040302 ∧
    sAt (.vemap .neg 5 3 0 noWait) 0x300 8 = 0x8001FF81_01FDFEFF := by decide
theorem test_vered_vescan : sAt (.vered .add 11 3 noWait) 0x380 4 = 0xFF05 ∧ sAt (.vescan .add 5 3 noWait) 0x300 8 = 0x7F807F00_06030100 := by
  decide
theorem test_vecvt : sAt (.vecvt 5 3 noWait) 0x300 8 = 0x80FF017F_FF030201 := by decide
theorem test_mma : qAt (.mma .s1x4 false 8 6 7 noWait) 512 12 = 0xC040000040000000_40000000 := by decide
/-- Rows 0 and 1 of A, then rows 2 and 3 and a clipped one. -/
theorem test_mmag : qAt (.mmag .s1x4 true 22 6 7 11 noWait) 512 12 = 0x3F800000 ∧ qAt (.mmag .s1x4 true 22 6 7 11 noWait) 768 4 = 0x3F800000 ∧
    (done (.mmag .s1x4 true 22 6 7 11 noWait) e5).me.cstat = 0x800 := by decide
theorem test_qzero : qAt (.qzero 8 noWait) 512 12 = 0 := by decide
theorem test_qld_qst : qAt (.qld 8 9 noWait) 512 12 = 0xC040000040000000_3F800000 ∧ sAt (.qst 9 8 noWait) 0x400 12 = 0xC040000040000000_3F800000 ∧
    sAt (.qstl 13 8 noWait) 0x600 4 = 0xCD4840 ∧ (done (.qstl 13 8 noWait) e5).me.cstat = 0 := by decide
theorem test_qcvt : qAt (.qcvt .tr 12 8 noWait) 768 4 = 0x3F800000 ∧ qAt (.qcvt .tr 12 8 noWait) 784 4 = 0x40000000 := by decide
theorem test_copies : ((done (.pload false 6 10 noWait) e5).core 0).p.cells.read 512 4 = 0x484040 ∧
    sAt (.cpy 4 3 noWait) 0x200 8 = 0x80FF017F_FF030201 ∧ ((done (.cpyx false true 4 3 9 { noWait with sinc := 1, smb := 7 })
      (regs [(9, far)] e5)).core far).s.cells.read 0x200 8 = 0x80FF017F_FF030201 := by decide
theorem test_cpyx_signal : mb 7 (done (.cpyx true false 4 3 9 { noWait with sinc := 3, smb := 7 }) e5) = 3 := by decide
/-- Contexts 0 and 1 of core 0 are ranks 0 and 1 of the squad of entry 5 of die 0, in generation 1. -/
def mem0 : Member := { ctx := 0, launch := 1, rank := 0, first := 0, active := true, arrivals := 1, leaving := none, unseen := none }
def mem1 : Member := { ctx := ctxOf 0 1, launch := 1, rank := 1, first := 0, active := true, arrivals := 1, leaving := none, unseen := none }
def sq0 : Squad :=
  { name := 9, job := 1, forming := 2, gang := false, gen := 1, formed := true, members := [mem0, mem1], departed := false,
    contribs := [], kept := [], proxy := false }
def e6 : State := ((regs [(12, 0)] e5).setSquad 5 (some sq0)).modMe fun x => x.writeH 2 5
def collKick (i : Instr) (s : State) : Nat × Nat × List (Nat × Nat) :=
  let t := after i s
  (pcOf i s, ((t.cluster 0).coll 0).length, (t.colls.map fun g => (g.gen.toNat, g.parts.length)))
theorem test_collectives : collKick (.creduce .add 2 12 5 3 noWait) e6 = (16, 1, [(1, 1)]) ∧ collKick (.cbcast 2 12 5 3 noWait) e6 = (16, 1, [(1, 1)]) ∧
    collKick (.callred .add 2 5 3 noWait) e6 = (16, 1, [(1, 1)]) ∧ collKick (.cgather 2 5 3 noWait) e6 = (16, 1, [(1, 1)]) := by decide
theorem test_collective_refusals : trapOf (.callred .add 3 5 3 noWait) e6 = (true, 0x0C, 0x1FFFF, 0) ∧
    trapOf (.callred .add 2 5 3 noWait) (e6.setSquad 5 (some { sq0 with members := [mem1] })) = (true, 0x0C, 0x20005, 0) := by decide
def e7 : State := after (.callred .add 2 5 3 noWait) e6
/-- The queue of the cluster's engine 0 with 16 commands of core 1. -/
def e8 : State := e6.modCluster 0 fun q => { q with coll0 := (span 0 16).map fun _ => (mkId 0 0 0 0, (e7.me.kick.getD (e6.command 0 (.nop) 0 true false))) }
theorem test_hyps_CollectivesArriveAndQueue : e6.squadOf 0 5 = some sq0 ∧ sq0.member 0 1 = some mem0 ∧ e6.me.kick = none ∧
    sq0.ahead mem0.next = 0 ∧ e6.cmdRefusal 0 (.callred .add 2 5 3 noWait) 0 true = none ∧
    sq0.ahead { mem0 with arrivals := 3 }.next = 2 ∧ waitOf (.callred .add 2 5 3 noWait)
      (e6.setSquad 5 (some { sq0 with members := [{ mem0 with arrivals := 3 }] })) = some (.generation 5 2) ∧
    waitOf (.callred .add 2 5 3 noWait) e8 = some .queueRoom ∧ e6.me.hl = false ∧ e6.squadOf 0 (e6.me.readH 3) = none := by decide
/-- Both members have read A (1, 2, 3, -1 in row 0, and -1 of the second in column 3); generation 1 has completed. -/
def coll1 (i : Instr) : State :=
  let t := running i e6
  let f (g : Coll) : Coll := { g with closed := true, parts := g.parts.map (fun p => { p with read := true, data := [(0, 0, 1), (0, 3, 0xFF)] }) ++
    [{ ctx := ctxOf 0 1, rank := 1, cmd := t.command 1 i 0 true false, read := true, data := [(0, 0, 4), (0, 3, 0xFF)], done := false }] }
  let m (p : CoreId × Cmd) : CoreId × Cmd := (p.1, { p.2 with started := true, granted := true, asked := true })
  { t with colls := t.colls.map f }.modCluster 0 fun q => { q with coll0 := q.coll0.map m }
def collAt (i : Instr) (n : Nat) : Nat := sRead (nextOf s0 (execEngineCommandComplete 0 .collective (coll1 i))) 0x300 n
theorem test_collective_results : collAt (.callred .add 2 5 3 noWait) 4 = 0xFE000005 ∧ collAt (.creduce .max 2 12 5 3 noWait) 4 = 0xFF000004 ∧
    collAt (.cbcast 2 12 5 3 noWait) 4 = 0xFF000001 := by decide

/-- The tensor table. -/
def img : Nat := 2 ^ 63 + 2 ^ 61 * 2 + 2 ^ 60 + 0x7FC00000 + 2 ^ 64 * 0x100 + 2 ^ 128 * (4 + 2 ^ 32 * 2) + 2 ^ 192 * 4
def e9 : State := regs [(8, 0x140), (9, 0xFFFFFFFF_00000005)] (inS 0x140 32 img e0)
theorem test_tdef : tget Tensor.reset ((after (.tdef 7 8 0) e9).core 0).tt 7 = ti 0x100 2 4 ∧ trapOf (.tdef 7 8 8) e9 = (true, 0x0B, 0x148, 0) ∧
    trapOf (.tdef 7 8 0xFFFE0) (regs [(8, 0)] e9) = (true, 0x04, 2 ^ 64 - 32, 0) ∧ trapOf (.tdef 7 8 32) e9 = (true, 0x09, 0x2007, 0) := by decide
theorem test_trd : reg (.trd 1 3 0) e9 1 = 2 ^ 63 + 2 ^ 61 * 2 + 2 ^ 60 + 0x7FC00000 ∧ reg (.trd 1 3 2) e9 1 = 4 + 2 ^ 32 * 2 ∧
    reg (.trd 1 0 0) s0 1 = 0x7FC00000 := by decide
theorem test_tset : tget Tensor.reset ((after (.tset .rows 3 9) e9).core 0).tt 3 = { ti 0x100 2 4 with rows := 5 } ∧
    trapOf (.tset .seg 3 9) e9 = (true, 0x09, 0x2003, 0) ∧ trapOf (.tset .base 0 9) e9 = (true, 0x09, 0x1000, 0) ∧
    (tget Tensor.reset ((after (.tset .valid 3 8) e9).core 0).tt 3).valid = false := by decide
theorem test_hyps_TensorTableInstructions : (e9.core 0).s.consumes 0x140 32 [] = false ∧ e9.ownBytes (some 0) 0x140 32 = [] ∧
    (ti 0x100 2 4).sound = true ∧ Tensor.reset.sound = false ∧ (ti 0x100 2 4).valid = true ∧ { ti 0x100 2 4 with seg := 5 }.sound = false ∧
    (e9.me.readG 9).getLsbD 0 = true ∧ (e9.me.readG 8).getLsbD 0 = false ∧ trapOf (.tset .valid 0 9) e9 = (true, 0x09, 0x2000, 0) ∧
    (tget Tensor.reset ((after (.tset .valid 3 9) e9).core 0).tt 3).valid = true := by decide

/-- Claims: context 1 holds tile 5. -/
def cl : State := (regs [(8, 3)] ls).modCore 0 fun k => { k with pclaim := [(3, 1), (4, 1)], qclaim := [(5, 2)] }
theorem test_claims : reg (.pclaim 1 8 124 0) cl 1 = 0 ∧ tget 0 ((after (.pclaim 1 8 124 0) cl).core 0).pclaim 127 = 1 ∧
    reg (.qclaim 1 8 0 2) cl 1 = 1 ∧ tget 0 ((after (.qclaim 1 8 0 2) cl).core 0).qclaim 3 = 0 ∧
    trapOf (.qclaim 1 8 124 1) cl = (true, 0x0A, 2 ^ 32 * 127 + 0x3100, 0) := by decide
theorem test_releases : ((after (.prel 8 0 1) cl).core 0).pclaim = [] ∧ trapOf (.prel 8 0 2) cl = (true, 0x0A, 0x2005, 0) ∧
    trapOf (.qrel 8 2 0) cl = (true, 0x0A, 0x2105, 0) ∧ waitOf (.prel 12 1 0) (after (.mma .s1x4 false 8 6 7 noWait) e0) = some .commands := by decide
theorem test_hyps_ClaimsOfSlotsAndTiles : (3 : Nat) + 2 ≤ 128 ∧ tget 0 ((cl.core 0).claims false) 3 = kOf cl.cur + 1 ∧
    tget 0 ((cl.core 0).claims true) 5 ≠ kOf cl.cur + 1 ∧ tget 0 ((cl.core 0).claims true) 5 ≠ 0 ∧ 128 < (3 + 124) + 2 ∧ cl.me.hl = false ∧
    cl.commandsOf cl.cur = [] := by decide

/-- Stages and batches: the CPY of e2's queue are in the open batch. -/
theorem test_cstage : reg (.cstage 1 0xFFFFF) (ls.modCore 0 fun k => { k with stage := 0xFFFFFFFF }) 1 = 0xFFFFE := by decide
def bt : State := after (.bclose .module 1) (after (.cpy 4 3 noWait) e0)
theorem test_batches : bt.me.readG 1 = 0 ∧ bt.me.nextBatch = 1 ∧ (bt.me.closed.map fun b => (b.num.toNat, b.unread.length, b.unlanded.length)) = [(0, 1, 1)] ∧
    waitOf (.bwaitRel 0) bt = some .batch ∧ pcOf (.bwaitRel 1) bt = 32 ∧ waitOf (.bwaitLand 0) bt = some .batch ∧ pcOf (.bwaitLand 1) bt = 32 := by
  decide
theorem test_ewait : waitOf (.ewait 4) bt = some .batch ∧ pcOf (.ewait 0xB) bt = 32 := by decide
def full16 : State := bt.modMe fun x => { x with closed := (span 0 16).map fun n => { num := BitVec.ofNat 32 n, scope := .module, unread := [], unlanded := [9] } }
theorem test_hyps_StagesBatchesAndEngineWaits : bt.me.closed.length < 16 ∧ full16.me.closed.length = 16 ∧
    waitOf (.bclose .module 1) full16 = some .batch ∧ bt.commandsOf bt.cur ≠ [] ∧ s0.commandsOf s0.cur = [] := by decide

theorem test_hyps_HaltNopYieldSegments_commands : (bt.modMe fun x => { x with hl := true }).commandsOf bt.cur ≠ [] ∧ bt.me.near = 0 ∧ bt.me.far = 0 ∧
    bt.me.mem = 0 ∧ waitOf .halt (bt.modMe fun x => { x with hl := true }) = some .commands := by decide
/-- Context images. -/
def im0 : State := (regs [(1, 0x11), (31, 0x31), (8, 0x100)] jh).modMe fun x =>
  { (x.writeV 7 (BitVec.ofNat 512 (2 ^ 511))) with cepc := 5, loopEnd := 0x77, sendSeq := 0xABCD, cvec := 3, cquota := 9, pc := 0x60 }
def im1 : State := after (.ctxsave 8) im0
def im2 : State := after (.ctxload 8) (regs [(8, 0x100)] (im1.setCtx 0 { jh.me with cquota := 4 }))
theorem test_ctxsave : sRead im1 0x100 8 = 0x11 ∧ sRead im1 (0x100 + 0xF0) 8 = 0x31 ∧ sRead im1 (0x100 + 0xF8) 8 = 0x68 ∧
    sByte im1 (0x100 + 0x2FF) = 0x80 ∧ sRead im1 (0x100 + 0x3F0) 8 = 20 ∧ sRead im1 (0x100 + 0x428) 8 = 0x9_0000ABCD := by decide
theorem test_ctxload : im2.me.readG 1 = 0x11 ∧ im2.me.readG 31 = 0x31 ∧ im2.me.pc = 0x68 ∧ im2.me.loopEnd = 0x77 ∧ im2.me.cepc = 5 ∧ im2.me.cvec = 3 ∧
    (im2.me.readV 7).toNat = 2 ^ 511 ∧ im2.me.sendSeq = 0xABCD ∧ im2.me.cquota = 4 := by decide
theorem test_hyps_ContextImages : im0.me.hl = true ∧ (im0.core 0).undo.length ≤ 100 ∧ (im1.core 0).s.consumes 0x100 1072 [] = false ∧
    im1.ownBytes (some 0) 0x100 1072 = [] ∧ im0.passes 0x100 1072 = false ∧ trapOf (.ctxload 8) js = (true, 0x03, 0, 0) ∧ (after (.ctxsave 8) (regs [(8, 0x104)] jh)).me.run = .halted ∧
    (after (.ctxload 8) (regs [(8, 0x3FC00)] jh)).me.ctrap = 0x04 := by decide

/-- An image whose segment rights, cspill and cmode bits are all set. -/
def allSet : State := jh.modMe fun x => ({ x with gbt := true, nlt := true, bps := true, da := true, spillBase := 3, spillLimit := 5, ovfLen := 9, covf := 7 }).writeSeg 5
  { base := 1, limit := 2, r := true, w := true, x := true, a := true }
def im3 : State := after (.ctxload 8) (regs [(8, 0x100)] ((after (.ctxsave 8) (regs [(8, 0x100)] allSet)).setCtx 0 jh.me))
theorem test_ctxload_more : (im3.me.gbt, im3.me.nlt, im3.me.bps, im3.me.da, im3.me.hl) = (true, true, true, true, true) ∧ im3.me.readSeg 5 = allSet.me.readSeg 5 ∧
    (im3.me.spillBase, im3.me.spillLimit, im3.me.ovfLen, im3.me.covf) = (3, 5, 9, 7) := by decide

/-- The end of a task: launch 1 has two tasks on one tile, or one more. -/
def q2 : Launch := { q1 with record := { rec1 with tasks := 3 } }
def te : State := (ls.setLaunch 1 (some q2)).bringIn (pageOf (at1 0x22000))
theorem test_tend : (after .tend te).me.run = .idle ∧ (after .tend te).gRead (at1 0x22000) 8 = 1 ∧ ((after .tend te).launch 1).map (·.done) = some 1 ∧
    waitOf .tend near1 = some .counters ∧ waitOf .tend bt = some .commands := by decide
theorem test_tend_last : ((after .tend (te.setLaunch 1 (some { q2 with done := 2 }))).launch 1).map (fun q => (q.done, q.state)) = some (3, .complete) ∧
    (after .tend (te.setLaunch 1 (some { q2 with done := 2 }))).gRead (at1 0x22000) 8 = 2 ^ 62 + 3 := by decide
theorem test_hyps_TaskEnd : te.commandsOf te.cur = [] ∧ te.me.near = 0 ∧ te.me.far = 0 ∧ te.me.mem = 0 ∧ te.launch te.me.row.launch.toNat = some q2 ∧
    q2.done + 1 ≠ q2.record.tasks ∧ q2.record.cntaddr.toNat % 8 = 0 ∧ (te.pageAt (at1 0x22000)).discarded = false ∧ (te.pageAt (at1 0x22000)).frame = some 1 ∧
    (te.pageAt (at1 0x22000)).irrevocable = false ∧ (te.die (dieOf (te.pageAt (at1 0x22000)).home)).undo = [] ∧ (q2.nextTask 0).isSome = true ∧
    ({ q2 with record := rec1, next := 2, ran := [(0, 1)] }.nextTask 0).isSome = false ∧ s0.launch 0 = none ∧ (after .tend s0).me.run = .idle := by decide
theorem test_hyps_TaskEnd_frames : Safety.FramesOk te := framesOk te (by decide)
/-- A launch with DET = 1 and a further task: it starts at once. -/
def teDet : State := te.setLaunch 1 (some { q2 with record := { q2.record with det := true }, ran := [(0, 1)] })
theorem test_tend_det : (after .tend teDet).me.run = .active ∧ (after .tend teDet).me.pc = 0x100 ∧ (after .tend teDet).me.readG 1 = 1 ∧
    (after .tend te).me.row = te.me.row ∧ teDet.phaseKnown 0 1 0 = true ∧ (teDet.die 0).prepared = false ∧
    teDet.me.dbgHalt = false := by decide
/-! ### Messages at their destinations (R96, R97, R100, R106, R188, R197 to R210, R394 to R396, R408, R439) -/

/-- Message 100 from context 0 in flight. -/
def msg (d : Dest) (b : Body) : Msg :=
  { id := 100, src := 0, launch := 1, die := 0, source := .core 0, dest := d, body := b, seq := 0, clock := [], retry := false, recorded := false }
def put (m : Msg) (s : State) : State := { s with net := s.net ++ [m], nextId := 101 }
def sends (d : Dest) (b : Body) (s : State) : State := put (msg d b) s
/-- The message answers Claim.Arrives. -/
def arrives (s : State) : Bool := match s.msg 100 with
  | some m => s.ready m && !m.retry && !m.recorded && !s.dies.any fun d => d.2.carried.contains 100
  | none => false
/-- What the network holds after an event. -/
def left (i : Instr) (s : State) : List (Dest × Body) := (after i s).net.map fun m => (m.dest, m.body)

def st1 : State := sends (.core far) (.store .far 0x20 4 0xAABBCCDD .plain 0) ls
theorem test_remote_write : ((after (.remoteWriteArrival 100) st1).core far).s.cells.read 0x20 5 = 0xAABBCCDD ∧
    left (.remoteWriteArrival 100) st1 = [(.ctx 0, .ack .far 100)] := by decide
def inc1 : State := sends (.core far) (.mbInc .far 3 2) (ls.modCore far fun k => { k with mb := [(3, 0xFFFF)] })
theorem test_remote_increment : tget 0 ((after (.remoteWriteArrival 100) inc1).core far).mb 3 = 1 ∧
    left (.remoteWriteArrival 100) inc1 = [(.ctx 0, .ack .far 100)] := by decide
def ldm : State := sends (.core far) (.load 0x20 4 .plain 0 0) (ls.modCore far fun k => { k with s := k.s.write 16 0x20 4 0x11223344 })
theorem test_remote_load : left (.remoteRequestArrival 100) ldm = [(.ctx 0, .reply 100 0x11223344 0 .ok)] := by decide
/-- A load .FF of core `far` that waits for its granule, which is full now. -/
def few : State := ({ ls with nextId := 101, net := [{ msg (.core far) (.load 0x20 8 .first 0 0) with recorded := true }] }).modCore far
  fun k => { k with fe := tset false k.fe 2 true, feWait := [{ ctx := 0, msg := some 100, off := 0x20, size := 8, wantFull := true, clear := false, data := 0 }] }
theorem test_full_empty_serve : left (.fullEmptyServe far 2) few = [(.ctx 0, .reply 100 0 0 .ok)] ∧ ((after (.fullEmptyServe far 2) few).core far).feWait = [] := by
  decide
def rty : State := { ls with net := [{ msg (.core far) .stampReq with retry := true }, { msg (.core far) .stampReq with id := 99 }] }
theorem test_retry_notice : ((after (.retryNotice 100) rty).net.map fun m => (m.id, m.retry)) = [(99, false), (100, false)] := by decide
/-- Page 2 of job 1, in memory. -/
def pg : Nat := pageOf (at1 0x20010)
def lp : State := ls.bringIn pg
def hst : State := sends (.home pg) (.store .mem (at1 0x20010) 4 0x12345678 .plain 0) lp
def hld : State := sends (.home pg) (.load (at1 0x20010) 4 .plain 0 0) (lp.gWriteRaw (at1 0x20010) 4 0x87654321)
def irr (s : State) : State := s.modPage pg fun p => { p with irrevocable := true }
def gone (s : State) : State := s.modPage pg fun p => { p with resident := false }
theorem test_home_access : (after (.homeAccess 100) hst).gRead (at1 0x20010) 5 = 0x12345678 ∧ left (.homeAccess 100) hst = [(.ctx 0, .ack .mem 100)] ∧
    left (.homeAccess 100) hld = [(.ctx 0, .reply 100 0x87654321 0 .ok)] ∧ (after (.homeAccess 100) (irr hst)).gRead (at1 0x20010) 4 = 0 ∧
    ((after (.homeAccess 100) (irr hst)).die 0).hold.length = 1 := by decide
theorem test_home_page_wait : left (.homeAccess 100) (gone hld) = [(.ctx 0, .reply 100 pg 0 .pageWait)] ∧
    ((after (.homeAccess 100) (gone hld)).page pg).waiters = [0] := by decide
/-- Context 0 awaits a load of page 2, whose home has sent the mark. -/
def pw : State := (sends (.ctx 0) (.reply 90 pg 0 .pageWait) (gone ls)).modPage pg fun p => { p with waiters := [0] }
def pw1 : State := pw.modMe fun x => { x with run := .reply (.ldd 1 (mg 1) 0) }
theorem test_page_wait_wake : (after (.pageWait 0) pw1).me.run = .waiting (.page pg) ∧ (after (.pageWait 0) pw1).net = [] ∧
    (after (.pageWake pg false) (after (.pageWait 0) pw1)).me.run = .active ∧ ((after (.pageWake pg false) pw1).page pg).resident = true ∧
    ((after (.pageWake pg false) pw1).page pg).discarded = false ∧ ((after (.pageWake pg true) pw1).page pg).discarded = true ∧
    ((after (.homeMove pg 32) pw1).page pg).home = 32 := by decide
theorem test_hyps_MessagesAtCoresAndHomes : arrives st1 = true ∧ arrives inc1 = true ∧ arrives ldm = true ∧ arrives hst = true ∧ arrives hld = true ∧
    st1.waitsAt far 1 = false ∧ (st1.core far).undo = [] ∧ (st1.core far).s.poisonedPart 0x20 4 = false ∧
    (ldm.core far).s.consumes 0x20 4 [] = false ∧ ldm.bytesFor (msg (.core far) (.load 0x20 4 .plain 0 0)) (some far) 0x20 4 = [] ∧ few.msg 100 = some { msg (.core far) (.load 0x20 8 .first 0 0) with recorded := true } ∧
    (few.core far).allFe 0x20 8 true = true ∧ few.savedFor far 1 = false := by decide
theorem test_hyps_MessagesAtCoresAndHomes_homes : (hst.page pg).resident = true ∧ (hst.page pg).discarded = false ∧ (hst.die 0).hold = [] ∧
    (∀ i < 4, hld.homePoisoned pg (jplus (at1 0x20010) i) 1 = false) ∧ at1 0x20010 / 65536 = pg ∧ at1 0x20010 % 64 + 4 ≤ 64 ∧ (hst.page pg).frame = some 1 ∧ hst.lowerPart (msg (.home pg) (.store .mem (at1 0x20010) 4 0x12345678 .plain 0)) = none ∧
    hst.gPoisonedPart (at1 0x20010) 4 = false ∧ undoBytes (hst.die 0).undo + 72 ≤ 2 ^ 30 ∧ ((gone hld).page pg).resident = false ∧
    pw1.present (msg (.ctx 0) (.reply 90 pg 0 .pageWait)) = true ∧ pw1.inOrder (msg (.ctx 0) (.reply 90 pg 0 .pageWait)) = true ∧ pw1.savedFor 0 1 = false := by decide
theorem test_hyps_MessagesAtCoresAndHomes_moves : (irr hst).inFmbox (at1 0x20010) = false ∧ (irr hst).gPoisonedPart (at1 0x20010) 4 = false ∧
    (hst.cluster (hst.page pg).home).holding = [] ∧ (hst.cluster (hst.page pg).home).ring = [] ∧ (hst.cluster 32).holding = [] ∧
    (hst.die (dieOf 32)).hold = [] := by decide
theorem test_hyps_MessagesAtCoresAndHomes_frames : Safety.FramesOk hst := framesOk hst (by decide)

def rp (b : Body) (i : Instr) : State := (sends (.ctx 0) b ls).modMe fun x => { x with run := .reply i, far := 2, cvec := 5 }
theorem test_posted_store_ack : (after (.postedStoreAck 100) (rp (.ack .far 7) .nop)).me.far = 1 ∧ (after (.postedStoreAck 100) (rp (.ack .far 7) .nop)).net = [] := by
  decide
theorem test_remote_reply : (after (.remoteReplyArrival 100) (rp (.reply 90 0xFF 0 .ok) (.ldb 1 mr 0))).me.readG 1 = BitVec.ofNat 64 (2 ^ 64 - 1) ∧
    (after (.remoteReplyArrival 100) (rp (.reply 90 0xFF 0 .ok) (.ldb 1 mr 0))).me.pc = 8 ∧ (after (.remoteReplyArrival 100)
      (sends (.ctx 0) (.reply 90 5 0 .ok) ls)).net = [] ∧ (after (.remoteReplyArrival 100) (rp (.reply 90 0 0 .poison) (.ldb 1 mr 0))).me.ctrap = 0x13 := by
  decide
def fsq : State := { sends .sequencer .stampReq ls with sequencer := { ls.sequencer with served := 41 } }
theorem test_fence_stamps : left (.fenceStampRequest 100) fsq = [(.ctx 0, .stamp 42)] ∧ (after (.fenceStampRequest 100) fsq).sequencer.served = 42 ∧
    (after (.fenceStampReturn 100) (rp (.stamp 42) (.fence .g))).me.pc = 8 := by decide
def ans (r : Nat) (p : Bool) : State := rp (.answer 0x5 0 0 r p 3) (.sqarrive 6 3)
theorem test_squad_answer : (after (.squadAnswer 100) (ans 0 true)).me.readG 6 = 5 ∧ (after (.squadAnswer 100) (ans 0 true)).me.pc = 8 ∧
    (after (.squadAnswer 100) (ans 2 false)).me.ctrap = 0x0C ∧ (after (.squadAnswer 100) (ans 2 false)).me.ceaddr = 0x2FFFF ∧
    (after (.squadAnswer 100) (ans 2 false)).me.pc = 20 := by decide
/-- The answer 5 with status 9 to another squad instruction. -/
def ansTo (i : Instr) : State := rp (.answer 0x5 0x9 0 0 true 3) i
theorem test_squad_open_answer : (after (.squadAnswer 100) (ansTo (.sqopen false 2 1 0 6))).me.readH 2 = 5 ∧
    (after (.squadAnswer 100) (ansTo (.sqopen false 2 1 0 6))).me.readG 6 = 9 ∧ (after (.squadAnswer 100) (ansTo (.sqbar 3))).me.pc = 8 ∧
    (ansTo (.sqbar 3)).me.run = .reply (.sqbar 3) ∧ (ansTo (.sqopen false 2 1 0 6)).shut (msg (.ctx 0) .stampReq) = false := by decide
theorem test_hyps_AnswersAtTheirSenders : (rp (.ack .far 7) .nop).savedFor 0 1 = false ∧ (rp (.ack .far 7) .nop).inOrder (msg (.ctx 0) (.ack .far 7)) = true ∧
    ((rp (.ack .far 7) .nop).core 0).pipe.asking 90 = none ∧ ((ans 0 true).core 0).pipe.asked 0 = none ∧ fsq.ready (msg .sequencer .stampReq) = true ∧ (rp (.ack .far 7) .nop).me.row.launch.toNat = 1 ∧
    (rp (.ack .far 7) .nop).me.count .far ≠ 0 ∧ (rp (.reply 90 0xFF 0 .ok) (.ldb 1 mr 0)).present (msg (.ctx 0) (.reply 90 0xFF 0 .ok)) = true ∧
    (ans 0 true).shut (msg (.ctx 0) .stampReq) = false ∧ ls.present (msg (.ctx 0) .stampReq) = false ∧ (ans 2 false).me.hl = false ∧
    (ans 0 true).me.run = .reply (.sqarrive 6 3) := by decide

/-! Channels: the records of ch1 at core 0; the receive record of core 0 at 0x140 takes granules of core `far`. -/
def recvAt (s : State) : RecvRec := (s.core 0).recvRec 0x140
def sendAt (s : State) : SendRec := (s.core 0).sendRec 0x100
def gr (i : BitVec 32) : State := sends (.core 0) (.granule .far 0x100 0x140 i 0x7_0000000000000009 false 0) ch1
theorem test_granule_arrival : left (.granuleArrival 100) (gr 0) = [(.ctx 0, .delivered .far 0x100 false 100)] ∧
    sRead (after (.granuleArrival 100) (gr 0)) 0x300 16 = 0x7_0000000000000009 ∧ feBit (after (.granuleArrival 100) (gr 0)) 0x30 = true ∧
    (recvAt (after (.granuleArrival 100) (gr 0))).nextin = 1 ∧ left (.granuleArrival 100) (gr 1) =
      [(.ctx 0, .returned .far 0x100 1 0x7_0000000000000009 100)] := by decide
/-- OUT 1, REFILLED 3, SPILLED 3, INFL. -/
def fl1 (b : Body) : State := sends (.ctx 0) b (ch1.modCore 0 fun k => { k with s := (k.s.write 16 0x118 8 (2 ^ 48 + 2 ^ 32 + 3)).write 16 0x110 4 3 })
theorem test_delivery_ack : (sendAt (after (.deliveryAck 100) (fl1 (.delivered .far 0x100 false 9)))).out = 0 ∧
    (sendAt (after (.deliveryAck 100) (fl1 (.delivered .far 0x100 true 9)))).refilled = 4 ∧
    (sendAt (after (.deliveryAck 100) (fl1 (.delivered .far 0x100 true 9)))).infl = false := by decide
theorem test_granule_return : (sendAt (after (.granuleReturn 100) (fl1 (.returned .far 0x100 0 77 9)))).spilled = 4 ∧
    sRead (after (.granuleReturn 100) (fl1 (.returned .far 0x100 0 77 9))) 0x210 16 = 77 ∧
    (sendAt (after (.granuleReturn 100) (fl1 (.returned .far 0x100 0 77 9)))).out = 0 := by decide
theorem test_refill_messages : (sendAt (after (.refillRefused 100) (fl1 (.refused 0x100)))).infl = false ∧
    (sendAt (after (.refillRequest 100) (sends (.core 0) (.refillReq 0x100) ch1))).poke = true := by decide
def poked : State := ch1.modCore 0 fun k => { k with s := ((k.s.write 16 0x118 8 (2 ^ 33)).write 16 0x108 16 (2 ^ 64 + 1 + 2 ^ 96 * 0x200 + 2 ^ 114 * 2)).write 16 0x200 16 88 }
theorem test_channel_refill : left (.channelRefill 0 0x100) poked = [(.core far, .granule .far 0x100 0x140 0 88 true 0)] ∧
    (sendAt (after (.channelRefill 0 0x100) poked)).infl = true ∧ (sendAt (after (.channelRefill 0 0x100) poked)).poke = false := by decide
def nm1 : State := sends (.core 0) (.named .near named1) ls
theorem test_named_message_arrival : ((after (.namedMessageArrival 100) nm1).core 0).named = [named1] ∧
    left (.namedMessageArrival 100) nm1 = [(.ctx 0, .ack .near 100)] ∧ ((after (.namedMessageArrival 100)
      (nm1.modCore 0 fun k => { k with named := (span 0 64).map fun _ => named1 })).net.map fun m => m.retry) = [true] := by decide
theorem test_hyps_ChannelAndNamedMessageEvents : arrives (gr 0) = true ∧ (recvAt (gr 0)).rlen = 2 ∧ (recvAt (gr 0)).rbase = 0x300 ∧
    feBit (gr 0) 0x30 = false ∧ (sendAt (fl1 (.refused 0x100))).clean = true ∧ (sendAt (fl1 (.refused 0x100))).out = 1 ∧
    (sendAt (fl1 (.refused 0x100))).slen = 2 ∧ (fl1 (.refused 0x100)).savedFor 0 1 = false ∧ (fl1 (.refused 0x100)).inOrder (msg (.ctx 0) (.refused 0x100)) = true ∧
    (fl1 (.refused 0x100)).crossing 0 = false ∧ poked.crossing 0 = false ∧ (fl1 (.refused 0x100)).core 0 ≠ ch1.core 0 ∧
    (sendAt poked).spilled ≠ (sendAt poked).refilled ∧ poked.reaches (poked.refiller 0 0x100).1 (sendAt poked).dest = true ∧
    arrives nm1 = true ∧ (nm1.core 0).undo = [] := by decide

/-! Squads and rounds. -/
def sqm (r : SquadReq) (q : Squad) : State := (sends (.directory 0) (.squad 5 r) ls).setSquad 5 (some q)
theorem test_squad_info : left (.squadMessageArrival 100) (sqm (.info false) { sq0 with departed := true }) = [(.ctx 0, .answer 0x10000020001 0 0 0 true 0)] ∧
    left (.squadMessageArrival 100) (sqm (.info true) { sq0 with members := [mem1] }) = [(.ctx 0, .answer 0xFFFFFF 0 0 0 true 0)] ∧
    left (.squadMessageArrival 100) (sqm (.info true) { sq0 with members := [{ mem0 with first := 2, active := false, arrivals := 0, rank := 7 }] }) =
      [(.ctx 0, .answer 0x4000007 0 0 0 true 0)] := by decide
theorem test_hyps_SquadInfoWord : arrives (sqm (.info false) sq0) = true ∧ (sqm (.info false) sq0).squadIn ((sqm (.info false) sq0).jobFor (msg (.directory 0) (.squad 5 (.info false)))) 5 = some sq0 ∧
    sq0.member 0 1 = some mem0 ∧ ({ sq0 with members := [mem1] } : Squad).member 0 1 = none := by decide
theorem test_squad_info_of_a_saved_context : left (.squadMessageArrival 100) ((sqm (.info true) { sq0 with members := [mem1] }).saveCore 0) =
    [(.ctx 0, .answer 0xFFFFFF 0 0 0 true 0)] := by decide
theorem test_squad_arrivals : (((after (.squadMessageArrival 100) (sqm .bar sq0)).squad 5).bind fun q => q.member 0 1) =
      some { mem0 with arrivals := 2, unseen := some 1 } ∧ ((after (.squadMessageArrival 100) (sqm .bar sq0)).net.map fun m => m.recorded) = [true] := by
  decide
/-- Both members have arrived in generation 1; context 0 waits in SQBAR; context 1 leaves with it. -/
def sq2 : Squad := { sq0 with members := [{ mem0 with arrivals := 2, unseen := some 1 }, { mem1 with arrivals := 2, leaving := some 1 }] }
def gc : State := { sqm .bar sq2 with net := [{ msg (.directory 0) (.squad 5 .bar) with recorded := true }] }
theorem test_generation_complete : (((after (.generationComplete 5) gc).squad 5).map fun q => (q.gen, q.formed, q.members.map fun p => p.ctx)) =
      some (2, true, [0]) ∧ left (.generationComplete 5) gc = [(.ctx 0, .answer 0 0 0 0 true 1)] := by decide
def kl (s : State) : State := s.modCtx 0 fun x => { x with run := .killed }
theorem test_squad_departure : (((after (.squadDeparture 0 5) (kl gc)).squad 5).map fun q => q.departed) = some true := by decide
def upd : Update := { launch := 1, round := 0, tile := 0, seq := 0, ctx := 0, op := .add, va := at1 0x5010, x := 5, cmp := 0, ea := 0x10 }
def du : State := sends (.port 0) (.det .add (at1 0x5010) 5 0 0x10 1 0 0) ls
theorem test_deterministic_update_arrival : ((after (.deterministicUpdateArrival 100) du).cluster 0).holding = [upd] ∧
    left (.deterministicUpdateArrival 100) du = [(.ctx 0, .ack .mem 100)] := by decide
def vt : State := sends (.controller 1) (.vote 0 0) ls
def lq (s : State) : Option Launch := s.launch 1
theorem test_round_close_vote : ((lq (after (.roundCloseVote 100) vt)).map fun q => tget 0 q.votes 0) = some 1 := by decide
/-- Every tile has voted; the port of cluster 0 holds an update; the close has reached it; it has reported. -/
def rc1 : State := (ls.setLaunch 1 (some { q1 with votes := [(0, 1)] })).modCluster 0 fun q => { q with holding := [upd] }
def rc2 : State := (rc1.setLaunch 1 (some { q1 with closing := some (0, [0]) })).gWriteRaw (at1 0x5010) 8 (2 ^ 64 - 2)
theorem test_rounds : ((lq (after (.roundClose 1) rc1)).map fun q => q.closing) = some (some (0, [0])) ∧ (after (.roundApply 1 0) rc2).gRead (at1 0x5010) 8 = 3 ∧
    ((lq (after (.roundApply 1 0) rc2)).map fun q => q.closing) = some (some (0, [])) ∧
    ((lq (after (.roundComplete 1) (ls.setLaunch 1 (some { q1 with closing := some (0, []) })))).map fun q => (q.round, q.closing)) = some (1, none) := by
  decide
theorem test_hyps_SquadGenerationsAndRounds : arrives (sqm .bar sq0) = true ∧ mem0.unseen = none ∧ mem0.leaving = none ∧ sq0.kept = [] ∧
    sq0.ahead mem0.next = 0 ∧ sq2.complete = true ∧ (kl gc).me.run = .killed ∧ (kl gc).departing sq2 0 ≠ none ∧ arrives du = true ∧ (du.pageAt (at1 0x5010)).resident = true ∧
    (du.cluster 0).holding = [] ∧ vt.msg 100 = some (msg (.controller 1) (.vote 0 0)) ∧ vt.launch 1 = some q1 ∧ vt.ready (msg (.controller 1) (.vote 0 0)) = true ∧ q1.bound = true ∧
    q1.closing = none ∧ q1.record.ntiles = 1 ∧ (rc2.cluster 0).holding = [upd] := by decide
theorem test_hyps_SquadGenerationsAndRounds_apply : (rc2.cluster 0).ring = [] ∧ (rc2.pageAt (at1 0x5010)).resident = true ∧
    (rc2.pageAt (at1 0x5010)).discarded = false ∧ (rc2.pageAt (at1 0x5010)).irrevocable = false ∧ rc2.gPoisoned (at1 0x5010) 8 = false ∧ (rc2.pageAt (at1 0x5010)).frame = some 1 ∧ rc2.seals.committing = false ∧
    undoBytes (rc2.die 0).undo + 72 ≤ 2 ^ 30 ∧ ((rc2.modPage (pageOf (at1 0x5010)) fun p => { p with irrevocable := true }).pageAt (at1 0x5010)).irrevocable = true := by
  decide
/-! ### The pipe, the engines' events, pre-emption, the debugger, repairs (R18, R34 to R63, R233 to R253, R288 to R292, R345, R350 to
R366, R397 to R405) -/

/-- A launched addition of context 0, and its result. -/
def pk : Packet :=
  { ctx := 0, tag := 3, instr := .addi 1 2 5, words := [0x11, 0x22], addr := 0x40, srcs := [], dsts := [1], launched := true,
    performed := false, complete := true, asks := none, parked := false, mark := none, issued := 0, laps := 0, limit := 0,
    loop := (0, 0, 0), halts := false, part := 0, seen := [] }
def res : Result := { ctx := 0, tag := 3, vals := [(1, 77)], flags := 0x10, mark := none, since := 0 }
def inPipe (f : Pipe → Pipe) (s : State) : State := s.modCore 0 fun k => { k with pipe := f k.pipe }
def pipeOf (s : State) : Pipe := (s.core 0).pipe
theorem test_lap_start : (after (.lapStart 0) (ls.modMe fun x => { x with row := { x.row with slots := 0xF0 }, run := .waiting .lap })).me.mask = 0xF0 ∧
    (after (.lapStart 0) (ls.modMe fun x => { x with run := .waiting .lap })).me.run = .active ∧
    (after (.lapStart 0) (ls.modCore 0 fun k => { k with cycle := 8 })) = ls.modCore 0 fun k => { k with cycle := 8 } := by decide
def climbing : State := inPipe (fun p => { p with instrs := [(2, pk)] }) s0
theorem test_pipe_cycle : (pipeOf (after (.pipeCycle 0) climbing)).instrs = [(3, pk)] ∧ ((after (.pipeCycle 0) climbing).core 0).cycle = 1 ∧
    (pipeOf (after (.pipeCycle 0) (inPipe (fun p => { p with replay := 2 }) climbing))).instrs = [(2, pk)] := by decide
def outp : InSiding := { siding := .alu, stage := 3, left := 0, issued := 0, result := res, dead := false }
theorem test_siding_output : (pipeOf (after (.sidingOutputReentry 0 .alu) (inPipe (fun p => { p with sidings := [outp] }) s0))).results = [(3, res)] := by
  decide
def injd : Injection := { due := 0, issued := 0, bare := false, result := res }
theorem test_tape_result : (pipeOf (after (.tapeResultInjection 0) (inPipe (fun p => { p with inject := [injd] }) s0))).results = [(9, { res with since := 1 })] := by decide
def atTape (q : Packet) (s : State) : State := inPipe (fun p => { p with retire := [q], tags := [(0, [3])] }) s
theorem test_instruction_retire : (pipeOf (after (.instructionRetire 0) (atTape pk s0))).retired = [3] ∧
    (pipeOf (after (.instructionRetire 0) (atTape { pk with complete := false } s0))).retire = [{ pk with complete := false }] := by decide
def freeing : State := inPipe (fun p => { p with tags := [(0, [3])], retired := [3], landing := [res] }) s0
theorem test_tag_free : (after (.tagFree 0) freeing).me.readG 1 = 77 ∧ (after (.tagFree 0) freeing).me.cstat = 0x10 ∧
    (pipeOf (after (.tagFree 0) freeing)).window 0 = [] := by decide
/-- Block 3 of a code segment at 0. -/
def fetching : State := (ls.gWriteRaw (at1 0x60) 8 0xAB).modMe fun x => { x with pc := 0x68 }
theorem test_fetch_block : (after (.fetchBlockArrival 0 (at1 0x60 / 32)) fetching).me.fetchBuf = [(at1 0x60, 0xAB)] ∧
    ((after (.fetchBlockArrival 0 (at1 0x60 / 32)) fetching).cluster 0).icache = [(at1 0x60, 0xAB)] := by decide
def wt (w : Wait) : State := ls.modMe fun x => { x with run := .waiting w, cvec := 5, pc := 0x80 }
theorem test_context_rejoin : (after (.contextRejoin 0) (wt (.mailbox 3))).agenda = .context 0 :: ls.agenda := by decide
def trapping : State := atTape { pk with mark := some (6, 9, 0x40) } ls
theorem test_precise_trap : (after (.preciseTrapTaken 0) trapping).me.ctrap = 6 ∧ (after (.preciseTrapTaken 0) trapping).me.cepc = 0x10 ∧
    tget 0 (after (.preciseTrapTaken 0) trapping).me.cword 1 = 0x22 := by decide
def pend1 : State := ls.modMe fun x => { x with imprecise := [{ cause := 0x11, ceaddr := 0x1234 }], cvec := 5, pc := 0x80 }
theorem test_imprecise_trap : (after (.impreciseTrapTaken 0) pend1).me.ctrap = 0x11 ∧ (after (.impreciseTrapTaken 0) pend1).me.pc = 20 ∧
    (after (.impreciseTrapTaken 0) pend1).me.cepc = 0x20 ∧ (after (.impreciseTrapTaken 0) pend1).me.imprecise = [] := by decide
theorem test_timing_replay : (pipeOf (after (.timingReplay 0 4) s0)).replay = 2 ∧ ((after (.timingReplay 0 4) s0).core 0).detections = 1 := by decide
theorem test_discarded_write : (after (.discardedWrite 0 true 0x1234) ls).me.imprecise = [{ cause := 0x11, ceaddr := 0x8000000000001234 }] ∧
    (after (.discardedWrite 0 false 5) pend1).me.imprecise = [{ cause := 0x11, ceaddr := 0x10000000001234 }] := by decide
theorem test_hyps_PipeEvents : (s0.core 0).cycle.toNat % 16 = 0 ∧ (s0.core 0).lapBegun = false ∧ (s0.cluster 0).tripped = false ∧
    (pipeOf climbing).results = [] ∧ (pipeOf climbing).returns = [] ∧ (pipeOf climbing).retire = [] ∧ (∀ d ∈ ctxsOf 0, climbing.eligible d = false) ∧ climbing.eligible 0 = false ∧
    (pipeOf (inPipe (fun p => { p with sidings := [outp] }) s0)).dueOutput 3 = some outp ∧ (pipeOf (atTape pk s0)).atTape 0 = some pk ∧
    (pipeOf freeing).freeable 3 = true ∧ fetching.requested 0 (at1 0x60) = true ∧ (fetching.fetchWindow 0).contains (at1 0x60) = true ∧
    (trapping.tapeServes 0 = true) ∧ (trapping.tapeOrder 0).head? = some 0 ∧ pend1.interruptible 0 = true ∧ (wt (.mailbox 3)).eligible 0 = true ∧
    pend1.eligible 0 = true ∧ (pipeOf pend1).window 0 = [] ∧ (0x1234 : Word).extractLsb' 52 11 ≠ 0x7FF ∧ (pipeOf climbing).replay = 0 ∧
    (ls.ctx 1).waitLimit = 0 ∧ (∀ d ∈ ctxsOf 0, (climbing.ctx d).run = .idle) ∧ pend1.tapeServes 0 = true ∧ pend1.me.pinned = false ∧ pend1.codeWord 0 pend1.me.pc.toNat = none := by decide
/-- A packet that a comparator with ACT = 0 has marked; a pinned body at its end. -/
def halting : State := atTape { pk with mark := some (0x0E, 0, 0x40), halts := true } ls
def pend2 : State := pend1.modMe fun x => { x with pinned := true, loopStart := 0x40, loopEnd := 0x80, loopCount := 3 }
theorem test_hyps_PipeEvents_more : (after (.preciseTrapTaken 0) halting).me.dbgHalt = true ∧ halting.tapeServes 0 = true ∧
    pend2.me.pc = pend2.me.loopEnd ∧ pend2.codeWord 0 0x40 ≠ some 0 ∧ (after (.impreciseTrapTaken 0) pend2).me.cepc = 0x10 ∧
    (after (.impreciseTrapTaken 0) pend2).me.loopCount = 2 := by decide

/-- STD g5 to S 0x40 in the retire queue, and LDW g6 from S 0x44 behind it at C4. -/
def at0 : MemAddr := { a := 0, c := 0, ord := .none, wc := .none, fe := .plain, seg := 0, space := .localS }
def src (r : Nat) (v : Option VWord) : Source := { reg := r, value := v, want := 9 }
def stq (i : Instr) (v : Option VWord) : Packet := { pk with instr := i, complete := false, srcs := [src 0 (some 0), src 5 v] }
def ldq : Packet := { pk with tag := 4, instr := .ldw 6 at0 0x44, complete := false, launched := false, srcs := [src 0 (some 0)], dsts := [6] }
def behind (o : Packet) : State := inPipe (fun p => { p with retire := [o], instrs := [(4, ldq)], tags := [(0, [3, 4])] }) s0
def loadedFrom (o : Packet) : List (SMap VWord) := (pipeOf (nextOf (behind o) (execPipeCycle 0 (behind o)))).sidings.map fun e => e.result.vals
theorem test_load_behind_store : loadedFrom (stq (.std 5 at0 0x40) (some 0x700000001)) = [[(6, 7)]] ∧
    loadedFrom (stq (.std 5 at0 0x40) none) = [] ∧ loadedFrom (stq (.std 5 at0 0x48) none) = [[(6, 0)]] := by decide
theorem test_load_held_back : loadedFrom (stq (.amoadd 7 5 false at0 0x40) (some 1)) = [] ∧
    loadedFrom (stq (.amoadd 7 5 false at0 0x48) (some 1)) = [[(6, 0)]] ∧ loadedFrom (stq (.fence .core) none) = [] ∧
    ((after (.pipeCycle 0) (behind (stq (.std 5 at0 0x40) (some 1)))).core 0).storeBuf = [] := by decide
/-- A store that has climbed to C5 without the data that re-enters at C3. -/
def past : Packet := { stq (.std 1 at0 0x40) none with srcs := [{ reg := 1, value := none, want := 3 }] }
def crossing : State := inPipe (fun p => { p with sidings := [outp], instrs := [(5, past)] }) s0
theorem test_output_crosses : (pipeOf (after (.sidingOutputReentry 0 .alu) crossing)).instrs.map (fun e => e.2.srcs.map fun q => q.value) =
    [[some 77]] := by decide

/-- A QZERO with a signal and a wait, queued. -/
def zw : WaitSig := { we := true, wth := 2, wmb := 7, sinc := 3, smb := 9 }
def z1 : State := after (.qzero 8 zw) e5
def z2 : State := (z1.modCluster 0 fun q => { q with requests := [{ cycle := 0, core := 0, e := .matrix, cmd := 0, cost := 1 }], budget := 5, held := 4 })
def mq (s : State) : List (Bool × Bool × Bool) := (s.core 0).matrixQ.map fun m => (m.asked, m.granted, m.started)
theorem test_reservation_grant : mq (after (.reservationGrant 0) z2) = [(false, true, false)] ∧ ((after (.reservationGrant 0) z2).cluster 0).held = 5 ∧
    after (.reservationGrant 0) (z2.modCluster 0 fun q => { q with held := 5 }) = z2.modCluster 0 fun q => { q with held := 5 } := by decide
def met (s : State) : State := s.modCore 0 fun k => { k with mb := [(7, 2)] }
def flagged (a g : Bool) (s : State) : State := s.modCore 0 fun k => { k with matrixQ := k.matrixQ.map fun m => { m with asked := a, granted := g } }
theorem test_engine_start : mq (after (.engineCommandStart 0 .matrix) z1) = [(false, false, false)] ∧
    mq (after (.engineCommandStart 0 .matrix) (met z1)) = [(true, false, false)] ∧
    ((after (.engineCommandStart 0 .matrix) (met z1)).cluster 0).requests.length = 1 ∧
    mq (after (.engineCommandStart 0 .matrix) (flagged true true (met z1))) = [(true, true, true)] := by decide
theorem test_engine_complete : mb 9 (after (.engineCommandComplete 0 .matrix) (running (.qzero 8 zw) e5)) = 3 ∧
    mq (after (.engineCommandComplete 0 .matrix) (running (.qzero 8 zw) e5)) = [] := by decide
/-- A schedule of one CPY from t3 to t4 at stage 5. -/
def se : SchedEntry :=
  let w (n : Nat) : BitVec 32 := BitVec.ofNat 32 ((encode (.cpy 4 3 noWait)).getD n 0)
  { stage := 5, k := 0, fn := 0, w1 := w 1, w2 := w 2, w3 := w 3, tgt := 0 }
def sched (n : Nat) : State := (e5.setLaunch 1 (some { q1 with ran := [(0, 1)] })).modCore 0 fun k => { k with sched := [{ launch := 1, entries := [se], fired := 0 }], stage := BitVec.ofNat 32 n }
def firedOf (s : State) : List Instr × Nat := ((s.core 0).firedQ.map (·.instr), ((s.core 0).sched.map (·.fired)).sum)
theorem test_schedule_fire : after (.scheduleEntryFire 0) (sched 4) = sched 4 ∧ firedOf (after (.scheduleEntryFire 0) (sched 5)) = ([.cpy 4 3 noWait], 1) ∧
    firedOf (after (.scheduleEntryFire 0) ((sched 5).modCore 0 fun k => { k with tt := [] })) = ([], 1) := by decide
/-- The CPY of bt is at work, its batch closed; its row has still to be read. -/
def bt1 : State := bt.modCore 0 fun k => { k with copyQ := k.copyQ.map fun m => { m with started := true } }
theorem test_batch_released : ((after (.batchReleased 0 0) bt1).me.closed.map fun b => (b.unread.length, b.unlanded.length)) = [(0, 1)] := by decide
theorem test_hyps_EngineEvents : ((z2.cluster 0).held + 1 ≤ (z2.cluster 0).budget) ∧ (met z1).waitMet 0 ((z1.core 0).matrixQ.headD (e5.command 0 .nop 0 true false)) = true ∧
    ((z1.core 0).mailbox 7 - zw.wth).toNat ≥ 2 ^ 15 ∧ (z1.core 0).firedQ = [] ∧ se.instr = some (.cpy 4 3 noWait) ∧ (sched 5).onCore 0 1 = true ∧ ({ q1 with ran := [(0, 1)] } : Launch).begunOn 0 = true ∧
    (z2.askerOf 0 .matrix).all (fun m => !z2.mayAsk 0 .matrix m) = true ∧ z2.askerOf 0 .vector = none ∧ ((met z1).cluster 0).requests = [] ∧ (met z1).refillFirst 0 .matrix = false ∧
    (running (.qzero 8 zw) e5).engineHeld ((running (.qzero 8 zw) e5).command 0 (.qzero 8 zw) 0 true false) = false ∧ (sched 5).cmdRefusal 0 (.cpy 4 3 noWait) 0 true = none ∧
    2 ^ 31 ≤ (((sched 4).core 0).stage - se.stage).toNat ∧ (((sched 5).core 0).stage - se.stage).toNat < 2 ^ 31 ∧
    ((bt1.core 0).copyQ.map fun m => (m.started, m.readDone)) = [(true, false)] ∧ (bt1.me.closed.map fun b => b.unread) = [(bt1.core 0).copyQ.map (·.id)] := by
  decide

/-- Core 0's launch 1 at level 2, and launch 2 at level 0 due there. -/
def lo : State := ls.modMe fun x => { x with row := { x.row with prio := 2 } }
def hi : State := lo.modMe fun x => { x with row := { x.row with pre := true } }
theorem test_preempt_save : (after (.priorityPreemption 0) hi).me = Ctx.reset ∧
    ((after (.priorityPreemption 0) hi).images 0).map (fun q => (tget Ctx.reset q.2 0).row.pre) = [false] := by decide
def savedIm : State := nextOf hi (execPriorityPreemption 0 (hi.modCore 0 fun k => { k with mb := [(1, 1)] }))
theorem test_restore : (after (.coreRestore 0) savedIm).me.row = lo.me.row ∧ (after (.coreRestore 0) savedIm).images 0 = [] ∧ mb 1 (after (.coreRestore 0) savedIm) = 1 := by
  decide
def qt : State := ls.modMe fun x => { x with quota := 7, cquota := 0 }
theorem test_quota : (after (.quotaPreemption 0) qt).me.quotaHeld = true ∧ (after (.quotaRefill 1) (after (.quotaPreemption 0) qt)).me.cquota = 7 ∧
    (after (.quotaRefill 1) (after (.quotaPreemption 0) qt)).me.quotaHeld = false ∧ qt.eligible 0 = false := by decide
def inv (s : State) : State := { s with mgmt := { s.mgmt with dbg := .invasive } }
theorem test_debugger : (after (.debuggerHalt 0) (inv ls)).me.dbgHalt = true ∧ (after (.debuggerHalt 0) ls) = ls ∧
    (after (.debuggerResume 0) (after (.debuggerHalt 0) (inv ls))).me.dbgHalt = false ∧ (after (.debuggerStep 0) (after (.debuggerHalt 0) (inv ls))).me.stepping = true ∧
    ((after (.debuggerWrite (.g 0 5) (some 9)) (inv ls)).me.readG 5) = 9 ∧
    (after (.debuggerWrite (.g 0 5) none) (inv ls)).mgmt.debugData = (ls.me.readG 5).setWidth 512 := by decide
theorem test_comparators : tget Breakpoint.zero ((after (.bpaddrWrite 0 2 0x103) (inv ls)).core 0).bp 2 = { Breakpoint.zero with addr := 0x40 } ∧
    tget Breakpoint.zero ((after (.bpctlWrite 0 2 0x30003) (inv ls)).core 0).bp 2 = { addr := 0, act := true, en := true, ctx := 3 } := by decide
def dirty : State := s0.modCore 0 fun k => { k with mb := [(1, 1)], singles := [(4, 3)] }
theorem test_core_remap : mb 1 (after (.coreRemap 0 0 33) dirty) = 0 ∧ ((after (.coreRemap 0 0 33) dirty).cluster 0).phys 0 = 33 ∧
    after (.coreRemap 0 0 5) dirty = dirty := by decide
theorem test_core_retirement : ((after (.coreRetirement 0) dirty).cluster 0).phys 0 = 32 ∧ mb 1 (after (.coreRetirement 0) dirty) = 1 ∧
    ((after (.coreRetirement 0) dirty).core 0).singles = [] ∧ (after (.coreRetirement 0) (dirty.modCluster 0 fun q => { q with coreTable := [(0, 32), (1, 33)] })).core 0 ≠ Core.reset := by
  decide
def marks : State := s0.modCore 0 fun k => { k with s := ((k.s.setMark 16 .single).setMark 17 .latent).setMark 40 .single }
theorem test_scrub : let m := ((after (.scrub (.coreS 0) 1) marks).core 0)
    (m.s.wordMark 16, m.s.wordMark 17, m.s.wordMark 40, m.singles) = (.sound, .poisoned, .single, [(16, 1)]) := by decide
def lim : State := (wt (.mailbox 3)).modMe fun x => { x with waitLimit := 4, waitLaps := 5 }
theorem test_wait_limit : (after (.waitLimit 0) lim).me.ctrap = 8 ∧ (after (.waitLimit 0) lim).me.ceaddr = 0x3_0004_0002 ∧
    (after (.waitLimit 0) lim).me.pc = 20 ∧ (after (.waitLimit 0) (lim.modMe fun x => { x with waitLaps := 4 })).me.hl = false := by decide
theorem test_hyps_PreemptionDebugAndRepairEvents : hi.coreDrained 0 = true ∧ (savedIm.images 0).length = 1 ∧ savedIm.mateCores 0 = [0] ∧
    savedIm.boundOn 0 = [] ∧ savedIm.coreDrained 0 = true ∧ qt.me.row.v = true ∧ qt.me.cquota = 0 ∧ qt.job 1 = some j1 ∧ qt.gangs = [] ∧
    (inv ls).mgmt.dbg = .invasive ∧ ls.mgmt.dbg ≠ .invasive ∧ (∀ d ∈ ctxsOf 0, (dirty.ctx d).row.v = false ∧ (dirty.ctx d).run = .idle) ∧
    33 ∈ (dirty.cluster 0).spares ∧ (dirty.cluster 0).spares.head? = some 32 ∧ dirty.coreDrained 0 = true ∧
    lim.boundedWait 0 = some (2, 3, false) ∧ lim.me.hl = false := by decide
/-- A bound core with an error to retire; a halted context resumed. -/
theorem test_hyps_PreemptionDebugAndRepairEvents_more : ((lo.modCore 0 fun k => { k with singles := [(4, 3)] }).core 0).singles = [(4, 3)] ∧
    (after (.coreRetirement 0) (lo.modCore 0 fun k => { k with singles := [(4, 3)] })).me.row.pre = true ∧
    (after (.debuggerResume 0) ((inv ls).modMe fun x => { x with run := .halted })).me.run = .active := by decide
/-! ### Seals, recovery, dispatch (R65 to R77, R111 to R117, R281 to R286, R419 to R435) -/

/-- A job with a queue of 4 slots at 0x30000 and one command read; the graph of its launch 1. -/
def cmd (op mode : Nat) (addr value : Nat) : Command :=
  { op := BitVec.ofNat 8 op, ovl := false, mode := BitVec.ofNat 2 mode, phase := 0, addr := BitVec.ofNat 64 addr,
    value := BitVec.ofNat 64 value, cnt := 0, clean := true, slot := 0 }
def pend (c : Command) (accepted : Bool) : Pending := { cmd := c, accepted := accepted, started := false, done := false, met := false, graph := 1 }
def queue0 (l : List Pending) : Queue :=
  { base := 0x30000, prio := 1, logn := 2, doorbell := 5, consumed := 4, stopped := false, cmds := l, watch := 9, watchDone := 0, watchStage := 0,
    watchOf := 1, lingerWatch := 0, lingerStage := 0 }
def graph1 : Graph := { job := 1, queue := 0, phase := 0, cnt := none, launches := [1], state := .running, done := 0 }
def jobWith (l : List Pending) : Job := { j1 with queues := [(0, some (queue0 l))], phases := [(0, { Phase.fresh with graphs := [1] })], highRead := 1 }
def dq (l : List Pending) : State := (ls.setJob 1 (some (jobWith l))).setGraph 1 (some graph1)
def cmdsLeft (s : State) : Nat := ((s.queue 1 0).map fun q => q.cmds.length).getD 9

def dp : State := { ls with seals := { ls.seals with requested := true } }
def running_ (s : State) : State := { s with seals := { s.seals with running := true, requested := false } }
def prepd : State := ((running_ s0).modDie 0 fun d => { d with prepared := true }).bringIn 0
theorem test_seal_interval : (after (.sealInterval 1) ls).seals.requested = true ∧
    (after (.sealInterval 1) (ls.setJob 1 (some { j1 with sealInt := 0 }))).seals.requested = false := by decide
theorem test_seal_prepare : ((after (.sealPrepare 0) dp).die 0).prepared = true ∧ (after (.sealPrepare 0) dp).seals.running = true ∧
    (after (.sealPrepare 0) (dp.modMe fun x => { x with run := .waiting (.mailbox 3) })).me.sealHeld = true ∧
    (after (.sealPrepare 0) dp).me.sealHeld = false := by decide
theorem test_die_ready : ((after (.dieReady 0) (prepd.modCluster 0 fun q => { q with holding := [upd] })).cluster 0).ring = [upd] ∧
    ((after (.dieReady 0) prepd).die 0).ready = true ∧
    ((after (.dieReady 0) (running_ ls |>.modDie 0 fun d => { d with prepared := true })).die 0).ready = false := by decide
def allReady : State := (span 0 36).foldl (fun s n => s.modDie n fun d => { d with prepared := true, ready := true }) (running_ ls)
theorem test_seal_ready : (after .sealReady allReady).seals.committing = true ∧ (after .sealReady allReady).seals.commitRecord = 1 ∧
    after .sealReady (allReady.modDie 7 fun d => { d with ready := false }) = allReady.modDie 7 fun d => { d with ready := false } := by decide
def held1 : HeldWrite := { va := 0x40, size := 4, data := 0xAABBCCDD, split := 1, poison := false, writer := none }
def cm : State := { (prepd.modDie 0 fun d => { d with ready := true, hold := [held1] }) with
  seals := { (running_ s0).seals with committing := true, commitRecord := 2 } }
theorem test_seal_commit : (after (.sealCommit 0) cm).gRead 0x40 4 = 0xAABBCCDD ∧ (after (.sealCommit 0) cm).seals.split = 2 ∧
    (after (.sealCommit 0) cm).outside = [held1] := by decide
theorem test_seal_abort : (after .sealAbort prepd).seals.running = false ∧ (after .sealAbort prepd).seals.rearm = true ∧
    (after .sealAbort { prepd with seals := { prepd.seals with aborts := 2 } }).seals.requested = true ∧
    (after .resealTimer (after .sealAbort prepd)).seals.requested = true := by decide
def rph : State := (dp.setJob 1 (some { jobWith [] with rep := true })).setGraph 1 (some graph1)
theorem test_provisional_seal : rph.replicaPhase = true ∧ (after .provisionalSeal rph).seals.runProvisional = true := by decide
theorem test_hyps_SealEvents : ls.job 1 = some j1 ∧ j1.sealInt ≠ 0 ∧ ls.replicaPhase = false ∧ dp.replicaPhase = false ∧ (dp.die 0).prepared = false ∧
    (dp.die 0).off = false ∧ rph.seals.provisional = false ∧ dp.seals.running = false ∧ prepd.liveOn 0 = [] ∧ prepd.net = [] ∧
    (running_ ls).liveOn 0 = [0] ∧ ls.sealQuiet 0 = false ∧ ls.me.sealHeld = false ∧ (∀ n < 36, (allReady.die n).ready = true) ∧
    (cm.die 0).ready = true ∧ (cm.die 0).committed = false ∧ (cm.die 0).carried = [] ∧ (cm.die 0).hold = [held1] ∧ (cm.pageAt 0x40).frame ≠ none ∧ prepd.saved = [] ∧
    held1.split ≠ cm.seals.commitRecord ∧ (after .sealAbort prepd).seals.rearm = true := by decide
theorem test_hyps_SealEvents_frames : Safety.FramesOk cm := framesOk cm (by decide)

/-- A current seal in which the context has g5 = 9, and a line logged since. -/
def sealed : State := { (ls.modDie 0 fun d => { d with undo := [{ core := none, line := 0x40, old := 0x77, fe := 0, tenancy := 0 }] }).gWriteRaw 0x40 8 0x99 with
  seals := { ls.seals with area := { SealArea.empty with ctxs := [(0, { Ctx.reset with g := [(5, 9)] })] } } }
theorem test_rollback : (after .rollback sealed).me.readG 5 = 9 ∧ (after .rollback sealed).gRead 0x40 8 = 0x77 ∧ (after .rollback sealed).launches = [] := by
  decide
def failedAt (s : State) (c : Nat) : Bool × Bool := ((s.cluster c).failed, (s.cluster c).fenced)
theorem test_domain_fault : failedAt (after (.domainFault (.memoryPort 0)) sealed) 0 = (true, true) ∧ ((after (.domainFault (.ilufosko 3)) sealed).port 3).down = true ∧
    (after (.domainFault (.ilufosko 3)) sealed).me.readG 5 = 9 ∧ (after (.domainFault (.urgentLog (.ring 0))) sealed).seals.requested = true ∧
    (after (.domainFault (.urgentLog (.ring 0))) sealed).seals.damaged = [.ring 0] := by decide
def contained : State := (ls.setLaunch 1 none).setJob 1 (some { j1 with cwm1 := 0, chm1 := 0, kcw := 1, kch := 1 })
theorem test_containment : failedAt (after (.containment 1 0) contained) 0 = (true, true) ∧ (after (.containment 1 0) contained).me.row.v = false ∧
    failedAt (after (.coreFault 0) s0) 0 = (true, true) ∧ (after (.coreFault 0) contained).me.row.v = false := by decide
def rollPol : State := sealed.setJob 1 (some { j1 with pol := .rollback })
theorem test_core_fault_rollback : failedAt (after (.coreFault 0) rollPol) 0 = (true, true) ∧ (after (.coreFault 0) rollPol).me.readG 5 = 9 := by decide
/-- The queue works at launch 1 and its watchdog has counted 9 units of 10 us. -/
def wd : State := ((dq [pend (cmd 1 0 0 0) true]).setLaunch 1 (some { q1 with bound := false })).bringIn (pageOf (at1 0x22000))
def wdBound : State := dq [pend (cmd 1 0 0 0) true]
theorem test_watchdog_1 : ((after (.watchdogStage1 1 0) wd).launch 1).map (·.state) = some .cancelled ∧ ((after (.watchdogStage1 1 0) wd).queue 1 0).map (·.watchStage) = some 1 := by
  decide
theorem test_watchdog_2 : (after (.watchdogStage2 1 0) wdBound).me.run = .killed ∧ ((after (.watchdogStage2 1 0) wdBound).queue 1 0).map (·.watchStage) = some 2 := by
  decide
/-- A job whose rectangle does not hold the context's cluster. -/
def wd3 : State := wdBound.setJob 1 (some { jobWith [pend (cmd 1 0 0 0) true] with cx0 := 5 })
theorem test_watchdog_3 : failedAt (after (.watchdogStage3 1 0) wd3) 0 = (true, true) ∧ failedAt (after (.watchdogStage3 1 0) (kl wdBound)) 0 = (false, false) := by
  decide
def rep1 : Job := { j1 with rep := true, sealWait := true, ended := 1, digLen := 1, digAddr := 0x40 }
def rp1 : State := s0.setJob 1 (some rep1)
theorem test_replica_digest : (after (.replicaDigest 1 0 (rp1.digest 1 rep1)) rp1).job 1 = some { rep1 with matched := true } := by
  unfold after; simp only [exec]; unfold execReplicaDigest; rw [show rp1.job 1 = some rep1 by decide]; simp [rep1, nextOf]; decide
def failedOne : State := s0.modCluster 0 fun q => { q with failed := true, fenced := true }
theorem test_infield_test (k : FlashImage) : failedAt (after (.infieldTest 0 k Config.testSignature) failedOne) 0 =
    if failedOne.mgmt.verifies k then (false, false) else (true, true) := by
  unfold after; simp only [exec]; unfold execInfieldTest
  cases h : failedOne.mgmt.verifies k <;> simp [nextOf] <;> decide
theorem test_fatal_error : (after (.fatalError .unroutable 3) ls).me.run = .idle ∧ ((after (.fatalError .unroutable 3) ls).job 1).map (·.cancelled) = some true := by
  decide
theorem test_hyps_RecoveryEvents : Claim.Steady sealed ∧ rollPol.jobAt 0 = some (1, { j1 with pol := .rollback }) ∧ Claim.Steady rollPol ∧
    s0.jobAt 0 = none ∧ contained.launches = [] ∧ ({ j1 with cwm1 := 0, chm1 := 0, kcw := 1, kch := 1 } : Job).covers 0 = true ∧
    (∀ e ∈ s0.ctxs, e.2.row.v = true → clusterOf e.1 ≠ 0) ∧ (s0.cluster 0).tripped = false := by
  unfold Claim.Steady; decide
/-- A seal as sealed, with no job and nothing but one line in the logs. -/
def loggedLine : State := { sealed with jobs := [] }
theorem test_hyps_RecoveryEvents_log : Claim.Steady loggedLine ∧ loggedLine.dies = [(0, loggedLine.die 0)] ∧ (loggedLine.die 0).undo.length = 1 ∧
    (∀ k ∈ loggedLine.cores, k.2.undo = []) ∧ loggedLine.seals.area.jobs = [] ∧ ringPort 0x40 = none ∧ (loggedLine.pageAt 0x40).frame ≠ none ∧ (after .rollback loggedLine).gRead 0x40 8 = 0x77 := by
  unfold Claim.Steady; decide
theorem test_hyps_RecoveryEvents_frames : Safety.FramesOk loggedLine := framesOk loggedLine (by decide)
def wp : Pending := pend (cmd 1 0 0 0) true
theorem test_hyps_RecoveryEvents_watchdog : Claim.WatchdogDue wd 1 0 1 1 wp ∧ Claim.WatchdogDue wdBound 1 0 2 2 wp ∧ Claim.WatchdogDue wd3 1 0 3 3 wp ∧
    Claim.WatchdogDue (kl wdBound) 1 0 3 3 wp ∧ Claim.Writable wd 1 rec1.cntaddr := by
  unfold Claim.WatchdogDue
  refine ⟨⟨by decide, _, rfl, by decide⟩, ⟨by decide, _, rfl, by decide⟩, ⟨by decide, _, rfl, by decide⟩, ⟨by decide, _, rfl, by decide⟩,
    by decide, by decide, by decide, by decide, framesOk wd (by decide), by decide⟩
theorem test_hyps_RecoveryEvents_watched : wd.graph 1 = some graph1 ∧ (wd.launch 1).map (fun q => (q.graph, q.state, q.bound)) = some (1, .running, false) ∧
    wd3.ctxsOfLaunches (wd3.graphLaunches 1) = [0] ∧ (wd3.ctx 0).run = .active ∧ wd3.jobs.length = 1 ∧
    ({ jobWith [wp] with cx0 := 5 } : Job).covers 0 = false ∧ (wdBound.ctx 0).row.launch.toNat ∈ wdBound.graphLaunches 1 := by decide
theorem test_hyps_RecoveryEvents_replica : rp1.job 1 = some rep1 ∧ rep1.rep = true ∧ rep1.sealWait = true ∧ rep1.matched = false ∧
    rp1.digest 1 rep1 ≠ rp1.digest 1 rep1 + 1 ∧ Claim.Steady rp1 ∧ rp1.seals.provisional = false ∧ rep1.disagreed ≠ some 0 ∧
    Config.testSignature + 1 ≠ Config.testSignature := by
  refine ⟨rfl, rfl, rfl, rfl, ?_, ?_, rfl, by decide, ?_⟩
  · generalize rp1.digest 1 rep1 = d; bv_omega
  · unfold Claim.Steady; decide
  · generalize Config.testSignature = d; bv_omega
/-- A dump of which every die answers and every stack is reached. -/
def fatal1 : Dump :=
  { (dp.setCtx (mkId 29 28 7 2) { Ctx.reset with g := [(3, 0xAB)] }).dumpOf .unroutable 26 none with silent := [], unreached := [] }
theorem test_dump : dumpBlock 101 = 0x06B56700 ∧ dumpCore 101 7 = 0x06B8E800 ∧ fatal1.die = 26 ∧ fatal1.dword 7 0x100 = some (2 ^ 8 * 7) ∧
    fatal1.dword 7 (dumpBlock 101 + 8) = some 0x0F0E0D0C0B0A0908 ∧ fatal1.dword 7 (dumpCore 101 7 + 0x40 + 1072 * 2 + 16) = some 0xAB := by decide
theorem test_dump_of_a_silent_die : ({ fatal1 with silent := [7] } : Dump).dword 7 0x100 = some 1 ∧
    ({ fatal1 with silent := [7] } : Dump).dword 7 (dumpBlock 101 + 8) = none ∧ ({ fatal1 with unreached := [7] } : Dump).dword 7 0x100 = none := by decide
/-- Doublewords of job 1 written; the pages of some of its addresses brought in. -/
def gput (l : List (Nat × Nat)) (s : State) : State := l.foldl (fun t e => t.gWriteRaw (at1 e.1) 8 e.2) s
def within (l : List Nat) (s : State) : State := l.foldl (fun t a => t.bringIn (pageOf (at1 a))) s
theorem writable (s : State) (job : Nat) (a : Word) (hf : framesApart s = true) (h : (jaddr job a.toNat % 8 == 0 && !(s.pageAt (jaddr job a.toNat)).discarded &&
    !(s.pageAt (jaddr job a.toNat)).irrevocable && (s.pageAt (jaddr job a.toNat)).frame.isSome && !(s.owes (jaddr job a.toNat)) &&
    decide (undoBytes (s.die (dieOf (s.pageAt (jaddr job a.toNat)).home)).undo + 288 ≤ 2 ^ 30)) = true) : Claim.Writable s job a := by
  simp only [Bool.and_eq_true, beq_iff_eq, Bool.not_eq_true', decide_eq_true_eq] at h
  obtain ⟨⟨⟨⟨⟨h1, h2⟩, h3⟩, h4⟩, h6⟩, h5⟩ := h
  exact ⟨h1, h2, h3, (fun e => by rw [e] at h4; cases h4), framesOk s hf, h6, h5⟩
/-- A WRITEVAL of 77 to 0x50000 stands in slot 0; then a command that sets a reserved bit. -/
def rd (op : Nat) : State := gput [(0x30000, 2 ^ 56 * op), (0x30008, 0x50000), (0x30010, 77)] (dq [])
theorem test_command_read : (((after (.commandRead 1 0) (rd 4)).queue 1 0).map fun q => (q.consumed, q.cmds.map fun p => (p.cmd.op, p.accepted))) =
      some (5, [(4, true)]) ∧ (((after (.commandRead 1 0) (rd 8)).queue 1 0).map fun q => (q.stopped, q.cmds.length)) = some (true, 0) ∧
    (((after (.commandRead 1 0) (gput [(0x30018, 8)] (rd 4))).queue 1 0).map fun q => q.stopped) = some true := by decide
/-- A launch record at 0x40000: core 0 of cluster (0, 0), context 0, two tasks, counter 0x22000; a graph descriptor of it at 0x60000. -/
def recs (s : State) : State := gput [(0x40000, 0x100), (0x40010, 2 ^ 32), (0x40018, 2 ^ 33 + 1), (0x40070, 0x22000), (0x60000, 1), (0x60010, 0x40000)] s
def lnch : State := recs (dq [pend (cmd 1 0 0x40000 0) false])
def grph : State := recs (dq [pend { cmd 2 0 0x60000 0 with cnt := 0x23000 } false])
def placed (s : State) : Option (Bool × Nat × Word × Nat) := (s.launch 1).map fun q => (q.bound, q.record.tasks, q.record.entry, q.graph)
theorem test_launch : placed (after (.launch 1 0) lnch) = some (false, 2, 0x100, 1) ∧ (after (.launch 1 0) lnch).nextLaunch = 2 ∧
    (((after (.launch 1 0) (gput [(0x40010, 0)] lnch)).queue 1 0).map fun q => q.stopped) = some true := by decide
theorem test_graph : placed (after (.graph 1 0) grph) = some (false, 2, 0x100, 1) ∧ ((after (.graph 1 0) grph).graph 1).map (·.cnt) = some (some 0x23000) := by
  decide
def wv (mode v : Nat) : State := gput [(0x50000, v)] (dq [pend (cmd 3 mode 0x50000 5) true])
theorem test_waitval : cmdsLeft (after (.waitval 1 0) (wv 0 5)) = 0 ∧ cmdsLeft (after (.waitval 1 0) (wv 1 4)) = 1 ∧ cmdsLeft (after (.waitval 1 0) (wv 2 (2 ^ 63 + 4))) = 0 ∧
    cmdsLeft (after (.waitvalSatisfied 1 0) (gput [(0x50000, 6)] (nextOf s0 (execWaitval 1 0 (wv 1 4))))) = 0 := by decide
theorem test_other_commands : (after (.writeval 1 0) (dq [pend (cmd 4 0 0x50000 77) true])).gRead (at1 0x50000) 8 = 77 ∧ cmdsLeft (after (.commandFence 1 0) (dq [pend (cmd 7 0 0 0) true])) = 0 ∧
    (after (.sealreq 1 0) (dq [pend (cmd 6 0 0 0) false])).seals.requested = true ∧
    cmdsLeft (after (.commandFence 1 0) (dq [pend (cmd 3 0 0 5) true, pend (cmd 7 0 0 0) true])) = 2 := by decide
/-- Launch 1, not bound, in a graph with a counter at 0x23000. -/
def cn (mode addr : Nat) : State := ((dq [pend (cmd 5 mode addr 0) false]).setLaunch 1 (some { q1 with bound := false })).setGraph 1
  (some { graph1 with cnt := some 0x23000 })
def stateOf (s : State) : Option CState := (s.launch 1).map (·.state)
theorem test_cancel : stateOf (after (.cancelLaunch 1 0) (cn 0 0x22000)) = some .cancelled ∧ stateOf (after (.cancelGraph 1 0) (cn 1 0x23000)) = some .cancelled ∧
    stateOf (after (.cancelPhase 1 0) (cn 2 0)) = some .cancelled ∧ stateOf (after (.cancelJob 1 0) (cn 3 0)) = some .cancelled ∧
    stateOf (after (.cancelLaunch 1 0) (cn 0 0x22008)) = some .running ∧ (after (.cancelLaunch 1 0) (cn 0 0x22000)).gRead (at1 0x22000) 8 = 2 ^ 63 := by decide
theorem test_hyps_QueueCommandEvents : (rd 4).job 1 = some (jobWith []) ∧ (jobWith []).queue 0 = some (queue0 []) ∧ (queue0 []).doorbell ≠ (queue0 []).consumed ∧
    (Command.ofBytes ((rd 4).dread 1 0x30000 64) 0).bad (jobWith []) = false ∧ (Command.ofBytes ((rd 8).dread 1 0x30000 64) 0).bad (jobWith []) = true ∧
    (lnch.readRecord 1 (jobWith []) 0x40000).isSome = true ∧ ((grph.readGraph 1 (jobWith []) 0x60000).map fun l => l.map fun e => e.2) = some [([], [])] ∧
    (rd 4).nextServed 0 (rd 4).readies = some (1, queueKey 1 0) ∧ (rd 4).seals.committing = false ∧ (jobWith []).cancelled = false ∧ (dq []).replicaPhase = false := by
  decide
/-- A second queue of a lower level number is served first. -/
def rd2 : State := ((rd 4).modJob 1 fun j => { j with queues := [(0, some (queue0 [])), (1, some { queue0 [] with prio := 0 })] })
theorem test_hyps_QueueCommandEvents_turn : rd2.nextServed 0 rd2.readies = some (0, queueKey 1 1) ∧ after (.commandRead 1 0) rd2 = rd2 := by decide
/-- A launch into a phase that has no graph yet. -/
def opening (s : State) : State := within [0x20000, 0x22000, 0x23000] (s.modJob 1 fun j => { j with phases := [] })
theorem test_hyps_QueueCommandEvents_opens : ((opening lnch).job 1).map (fun j => (j.phase 0).graphs) = some [] ∧
    Claim.Writable (opening lnch) 1 0x20000 ∧ Claim.Writable (opening lnch) 1 0x22000 ∧ Claim.Writable (opening grph) 1 0x22000 ∧
    Claim.Writable (opening grph) 1 0x23000 ∧ Claim.Writable (within [0x50000] (dq [])) 1 0x50000 :=
  ⟨by decide, writable _ _ _ (by decide) (by decide), writable _ _ _ (by decide) (by decide), writable _ _ _ (by decide) (by decide),
    writable _ _ _ (by decide) (by decide), writable _ _ _ (by decide) (by decide)⟩
theorem test_launch_opens : (after (.launch 1 0) (opening lnch)).gRead (at1 0x20000) 8 = 0 ∧ (((after (.launch 1 0) (opening lnch)).job 1).map fun j =>
    (j.phase 0).graphs.length) = some 1 := by decide
theorem test_waitval_met : cmdsLeft (after (.waitvalSatisfied 1 0) (dq [{ pend (cmd 3 0 0x50000 5) true with started := true, met := true }])) = 0 := by decide
theorem test_hyps_QueueCommandEvents_cancel : (cn 0 0x22000).launches = [(1, some { q1 with bound := false })] ∧
    (cn 0 0x22000).graph 1 = some { graph1 with cnt := some 0x23000 } ∧ Claim.Writable (within [0x22000, 0x23000] (cn 0 0)) 1 0x22000 ∧ Claim.Writable (within [0x22000, 0x23000] (cn 0 0)) 1 0x23000 :=
  ⟨rfl, rfl, writable _ _ _ (by decide) (by decide), writable _ _ _ (by decide) (by decide)⟩

/-- Launch 1 may begin: its command is under way and its contexts are free. -/
def ready : State := ((dq [wp]).setLaunch 1 (some { q1 with bound := false, prepared := [] })).setCtx 0 Ctx.reset
theorem test_launch_start : (after (.launchStart 1) ready).me.row.v = true ∧ (after (.launchStart 1) ready).me.row.launch = 1 ∧
    ((after (.launchStart 1) ready).launch 1).map (·.bound) = some true := by decide
/-- A tensor table of one entry at 0x70000 and segment 1 at 0x30010. -/
def prep : State := ((dq [wp]).setLaunch 1 (some { q1 with prepared := [], record := { rec1 with ttcnt := 1, ttptr := 0x70000, segmask := 2 } })) |> gput
  [(0x70000, 2 ^ 63 + 5), (0x30010, 0x5000), (0x30018, 0x100)] |>.modCore 0 fun k => { k with tt := [(3, { Tensor.reset with valid := true })] }
def preped : State := nextOf s0 (execCorePreparation 1 0 prep)
theorem test_core_preparation : preped = after (.corePreparation 1 0) prep ∧ tget Tensor.reset (preped.core 0).tt 0 = { Tensor.reset with valid := true, extra := 5 } ∧
    (tget Tensor.reset (preped.core 0).tt 3).valid = false ∧ (preped.me.readSeg 1).base = 0x5000 ∧ (preped.me.readSeg 1).limit = 0x100 ∧
    (preped.launch 1).map (·.prepared) = some [0] := by decide
def us : State := (dq [wp]).setCtx 0 { Ctx.reset with row := row1, g := [(20, 5)] }
def started : State := nextOf s0 (execUnitStart 0 us)
theorem test_unit_start : started = after (.unitStart 0) us ∧ [1, 2, 3, 4, 11, 20].map (fun r => (started.me.readG r).toNat) = [0, 0, 7, 1, 8, 0] ∧
    started.me.pc = 0x100 ∧ started.me.run = .active ∧ started.me.cwlim = 5 ∧ started.me.cquota = 1000 ∧ started.me.cvec = 0x1000 := by decide
/-- Phase 0, whose launch is complete: no further work. -/
def ph (b : Option Baton) (f : Job → Job) : State := (((dq []).setGraph 1 (some { graph1 with state := .complete })).setJob 1
  (some (f { jobWith [] with queues := [], phases := [(0, { Phase.fresh with graphs := [1], baton := b, done := 1 })] }))).modCore 0 fun k =>
    { k with msgCount := 4, black := true }
def bat (sum : Int) (l : List Nat) : Option Baton := some { sum := sum, black := false, todo := l, first := 0 }
def batonOf (s : State) : Option (Option Baton) := (s.job 1).map fun j => (j.phase 0).baton
def white (s : State) : State := s.modCore 0 fun k => { k with black := false }
theorem test_baton : batonOf (after (.batonStart 1 0) (ph none id)) = some (bat 0 [0]) ∧
    batonOf (after (.batonVisit 1 0) (ph (bat 3 [0]) id)) = some (some { sum := 7, black := true, todo := [], first := 0 }) ∧
    ((after (.batonVisit 1 0) (ph (bat 3 [0]) id)).core 0).black = false ∧ batonOf (after (.batonReturn 1 0) (ph (bat 0 []) id)) = some (bat 0 [0]) := by decide
def endedOf (s : State) : Option (Nat × CState) := (s.job 1).map fun j => (j.ended, (j.phase 0).state)
theorem test_phase_end : endedOf (after (.batonReturn 1 0) (white (ph (bat 0 []) id))) = some (1, .complete) ∧
    (after (.batonReturn 1 0) (white (ph (bat 0 []) id))).gRead (at1 0x20000) 8 = 2 ^ 62 + 1 ∧ endedOf (after (.batonStart 1 0) ((ph none id).setLaunch 1 none)) = some (1, .complete) ∧
    ((after (.phaseEndNotice 1 0 5) (ph none fun j => { j with ended := 1 })).die 5).knownEnds = [(1, 0)] := by decide
def jobOver (j : Job) : Job := { j with ended := 1, endTaken := true }
theorem test_job_end : (after (.jobEnd 1) (ph none jobOver)).job 1 = none ∧ (after (.jobEnd 1) (ph none jobOver)).gRead (at1 0x21000) 8 = 2 ^ 62 + 1 ∧
    after (.jobEnd 1) (ph none fun j => { j with cancelled := true }) = ph none (fun j => { j with cancelled := true }) ∧
    ((after (.jobendEffect 1) (ph none fun j => { j with endPosted := some [] })).job 1).map (·.endTaken) = some true := by decide
theorem test_hyps_LaunchAndPhaseEvents : ready.launchReady { q1 with bound := false, prepared := [] } = true ∧ ready.startTurn { q1 with bound := false, prepared := [] } = true ∧ ready.seals.committing = false ∧ rec1.ctxIds = [0] ∧ q1.nextTask 0 = some 0 ∧
    0 ∈ rec1.coreIds ∧ rec1.feclr = false ∧ rec1.simglen = 0 ∧ (∀ d ∈ ctxsOf 0, (prep.ctx d).row.v = true → (prep.ctx d).row.launch.toNat = 1) ∧
    us.me.row.v = true ∧ us.me.run = .idle ∧ us.launch 1 = some q1 ∧ coreOf 0 ∈ q1.prepared ∧ (us.die 0).prepared = false ∧ us.phaseKnown 0 1 0 = true := by
  decide
theorem test_hyps_LaunchAndPhaseEvents_phases : (ph none id).phaseCores 1 0 = [0] ∧ ((ph none id).setLaunch 1 none).phaseCores 1 0 = [] ∧
    ((ph none id).job 1).map (fun j => (j.ended, j.cancelled, (ph none id).noFurtherWork j 0)) = some (0, false, true) ∧
    (ph none id).jobBound 1 = true ∧ (ph none id).graph 1 = some { graph1 with state := .complete } := by decide
/-- The same with the pages of the counters, and with a cancelled job whose context is not bound. -/
def phIn (f : Job → Job) : State := within [0x20000, 0x21000] (ph none f)
def goneJob : State := (within [0x20000, 0x21000] (ph none fun j => { jobOver j with cancelled := true })).setCtx 0 Ctx.reset
theorem test_hyps_LaunchAndPhaseEvents_counters : Claim.Writable (phIn id) 1 0x20000 ∧ Claim.Writable (phIn id) 1 0x21000 ∧
    Claim.Writable (phIn jobOver) 1 0x21000 ∧ Claim.Writable goneJob 1 0x21000 ∧ jaddr 1 0x20000 ≠ jaddr 1 0x21000 :=
  ⟨writable _ _ _ (by decide) (by decide), writable _ _ _ (by decide) (by decide), writable _ _ _ (by decide) (by decide),
    writable _ _ _ (by decide) (by decide), by decide⟩
theorem test_job_cancelled : goneJob.jobBound 1 = false ∧ (after (.jobEnd 1) goneJob).job 1 = none ∧ (after (.jobEnd 1) goneJob).gRead (at1 0x21000) 8 = 2 ^ 63 := by decide
/-- Launch 2 at priority 0 is due on core 0, whose context is bound at 2. -/
def due : State := (((dq [wp]).setLaunch 1 (some { q1 with bound := false })).modMe fun x => { x with row := { x.row with launch := 9, prio := 2 } })
theorem test_preempt_begins : due.preemptDue 0 = true ∧ due.boundOn 0 = [0] ∧ due.me.row.pre = false ∧ (after (.priorityPreemption 0) due).me.row.pre = true := by
  decide
/-- What each queue has ready is served in its turn; a CANCEL of the launch is read. -/
def keyed (s : State) : Prop := s.nextServed 0 s.readies = some (1, queueKey 1 0)
theorem test_hyps_QueueCommandEvents_turns : keyed lnch ∧ keyed grph ∧ keyed (wv 0 5) ∧ keyed (dq [pend (cmd 4 0 0x50000 77) true]) ∧
    keyed (dq [pend (cmd 7 0 0 0) true]) := by unfold keyed; decide
def rd5 : State := gput [(0x30000, 2 ^ 56 * 5), (0x30008, 0x22000)] (((dq []).setLaunch 1 (some { q1 with bound := false })).setGraph 1
  (some { graph1 with cnt := some 0x23000 }))
theorem test_hyps_QueueCommandEvents_read : (Command.ofBytes (rd5.dread 1 0x30000 64) 0).bad (jobWith []) = false ∧
    (Command.ofBytes (rd5.dread 1 0x30000 64) 0).mode = 0 ∧ (Command.ofBytes (rd5.dread 1 0x30000 64) 0).addr = q1.record.cntaddr ∧
    keyed rd5 ∧ stateOf (after (.commandRead 1 0) rd5) = some .cancelled := by unfold keyed; decide
/-- A command that has been read awaits its record. -/
def readingJob (j : Job) : Job := { j with queues := [(0, some (queue0 [pend (cmd 1 0 0x40000 0) false]))] }
theorem test_hyps_LaunchAndPhaseEvents_awaits : (readingJob (jobWith [])).reading.map (fun c => c.phase.toNat) = [0] ∧
    batonOf (after (.batonReturn 1 0) (white (ph (bat 0 []) readingJob))) = some (bat 0 []) ∧
    ((after (.jobEnd 1) (ph none fun j => readingJob (jobOver j))).job 1).isSome = true := by decide
/-- A deterministic job over two clusters, one of which stands at 20. -/
def wide (j : Job) : Job := { j with cwm1 := 1, chm1 := 0 }
def apart : State := ((ready.setJob 1 (some (wide (jobWith [wp])))).setLaunch 1 (some { q1 with bound := false, prepared := [], record := { rec1 with det := true } })).modCluster
  0 fun q => { q with fll := 20, ldo := 20 }
theorem test_hyps_LaunchAndPhaseEvents_uneven : (apart.launch 1).map (fun q => (apart.launchReady q, apart.startTurn q)) = some (true, true) ∧
    (apart.job 1).map apart.uneven = some true ∧ apart.seals.committing = false ∧
    (apart.job 1).map (fun j => j.rect.map fun c => ((after (.launchStart 1) apart).cluster c).ordered) = some [20, 20] ∧
    ((after (.launchStart 1) apart).launch 1).map (·.bound) = some false := by decide
/-! ### Clocks, temperatures, ports, the management window (R24, R280 to R294, R330 to R348, R362, R363, R433, R434), and whole steps -/

def cl0 (s : State) : Cluster := s.cluster 0
def narrow : Job := { jobWith [] with cwm1 := 1, chm1 := 0 }
def det1 (b : Bool) : State := ((dq []).setJob 1 (some narrow)).setLaunch 1 (some { q1 with bound := b, record := { rec1 with det := true } })
def hot : State := nextOf s0 (execThermalReading 0 400 s0)
def lateBy (us : Nat) (s : State) : State := { s with mgmt := { s.mgmt with time := BitVec.ofNat 64 us } }
theorem test_thermal : (cl0 hot).throttled = true ∧ (cl0 hot).budget = 32 ∧ cl0 (after (.thermalReading 0 384) hot) = { cl0 hot with temp := 384 } ∧
    (cl0 (after (.thermalReading 0 384) (lateBy 1000 hot))).budget = 64 ∧ (cl0 (after (.thermalReading 0 399) s0)).throttled = false ∧
    (cl0 (after (.thermalReading 0 440) s0)).failed = true := by decide
def tripped1 (n : Nat) : State := s0.modCluster 0 fun q => { q with tripped := true, coolReadings := n }
theorem test_thermal_trip_clears : (cl0 (after (.thermalReading 0 384) (tripped1 1))).coolReadings = 2 ∧
    (cl0 (after (.thermalReading 0 384) (tripped1 2))).tripped = false ∧ (cl0 (after (.thermalReading 0 385) (tripped1 2))).coolReadings = 0 := by decide
def at40 (s : State) : State := s.modCluster 0 fun q => { q with fll := 40, ldo := 40 }
/-- In a job that is not deterministic, and in one that is, inside a phase (a launch is bound) and at a phase boundary. -/
theorem test_frequency : (cl0 (after (.frequencyChange 0 (.step 40)) s0)).fll = 30 ∧ (cl0 (after (.frequencyChange 0 (.step 40)) s0)).goal = some 40 ∧
    (cl0 (after (.frequencyChange 0 (.step 5)) s0)).fll = 30 ∧ (cl0 (after (.frequencyChange 0 (.step 5)) s0)).goal = some 5 ∧ ((after (.frequencyChange 0 (.step 40)) (det1 true)).cluster (mkId 1 0 0 0)).goal = some 40 ∧
    (cl0 (after (.frequencyChange 0 (.budget 40)) s0)).budget = 40 ∧ after (.frequencyChange 0 (.budget 7)) s0 = s0 ∧
    (cl0 (after (.frequencyChange 0 (.threshold 110)) s0)).theta = 110 ∧ after (.frequencyChange 0 (.threshold 59)) s0 = s0 ∧
    tget 0 (after (.frequencyChange 0 (.voltage 3 700)) s0).mgmt.volts 3 = 700 := by decide
/-- A goal of 40 with its voltage; the FLL switches up only when it has settled, and at a lap boundary. -/
def toward (ldo : Nat) (s : State) : State := [0, mkId 1 0 0 0].foldl (fun t c => t.modCluster c fun q => { q with goal := some 40, ldo := ldo }) s
def midLap : State := (toward 40 s0).modCore 0 fun k => { k with cycle := 17 }
theorem test_clock_order : (cl0 (after (.frequencyChange 0 .ldo) (toward 30 s0))).ldo = 40 ∧ (cl0 (after (.frequencyChange 0 .fll) (toward 30 s0))).fll = 30 ∧
    (cl0 (after (.frequencyChange 0 .fll) (toward 40 s0))).fll = 40 ∧ (cl0 (after (.frequencyChange 0 .fll) midLap)).fll = 30 ∧
    (cl0 (after (.frequencyChange 0 .fll) (toward 40 (det1 true)))).fll = 30 ∧
    ((after (.frequencyChange 0 .fll) (toward 40 (det1 false))).cluster (mkId 1 0 0 0)).fll = 40 := by decide
theorem test_hyps_FabricEvents_clocks : (toward 40 s0).atLap 0 = true ∧ midLap.atLap 0 = false ∧ (toward 40 (det1 false)).jobAt 0 = some (1, narrow) ∧
    (toward 40 (det1 false)).detJob narrow = true ∧ (toward 40 (det1 false)).atPhaseBoundary narrow = true ∧ narrow.rect = [0, mkId 1 0 0 0] ∧
    (∀ x ∈ narrow.rect, ((toward 40 (det1 false)).cluster x).goal = some 40 ∧ ((toward 40 (det1 false)).cluster x).fll < 40 ∧
      ((toward 40 (det1 false)).cluster x).ldo = 40 ∧ (toward 40 (det1 false)).atLap x = true) ∧ (cl0 (toward 40 (det1 false))).goalNow = false := by decide
theorem test_detector_rate : (cl0 (after (.detectorRateReport 0) ((at40 s0).modCore 0 fun k => { k with detections := 65 }))).ordered = 39 ∧
    (cl0 (after (.detectorRateReport 0) ((at40 s0).modCore 0 fun k => { k with detections := 64 }))).ordered = 40 := by decide
theorem test_throttle_step : (cl0 (after (.throttleStep 0) ((at40 ls).modCluster 0 fun q => { q with throttled := true }))).ordered = 32 ∧
    (cl0 (after (.throttleStep 0) (at40 ls))).fll = 40 := by decide
def slot3 : Slot := { sch := true, inp := 1, flow := 0xABC }
def shadowed (due : Bool) (frame : Nat) : State := { s0.modCluster 0 fun q => { q with shadow := [(3, slot3)], swapDue := due } with frame := frame }
theorem test_router : (cl0 (after (.routerTableSwap 0 .swap) (shadowed true 63))).slots = [(3, slot3)] ∧ (cl0 (after (.routerTableSwap 0 .swap) (shadowed false 63))).slots = [] ∧
    (cl0 (after (.routerTableSwap 0 .swap) (shadowed true 0))).slots = [] ∧ (cl0 (after (.routerTableSwap 0 .cycle) (shadowed true 63))).slots = [(3, slot3)] ∧
    tget Slot.zero (cl0 (after (.routerTableSwap 0 (.write 1 2 0x9ABC)) s0)).shadow 66 = slot3 := by decide
def over1 : State := nextOf s0 (execCurrentSample 0 121 10 s0)
def stepped (cs : List (ClusterId × Nat × Nat)) : State :=
  s0.modDie 0 fun d => { d with stepAt := some 20, lastOver := some 20, beforeStep := cs }
theorem test_current : (over1.die 0).overSamples = 1 ∧ (over1.die 0).stepAt = none ∧ ((after (.currentSample 0 120 20) over1).die 0).overSamples = 0 ∧
    over1.mgmt.time = 10 := by decide
theorem test_current_step : let t := after (.currentSample 0 100 1020) (stepped [(0, 60, 12)])
    (t.die 0).stepAt = none ∧ (cl0 t).budget = 60 ∧ (cl0 t).ordered = 12 ∧ ((after (.currentSample 0 101 1020) (stepped [])).die 0).off = true := by decide
/-- Link 1, the output towards Y; flits of the flow of slot 3, of best effort, and of a copy. -/
def lk (asked : Nat) : State := { (s0.setLink 1 { Link.reset with buffer := [4, 3, 2, 1], asked := asked, delivered := [9] }).modCluster 0 fun q => { q with slots := [(67, slot3)] } with
  frame := 3, nextId := 8 }
def mf (n : Fin 5) (flow : Option (BitVec 12)) (copy : Bool) : MeshFlit := ⟨n, flow, copy, mkId 0 1 0 0⟩
def sch (n : Fin 5) : MeshFlit := mf n (some 0xABC) false
def be (n : Fin 5) : MeshFlit := mf n none false
def cp (n : Fin 5) : MeshFlit := mf n none true
def wait4 (l : List (Nat × MeshFlit)) (s : State) : State := s.setLink 1 { s.link 1 with waiting := l }
def carried (s : State) : List Nat := (s.link 1).delivered
theorem test_mesh_retry : carried (after (.meshFlitRetry 1 (some (be 0)) true) (lk 0)) = [8, 9] ∧ carried (after (.meshFlitRetry 1 (some (sch 2)) true) (lk 0)) = [9] ∧
    carried (after (.meshFlitRetry 1 (some (sch 1)) true) (wait4 [(5, be 0)] (lk 0))) = [8, 9] ∧ carried (after (.meshFlitRetry 1 none true) (lk 1)) = [4, 9] ∧
    carried (after (.meshFlitRetry 1 none true) (wait4 [(5, be 0), (6, cp 0)] (lk 0))) = [6, 9] ∧
    carried (after (.meshFlitRetry 1 none true) (wait4 [(5, be 3), (6, be 0)] (lk 0))) = [6, 9] ∧
    ((after (.meshFlitRetry 1 (some (be 0)) false) (lk 0)).link 1).asked = 1 ∧ carried (after (.meshFlitRetry 2 (some (be 0)) true) (lk 0)) = [9] := by decide
theorem test_hyps_FabricEvents_links : (1 ∉ (lk 0).deadLinks) ∧ meshOut (linkRouter 1) (be 0).dst = 1 ∧ meshOut (linkRouter 2) (be 0).dst ≠ 2 ∧
    (lk 0 |>.link 1).used = false ∧ (tget Slot.zero ((lk 0).cluster (linkRouter 1)).slots (64 * (1 % 5) + (lk 0).frame)) = slot3 ∧
    (sch 1).flow = some slot3.flow ∧ (sch 1).inp.val = slot3.inp.toNat ∧ (lk 1 |>.link 1).asked ≠ 0 := by decide

/-- A flit; it as it is sent under number n; one with a wrong CRC; a flit that a port holds. -/
def fl0 : Flit := { cls := .best, dst := 0, tag := 0, seq := 0, payload := 66, crc := 0 }
def sent (n : Nat) : Flit := flitSealed fl0 (BitVec.ofNat 12 n)
def spoiled (n : Nat) : Flit := { sent n with crc := (sent n).crc + 1 }
theorem sealed_sound (f : Flit) (n : BitVec 12) : flitSound (flitSealed f n) = true := by simp [flitSound, flitSealed, flitBytes]
theorem spoiled_unsound (n : Nat) : flitSound (spoiled n) = false := by
  have h : (sent n).crc = crc64 (flitBytes (spoiled n)) := by simp [sent, spoiled, flitSealed, flitBytes]
  have g : (spoiled n).crc = (sent n).crc + 1 := rfl
  rw [flitSound, g, h]
  generalize crc64 (flitBytes (spoiled n)) = d
  exact beq_false_of_ne (by bv_omega)
def held (c : FlitClass) (flow : Option (BitVec 12)) : PortFlit := { flow := flow, flit := { fl0 with cls := c }, tries := 0 }
def un (n k : Nat) : PortFlit := { flow := none, flit := { fl0 with seq := BitVec.ofNat 12 n }, tries := k }
def po (n : Nat) : State := s0.setPort 7 { Port.reset with rxSeq := BitVec.ofNat 12 n, unacked := [un 8 1, un 9 1], txSeq := 10 }
/-- One flit of each class waits, at a slot of the frame; slot 5 is reserved for flow 7. -/
def queued (slot : Nat) : Port := { Port.reset with slot := slot, waiting := [held .best none, held .copy none, held .scheduled (some 7), held .control none],
                                                    reserved := [(5, some 7)] }
theorem test_port_frame : [3, 4, 5, 63].map (fun n => (queued n).pick.map fun e => e.flit.cls) = [some .control, some .copy, some .scheduled, some .copy] ∧
    { queued 3 with waiting := [held .best none] }.pick = none ∧ { queued 5 with waiting := [held .best none] }.pick = some (held .best none) ∧
    ((queued 63).step 0).slot = 0 ∧ { queued 3 with answers := [(true, 4)] }.step 0 = { queued 4 with sent := [(true, 4)] } := by decide
theorem test_flit_receive : (((po 4095).receiveFlit 7 (sent 4095)).port 7).rxSeq = 0 ∧ (((po 4095).receiveFlit 7 (sent 4095)).port 7).delivered = [sent 4095] := by
  have h : (flitSound (sent 4095) && (sent 4095).seq == ((po 4095).port 7).rxSeq) = true := by
    rw [sent, sealed_sound]; rfl
  unfold State.receiveFlit; simp only [h, if_true]; exact ⟨rfl, rfl⟩
theorem test_flit_refused : (((po 5).receiveFlit 7 (spoiled 5)).port 7).answers = [(false, 5)] ∧ (((po 5).receiveFlit 7 (sent 4)).port 7).answers = [(true, 5)] := by
  constructor
  · unfold State.receiveFlit; simp only [spoiled_unsound, Bool.false_and]; rfl
  · have h : (flitSound (sent 4) && (sent 4).seq == ((po 5).port 7).rxSeq) = false := by rw [sent, sealed_sound]; rfl
    have g : (flitSound (sent 4) && decide ((((po 5).port 7).rxSeq - (sent 4).seq).toNat ≤ 128)) = true := by rw [sent, sealed_sound]; rfl
    unfold State.receiveFlit; simp only [h, g, if_true]; rfl
theorem test_nak_and_port_down : ((after (.ilufoskoNak 7 false 9) (po 5)).port 7).unacked = [un 9 1] ∧ ((after (.ilufoskoNak 7 false 9) (po 5)).port 7).again = 1 ∧
    ((after (.ilufoskoNak 7 true 10) (po 5)).port 7).unacked = [] ∧ after (.ilufoskoPortDown 7 .down) (po 5) = po 5 ∧
    ((after (.ilufoskoPortDown 7 .down) (lateBy 10 (po 5))).port 7).down = true := by decide
/-- The interface of ports 6 and 7 reaches module 0 by port 7, then by port 6. -/
def routed : State := nextOf s0 (execIlufoskoPortDown 7 (.route 0 [7, 6]) s0)
def key0 : BitVec 64 × BitVec 9 × FlitClass := (1, 0, .best)
theorem test_routes : (after (.ilufoskoPortDown 6 (.send 1 none fl0)) routed).pins = [(key0, 7)] ∧
    ((after (.ilufoskoPortDown 6 (.send 1 none fl0)) routed).port 7).waiting = [held .best none] ∧
    ((after (.ilufoskoPortDown 6 (.send 1 none fl0)) { routed with pins := [(key0, 6)] }).port 6).waiting = [held .best none] ∧
    tget none ((after (.ilufoskoPortDown 7 (.reserve 4 (some 9))) s0).port 7).reserved 4 = some 9 ∧ after (.ilufoskoPortDown 7 (.reserve 3 (some 9))) s0 = s0 := by decide
theorem test_hyps_FabricEvents_ports : ((po 5).port 7).down = false ∧ (queued 3).answers = [] ∧ (queued 3).again = 0 ∧ (queued 3).unacked.length < 128 ∧
    { queued 3 with waiting := [held .control none] }.waiting = [held .control none] ∧ tget none (queued 5).reserved 5 = some 7 ∧ tget none (queued 4).reserved 4 = none ∧
    (∀ e ∈ ({ queued 3 with waiting := [held .best none] } : Port).waiting, e.flit.cls ≠ .control) ∧ (sent 5).seq = ((po 5).port 7).rxSeq ∧
    (sent 5).dst = (po 5).mgmt.mdom ∧ (sent 4).seq ≠ ((po 5).port 7).rxSeq ∧ (((po 5).port 7).rxSeq - (sent 4).seq).toNat ≤ 128 ∧
    128 < (((po 5).port 7).rxSeq - (sent 6).seq).toNat ∧ (∀ x ∈ ((po 5).port 7).unacked, x.flit.seq ≠ 10) ∧ (routed.port 7).down = false ∧
    tget [] routed.routes (512 * 3) = [7, 6] := by decide
/-- 128 flits are unacknowledged. -/
theorem test_port_window : { queued 4 with unacked := List.replicate 128 (un 0 1) }.pick = none := by decide
theorem test_hyps_FabricEvents : (∀ n < 36, (s0.die n).beforeStep = []) ∧ s0.jobAt 0 = none ∧ (det1 true).jobAt 0 = some (1, narrow) ∧
    (det1 true).detJob narrow = true ∧ (det1 true).atPhaseBoundary narrow = false ∧ (det1 false).atPhaseBoundary narrow = true ∧ (cl0 s0).tripped = false ∧
    (cl0 (tripped1 2)).tripped = true ∧ ls.detJob j1 = false ∧ (cl0 (shadowed true 0)).swapDue = true ∧ (lk 1 |>.link 1).buffer = [4, 3, 2, 1] ∧ (s0.die 0).off = false ∧ (lk 0 |>.link 1).asked = 0 ∧
    (stepped [(0, 60, 12)] |>.die 0).lastOver = some 20 := by decide

/-- The module management of a state, with what a test sets of it. -/
def mg' (f : Mgmt → Mgmt) (s : State) : State := { s with mgmt := f s.mgmt }
def locked : State := mg' (fun m => { m with mlock := some .bus }) s0
theorem test_mdom_mlock : (after (.mdom 0x1FF) s0).mgmt.mdom = 0x1FF ∧ after (.mdom 0x1FF) js = js ∧ (after (.mlock .bus 1) s0).mgmt.mlock = some .bus ∧
    (after (.mlock .ilufosko 1) locked).mgmt.mlock = some .bus ∧ (after (.mlock .ilufosko 0) locked).mgmt.mlock = some .bus ∧
    (after (.mlock .bus 0) locked).mgmt.mlock = none := by decide
theorem test_mlock_timeout : (after .mlockTimeout (lateBy 999999 locked)).mgmt.mlock = some .bus ∧ (after .mlockTimeout (lateBy 1000000 locked)).mgmt.mlock = none := by
  decide
def qOf (s : State) : Option (Nat × Nat × Bool) := (s.queue 1 0).map fun q => (q.doorbell.toNat, q.consumed.toNat, q.stopped)
def stopd : State := (dq []).modQueue 1 0 fun q => { q with stopped := true, doorbell := 9 }
theorem test_doorbell_qreset : qOf (after (.doorbell 0x10000FFFF) (dq [])) = some (4, 4, false) ∧ qOf (after (.qreset 0x100000000) stopd) = some (9, 9, false) ∧
    after (.qreset 0x100000000) (dq []) = dq [] := by decide
theorem test_jobend : ((after (.jobend 0x100000000) (dq [])).job 1).map (·.endPosted) = some (some [(0, 5)]) := by decide
/-- A job descriptor at 0x8000 with one queue descriptor at 0x9000 (R281, R282). -/
def gputIn (job : Nat) (l : List (Nat × Nat)) (s : State) : State := l.foldl (fun t e => t.gWriteRaw (jaddr job e.1) 8 e.2) s
def desc (qd : Nat) (off v : Nat) : State :=
  (s0 |> gputIn 0 [(0x8000, 2 ^ 48 * 7 + 2 ^ 40 * 1), (0x8008, 0x4000), (0x8010, 0x9000), (0x8018, 0x20000), (0x8020, 0x21000),
    (0x8028, 2 ^ 40 * 47 + 2 ^ 32 * 11 + 2 ^ 24 * 4 + 2 ^ 16 * 4), (0x8030, 0x10000), (0x8038, 2 ^ 44 * 4 + 1000), (off, v)] |> gputIn 7 [(0x9000, 0x30000), (0x9008, qd)]).bringIn (pageOf (jaddr 7 0x21000))
theorem test_jobnew : ((after (.jobnew 0x8000) (desc 0x44 0xA000 0)).job 7).map (fun j => (j.cwm1, j.fmlogn, j.sealInt, j.refill)) = some (47, 4, 1000, 10) ∧
    (after (.jobnew 0x8000) (desc 0x44 0xA000 0)).gRead (jaddr 7 0x21000) 8 = 0 ∧ (after (.jobnew 0x8000) (desc 0xC4 0xA000 0)).mgmt.result = 5 ∧
    (after (.jobnew 0x8000) (desc 0x44 0x8030 0x10020)).mgmt.result = 5 := by decide
theorem test_window_write : after (.windowWrite .bus (.write 0x18 5)) s0 = after (.mdom 5) s0 ∧ (after (.windowWrite .bus (.write 0x1008 0xABCD)) s0).mgmt.mbuf.read 8 8 = 0xABCD ∧
    after (.windowWrite .ilufosko (.write 0x1008 1)) locked = locked ∧ after (.windowWrite .ilufosko (.write 0x18 5)) (mg' (fun m => { m with pwr := .standby }) s0) =
      mg' (fun m => { m with pwr := .standby }) s0 := by decide
/-- What a path reads at an offset: MSTAT of a module that is DEPLOYED and ON, with SEQ 7 and RESULT 3; the lock; M1; and nothing. -/
def readAt (off : Nat) (s : State) : Nat := (tget 0 (nextOf s0 (execWindowWrite .bus (.read off) s)).mgmt.answer (pathCode .bus)).toNat
theorem test_window_read : readAt 8 (mg' (fun m => { m with seq := 7, result := 3 }) s0) = 0x07030000 + s0.mgmt.lc.code + 2 ^ 8 * s0.mgmt.pwr.code ∧ readAt 0x20 locked = 2 ∧
    readAt 0x18 (mg' (fun m => { m with mdom := 0x1FF }) s0) = 0x1FF ∧ readAt 0x238 (mg' (fun m => { m with meas := [(1, 5 * 2 ^ 64)] }) s0) = 5 ∧
    readAt 0x380 s0 = 0 ∧ readAt 0x9000 s0 = 0 ∧ (after (.windowWrite .bus (.read 0)) (lateBy 9 locked)).mgmt.mlockAt = 9 := by decide
def gl : State := within [0x50000] s0
theorem test_host_write : (after (.windowWrite .ilufosko (.global 1 0x50000 8 77)) gl).gRead (at1 0x50000) 8 = 77 := by decide
theorem test_hyps_WindowWritesJobsAndBoot_global : Claim.Writable gl 1 0x50000 ∧ (gl.pageAt (at1 0x50000)).resident = true ∧ gl.mgmt.powered = true :=
  ⟨writable _ _ _ (by decide) (by decide), by decide, by decide⟩
theorem test_mreq_malformed : (after (.mreqMalformed .bus 8) locked).mgmt.result = 5 ∧ (after (.mreqMalformed .bus 8) locked).mgmt.seq = 1 ∧
    after (.mreqMalformed .bus 8) s0 = s0 := by decide
def offState : State := mg' (fun m => { m with pwr := .off }) s0
def img0 : FlashImage := { header := [1], body := [], rsaSignature := [], slhSignature := [] }
def stby : State := mg' (fun m => { m with pwr := .standby, fwRunning := false }) s0
theorem test_boot : (after .powerOnBoot offState).mgmt.pwr = .standby ∧ (after .powerOnBoot offState).mgmt.result = 2 ∧
    (after (.newImage true img0) stby).mgmt.slotB = some img0 ∧ (after (.newImage false img0) stby).mgmt.slotA = some img0 ∧
    after (.newImage false img0) s0 = s0 := by decide
theorem test_hyps_WindowWritesJobsAndBoot : s0.jobs = [] ∧ js.jobs ≠ [] ∧ s0.mgmt.reaches .bus = true ∧ (dq []).queue 1 0 = some (queue0 []) ∧
    stopd.queue 1 0 ≠ none ∧ (dq []).job 1 = some (jobWith []) ∧ (jobWith []).endPosted = none ∧ s0.mgmt.lc.runsJobs = true ∧ s0.readJob 0x8000 = none ∧
    ((desc 0x44 0xA000 0).readJob 0x8000).map (·.1) = some 7 ∧ stby.mgmt.reaches .ilufosko = false ∧
    locked.admits .bus = true ∧ offState.mgmt.pwr = .off ∧ stby.mgmt.fwRunning = false := by decide
theorem test_hyps_WindowWritesJobsAndBoot_job : Claim.Writable (desc 0x44 0xA000 0) 7 0x21000 := writable _ _ _ (by decide) (by decide)

/-- An IDLE module with the descriptor, its dispatch image held; and a doubleword on its way to the window. -/
def idling : State := mg' (fun m => { m with pwr := .idle, dispatchImg := some img0 }) (desc 0x44 0xA000 0)
def inWay (l : List (Nat × Nat × Nat)) : State := { s0 with toWindow := l }
theorem test_hyps_WindowWritesJobsAndBoot_idle : idling.mgmt.pwr = .idle ∧ (idling.readJob 0x8000).map (·.1) = some 7 ∧ idling.mgmt.lc.runsJobs = true ∧
    idling.job 7 = none ∧ idling.mgmt.dispatchImg = some img0 ∧ (after (.jobnew 0x8000) idling).mgmt.pwr = .on := by decide
theorem test_hyps_WindowWritesJobsAndBoot_idle_counter : Claim.Writable idling 7 0x21000 := writable _ _ _ (by decide) (by decide)
theorem test_hyps_WindowWritesJobsAndBoot_program : (inWay [(0x18, 8, 5)]).mgmt.reaches .ilufosko = true ∧
    after (.windowWrite .ilufosko .program) (inWay [(0x18, 8, 5)]) = after (.mdom 5) s0 ∧ after (.windowWrite .ilufosko .program) (inWay [(0x18, 4, 5)]) = s0 := by
  decide
/-- A flit for module 1 comes in at port 7 and is passed on by port 6. -/
def through : State := nextOf s0 (execIlufoskoPortDown 7 (.route 1 [6]) s0)
def away : Flit := flitSealed { fl0 with dst := 1 } 0
theorem test_hyps_FabricEvents_passes : flitSound away = true ∧ away.seq = (through.port 7).rxSeq ∧ away.dst ≠ through.mgmt.mdom ∧ through.pins = [] ∧
    tget [] through.routes (512 * (7 / 2) + away.dst.toNat) = [6] ∧ (through.port 6).down = false :=
  ⟨sealed_sound _ _, by decide, by decide, by decide, by decide, by decide⟩

def rs (s : State) : Nat × Nat := (s.mgmt.result.toNat, s.mgmt.seq.toNat)
def lcl (lc : Lifecycle) : State := mg' (fun m => { m with lc := lc }) locked
def busy1 : State := mg' (fun m => { m with mlock := some .bus }) js
theorem test_power : rs (after (.powerOn .bus) locked) = (0, 1) ∧ rs (after (.powerIdle .bus) busy1) = (4, 1) ∧
    (after (.powerIdle .bus) locked).mgmt.pwr = .idle ∧ (after (.powerStandby .bus) locked).mgmt.pwr = .standby ∧
    (after (.powerOff .bus) locked).mgmt.pwr = .off ∧ rs (after (.powerOn .bus) (lcl .retired)) = (1, 1) := by decide
def inv' (lc : Lifecycle) (s : State) : State := mg' (fun m => { m with lc := lc, dbg := .invasive, mlock := some .bus }) s
theorem test_debug : (after (.debugOff .bus) (inv' .deployed s0)).mgmt.dbg = .off ∧ (after (.debugNonInvasive .bus) (inv' .deployed s0)).mgmt.dbg = .nonInvasive ∧
    rs (after (.debugInvasive .bus) locked) = (1, 1) ∧ (after (.debugInvasive .bus) (lcl .mfg)).mgmt.dbg = .invasive ∧
    (after (.debugNonInvasive .bus) (lcl .vendorDebug)).mgmt.dbg = .nonInvasive ∧ rs (after (.debugNonInvasive .bus) locked) = (3, 1) := by decide
theorem test_lifecycle : rs (after (.lifecycleDeployed .bus) (lcl .rma)) = (1, 1) ∧ (after (.lifecycleDeployed .bus) (lcl .tenant)).mgmt.lc = .deployed ∧
    rs (after (.lifecycleVendorDebug .bus) locked) = (3, 1) ∧ rs (after (.lifecycleRma .bus) (lcl .mfg)) = (1, 1) ∧
    rs (after (.lifecycleRetired .bus) (lcl .tenant)) = (1, 1) ∧ rs (after (.lifecycleRma .bus) busy1) = (4, 1) := by decide
def nonced : State := mg' (fun m => { m with nonce := some 3 }) locked
theorem test_nonce_keyload : rs (after (.keyload .bus) locked) = (3, 1) ∧ rs (after (.keyload .bus) (lcl .tenant)) = (1, 1) ∧
    rs (after (.keyload .bus) nonced) = (3, 1) ∧ (after (.keyload .bus) nonced).mgmt.nonce = none ∧ rs (after (.attest .bus) locked) = (3, 1) ∧
    rs (after (.nonce .bus) s0) = (0, 0) := by decide
theorem test_extend : rs (after (.extend .bus 4) locked) = (5, 1) ∧ rs (after (.extend .bus 5) locked) = (0, 1) ∧ rs (after (.extend .bus 8) locked) = (5, 1) := by
  decide
theorem test_hyps_ManagementRequests : locked.admits .bus = true ∧ busy1.admits .bus = true ∧ nonced.admits .bus = true ∧ (lcl .retired).admits .bus = true ∧
    locked.mgmt.lc = .deployed ∧ locked.jobs = [] ∧ busy1.jobs ≠ [] ∧ locked.mgmt.powered = true ∧ nonced.mgmt.nonce = some 3 ∧
    locked.mgmt.attestGone = false ∧ locked.mgmt.buf 0 8 = locked.mgmt.mid.toNat ∧ (inv' .deployed s0).admits .bus = true := by decide
theorem test_hyps_ManagementRequests_standby : (mg' (fun m => { m with pwr := .standby, mlock := some .bus, dispatchImg := some img0 }) s0).admits .bus = true := by decide

/-! ### Whole steps -/

/-- ADDI g6, g5, 2 fetched at the pc after reset, and a load of a doubleword far away (R144, R147). -/
def fetched : State := s0.withFetchWord 64 0x0000001400029809
def stepTo (s : State) : State := nextOf s (step s)
theorem test_step_addi : (stepTo (fetched.modMe fun x => x.writeG 5 7)).me.readG 6 = 9 ∧ (stepTo fetched).me.pc = 8 ∧ (stepTo fetched).me.g = [(6, 2)] := by decide
theorem test_step_illegal : (stepTo (s0.withFetchWord 64 0x0000000000029809)).me.ctrap = 1 ∧ (stepTo (s0.withFetchWord 64 0)).me.hl = true := by decide
theorem test_step_agenda : stepTo { s0 with agenda := [.context 32] } = { s0 with cur := 32 } := by decide
def waiting1 : State := (ls.modMe fun x => { x with run := .waiting (.mailbox 3), pc := 8, ir := [0x00029809, 0x00000014] })
theorem test_hyps_StepRunsDecodedInstruction : fetched.agenda = [] ∧ fetched.me.stepping = false ∧ fetched.eligible 0 = true ∧ fetched.me.imprecise = [] ∧
    fetched.windowEmpty 0 = true ∧ fetched.me.run = .active ∧ (fetched.page 0).resident = true ∧ fetched.me.bps = false ∧
    (fetched.core 0).matching 0 0 = none ∧ fetched.fetchChecks 0 0 2 = none ∧ (∀ n < 2, fetched.fetchPoisoned 0 (4 * n) 4 = false) ∧
    decode (fetched.codeWords 0 0) = .ok (.addi 6 5 2, 2) := by decide
theorem test_hyps_StepRunsDecodedInstruction_waiting : waiting1.eligible 0 = true ∧ waiting1.windowEmpty 0 = true ∧ waiting1.me.stepping = false ∧
    waiting1.me.imprecise = [] ∧ decode (waiting1.me.ir.map BitVec.toNat) = .ok (.addi 6 5 2, 2) ∧ Instr.isEvent (.sealReady) = true := by decide
def steps (s : State) : Bool := match step s with
  | .next _ => true
  | .fault _ => false
  | .refused _ => false
theorem test_hyps_StepKeepsMemoryCanonical : Safety.MemoryOk fetched ∧ steps fetched = true := by
  refine ⟨⟨by decide, ?_, ?_, ?_, ?_, ?_, by decide, framesOk _ (by decide)⟩, by decide⟩
  · unfold Safety.coresOk Safety.coreOk; decide
  · unfold Safety.savedOk Safety.coreOk; decide
  · unfold Safety.areaOk Safety.coresOk Safety.savedOk Safety.coreOk; decide
  · unfold Safety.areaOk Safety.coresOk Safety.savedOk Safety.coreOk; decide
  · intro a h
    have h0 : fetched.seals.keptArea = none := by decide
    rw [h0] at h
    cases h
theorem test_hyps_DecodeEncodeRoundTrip : Instr.wf (.addi 6 5 2) = true ∧ decode [0x00029809, 0x00000014, 0xFFFFFFFF] = .ok (.addi 6 5 2, 2) := by decide
end Sys2Proof.Tests
end

namespace Sys2Proof.ModuleParts
open Sys2Proof Sys2Proof.Machine Sys2Proof.Safety

/-! ### The state after module reset (O57) -/

/-- Every CSR but cid, whose value is the context's own identifier, reads 0 after reset. -/
theorem csr_reset (c : CtxId) {r : Csr} (h : r ≠ .cid) : State.reset.csr c r = 0 := by
  cases r
  case cid => exact absurd rfl h
  case cepc | cvec => exact (by decide : (0#62 ++ 0#2 : Word) = 0)
  case covf => exact (by decide : (0#60 ++ 0#4 : Word) = 0)
  all_goals rfl

theorem readSeg_reset (i : SReg) : Ctx.reset.readSeg i = Seg.zero := rfl

/-- An idle context does not issue. -/
theorem eligible_of_idle {s : State} {c : CtxId} (h : (s.ctx c).run = .idle) : s.eligible c = false := by
  simp [State.eligible, h]

/-- No page has a frame after reset, so none is shared. -/
theorem memoryOk_reset : MemoryOk State.reset := by
  refine ⟨wf_empty, by simp [coresOk, State.reset], by simp [savedOk, State.reset], ?_, ?_, by simp [State.reset], wf_empty, ?_⟩
  · simp [areaOk, coresOk, savedOk, State.reset]
  · simp [areaOk, coresOk, savedOk, State.reset]
  · intro p q f hp
    simp [State.page, State.reset] at hp

/-- Settles O57: every table of the reset state is empty, so each read gives the table's default. -/
theorem resetState : Obligations.ResetState := by
  unfold Obligations.ResetState
  refine ⟨fun c => ⟨fun r => csr_reset c, readSeg_reset, rfl, eligible_of_idle rfl⟩, fun c => ?_, fun c => ?_, ?_⟩
  · exact ⟨fun _ => ⟨rfl, rfl⟩, fun _ => rfl, fun _ => rfl, rfl, rfl, fun q _ => by cases q <;> rfl, fun _ => rfl, rfl⟩
  · exact ⟨fun _ => rfl, rfl, rfl, rfl⟩
  · exact ⟨rfl, rfl, rfl, rfl, rfl, rfl, rfl, rfl, rfl, rfl, rfl, fun _ => rfl, memoryOk_reset⟩
end Sys2Proof.ModuleParts

namespace Sys2Proof.ModuleParts
open Sys2Proof Sys2Proof.Machine Sys2Proof.Safety

/-! ### States whose memories hold the same bytes -/

theorem sameBytes_refl (s : State) : Claim.SameBytes s s := ⟨fun _ => rfl, fun _ _ => ⟨rfl, rfl, rfl⟩⟩

theorem sameBytes_trans {s t u : State} (h : Claim.SameBytes s t) (h' : Claim.SameBytes t u) : Claim.SameBytes s u :=
  ⟨fun a => (h'.1 a).trans (h.1 a), fun c a =>
    ⟨(h'.2 c a).1.trans (h.2 c a).1, (h'.2 c a).2.1.trans (h.2 c a).2.1, (h'.2 c a).2.2.trans (h.2 c a).2.2⟩⟩

/-- An update that leaves global memory and the cores alone leaves every byte. -/
theorem sameBytes_of_eq {s t : State} (hg : t.gmem = s.gmem) (hc : t.cores = s.cores) : Claim.SameBytes s t := by
  have hk (c : CoreId) : t.core c = s.core c := congrArg (tget Core.reset · c) hc
  exact ⟨fun a => by rw [hg], fun c a => by simp [hk c]⟩

/-- A change of a core that leaves its S, P and Q alone leaves every byte. -/
theorem sameBytes_modCore (s : State) (c : CoreId) (f : Core → Core)
    (h : ∀ k, (f k).s.cells = k.s.cells ∧ (f k).p.cells = k.p.cells ∧ (f k).q.cells = k.q.cells) :
    Claim.SameBytes s (s.modCore c f) := by
  refine ⟨fun _ => rfl, fun d a => ?_⟩
  rw [State.core_modCore]
  split
  next e => subst e; obtain ⟨hs, hp, hq⟩ := h (s.core d); rw [hs, hp, hq]; exact ⟨rfl, rfl, rfl⟩
  next => exact ⟨rfl, rfl, rfl⟩

/-! ### A lost reservation -/

/-- What the loss of a reservation leaves of its context and of the network. -/
theorem ctx_loseResv (s : State) (c : CtxId) : (s.loseResv c).ctx c = { s.ctx c with resv := none } :=
  (loseResv_spec s c (s.ctx c)).choose_spec.2.2.1

theorem cur_loseResv (s : State) (c : CtxId) : (s.loseResv c).cur = s.cur :=
  (loseResv_spec s c (s.ctx c)).choose_spec.2.2.2

theorem net_loseResv (s : State) (c : CtxId) : (s.loseResv c).net = s.net := by
  unfold State.loseResv
  split
  next => rfl
  next r _ => cases r.holder <;> rfl

theorem sameBytes_loseResv (s : State) (c : CtxId) : Claim.SameBytes s (s.loseResv c) := by
  unfold State.loseResv
  split
  next => exact sameBytes_refl s
  next r _ =>
    cases r.holder with
    | bank core =>
      exact sameBytes_trans (sameBytes_of_eq rfl rfl) (sameBytes_modCore _ core _ fun _ => ⟨rfl, rfl, rfl⟩)
    | home port => exact sameBytes_of_eq rfl rfl

/-! ### Pending imprecise traps -/

/-- A recorded trap is pending, and is all that is pending when nothing was. -/
theorem pend_mem (x : Ctx) (ceaddr : Word) :
    ∃ p ∈ (x.pend causeDropped ceaddr).imprecise, p.cause = causeDropped ∧ (x.imprecise = [] → p.ceaddr = ceaddr) := by
  unfold Ctx.pend
  split
  next h =>
    obtain ⟨p, hp, hc⟩ := List.any_eq_true.1 h.2
    refine ⟨_, List.mem_map_of_mem hp, ?_, fun e => by simp [e] at hp⟩
    rw [if_pos (by simpa using hc)]
    simpa using hc
  next => exact ⟨{ cause := causeDropped, ceaddr := ceaddr }, by simp, rfl, fun _ => rfl⟩

/-- Recording a trap changes no other field of the context. -/
theorem pend_eq (x : Ctx) (cause : BitVec 8) (ceaddr : Word) :
    x.pend cause ceaddr = { x with imprecise := (x.pend cause ceaddr).imprecise } := by
  unfold Ctx.pend
  split <;> rfl

/-! ### An access outside the job (O20) -/

/-- The meaning that an access of a kind goes through. -/
def accessOf (k : RefKind) (i : Instr) (s : State) : Out :=
  match k with
  | .load => s.load i
  | .store => s.store i
  | .lr => s.atom i
  | .sc => s.atom i
  | .amo _ _ => s.atom i

/-- An instruction of opcodes 0x50 to 0x55 is the access that its operands name. -/
theorem exec_of_ref {i : Instr} {r : MemRef} (h : Instr.ref i = some r) (s : State) : exec i s = accessOf r.kind i s := by
  unfold Instr.ref at h
  split at h <;> cases h <;> rfl

/-- Every access is of at least one byte. -/
theorem size_pos_of_ref {i : Instr} {r : MemRef} (h : Instr.ref i = some r) : 0 < r.size := by
  unfold Instr.ref at h
  split at h <;> cases h <;> simp [loadRef, storeRef, atomRef]

theorem sx_zero (w : Nat) : sx w 0 = 0 := by simp [sx]
theorem zx_zero (w : Nat) : zx w 0 = 0 := by simp [zx]

/-- What a landing value leaves of its context. -/
theorem land_leaves (r : MemRef) (v : Nat) (x : Ctx) :
    (r.land v x).cstat = x.cstat ∧ (r.land v x).imprecise = x.imprecise ∧ (r.land v x).pc = x.pc := by
  unfold MemRef.land
  cases r.how <;> simp [Ctx.writePair]

/-- A general register takes the zero that an access outside the job returns (R399). -/
theorem readG_land_zero {r : MemRef} (h : ∃ w, r.how = .zx w ∨ r.how = .sx w) (x : Ctx) (q : GReg) :
    (r.land 0 x).readG q = if q = Fin.ofNat 32 r.d then 0 else x.readG q := by
  have hz : r.land 0 x = x.writeG (Fin.ofNat 32 r.d) 0 := by
    obtain ⟨w, h | h⟩ := h <;> simp [MemRef.land, h, sx_zero, zx_zero]
  rw [hz, Ctx.readG_writeG]
  by_cases hq : q = Fin.ofNat 32 r.d
  · by_cases h0 : Fin.ofNat 32 r.d = 0
    · rw [if_neg (fun e => e.2 h0), if_pos hq, hq, h0]; rfl
    · rw [if_pos ⟨hq, h0⟩, if_pos hq]
  · rw [if_neg (fun e => hq e.1), if_neg hq]

/-- The state in which an access outside the job goes on: LR and SC lose the reservation, what would write is reported (R399). -/
def outsideReported (s : State) (k : RefKind) (id off : Nat) : State :=
  match k with
  | .load => s
  | .lr => s.loseResv s.cur
  | .store => s.dropped s.cur (outsideCeaddr id off)
  | .sc => (s.loseResv s.cur).dropped s.cur (outsideCeaddr id off)
  | .amo _ _ => s.dropped s.cur (outsideCeaddr id off)

/-- The effect of an access outside the job on its context. -/
def outsideLands (r : MemRef) (x : Ctx) : Ctx := if r.kind = .store then x else (r.land 0 x).raise fDZR

/-- An access outside the job that has passed its checks and its wait completes at once. -/
theorem exec_outside {s : State} {i : Instr} {r : MemRef} {id : Nat} (hr : Instr.ref i = some r)
    (ok : s.me.accessRefusal r.m r.kind (MemAddr.ea r.m s.me r.off).toNat r.size = none)
    (wc : s.me.waitCountZero r.m.wc = true)
    (out : s.place s.cur r.m (MemAddr.ea r.m s.me r.off).toNat r.size = .outside id (MemAddr.ea r.m s.me r.off).toNat) :
    exec i s = .next ((outsideReported s r.kind id (MemAddr.ea r.m s.me r.off).toNat).done r.bytes (outsideLands r)) := by
  have hl : r.kind ≠ .store → outsideLands r = fun x => (r.land 0 x).raise fDZR := fun h => funext fun x => if_neg h
  rw [exec_of_ref hr]
  cases hk : r.kind with
  | load => rw [hl (by simp [hk])]; rw [hk] at ok; simp [accessOf, State.load, hr, hk, ok, wc, State.loadAt, out, outsideReported]
  | store =>
    have hs : outsideLands r = fun x => x := funext fun x => if_pos hk
    rw [hs]; rw [hk] at ok; simp [accessOf, State.store, hr, hk, ok, wc, State.storeAt, out, outsideReported]
  | lr | sc | amo op dd =>
    rw [hl (by simp [hk])]; rw [hk] at ok
    simp [accessOf, State.atom, hr, hk, ok, wc, State.atomAt, out, State.atomOutside, outsideReported]

theorem cur_outsideReported (s : State) (k : RefKind) (id off : Nat) : (outsideReported s k id off).cur = s.cur := by
  cases k <;> simp [outsideReported, State.dropped, cur_loseResv]

theorem net_outsideReported (s : State) (k : RefKind) (id off : Nat) : (outsideReported s k id off).net = s.net := by
  cases k <;> simp [outsideReported, State.dropped, net_loseResv]

theorem sameBytes_outsideReported (s : State) (k : RefKind) (id off : Nat) :
    Claim.SameBytes s (outsideReported s k id off) := by
  cases k with
  | load => exact sameBytes_refl s
  | lr => exact sameBytes_loseResv s s.cur
  | store | amo => exact sameBytes_of_eq rfl rfl
  | sc => exact sameBytes_trans (sameBytes_loseResv s s.cur) (sameBytes_of_eq rfl rfl)

/-- The context keeps its pc, its flags and its general registers. -/
theorem me_outsideReported (s : State) (k : RefKind) (id off : Nat) :
    (outsideReported s k id off).me.pc = s.me.pc ∧ (outsideReported s k id off).me.cstat = s.me.cstat ∧
      ∀ q, (outsideReported s k id off).me.readG q = s.me.readG q := by
  have hd (u : State) (hu : u.cur = s.cur) : (u.dropped s.cur (outsideCeaddr id off)).me =
      (u.ctx s.cur).pend causeDropped (outsideCeaddr id off) := by
    simp [State.dropped, State.me, hu]
  cases k with
  | load => exact ⟨rfl, rfl, fun _ => rfl⟩
  | lr => rw [State.me, outsideReported, cur_loseResv, ctx_loseResv]; exact ⟨rfl, rfl, fun _ => rfl⟩
  | store | amo => rw [outsideReported, hd s rfl, pend_eq]; exact ⟨rfl, rfl, fun _ => rfl⟩
  | sc => rw [outsideReported, hd _ (cur_loseResv ..), pend_eq, ctx_loseResv]; exact ⟨rfl, rfl, fun _ => rfl⟩

/-- What would write is pending as DISCARDED_WRITE. -/
theorem pending_outsideReported (s : State) {k : RefKind} (id off : Nat) (h : k = .store ∨ k = .sc ∨ ∃ op dd, k = .amo op dd) :
    ∃ p ∈ (outsideReported s k id off).me.imprecise, p.cause = causeDropped ∧
      (s.me.imprecise = [] → p.ceaddr = outsideCeaddr id off) := by
  rcases h with rfl | rfl | ⟨op, dd, rfl⟩
  · simpa [outsideReported, State.dropped, State.me] using pend_mem s.me (outsideCeaddr id off)
  · simpa [outsideReported, State.dropped, State.me, cur_loseResv, ctx_loseResv] using
      pend_mem { s.me with resv := none } (outsideCeaddr id off)
  · simpa [outsideReported, State.dropped, State.me] using pend_mem s.me (outsideCeaddr id off)

/-- A remote access within S has an offset below its size. -/
theorem ea_lt_of_accessRefusal {x : Ctx} {m : MemAddr} {k : RefKind} {ea size : Nat} (hs : m.space = .remoteS) (hp : 0 < size)
    (h : x.accessRefusal m k ea size = none) : ea < 2 ^ 18 := by
  unfold Ctx.accessRefusal at h
  have hw : x.withinSpace m ea size ≠ false := by
    intro hn
    simp only [hn] at h
    split at h <;> simp at h
  simp only [Ctx.withinSpace, hs, ne_eq, Bool.not_eq_false] at hw
  have hle : ea + size ≤ sSize := of_decide_eq_true hw
  rw [sSize] at hle
  omega

/-- Settles O20. -/
theorem accessesOutsideTheJob : Obligations.AccessesOutsideTheJob := by
  unfold Obligations.AccessesOutsideTheJob
  intro s i r hr hs ea id ok wc out
  have hea : ea < 2 ^ 18 := ea_lt_of_accessRefusal hs (size_pos_of_ref hr) ok
  have hid : id < 2 ^ 32 := Nat.mod_lt _ (by norm_num)
  have hplace : s.place s.cur r.m ea r.size = .outside id ea := by
    simp only [State.place, hs]
    exact if_neg (by simpa [id, State.me] using out)
  obtain ⟨hpc, hcstat, hg⟩ := me_outsideReported s r.kind id ea
  refine ⟨_, exec_outside hr ok wc hplace, ?_, ?_, ?_, ?_, ?_, ?_, ?_⟩
  · simpa using net_outsideReported s r.kind id ea
  · exact sameBytes_trans (sameBytes_outsideReported s r.kind id ea) (sameBytes_of_eq rfl rfl)
  · simp
  · simpa [outsideLands, apply_ite Ctx.pc, land_leaves] using hpc
  · intro hk
    simp only [State.me_done, Ctx.advance_cstat, outsideLands, if_neg hk, Ctx.raise_cstat, land_leaves]
    exact congrArg (· ||| fDZR) hcstat
  · intro hh q hk
    simp only [State.me_done, Ctx.advance_readG, outsideLands, if_neg hk, Ctx.raise_readG, readG_land_zero hh]
    split
    · rfl
    · exact hg q
  · intro hw
    obtain ⟨p, hp, hc, ha⟩ := pending_outsideReported s id ea hw
    refine ⟨p, ?_, hc, fun e => ?_⟩
    · simpa [outsideLands, apply_ite Ctx.imprecise, land_leaves] using hp
    · rw [ha e, outsideCeaddr, Nat.mod_eq_of_lt hea, Nat.mod_eq_of_lt hid]
end Sys2Proof.ModuleParts

namespace Sys2Proof.ModuleParts
open Sys2Proof Sys2Proof.Machine Sys2Proof.Safety

/-! ### Identifiers of clusters -/

theorem xOf_mkId {x y c k : Nat} (hx : x < 256) (hy : y < 256) (hc : c < 32) (hk : k < 256) : xOf (mkId x y c k) = x := by
  unfold xOf mkId; omega

theorem yOf_mkId {x y c k : Nat} (hy : y < 256) (hc : c < 32) (hk : k < 256) : yOf (mkId x y c k) = y := by
  unfold yOf mkId; omega

theorem xOf_lt (id : Nat) : xOf id < 256 := Nat.mod_lt _ (by decide)
theorem yOf_lt (id : Nat) : yOf id < 256 := Nat.mod_lt _ (by decide)
theorem cOf_lt (id : Nat) : cOf id < 32 := Nat.mod_lt _ (by decide)
theorem kOf_lt (id : Nat) : kOf id < 16 := Nat.mod_lt _ (by decide)

@[simp] theorem xOf_clusterOf (id : Nat) : xOf (clusterOf id) = xOf id :=
  xOf_mkId (xOf_lt id) (yOf_lt id) (by decide) (by decide)
@[simp] theorem yOf_clusterOf (id : Nat) : yOf (clusterOf id) = yOf id := yOf_mkId (yOf_lt id) (by decide) (by decide)
@[simp] theorem clusterOf_clusterOf (id : Nat) : clusterOf (clusterOf id) = clusterOf id := by
  rw [clusterOf, xOf_clusterOf, yOf_clusterOf]; rfl

theorem mem_span {a lo n : Nat} : a ∈ span lo n ↔ lo ≤ a ∧ a < lo + n := by
  induction n generalizing lo with
  | zero => simp [span]
  | succ n ih => rw [span, List.mem_cons, ih]; omega

/-! ### Folds over parts of the state -/

/-- A relation that every step of a fold keeps, and that is transitive, holds along the fold. -/
theorem foldl_rel {α β : Type} {R : α → α → Prop} (hr : ∀ s, R s s) (ht : ∀ {s t u}, R s t → R t u → R s u) {f : α → β → α}
    (h : ∀ t b, R t (f t b)) (l : List β) (s : α) : R s (l.foldl f s) := by
  induction l generalizing s with
  | nil => exact hr s
  | cons b r ih => exact ht (h s b) (ih _)

/-- What every step of a fold leaves as it was, the fold leaves as it was. -/
theorem foldl_keeps {α β γ : Type} (g : α → γ) {f : α → β → α} (h : ∀ t b, g (f t b) = g t) (l : List β) (s : α) :
    g (l.foldl f s) = g s := by
  induction l generalizing s with
  | nil => rfl
  | cons b r ih => exact (ih _).trans (h s b)

/-- A fold of one change over clusters touches the table of clusters only. -/
theorem foldl_modCluster (l : List ClusterId) (f : Cluster → Cluster) (s : State) :
    l.foldl (fun t c => t.modCluster c f) s =
      { s with clusters := l.foldl (fun m c => tset Cluster.reset m c (f (tget Cluster.reset m c))) s.clusters } := by
  induction l generalizing s with
  | nil => rfl
  | cons c r ih => rw [List.foldl_cons, ih]; rfl

/-- A change that does no more when it is made twice, made on a list of clusters, has been made on each of them and on no other. -/
theorem cluster_foldl_modCluster {f : Cluster → Cluster} (hf : ∀ q, f (f q) = f q) (l : List ClusterId) (s : State) (x : ClusterId) :
    (l.foldl (fun t c => t.modCluster c f) s).cluster x = if x ∈ l then f (s.cluster x) else s.cluster x := by
  induction l generalizing s with
  | nil => simp
  | cons c r ih =>
    rw [List.foldl_cons, ih, State.cluster_modCluster]
    by_cases hx : x = c
    · subst hx; simp [hf]
    · simp [hx]

theorem sameBytes_foldl_modCluster (l : List ClusterId) (f : Cluster → Cluster) (s : State) :
    Claim.SameBytes s (l.foldl (fun t c => t.modCluster c f) s) := by
  rw [foldl_modCluster]
  exact sameBytes_of_eq rfl rfl

theorem onlyCluster_refl (s : State) (c : ClusterId) : Claim.OnlyCluster s s c := ⟨sameBytes_refl s, fun _ _ => rfl⟩

theorem onlyCluster_modCluster (s : State) (c : ClusterId) (f : Cluster → Cluster) : Claim.OnlyCluster s (s.modCluster c f) c :=
  ⟨sameBytes_of_eq rfl rfl, fun _ h => State.cluster_modCluster_other s f h⟩

theorem onlyCluster_trans {s t u : State} {c : ClusterId} (h : Claim.OnlyCluster s t c) (h' : Claim.OnlyCluster t u c) :
    Claim.OnlyCluster s u c :=
  ⟨sameBytes_trans h.1 h'.1, fun d hd => (h'.2 d hd).trans (h.2 d hd)⟩

theorem modCluster_modCluster (s : State) (c : ClusterId) (f g : Cluster → Cluster) :
    (s.modCluster c f).modCluster c g = s.modCluster c fun q => g (f q) := by
  change (s.setCluster c (f (s.cluster c))).setCluster c (g ((s.modCluster c f).cluster c)) = _
  rw [State.cluster_modCluster_same]
  simp only [State.setCluster, tset_tset]
  rfl

/-! ### Steps and budgets (R292, R293) -/

/-- The order of a step as the statement says it. -/
theorem order_eq (q : Cluster) (n : Nat) : q.order n = Claim.Ordered q n := rfl

section Clocks
variable {s : State} {c : ClusterId}

theorem stepped_eq_false (h : ∀ n, (s.die n).beforeStep = []) (c : ClusterId) : s.stepped c = false := by
  simp [State.stepped, h]

theorem limits_eq (h : ∀ n, (s.die n).beforeStep = []) (c : ClusterId) :
    s.limits c = ((s.cluster c).budget, (s.cluster c).ordered) := by
  simp [State.limits, h]

theorem setBudget_eq (h : ∀ n, (s.die n).beforeStep = []) (c : ClusterId) (b : Nat) :
    s.setBudget c b = s.modCluster c fun q => { q with budget := b } := by
  simp [State.setBudget, stepped_eq_false h]

theorem orderStep_eq (h : ∀ n, (s.die n).beforeStep = []) (c : ClusterId) (n : Nat) :
    s.orderStep c n = s.modCluster c fun q => q.order n := by
  simp [State.orderStep, stepped_eq_false h]

theorem detJobAt_eq_none (h : ∀ j, s.jobAt c = some j → s.detJob j.2 = false) : s.detJobAt c = none := by
  unfold State.detJobAt
  cases e : s.jobAt c with
  | none => rfl
  | some j => simp [h j e]

theorem detJobAt_eq_some {j : Nat × Job} (h : s.jobAt c = some j) (hd : s.detJob j.2 = true) : s.detJobAt c = some j.2 := by
  simp [State.detJobAt, h, hd]

/-- A step that is ordered where no deterministic job runs is ordered for the cluster alone; a throttled one returns to it. -/
theorem changeStep_eq_of_free (h : ∀ n, (s.die n).beforeStep = []) (hf : s.detJobAt c = none) (n : Nat) :
    s.changeStep c n = s.modCluster c fun q => { Claim.Ordered q n with fllSaved := if q.throttled then n else q.fllSaved } := by
  unfold State.changeStep
  rw [hf]
  simp only [orderStep_eq h, modCluster_modCluster]
  congr 1
  funext q
  cases hq : q.throttled <;> simp [Cluster.order, Claim.Ordered, hq]

/-- The step of a deterministic job's cluster, ordered for each cluster of the job. -/
theorem changeStep_eq_of_det (h : ∀ n, (s.die n).beforeStep = []) {j : Job} (hj : s.detJobAt c = some j) (n : Nat) :
    s.changeStep c n = j.rect.foldl (fun t c => t.modCluster c fun q =>
      { (if q.throttled then { q with fllSaved := n } else q) with goal := some n, goalNow := false }) s := by
  unfold State.changeStep
  rw [hj]
  simp [stepped_eq_false h]

/-- A cluster that a job's rectangle covers is one of the rectangle's clusters. -/
theorem mem_rect_of_covers {j : Job} {id : Nat} (h : j.covers id = true) : clusterOf id ∈ j.rect := by
  unfold Job.covers at h
  simp only [decide_eq_true_eq] at h
  simp only [Job.rect, List.mem_flatten, List.mem_map]
  refine ⟨_, ⟨xOf id, mem_span.2 (by omega), rfl⟩, ?_⟩
  exact List.mem_map.2 ⟨yOf id, mem_span.2 (by omega), rfl⟩

theorem covers_of_jobAt {j : Nat × Job} (h : s.jobAt c = some j) : j.2.covers c = true := by
  unfold State.jobAt at h
  obtain ⟨e, -, he⟩ := List.exists_of_findSome?_eq_some h
  cases hj : e.2 with
  | none => simp [hj] at he
  | some k =>
    simp only [hj] at he
    split at he
    next hc => cases he; exact hc
    next => cases he

/-- FREQUENCY_CHANGE orders a step. -/
theorem frequencyChange_step (h : ∀ n, (s.die n).beforeStep = []) {id : CoreId} (hc : c = clusterOf id) (n : Fin 41) :
    ((∀ j, s.jobAt c = some j → s.detJob j.2 = false) → ∃ t, exec (.frequencyChange id (.step n)) s = .next t ∧
      Claim.OnlyCluster s t c ∧ t.cluster c =
        { Claim.Ordered (s.cluster c) n.val with fllSaved := if (s.cluster c).throttled then n.val else (s.cluster c).fllSaved }) ∧
    ∀ j, s.jobAt c = some j → s.detJob j.2 = true → ∃ t, exec (.frequencyChange id (.step n)) s = .next t ∧ Claim.SameBytes s t ∧
      ∀ x ∈ j.2.rect, (t.cluster x).goal = some n.val ∧ (t.cluster x).fll = (s.cluster x).fll := by
  subst hc
  refine ⟨fun free => ⟨_, rfl, ?_⟩, fun j hj hd => ⟨_, rfl, ?_⟩⟩
  · rw [changeStep_eq_of_free h (detJobAt_eq_none free)]
    exact ⟨onlyCluster_modCluster .., State.cluster_modCluster_same ..⟩
  · rw [changeStep_eq_of_det h (detJobAt_eq_some hj hd)]
    refine ⟨sameBytes_foldl_modCluster .., fun x hx => ?_⟩
    rw [cluster_foldl_modCluster (by intro q; cases hq : q.throttled <;> simp [hq]), if_pos hx]
    cases (s.cluster x).throttled <;> exact ⟨rfl, rfl⟩

/-- The LDO settles at the ordered step, but not before an FLL that has still to go down. -/
theorem frequencyChange_ldo {id : CoreId} (hc : c = clusterOf id) {n : Nat} (hn : (s.cluster c).goal = some n) :
    ((s.cluster c).fll ≤ n → ∃ t, exec (.frequencyChange id .ldo) s = .next t ∧ Claim.OnlyCluster s t c ∧
      (t.cluster c).ldo = n ∧ (t.cluster c).fll = (s.cluster c).fll) ∧
    (n < (s.cluster c).fll → ∃ t, exec (.frequencyChange id .ldo) s = .next t ∧ Claim.OnlyCluster s t c ∧
      t.cluster c = s.cluster c) := by
  subst hc
  refine ⟨fun hle => ⟨_, rfl, onlyCluster_modCluster .., ?_⟩, fun hlt => ⟨_, rfl, onlyCluster_modCluster .., ?_⟩⟩
  · simp only [State.cluster_modCluster_same, Cluster.settleLdo, hn, if_neg (Nat.not_lt.2 hle)]
    split <;> exact ⟨rfl, rfl⟩
  · simp [Cluster.settleLdo, hn, hlt]

theorem maySwitch_iff {q : Cluster} {n : Nat} : q.maySwitch n = true ↔ n < q.fll ∨ (q.fll < n ∧ q.ldo = n) := by
  simp [Cluster.maySwitch]

/-- Where no deterministic job runs the FLL of a cluster switches alone, at a lap boundary. -/
theorem switchFll_of_free (h : ∀ n, (s.die n).beforeStep = []) (hf : s.detJobAt c = none) {n : Nat} (hn : (s.cluster c).goal = some n) :
    s.switchFll c = if (s.cluster c).maySwitch n && s.atLap c then s.modCluster c fun q => q.switch n else s := by
  unfold State.switchFll
  simp [hn, stepped_eq_false h, hf]

/-- Those of a deterministic job switch together, at a phase boundary. -/
theorem switchFll_of_det (h : ∀ n, (s.die n).beforeStep = []) {j : Job} (hj : s.detJobAt c = some j) {n : Nat}
    (hn : (s.cluster c).goal = some n) (hg : (s.cluster c).goalNow = false) :
    s.switchFll c =
      if (s.cluster c).maySwitch n && s.atPhaseBoundary j && j.rect.all (fun c =>
          ((s.cluster c).fll == n && (s.cluster c).ordered == n) ||
          ((s.cluster c).goal == some n && (s.cluster c).maySwitch n && s.atLap c)) then
        j.rect.foldl (fun t c => if (s.cluster c).fll == n && (s.cluster c).ordered == n then t
          else t.modCluster c fun q => q.switch n) s
      else s := by
  unfold State.switchFll
  simp [hn, stepped_eq_false h, hg, hj]

theorem switch_switch (q : Cluster) (n : Nat) : (q.switch n).switch n = q.switch n := rfl

/-- FREQUENCY_CHANGE of the FLL of a cluster where no deterministic job runs. -/
theorem frequencyChange_fll_free (h : ∀ n, (s.die n).beforeStep = []) {id : CoreId} (hc : c = clusterOf id) {n : Nat}
    (hn : (s.cluster c).goal = some n) (hf : s.detJobAt c = none) :
    (s.atLap c = true →
      ((s.cluster c).maySwitch n = true → ∃ t, exec (.frequencyChange id .fll) s = .next t ∧ Claim.OnlyCluster s t c ∧
        (t.cluster c).fll = n ∧ (t.cluster c).ldo = (s.cluster c).ldo) ∧
      ((s.cluster c).maySwitch n = false → exec (.frequencyChange id .fll) s = .next s)) ∧
    (s.atLap c = false → exec (.frequencyChange id .fll) s = .next s) := by
  subst hc
  have he : exec (.frequencyChange id .fll) s = .next (s.switchFll (clusterOf id)) := rfl
  rw [he, switchFll_of_free h hf hn]
  refine ⟨fun hl => ⟨fun hm => ⟨_, rfl, ?_⟩, fun hm => by simp [hm]⟩, fun hl => by simp [hl]⟩
  rw [hm, hl, Bool.and_self, if_pos rfl]
  refine ⟨onlyCluster_modCluster .., ?_⟩
  rw [State.cluster_modCluster_same]
  exact ⟨rfl, rfl⟩

/-- FREQUENCY_CHANGE of the FLLs of a deterministic job. -/
theorem frequencyChange_fll_det (h : ∀ n, (s.die n).beforeStep = []) {id : CoreId} (hc : c = clusterOf id) {n : Nat}
    (hn : (s.cluster c).goal = some n) (hg : (s.cluster c).goalNow = false) {j : Nat × Job} (hj : s.jobAt c = some j)
    (hd : s.detJob j.2 = true) :
    (s.atPhaseBoundary j.2 = false → exec (.frequencyChange id .fll) s = .next s) ∧
    (s.atPhaseBoundary j.2 = true → (∀ x ∈ j.2.rect, (s.cluster x).goal = some n ∧ (s.cluster x).maySwitch n = true ∧
      s.atLap x = true) → ∃ t, exec (.frequencyChange id .fll) s = .next t ∧ ∀ x ∈ j.2.rect, (t.cluster x).fll = n) := by
  subst hc
  have he : exec (.frequencyChange id .fll) s = .next (s.switchFll (clusterOf id)) := rfl
  rw [he, switchFll_of_det h (detJobAt_eq_some hj hd) hn hg]
  refine ⟨fun hb => by simp [hb], fun hb ready => ⟨_, rfl, fun x hx => ?_⟩⟩
  have hin : clusterOf id ∈ j.2.rect := by simpa using mem_rect_of_covers (covers_of_jobAt hj)
  have hall : (j.2.rect.all fun c => ((s.cluster c).fll == n && (s.cluster c).ordered == n) ||
      ((s.cluster c).goal == some n && (s.cluster c).maySwitch n && s.atLap c)) = true :=
    List.all_eq_true.2 fun y hy => by obtain ⟨hgoal, hmay, hlap⟩ := ready y hy; simp [hgoal, hmay, hlap]
  have hthere : ∀ y ∈ j.2.rect, ((s.cluster y).fll == n && (s.cluster y).ordered == n) = false := fun y hy => by
    have hmay := maySwitch_iff.1 (ready y hy).2.1
    have hne : (s.cluster y).fll ≠ n := by omega
    simp [hne]
  have hfold : j.2.rect.foldl (fun t c => if (s.cluster c).fll == n && (s.cluster c).ordered == n then t
      else t.modCluster c fun q => q.switch n) s = j.2.rect.foldl (fun t c => t.modCluster c fun q => q.switch n) s :=
    List.foldl_ext _ _ _ fun t y hy => by simp [hthere y hy]
  rw [(ready _ hin).2.1, hb, hall, Bool.and_self, Bool.and_self, if_pos rfl, hfold,
    cluster_foldl_modCluster (switch_switch · n), if_pos hx]
  rfl

/-- FREQUENCY_CHANGE of the budget: never below 8, and halved while the cluster is throttled. -/
theorem frequencyChange_budget (h : ∀ n, (s.die n).beforeStep = []) {id : CoreId} (hc : c = clusterOf id) (b : Nat) :
    (b < 8 → exec (.frequencyChange id (.budget b)) s = .next s) ∧
    (8 ≤ b → ∃ t, exec (.frequencyChange id (.budget b)) s = .next t ∧ Claim.OnlyCluster s t c ∧ t.cluster c =
      if (s.cluster c).throttled then { s.cluster c with budget := max 8 (b / 2), budgetSaved := b }
      else { s.cluster c with budget := b }) := by
  subst hc
  have he : exec (.frequencyChange id (.budget b)) s = .next (s.changeBudget (clusterOf id) b) := rfl
  rw [he, State.changeBudget]
  refine ⟨fun hb => by rw [if_pos hb], fun hb => ⟨_, rfl, ?_⟩⟩
  rw [if_neg (Nat.not_lt.2 hb)]
  cases hq : (s.cluster (clusterOf id)).throttled
  · rw [if_neg (by simp), if_neg (by simp), setBudget_eq h]
    exact ⟨onlyCluster_modCluster .., State.cluster_modCluster_same ..⟩
  · rw [if_pos rfl, if_pos rfl, setBudget_eq h, modCluster_modCluster]
    exact ⟨onlyCluster_modCluster .., State.cluster_modCluster_same ..⟩

/-- FREQUENCY_CHANGE of θ. -/
theorem frequencyChange_threshold {id : CoreId} (hc : c = clusterOf id) (h : Nat) :
    (60 ≤ h → h ≤ 110 → ∃ t, exec (.frequencyChange id (.threshold h)) s = .next t ∧ Claim.OnlyCluster s t c ∧
      t.cluster c = { s.cluster c with theta := h }) ∧
    (h < 60 ∨ 110 < h → exec (.frequencyChange id (.threshold h)) s = .next s) := by
  subst hc
  have he : exec (.frequencyChange id (.threshold h)) s =
    if 60 ≤ h ∧ h ≤ 110 then .next (s.modCluster (clusterOf id) fun q => { q with theta := h }) else .next s := rfl
  rw [he]
  refine ⟨fun h1 h2 => ⟨_, if_pos ⟨h1, h2⟩, onlyCluster_modCluster .., State.cluster_modCluster_same ..⟩, fun ho => if_neg (by omega)⟩

theorem clockChanges {id : CoreId} (h : ∀ n, (s.die n).beforeStep = []) : Claim.ClockChanges s id := by
  unfold Claim.ClockChanges
  refine ⟨fun n => ?_, fun n hn => ?_, frequencyChange_budget h rfl, frequencyChange_threshold rfl⟩
  · obtain ⟨hfree, hdet⟩ := frequencyChange_step h rfl n
    exact ⟨hfree, hdet, fun mv => ⟨_, rfl, tget_tset_same .., rfl⟩⟩
  · obtain ⟨hup, hdown⟩ := frequencyChange_ldo rfl hn
    refine ⟨hup, hdown, fun free hl => ?_, fun hl free => ?_, fun j hg hj hd => ?_⟩
    · obtain ⟨hsw, hno⟩ := (frequencyChange_fll_free h rfl hn (detJobAt_eq_none free)).1 hl
      refine ⟨fun hm => hsw (maySwitch_iff.2 hm), fun h1 h2 => hno ?_⟩
      rw [← Bool.not_eq_true, maySwitch_iff]
      omega
    · exact (frequencyChange_fll_free h rfl hn (detJobAt_eq_none free)).2 hl
    · obtain ⟨hno, hsw⟩ := frequencyChange_fll_det h rfl hn hg hj hd
      refine ⟨hno, fun hb ready => hsw hb fun x hx => ?_⟩
      obtain ⟨hgoal, hmay, hlap⟩ := ready x hx
      exact ⟨hgoal, maySwitch_iff.2 hmay, hlap⟩
end Clocks
end Sys2Proof.ModuleParts

namespace Sys2Proof.ModuleParts
open Sys2Proof Sys2Proof.Machine Sys2Proof.Safety

section Temperature
variable {s : State} {id : CoreId}

/-! ### Detectors and temperature (R294, R363, R433) -/

theorem setCluster_setCluster (s : State) (c : ClusterId) (x y : Cluster) : (s.setCluster c x).setCluster c y = s.setCluster c y := by
  simp only [State.setCluster, tset_tset]

theorem setCluster_modCluster (s : State) (c : ClusterId) (x : Cluster) (f : Cluster → Cluster) :
    (s.setCluster c x).modCluster c f = s.setCluster c (f x) := by
  rw [State.modCluster, State.cluster_setCluster_same, setCluster_setCluster]

theorem onlyCluster_setCluster (s : State) (c : ClusterId) (x : Cluster) : Claim.OnlyCluster s (s.setCluster c x) c :=
  ⟨sameBytes_of_eq rfl rfl, fun _ h => State.cluster_setCluster_other s x h⟩

/-- DETECTOR_RATE_REPORT lowers the step of a cluster whose core's detectors fired more than 64 times. -/
theorem detectorRateReport (h : ∀ n, (s.die n).beforeStep = []) (hj : s.jobAt (clusterOf id) = none) :
    (64 < (s.core id).detections → ∃ t, exec (.detectorRateReport id) s = .next t ∧ Claim.OnlyCluster s t (clusterOf id) ∧
      (t.core id).detections = 0 ∧ t.cluster (clusterOf id) =
        { Claim.Ordered (s.cluster (clusterOf id)) ((s.cluster (clusterOf id)).ordered - 1) with
          fllSaved := if (s.cluster (clusterOf id)).throttled then (s.cluster (clusterOf id)).ordered - 1
            else (s.cluster (clusterOf id)).fllSaved }) ∧
    ((s.core id).detections ≤ 64 → exec (.detectorRateReport id) s = .next s) := by
  have he : exec (.detectorRateReport id) s = if (s.core id).detections ≤ 64 then .next s else
      .next ((s.changeStep (clusterOf id) ((s.limits (clusterOf id)).2 - 1)).modCore id fun k => { k with detections := 0 }) := rfl
  refine ⟨fun hd => ⟨_, by rw [he, if_neg (Nat.not_le.2 hd)], ?_⟩, fun hd => by rw [he, if_pos hd]⟩
  rw [limits_eq h, changeStep_eq_of_free h (detJobAt_eq_none fun j e => by rw [hj] at e; cases e)]
  refine ⟨onlyCluster_trans (onlyCluster_modCluster ..) ⟨sameBytes_modCore _ _ _ fun _ => ⟨rfl, rfl, rfl⟩, fun _ _ => rfl⟩, ?_, ?_⟩
  · rw [State.core_modCore_same]
  · rw [State.modCore_cluster, State.cluster_modCluster_same]

/-- The outcomes of a reading of a cluster whose clocks run. -/
theorem thermalReading_eq {r : Nat} (ht : (s.cluster (clusterOf id)).tripped = false) :
    let q := s.cluster (clusterOf id)
    let s1 := s.modCluster (clusterOf id) fun q => { q with temp := r }
    exec (.thermalReading id r) s =
      if q.tripLimit ≤ r then .next (s1.trip (clusterOf id))
      else if !q.throttled && decide (4 * q.theta ≤ r) && q.mayShift s.mgmt.time.toNat then .next (s1.throttle (clusterOf id))
      else if q.throttled && decide (r ≤ 4 * q.theta - 16) && q.mayShift s.mgmt.time.toNat then .next (s1.unthrottle (clusterOf id))
      else .next s1 := by
  intro q s1
  have he : exec (.thermalReading id r) s = if q.tripped then .next (s1.modCluster (clusterOf id) fun q => q.cool r)
    else if q.tripLimit ≤ r then .next (s1.trip (clusterOf id))
    else if !q.throttled && decide (4 * q.theta ≤ r) && q.mayShift s.mgmt.time.toNat then .next (s1.throttle (clusterOf id))
    else if q.throttled && decide (r ≤ 4 * q.theta - 16) && q.mayShift s.mgmt.time.toNat then .next (s1.unthrottle (clusterOf id))
    else .next s1 := rfl
  rw [he, ht]
  rfl

theorem mayShift_iff {q : Cluster} {now : Nat} : q.mayShift now = true ↔ ∀ x, q.lastShift = some x → x + 1000 ≤ now := by
  unfold Cluster.mayShift
  cases q.lastShift <;> simp

/-- A fold over cores leaves the clusters. -/
theorem clusters_foldl_modCore (l : List (Nat × Core)) (f : Core → Core) (s : State) :
    (l.foldl (fun t e => t.modCore e.1 f) s).clusters = s.clusters :=
  foldl_keeps State.clusters (f := fun t e => t.modCore e.1 f) (fun _ _ => rfl) l s

/-- A trip where no job holds the cluster: the cluster is failed, its clocks stand, and no other cluster changes. -/
theorem cluster_trip (hj : s.jobAt (clusterOf id) = none) (d : ClusterId) :
    (s.trip (clusterOf id)).cluster d = if d = clusterOf id then
      { s.cluster (clusterOf id) with tripped := true, failed := true, fenced := true, coolReadings := 0 } else s.cluster d := by
  have h1 (f : Cluster → Cluster) : (s.modCluster (clusterOf id) f).jobAt (clusterOf id) = none := hj
  have h2 (u : State) (l : List (Nat × Core)) (f : Core → Core) :
      (l.foldl (fun t e => t.modCore e.1 f) u).cluster d = u.cluster d := by
    rw [State.cluster, clusters_foldl_modCore]; rfl
  unfold State.trip State.localFault State.failCluster
  simp only [h1, clusterOf_clusterOf, modCluster_modCluster, h2, State.cluster_modCluster]

/-- A cluster that is throttled: B is halved, never below 8, and what it had is kept. -/
def throttledAt (q : Cluster) (now : Nat) : Cluster :=
  { q with throttled := true, budget := max 8 (q.budget / 2), budgetSaved := q.budget, fllSaved := q.ordered, lastShift := some now }

theorem throttle_eq (h : ∀ n, (s.die n).beforeStep = []) (c : ClusterId) :
    s.throttle c = s.setCluster c (throttledAt (s.cluster c) s.mgmt.time.toNat) := by
  simp only [State.throttle, limits_eq h, setBudget_eq h, modCluster_modCluster]
  rfl

/-- A cluster released from the throttle, before its step returns. -/
def released (q : Cluster) (now : Nat) : Cluster :=
  { q with budget := q.budgetSaved, throttled := false, lastShift := some now }

/-- Release from the throttle, where no job holds the cluster. -/
theorem unthrottle_eq (h : ∀ n, (s.die n).beforeStep = []) {c : ClusterId} (hj : s.jobAt c = none) :
    s.unthrottle c = s.setCluster c (if (s.cluster c).ordered = (s.cluster c).fllSaved then released (s.cluster c) s.mgmt.time.toNat
      else Claim.Ordered (released (s.cluster c) s.mgmt.time.toNat) (s.cluster c).fllSaved) := by
  have ht : (s.setBudget c (s.cluster c).budgetSaved).modCluster c (fun q =>
      { q with throttled := false, lastShift := some s.mgmt.time.toNat }) =
      s.setCluster c (released (s.cluster c) s.mgmt.time.toNat) := by
    rw [setBudget_eq h, modCluster_modCluster]; rfl
  have hl (y : Cluster) : ((s.setCluster c y).limits c).2 = y.ordered := by
    rw [limits_eq (s := s.setCluster c y) h, State.cluster_setCluster_same]
  have hd (y : Cluster) : (s.setCluster c y).detJobAt c = none :=
    detJobAt_eq_none fun j e => by rw [show (s.setCluster c y).jobAt c = s.jobAt c from rfl, hj] at e; cases e
  unfold State.unthrottle
  simp only [ht, hl]
  rw [changeStep_eq_of_free (s := s.setCluster c _) h (hd _)]
  by_cases e : (s.cluster c).ordered = (s.cluster c).fllSaved
  · rw [if_pos e]
    exact if_pos e
  · rw [if_neg e]
    refine (if_neg e).trans ?_
    rw [setCluster_modCluster]
    rfl

/-- The cluster after a reading below its trip limit. -/
def readingAt (q : Cluster) (r now : Nat) : Cluster :=
  if q.throttled = false ∧ 4 * q.theta ≤ r ∧ q.mayShift now = true then throttledAt { q with temp := r } now
  else if q.throttled = true ∧ r ≤ 4 * q.theta - 16 ∧ q.mayShift now = true then
    (if q.ordered = q.fllSaved then released { q with temp := r } now else Claim.Ordered (released { q with temp := r } now) q.fllSaved)
  else { q with temp := r }

/-- A reading below the trip limit changes its cluster alone. -/
theorem thermalReading_below (h : ∀ n, (s.die n).beforeStep = []) (hj : s.jobAt (clusterOf id) = none) {r : Nat}
    (ht : (s.cluster (clusterOf id)).tripped = false) (hr : r < (s.cluster (clusterOf id)).tripLimit) :
    exec (.thermalReading id r) s =
      .next (s.setCluster (clusterOf id) (readingAt (s.cluster (clusterOf id)) r s.mgmt.time.toNat)) := by
  have hs (f : Cluster → Cluster) : ∀ n, ((s.modCluster (clusterOf id) f).die n).beforeStep = [] := h
  rw [thermalReading_eq ht, if_neg (Nat.not_le.2 hr), throttle_eq (hs _), unthrottle_eq (hs _) hj,
    State.cluster_modCluster_same]
  simp only [State.modCluster, setCluster_setCluster]
  generalize hq : s.cluster (clusterOf id) = q
  unfold readingAt
  by_cases h1 : q.throttled = false ∧ 4 * q.theta ≤ r ∧ q.mayShift s.mgmt.time.toNat = true
  · rw [if_pos (by simp [h1]), if_pos h1]; rfl
  · rw [if_neg (by simpa [and_assoc] using h1), if_neg h1]
    by_cases h2 : q.throttled = true ∧ r ≤ 4 * q.theta - 16 ∧ q.mayShift s.mgmt.time.toNat = true
    · rw [if_pos (by simpa [and_assoc] using h2), if_pos h2]; rfl
    · rw [if_neg (by simpa [and_assoc] using h2), if_neg h2]

/-- THROTTLE_STEP lowers the step of a throttled cluster by 8. -/
theorem throttleStep (h : ∀ n, (s.die n).beforeStep = []) {j : Nat × Job} (ht : (s.cluster (clusterOf id)).throttled = true)
    (hj : s.jobAt (clusterOf id) = some j) (hd : s.detJob j.2 = false) :
    ∃ t, exec (.throttleStep id) s = .next t ∧ Claim.OnlyCluster s t (clusterOf id) ∧ t.cluster (clusterOf id) =
      Claim.Ordered (s.cluster (clusterOf id)) ((s.cluster (clusterOf id)).ordered - 8) := by
  have he : exec (.throttleStep id) s = .next (s.orderStep (clusterOf id) ((s.limits (clusterOf id)).2 - 8)) := by
    simp [exec, execThrottleStep, ht, hj, hd]
  refine ⟨_, he, ?_⟩
  rw [orderStep_eq h, limits_eq h]
  exact ⟨onlyCluster_modCluster .., State.cluster_modCluster_same ..⟩

/-- THERMAL_READING of a cluster whose clocks a trip has stopped: three cool readings in a row clear the trip. -/
theorem thermalReading_tripped {r : Nat} (ht : (s.cluster (clusterOf id)).tripped = true) :
    let q := s.cluster (clusterOf id)
    ∃ t, exec (.thermalReading id r) s = .next t ∧ Claim.OnlyCluster s t (clusterOf id) ∧
      t.cluster (clusterOf id) =
        { q with temp := r, tripped := !decide (r ≤ 4 * q.theta - 16 ∧ 2 ≤ q.coolReadings),
                 coolReadings := if r ≤ 4 * q.theta - 16 ∧ q.coolReadings < 2 then q.coolReadings + 1 else 0 } := by
  intro q
  have he : exec (.thermalReading id r) s = .next ((s.modCluster (clusterOf id) fun q => { q with temp := r }).modCluster
      (clusterOf id) fun q => q.cool r) := by
    simp [exec, execThermalReading, ht]
  refine ⟨_, he, ?_⟩
  rw [modCluster_modCluster]
  refine ⟨onlyCluster_modCluster .., ?_⟩
  rw [State.cluster_modCluster_same]
  change Cluster.cool { q with temp := r } r = _
  unfold Cluster.cool Cluster.release
  by_cases h1 : r ≤ 4 * q.theta - 16
  · by_cases h2 : q.coolReadings < 2
    · simp [h1, h2, Nat.not_le.2 h2, show q.tripped = true from ht]
    · simp [h1, h2, Nat.not_lt.1 h2]
  · simp [h1, show q.tripped = true from ht]
end Temperature
end Sys2Proof.ModuleParts

namespace Sys2Proof.ModuleParts
open Sys2Proof Sys2Proof.Machine Sys2Proof.Safety

/-! ### Slot tables and the network's frame (R24) -/

/-- A network cycle gives every link its next flit: `used` falls. -/
def restedLinks (l : List (Nat × Link)) (m : List (Nat × Link)) : List (Nat × Link) :=
  l.foldl (fun m e => tset Link.reset m e.1 { e.2 with used := false }) m

theorem used_restedLinks (l m : List (Nat × Link)) (h : ∀ x, (tget Link.reset m x).used = false) (x : Nat) :
    (tget Link.reset (restedLinks l m) x).used = false := by
  induction l generalizing m with
  | nil => exact h x
  | cons e r ih =>
    refine ih _ fun y => ?_
    rw [tget_tset]
    split
    · rfl
    · exact h y

theorem swapTables_swapTables (q : Cluster) : q.swapTables.swapTables = q.swapTables := by
  unfold Cluster.swapTables
  cases h : q.swapDue <;> simp [h]

/-- The state at the next network cycle, before a frame boundary swaps tables. -/
def nextFrame (s : State) : State :=
  { s with frame := (s.frame + 1) % 64, links := restedLinks s.links [] }

theorem networkCycle_eq (s : State) :
    s.networkCycle = if (s.frame + 1) % 64 = 0 then
      (s.clusters.map Prod.fst).foldl (fun u c => u.modCluster c Cluster.swapTables) (nextFrame s) else nextFrame s := by
  rw [List.foldl_map]; rfl

theorem tget_of_not_mem {α : Type} {d : α} {m : List (Nat × α)} {k : Nat} (h : k ∉ m.map Prod.fst) : tget d m k = d := by
  induction m with
  | nil => rfl
  | cons e r ih =>
    simp only [List.map_cons, List.mem_cons, not_or] at h
    rw [tget, if_neg (Ne.symm h.1), ih h.2]

/-- At a frame boundary every table that is due is swapped. -/
theorem networkCycle_spec (s : State) :
    s.networkCycle.frame = (s.frame + 1) % 64 ∧ Claim.SameBytes s s.networkCycle ∧
      (∀ link, (s.networkCycle.link link).used = false) ∧
      (∀ link l, s.links = [(link, l)] → s.networkCycle.link link = { l with used := false }) ∧
      ∀ d, s.networkCycle.cluster d = if (s.frame + 1) % 64 = 0 ∧ (s.cluster d).swapDue = true
        then { s.cluster d with slots := (s.cluster d).shadow, swapDue := false } else s.cluster d := by
  have hlinks (x : Nat) : s.networkCycle.link x = tget Link.reset (restedLinks s.links []) x := by
    rw [networkCycle_eq, foldl_modCluster]; split <;> rfl
  have hframe : s.networkCycle.frame = (s.frame + 1) % 64 := by
    rw [networkCycle_eq, foldl_modCluster]; split <;> rfl
  refine ⟨hframe, ?_, fun x => ?_, fun x l hl => ?_, fun d => ?_⟩
  · rw [networkCycle_eq]
    split
    · exact sameBytes_trans (sameBytes_of_eq (t := nextFrame s) rfl rfl) (sameBytes_foldl_modCluster ..)
    · exact sameBytes_of_eq rfl rfl
  · rw [hlinks]
    exact used_restedLinks _ _ (fun _ => rfl) x
  · rw [hlinks, hl]
    exact tget_tset_same ..
  · rw [networkCycle_eq]
    by_cases hf : (s.frame + 1) % 64 = 0
    · rw [if_pos hf, cluster_foldl_modCluster swapTables_swapTables]
      change (if d ∈ s.clusters.map Prod.fst then (s.cluster d).swapTables else s.cluster d) = _
      by_cases hd : d ∈ s.clusters.map Prod.fst
      · simp only [if_pos hd, hf, true_and]; rfl
      · have : s.cluster d = Cluster.reset := tget_of_not_mem hd
        rw [if_neg hd, this, if_neg (fun h => nomatch h.2)]
    · rw [if_neg hf, if_neg (fun h => hf h.1)]; rfl

theorem slotOfWord (v : BitVec 16) : Slot.ofWord v = { sch := v.getLsbD 15, inp := v.extractLsb' 12 3, flow := v.extractLsb' 0 12 } := rfl

/-- ROUTER_TABLE_SWAP writes an entry of the shadow table. -/
theorem routerTableSwap_write (s : State) (id : CoreId) (out : Fin 5) (entry : Fin 64) (v : BitVec 16) :
    ∃ t, exec (.routerTableSwap id (.write out entry v)) s = .next t ∧
    Claim.OnlyCluster s t (clusterOf id) ∧ (t.cluster (clusterOf id)).slots = (s.cluster (clusterOf id)).slots ∧
    ∀ k, tget Slot.zero (t.cluster (clusterOf id)).shadow k =
      if k = 64 * out.val + entry.val then { sch := v.getLsbD 15, inp := v.extractLsb' 12 3, flow := v.extractLsb' 0 12 }
      else tget Slot.zero (s.cluster (clusterOf id)).shadow k := by
  refine ⟨_, rfl, onlyCluster_modCluster .., ?_, fun k => ?_⟩
  · rw [State.cluster_modCluster_same]
  · rw [State.cluster_modCluster_same]
    exact tget_tset ..

/-! ### Mesh links (R25, R26, R362) -/

theorem routesInXThenY (at_ dst : ClusterId) : Claim.RoutesInXThenY at_ dst := by
  unfold Claim.RoutesInXThenY meshOut
  refine ⟨fun h => if_pos h, fun h => ?_, fun h => ⟨fun h' => ?_, fun h' => ?_, fun h' => ?_⟩⟩
  · rw [if_neg (by omega), if_pos h]
  · rw [if_neg (by omega), if_neg (by omega), if_pos h']
  · rw [if_neg (by omega), if_neg (by omega), if_neg (by omega), if_pos h']
  · rw [if_neg (by omega), if_neg (by omega), if_neg (by omega), if_neg (by omega)]

/-- A flit comes to the queue of a link. -/
def Comes (s : State) (link : Nat) (x : MeshFlit) : Prop :=
  link ∉ s.deadLinks ∧ (x.flow ≠ none ∨ s.deadLinks ≠ [] ∨ meshOut (linkRouter link) x.dst = link % 5)

theorem joins_iff {s : State} {link : Nat} {x : MeshFlit} : s.joins link x = true ↔ Comes s link x := by
  unfold State.joins Comes
  simp [Option.isSome_iff_ne_none, or_assoc]

/-- The state after a flit has come. -/
def joined (s : State) (link : Nat) (x : MeshFlit) : State :=
  State.setLink { s with nextId := s.nextId + 1 } link
    { s.link link with waiting := (s.link link).waiting ++ [(s.nextId, x)] }

theorem meshJoin_some {s : State} {link : Nat} {x : MeshFlit} (h : Comes s link x) : s.meshJoin link (some x) = joined s link x :=
  if_pos (joins_iff.2 h)

theorem meshJoin_stray {s : State} {link : Nat} {x : MeshFlit} (h : ¬Comes s link x) : s.meshJoin link (some x) = s :=
  if_neg (mt joins_iff.1 h)

/-- What a scheduled slot carries: a flit of its flow that arrived on its input. -/
def Suits (x : Slot) (e : Nat × MeshFlit) : Prop :=
  x.sch = true ∧ x.inp.toNat ≤ 4 ∧ e.2.flow = some x.flow ∧ e.2.inp.val = x.inp.toNat

theorem suits_iff {x : Slot} {e : Nat × MeshFlit} :
    (x.scheduled && e.2.flow == some x.flow && e.2.inp.val == x.inp.toNat) = true ↔ Suits x e := by
  unfold Slot.scheduled Suits
  simp [and_assoc]

theorem find?_append_cons {α : Type} {p : α → Bool} {pre : List α} {e : α} (h : ∀ y ∈ pre, ¬p y = true) (he : p e = true) (rest : List α) :
    (pre ++ e :: rest).find? p = some e := by
  rw [List.find?_append, List.find?_eq_none.2 h, List.find?_cons_of_pos he]; rfl

/-- A scheduled slot takes the first flit that suits it. -/
theorem pick_of_suits {x : Slot} {q : Link} {e : Nat × MeshFlit} {pre rest : List (Nat × MeshFlit)} (hw : q.waiting = pre ++ e :: rest)
    (he : Suits x e) (hpre : ∀ y ∈ pre, ¬Suits x y) : x.pick q = some e := by
  unfold Slot.pick
  rw [hw, find?_append_cons (fun y hy => mt suits_iff.1 (hpre y hy)) (suits_iff.2 he)]
  rfl

/-- Where no flit suits the slot, it takes best-effort traffic. -/
theorem pick_of_none {x : Slot} {q : Link} (h : ∀ y ∈ q.waiting, ¬Suits x y) : x.pick q = q.best := by
  unfold Slot.pick
  rw [List.find?_eq_none.2 fun y hy => mt suits_iff.1 (h y hy)]
  rfl

/-- The best-effort flits of a class that wait. -/
def ofClass (w : List (Nat × MeshFlit)) (copy : Bool) : List (Nat × MeshFlit) :=
  w.filter fun y => y.2.flow.isNone && y.2.copy == copy

/-- How far the turn of a flit's input is, the input last served standing last. -/
def turnOf (last : Nat) (e : Nat × MeshFlit) : Nat := (e.2.inp.val + 5 - (last + 1) % 5) % 5

theorem turnOf_iff {last i : Nat} {e : Nat × MeshFlit} (hi : i < 5) : e.2.inp.val = (last + (i + 1)) % 5 ↔ turnOf last e = i := by
  have := e.2.inp.isLt
  unfold turnOf
  omega

/-- The class served: copies and collectives where one waits; the rest else. -/
theorem best_eq (q : Link) (copy : Bool) (h : copy = true ∧ ofClass q.waiting true ≠ [] ∨ copy = false ∧ ofClass q.waiting true = []) :
    q.best = (span 1 5).findSome? fun i => (ofClass q.waiting copy).find? fun e => e.2.inp.val == ((if copy then q.lastCopy else q.lastRest) + i) % 5 := by
  have hc : (q.waiting.filter fun e => e.2.flow.isNone).filter (fun e => e.2.copy) = ofClass q.waiting true := by
    rw [List.filter_filter]
    unfold ofClass
    congr 1
    funext y
    cases y.2.copy <;> simp
  unfold Link.best
  simp only [hc]
  obtain ⟨rfl, hne⟩ | ⟨rfl, he⟩ := h
  · simp [hne]
  · have hf : ofClass q.waiting false = q.waiting.filter fun e => e.2.flow.isNone := by
      unfold ofClass
      refine List.filter_congr fun y hy => ?_
      have hy' : y ∉ ofClass q.waiting true := by rw [he]; exact List.not_mem_nil
      simp only [ofClass, List.mem_filter, hy, true_and] at hy'
      cases hflow : y.2.flow <;> cases hcopy : y.2.copy <;> simp_all
    simp [he, hf]

/-- Among flits of one class the one whose input's turn comes first, and of those the oldest, is served. -/
theorem findSome?_turn {w : List (Nat × MeshFlit)} {last : Nat} {pre rest : List (Nat × MeshFlit)} {e : Nat × MeshFlit}
    (hw : w = pre ++ e :: rest) (hpre : ∀ y ∈ pre, turnOf last e < turnOf last y) (hrest : ∀ y ∈ rest, turnOf last e ≤ turnOf last y) :
    ((span 1 5).findSome? fun i => w.find? fun y => y.2.inp.val == (last + i) % 5) = some e := by
  have hlt : turnOf last e < 5 := Nat.mod_lt _ (by decide)
  have hspan : span 1 5 = (span 0 5).map (· + 1) := rfl
  have hsplit : span 0 5 = span 0 (turnOf last e) ++ turnOf last e :: span (turnOf last e + 1) (4 - turnOf last e) := by
    generalize turnOf last e = n at hlt
    match n, hlt with
    | 0, _ | 1, _ | 2, _ | 3, _ | 4, _ => rfl
  have hfind (i : Nat) (hi : i < 5) : (w.find? fun y => y.2.inp.val == (last + (i + 1)) % 5) = w.find? fun y => turnOf last y == i := by
    congr 1
    funext y
    rw [Bool.eq_iff_iff, beq_iff_eq, beq_iff_eq, turnOf_iff hi]
  have hbefore (i : Nat) (hi : i ∈ span 0 (turnOf last e)) : (w.find? fun y => y.2.inp.val == (last + (i + 1)) % 5) = none := by
    rw [mem_span] at hi
    rw [hfind i (by omega), List.find?_eq_none, hw]
    intro y hy
    have hle : turnOf last e ≤ turnOf last y := by
      rcases List.mem_append.1 hy with h | h
      · exact Nat.le_of_lt (hpre y h)
      · rcases List.mem_cons.1 h with rfl | h
        · exact Nat.le_refl _
        · exact hrest y h
    simp only [beq_iff_eq]
    omega
  rw [hspan, List.findSome?_map, hsplit, List.findSome?_append]
  refine (congrArg₂ Option.or (List.findSome?_eq_none_iff.2 hbefore) rfl).trans ?_
  simp only [Option.none_or, List.findSome?_cons, Function.comp_apply]
  rw [hfind _ hlt, hw, find?_append_cons (fun y hy => by have := hpre y hy; simp only [beq_iff_eq]; omega) (by simp)]

/-- Best-effort traffic: copies and collectives before the rest, the inputs round-robin. -/
theorem best_of_turn {q : Link} {e : Nat × MeshFlit} {pre rest : List (Nat × MeshFlit)} (hw : q.waiting = pre ++ e :: rest)
    (hflow : e.2.flow = none) (hclass : e.2.copy = true ∨ ∀ y ∈ q.waiting, y.2.flow = none → y.2.copy = false)
    (hpre : ∀ y ∈ pre, y.2.flow = none → y.2.copy = e.2.copy →
      turnOf (if e.2.copy then q.lastCopy else q.lastRest) e < turnOf (if e.2.copy then q.lastCopy else q.lastRest) y)
    (hrest : ∀ y ∈ rest, y.2.flow = none → y.2.copy = e.2.copy →
      turnOf (if e.2.copy then q.lastCopy else q.lastRest) e ≤ turnOf (if e.2.copy then q.lastCopy else q.lastRest) y) :
    q.best = some e := by
  have hmem : e ∈ ofClass q.waiting e.2.copy := by simp [ofClass, hw, hflow]
  have hsplit : ofClass q.waiting e.2.copy = ofClass pre e.2.copy ++ e :: ofClass rest e.2.copy := by
    unfold ofClass
    rw [hw, List.filter_append, List.filter_cons_of_pos (by simp [hflow])]
  have hof (y : Nat × MeshFlit) (l : List (Nat × MeshFlit)) (hy : y ∈ ofClass l e.2.copy) : y ∈ l ∧ y.2.flow = none ∧ y.2.copy = e.2.copy := by
    simpa [ofClass] using hy
  rw [best_eq q e.2.copy ?_, findSome?_turn hsplit]
  · intro y hy
    obtain ⟨hin, hfl, hcp⟩ := hof y pre hy
    exact hpre y hin hfl hcp
  · intro y hy
    obtain ⟨hin, hfl, hcp⟩ := hof y rest hy
    exact hrest y hin hfl hcp
  · cases hcopy : e.2.copy
    · refine Or.inr ⟨rfl, List.eq_nil_iff_forall_not_mem.2 fun y hy => ?_⟩
      rw [hcopy] at hclass
      simp only [ofClass, List.mem_filter, Bool.and_eq_true, Option.isNone_iff_eq_none, beq_iff_eq] at hy
      obtain ⟨hin, hfl, hcp⟩ := hy
      simp [hclass.resolve_left (by decide) y hin hfl] at hcp
    · exact Or.inl ⟨rfl, fun h => List.not_mem_nil (h ▸ hcopy ▸ hmem)⟩

theorem best_eq_none {q : Link} (h : ∀ y ∈ q.waiting, y.2.flow ≠ none) : q.best = none := by
  have hc (copy : Bool) : ofClass q.waiting copy = [] := List.filter_eq_nil_iff.2 fun y hy => by
    simp [Option.isNone_iff_eq_none, h y hy]
  rw [best_eq q false (Or.inr ⟨rfl, hc true⟩), hc, List.findSome?_eq_none_iff]
  exact fun _ _ => rfl

/-! #### The instruction -/

theorem link_setLink_same (s : State) (l : Nat) (x : Link) : (s.setLink l x).link l = x := tget_tset_same ..

/-- A link that may carry nothing in the cycle only queues what comes. -/
theorem meshFlitRetry_idle {s : State} {link : Nat} {flit : Option MeshFlit} {ok : Bool}
    (h : ((s.meshJoin link flit).link link).used = true ∨ link ∈ (s.meshJoin link flit).deadLinks) :
    exec (.meshFlitRetry link flit ok) s = .next (s.meshJoin link flit) := by
  have hc : (((s.meshJoin link flit).link link).used || (s.meshJoin link flit).deadLinks.contains link) = true := by simpa using h
  exact if_pos hc

/-- A link with nothing asked for serves its slot. -/
theorem meshFlitRetry_serves {s t : State} {link : Nat} {flit : Option MeshFlit} {ok : Bool} (ht : s.meshJoin link flit = t)
    (hu : (t.link link).used = false) (hd : link ∉ t.deadLinks) (ha : (t.link link).asked = 0) :
    exec (.meshFlitRetry link flit ok) s = .next (match (t.slotNow link).pick (t.link link) with
      | none => t
      | some e => t.setLink link ((t.link link).carry e ok)) := by
  subst ht
  have hc : ¬(((s.meshJoin link flit).link link).used || (s.meshJoin link flit).deadLinks.contains link) = true := by simp [hu, hd]
  refine (if_neg hc).trans ?_
  rw [ha]
  change (match (_ : Option (Nat × MeshFlit)) with | none => _ | some e => _) = _
  cases (((s.meshJoin link flit).slotNow link).pick ((s.meshJoin link flit).link link)) <;> rfl

/-- A flit that was asked for again comes from the link buffer. -/
theorem meshFlitRetry_again {s : State} {link x : Nat} {rest : List Nat} {ok : Bool} (hu : (s.link link).used = false)
    (hd : link ∉ s.deadLinks) (ha : (s.link link).asked ≠ 0) (hb : (s.link link).buffer = x :: rest) :
    exec (.meshFlitRetry link none ok) s = .next (s.setLink link (if ok then
      { s.link link with asked := 0, used := true, delivered := x :: (s.link link).delivered } else { s.link link with used := true })) := by
  have hc : ¬((s.link link).used || s.deadLinks.contains link) = true := by simp [hu, hd]
  refine (if_neg hc).trans ?_
  change (match (s.link link).asked, (s.link link).buffer with | 0, _ => _ | _, [] => _ | _, id :: _ => _) = _
  rw [hb]
  cases h : (s.link link).asked with
  | zero => exact absurd h ha
  | succ n => rfl

/-- The link after it has carried a flit of its queue, as the statement writes it. -/
theorem carry_eq {q : Link} {e : Nat × MeshFlit} {ok : Bool} :
    q.carry e ok = { q with
      waiting := q.waiting.filter fun y => y.1 != e.1, buffer := (e.1 :: q.buffer).take 4, asked := if ok then 0 else 1
      delivered := if ok then e.1 :: q.delivered else q.delivered, used := true
      lastCopy := if e.2.flow = none ∧ e.2.copy = true then e.2.inp.val else q.lastCopy
      lastRest := if e.2.flow = none ∧ e.2.copy = false then e.2.inp.val else q.lastRest } := by
  unfold Link.carry
  simp

/-- What a link has of its queue after a flit may have come. -/
def queueAfter (s : State) (link : Nat) (flit : Option MeshFlit) : List (Nat × MeshFlit) := match flit with
  | none => (s.link link).waiting
  | some x => (s.link link).waiting ++ [(s.nextId, x)]

/-- A flit that comes changes the link's queue, and nothing else of what the link reads. -/
theorem meshJoin_spec {s : State} {link : Nat} {flit : Option MeshFlit} (h : flit = none ∨ ∃ x, flit = some x ∧ Comes s link x) :
    (s.meshJoin link flit).link link = { s.link link with waiting := queueAfter s link flit } ∧
      (s.meshJoin link flit).deadLinks = s.deadLinks ∧ (s.meshJoin link flit).slotNow link = s.slotNow link := by
  obtain rfl | ⟨x, rfl, hx⟩ := h
  · exact ⟨rfl, rfl, rfl⟩
  · rw [meshJoin_some hx]
    exact ⟨link_setLink_same .., rfl, rfl⟩

/-- A link after its slot has picked a flit, or none. -/
def served (q : Link) (o : Option (Nat × MeshFlit)) (ok : Bool) : Link := match o with
  | none => q
  | some e => q.carry e ok

/-- A link that may carry a flit carries the one that its slot picks. -/
theorem meshFlitRetry_carries {s : State} {link : Nat} {flit : Option MeshFlit} (h : flit = none ∨ ∃ x, flit = some x ∧ Comes s link x)
    (hd : link ∉ s.deadLinks) (hu : (s.link link).used = false) (ha : (s.link link).asked = 0) {o : Option (Nat × MeshFlit)}
    (hp : (s.slotNow link).pick { s.link link with waiting := queueAfter s link flit } = o) (ok : Bool) :
    ∃ t, exec (.meshFlitRetry link flit ok) s = .next t ∧ t.link link = served { s.link link with waiting := queueAfter s link flit } o ok := by
  obtain ⟨hl, hdl, hs⟩ := meshJoin_spec h
  refine ⟨_, meshFlitRetry_serves (t := s.meshJoin link flit) rfl (by rw [hl]; exact hu) (by rw [hdl]; exact hd) (by rw [hl]; exact ha), ?_⟩
  rw [hs, hl, hp]
  cases o with
  | none => exact hl
  | some e => exact link_setLink_same ..

theorem linkEvents (s : State) (link : Nat) : Claim.LinkEvents s link := by
  refine ⟨routesInXThenY _, fun x ok hx => ?_, fun ok h => meshFlitRetry_idle h, fun x ok hx hu => ?_, fun hd hu => ⟨fun flit ok hf ha => ?_, fun x rest ha hb => ?_⟩⟩
  · have hj : s.meshJoin link (some x) = s.meshJoin link none := meshJoin_stray hx
    change execMeshFlitRetry link (some x) ok s = execMeshFlitRetry link none ok s
    unfold execMeshFlitRetry
    rw [hj]
  · have hj := meshJoin_some (s := s) (link := link) hx
    refine ⟨_, meshFlitRetry_idle (Or.inl ?_), ?_, ?_⟩
    · rw [hj, joined, link_setLink_same]; exact hu
    · rw [hj]; rfl
    · rw [hj]; exact link_setLink_same ..
  · have hserve {o : Option (Nat × MeshFlit)} := meshFlitRetry_carries (o := o) hf hd hu ha
    refine ⟨fun pre e rest hw => ⟨fun he hpre => ?_, fun hflow hnone hclass hpre hrest => ?_⟩, fun hnone => ?_⟩
    · obtain ⟨t, ht, hl⟩ := hserve (pick_of_suits hw he hpre) ok
      exact ⟨t, ht, hl.trans carry_eq⟩
    · have hw' : queueAfter s link flit = pre ++ e :: rest := hw
      obtain ⟨t, ht, hl⟩ := hserve ((pick_of_none hnone).trans (best_of_turn hw' hflow hclass
        (fun y hy hfl hc => by have := hpre y hy hfl hc; simp only [hc] at this; exact this)
        (fun y hy hfl hc => by have := hrest y hy hfl hc; simp only [hc] at this; exact this))) ok
      exact ⟨t, ht, hl.trans carry_eq⟩
    · exact hserve ((pick_of_none fun y hy => (hnone y hy).1).trans (best_eq_none fun y hy => (hnone y hy).2)) ok
  · exact ⟨⟨_, meshFlitRetry_again hu hd ha hb, link_setLink_same ..⟩, ⟨_, meshFlitRetry_again hu hd ha hb, link_setLink_same ..⟩⟩

theorem routerEvents (s : State) (id : CoreId) : Claim.RouterEvents s id := by
  have hc : exec (.routerTableSwap id .cycle) s = .next s.networkCycle := rfl
  have hs : exec (.routerTableSwap id .swap) s = if s.frame = 63 then .next s.networkCycle else .next s := rfl
  refine ⟨routerTableSwap_write s id, fun h => by rw [hs, if_neg h], fun i hi hf => ⟨s.networkCycle, ?_, networkCycle_spec s⟩, linkEvents s⟩
  simp only [List.mem_cons, List.not_mem_nil, or_false] at hi
  obtain rfl | rfl := hi
  · exact hc
  · rw [hs, if_pos (hf rfl)]

end Sys2Proof.ModuleParts

namespace Sys2Proof.ModuleParts
open Sys2Proof Sys2Proof.Machine Sys2Proof.Safety

/-! ### Ilufosko ports (R331 to R333) -/

theorem port_setPort_same (s : State) (p : Nat) (x : Port) : (s.setPort p x).port p = x := tget_tset_same ..

theorem port_setPort_other (s : State) {p q : Nat} (x : Port) (h : q ≠ p) : (s.setPort p x).port q = s.port q := tget_tset_other _ _ _ h

theorem setPort_setPort (s : State) (p : Nat) (x y : Port) : (s.setPort p x).setPort p y = s.setPort p y := by
  simp only [State.setPort, tset_tset]

section Frame
variable {p : Port} {now : Nat}

/-- What a port keeps when it sends: all that it has received. -/
theorem emit_keeps (e : PortFlit) : (p.emit e now).rxSeq = p.rxSeq ∧ (p.emit e now).delivered = p.delivered := by
  unfold Port.emit
  split <;> exact ⟨rfl, rfl⟩

theorem offers_of_room (ha : p.again = 0) (hu : p.unacked.length < 128) : p.offers = p.waiting := by
  simp [Port.offers, ha, hu]

theorem offers_of_full (ha : p.again = 0) (hu : 128 ≤ p.unacked.length) : p.offers = [] := by
  simp [Port.offers, ha, Nat.not_lt.2 hu]

/-- A port that has an acknowledgement to send sends it in a control slot. -/
theorem step_answers {a : Bool × BitVec 12} {rest : List (Bool × BitVec 12)} (hs : p.slot < 4) (ha : p.answers = a :: rest) :
    p.step now = { p with answers := rest, sent := a :: p.sent, slot := (p.slot + 1) % 64 } := by
  simp [Port.step, ha, hs]

/-- Otherwise it sends the flit that its frame picks. -/
theorem step_pick (h : p.answers = [] ∨ 4 ≤ p.slot) : p.step now = match p.pick with
    | none => { p with slot := (p.slot + 1) % 64 }
    | some e => { p.emit e now with slot := (p.slot + 1) % 64 } := by
  have hq : p.step now = (let q := (p.pick.map fun e => p.emit e now).getD p; { q with slot := (p.slot + 1) % 64 }) := by
    unfold Port.step
    cases ha : p.answers with
    | nil => rfl
    | cons a r => simp only [if_neg (Nat.not_lt.2 (h.resolve_left (by simp [ha])))]
  rw [hq]
  cases p.pick <;> rfl

theorem step_keeps : (p.step now).slot = (p.slot + 1) % 64 ∧ (p.step now).rxSeq = p.rxSeq ∧ (p.step now).delivered = p.delivered := by
  by_cases h : p.answers = [] ∨ 4 ≤ p.slot
  · rw [step_pick h]
    cases p.pick with
    | none => exact ⟨rfl, rfl, rfl⟩
    | some e => exact ⟨rfl, (emit_keeps e).1, (emit_keeps e).2⟩
  · obtain ⟨hne, hs⟩ := not_or.1 h
    obtain ⟨a, rest, ha⟩ := List.exists_cons_of_ne_nil hne
    rw [step_answers (Nat.not_le.1 hs) ha]
    exact ⟨rfl, rfl, rfl⟩

/-- The first waiting flit, when it is the one picked, goes under the next number. -/
theorem sent_of_pick {e : PortFlit} {rest : List PortFlit} (h : p.answers = [] ∨ 4 ≤ p.slot) (ha : p.again = 0) (hw : p.waiting = e :: rest)
    (hp : p.pick = some e) : Claim.Sent p (p.step now) e rest := by
  rw [step_pick h, hp]
  simp [Claim.Sent, Port.emit, ha, hw, removeFirst]

/-- A port that picks none sends none. -/
theorem step_of_pick_none (h : p.answers = [] ∨ 4 ≤ p.slot) (hp : p.pick = none) :
    (p.step now).unacked = p.unacked ∧ (p.step now).waiting = p.waiting := by
  rw [step_pick h, hp]
  exact ⟨rfl, rfl⟩

theorem pick_control (hs : p.slot < 4) : p.pick = p.offers.find? fun e => e.flit.cls == .control := if_pos hs

theorem pick_of_no_offers (h : p.offers = []) : p.pick = none := by
  unfold Port.pick
  rw [h]
  split
  · rfl
  · split <;> rfl

/-- The frame of a port. -/
theorem port_frame :
    (p.step now).slot = (p.slot + 1) % 64 ∧ (p.step now).rxSeq = p.rxSeq ∧ (p.step now).delivered = p.delivered ∧
    (∀ e rest, p.answers = [] → p.again = 0 → p.unacked.length < 128 → p.waiting = e :: rest →
      (p.slot < 4 → e.flit.cls = .control → Claim.Sent p (p.step now) e rest) ∧
      (∀ f, 4 ≤ p.slot → tget none p.reserved p.slot = some f → e.flow = some f → Claim.Sent p (p.step now) e rest) ∧
      (4 ≤ p.slot → tget none p.reserved p.slot = none → e.flit.cls = .copy → Claim.Sent p (p.step now) e rest)) ∧
    (p.slot < 4 → p.answers = [] → p.again = 0 → (∀ e ∈ p.waiting, e.flit.cls ≠ .control) → (p.step now).unacked = p.unacked) ∧
    (∀ a rest, p.slot < 4 → p.answers = a :: rest → (p.step now).answers = rest ∧ (p.step now).sent = a :: p.sent) ∧
    (p.again = 0 → 128 ≤ p.unacked.length → (p.step now).unacked = p.unacked ∧ (p.step now).waiting = p.waiting) := by
  obtain ⟨hslot, hrx, hdel⟩ := step_keeps (p := p) (now := now)
  refine ⟨hslot, hrx, hdel, fun e rest hans ha hu hw => ?_, fun hs hans ha hno => ?_, fun a rest hs ha => ?_, fun ha hu => ?_⟩
  · have sent := sent_of_pick (now := now) (Or.inl hans) ha hw
    have ho : p.offers = e :: rest := (offers_of_room ha hu).trans hw
    refine ⟨fun hs hc => sent ?_, fun f hs hr hf => sent ?_, fun hs hr hc => sent ?_⟩
    · rw [pick_control hs, ho, List.find?_cons_of_pos (by simp [hc])]
    · simp [Port.pick, Nat.not_lt.2 hs, hr, ho, hf]
    · simp [Port.pick, Nat.not_lt.2 hs, hr, ho, hc]
  · refine (step_of_pick_none (Or.inl hans) ?_).1
    rw [pick_control hs, List.find?_eq_none]
    intro e he
    have hin : e ∈ p.waiting := by
      unfold Port.offers at he
      rw [if_neg (by simp [ha])] at he
      split at he
      · exact he
      · cases he
    simp [hno e hin]
  · rw [step_answers hs ha]
    exact ⟨rfl, rfl⟩
  · by_cases h : p.answers = [] ∨ 4 ≤ p.slot
    · exact step_of_pick_none h (pick_of_no_offers (offers_of_full ha hu))
    · obtain ⟨hne, hs⟩ := not_or.1 h
      obtain ⟨a, rest, hans⟩ := List.exists_cons_of_ne_nil hne
      rw [step_answers (Nat.not_le.1 hs) hans]
      exact ⟨rfl, rfl⟩

end Frame

section Receive
variable {s : State} {port : Fin 48}

/-- The port after a slot of its frame. -/
abbrev stepped (s : State) (port : Fin 48) : Port := (s.port port.val).step s.mgmt.time.toNat

theorem flitReceive_none (hd : (s.port port.val).down = false) :
    exec (.ilufoskoFlitReceive port none) s = .next (s.setPort port.val (stepped s port)) := by
  refine (if_neg ?_).trans rfl
  simp [hd]

theorem flitReceive_some (hd : (s.port port.val).down = false) (f : Flit) :
    exec (.ilufoskoFlitReceive port (some f)) s = .next ((s.setPort port.val (stepped s port)).receiveFlit port.val f) := by
  refine (if_neg ?_).trans rfl
  simp [hd]

/-- The port with one more answer to send. -/
def answering (q : Port) (ok : Bool) (n : BitVec 12) : Port := { q with answers := q.answers ++ [(ok, n)] }

/-- The flit that is expected is delivered, and the next number is expected. -/
theorem receiveFlit_expected {q : Port} {p : Nat} {f : Flit} (hf : flitSound f = true) (hs : f.seq = q.rxSeq) :
    (s.setPort p q).receiveFlit p f =
      (s.setPort p (answering { q with rxSeq := q.rxSeq + 1 } true (q.rxSeq + 1))).deliverFlit p f := by
  unfold State.receiveFlit
  simp only [port_setPort_same, setPort_setPort, hf, hs, beq_self_eq_true, Bool.and_self, if_true]
  rfl

/-- A flit of the window before the expected one is acknowledged again. -/
theorem receiveFlit_repeated {q : Port} {p : Nat} {f : Flit} (hf : flitSound f = true) (hs : f.seq ≠ q.rxSeq) (hw : (q.rxSeq - f.seq).toNat ≤ 128) :
    (s.setPort p q).receiveFlit p f = s.setPort p (answering q true q.rxSeq) := by
  unfold State.receiveFlit
  simp only [port_setPort_same, setPort_setPort, hf, hw, beq_false_of_ne hs, Bool.and_false, Bool.false_eq_true, if_false, Bool.true_and, decide_true, if_true]
  rfl

/-- A damaged flit, and one beyond the expected one, are answered with a negative acknowledgement. -/
theorem receiveFlit_refused {q : Port} {p : Nat} {f : Flit} (h : flitSound f = false ∨ 128 < (q.rxSeq - f.seq).toNat) :
    (s.setPort p q).receiveFlit p f = s.setPort p (answering q false q.rxSeq) := by
  unfold State.receiveFlit
  simp only [port_setPort_same, setPort_setPort]
  obtain hf | hw := h
  · simp [hf]; rfl
  · have hs : f.seq ≠ q.rxSeq := by
      intro e
      simp [e] at hw
    simp only [beq_false_of_ne hs, Nat.not_le.2 hw, decide_false, Bool.and_false, Bool.false_eq_true, if_false]
    rfl

/-- The port that has taken the flit expected, and expects the next. -/
def taking (q : Port) : Port := answering { q with rxSeq := q.rxSeq + 1 } true (q.rxSeq + 1)

/-- The flit expected that is for this module is delivered. -/
theorem receiveFlit_here {q : Port} {p : Nat} {f : Flit} (hf : flitSound f = true) (hs : f.seq = q.rxSeq) (h : f.dst = s.mgmt.mdom) :
    (s.setPort p q).receiveFlit p f = s.setPort p { taking q with delivered := f :: q.delivered } := by
  rw [receiveFlit_expected hf hs]
  refine (if_pos h).trans ?_
  rw [port_setPort_same, setPort_setPort]
  rfl

/-- The flit expected that is for another module goes on by the interface's route. -/
theorem receiveFlit_on {q : Port} {p : Nat} {f : Flit} (hf : flitSound f = true) (hs : f.seq = q.rxSeq) (h : f.dst ≠ s.mgmt.mdom) :
    (s.setPort p q).receiveFlit p f = (s.setPort p (taking q)).handFlit (p / 2) (BitVec.ofNat 64 p) none f := by
  rw [receiveFlit_expected hf hs]
  exact if_neg h

/-- A port with one more flit that waits. -/
def queued (q : Port) (flow : Option (BitVec 12)) (f : Flit) : Port :=
  { q with waiting := q.waiting ++ [{ flow := flow, flit := f, tries := 0 }] }

theorem handFlit_some {t : State} {iface x : Nat} {source : BitVec 64} {flow : Option (BitVec 12)} {f : Flit}
    (h : t.portFor iface source f = some x) :
    (∀ y, (t.handFlit iface source flow f).port y = (t.setPort x (queued (t.port x) flow f)).port y) ∧
      ((source, f.dst, f.cls), x) ∈ (t.handFlit iface source flow f).pins := by
  unfold State.handFlit
  rw [h]
  exact ⟨fun _ => rfl, List.mem_cons_self ..⟩

/-- The port of a flit whose key is pinned to a port that is up. -/
theorem portFor_pinned {t : State} {iface x : Nat} {source : BitVec 64} {f : Flit} (hx : (t.port x).down = false)
    (h : t.pins.find? (fun e => e.1 == (source, f.dst, f.cls)) = some ((source, f.dst, f.cls), x)) :
    t.portFor iface source f = some x := by
  simp [State.portFor, h, hx]

/-- The port of a flit whose key is not pinned: the first of its route that is up. -/
theorem portFor_route {t : State} {iface x : Nat} {rest : List Nat} {source : BitVec 64} {f : Flit} (hx : (t.port x).down = false)
    (h : ∀ e ∈ t.pins, e.1 ≠ (source, f.dst, f.cls)) (hr : tget [] t.routes (512 * iface + f.dst.toNat) = x :: rest) :
    t.portFor iface source f = some x := by
  have hn : t.pins.find? (fun e => e.1 == (source, f.dst, f.cls)) = none := List.find?_eq_none.2 fun e he => by simp [h e he]
  simp [State.portFor, hn, hr, hx]

/-- A flit arrives at a port that is up. -/
theorem flitReceive (hd : (s.port port.val).down = false) (f : Flit) :
    let p := s.port port.val; let p' := stepped s port
    (flitSound f = true → f.seq = p.rxSeq → f.dst = s.mgmt.mdom → ∃ t, exec (.ilufoskoFlitReceive port (some f)) s = .next t ∧
      t.port port.val = { p' with
        rxSeq := p.rxSeq + 1, answers := p'.answers ++ [(true, p.rxSeq + 1)], delivered := f :: p.delivered }) ∧
    (flitSound f = true → f.seq ≠ p.rxSeq → (p.rxSeq - f.seq).toNat ≤ 128 → ∃ t, exec (.ilufoskoFlitReceive port (some f)) s = .next t ∧
      t.port port.val = { p' with answers := p'.answers ++ [(true, p.rxSeq)] }) ∧
    (flitSound f = false ∨ 128 < (p.rxSeq - f.seq).toNat → ∃ t, exec (.ilufoskoFlitReceive port (some f)) s = .next t ∧
      t.port port.val = { p' with answers := p'.answers ++ [(false, p.rxSeq)] }) := by
  intro p p'
  obtain ⟨-, hrx, hdel⟩ := step_keeps (p := p) (now := s.mgmt.time.toNat)
  have hr := flitReceive_some hd f
  rw [← hrx, ← hdel]
  refine ⟨fun hf hs hdst => ⟨_, hr, ?_⟩, fun hf hs hw => ⟨_, hr, ?_⟩, fun h => ⟨_, hr, ?_⟩⟩
  · rw [receiveFlit_here hf hs hdst, port_setPort_same]
    rfl
  · rw [receiveFlit_repeated hf hs hw, port_setPort_same]; rfl
  · rw [receiveFlit_refused h, port_setPort_same]; rfl

/-- A flit for another module goes on by the route. -/
theorem flitReceive_on (hd : (s.port port.val).down = false) {f : Flit} {x : Nat} {rest : List Nat} (hf : flitSound f = true)
    (hs : f.seq = (s.port port.val).rxSeq) (hdst : f.dst ≠ s.mgmt.mdom) (hp : ∀ e ∈ s.pins, e.1 ≠ (BitVec.ofNat 64 port.val, f.dst, f.cls))
    (hr : tget [] s.routes (512 * (port.val / 2) + f.dst.toNat) = x :: rest) (hx : x ≠ port.val) (hxd : (s.port x).down = false) :
    ∃ t, exec (.ilufoskoFlitReceive port (some f)) s = .next t ∧
      t.port x = { s.port x with waiting := (s.port x).waiting ++ [{ flow := none, flit := f, tries := 0 }] } ∧
      t.port port.val = { stepped s port with
        rxSeq := (s.port port.val).rxSeq + 1, answers := (stepped s port).answers ++ [(true, (s.port port.val).rxSeq + 1)] } := by
  obtain ⟨-, hrx, -⟩ := step_keeps (p := s.port port.val) (now := s.mgmt.time.toNat)
  refine ⟨_, flitReceive_some hd f, ?_⟩
  rw [← hrx] at hs ⊢
  rw [receiveFlit_on hf hs hdst]
  obtain ⟨hports, -⟩ := handFlit_some (flow := none)
    (portFor_route (t := s.setPort port.val (taking (stepped s port)))
      (source := BitVec.ofNat 64 port.val) (by rw [port_setPort_other _ _ hx]; exact hxd) hp hr)
  constructor
  · rw [hports, port_setPort_same, port_setPort_other _ _ hx]; rfl
  · rw [hports, port_setPort_other _ _ (Ne.symm hx), port_setPort_same]; rfl

/-! #### Acknowledgements, and what is set at a port -/

/-- An acknowledgement that names a number in use. -/
theorem ilufoskoNak_eq (hd : (s.port port.val).down = false) {n : BitVec 12}
    (hn : n = (s.port port.val).txSeq ∨ ∃ e ∈ (s.port port.val).unacked, e.flit.seq = n) (ack : Bool) :
    exec (.ilufoskoNak port ack n) s = .next (s.setPort port.val
      (let p := s.port port.val; let rest := p.unacked.dropWhile fun e => e.flit.seq != n
       { p with unacked := rest, again := if ack then min p.again rest.length else rest.length, since := s.mgmt.time.toNat })) := by
  refine if_neg ?_
  simpa [hd, or_iff_not_imp_left] using hn

/-- What comes before the flit named has arrived. -/
theorem dropWhile_seq {l pre rest : List PortFlit} {e : PortFlit} {n : BitVec 12} (h : l = pre ++ e :: rest) (he : e.flit.seq = n)
    (hpre : ∀ x ∈ pre, x.flit.seq ≠ n) : (l.dropWhile fun e => e.flit.seq != n) = e :: rest := by
  rw [h, List.dropWhile_append_of_pos fun x hx => by simpa using hpre x hx, List.dropWhile_cons_of_neg (by simp [he])]

theorem ilufoskoNak (hd : (s.port port.val).down = false) :
    let p := s.port port.val
    (∀ (n : BitVec 12) pre e rest, p.unacked = pre ++ e :: rest → e.flit.seq = n → (∀ x ∈ pre, x.flit.seq ≠ n) →
      (∃ t, exec (.ilufoskoNak port false n) s = .next t ∧
        t.port port.val = { p with unacked := e :: rest, again := rest.length + 1, since := s.mgmt.time.toNat }) ∧
      ∃ t, exec (.ilufoskoNak port true n) s = .next t ∧
        t.port port.val = { p with unacked := e :: rest, again := min p.again (rest.length + 1), since := s.mgmt.time.toNat }) ∧
    ((∀ x ∈ p.unacked, x.flit.seq ≠ p.txSeq) → ∃ t, exec (.ilufoskoNak port true p.txSeq) s = .next t ∧ (t.port port.val).unacked = []) := by
  refine ⟨fun n pre e rest hu he hpre => ?_, fun hall => ⟨_, ilufoskoNak_eq hd (Or.inl rfl) true, ?_⟩⟩
  · have hn := ilufoskoNak_eq hd (n := n) (Or.inr ⟨e, by simp [hu], he⟩)
    simp only [dropWhile_seq hu he hpre] at hn
    exact ⟨⟨_, hn false, port_setPort_same ..⟩, ⟨_, hn true, port_setPort_same ..⟩⟩
  · rw [port_setPort_same]
    exact List.dropWhile_eq_nil_iff.2 fun x hx => by simpa using hall x hx

theorem ilufoskoPortDown_reserve (slot : Fin 64) (flow : Option (BitVec 12)) :
    (slot.val < 4 → exec (.ilufoskoPortDown port (.reserve slot flow)) s = .next s) ∧
    (4 ≤ slot.val → ∃ t, exec (.ilufoskoPortDown port (.reserve slot flow)) s = .next t ∧
      tget none (t.port port.val).reserved slot.val = flow) := by
  have he : exec (.ilufoskoPortDown port (.reserve slot flow)) s = if slot.val < 4 then .next s else
    .next (s.setPort port.val { s.port port.val with reserved := tset none (s.port port.val).reserved slot.val flow }) := rfl
  refine ⟨fun h => by rw [he, if_pos h], fun h => ⟨_, by rw [he, if_neg (Nat.not_lt.2 h)], ?_⟩⟩
  rw [port_setPort_same]
  exact tget_tset_same ..

theorem ilufoskoPortDown_route (dst : BitVec 9) (ports : List (Fin 48)) :
    ∃ t, exec (.ilufoskoPortDown port (.route dst ports)) s = .next t ∧
      tget [] t.routes (512 * (port.val / 2) + dst.toNat) = ports.map Fin.val :=
  ⟨_, rfl, tget_tset_same ..⟩

theorem ilufoskoPortDown_send (source : BitVec 64) (flow : Option (BitVec 12)) (f : Flit) (x : Nat) (hx : (s.port x).down = false)
    (h : s.pins.find? (fun e => e.1 == (source, f.dst, f.cls)) = some ((source, f.dst, f.cls), x) ∨
      ((∀ e ∈ s.pins, e.1 ≠ (source, f.dst, f.cls)) ∧ ∃ rest, tget [] s.routes (512 * (port.val / 2) + f.dst.toNat) = x :: rest)) :
    ∃ t, exec (.ilufoskoPortDown port (.send source flow f)) s = .next t ∧ ((source, f.dst, f.cls), x) ∈ t.pins ∧
      (t.port x).waiting = (s.port x).waiting ++ [{ flow := flow, flit := f, tries := 0 }] := by
  have hp : s.portFor (port.val / 2) source f = some x := by
    obtain h | ⟨h, rest, hr⟩ := h
    · exact portFor_pinned hx h
    · exact portFor_route hx h hr
  obtain ⟨hports, hpins⟩ := handFlit_some (flow := flow) hp
  refine ⟨_, rfl, hpins, ?_⟩
  rw [hports, port_setPort_same]
  rfl

/-- A port that has not lost its link stays. -/
theorem ilufoskoPortDown_stays (h : ¬((∃ e ∈ (s.port port.val).unacked, 16 ≤ e.tries) ∨
      ((s.port port.val).unacked ≠ [] ∧ (s.port port.val).since + 10 ≤ s.mgmt.time.toNat))) :
    exec (.ilufoskoPortDown port .down) s = .next s := by
  refine if_neg ?_
  simpa [Port.lost] using fun _ => h

theorem ilufoskoPortDown_lost (hd : (s.port port.val).down = false) (h : (∃ e ∈ (s.port port.val).unacked, 16 ≤ e.tries) ∨
      ((s.port port.val).unacked ≠ [] ∧ (s.port port.val).since + 10 ≤ s.mgmt.time.toNat)) :
    exec (.ilufoskoPortDown port .down) s = .next (s.portDown port) := by
  refine if_pos ?_
  simpa [Port.lost, hd] using h

end Receive
end Sys2Proof.ModuleParts

namespace Sys2Proof.ModuleParts
open Sys2Proof Sys2Proof.Machine Sys2Proof.Safety

/-! ### What a fatal error leaves as it was

Everything that stops in a fatal error (contexts killed, notices posted, launches cancelled) works on the contexts, the cores, the
memories and dispatch's tables. The ports, the route tables, the controller's time and the dies that are off are not part of it. -/

/-- The ports, the routes, the controller's time and the dies that are off are those of another state. -/
structure FabricKept (s t : State) : Prop where
  ports : t.ports = s.ports
  routes : t.routes = s.routes
  time : t.mgmt.time = s.mgmt.time
  off : ∀ d, (t.die d).off = (s.die d).off

theorem FabricKept.refl (s : State) : FabricKept s s := ⟨rfl, rfl, rfl, fun _ => rfl⟩

theorem FabricKept.trans {s t u : State} (h : FabricKept s t) (h' : FabricKept t u) : FabricKept s u :=
  ⟨h'.ports.trans h.ports, h'.routes.trans h.routes, h'.time.trans h.time, fun d => (h'.off d).trans (h.off d)⟩

theorem fabricKept_of_eq {s t : State} (hp : t.ports = s.ports) (hr : t.routes = s.routes) (hm : t.mgmt = s.mgmt) (hd : t.dies = s.dies) :
    FabricKept s t :=
  ⟨hp, hr, by rw [hm], fun d => by rw [State.die, hd]; rfl⟩

theorem fabricKept_foldl {β : Type} {f : State → β → State} (h : ∀ t b, FabricKept t (f t b)) (l : List β) (s : State) :
    FabricKept s (l.foldl f s) := foldl_rel FabricKept.refl FabricKept.trans h l s

section Kept
variable (s : State)

theorem fabricKept_modCtx (c : CtxId) (f : Ctx → Ctx) : FabricKept s (s.modCtx c f) := fabricKept_of_eq rfl rfl rfl rfl
theorem fabricKept_setCtx (c : CtxId) (x : Ctx) : FabricKept s (s.setCtx c x) := fabricKept_of_eq rfl rfl rfl rfl
theorem fabricKept_modCore (c : CoreId) (f : Core → Core) : FabricKept s (s.modCore c f) := fabricKept_of_eq rfl rfl rfl rfl
theorem fabricKept_modCluster (c : ClusterId) (f : Cluster → Cluster) : FabricKept s (s.modCluster c f) := fabricKept_of_eq rfl rfl rfl rfl
theorem fabricKept_modPage (p : Nat) (f : Page → Page) : FabricKept s (s.modPage p f) := fabricKept_of_eq rfl rfl rfl rfl

theorem fabricKept_modDie (n : Nat) (f : Die → Die) (h : ∀ d, (f d).off = d.off) : FabricKept s (s.modDie n f) := by
  refine ⟨rfl, rfl, rfl, fun d => ?_⟩
  by_cases e : d = n
  · subst e; rw [State.die_modDie_same]; exact h _
  · rw [State.die_modDie_other _ _ e]

/-! #### Global memory and notices -/

theorem fabricKept_bringIn (p : Nat) : FabricKept s (s.bringIn p) := by
  unfold State.bringIn
  split
  · exact .refl s
  · exact fabricKept_modPage ..

theorem fabricKept_gWritePart (a n v : Nat) : FabricKept s (s.gWritePart a n v) := by
  unfold State.gWritePart
  dsimp only
  split
  · exact (fabricKept_bringIn s _).trans (fabricKept_of_eq rfl rfl rfl rfl)
  · exact fabricKept_bringIn s _

theorem fabricKept_gWriteRaw (a n v : Nat) : FabricKept s (s.gWriteRaw a n v) :=
  foldl_rel (R := fun (p q : State × Nat) => FabricKept p.1 q.1) (fun p => .refl p.1) FabricKept.trans
    (fun p _ => fabricKept_gWritePart p.1 _ _ _) _ (s, v)

theorem fabricKept_notice (job kind : Nat) (cause : BitVec 8) (id : Nat) (info : Word) : FabricKept s (s.notice job kind cause id info) := by
  unfold State.notice
  split
  · exact .refl s
  · dsimp only
    split
    · exact fabricKept_gWriteRaw ..
    · exact ((((fabricKept_gWriteRaw ..).trans (fabricKept_gWriteRaw ..)).trans (fabricKept_gWriteRaw ..)).trans
        (fabricKept_gWriteRaw ..)).trans (fabricKept_gWriteRaw ..)

/-! #### Reservations and the undo log -/

theorem fabricKept_loseResv (c : CtxId) : FabricKept s (s.loseResv c) := by
  unfold State.loseResv
  split
  · exact .refl s
  · dsimp only
    split
    · exact (fabricKept_modCtx s ..).trans (fabricKept_modCore ..)
    · exact (fabricKept_modCtx s ..).trans (fabricKept_modCluster ..)

theorem fabricKept_breakResvs (h : Holder) (a n : Nat) (writer : Option CtxId) : FabricKept s (s.breakResvs h a n writer) := by
  unfold State.breakResvs
  refine fabricKept_foldl (fun t r => ?_) _ s
  split
  · exact fabricKept_loseResv ..
  · exact .refl t

theorem fabricKept_requestSeal (capacity : Bool) : FabricKept s (s.requestSeal capacity) := by
  unfold State.requestSeal
  split <;> exact fabricKept_of_eq rfl rfl rfl rfl

theorem fabricKept_watchUndo (die : Nat) : FabricKept s (s.watchUndo die) := by
  unfold State.watchUndo
  split
  · exact fabricKept_requestSeal ..
  · exact .refl s

variable {s}

theorem fabricKept_logDie {t : State} {die : Nat} {e : UndoEntry} (h : s.logDie die e = some t) : FabricKept s t := by
  simp only [State.logDie, Option.ite_none_right_eq_some, Option.some.injEq] at h
  obtain ⟨-, rfl⟩ := h
  exact (fabricKept_modDie s die (fun d => { d with undo := e :: d.undo }) fun _ => rfl).trans (fabricKept_watchUndo ..)

theorem fabricKept_logG {t : State} {line : Nat} (h : s.logG line = some t) : FabricKept s t := by
  unfold State.logG at h
  dsimp only at h
  split at h
  · obtain rfl := Option.some.inj h
    exact .refl s
  · obtain ⟨u, hu, rfl⟩ := Option.map_eq_some_iff.1 h
    exact (fabricKept_logDie hu).trans (fabricKept_of_eq rfl rfl rfl rfl)

/-- A fold of writes to a log that did not run out of room. -/
theorem foldl_bind_rel {R : State → State → Prop} (hr : ∀ s, R s s) (ht : ∀ {s t u}, R s t → R t u → R s u) {f : State → Nat → Option State}
    (h : ∀ {s t b}, f s b = some t → R s t) (l : List Nat) {s t : State} (e : l.foldl (fun o b => o.bind fun u => f u b) (some s) = some t) :
    R s t := by
  induction l generalizing s with
  | nil => exact Option.some.inj e ▸ hr s
  | cons b r ih =>
    have hnone : ∀ l : List Nat, l.foldl (fun o b => o.bind fun u => f u b) none = none := fun l => by
      induction l with
      | nil => rfl
      | cons _ _ ih => exact ih
    rw [List.foldl_cons, Option.bind_some] at e
    cases hb : f s b with
    | none => rw [hb, hnone] at e; cases e
    | some u => rw [hb] at e; exact ht (h hb) (ih e)

theorem fabricKept_logGRange {t : State} {va n : Nat} (h : s.logGRange va n = some t) : FabricKept s t :=
  foldl_bind_rel (f := fun u l => u.logG l) FabricKept.refl FabricKept.trans fabricKept_logG _ h

/-! #### Words that dispatch writes -/

variable (s)

theorem fabricKept_holdWrite (die : Nat) (w : HeldWrite) : FabricKept s (s.holdWrite die w) := by
  unfold State.holdWrite
  dsimp only
  have hm := fabricKept_modDie s die (fun d => { d with hold := d.hold ++ [w] }) fun _ => rfl
  split
  · exact hm.trans (fabricKept_requestSeal ..)
  · exact hm

theorem fabricKept_testWaits (va n : Nat) : FabricKept s (s.testWaits va n) := fabricKept_of_eq rfl rfl rfl rfl

variable {s}

theorem fabricKept_homeWrite {t : State} {va n v : Nat} {w : Option (CtxId × Nat × Word)} (h : s.homeWrite va n v w = .yes t) :
    FabricKept s t := by
  unfold State.homeWrite at h
  dsimp only at h
  split at h
  · split at h
    · cases h
      exact (fabricKept_foldl (fun u w => fabricKept_holdWrite u _ w) _ s).trans (fabricKept_testWaits ..)
    · cases h
  · split at h
    · cases h
    · next u hu =>
      cases h
      exact (((fabricKept_logGRange hu).trans (fabricKept_gWriteRaw ..)).trans (fabricKept_testWaits ..)).trans (fabricKept_breakResvs ..)

theorem fabricKept_tryWord {t : State} {va v : Nat} {clock : SMap Nat} (h : s.tryWord va v clock = some t) : FabricKept s t := by
  unfold State.tryWord at h
  split at h
  · obtain rfl := Option.some.inj h
    exact .refl s
  · split at h
    · next hu =>
      obtain rfl := Option.some.inj h
      exact (fabricKept_homeWrite hu).trans (fabricKept_of_eq rfl rfl rfl rfl)
    · cases h

variable (s)

theorem fabricKept_putWord (job : Nat) (a : Word) (v : Nat) : FabricKept s (s.putWord job a v) := by
  unfold State.putWord
  dsimp only
  split
  · exact fabricKept_of_eq rfl rfl rfl rfl
  · cases h : s.tryWord (jaddr job a.toNat) v s.dispatchClock with
    | none => exact (fabricKept_requestSeal s true).trans (fabricKept_of_eq rfl rfl rfl rfl)
    | some t => exact fabricKept_tryWord h

/-! #### Launches -/

theorem fabricKept_setJob (n : Nat) (j : Option Job) : FabricKept s (s.setJob n j) := fabricKept_of_eq rfl rfl rfl rfl
theorem fabricKept_setGraph (n : Nat) (g : Option Graph) : FabricKept s (s.setGraph n g) := fabricKept_of_eq rfl rfl rfl rfl
theorem fabricKept_setLaunch (n : Nat) (q : Option Launch) : FabricKept s (s.setLaunch n q) := fabricKept_of_eq rfl rfl rfl rfl

theorem fabricKept_phaseMember (job phase : Nat) (complete : Bool) : FabricKept s (s.phaseMember job phase complete) := by
  unfold State.phaseMember
  split
  · exact .refl s
  · split
    · exact .refl s
    · exact (fabricKept_setJob s ..).trans (fabricKept_putWord ..)

theorem fabricKept_graphMember (g : Nat) (complete : Bool) : FabricKept s (s.graphMember g complete) := by
  unfold State.graphMember
  split
  · exact .refl s
  · next q hq =>
    dsimp only
    have hcnt (st : CState) (q1 : Graph) : FabricKept s (match q.cnt with
        | none => s.setGraph g (some q1)
        | some a => (s.setGraph g (some q1)).putWord q.job a (counterWord st q1.done)) := by
      cases q.cnt with
      | none => exact fabricKept_setGraph ..
      | some a => exact (fabricKept_setGraph s ..).trans (fabricKept_putWord ..)
    have hphase (st : CState) (t : State) (ht : FabricKept s t) :
        FabricKept s (if st = .running then t else t.phaseMember q.job q.phase (st == CState.complete)) := by
      split
      · exact ht
      · exact ht.trans (fabricKept_phaseMember ..)
    exact hphase _ _ (hcnt ..)

theorem fabricKept_endOne (l : Nat) (st : CState) : FabricKept s (s.endOne l st) := by
  unfold State.endOne
  split
  · exact .refl s
  · split
    · exact .refl s
    · exact ((fabricKept_setLaunch s ..).trans (fabricKept_putWord ..)).trans (fabricKept_graphMember ..)

theorem fabricKept_cancelFollowers (ls : List Nat) : FabricKept s (s.cancelFollowers ls) := by
  unfold State.cancelFollowers
  refine fabricKept_foldl (fun t l => ?_) ls s
  split
  · exact .refl t
  · split
    · exact fabricKept_endOne ..
    · exact .refl t

theorem fabricKept_endLaunch (l : Nat) (st : CState) : FabricKept s (s.endLaunch l st) := by
  unfold State.endLaunch
  dsimp only
  split
  · exact fabricKept_endOne ..
  · exact (fabricKept_endOne ..).trans (fabricKept_cancelFollowers ..)

/-! #### Contexts -/

theorem fabricKept_purgePipe (c : CtxId) : FabricKept s (s.purgePipe c) := by
  unfold State.purgePipe
  split
  · exact .refl s
  · exact fabricKept_modCore ..

theorem fabricKept_forget (c : CtxId) : FabricKept s (s.forget c) := by
  unfold State.forget
  refine FabricKept.trans (fabricKept_foldl (fun t m => ?_) _ s) (fabricKept_of_eq rfl rfl rfl rfl)
  cases m.dest
  case core => exact fabricKept_modCore ..
  all_goals exact .refl t

theorem fabricKept_withdraw (c : CtxId) : FabricKept s (s.withdraw c) :=
  (fabricKept_modCore s ..).trans (fabricKept_modCtx ..)

theorem fabricKept_testHeads (core : CoreId) : FabricKept s (s.testHeads core) := by
  unfold State.testHeads
  exact (fabricKept_modCore s ..).trans (fabricKept_modCluster ..)

theorem fabricKept_dropCmd (core : CoreId) (m : Cmd) : FabricKept s (s.dropCmd core m) := by
  unfold State.dropCmd
  exact (((fabricKept_modCore s ..).trans (fabricKept_modCluster ..)).trans
    (fabricKept_foldl (fun t c => fabricKept_testHeads t c) _ _)).trans (fabricKept_testHeads ..)

theorem fabricKept_dropCommands (c : CtxId) : FabricKept s (s.dropCommands c) :=
  fabricKept_foldl (fun t m => fabricKept_dropCmd t _ m) _ s

theorem fabricKept_restKilled (c : CtxId) : FabricKept s (s.restKilled c) := by
  unfold State.restKilled
  split
  · exact fabricKept_modCtx ..
  · exact .refl s

theorem fabricKept_killCtx (c : CtxId) : FabricKept s (s.killCtx c) :=
  ((((((fabricKept_purgePipe s c).trans (fabricKept_forget ..)).trans (fabricKept_withdraw ..)).trans (fabricKept_loseResv ..)).trans
    (fabricKept_dropCommands ..)).trans (fabricKept_modCtx ..)).trans (fabricKept_restKilled ..)

theorem fabricKept_modHeld (c : CtxId) (launch : Nat) (f : Ctx → Ctx) : FabricKept s (s.modHeld c launch f) := by
  unfold State.modHeld
  split
  · exact fabricKept_of_eq rfl rfl rfl rfl
  · split
    · exact fabricKept_modCtx ..
    · exact .refl s

theorem fabricKept_withdrawParts (h : Nat) (c : CtxId) (launch : Nat) : FabricKept s (s.withdrawParts h c launch) := by
  unfold State.withdrawParts
  have hcolls (l : List Coll) : FabricKept s { s with colls := l } := fabricKept_of_eq rfl rfl rfl rfl
  refine (hcolls _).trans (fabricKept_foldl (fun t g => ?_) _ _)
  exact fabricKept_foldl (fun u p => fabricKept_modHeld ..) _ t

theorem fabricKept_discardQueued (c : CtxId) : FabricKept s (s.discardQueued c) :=
  (fabricKept_foldl (fun t m => fabricKept_dropCmd t _ m) _ s).trans (fabricKept_foldl (fun t h => fabricKept_withdrawParts t h _ _) _ _)

theorem fabricKept_numberAt (die : Nat) (d : Dest) : FabricKept s (s.numberAt die d) := by
  have hclock (clock : SMap Nat) : FabricKept s (s.modDie die fun q => { q with clock := clock }) := fabricKept_modDie s _ _ fun _ => rfl
  exact (hclock _).trans (fabricKept_of_eq rfl rfl rfl rfl)

theorem fabricKept_leaveAll (c : CtxId) : FabricKept s (s.leaveAll c) := by
  unfold State.leaveAll
  split
  · exact .refl s
  · refine fabricKept_foldl (fun t e => ?_) _ s
    split
    · exact .refl t
    · split
      · exact .refl t
      · split
        · exact .refl t
        · exact (fabricKept_numberAt t _ (.directory (e.1 / 1024))).trans (fabricKept_of_eq rfl rfl rfl rfl)

theorem fabricKept_unbindCtx (c : CtxId) : FabricKept s (s.unbindCtx c) :=
  ((((fabricKept_purgePipe s c).trans (fabricKept_modCore ..)).trans (fabricKept_modCtx ..)).trans (fabricKept_restKilled ..)).trans
    (fabricKept_foldl (fun t _ => fabricKept_modCtx t ..) _ _)

theorem fabricKept_cancelCtx (c : CtxId) : FabricKept s (s.cancelCtx c) :=
  ((((((fabricKept_purgePipe s c).trans (fabricKept_forget ..)).trans (fabricKept_withdraw ..)).trans (fabricKept_loseResv ..)).trans
    (fabricKept_discardQueued ..)).trans (fabricKept_leaveAll ..)).trans (fabricKept_unbindCtx ..)

theorem fabricKept_cancelTile (l : Nat) (c : CtxId) : FabricKept s (s.cancelTile l c) := by
  unfold State.cancelTile
  dsimp only
  split
  · exact fabricKept_cancelCtx ..
  · split
    · exact .refl s
    · next k xs _ =>
      have h0 : FabricKept s ((ctxsOf (coreOf c)).foldl (fun t d => t.setCtx d (tget Ctx.reset xs d)) (s.setCore (coreOf c) k)) :=
        FabricKept.trans (t := s.setCore (coreOf c) k) (fabricKept_of_eq rfl rfl rfl rfl) (fabricKept_foldl (fun t d => fabricKept_setCtx t ..) _ _)
      have h2 (t : State) (h : FabricKept s t) (now : Core) (l : List (CtxId × Ctx)) :
          FabricKept s (l.foldl (fun t e => t.setCtx e.1 e.2) (t.setCore (coreOf c) now)) :=
        h.trans (FabricKept.trans (t := t.setCore (coreOf c) now) (fabricKept_of_eq rfl rfl rfl rfl)
          (fabricKept_foldl (fun t e => fabricKept_setCtx t ..) _ _))
      have h1 (b : Bool) (t : State) (h : FabricKept s t) : FabricKept s (if b then t.cancelCtx c else t) := by
        cases b with
        | false => exact h
        | true => exact h.trans (fabricKept_cancelCtx ..)
      have h3 (b : Bool) (t : State) (h : FabricKept s t) (l : SMap (List Image)) :
          FabricKept s { (if b then t else t.keepS (coreOf c)) with saved := l } := by
        cases b <;> exact h.trans (fabricKept_of_eq rfl rfl rfl rfl)
      exact h3 _ _ (h2 _ (h1 _ _ h0) _ _) _

theorem fabricKept_cancelLaunch (l : Nat) : FabricKept s (s.cancelLaunch l) := by
  unfold State.cancelLaunch
  split
  · exact .refl s
  · next q _ =>
    split
    · exact .refl s
    · refine FabricKept.trans ?_ (fabricKept_endLaunch ..)
      split
      · exact fabricKept_foldl (fun t c => fabricKept_cancelTile t l c) _ s
      · exact .refl s

theorem fabricKept_fatal (f : FatalKind) (die : Nat) (cluster : Option ClusterId) : FabricKept s (s.fatal f die cluster) := by
  unfold State.fatal
  have hdump (fresh : Nat) (dump : Option Dump) : FabricKept s { s with fresh := fresh, mgmt := { s.mgmt with dump := dump } } :=
    ⟨rfl, rfl, rfl, fun _ => rfl⟩
  have hkill (t : State) (l : List CtxId) : FabricKept t (l.foldl State.killCtx t) := fabricKept_foldl fabricKept_killCtx l t
  have hnotice (t : State) (base : Word) : FabricKept t (t.jobs.foldl (fun t e => t.notice e.1 11 0 0 base) t) :=
    fabricKept_foldl (fun t e => fabricKept_notice ..) _ t
  have hcancel (t : State) (l : List Nat) : FabricKept t (t.cancelLaunches l) := fabricKept_foldl fabricKept_cancelLaunch l t
  exact ((((hdump ..).trans (hkill ..)).trans (hnotice ..)).trans (hcancel ..)).trans (fabricKept_of_eq rfl rfl rfl rfl)

/-- After a fatal error every job is cancelled. -/
theorem cancelled_of_fatal {f : FatalKind} {die : Nat} {cluster : Option ClusterId} {n : Nat} {j : Job}
    (h : (s.fatal f die cluster).job n = some j) : j.cancelled = true := by
  have hmap : ∀ l : List (Nat × Option Job),
      tget none (l.map fun e => (e.1, e.2.map fun j => { j with cancelled := true })) n = some j → j.cancelled = true := by
    intro l hl
    induction l with
    | nil => cases hl
    | cons e r ih =>
      rw [List.map_cons, tget] at hl
      split at hl
      · obtain ⟨j', -, rfl⟩ := Option.map_eq_some_iff.1 hl
        rfl
      · exact ih hl
  exact hmap _ h

end Kept
end Sys2Proof.ModuleParts

namespace Sys2Proof.ModuleParts
open Sys2Proof Sys2Proof.Machine Sys2Proof.Safety

/-! ### The rail of a die (R434) -/

/-- What the passing of time leaves as it was. -/
def railPart (s : State) : SMap Cluster × SMap Die × Mgmt := (s.clusters, s.dies, s.mgmt)

theorem railPart_watchQueue (s : State) (job queue units : Nat) : railPart (s.watchQueue job queue units) = railPart s := by
  unfold State.watchQueue
  cases s.currentWork job queue <;> rfl

theorem railPart_foldl_modCore (l : List (Nat × Core)) (f : Core → Core) (s : State) :
    railPart (l.foldl (fun t e => t.modCore e.1 f) s) = railPart s :=
  foldl_keeps railPart (f := fun t e => t.modCore e.1 f) (fun _ _ => rfl) l s

/-- The controller's time comes to a later one; clusters and dies stay. -/
theorem passTime_spec (s : State) {us : Nat} (h : us < 2 ^ 64) :
    (s.passTime us).mgmt.time.toNat = max s.mgmt.time.toNat us ∧ (s.passTime us).clusters = s.clusters ∧
      (s.passTime us).dies = s.dies := by
  by_cases hle : us ≤ s.mgmt.time.toNat
  · have he : s.passTime us = s := if_pos hle
    rw [he]
    exact ⟨(Nat.max_eq_left hle).symm, rfl, rfl⟩
  · have hwatch (l : List (Nat × Option Job)) (n : Nat) (s : State) : railPart (l.foldl (fun t e => match e.2 with
        | none => t
        | some j => j.queues.foldl (fun u q => u.watchQueue e.1 q.1 n) t) s) = railPart s := by
      refine foldl_keeps railPart (fun t e => ?_) l s
      cases e.2 with
      | none => rfl
      | some j => exact foldl_keeps railPart (fun u q => railPart_watchQueue ..) _ t
    have hcores (b : Prop) [Decidable b] (l : List (Nat × Core)) (f : Core → Core) (s : State) :
        railPart (if b then s else l.foldl (fun t e => t.modCore e.1 f) s) = railPart s := by
      split
      · rfl
      · exact railPart_foldl_modCore l f s
    have hall : railPart (s.passTime us) = (s.clusters, s.dies, { s.mgmt with time := BitVec.ofNat 64 us }) := by
      unfold State.passTime
      rw [if_neg hle]
      exact (hcores ..).trans ((hcores ..).trans (hwatch ..))
    simp only [railPart, Prod.mk.injEq] at hall
    obtain ⟨hc, hd, hm⟩ := hall
    refine ⟨?_, hc, hd⟩
    rw [hm, Nat.max_eq_right (Nat.le_of_not_le hle)]
    exact Nat.mod_eq_of_lt h

section Sample
variable {s : State} {d : Fin 36} {us pct : Nat}

/-- A sample of a die that is not in a current step. -/
theorem currentSample_free {t : State} (ht : s.passTime us = t) (hoff : (t.die d.val).off = false) (hs : (t.die d.val).stepAt = none) :
    exec (.currentSample d pct us) s =
      if pct ≤ 120 then .next (t.modDie d.val fun d => { d with overSamples := 0 })
      else if (t.die d.val).overSamples = 0 then .next (t.modDie d.val fun d => { d with overSamples := 1 })
      else .next (t.currentStep d.val us) := by
  subst ht
  refine (if_neg (by rw [hoff]; decide)).trans ?_
  rw [hs]

/-- A sample of a die in a current step. -/
theorem currentSample_stepped {t : State} (ht : s.passTime us = t) (hoff : (t.die d.val).off = false) {since : Nat}
    (hs : (t.die d.val).stepAt = some since) :
    exec (.currentSample d pct us) s =
      if 100 < pct then
        (if since + 1000 ≤ us then .next ((t.modDie d.val fun d => { d with off := true }).fatal .diePowerOff d.val none)
        else .next (t.modDie d.val fun d => { d with lastOver := some us }))
      else if (t.die d.val).lastOver.getD 0 + 1000 ≤ us then .next (t.endStep d.val)
      else .next (t.modDie d.val fun d => { d with stepAt := some us }) := by
  subst ht
  refine (if_neg (by rw [hoff]; decide)).trans ?_
  rw [hs]

/-- The step of a cluster in a current step of its die. -/
def steppedDown (q : Cluster) : Cluster := { q.order 0 with budget := 8, goalNow := true }

theorem steppedDown_steppedDown (q : Cluster) : steppedDown (steppedDown q) = steppedDown q := rfl

theorem ordered_steppedDown (q : Cluster) : (steppedDown q).ordered = 0 := by
  unfold steppedDown Cluster.order Cluster.ordered
  by_cases h : q.fll = 0 ∧ q.ldo = 0
  · simp [h]
  · simp [h]

/-- A current step of a die, taken on a list of its clusters. -/
def stepDownOn (t : State) (die atUs : Nat) (cs : List ClusterId) : State :=
  (cs.foldl (fun t c => t.modCluster c steppedDown) t).modDie die fun d =>
    { d with
      overSamples := 0, stepAt := some atUs, lastOver := some atUs
      beforeStep := cs.map fun c => (c, (t.cluster c).budget, (t.cluster c).ordered) }

theorem currentStep_eq (t : State) (die atUs : Nat) : t.currentStep die atUs = stepDownOn t die atUs (dieClusters die) := rfl

theorem stepDownOn_spec (t : State) (die : Nat) (cs : List ClusterId) :
    (stepDownOn t die us cs).mgmt = t.mgmt ∧ ((stepDownOn t die us cs).die die).stepAt = some us ∧
      ∀ k ∈ cs, (stepDownOn t die us cs).cluster k = steppedDown (t.cluster k) := by
  refine ⟨?_, congrArg Die.stepAt (State.die_modDie_same ..), fun k hk => ?_⟩
  · rw [stepDownOn, foldl_modCluster]; rfl
  · exact (cluster_foldl_modCluster steppedDown_steppedDown _ t k).trans (if_pos hk)

/-- The end of a current step. -/
theorem endStep_spec (t : State) (die : Nat) :
    (t.endStep die).mgmt = t.mgmt ∧ ((t.endStep die).die die).stepAt = none ∧
      ∀ k b n, (t.die die).beforeStep = [(k, b, n)] → (t.endStep die).cluster k = (t.cluster k).restep b n := by
  have hkeep : ∀ (l : List (ClusterId × Nat × Nat)) (u : State),
      (fun v : State => (v.mgmt, v.dies)) (l.foldl (fun t e => t.modCluster e.1 fun q => q.restep e.2.1 e.2.2) u) = (u.mgmt, u.dies) :=
    foldl_keeps (fun v : State => (v.mgmt, v.dies)) (f := fun t (e : ClusterId × Nat × Nat) => t.modCluster e.1 fun q => q.restep e.2.1 e.2.2) fun _ _ => rfl
  have h := hkeep (t.die die).beforeStep (t.modDie die fun d => { d with stepAt := none, lastOver := none, beforeStep := [] })
  simp only [Prod.mk.injEq] at h
  obtain ⟨hm, hd⟩ := h
  refine ⟨hm, ?_, fun k b n hb => ?_⟩
  · exact congrArg (fun m => (tget Die.reset m die).stepAt) hd |>.trans (congrArg Die.stepAt (State.die_modDie_same ..))
  · unfold State.endStep
    dsimp only
    rw [hb, List.foldl_cons, List.foldl_nil]
    exact State.cluster_modCluster_same ..

theorem currentSample (d : Fin 36) (pct us : Nat) (hoff : (s.die d.val).off = false) (hus : us < 2 ^ 64) :
    ∃ t, exec (.currentSample d pct us) s = .next t ∧
      t.mgmt.time.toNat = max s.mgmt.time.toNat us ∧ let x := s.die d.val; let y := t.die d.val
      (x.stepAt = none → (pct ≤ 120 → y.overSamples = 0 ∧ y.stepAt = none ∧ t.clusters = s.clusters) ∧
        (120 < pct → x.overSamples = 0 → y.overSamples = 1 ∧ y.stepAt = none ∧ t.clusters = s.clusters) ∧
        (120 < pct → x.overSamples ≠ 0 → y.stepAt = some us ∧
          ∀ k ∈ dieClusters d.val, (t.cluster k).budget = 8 ∧ (t.cluster k).ordered = 0 ∧ (t.cluster k).goalNow = true ∧
            (t.cluster k).fll = (s.cluster k).fll)) ∧
      ∀ since last, x.stepAt = some since → x.lastOver = some last →
        (pct ≤ 100 → last + 1000 ≤ us → y.stepAt = none ∧
          ∀ k b n, x.beforeStep = [(k, b, n)] →
            t.cluster k = { Claim.Ordered (s.cluster k) n with budget := b, goalNow := true }) ∧
        (pct ≤ 100 → us < last + 1000 → y.stepAt = some us ∧ t.clusters = s.clusters) ∧
        (100 < pct → us < since + 1000 → y = { x with lastOver := some us } ∧ t.clusters = s.clusters) ∧
        (100 < pct → since + 1000 ≤ us → y.off = true ∧ ∀ n j, t.job n = some j → j.cancelled = true) := by
  obtain ⟨htime, hcl, hdies⟩ := passTime_spec s hus
  generalize ht : s.passTime us = t at htime hcl hdies
  have hdie : t.die d.val = s.die d.val := by rw [State.die, hdies]; rfl
  have hcluster (k : ClusterId) : t.cluster k = s.cluster k := by rw [State.cluster, hcl]; rfl
  cases hs : (s.die d.val).stepAt with
  | none =>
    rw [currentSample_free ht (by rw [hdie]; exact hoff) (by rw [hdie]; exact hs), hdie]
    by_cases hp : pct ≤ 120
    · rw [if_pos hp]
      refine ⟨_, rfl, htime, fun _ => ⟨fun _ => ?_, fun h => absurd hp (Nat.not_le.2 h), fun h => absurd hp (Nat.not_le.2 h)⟩, fun _ _ h => nomatch hs.symm.trans h⟩
      rw [State.die_modDie_same, hdie]
      exact ⟨rfl, hs, hcl⟩
    · rw [if_neg hp]
      by_cases ho : (s.die d.val).overSamples = 0
      · rw [if_pos ho]
        refine ⟨_, rfl, htime, fun _ => ⟨fun h => absurd h hp, fun _ _ => ?_, fun _ h => absurd ho h⟩, fun _ _ h => nomatch hs.symm.trans h⟩
        rw [State.die_modDie_same, hdie]
        exact ⟨rfl, hs, hcl⟩
      · rw [if_neg ho]
        rw [currentStep_eq]
        obtain ⟨hm, hstep, hc⟩ := stepDownOn_spec (us := us) t d.val (dieClusters d.val)
        refine ⟨_, rfl, by rw [hm]; exact htime, fun _ => ⟨fun h => absurd h hp, fun _ h => absurd h ho, fun _ _ => ⟨hstep, fun k hk => ?_⟩⟩, fun _ _ h => nomatch hs.symm.trans h⟩
        rw [hc k hk, hcluster]
        exact ⟨rfl, ordered_steppedDown _, rfl, rfl⟩
  | some since =>
    rw [currentSample_stepped ht (by rw [hdie]; exact hoff) (by rw [hdie]; exact hs), hdie]
    by_cases hp : 100 < pct
    · rw [if_pos hp]
      by_cases hu : since + 1000 ≤ us
      · rw [if_pos hu]
        have hk := fabricKept_fatal (t.modDie d.val fun d => { d with off := true }) .diePowerOff d.val none
        refine ⟨_, rfl, by rw [hk.time]; exact htime, (fun h => nomatch hs.symm.trans h), fun since' last h hl => ⟨fun h => absurd hp (Nat.not_lt.2 h), fun h => absurd hp (Nat.not_lt.2 h), ?_, ?_⟩⟩
        · obtain rfl := Option.some.inj (hs.symm.trans h)
          exact fun _ h => absurd hu (Nat.not_le.2 h)
        · refine fun _ _ => ⟨?_, fun n j => cancelled_of_fatal _⟩
          rw [hk.off, State.die_modDie_same]
      · rw [if_neg hu]
        refine ⟨_, rfl, htime, (fun h => nomatch hs.symm.trans h), fun since' last h hl => ⟨fun h => absurd hp (Nat.not_lt.2 h), fun h => absurd hp (Nat.not_lt.2 h), ?_, ?_⟩⟩
        · rw [State.die_modDie_same, hdie]
          exact fun _ _ => ⟨rfl, hcl⟩
        · obtain rfl := Option.some.inj (hs.symm.trans h)
          exact fun _ h => absurd h hu
    · rw [if_neg hp]
      by_cases hl : (s.die d.val).lastOver.getD 0 + 1000 ≤ us
      · rw [if_pos hl]
        obtain ⟨hm, hstep, hc⟩ := endStep_spec t d.val
        refine ⟨_, rfl, by rw [hm]; exact htime, (fun h => nomatch hs.symm.trans h), fun since' last _ hlast => ⟨fun _ _ => ⟨hstep, fun k b n hb => ?_⟩, ?_, fun h => absurd h hp, fun h => absurd h hp⟩⟩
        · rw [hc k b n (by rw [hdie]; exact hb), hcluster]
          rfl
        · rw [hlast] at hl
          exact fun _ h => absurd hl (Nat.not_le.2 h)
      · rw [if_neg hl]
        refine ⟨_, rfl, htime, (fun h => nomatch hs.symm.trans h), fun since' last _ hlast => ⟨?_, fun _ _ => ?_, fun h => absurd h hp, fun h => absurd h hp⟩⟩
        · rw [hlast] at hl
          exact fun _ h => absurd h hl
        · rw [State.die_modDie_same]
          exact ⟨rfl, hcl⟩
end Sample


/-! ### A port that has lost its link (R332, R423) -/

/-- A port that is excluded is down and leaves every route. -/
theorem exclude_ilufosko (s : State) (port : Fin 48) :
    ((s.exclude (.ilufosko port)).port port.val).down = true ∧ ∀ e ∈ (s.exclude (.ilufosko port)).routes, port.val ∉ e.2 := by
  refine ⟨congrArg Port.down (port_setPort_same ..), fun e he => ?_⟩
  obtain ⟨he, -⟩ := List.mem_filter.1 he
  obtain ⟨r, -, rfl⟩ := List.mem_map.1 he
  simp

theorem excluded_ilufosko (s : State) (port : Fin 48) :
    ((s.excluded (.ilufosko port)).port port.val).down = true ∧ ∀ e ∈ (s.excluded (.ilufosko port)).routes, port.val ∉ e.2 := by
  have hx := exclude_ilufosko s port
  unfold State.excluded
  dsimp only
  split
  · have hk := fabricKept_fatal (s.exclude (.ilufosko port)) .unroutable (DomainFaultKind.place (.ilufosko port)).1
      (DomainFaultKind.place (.ilufosko port)).2
    rw [State.port, hk.ports, hk.routes]
    exact hx
  · exact hx

theorem portDown_spec (s : State) (port : Fin 48) :
    ((s.portDown port).port port.val).down = true ∧ (∀ e ∈ (s.portDown port).routes, port.val ∉ e.2) ∧
      ∀ e ∈ (s.portDown port).pins, e.2 ≠ port.val := by
  obtain ⟨hdown, hroutes⟩ := excluded_ilufosko ((s.setPort port.val { s.port port.val with
    down := true, waiting := [], unacked := [], answers := [], again := 0 }).rollback false) port
  refine ⟨hdown, hroutes, fun e he => ?_⟩
  simpa using (List.mem_filter.1 he).2

theorem portEvents (s : State) (port : Fin 48) : Claim.PortEvents s port := by
  refine ⟨fun hd => ?_, fun slot flow => ilufoskoPortDown_reserve slot flow, fun dst ports => ilufoskoPortDown_route dst ports,
    fun source flow f x hx h => ilufoskoPortDown_send source flow f x hx h⟩
  obtain ⟨hslot, hrx, hdel, hsent, hnone, hans, hfull⟩ := port_frame (p := s.port port.val) (now := s.mgmt.time.toNat)
  obtain ⟨hnak, hall⟩ := ilufoskoNak (s := s) (port := port) hd
  exact ⟨hslot, hrx, hdel, hsent, hnone, hans, hfull, ⟨_, flitReceive_none hd, port_setPort_same ..⟩, flitReceive hd,
    fun f x rest => flitReceive_on hd, hnak, hall,
    fun h => ilufoskoPortDown_stays h, fun h => ⟨_, ilufoskoPortDown_lost hd h, portDown_spec s port⟩⟩

/-! ### The obligation -/

/-- A reading at the trip limit, of a cluster that no job holds. -/
theorem thermalReading_trip {s : State} {id : CoreId} {r : Nat} (ht : (s.cluster (clusterOf id)).tripped = false)
    (hj : s.jobAt (clusterOf id) = none) (hr : (s.cluster (clusterOf id)).tripLimit ≤ r) :
    ∃ t, exec (.thermalReading id r) s = .next t ∧ (∀ d, d ≠ clusterOf id → t.cluster d = s.cluster d) ∧
      (t.cluster (clusterOf id)).temp = r ∧ (t.cluster (clusterOf id)).tripped = true ∧ (t.cluster (clusterOf id)).failed = true := by
  have hj' : (s.modCluster (clusterOf id) fun q => { q with temp := r }).jobAt (clusterOf id) = none := hj
  refine ⟨_, (thermalReading_eq ht).trans (if_pos hr), fun d hd => ?_, ?_⟩
  · rw [cluster_trip hj', if_neg hd, State.cluster_modCluster_other _ _ hd]
  · rw [cluster_trip hj', if_pos rfl, State.cluster_modCluster_same]
    exact ⟨rfl, rfl, rfl⟩

/-- What a reading below the trip limit makes of the cluster. -/
theorem readingAt_spec (q : Cluster) (r now : Nat) :
    let may : Prop := ∀ x, q.lastShift = some x → x + 1000 ≤ now
    (readingAt q r now).temp = r ∧
    (q.throttled = false → 4 * q.theta ≤ r → may → readingAt q r now = throttledAt { q with temp := r } now) ∧
    (q.throttled = true → r ≤ 4 * q.theta - 16 → may → readingAt q r now = if q.ordered = q.fllSaved then released { q with temp := r } now
      else Claim.Ordered (released { q with temp := r } now) q.fllSaved) ∧
    (¬may → readingAt q r now = { q with temp := r }) ∧
    (q.throttled = false → r < 4 * q.theta → readingAt q r now = { q with temp := r }) ∧
    (q.throttled = true → 4 * q.theta - 16 < r → readingAt q r now = { q with temp := r }) := by
  intro may
  have hmay : q.mayShift now = true ↔ may := mayShift_iff
  refine ⟨?_, fun ht hr hm => ?_, fun ht hr hm => ?_, fun hm => ?_, fun ht hr => ?_, fun ht hr => ?_⟩
  · unfold readingAt
    split
    · rfl
    · split
      · split <;> rfl
      · rfl
  · exact if_pos ⟨ht, hr, hmay.2 hm⟩
  · exact (if_neg (by simp [ht])).trans (if_pos ⟨ht, hr, hmay.2 hm⟩)
  · exact (if_neg fun h => hm (hmay.1 h.2.2)).trans (if_neg fun h => hm (hmay.1 h.2.2))
  · exact (if_neg fun h => Nat.not_le.2 hr h.2.1).trans (if_neg (by simp [ht]))
  · exact (if_neg (by simp [ht])).trans (if_neg fun h => Nat.not_le.2 hr h.2.1)

/-- Settles O53: each clause from the lemma about its event. -/
theorem fabricEvents : Obligations.FabricEvents := by
  intro s id
  refine ⟨fun h => ⟨clockChanges h, fun hj => detectorRateReport h hj, fun r ht hj => ?_, fun j ht hj hd => throttleStep h ht hj hd⟩,
    fun r ht => thermalReading_tripped ht, currentSample, routerEvents s id, portEvents s⟩
  by_cases hr : (s.cluster (clusterOf id)).tripLimit ≤ r
  · obtain ⟨t, ht, hother, htemp, htrip, hfail⟩ := thermalReading_trip ht hj hr
    exact ⟨t, ht, hother, htemp, fun _ => ⟨htrip, hfail⟩, fun hlt => absurd hr (Nat.not_le.2 hlt)⟩
  · obtain ⟨htemp, hthrottle, hrelease, hno, hcool, hwarm⟩ := readingAt_spec (s.cluster (clusterOf id)) r s.mgmt.time.toNat
    refine ⟨_, thermalReading_below h hj ht (Nat.not_le.1 hr), fun d hd => State.cluster_setCluster_other _ _ hd, ?_⟩
    rw [State.cluster_setCluster_same]
    exact ⟨htemp, fun hle => absurd hle hr, fun _ => ⟨(onlyCluster_setCluster ..).1, hthrottle, hrelease, hno, hcool, hwarm⟩⟩

end Sys2Proof.ModuleParts

namespace Sys2Proof.ModuleParts
open Sys2Proof Sys2Proof.Machine Sys2Proof.Safety

/-! ### Writes of global memory and notices (R105, R420) -/

/-- A write of global memory changes its bytes, and brings in pages. -/
theorem gWriteRaw_eq (s : State) (a n v : Nat) : ∃ g p, s.gWriteRaw a n v = { s with gmem := g, pages := p } := by
  have hbring (t : State) (page : Nat) : ∃ p, t.bringIn page = { t with pages := p } := by
    unfold State.bringIn
    split
    · exact ⟨_, rfl⟩
    · exact ⟨_, rfl⟩
  have hpart (t : State) (a n v : Nat) : ∃ g p, t.gWritePart a n v = { t with gmem := g, pages := p } := by
    obtain ⟨p, hp⟩ := hbring t (pageOf a)
    unfold State.gWritePart
    rw [hp]
    dsimp only
    split <;> exact ⟨_, _, rfl⟩
  exact foldl_rel (R := fun (x y : State × Nat) => ∃ g p, y.1 = { x.1 with gmem := g, pages := p }) (fun _ => ⟨_, _, rfl⟩)
    (fun ⟨_, _, h⟩ ⟨g, p, h'⟩ => ⟨g, p, by rw [h', h]⟩) (fun x _ => hpart x.1 _ _ _) (partsOn a n) (s, v)

/-- A notice is written to its job's fault mailbox and changes nothing else. -/
theorem notice_eq (s : State) (job kind : Nat) (cause : BitVec 8) (id : Nat) (info : Word) :
    ∃ g p, s.notice job kind cause id info = { s with gmem := g, pages := p } := by
  have step {t u : State} (h : ∃ g p, u = { t with gmem := g, pages := p }) (a n v : Nat) :
      ∃ g p, u.gWriteRaw a n v = { t with gmem := g, pages := p } := by
    obtain ⟨g, p, rfl⟩ := h
    obtain ⟨g', p', h'⟩ := gWriteRaw_eq { t with gmem := g, pages := p } a n v
    exact ⟨g', p', h'⟩
  unfold State.notice
  split
  · exact ⟨_, _, rfl⟩
  · dsimp only
    split
    · exact gWriteRaw_eq ..
    · exact step (step (step (step (gWriteRaw_eq ..) _ _ _) _ _ _) _ _ _) _ _ _

/-! ### Stopping a context (R351, R364) -/

/-- What a context's stop leaves of it: the row that binds it, whether it is held for its quota, and its general registers. -/
structure HeldKept (s t : State) : Prop where
  row : ∀ d, (t.ctx d).row = (s.ctx d).row
  quotaHeld : ∀ d, (t.ctx d).quotaHeld = (s.ctx d).quotaHeld

theorem HeldKept.refl (s : State) : HeldKept s s := ⟨fun _ => rfl, fun _ => rfl⟩

theorem HeldKept.trans {s t u : State} (h : HeldKept s t) (h' : HeldKept t u) : HeldKept s u :=
  ⟨fun d => (h'.row d).trans (h.row d), fun d => (h'.quotaHeld d).trans (h.quotaHeld d)⟩

theorem heldKept_of_ctxs {s t : State} (h : t.ctxs = s.ctxs) : HeldKept s t := by
  have hc (d : CtxId) : t.ctx d = s.ctx d := congrArg (tget Ctx.reset · d) h
  exact ⟨fun d => by rw [hc], fun d => by rw [hc]⟩

/-- A change of a context that keeps its row and its hold. -/
theorem HeldKept.modCtx {s t : State} (h : HeldKept s t) {c : CtxId} {f : Ctx → Ctx}
    (hf : ∀ x, (f x).row = x.row ∧ (f x).quotaHeld = x.quotaHeld) : HeldKept s (t.modCtx c f) := by
  obtain ⟨hr, hq⟩ := hf (t.ctx c)
  constructor <;> intro d <;> rw [State.ctx_modCtx] <;> split
  next e => subst e; exact hr.trans (h.row _)
  next => exact h.row d
  next e => subst e; exact hq.trans (h.quotaHeld _)
  next => exact h.quotaHeld d

theorem ctxs_keepAnswers (s : State) (c : CtxId) : (s.keepAnswers c).ctxs = s.ctxs := by
  unfold State.keepAnswers
  dsimp only
  cases s.awaited c ((s.core (coreOf c)).pipe.asked (kOf c)) with
  | none => rfl
  | some i =>
    refine (apply_ite State.ctxs _ _ _).trans (ite_eq_left_iff.2 fun _ => foldl_keeps State.ctxs (fun t m => ?_) _ s)
    split
    · split
      · split <;> rfl
      · rfl
    · rfl

theorem ctxs_forget (s : State) (c : CtxId) : (s.forget c).ctxs = s.ctxs := by
  unfold State.forget
  refine foldl_keeps State.ctxs (fun t m => ?_) _ s
  cases m.dest <;> rfl

theorem pipe_forget (s : State) (c : CtxId) (d : CoreId) : ((s.forget c).core d).pipe = (s.core d).pipe := by
  unfold State.forget
  refine foldl_keeps (fun t : State => (t.core d).pipe) (fun t m => ?_) _ s
  cases m.dest
  case core k =>
    simp only [State.core_modCore]
    split
    · next e => subst e; rfl
    · rfl
  all_goals rfl

theorem core_withdraw_pipe (s : State) (c : CtxId) (d : CoreId) : ((s.withdraw c).core d).pipe = (s.core d).pipe := by
  simp only [State.withdraw, State.modCtx_core, State.core_modCore]
  split
  · next e => subst e; rfl
  · rfl

/-- A context that gives up what it has asked for keeps all but the mark that its mailbox wait was met. -/
theorem ctx_withdraw_forget (s : State) (c : CtxId) : ((s.forget c).withdraw c).ctx c = { s.ctx c with met := false } := by
  unfold State.withdraw
  rw [State.ctx_modCtx_same]
  exact congrArg (fun m => { tget Ctx.reset m c with met := false }) (ctxs_forget s c)

theorem ctx_loseResv_other (s : State) {c d : CtxId} (h : d ≠ c) : (s.loseResv c).ctx d = s.ctx d := by
  unfold State.loseResv
  split
  · rfl
  · dsimp only
    split <;> simp only [State.modCore_ctx, State.modCluster_ctx, State.ctx_modCtx_other _ _ h]

theorem heldKept_loseResv (s : State) (c : CtxId) : HeldKept s (s.loseResv c) := by
  have hc (d : CtxId) : (s.loseResv c).ctx d = s.ctx d ∨ (s.loseResv c).ctx d = { s.ctx d with resv := none } := by
    by_cases h : d = c
    · subst h; exact Or.inr (ctx_loseResv s d)
    · exact Or.inl (ctx_loseResv_other s h)
  constructor <;> intro d <;> obtain h | h := hc d <;> rw [h]

/-- Settling a context's pc touches no register. -/
theorem settle_spec (c : CtxId) (fuel : Nat) (s : State) :
    HeldKept s (s.settle c fuel) ∧ ∀ d, ((s.settle c fuel).ctx d).g = (s.ctx d).g := by
  have hmod (t : State) (f : Ctx → Ctx) (hf : ∀ x, (f x).row = x.row ∧ (f x).quotaHeld = x.quotaHeld ∧ (f x).g = x.g) :
      HeldKept t (t.modCtx c f) ∧ ∀ d, ((t.modCtx c f).ctx d).g = (t.ctx d).g := by
    obtain ⟨-, -, hg⟩ := hf (t.ctx c)
    refine ⟨(HeldKept.refl t).modCtx fun x => ⟨(hf x).1, (hf x).2.1⟩, fun d => ?_⟩
    rw [State.ctx_modCtx]
    split
    · next e => subst e; exact hg
    · rfl
  have hback (t : State) := hmod t Ctx.loopBack fun x => by
    unfold Ctx.loopBack
    split
    · split <;> exact ⟨rfl, rfl, rfl⟩
    · exact ⟨rfl, rfl, rfl⟩
  induction fuel generalizing s with
  | zero => exact ⟨.refl s, fun _ => rfl⟩
  | succ n ih =>
    rw [State.settle]
    obtain ⟨hk, hg⟩ := hback s
    split
    · obtain ⟨hk2, hg2⟩ := hmod (s.modCtx c Ctx.loopBack) (fun x => { x with
        pc := if x.pinned ∧ ((s.modCtx c Ctx.loopBack).ctx c).pc.toNat < x.loopEnd.toNat ∧
            x.loopEnd.toNat < blockOf ((s.modCtx c Ctx.loopBack).ctx c).pc.toNat + 32 then x.loopEnd
          else BitVec.ofNat 64 (blockOf ((s.modCtx c Ctx.loopBack).ctx c).pc.toNat + 32) }) fun _ => ⟨rfl, rfl, rfl⟩
      obtain ⟨hk3, hg3⟩ := ih _
      exact ⟨(hk.trans hk2).trans hk3, fun d => (hg3 d).trans ((hg2 d).trans (hg d))⟩
    · exact ⟨hk, hg⟩

theorem heldKept_of_ctx {s t : State} (h : ∀ d, t.ctx d = s.ctx d) : HeldKept s t := ⟨fun d => by rw [h], fun d => by rw [h]⟩

theorem killFrom_spec (s : State) (c : CtxId) (q : Packet) :
    HeldKept s (s.killFrom c q) ∧ ∀ d, ((s.killFrom c q).ctx d).g = (s.ctx d).g := by
  unfold State.killFrom State.modPipe
  dsimp only
  refine ⟨HeldKept.modCtx ?_ fun x => ?_, fun d => ?_⟩
  · exact heldKept_of_ctxs rfl
  · exact ⟨rfl, rfl⟩
  · simp only [State.ctx_modCtx, State.modCore_ctx]
    split
    · next e => subst e; rfl
    · rfl

theorem killPipe_spec (s : State) (c : CtxId) : HeldKept s (s.killPipe c) ∧ ∀ d, ((s.killPipe c).ctx d).g = (s.ctx d).g := by
  unfold State.killPipe
  split
  · exact ⟨.refl s, fun _ => rfl⟩
  · exact killFrom_spec ..

theorem withdraw_spec (s : State) (c : CtxId) : HeldKept s (s.withdraw c) ∧ ∀ d, ((s.withdraw c).ctx d).g = (s.ctx d).g := by
  unfold State.withdraw
  refine ⟨HeldKept.modCtx ?_ fun x => ?_, fun d => ?_⟩
  · exact heldKept_of_ctxs rfl
  · exact ⟨rfl, rfl⟩
  · simp only [State.ctx_modCtx, State.modCore_ctx]
    split
    · next e => subst e; rfl
    · rfl

/-- A context that is stopped at its boundary keeps its row and its registers. -/
theorem killBoundary_spec (s : State) (c : CtxId) :
    HeldKept s (s.killBoundary c) ∧ ∀ d, ((s.killBoundary c).ctx d).g = (s.ctx d).g := by
  unfold State.killBoundary
  split
  · exact ⟨.refl s, fun _ => rfl⟩
  · have hkeep (d : CtxId) : (s.keepAnswers c).ctx d = s.ctx d := congrArg (tget Ctx.reset · d) (ctxs_keepAnswers s c)
    have hforget (t : State) (d : CtxId) : (t.forget c).ctx d = t.ctx d := congrArg (tget Ctx.reset · d) (ctxs_forget t c)
    obtain ⟨hk, hg⟩ := killPipe_spec (s.keepAnswers c) c
    obtain ⟨hk2, hg2⟩ := withdraw_spec (((s.keepAnswers c).killPipe c).forget c) c
    have ht : HeldKept s ((((s.keepAnswers c).killPipe c).forget c).withdraw c) :=
      (((heldKept_of_ctx hkeep).trans hk).trans (heldKept_of_ctx (hforget _))).trans hk2
    have htg (d : CtxId) : (((((s.keepAnswers c).killPipe c).forget c).withdraw c).ctx d).g = (s.ctx d).g := by
      rw [hg2, hforget, hg, hkeep]
    have hrun : ∀ (b : Bool) (t : State), HeldKept s t → (∀ d, (t.ctx d).g = (s.ctx d).g) →
        HeldKept s (if b then t.modCtx c fun x => { x with kick := none, run := x.runBack } else t) ∧
        ∀ d, ((if b then t.modCtx c fun x => { x with kick := none, run := x.runBack } else t).ctx d).g = (s.ctx d).g := by
      intro b t hk hg
      cases b with
      | false => exact ⟨hk, hg⟩
      | true =>
        rw [if_pos rfl]
        refine ⟨HeldKept.modCtx hk fun x => ?_, fun d => ?_⟩
        · exact ⟨rfl, rfl⟩
        · rw [State.ctx_modCtx]
          split
          · next e => exact e ▸ hg c
          · exact hg d
    obtain ⟨hr, hrg⟩ := hrun (s.windowEmpty c) _ ht htg
    obtain ⟨hs, hsg⟩ := settle_spec c fillerFuel _
    exact ⟨hr.trans hs, fun d => (hsg d).trans (hrg d)⟩

/-! #### Traps of a context that is stopped -/

theorem heldKept_notice (s : State) (job kind : Nat) (cause : BitVec 8) (id : Nat) (info : Word) :
    HeldKept s (s.notice job kind cause id info) := by
  obtain ⟨g, p, h⟩ := notice_eq s job kind cause id info
  exact h ▸ heldKept_of_ctxs rfl

theorem heldKept_trap (s : State) (cause : BitVec 8) (ceaddr cepc : Word) : HeldKept s (s.trap cause ceaddr cepc) := by
  unfold State.trap
  dsimp only
  have h : HeldKept s ((s.loseResv s.cur).modMe fun x => x.trapCsrs cause ceaddr cepc x.ir) :=
    (heldKept_loseResv s s.cur).modCtx fun _ => ⟨rfl, rfl⟩
  split
  · exact HeldKept.trans (h.modCtx (f := fun x => { x with run := .halted }) fun _ => ⟨rfl, rfl⟩) (heldKept_notice ..)
  · exact h.modCtx fun _ => ⟨rfl, rfl⟩

theorem heldKept_asCtx (s : State) (c : CtxId) (f : State → State) (h : HeldKept { s with cur := c } (f { s with cur := c })) :
    HeldKept s (s.asCtx c f) := ⟨h.row, h.quotaHeld⟩

theorem land_spec (x : Ctx) (r : Result) : (x.land r).row = x.row ∧ (x.land r).quotaHeld = x.quotaHeld := by
  have hw (y : Ctx) (k : Nat) (v : VWord) : (y.writeKey k v).row = y.row ∧ (y.writeKey k v).quotaHeld = y.quotaHeld := by
    unfold Ctx.writeKey Ctx.writeG
    split
    · split <;> exact ⟨rfl, rfl⟩
    · split
      · exact ⟨rfl, rfl⟩
      · split <;> exact ⟨rfl, rfl⟩
  exact foldl_rel (R := fun x y : Ctx => y.row = x.row ∧ y.quotaHeld = x.quotaHeld) (fun _ => ⟨rfl, rfl⟩)
    (fun h h' => ⟨h'.1.trans h.1, h'.2.trans h.2⟩) (fun y e => hw y e.1 e.2) r.vals x

theorem heldKept_takeMarked (s : State) (c : CtxId) (q : Packet) : HeldKept s (s.takeMarked c q) := by
  unfold State.takeMarked
  split
  · exact .refl s
  · next cause ceaddr cepc _ =>
    have hland (own : Option Result) (t : State) (h : HeldKept s t) : HeldKept s (t.modCtx c fun x =>
        let y := match own with
          | none => x
          | some r => x.land r
        { y with ir := q.words, cstat := if cause = causeFp then y.cstat ||| ceaddr.setWidth 12 else y.cstat }) := by
      refine h.modCtx fun x => ?_
      cases own with
      | none => exact ⟨rfl, rfl⟩
      | some r => exact land_spec x r
    have h1 := hland (if q.performed then (s.core (coreOf c)).pipe.resultOf q.tag else none) _
      (((killFrom_spec s c q).1.trans (heldKept_of_ctxs (ctxs_forget _ c))).trans (withdraw_spec _ c).1)
    dsimp only
    split
    · refine HeldKept.modCtx (h1.trans (heldKept_loseResv ..)) fun x => ?_
      exact ⟨rfl, rfl⟩
    · have hpipe (t : State) (f : Pipe → Pipe) (h : HeldKept s t) : HeldKept s (t.modPipe (coreOf c) f) :=
        h.trans (heldKept_of_ctxs rfl)
      refine hpipe _ _ (HeldKept.modCtx (h1.trans (heldKept_asCtx _ c (fun t => t.trap cause ceaddr cepc) (heldKept_trap ..))) fun x => ?_)
      split <;> exact ⟨rfl, rfl⟩

theorem heldKept_trapFirst (s : State) (c : CtxId) : HeldKept s (s.trapFirst c) := by
  unfold State.trapFirst
  split
  · exact .refl s
  · split
    · exact heldKept_takeMarked ..
    · exact .refl s

theorem heldKept_stopCtx (s : State) (c : CtxId) : HeldKept s (s.stopCtx c) := by
  refine (((heldKept_trapFirst s c).trans (killBoundary_spec _ c).1).trans (heldKept_loseResv _ c)).modCtx fun x => ?_
  unfold Ctx.again
  split <;> exact ⟨rfl, rfl⟩

end Sys2Proof.ModuleParts

namespace Sys2Proof.ModuleParts
open Sys2Proof Sys2Proof.Machine Sys2Proof.Safety

/-! ### Priority pre-emption and restores (R288, R289) -/

section Priority
variable {s : State} {core : CoreId}

/-- PRE is in the row of every bound context of a core that is taken, and their being bound is as before. -/
theorem setPre_spec (s : State) (core : CoreId) : ∀ d ∈ s.boundOn core, ((s.setPre core).ctx d).row.pre = true := by
  have key : ∀ (l : List CtxId) (t : State) (d : CtxId), d ∈ l ∨ (t.ctx d).row.pre = true →
      ((l.foldl (fun t c => (t.stopCtx c).modCtx c fun x => { x with row := { x.row with pre := true } }) t).ctx d).row.pre = true := by
    intro l
    induction l with
    | nil => intro t d h; exact h.resolve_left List.not_mem_nil
    | cons c r ih =>
      intro t d h
      refine ih _ d ?_
      rw [State.ctx_modCtx]
      by_cases hd : d = c
      · exact Or.inr (by rw [if_pos hd])
      · rw [if_neg hd, (heldKept_stopCtx t c).row]
        exact h.imp_left fun h => (List.mem_cons.1 h).resolve_left hd
  exact fun d hd => key _ s d (Or.inl hd)

theorem priorityPreemption_due (hb : s.boundOn core ≠ []) (hpre : ∀ d ∈ s.boundOn core, (s.ctx d).row.pre = false)
    (hdue : s.preemptDue core = true) (hx : s.crossing (dieOf core) = false) :
    exec (.priorityPreemption core) s = .next (s.setPre core) := by
  have he : exec (.priorityPreemption core) s = if (s.boundOn core).isEmpty || s.crossing (dieOf core) then .next s
    else if (s.boundOn core).any fun c => (s.ctx c).row.pre then (if s.coreDrained core then .next (s.saveCore core) else .next s)
    else if s.preemptDue core then .next (s.setPre core) else .next s := rfl
  rw [he, if_neg (by simp [hb, hx]), if_neg (by simpa using hpre), if_pos hdue]

theorem priorityPreemption_drained (hpre : ∃ d ∈ s.boundOn core, (s.ctx d).row.pre = true) (hd : s.coreDrained core = true)
    (hx : s.crossing (dieOf core) = false) : exec (.priorityPreemption core) s = .next (s.saveCore core) := by
  have he : exec (.priorityPreemption core) s = if (s.boundOn core).isEmpty || s.crossing (dieOf core) then .next s
    else if (s.boundOn core).any fun c => (s.ctx c).row.pre then (if s.coreDrained core then .next (s.saveCore core) else .next s)
    else if s.preemptDue core then .next (s.setPre core) else .next s := rfl
  have hb : s.boundOn core ≠ [] := by
    obtain ⟨d, hd, -⟩ := hpre
    exact List.ne_nil_of_mem hd
  rw [he, if_neg (by simp [hb, hx]), if_pos (by simpa using hpre), if_pos hd]

/-- A table that takes, key by key, the value of a function of the key. -/
theorem tget_foldl_tset {α : Type} [DecidableEq α] {d : α} (f : Nat → α) (l : List Nat) (m : List (Nat × α)) (k : Nat) :
    tget d (l.foldl (fun m c => tset d m c (f c)) m) k = if k ∈ l then f k else tget d m k := by
  induction l generalizing m with
  | nil => simp
  | cons c r ih =>
    rw [List.foldl_cons, ih, tget_tset]
    by_cases hk : k = c
    · subst hk; simp
    · simp [hk]

/-- Contexts that are set one by one. -/
theorem foldl_setCtx (f : CtxId → Ctx) (l : List CtxId) (s : State) :
    l.foldl (fun t c => t.setCtx c (f c)) s = { s with ctxs := l.foldl (fun m c => tset Ctx.reset m c (f c)) s.ctxs } := by
  induction l generalizing s with
  | nil => rfl
  | cons c r ih => rw [List.foldl_cons, ih]; rfl

theorem ctx_foldl_setCtx (f : CtxId → Ctx) (l : List CtxId) (s : State) (d : CtxId) :
    (l.foldl (fun t c => t.setCtx c (f c)) s).ctx d = if d ∈ l then f d else s.ctx d := by
  rw [foldl_setCtx]
  exact tget_foldl_tset f l s.ctxs d

/-- The contexts in the image of a core, with PRE taken from their rows. -/
def imageCtxs (s : State) (core : CoreId) : SMap Ctx :=
  (ctxsOf core).foldl (fun m c => tset Ctx.reset m c { s.ctx c with row := { (s.ctx c).row with pre := false } }) []

theorem saved_saveCore (s : State) (core : CoreId) :
    (s.saveCore core).saved = tset [] s.saved core ((s.core core, imageCtxs s core) :: s.images core) := by
  rw [State.saveCore, foldl_setCtx]
  rfl

theorem ctx_saveCore (s : State) {core : CoreId} {d : CtxId} (hd : d ∈ ctxsOf core) : (s.saveCore core).ctx d = Ctx.reset := by
  rw [State.saveCore, ctx_foldl_setCtx (fun _ => Ctx.reset), if_pos hd]

/-- The image of a core that is saved: the core and its contexts. -/
theorem saveCore_spec (s : State) (core : CoreId) : ∃ xs, tget [] (s.saveCore core).saved core = (s.core core, xs) :: tget [] s.saved core ∧
    ∀ d ∈ ctxsOf core, (s.saveCore core).ctx d = Ctx.reset ∧
      tget Ctx.reset xs d = { s.ctx d with row := { (s.ctx d).row with pre := false } } := by
  refine ⟨imageCtxs s core, ?_, fun d hd => ⟨ctx_saveCore s hd, ?_⟩⟩
  · rw [saved_saveCore, tget_tset_same]
    rfl
  · rw [imageCtxs, tget_foldl_tset, if_pos hd]

/-- A core whose image has mates on no other core is restored alone. -/
theorem allMates_alone (h : ∀ d ∈ s.mateCores core, d = core) (fuel : Nat) : s.allMates fuel [core] = [core] := by
  have hfold : ∀ l : List CoreId, (∀ d ∈ l, d = core) → l.foldl (fun m d => if m.contains d then m else m ++ [d]) [core] = [core] := by
    intro l hl
    induction l with
    | nil => rfl
    | cons d r ih =>
      obtain ⟨hd, hr⟩ := List.forall_mem_cons.1 hl
      rw [List.foldl_cons, if_pos (by simp [hd])]
      exact ih hr
  induction fuel with
  | zero => rfl
  | succ n ih =>
    rw [State.allMates, List.map_singleton, List.flatten_singleton, hfold _ h]
    exact ih

theorem coreRestore_eq (hi : s.images core ≠ []) (hm : ∀ d ∈ s.mateCores core, d = core) (ht : s.together core = true)
    (hb : s.boundOn core = []) (hd : s.coreDrained core = true) (hx : s.crossing (dieOf core) = false) :
    exec (.coreRestore core) s = .next (s.restoreCore core) := by
  have he : exec (.coreRestore core) s = (let cores := s.allMates s.saved.length [core]
    if (s.images core).isEmpty || cores.any (fun c => s.crossing (dieOf c)) || !cores.all s.freeForImage || !cores.all s.together then .next s
    else .next (cores.foldl State.restoreCore s)) := rfl
  rw [he, allMates_alone hm]
  refine if_neg ?_
  simp [hi, hx, State.freeForImage, hb, hd, ht]

/-- The image comes back whole. -/
theorem restoreCore_spec {i : Core} {xs : SMap Ctx} {rest : List (Core × SMap Ctx)} (hi : tget [] s.saved core = (i, xs) :: rest) :
    tget [] (s.restoreCore core).saved core = rest ∧ (∀ d ∈ ctxsOf core, (s.restoreCore core).ctx d = tget Ctx.reset xs d) ∧
      ((s.restoreCore core).core core).s = i.s ∧ ((s.restoreCore core).core core).p = i.p ∧ ((s.restoreCore core).core core).q = i.q ∧
      ((s.restoreCore core).core core).tt = i.tt ∧ ((s.restoreCore core).core core).mb = i.mb ∧
      ((s.restoreCore core).core core).cycle = (s.core core).cycle := by
  have hi' : s.images core = (i, xs) :: rest := hi
  have hcore (t : State) (m : SMap Ctx) : State.core { t with ctxs := m } core = t.core core := rfl
  unfold State.restoreCore
  rw [hi']
  dsimp only
  refine ⟨?_, fun d hd => ?_, ?_⟩
  · rw [foldl_setCtx]
    exact tget_tset_same ..
  · rw [ctx_foldl_setCtx, if_pos hd]
  · rw [foldl_setCtx, hcore, State.core_setCore_same]
    exact ⟨rfl, rfl, rfl, rfl, rfl, rfl⟩
end Priority

/-! ### Quotas (R290, R291) -/

section Quota
variable {s : State} {c : CtxId}

theorem spent_iff {x : Ctx} : x.spent = true ↔ x.row.v = true ∧ x.quota ≠ 0xFFFFFFFF ∧ x.cquota = 0 := by
  simp [Ctx.spent, and_assoc]

/-- A unit is in its own gang. -/
theorem mem_gang (s : State) (u : Unit_) : u ∈ s.gang u := by
  have hmates (us : List Unit_) (h : u ∈ us) : u ∈ s.withMates us := by
    have key : ∀ (gs : List (List Unit_)) (l : List Unit_), u ∈ l →
        u ∈ gs.foldl (fun l g => if g.any fun u => us.contains u then l ++ g.filter (fun u => !l.contains u) else l) l := by
      intro gs
      induction gs with
      | nil => exact fun l h => h
      | cons g r ih =>
        intro l h
        refine ih _ ?_
        dsimp only
        split
        · exact List.mem_append_left _ h
        · exact h
    exact key _ us h
  have hgang : ∀ (n : Nat) (us : List Unit_), u ∈ us → u ∈ s.gangOf n us := by
    intro n
    induction n with
    | zero => exact fun us h => h
    | succ n ih => exact fun us h => ih _ (hmates us h)
  exact hgang _ _ (List.mem_singleton_self u)

theorem quotaPreemption (hv : (s.ctx c).row.v = true) (hq : (s.ctx c).quota ≠ 0xFFFFFFFF) (hc : (s.ctx c).cquota = 0)
    (hh : (s.ctx c).quotaHeld = false) : ∃ t, exec (.quotaPreemption c) s = .next t ∧ (t.ctx c).quotaHeld = true := by
  refine ⟨_, if_pos (by rw [spent_iff.2 ⟨hv, hq, hc⟩, hh]; rfl), ?_⟩
  have hin : c ∈ ((s.gang (s.unitOf c)).filter fun u => s.bound u && !(s.ctx u.1).quotaHeld).map Prod.fst :=
    List.mem_map.2 ⟨s.unitOf c, List.mem_filter.2 ⟨mem_gang s _, by simp [State.bound, State.unitOf, hv, hh]⟩, rfl⟩
  have key : ∀ (l : List CtxId) (t : State), c ∈ l ∨ (t.ctx c).quotaHeld = true →
      ((l.foldl (fun t c => (t.stopCtx c).modCtx c fun y => { y with quotaHeld := true }) t).ctx c).quotaHeld = true := by
    intro l
    induction l with
    | nil => intro t h; exact h.resolve_left List.not_mem_nil
    | cons d r ih =>
      intro t h
      refine ih _ ?_
      rw [State.ctx_modCtx]
      by_cases hd : c = d
      · exact Or.inr (by rw [if_pos hd])
      · rw [if_neg hd, (heldKept_stopCtx t d).quotaHeld]
        exact h.imp_left fun h => (List.mem_cons.1 h).resolve_left hd
  exact key _ s (Or.inl hin)

/-- A table of contexts that each take a change. -/
theorem tget_map_ctxs (f : CtxId → Ctx → Ctx) (l : List (CtxId × Ctx)) (d : CtxId) (h : tget Ctx.reset l d ≠ Ctx.reset) :
    tget Ctx.reset (l.map fun e => (e.1, f e.1 e.2)) d = f d (tget Ctx.reset l d) := by
  induction l with
  | nil => exact absurd rfl h
  | cons e r ih =>
    rw [List.map_cons, tget, tget]
    rw [tget] at h
    split
    · next e' => rw [e']
    · next hne => rw [if_neg hne] at h; exact ih h

theorem ne_reset_of_bound {x : Ctx} (h : x.row.v = true) : x ≠ Ctx.reset := by
  rintro rfl
  cases h

/-- A job's refill with no gang: each of its contexts has its quota again, and goes on if that is not 0. -/
theorem quotaRefill {job : Nat} {j : Job} (hj : s.job job = some j) (hg : s.gangs = []) :
    ∃ t, exec (.quotaRefill job) s = .next t ∧
      ∀ d, (s.ctx d).row.v = true → (s.ctx d).row.job.toNat = job → (t.ctx d).cquota = (s.ctx d).quota ∧
        ((s.ctx d).quota ≠ 0 → (t.ctx d).quotaHeld = false) := by
  let s1 : State := { s with
    ctxs := s.ctxs.map fun e => (e.1, Ctx.refill job e.2)
    saved := s.saved.map fun e => (e.1, e.2.map fun q => (q.1, q.2.map fun y => (y.1, Ctx.refill job y.2))) }
  have he : exec (.quotaRefill job) s = .next { s1 with
      ctxs := s1.ctxs.map fun e => (e.1, s1.releaseHeld e.1 e.2)
      saved := s1.saved.map fun e => (e.1, e.2.map fun q => (q.1, q.2.map fun y => (y.1, s1.releaseHeld y.1 y.2))) } := by
    change execQuotaRefill job s = _
    unfold execQuotaRefill
    rw [hj]
  refine ⟨_, he, fun d hv hjob => ?_⟩
  have h1 : s1.ctx d = { s.ctx d with cquota := (s.ctx d).quota } :=
    (tget_map_ctxs (fun _ => Ctx.refill job) s.ctxs d (ne_reset_of_bound hv)).trans (if_pos ⟨hv, hjob⟩)
  have hv1 : (s1.ctx d).row.v = true := by rw [h1]; exact hv
  have h2 : State.ctx { s1 with
      ctxs := s1.ctxs.map fun e => (e.1, s1.releaseHeld e.1 e.2)
      saved := s1.saved.map fun e => (e.1, e.2.map fun q => (q.1, q.2.map fun y => (y.1, s1.releaseHeld y.1 y.2))) } d =
      s1.releaseHeld d (s1.ctx d) := tget_map_ctxs s1.releaseHeld s1.ctxs d (ne_reset_of_bound hv1)
  rw [h2]
  have hquota : (s1.ctx d).cquota = (s.ctx d).quota := by rw [h1]
  refine ⟨?_, fun hq => ?_⟩
  · unfold State.releaseHeld
    split <;> exact hquota
  · have hgang : s1.gang (d, (s1.ctx d).row.launch.toNat) = [(d, (s1.ctx d).row.launch.toNat)] := by
      have hg1 : s1.gangs = [] := hg
      rw [State.gang, hg1]
      rfl
    have hspent : (s1.ctx d).spent = false := by
      rw [← Bool.not_eq_true, spent_iff, hquota]
      exact fun h => hq h.2.2
    have hfilled : s1.gangFilled (d, (s1.ctx d).row.launch.toNat) = true := by
      rw [State.gangFilled, hgang]
      simp [State.held, State.bound, hv1, hspent]
    unfold State.releaseHeld
    rw [hfilled, Bool.and_true]
    cases hheld : (s1.ctx d).quotaHeld
    · exact hheld
    · rfl
end Quota
end Sys2Proof.ModuleParts

namespace Sys2Proof.ModuleParts
open Sys2Proof Sys2Proof.Machine Sys2Proof.Safety

/-! ### The debugger (R345, R364 to R366) -/

section Debugger
variable {s : State} {c : CtxId}

theorem invasive_iff : s.invasive = true ↔ s.mgmt.dbg = .invasive := beq_iff_eq

theorem readG_of_g {x y : Ctx} (h : y.g = x.g) (r : GReg) : y.readG r = x.readG r := by
  unfold Ctx.readG
  rw [h]

/-- A context with no precise trap at the tape is not trapped by a request to stop it. -/
theorem trapFirst_unmarked (h : ∀ q, (s.core (coreOf c)).pipe.atTape (kOf c) = some q → q.mark = none) : s.trapFirst c = s := by
  unfold State.trapFirst
  split
  · rfl
  · next q hq => exact if_neg (by simp [h q hq])

theorem debuggerHalt (hd : s.mgmt.dbg = .invasive) (hv : (s.ctx c).row.v = true) (hh : (s.ctx c).dbgHalt = false) :
    ∃ t, exec (.debuggerHalt c) s = .next t ∧ (t.ctx c).dbgHalt = true ∧
      ((∀ q, (s.core (coreOf c)).pipe.atTape (kOf c) = some q → q.mark = none) → ∀ r, (t.ctx c).readG r = (s.ctx c).readG r) := by
  refine ⟨_, if_pos (by simp [invasive_iff.2 hd, hv, hh]), ?_, fun hm r => readG_of_g ?_ r⟩
  · rw [State.ctx_modCtx_same]
  · rw [State.ctx_modCtx_same, trapFirst_unmarked hm]
    exact (killBoundary_spec s c).2 c

/-- A halted context as it goes on, in the words of the statement. -/
def resumed (x : Ctx) : Ctx :=
  let run := if x.run = .halted then .active else x.run
  let inside : Bool := decide (x.loopStart.toNat ≤ x.pc.toNat ∧ x.pc.toNat < x.loopEnd.toNat) && x.loopCount != 0
  let y : Ctx := if x.pinned = true then x else { x with loopBuf := [], pinned := inside }
  { y with dbgHalt := false, bpArmed := x.bps, run := run }

theorem resume_eq (x : Ctx) : x.resume = resumed x := by
  unfold Ctx.resume Ctx.again Ctx.repin resumed
  dsimp only
  by_cases h : x.pinned = true
  · rw [if_pos h, if_pos h]
  · rw [if_neg h, if_neg h]

theorem stopped_iff {x : Ctx} : x.stopped = true ↔ x.dbgHalt = true ∨ x.run = .halted := by simp [Ctx.stopped]

theorem debuggerResume (hd : s.mgmt.dbg = .invasive) (hv : (s.ctx c).row.v = true) (hs : (s.ctx c).dbgHalt = true ∨ (s.ctx c).run = .halted) :
    exec (.debuggerResume c) s = .next (s.setCtx c (resumed (s.ctx c))) ∧
    exec (.debuggerStep c) s = .next { s.setCtx c { resumed (s.ctx c) with dbgHalt := true, stepping := true } with agenda := .context c :: s.agenda } := by
  have hc : (s.invasive && (s.ctx c).row.v && (s.ctx c).stopped) = true := by rw [invasive_iff.2 hd, hv, stopped_iff.2 hs]; rfl
  rw [← resume_eq]
  exact ⟨if_pos hc, if_pos hc⟩

theorem debuggerWrite_g (hd : s.mgmt.dbg = .invasive) (g : GReg) (vw : VWord) :
    (∃ t, exec (.debuggerWrite (.g c g) (some vw)) s = .next t ∧
      ∀ r, (t.ctx c).readG r = if r = g ∧ r ≠ 0 then vw.setWidth 64 else (s.ctx c).readG r) ∧
    exec (.debuggerWrite (.g c g) none) s = .next { s with mgmt := { s.mgmt with debugData := ((s.ctx c).readG g).setWidth 512 } } := by
  have hw : exec (.debuggerWrite (.g c g) (some vw)) s = .next (if s.invasive then s.poke vw (.g c g) else s) := rfl
  refine ⟨⟨_, hw, fun r => ?_⟩, if_pos (invasive_iff.2 hd)⟩
  rw [if_pos (invasive_iff.2 hd), State.poke, State.ctx_modCtx_same, Ctx.readG_writeG]
  by_cases hr : r = g <;> by_cases h0 : r = 0 <;> simp_all

theorem breakpoint_write (hd : s.mgmt.dbg = .invasive) (core : CoreId) (n : Fin 4) (v : Word) :
    (∃ t, exec (.bpaddrWrite core n v) s = .next t ∧ tget Breakpoint.zero (t.core core).bp n.val =
      { tget Breakpoint.zero (s.core core).bp n.val with addr := v.extractLsb' 2 62 }) ∧
    (∃ t, exec (.bpctlWrite core n v) s = .next t ∧ tget Breakpoint.zero (t.core core).bp n.val =
      { tget Breakpoint.zero (s.core core).bp n.val with act := v.getLsbD 17, en := v.getLsbD 16, ctx := v.extractLsb' 0 16 }) := by
  refine ⟨⟨_, if_pos (invasive_iff.2 hd), ?_⟩, ⟨_, if_pos (invasive_iff.2 hd), ?_⟩⟩ <;>
    (rw [State.core_modCore_same]; exact tget_tset_same ..)

/-- At another debug level no debugger event does anything. -/
theorem debugger_off (hd : s.mgmt.dbg ≠ .invasive) (core : CoreId) (n : Fin 4) (v : Word) (target : DebugTarget) (vw : VWord) (g : GReg) :
    ∀ i ∈ [Instr.debuggerHalt c, .debuggerResume c, .debuggerStep c, .debuggerWrite target (some vw), .debuggerWrite (.g c g) none,
      .bpaddrWrite core n v, .bpctlWrite core n v], exec i s = .next s := by
  have hi : s.invasive = false := by rw [← Bool.not_eq_true, invasive_iff]; exact hd
  have hcond (a b : Bool) : ¬(s.invasive && a && b) = true := by rw [hi]; simp
  have hnot : ¬s.invasive = true := by rw [hi]; simp
  simp only [List.forall_mem_cons, List.not_mem_nil, false_imp_iff, implies_true, and_true]
  exact ⟨if_neg (hcond _ _), if_neg (hcond _ _), if_neg (hcond _ _), congrArg Host.Outcome.next (if_neg hnot), if_neg hnot, if_neg hnot, if_neg hnot⟩
end Debugger

/-! ### The core table and retirement (R18, R402) -/

/-- The physical core that a table gives after an entry has been put in. -/
theorem phys_remap (q : Cluster) (c p : Nat) : (q.remap c p).phys c = p := by
  have herase : (terase q.coreTable c).find? (fun e => e.1 == c) = none :=
    List.find?_eq_none.2 fun e he h => by
      obtain ⟨k, v⟩ := e
      rw [beq_iff_eq] at h
      cases h
      exact terase_not_mem _ _ v he
  have hinsert : ∀ m : SMap Nat, m.find? (fun e => e.1 == c) = none → (tinsert m c p).find? (fun e => e.1 == c) = some (c, p) := by
    intro m hm
    induction m with
    | nil => simp [tinsert]
    | cons e r ih =>
      obtain ⟨k, v⟩ := e
      have hk : (k == c) = false := by
        have := List.find?_eq_none.1 hm (k, v) (List.mem_cons_self ..)
        simpa using this
      have hr : r.find? (fun e => e.1 == c) = none := by
        rwa [List.find?_cons_of_neg (by simp [hk])] at hm
      rw [tinsert]
      split
      · simp
      · rw [List.find?_cons_of_neg (by simp [hk])]
        exact ih hr
  unfold Cluster.remap Cluster.phys
  by_cases h : p = c
  · simp [h, herase]
  · simp [h, tput, hinsert _ herase]

theorem phys_retire (q : Cluster) (c p : Nat) : (q.retire c p).phys c = p := phys_remap q c p

section Repair
variable {s : State} {core : CoreId}

/-- CORE_REMAP puts a spare in the place of a core. -/
theorem coreRemap {cl : ClusterId} (l : Fin 32) (phys : Fin 34) (at_ : CoreId) (hat : at_ = mkId (xOf cl) (yOf cl) l.val 0)
    (hidle : ∀ d ∈ ctxsOf at_, (s.ctx d).run = .idle ∨ (s.ctx d).quotaHeld = true ∨ (s.ctx d).row.pre = true)
    (hd : s.coreDrained at_ = true) (hx : s.crossing (dieOf at_) = false) (hs : phys.val ∈ (s.cluster (clusterOf at_)).spares) :
    ∃ t, exec (.coreRemap cl l phys) s = .next t ∧
      (t.cluster (clusterOf at_)).phys l.val = phys.val ∧ (t.core at_).feWait = (s.core at_).feWait ∧
      ((∀ d ∈ ctxsOf at_, (s.ctx d).row.v = false) → (t.core at_).s = Mem.empty ∧ (t.core at_).tt = []) ∧
      ((∃ d ∈ ctxsOf at_, (s.ctx d).row.v = true) → t.core at_ = s.core at_) := by
  subst hat
  refine ⟨_, if_pos ?_, ?_, ?_, fun hfree => ?_, fun hbound => ?_⟩
  · have hi : ((ctxsOf (mkId (xOf cl) (yOf cl) l.val 0)).all fun x => (s.ctx x).run == .idle || (s.ctx x).quotaHeld || (s.ctx x).row.pre) = true :=
      List.all_eq_true.2 fun d hd => by simpa [or_assoc] using hidle d hd
    rw [hi, hx, hd]
    simpa using hs
  · rw [State.modCore_cluster, State.cluster_modCluster_same]
    exact phys_remap ..
  · rw [State.core_modCore_same]
    split <;> rfl
  · have hb : s.boundOn (mkId (xOf cl) (yOf cl) l.val 0) = [] := List.filter_eq_nil_iff.2 fun d hd => by simp [hfree d hd]
    rw [State.core_modCore_same, hb]
    exact ⟨rfl, rfl⟩
  · have hb : (s.boundOn (mkId (xOf cl) (yOf cl) l.val 0)).isEmpty = false := by
      obtain ⟨d, hd, hv⟩ := hbound
      rw [List.isEmpty_eq_false_iff]
      exact List.ne_nil_of_mem (List.mem_filter.2 ⟨hd, hv⟩)
    rw [State.core_modCore_same, hb]
    rfl

/-- Notices of a retirement change global memory only. -/
theorem retireNotice_eq (s : State) (core : CoreId) (noSpare : Bool) :
    ∃ g p, s.retireNotice core noSpare = { s with gmem := g, pages := p } := by
  unfold State.retireNotice
  exact foldl_rel (R := fun t u => ∃ g p, u = { t with gmem := g, pages := p }) (fun _ => ⟨_, _, rfl⟩)
    (fun ⟨_, _, h⟩ ⟨g, p, h'⟩ => ⟨g, p, by rw [h', h]⟩) (fun t j => notice_eq t j 4 0 core (bit noSpare)) _ s

theorem coreRetirement_eq (h3 : ∃ e ∈ (s.core core).singles, 3 ≤ e.2) (hx : s.crossing (dieOf core) = false) :
    exec (.coreRetirement core) s = match (s.cluster (clusterOf core)).spares with
      | [] => .next ((s.retireNotice core true).modCore core fun k => { k with singles := [] })
      | p :: _ =>
        if (s.boundOn core).any (fun c => !(s.ctx c).row.pre) then .next (s.setPre core)
        else if !s.coreDrained core then .next s
        else
          let s1 := (s.modCluster (clusterOf core) fun q => q.retire (cOf core) p).modCore core fun k =>
            { k with s := k.s.corrected, p := k.p.corrected, q := k.q.corrected, singles := [], detections := 0 }
          let s2 := (s1.boundOn core).foldl (fun t c => t.modCtx c fun x => { x with row := { x.row with pre := false } }) s1
          .next (s2.retireNotice core false) := by
  refine if_neg ?_
  simpa [hx] using h3

/-- PRE is taken from the rows of a list of contexts. -/
theorem unpre_spec (l : List CtxId) (t : State) :
    (∀ d ∈ l, ((l.foldl (fun t c => t.modCtx c fun x => { x with row := { x.row with pre := false } }) t).ctx d).row.pre = false) ∧
      ∀ k, (l.foldl (fun t c => t.modCtx c fun x => { x with row := { x.row with pre := false } }) t).cluster k = t.cluster k := by
  have hcl : ∀ k, (l.foldl (fun t c => t.modCtx c fun x => { x with row := { x.row with pre := false } }) t).cluster k = t.cluster k :=
    fun k => foldl_keeps (fun t : State => t.cluster k) (f := fun t c => t.modCtx c fun x => { x with row := { x.row with pre := false } })
      (fun _ _ => rfl) l t
  refine ⟨?_, hcl⟩
  have key : ∀ (l : List CtxId) (t : State) (d : CtxId), d ∈ l ∨ (t.ctx d).row.pre = false →
      ((l.foldl (fun t c => t.modCtx c fun x => { x with row := { x.row with pre := false } }) t).ctx d).row.pre = false := by
    intro l
    induction l with
    | nil => intro t d h; exact h.resolve_left List.not_mem_nil
    | cons c r ih =>
      intro t d h
      refine ih _ d ?_
      rw [State.ctx_modCtx]
      by_cases hd : d = c
      · exact Or.inr (by rw [if_pos hd])
      · rw [if_neg hd]
        exact h.imp_left fun h => (List.mem_cons.1 h).resolve_left hd
  exact fun d hd => key l t d (Or.inl hd)

theorem coreRetirement (h3 : ∃ e ∈ (s.core core).singles, 3 ≤ e.2) (hx : s.crossing (dieOf core) = false) :
    ((s.cluster (clusterOf core)).spares = [] → ∃ t, exec (.coreRetirement core) s = .next t ∧ (t.core core).singles = [] ∧
      (t.cluster (clusterOf core)).coreTable = (s.cluster (clusterOf core)).coreTable) ∧
    (∀ p rest, (s.cluster (clusterOf core)).spares = p :: rest → (∃ d ∈ s.boundOn core, (s.ctx d).row.pre = false) →
      ∃ t, exec (.coreRetirement core) s = .next t ∧ ∀ d ∈ s.boundOn core, (t.ctx d).row.pre = true) ∧
    (∀ p rest, (s.cluster (clusterOf core)).spares = p :: rest → (∀ d ∈ s.boundOn core, (s.ctx d).row.pre = true) → s.coreDrained core = true →
      ∃ t, exec (.coreRetirement core) s = .next t ∧ (t.cluster (clusterOf core)).phys (cOf core) = p ∧
        ∀ d ∈ s.boundOn core, (t.ctx d).row.pre = false) := by
  have he := coreRetirement_eq h3 hx
  refine ⟨fun hs => ?_, fun p rest hs hpre => ?_, fun p rest hs hpre hd => ?_⟩ <;> rw [hs] at he
  · refine ⟨_, he, ?_, ?_⟩
    · rw [State.core_modCore_same]
    · obtain ⟨g, pg, hn⟩ := retireNotice_eq s core true
      rw [State.modCore_cluster, hn]
      rfl
  · refine ⟨s.setPre core, he.trans (if_pos ?_), setPre_spec s core⟩
    simpa using hpre
  · have hany : ¬((s.boundOn core).any fun c => !(s.ctx c).row.pre) = true := by simpa using hpre
    refine ⟨_, he.trans ((if_neg hany).trans (if_neg (by simp [hd]))), ?_, fun d hd => ?_⟩
    · dsimp only
      obtain ⟨g, pg, hn⟩ := retireNotice_eq (List.foldl _ _ _) core false
      rw [hn]
      refine (congrArg (Cluster.phys · (cOf core)) ((unpre_spec _ _).2 (clusterOf core))).trans ?_
      rw [State.modCore_cluster, State.cluster_modCluster_same]
      exact phys_retire ..
    · dsimp only
      obtain ⟨g, pg, hn⟩ := retireNotice_eq (List.foldl _ _ _) core false
      rw [hn]
      exact (unpre_spec _ _).1 d hd
end Repair
end Sys2Proof.ModuleParts

namespace Sys2Proof.ModuleParts
open Sys2Proof Sys2Proof.Machine Sys2Proof.Safety

/-! ### Scrubbing (R400, R401) -/

/-- A word as a scrubber leaves it. -/
def scrubbed : WordMark → WordMark
  | .sound => .sound
  | .single => .sound
  | .latent => .poisoned
  | .poisoned => .poisoned

theorem scrubbed_scrubbed (m : WordMark) : scrubbed (scrubbed m) = scrubbed m := by cases m <;> rfl

/-- A change of the entries of a list of keys that does no more when it is made twice. -/
theorem tget_foldl_update {α : Type} [DecidableEq α] {d : α} {f : α → α} (hf : ∀ x, f (f x) = f x) (l : List Nat) (m : List (Nat × α)) (k : Nat) :
    tget d (l.foldl (fun m c => tset d m c (f (tget d m c))) m) k = if k ∈ l then f (tget d m k) else tget d m k := by
  induction l generalizing m with
  | nil => simp
  | cons c r ih =>
    rw [List.foldl_cons, ih, tget_tset]
    by_cases hk : k = c
    · subst hk; simp [hf]
    · simp [hk]

theorem wordMark_scrub (m : Mem) {line n w : Nat} (h : w ∈ span (line * (n / 8)) (n / 8)) :
    (m.scrub line n).wordMark w = scrubbed (m.wordMark w) :=
  (tget_foldl_update scrubbed_scrubbed _ m.mark w).trans (if_pos h)

theorem scrub_coreS (s : State) (core : CoreId) {line w : Nat} (h1 : 16 * line ≤ w) (h2 : w < 16 * line + 16) :
    ∃ t, exec (.scrub (.coreS core) line) s = .next t ∧ Claim.SameBytes s t ∧
      (t.core core).s.wordMark w = scrubbed ((s.core core).s.wordMark w) := by
  refine ⟨_, rfl, sameBytes_modCore _ _ _ fun _ => ⟨rfl, rfl, rfl⟩, ?_⟩
  rw [State.core_modCore_same]
  exact wordMark_scrub _ (mem_span.2 (by omega))

theorem scrub_hbm (s : State) {line w : Nat} (h1 : 8 * line ≤ w) (h2 : w < 8 * line + 8) :
    ∃ t, exec (.scrub .hbm line) s = .next t ∧ Claim.SameBytes s t ∧ t.gmem.wordMark w = scrubbed (s.gmem.wordMark w) :=
  ⟨_, rfl, ⟨fun _ => rfl, fun _ _ => ⟨rfl, rfl, rfl⟩⟩, wordMark_scrub _ (mem_span.2 (by omega))⟩

/-! ### The limits of waits (R403 to R405) -/

section Limit
variable {s : State} {c : CtxId}

theorem waitCeaddr_eq {kind : Nat} (obj : BitVec 32) (limit : BitVec 16) (hk : kind < 2 ^ 16) :
    waitCeaddr kind obj limit = BitVec.ofNat 64 (kind + 2 ^ 16 * limit.toNat + 2 ^ 32 * obj.toNat) := by
  apply BitVec.eq_of_toNat_eq
  unfold waitCeaddr
  rw [BitVec.toNat_append, BitVec.toNat_append, BitVec.toNat_ofNat, BitVec.toNat_ofNat, Nat.mod_eq_of_lt hk, Nat.mod_eq_of_lt (by have := limit.isLt; have := obj.isLt; omega),
    ← Nat.shiftLeft_add_eq_or_of_lt hk, ← Nat.shiftLeft_add_eq_or_of_lt limit.isLt, Nat.shiftLeft_eq, Nat.shiftLeft_eq]
  omega

theorem waitLimit_overdue {kind : Nat} {obj : BitVec 32} (h : s.overdueLoad c = none) (hb : s.boundedWait c = some (kind, obj, false))
    (h0 : (s.ctx c).waitLimit ≠ 0) (hl : (s.ctx c).waitLimit.toNat < (s.ctx c).waitLaps) :
    exec (.waitLimit c) s = .next (s.withdrawWait c (waitCeaddr kind obj (s.ctx c).waitLimit)) := by
  have he : exec (.waitLimit c) s = .next (s.limitWait c) := rfl
  rw [he, State.limitWait, h]
  dsimp only
  rw [hb]
  exact congrArg Host.Outcome.next (if_neg (by simpa [Nat.not_le.2 hl] using h0))

/-- A precise trap at task level. -/
theorem trap_task {u : State} (hl : u.me.hl = false) (cause : BitVec 8) (ceaddr cepc : Word) :
    u.trap cause ceaddr cepc = ((u.loseResv u.cur).modMe fun x => x.trapCsrs cause ceaddr cepc x.ir).modMe Ctx.enterHandler :=
  if_neg (by simp [hl])

theorem cur_trap_task {u : State} (hl : u.me.hl = false) (cause : BitVec 8) (ceaddr cepc : Word) : (u.trap cause ceaddr cepc).cur = u.cur := by
  rw [trap_task hl, State.modMe_cur, State.modMe_cur, cur_loseResv]

theorem me_trap_task {u : State} (hl : u.me.hl = false) (cause : BitVec 8) (ceaddr cepc : Word) :
    (u.trap cause ceaddr cepc).me = (({ u.me with resv := none } : Ctx).trapCsrs cause ceaddr cepc u.me.ir).enterHandler := by
  have hme : (u.loseResv u.cur).me = { u.me with resv := none } := by
    unfold State.me
    rw [cur_loseResv, ctx_loseResv]
  rw [trap_task hl, State.me_modMe, State.me_modMe, hme]

/-- A wait outside the pipe traps at once. -/
theorem withdrawWait_trap {ceaddr : Word} (hp : (s.core (coreOf c)).pipe.atTape (kOf c) = none) (hl : (s.ctx c).hl = false) :
    Claim.AtHandler s (s.withdrawWait c ceaddr) c 0x08 ceaddr (s.ctx c).pc := by
  let u : State := { (s.forget c).withdraw c with cur := c }
  have hu : u.me = { s.ctx c with met := false } := ctx_withdraw_forget s c
  have hul : u.me.hl = false := by rw [hu]; exact hl
  have hw : s.withdrawWait c ceaddr = { u.trap causeWait ceaddr (s.ctx c).pc with cur := ((s.forget c).withdraw c).cur } := by
    rw [State.withdrawWait, hp]
    rfl
  have hctx : (s.withdrawWait c ceaddr).ctx c = (u.trap causeWait ceaddr (s.ctx c).pc).me := by
    rw [hw, State.me, cur_trap_task hul]
    rfl
  unfold Claim.AtHandler
  rw [hctx, me_trap_task hul, hu]
  exact ⟨rfl, rfl, rfl, rfl, rfl, rfl, fun _ => rfl⟩

/-- A wait at the tape leaves the trap's mark on its packet. -/
theorem withdrawWait_mark {ceaddr : Word} {q : Packet} (hp : (s.core (coreOf c)).pipe.atTape (kOf c) = some q) :
    ∀ z ∈ ((s.withdrawWait c ceaddr).core (coreOf c)).pipe.retire, z.tag = q.tag → z.complete = true ∧ z.mark = some (0x08, ceaddr, q.addr) := by
  have hw : ((s.withdrawWait c ceaddr).core (coreOf c)).pipe = ((s.core (coreOf c)).pipe.modPacket q.tag fun z =>
      { z with complete := true, asks := none, mark := some (causeWait, ceaddr, q.addr) }) := by
    rw [State.withdrawWait, hp]
    dsimp only
    rw [State.modCtx_core, core_withdraw_pipe, pipe_forget, State.modPipe, State.core_modCore_same]
  intro z hz htag
  rw [hw] at hz
  obtain ⟨r, -, rfl⟩ := List.mem_map.1 hz
  by_cases hr : r.tag = q.tag
  · simp only [hr, beq_self_eq_true, if_true, true_and]
    rfl
  · simp [hr] at htag

/-- A load that the pipe holds comes back to its siding with the mark. -/
theorem waitLimit_load {q : Packet} {msg : Option Nat} {off : Nat} (h : s.overdueLoad c = some (q, msg, off))
    (hs : Instr.siding q.instr = some .ls) (hl : (s.ctx c).lap = false) :
    ∃ t e, exec (.waitLimit c) s = .next t ∧ e ∈ (t.core (coreOf c)).pipe.sidings ∧ e.result.tag = q.tag ∧
      e.result.mark = some (0x08, BitVec.ofNat 32 off ++ q.limit ++ 1#16, q.addr) := by
  have he : exec (.waitLimit c) s = .next (s.withdrawLoad c q msg off) := by
    have he : exec (.waitLimit c) s = .next (s.limitWait c) := rfl
    rw [he, State.limitWait, h]
  have hback (t : State) (ht : (t.ctx c).lap = false) (r : Result) :
      ∃ e ∈ ((t.loadBack c q r).core (coreOf c)).pipe.sidings, e.result = r := by
    unfold State.loadBack
    dsimp only
    rw [ht, State.modPipe, State.core_modCore_same]
    exact ⟨_, List.mem_append_right _ (List.mem_singleton_self _), rfl⟩
  have hlap (t : State) (h : (t.ctx c).lap = false) (ht : s.withdrawLoad c q msg off =
      t.loadBack c q (q.shell (causeWait, waitCeaddr 1 (BitVec.ofNat 32 off) q.limit, q.addr))) :
      ∃ t e, exec (.waitLimit c) s = .next t ∧ e ∈ (t.core (coreOf c)).pipe.sidings ∧ e.result.tag = q.tag ∧
        e.result.mark = some (0x08, BitVec.ofNat 32 off ++ q.limit ++ 1#16, q.addr) := by
    obtain ⟨e, hin, hr⟩ := hback t h (q.shell (causeWait, waitCeaddr 1 (BitVec.ofNat 32 off) q.limit, q.addr))
    exact ⟨_, e, he.trans (congrArg Host.Outcome.next ht), hin, by rw [hr]; rfl, by rw [hr]; rfl⟩
  cases hm : msg.bind s.msg with
  | none =>
    refine hlap (s.withdraw c) ?_ ?_
    · rw [State.withdraw, State.ctx_modCtx_same]; exact hl
    · rw [State.withdrawLoad, hm]; exact if_pos hs
  | some m =>
    cases hd : m.dest with
    | core core =>
      refine hlap ((s.modCore core fun k => k.unrecord c (some m.id)).dropMsg m.id) hl ?_
      rw [State.withdrawLoad, hm]
      dsimp only
      rw [hd]
      exact if_pos hs
    | home _ | port _ | directory _ | sequencer | controller _ | ctx _ =>
      refine hlap s hl ?_
      rw [State.withdrawLoad, hm]
      dsimp only
      rw [hd]
      exact if_pos hs
end Limit

/-- Settles O48: each clause from the lemma about its event. -/
theorem preemptionDebugAndRepairEvents : Obligations.PreemptionDebugAndRepairEvents := by
  intro s core c v n
  refine ⟨fun hb hpre hdue hx => ⟨_, priorityPreemption_due hb hpre hdue hx, setPre_spec s core⟩, fun hpre hd hx => ?_,
    fun i xs rest hi hm ht hb hd hx => ?_, fun hv hq hc hh => quotaPreemption hv hq hc hh, fun job j hj hg => quotaRefill hj hg,
    fun hd => ⟨fun hv hh => debuggerHalt hd hv hh, fun hv hs => debuggerResume hd hv hs, fun g vw => debuggerWrite_g hd g vw,
      breakpoint_write hd core n v⟩,
    fun hd target vw g => debugger_off hd core n v target vw g,
    fun l phys hidle hd hx hs => coreRemap l phys _ rfl hidle hd hx hs, fun h3 hx => coreRetirement h3 hx,
    fun line w h1 h2 => scrub_coreS s core h1 h2, fun line w h1 h2 => scrub_hbm s h1 h2,
    fun kind obj h hb h0 hl hk => ?_, fun q msg off h hs hl => waitLimit_load h hs hl⟩
  · obtain ⟨xs, hsaved, hctx⟩ := saveCore_spec s core
    exact ⟨_, xs, priorityPreemption_drained hpre hd hx, hsaved, hctx⟩
  · have hne : s.images core ≠ [] := by rw [State.images, hi]; exact List.cons_ne_nil _ _
    exact ⟨_, coreRestore_eq hne hm ht hb hd hx, restoreCore_spec hi⟩
  · have he := waitLimit_overdue h hb h0 hl
    rw [waitCeaddr_eq _ _ hk] at he
    exact ⟨fun hp hhl => ⟨_, he, withdrawWait_trap hp hhl⟩, fun q hp => ⟨_, he, withdrawWait_mark hp⟩⟩
end Sys2Proof.ModuleParts

namespace Sys2Proof.ModuleParts
open Sys2Proof Sys2Proof.Machine Sys2Proof.Safety

/-! ### Messages that leave the network (R100, R188, R266) -/

section Taking
variable (s : State) (m : Msg)

/-- A message that is received changes a core's count of messages, and nothing else. -/
theorem received_spec : (s.received m = s) ∨ ∃ c, s.received m = s.modCore c fun k => { k with msgCount := k.msgCount - 1, black := true } := by
  unfold State.received
  cases m.dest
  case core c =>
    dsimp only
    split
    · exact Or.inr ⟨c, rfl⟩
    · exact Or.inl rfl
  all_goals exact Or.inl rfl

theorem net_took : (s.took m).net = s.net.filter fun q => q.id != m.id := by
  change (s.received m).net.filter _ = _
  obtain h | ⟨c, h⟩ := received_spec s m <;> rw [h]
  rfl

theorem core_took (d : CoreId) : ∃ n b, (s.took m).core d = { s.core d with msgCount := n, black := b } := by
  change ∃ n b, (s.received m).core d = _
  obtain h | ⟨c, h⟩ := received_spec s m <;> rw [h]
  · exact ⟨_, _, rfl⟩
  · rw [State.core_modCore]
    split
    · next e => subst e; exact ⟨_, _, rfl⟩
    · exact ⟨_, _, rfl⟩

/-- What a message that has been taken leaves as it was. -/
theorem took_frame : (s.took m).gmem = s.gmem ∧ (s.took m).pages = s.pages ∧ (s.took m).dies = s.dies ∧ (s.took m).ctxs = s.ctxs := by
  change (s.received m).gmem = _ ∧ (s.received m).pages = _ ∧ (s.received m).dies = _ ∧ (s.received m).ctxs = _
  obtain h | ⟨c, h⟩ := received_spec s m <;> rw [h]
  · exact ⟨rfl, rfl, rfl, rfl⟩
  · exact ⟨rfl, rfl, rfl, rfl⟩

/-- What an answer leaves of the cores. -/
theorem core_answerTo (body : Body) (d : CoreId) : ∃ n b, (s.answerTo m body).core d = { s.core d with msgCount := n, black := b } :=
  core_took s m d

theorem gmem_answerTo (body : Body) : (s.answerTo m body).gmem = s.gmem := (took_frame s m).1
theorem pages_answerTo (body : Body) : (s.answerTo m body).pages = s.pages := (took_frame s m).2.1
theorem dies_answerTo (body : Body) : (s.answerTo m body).dies = s.dies := (took_frame s m).2.2.1

theorem sameBytes_answerTo (body : Body) : Claim.SameBytes s (s.answerTo m body) := by
  refine ⟨fun a => by rw [gmem_answerTo], fun c a => ?_⟩
  obtain ⟨n, b, h⟩ := core_answerTo s m body c
  rw [h]
  exact ⟨rfl, rfl, rfl⟩

variable {s m}

/-- An answer to a message from a state that holds the same messages. -/
theorem answered_answerTo {t : State} (h : t.net = s.net) (body : Body) : Claim.Answered s (t.answerTo m body) m body := by
  exact ⟨_, congrArg (fun l => l ++ [_]) ((net_took t m).trans (by rw [h])), rfl, rfl, rfl, rfl⟩

/-- A posted operation that no seal carries is acknowledged by an answer. -/
theorem ack_uncarried {t : State} (h : ∀ d ∈ t.dies, d.2.carried.contains m.id = false) (k : PostKind) : t.ack m k = t.answerTo m (.ack k m.id) := by
  refine if_neg ?_
  rw [Bool.not_eq_true, List.any_eq_false]
  intro d hd
  rw [h d hd]
  decide
end Taking
/-! ### Reservations that a write breaks (R193, R194) -/

/-- A state that differs in the reservations of contexts and of their holders only. -/
structure ResvKept (s t : State) : Prop where
  net : t.net = s.net
  dies : t.dies = s.dies
  gmem : t.gmem = s.gmem
  pages : t.pages = s.pages
  core : ∀ c, ∃ l, t.core c = { s.core c with resvs := l }
  cluster : ∀ c, ∃ l, t.cluster c = { s.cluster c with resvs := l }

theorem ResvKept.refl (s : State) : ResvKept s s := ⟨rfl, rfl, rfl, rfl, fun _ => ⟨_, rfl⟩, fun _ => ⟨_, rfl⟩⟩

theorem ResvKept.trans {s t u : State} (h : ResvKept s t) (h' : ResvKept t u) : ResvKept s u := by
  refine ⟨h'.net.trans h.net, h'.dies.trans h.dies, h'.gmem.trans h.gmem, h'.pages.trans h.pages, fun c => ?_, fun c => ?_⟩
  · obtain ⟨l, hl⟩ := h.core c
    obtain ⟨l', hl'⟩ := h'.core c
    exact ⟨l', by rw [hl', hl]⟩
  · obtain ⟨l, hl⟩ := h.cluster c
    obtain ⟨l', hl'⟩ := h'.cluster c
    exact ⟨l', by rw [hl', hl]⟩

theorem resvKept_loseResv (s : State) (c : CtxId) : ResvKept s (s.loseResv c) := by
  unfold State.loseResv
  split
  · exact .refl s
  · dsimp only
    split
    · refine ⟨rfl, rfl, rfl, rfl, fun d => ?_, fun d => ⟨(s.cluster d).resvs, ?_⟩⟩
      · simp only [State.core_modCore, State.modCtx_core]
        split
        · next e => exact ⟨(s.core d).resvs.filter fun q => q.ctx != c, by rw [e]⟩
        · exact ⟨(s.core d).resvs, rfl⟩
      · simp only [State.modCore_cluster, State.modCtx_cluster]
    · refine ⟨rfl, rfl, rfl, rfl, fun d => ⟨(s.core d).resvs, ?_⟩, fun d => ?_⟩
      · simp only [State.modCluster_core, State.modCtx_core]
      · simp only [State.cluster_modCluster, State.modCtx_cluster]
        split
        · next e => exact ⟨(s.cluster d).resvs.filter fun q => q.ctx != c, by rw [e]⟩
        · exact ⟨(s.cluster d).resvs, rfl⟩

theorem resvKept_foldl {β : Type} {f : State → β → State} (h : ∀ t b, ResvKept t (f t b)) (l : List β) (s : State) :
    ResvKept s (l.foldl f s) := foldl_rel ResvKept.refl ResvKept.trans h l s

theorem resvKept_breakResvs (s : State) (h : Holder) (a n : Nat) (writer : Option CtxId) : ResvKept s (s.breakResvs h a n writer) := by
  unfold State.breakResvs
  refine resvKept_foldl (fun t r => ?_) _ s
  split
  · exact resvKept_loseResv ..
  · exact .refl t

theorem ResvKept.sameBytes {s t : State} (h : ResvKept s t) : Claim.SameBytes s t := by
  refine ⟨fun a => by rw [h.gmem], fun c a => ?_⟩
  obtain ⟨l, hl⟩ := h.core c
  rw [hl]
  exact ⟨rfl, rfl, rfl⟩

/-! ### The undo buffer of a core (R112) -/

/-- A state in which lines of a core's S have been logged, in its undo buffer and not beyond. -/
structure BufferLogged (s t : State) (core : CoreId) (n : Nat) : Prop where
  net : t.net = s.net
  dies : t.dies = s.dies
  gmem : t.gmem = s.gmem
  logged : ∃ u w, t.core core = { s.core core with undo := u, written := w } ∧ u.length ≤ (s.core core).undo.length + n
  other : ∀ c, c ≠ core → t.core c = s.core c

/-- A line is logged in the undo buffer while that has room. -/
theorem logS_room {s : State} {core : CoreId} (line : Nat) (h : (s.core core).undo.length < 112) :
    ∃ t, s.logS core line = some t ∧ BufferLogged s t core 1 := by
  unfold State.logS
  dsimp only
  split
  · exact ⟨s, rfl, rfl, rfl, rfl, ⟨_, _, rfl, Nat.le_succ _⟩, fun _ _ => rfl⟩
  · refine ⟨_, rfl, rfl, rfl, rfl, ?_, fun c hc => ?_⟩
    · rw [State.core_modCore_same, State.core_modCore_same]
      exact ⟨_, _, rfl, by simp⟩
    · rw [State.core_modCore_other _ _ hc, State.core_modCore_other _ _ hc]

/-- Lines are logged in the undo buffer while that has room for all. -/
theorem logLines_room {core : CoreId} (ls : List Nat) {s : State} (h : (s.core core).undo.length + ls.length ≤ 112) :
    ∃ t, ls.foldl (fun t l => t.bind fun u => u.logS core l) (some s) = some t ∧ BufferLogged s t core ls.length := by
  induction ls generalizing s with
  | nil => exact ⟨s, rfl, rfl, rfl, rfl, ⟨_, _, rfl, Nat.le_refl _⟩, fun _ _ => rfl⟩
  | cons l r ih =>
    rw [List.length_cons] at h
    obtain ⟨t, ht, hl⟩ := logS_room l (s := s) (core := core) (by omega)
    obtain ⟨u, w, hc, hu⟩ := hl.logged
    have hlen : (t.core core).undo.length ≤ (s.core core).undo.length + 1 := by rw [hc]; exact hu
    obtain ⟨t', ht', hl'⟩ := ih (s := t) (by omega)
    obtain ⟨u', w', hc', hu'⟩ := hl'.logged
    refine ⟨t', by rw [List.foldl_cons, Option.bind_some, ht]; exact ht', hl'.net.trans hl.net, hl'.dies.trans hl.dies, hl'.gmem.trans hl.gmem,
      ⟨u', w', by rw [hc', hc], ?_⟩, fun c hc => (hl'.other c hc).trans (hl.other c hc)⟩
    rw [List.length_cons]
    omega

theorem length_span (lo n : Nat) : (span lo n).length = n := by
  induction n generalizing lo with
  | zero => rfl
  | succ n ih => rw [span, List.length_cons, ih]

/-- Up to 64 bytes lie on two lines of S at most. -/
theorem length_blocks_le {off n : Nat} (hn : n ≤ 64) : (blocks 128 off n).length ≤ 2 := by
  unfold blocks
  split
  · exact Nat.zero_le _
  · rw [length_span]
    omega

/-- A write of up to 64 bytes to S, whose undo buffer has room. -/
theorem writeS_room {s : State} {core : CoreId} {off n : Nat} (v : Nat) (writer : Option CtxId) (h : (s.core core).undo.length ≤ 100) (hn : n ≤ 64) :
    ∃ t, s.writeS core off n v writer = some t ∧ t.net = s.net ∧ t.dies = s.dies ∧ Claim.StoredS s t core off n v := by
  have hlen := length_blocks_le (off := off) hn
  obtain ⟨t, ht, hl⟩ := logLines_room (blocks 128 off n) (s := s) (core := core) (by omega)
  have hr := resvKept_breakResvs (t.modCore core fun k => { k with s := k.s.write 128 off n v }) (.bank core) off n writer
  have hw : s.writeS core off n v writer =
      some ((t.modCore core fun k => { k with s := k.s.write 128 off n v }).breakResvs (.bank core) off n writer) := by
    rw [State.writeS, State.logSRange, ht, Option.map_some]
  refine ⟨_, hw, by rw [hr.net, State.modCore_net, hl.net], by rw [hr.dies, State.modCore_dies, hl.dies], fun b => ?_, fun c b => ?_⟩
  · rw [hr.gmem, State.modCore_gmem, hl.gmem]
  · obtain ⟨l, hc⟩ := hr.core c
    rw [hc, State.core_modCore]
    by_cases e : c = core
    · subst e
      obtain ⟨u, w, hcore, -⟩ := hl.logged
      rw [if_pos rfl, hcore]
      refine ⟨?_, rfl, rfl⟩
      simp only [true_and]
      exact byte_write ..
    · rw [if_neg e, hl.other c e]
      exact ⟨by simp [e], rfl, rfl⟩

end Sys2Proof.ModuleParts

namespace Sys2Proof.ModuleParts
open Sys2Proof Sys2Proof.Machine Sys2Proof.Safety

/-! ### Messages at a core (R96, R439) -/

section AtCore
variable {s : State} {m : Msg} {core : CoreId}

theorem atCore_eq (hd : m.dest = .core core) (hw : s.waitsAt core m.launch = false) : s.atCore m = some core := by
  unfold State.atCore
  rw [hd]
  exact if_neg (by simp [hw])

/-- A store or an increment that arrives at its core. -/
theorem remoteWriteArrival_eq (h : Claim.AtCore s m core) : exec (.remoteWriteArrival m.id) s = match m.body with
    | .store k off size data fe ea => .next (s.serveStore m core k off size data fe ea)
    | .mbInc k i v => .next ((s.mbAdd core i.toNat v).ack m k)
    | _ => .next s := by
  obtain ⟨⟨hm, hready, hretry, hrec⟩, hdest, hwaits⟩ := h
  change execRemoteWriteArrival m.id s = _
  unfold execRemoteWriteArrival
  rw [hm]
  dsimp only
  rw [if_neg (by simp [hready, hretry, hrec]), atCore_eq hdest hwaits] <;> rfl

theorem remoteRequestArrival_eq (h : Claim.AtCore s m core) : exec (.remoteRequestArrival m.id) s = .next (s.serveRequest m core) := by
  obtain ⟨⟨hm, hready, hretry, hrec⟩, hdest, hwaits⟩ := h
  change execRemoteRequestArrival m.id s = _
  unfold execRemoteRequestArrival
  rw [hm]
  dsimp only
  rw [if_neg (by simp [hready, hretry, hrec]), atCore_eq hdest hwaits]

theorem uncarried_of_dies {t : State} (h : Claim.Uncarried s m) (hd : t.dies = s.dies) : Claim.Uncarried t m := by
  unfold Claim.Uncarried
  rw [hd]
  exact h

theorem storedS_answerTo {t : State} {off n v : Nat} (h : Claim.StoredS s t core off n v) (body : Body) :
    Claim.StoredS s (t.answerTo m body) core off n v := by
  obtain ⟨hg, hc⟩ := h
  refine ⟨fun b => by rw [gmem_answerTo]; exact hg b, fun c b => ?_⟩
  obtain ⟨x, y, h⟩ := core_answerTo t m body c
  rw [h]
  exact hc c b

/-- A plain posted store at its core. -/
theorem remoteWriteArrival_store {k : PostKind} {off size data : Nat} {ea : Word} (h : Claim.AtCore s m core) (hu : Claim.Uncarried s m)
    (hroom : (s.core core).undo.length ≤ 100) (hb : m.body = .store k off size data .plain ea) (hs : size ≤ 64)
    (hp : (s.core core).s.poisonedPart off size = false) :
    ∃ t, exec (.remoteWriteArrival m.id) s = .next t ∧ Claim.StoredS s t core off size data ∧ Claim.Answered s t m (.ack k m.id) := by
  obtain ⟨t, ht, hnet, hdies, hstored⟩ := writeS_room (off := off) data (some m.src) hroom hs
  have hbank : s.bankStore m.src (some m.id) core off size data .plain = .done t 0 := by
    unfold State.bankStore
    dsimp only
    rw [if_neg (by simp), if_neg (by simp [hp]), ht]
  refine ⟨t.answerTo m (.ack k m.id), ?_, storedS_answerTo hstored _, answered_answerTo hnet _⟩
  rw [remoteWriteArrival_eq h, hb]
  dsimp only
  rw [State.serveStore, hbank]
  exact congrArg Host.Outcome.next (ack_uncarried (uncarried_of_dies hu hdies) k)

/-- The counters of a core after one of them is put. -/
theorem mbPut_spec (s : State) (core : CoreId) (i : Nat) (v : BitVec 16) :
    (s.mbPut core i v).net = s.net ∧ (s.mbPut core i v).dies = s.dies ∧ Claim.SameBytes s (s.mbPut core i v) ∧
      ∀ c n, tget 0 ((s.mbPut core i v).core c).mb n = if c = core ∧ n = i then v else tget 0 (s.core c).mb n := by
  have hmet : ∀ (l : List CtxId) (t : State),
      (fun u : State => (u.net, u.dies, u.gmem, u.cores)) (l.foldl (fun t c => t.modCtx c fun x => { x with met := true }) t) =
        (t.net, t.dies, t.gmem, t.cores) :=
    foldl_keeps (fun u : State => (u.net, u.dies, u.gmem, u.cores)) (f := fun t c => t.modCtx c fun x => { x with met := true }) fun _ _ => rfl
  have h := hmet ((ctxsOf core).filter fun c => s.waitMeets c i v) ((s.modCore core fun k => k.setMailbox i v).testHeads core)
  simp only [Prod.mk.injEq] at h
  obtain ⟨hnet, hdies, hgmem, hcores⟩ := h
  have hcore (c : CoreId) : (s.mbPut core i v).core c = ((s.modCore core fun k => k.setMailbox i v).testHeads core).core c :=
    congrArg (tget Core.reset · c) hcores
  have htest (t : State) (c : CoreId) : ((t.testHeads core).core c).mb = (t.core c).mb ∧ ((t.testHeads core).core c).s = (t.core c).s ∧
      ((t.testHeads core).core c).p = (t.core c).p ∧ ((t.testHeads core).core c).q = (t.core c).q := by
    unfold State.testHeads
    dsimp only
    rw [State.modCluster_core, State.core_modCore]
    split
    · next e => subst e; exact ⟨rfl, rfl, rfl, rfl⟩
    · exact ⟨rfl, rfl, rfl, rfl⟩
  refine ⟨hnet, hdies, ⟨fun a => ?_, fun c a => ?_⟩, fun c n => ?_⟩
  · exact congrArg (fun g : Mem => g.cells.byte a) hgmem
  · obtain ⟨-, hs, hp, hq⟩ := htest (s.modCore core fun k => k.setMailbox i v) c
    rw [hcore, hs, hp, hq, State.core_modCore]
    split
    · next e => subst e; exact ⟨rfl, rfl, rfl⟩
    · exact ⟨rfl, rfl, rfl⟩
  · rw [hcore, (htest _ c).1, State.core_modCore]
    by_cases e : c = core
    · subst e
      rw [if_pos rfl]
      simp only [true_and]
      exact tget_tset ..
    · simp [e]

theorem remoteWriteArrival_mbInc {k : PostKind} {i : BitVec 8} {v : BitVec 16} (h : Claim.AtCore s m core) (hu : Claim.Uncarried s m)
    (hb : m.body = .mbInc k i v) : ∃ t, exec (.remoteWriteArrival m.id) s = .next t ∧ Claim.SameBytes s t ∧
      Claim.Answered s t m (.ack k m.id) ∧ ∀ c n, tget 0 (t.core c).mb n =
        if c = core ∧ n = i.toNat then tget 0 (s.core c).mb n + v else tget 0 (s.core c).mb n := by
  obtain ⟨hnet, hdies, hbytes, hmb⟩ := mbPut_spec s core i.toNat ((s.core core).mailbox i.toNat + v)
  refine ⟨(s.mbAdd core i.toNat v).answerTo m (.ack k m.id), ?_, sameBytes_trans hbytes (sameBytes_answerTo ..), answered_answerTo hnet _, fun c n => ?_⟩
  · rw [remoteWriteArrival_eq h, hb]
    exact congrArg Host.Outcome.next (ack_uncarried (uncarried_of_dies hu hdies) k)
  · obtain ⟨x, y, hc⟩ := core_answerTo (s.mbAdd core i.toNat v) m (.ack k m.id) c
    rw [hc]
    refine (hmb c n).trans ?_
    split
    · next e => rw [e.1, e.2]; rfl
    · rfl

/-! #### Loads -/

/-- Correcting single-bit errors changes no byte of a memory. -/
theorem readBackS_spec (s : State) (core : CoreId) (off n : Nat) :
    (s.readBackS core off n).net = s.net ∧ (s.readBackS core off n).gmem = s.gmem ∧ Claim.SameBytes s (s.readBackS core off n) ∧
      ((s.readBackS core off n).core core).feWait = (s.core core).feWait := by
  have hkeep (k : Core) : (k.readBackS off n).s.cells = k.s.cells ∧ (k.readBackS off n).p.cells = k.p.cells ∧
      (k.readBackS off n).q.cells = k.q.cells := by
    unfold Core.readBackS
    split <;> exact ⟨rfl, rfl, rfl⟩
  unfold State.readBackS
  split
  · refine ⟨rfl, rfl, sameBytes_modCore _ _ _ hkeep, ?_⟩
    rw [State.core_modCore_same]
    unfold Core.readBackS
    split <;> rfl
  · exact ⟨rfl, rfl, sameBytes_refl s, rfl⟩

theorem serveLoad_plain {off size : Nat} (hc : (s.core core).s.consumes off size (s.bytesFor m (some core) off size) = false) :
    s.serveLoad m core off size .plain = (s.readBackS core off size).answerTo m
      (.reply m.id (overlay ((s.core core).s.cells.read off size) (s.bytesFor m (some core) off size)) 0 .ok) := by
  have hbank : s.bankLoad m.src (some m.id) core off size .plain (s.bytesFor m (some core) off size) =
      .done (s.readBackS core off size) (overlay ((s.core core).s.cells.read off size) (s.bytesFor m (some core) off size)) := by
    unfold State.bankLoad
    dsimp only
    rw [if_neg (by simp), if_neg (by simp [hc])]
  rw [State.serveLoad, hbank]
  rfl

theorem remoteRequestArrival_load {off size low at_ : Nat} (h : Claim.AtCore s m core) (hb : m.body = .load off size .plain low at_)
    (hc : (s.core core).s.consumes off size (s.bytesFor m (some core) off size) = false) :
    ∃ t, exec (.remoteRequestArrival m.id) s = .next t ∧ Claim.SameBytes s t ∧
      Claim.Answered s t m (.reply m.id (overlay ((s.core core).s.cells.read off size) (s.bytesFor m (some core) off size)) 0 .ok) := by
  obtain ⟨hnet, -, hbytes, -⟩ := readBackS_spec s core off size
  refine ⟨_, ?_, sameBytes_trans hbytes (sameBytes_answerTo ..), answered_answerTo hnet _⟩
  rw [remoteRequestArrival_eq h, State.serveRequest, hb]
  exact congrArg Host.Outcome.next (serveLoad_plain hc)

/-! #### Recorded accesses (R96) -/

/-- A recorded load whose granules are full is performed and leaves the table. -/
theorem serveLoad_first {off size : Nat} {w : FeWaiter} (hw : (s.core core).feWait = [w]) (hctx : w.ctx = m.src) (hmsg : w.msg = some m.id)
    (hall : (s.core core).allFe off size true = true)
    (hc : (s.core core).s.consumes off size (s.bytesFor m (some core) off size) = false) :
    s.serveLoad m core off size .first = ((s.readBackS core off size).modCore core fun q => q.unrecord m.src (some m.id)).answerTo m
      (.reply m.id (overlay ((s.core core).s.cells.read off size) (s.bytesFor m (some core) off size)) 0 .ok) := by
  have hturn : (s.core core).feTurn m.src (some m.id) off size = true := by
    unfold Core.feTurn
    rw [hw, List.takeWhile_cons_of_neg (by simp [hctx, hmsg])]
    rfl
  have hbank : s.bankLoad m.src (some m.id) core off size .first (s.bytesFor m (some core) off size) =
      .done ((s.readBackS core off size).modCore core fun q => q.unrecord m.src (some m.id))
        (overlay ((s.core core).s.cells.read off size) (s.bytesFor m (some core) off size)) := by
    unfold State.bankLoad
    dsimp only
    rw [if_neg (by simp [hall, hturn]), if_neg (by simp [hc])]
  rw [State.serveLoad, hbank]
  rfl

theorem fullEmptyServe_load {off size low at_ g : Nat} {w : FeWaiter} (hm : s.msg m.id = some m) (hb : m.body = .load off size .first low at_)
    (hw : (s.core core).feWait = [w]) (hctx : w.ctx = m.src) (hmsg : w.msg = some m.id) (hoff : w.off = off) (hsize : w.size = size)
    (hfull : w.wantFull = true) (hg : w.touches g = true) (hall : (s.core core).allFe off size true = true)
    (hsaved : s.savedFor core m.launch = false) (hc : (s.core core).s.consumes off size (s.bytesFor m (some core) off size) = false) :
    ∃ t, exec (.fullEmptyServe core g) s = .next t ∧ Claim.SameBytes s t ∧ (t.core core).feWait = [] ∧
      Claim.Answered s t m (.reply m.id (overlay ((s.core core).s.cells.read off size) (s.bytesFor m (some core) off size)) 0 .ok) := by
  obtain ⟨hnet, -, hbytes, hfe⟩ := readBackS_spec s core off size
  have hserve : s.serveWaiter core w = ((s.readBackS core off size).modCore core fun q => q.unrecord m.src (some m.id)).answerTo m
      (.reply m.id (overlay ((s.core core).s.cells.read off size) (s.bytesFor m (some core) off size)) 0 .ok) := by
    rw [State.serveWaiter, hmsg]
    dsimp only
    rw [hm]
    dsimp only
    rw [hb]
    dsimp only
    rw [State.serveRequest, hb]
    exact serveLoad_first hw hctx hmsg hall hc
  have hdue : s.feDue core g w = true := by
    rw [State.feDue, hmsg]
    dsimp only
    rw [hm]
    simp [hg, Core.feHolds, hoff, hsize, hfull, hall, hsaved]
  have hrest : ((s.serveWaiter core w).core core).feWait = [] := by
    rw [hserve]
    obtain ⟨x, y, hcore⟩ := core_answerTo ((s.readBackS core off size).modCore core fun q => q.unrecord m.src (some m.id)) m
      (.reply m.id (overlay ((s.core core).s.cells.read off size) (s.bytesFor m (some core) off size)) 0 .ok) core
    rw [hcore, State.core_modCore_same]
    change ((s.readBackS core off size).core core).feWait.filter _ = []
    rw [hfe, hw]
    simp [hctx, hmsg]
  have he : exec (.fullEmptyServe core g) s = .next (s.serveWaiter core w) := by
    change Host.Outcome.next (s.serveGranule core g (s.core core).feWait.length) = _
    rw [hw, List.length_singleton, State.serveGranule, hw, List.find?_cons_of_pos hdue]
    dsimp only
    rw [if_neg (by simp [State.servable, hmsg]), hrest]
    rfl
  refine ⟨_, he, ?_, hrest, ?_⟩
  · rw [hserve]
    have hleaves : Claim.SameBytes (s.readBackS core off size)
        ((s.readBackS core off size).modCore core fun q => q.unrecord m.src (some m.id)) :=
      sameBytes_modCore _ core _ fun _ => ⟨rfl, rfl, rfl⟩
    exact sameBytes_trans (sameBytes_trans hbytes hleaves) (sameBytes_answerTo ..)
  · rw [hserve]
    have hleft : ((s.readBackS core off size).modCore core fun q => q.unrecord m.src (some m.id)).net = s.net := by
      rw [State.modCore_net, hnet]
    exact answered_answerTo hleft _

theorem retryNotice (hm : s.msg m.id = some m) (hr : m.retry = true) : exec (.retryNotice m.id) s =
    .next { s with net := (s.net.filter fun q => q.id != m.id) ++ [{ m with retry := false }] } := by
  change execRetryNotice m.id s = _
  unfold execRetryNotice
  rw [hm]
  exact if_pos hr
end AtCore
end Sys2Proof.ModuleParts

namespace Sys2Proof.ModuleParts
open Sys2Proof Sys2Proof.Machine Sys2Proof.Safety

/-! ### Global memory, byte by byte (R4, R105) -/

/-- Bytes that lie on one page are one part. -/
theorem partsOn_within {a n : Nat} (h0 : 0 < n) (h : a % 2 ^ 16 + n ≤ 2 ^ 16) : partsOn a n = [(a, n)] := by
  have hm : min n (2 ^ 16 - a % 2 ^ 16) = n := by omega
  have hrest : pageParts (n / 2 ^ 16 + 1) (jplus a n) (n - n) = [] := by
    rw [Nat.sub_self, pageParts]
    exact if_pos rfl
  change pageParts (n / 2 ^ 16 + 1 + 1) a n = _
  rw [pageParts, if_neg (by omega)]
  simp only [hm, hrest]

section Bytes
variable {s : State}

theorem gRead_congr {t : State} (hg : t.gmem = s.gmem) (hp : t.pages = s.pages) (a n : Nat) : t.gRead a n = s.gRead a n := by
  unfold State.gRead State.phys State.page
  rw [hg, hp]

/-- One byte of global memory. -/
theorem gRead_byte (s : State) (a : Nat) : s.gRead a 1 = (s.phys a).elim 0 fun q => (s.gmem.cells.byte q).toNat := by
  rw [State.gRead, partsOn_within (by decide) (by omega)]
  cases hq : s.phys a <;> simp [hq, Memory.read]

theorem phys_eq_some {a q : Nat} (h : s.phys a = some q) : ∃ f, (s.page (pageOf a)).frame = some f ∧ q = 2 ^ 16 * f + a % 2 ^ 16 := by
  obtain ⟨f, hf, e⟩ := Option.map_eq_some_iff.1 h
  exact ⟨f, hf, e.symm⟩

theorem bringIn_of_frame {page f : Nat} (h : (s.page page).frame = some f) : s.bringIn page = s := by
  unfold State.bringIn
  rw [h]

/-- A write of bytes that lie on one page, which has a frame. -/
theorem gWriteRaw_within {a n q : Nat} (v : Nat) (h0 : 0 < n) (h : a % 2 ^ 16 + n ≤ 2 ^ 16) (hq : s.phys a = some q) :
    s.gWriteRaw a n v = { s with gmem := s.gmem.write 64 q n v } := by
  obtain ⟨f, hf, -⟩ := phys_eq_some hq
  rw [State.gWriteRaw, partsOn_within h0 h, List.foldl_cons, List.foldl_nil, State.gWritePart, bringIn_of_frame hf]
  dsimp only
  rw [hq]

/-- No two pages share a frame, so an address has a place among those of a page's bytes just when it is one of them. -/
theorem phys_mem_iff (hf : FramesOk s) {a b n q p : Nat} (h : a % 2 ^ 16 + n ≤ 2 ^ 16) (hq : s.phys a = some q) (hp : s.phys b = some p) :
    (q ≤ p ∧ p < q + n ↔ a ≤ b ∧ b < a + n) ∧ (a ≤ b → b < a + n → p - q = b - a) := by
  obtain ⟨f, hfa, rfl⟩ := phys_eq_some hq
  obtain ⟨g, hgb, rfl⟩ := phys_eq_some hp
  have hpage : f = g → a / 2 ^ 16 = b / 2 ^ 16 := fun e => hf _ _ f hfa (e ▸ hgb)
  have hframe : a / 2 ^ 16 = b / 2 ^ 16 → f = g := fun e => by
    have e' : pageOf a = pageOf b := e
    rw [e', hgb] at hfa
    exact (Option.some.inj hfa).symm
  by_cases e : a / 2 ^ 16 = b / 2 ^ 16
  · obtain rfl := hframe e
    omega
  · have hfg : f ≠ g := fun h => e (hpage h)
    omega

/-- The bytes of global memory after a write to one page. -/
theorem gRead_gWriteRaw_within (hf : FramesOk s) {a n : Nat} (v : Nat) (h0 : 0 < n) (h : a % 2 ^ 16 + n ≤ 2 ^ 16)
    (ha : (s.page (pageOf a)).frame ≠ none) (b : Nat) :
    (s.gWriteRaw a n v).gRead b 1 = if a ≤ b ∧ b < a + n then v / 256 ^ (b - a) % 256 else s.gRead b 1 := by
  obtain ⟨f, hframe⟩ := Option.ne_none_iff_exists'.1 ha
  have hq : s.phys a = some (2 ^ 16 * f + a % 2 ^ 16) := congrArg (Option.map _) hframe
  have hphys (b : Nat) : ({ s with gmem := s.gmem.write 64 (2 ^ 16 * f + a % 2 ^ 16) n v } : State).phys b = s.phys b := rfl
  rw [gWriteRaw_within v h0 h hq, gRead_byte, gRead_byte, hphys]
  cases hp : s.phys b with
  | none =>
    have hout : ¬(a ≤ b ∧ b < a + n) := fun ⟨h1, h2⟩ => by
      have e : pageOf b = pageOf a := by unfold pageOf; omega
      rw [State.phys, e, hframe] at hp
      nomatch hp
    rw [if_neg hout]
    rfl
  | some p =>
    obtain ⟨hmem, hoff⟩ := phys_mem_iff hf h hq hp
    have hbyte := byte_write s.gmem.cells (2 ^ 16 * f + a % 2 ^ 16) n v p
    change ((s.gmem.cells.write (2 ^ 16 * f + a % 2 ^ 16) n v).byte p).toNat = _
    rw [hbyte]
    by_cases hin : a ≤ b ∧ b < a + n
    · rw [if_pos (hmem.2 hin), if_pos hin, hoff hin.1 hin.2, BitVec.toNat_ofNat]
    · rw [if_neg (mt hmem.1 hin), if_neg hin]
      rfl

/-- Correcting single-bit errors changes no byte of global memory. -/
theorem readBackG_spec (s : State) (a n : Nat) : (s.readBackG a n).net = s.net ∧ (s.readBackG a n).cores = s.cores ∧
    Claim.SameBytes s (s.readBackG a n) := by
  have hkeep : (fun t : State => (t.net, t.cores, t.gmem.cells)) (s.readBackG a n) = (s.net, s.cores, s.gmem.cells) := by
    unfold State.readBackG
    split
    · refine foldl_keeps (fun t : State => (t.net, t.cores, t.gmem.cells)) (f := fun t p => match t.phys p.1 with
        | some q => { t with gmem := t.gmem.writeBack 64 q p.2 }
        | none => t) (fun t p => ?_) (partsOn a n) s
      split <;> rfl
    · rfl
  simp only [Prod.mk.injEq] at hkeep
  obtain ⟨hnet, hcores, hcells⟩ := hkeep
  refine ⟨hnet, hcores, fun b => by rw [hcells], fun c b => ?_⟩
  have hc : (s.readBackG a n).core c = s.core c := congrArg (tget Core.reset · c) hcores
  rw [hc]
  exact ⟨rfl, rfl, rfl⟩
end Bytes
end Sys2Proof.ModuleParts

namespace Sys2Proof.ModuleParts
open Sys2Proof Sys2Proof.Machine Sys2Proof.Safety

/-! ### Accesses at the home of a page (R106, R117, R118) -/

section AtHome
variable {s : State} {m : Msg} {page : Nat}

/-- An access that its page's home takes now. -/
theorem homeAccess_eq (h : Claim.Arrives s m) (hd : m.dest = .home page) : exec (.homeAccess m.id) s = .next (s.serveHome m page) := by
  obtain ⟨hm, hready, -, -⟩ := h
  have hpage : m.homePage = some page := by rw [Msg.homePage, hd]
  change execHomeAccess m.id s = _
  unfold execHomeAccess
  rw [hm]
  dsimp only
  rw [hpage]
  exact if_neg (by simp [hready])

/-! #### Loads -/

theorem homeRead_unheld (hh : (s.die (dieOf (s.page page).home)).hold = []) (va n : Nat) : s.homeRead page va n = s.gRead va n := by
  rw [State.homeRead, hh]
  rfl

theorem homeConsumes_eq_false {va n : Nat} (h : ∀ i < n, s.homePoisoned page (jplus va i) 1 = false) (own : List (Nat × Nat)) :
    s.homeConsumes page va n own = false := by
  rw [State.homeConsumes, List.any_eq_false]
  intro i hi
  simp [h i (by have := (mem_span.1 hi).2; omega)]

theorem homeAccess_load (h : Claim.Arrives s m) (hd : m.dest = .home page) (hres : (s.page page).resident = true)
    (hdis : (s.page page).discarded = false) {va size low at_ : Nat} (hb : m.body = .load va size .plain low at_)
    (hhold : (s.die (dieOf (s.page page).home)).hold = []) (hp : ∀ i < size - low, s.homePoisoned page (jplus (jplus va low) i) 1 = false)
    (hc : (s.core (coreOf m.src)).s.consumes at_ low (s.bytesFor m (some (coreOf m.src)) at_ low) = false) :
    ∃ t, exec (.homeAccess m.id) s = .next t ∧ Claim.SameBytes s t ∧
      Claim.Answered s t m (.reply m.id (overlay ((s.core (coreOf m.src)).s.cells.read at_ low) (s.bytesFor m (some (coreOf m.src)) at_ low) +
        256 ^ low * overlay (s.gRead (jplus va low) (size - low)) (s.bytesFor m none (jplus va low) (size - low))) 0 .ok) := by
  obtain ⟨hnetG, -, hbytesG⟩ := readBackG_spec s (jplus va low) (size - low)
  obtain ⟨hnetS, -, hbytesS, -⟩ := readBackS_spec (s.readBackG (jplus va low) (size - low)) (coreOf m.src) at_ low
  refine ⟨_, ?_, sameBytes_trans (sameBytes_trans hbytesG hbytesS) (sameBytes_answerTo _ m _), answered_answerTo (hnetS.trans hnetG) _⟩
  rw [homeAccess_eq h hd, State.serveHome, if_pos hres, hb]
  dsimp only
  rw [State.homeLoad, if_neg (by simp [hdis]), if_neg (by simp [homeConsumes_eq_false hp, hc]), homeRead_unheld hhold]
  rfl

/-- A load of a page that is not resident. -/
theorem homeAccess_mark (h : Claim.Arrives s m) (hd : m.dest = .home page) (hres : (s.page page).resident = false) {va size low at_ : Nat}
    (hb : m.body = .load va size .plain low at_) :
    ∃ t, exec (.homeAccess m.id) s = .next t ∧ Claim.SameBytes s t ∧ (t.page page).waiters = (s.page page).waiters ++ [m.src] ∧
      Claim.Answered s t m (.reply m.id page 0 .pageWait) := by
  refine ⟨s.pageMark m page, ?_, sameBytes_of_eq rfl rfl, ?_, _, rfl, rfl, rfl, rfl, rfl⟩
  · rw [homeAccess_eq h hd, State.serveHome, if_neg (by simp [hres]), hb]
  · exact congrArg Page.waiters (State.page_modPage_same s page fun p => { p with waiters := p.waiters ++ [m.src] })

/-! #### The undo region of a die (R112, R116) -/

/-- A state that differs in what the undo regions, the hold queues, the seals and the jobs hold. -/
structure HomeKept (s t : State) (m : Msg) : Prop where
  net : t.net = s.net
  gmem : t.gmem = s.gmem
  pages : t.pages = s.pages
  carried : Claim.Uncarried s m → Claim.Uncarried t m

theorem HomeKept.refl (s : State) (m : Msg) : HomeKept s s m := ⟨rfl, rfl, rfl, id⟩

theorem HomeKept.trans {t u : State} (h : HomeKept s t m) (h' : HomeKept t u m) : HomeKept s u m :=
  ⟨h'.net.trans h.net, h'.gmem.trans h.gmem, h'.pages.trans h.pages, h'.carried ∘ h.carried⟩

theorem uncarried_modDie (h : Claim.Uncarried s m) {die : Nat} {f : Die → Die} (hf : ∀ d, (f d).carried = d.carried) :
    Claim.Uncarried (s.modDie die f) m := by
  have hdie : (f (s.die die)).carried.contains m.id = false := by
    rw [hf]
    exact tget_forall (p := fun d : Die => d.carried.contains m.id = false) rfl h die
  exact forall_tset (p := fun d : Die => d.carried.contains m.id = false) die hdie h

theorem homeKept_modDie (s : State) (m : Msg) {die : Nat} {f : Die → Die} (hf : ∀ d, (f d).carried = d.carried) :
    HomeKept s (s.modDie die f) m := ⟨rfl, rfl, rfl, fun h => uncarried_modDie h hf⟩

theorem homeKept_requestSeal (s : State) (m : Msg) (capacity : Bool) : HomeKept s (s.requestSeal capacity) m := by
  unfold State.requestSeal
  split <;> exact ⟨rfl, rfl, rfl, id⟩

theorem logDie_room (m : Msg) {die : Nat} {e : UndoEntry} (he : e.core = none) (h : undoBytes (s.die die).undo + 72 ≤ 2 ^ 30) :
    ∃ t, s.logDie die e = some t ∧ HomeKept s t m := by
  have hlog : s.logDie die e = some ((s.modDie die fun d => { d with undo := e :: d.undo }).watchUndo die) := if_pos (by rw [he]; exact h)
  have hmod := homeKept_modDie s m (die := die) (f := fun d => { d with undo := e :: d.undo }) fun _ => rfl
  refine ⟨_, hlog, hmod.trans ?_⟩
  unfold State.watchUndo
  split
  · exact homeKept_requestSeal ..
  · exact .refl ..

/-- A line of an ordinary page is logged while the undo region of its home's die has room. -/
theorem logG_room (m : Msg) {line : Nat} (h : undoBytes (s.die (dieOf (s.page (pageOf (64 * line))).home)).undo + 72 ≤ 2 ^ 30) :
    ∃ t, s.logG line = some t ∧ HomeKept s t m := by
  unfold State.logG
  dsimp only
  split
  · exact ⟨s, rfl, .refl ..⟩
  · obtain ⟨t, ht, hk⟩ := logDie_room m (e := { core := none, line := 64 * line, old := s.gRead (64 * line) 64, fe := 0, tenancy := 0 }) rfl h
    exact ⟨_, congrArg (Option.map _) ht, hk.trans ⟨rfl, rfl, rfl, id⟩⟩

/-- Bytes that lie on one line. -/
theorem linesOf_within {va n : Nat} (h0 : 0 < n) (h : va % 64 + n ≤ 64) : linesOf va n = [va / 64] := by
  have hblocks : blocks 64 (vaddr va) n = [vaddr va / 64] := by
    have hlast : (vaddr va + n - 1) / 64 + 1 - vaddr va / 64 = 1 := by unfold vaddr; omega
    rw [blocks, if_neg (by omega), hlast]
    rfl
  rw [linesOf, hblocks, List.map_singleton]
  unfold vaddr
  congr 1
  omega

theorem logGRange_within (m : Msg) {va n : Nat} (h0 : 0 < n) (h : va % 64 + n ≤ 64)
    (hroom : undoBytes (s.die (dieOf (s.pageAt va).home)).undo + 72 ≤ 2 ^ 30) : ∃ t, s.logGRange va n = some t ∧ HomeKept s t m := by
  have hpage : s.page (pageOf (64 * (va / 64))) = s.pageAt va := by
    rw [State.pageAt]
    congr 1
    unfold pageOf
    omega
  obtain ⟨t, ht, hk⟩ := logG_room m (line := va / 64) (by rw [hpage]; exact hroom)
  refine ⟨t, ?_, hk⟩
  rw [State.logGRange, linesOf_within h0 h]
  exact ht

/-! #### Stores -/

/-- A store on one line of an ordinary page, whose home has room to log it. -/
theorem homeWrite_ordinary (m : Msg) {va n : Nat} (v : Nat) (w : Option (CtxId × Nat × Word)) (h0 : 0 < n) (h : va % 64 + n ≤ 64)
    (hirr : (s.pageAt va).irrevocable = false) (hroom : undoBytes (s.die (dieOf (s.pageAt va).home)).undo + 72 ≤ 2 ^ 30)
    (hframe : (s.pageAt va).frame ≠ none) (hf : FramesOk s) :
    ∃ t, s.homeWrite va n v w = .yes t ∧ t.net = s.net ∧ (Claim.Uncarried s m → Claim.Uncarried t m) ∧
      ∀ a, t.gRead a 1 = if va ≤ a ∧ a < va + n then v / 256 ^ (a - va) % 256 else s.gRead a 1 := by
  obtain ⟨t, ht, hk⟩ := logGRange_within m h0 h hroom
  obtain ⟨g, p, hraw⟩ := gWriteRaw_eq t va n v
  have hr := resvKept_breakResvs ((t.gWriteRaw va n v).testWaits va n) (.home (s.pageAt va).home) va n (w.map Prod.fst)
  have hpage (q : Nat) : t.page q = s.page q := congrArg (tget Page.reset · q) hk.pages
  have hft : FramesOk t := fun p q f hp hq => hf p q f (by rw [← hpage]; exact hp) (by rw [← hpage]; exact hq)
  refine ⟨((t.gWriteRaw va n v).testWaits va n).breakResvs (.home (s.pageAt va).home) va n (w.map Prod.fst), ?_, ?_, fun hu => ?_, fun a => ?_⟩
  · rw [State.homeWrite]
    dsimp only
    rw [if_neg (by simp [hirr]), ht]
  · rw [hr.net]
    change (t.gWriteRaw va n v).net = _
    rw [hraw]
    exact hk.net
  · refine uncarried_of_dies (hk.carried hu) (hr.dies.trans ?_)
    change (t.gWriteRaw va n v).dies = _
    rw [hraw]
  · rw [gRead_congr hr.gmem hr.pages]
    change (t.gWriteRaw va n v).gRead a 1 = _
    have hwrite := gRead_gWriteRaw_within hft v h0 (show va % 2 ^ 16 + n ≤ 2 ^ 16 by omega) (by rw [hpage]; exact hframe) a
    rw [hwrite, gRead_congr hk.gmem hk.pages]

/-- A write of up to 64 bytes is one piece. -/
theorem heldPieces_single {w : HeldWrite} (h0 : 0 < w.size) (h : w.size ≤ 64) : heldPieces w = [{ w with data := w.data % 256 ^ w.size }] := by
  have hone : (w.size + 63) / 64 = 1 := by omega
  have hva : jplus w.va 0 = w.va := by unfold jplus jaddr vaddr; omega
  have hsize : min 64 w.size = w.size := by omega
  rw [heldPieces, hone]
  simp [span, hva, hsize]

/-- A store to an irrevocable page, whose home has room to hold it. -/
theorem homeWrite_irrevocable (m : Msg) {va n : Nat} (v : Nat) (w : Option (CtxId × Nat × Word)) (h0 : 0 < n) (h : n ≤ 64)
    (hirr : (s.pageAt va).irrevocable = true) (hbox : s.inFmbox va = false) (hroom : (s.die (dieOf (s.pageAt va).home)).hold.length < 4096) :
    ∃ t, s.homeWrite va n v w = .yes t ∧ HomeKept s t m ∧ (t.die (dieOf (s.pageAt va).home)).hold =
      (s.die (dieOf (s.pageAt va).home)).hold ++
        [{ va := va, size := n, data := v % 256 ^ n, split := s.seals.split, poison := false, writer := w }] := by
  have hpieces := heldPieces_single (w := { va := va, size := n, data := v, split := s.seals.split, poison := false, writer := w }) h0 h
  dsimp only at hpieces
  have hheld (e : HeldWrite) (die : Nat) : HomeKept s (s.holdWrite die e) m ∧ ((s.holdWrite die e).die die).hold = (s.die die).hold ++ [e] := by
    have hmod := homeKept_modDie s m (die := die) (f := fun d => { d with hold := d.hold ++ [e] }) fun _ => rfl
    have hin : ((s.modDie die fun d => { d with hold := d.hold ++ [e] }).die die).hold = (s.die die).hold ++ [e] := by
      rw [State.die_modDie_same]
    unfold State.holdWrite
    dsimp only
    split
    · refine ⟨hmod.trans (homeKept_requestSeal ..), ?_⟩
      rw [← hin]
      unfold State.requestSeal
      split <;> rfl
    · exact ⟨hmod, hin⟩
  obtain ⟨hk, hin⟩ := hheld { va := va, size := n, data := v % 256 ^ n, split := s.seals.split, poison := false, writer := w } (dieOf (s.pageAt va).home)
  refine ⟨(s.holdWrite (dieOf (s.pageAt va).home) _).testWaits va n, ?_, hk.trans ⟨rfl, rfl, rfl, id⟩, hin⟩
  rw [State.homeWrite]
  dsimp only
  rw [if_pos (by simp [hirr, hbox]), hpieces, if_pos (by rw [List.length_singleton]; omega)]
  rfl

/-- A store that its home performs or holds is acknowledged. -/
theorem homeAccess_store {t : State} (h : Claim.Arrives s m) (hd : m.dest = .home page) (hres : (s.page page).resident = true)
    (hdis : (s.page page).discarded = false) {k : PostKind} {va size data : Nat} {fe : FeQual} {ea : Word} (hb : m.body = .store k va size data fe ea)
    (hl : s.lowerPart m = none) (hp : s.gPoisonedPart va size = false) (hw : s.homeWrite va size data (some (m.src, m.launch, ea)) = .yes t)
    (hu : Claim.Uncarried t m) : exec (.homeAccess m.id) s = .next (t.answerTo m (.ack k m.id)) := by
  have hlower : s.lowerWrite m ea = some s := by rw [State.lowerWrite, hl]
  rw [homeAccess_eq h hd, State.serveHome, if_pos hres, hb]
  dsimp only
  rw [State.homeStore, hlower]
  dsimp only
  rw [if_neg (by simp [hdis]), if_neg (by simp [hp]), hw]
  exact congrArg Host.Outcome.next (ack_uncarried hu k)

theorem homeAccess_store_ordinary (h : Claim.Arrives s m) (hd : m.dest = .home page) (hres : (s.page page).resident = true)
    (hdis : (s.page page).discarded = false) {k : PostKind} {va size data : Nat} {fe : FeQual} {ea : Word} (hb : m.body = .store k va size data fe ea)
    (hpage : page = va / 65536) (h0 : 0 < size) (hline : va % 64 + size ≤ 64) (hu : Claim.Uncarried s m) (hl : s.lowerPart m = none)
    (hirr : (s.page page).irrevocable = false) (hp : s.gPoisonedPart va size = false)
    (hroom : undoBytes (s.die (dieOf (s.page page).home)).undo + 72 ≤ 2 ^ 30) (hframe : (s.page page).frame ≠ none) (hf : FramesOk s) :
    ∃ t, exec (.homeAccess m.id) s = .next t ∧ Claim.Answered s t m (.ack k m.id) ∧
      ∀ a, t.gRead a 1 = if va ≤ a ∧ a < va + size then data / 256 ^ (a - va) % 256 else s.gRead a 1 := by
  have hat : s.pageAt va = s.page page := by rw [hpage]; rfl
  obtain ⟨t, ht, hnet, hcar, hread⟩ := homeWrite_ordinary m data (some (m.src, m.launch, ea)) h0 hline (by rw [hat]; exact hirr)
    (by rw [hat]; exact hroom) (by rw [hat]; exact hframe) hf
  refine ⟨_, homeAccess_store h hd hres hdis hb hl hp ht (hcar hu), answered_answerTo hnet _, fun a => ?_⟩
  rw [gRead_congr (gmem_answerTo ..) (pages_answerTo ..)]
  exact hread a

theorem homeAccess_store_irrevocable (h : Claim.Arrives s m) (hd : m.dest = .home page) (hres : (s.page page).resident = true)
    (hdis : (s.page page).discarded = false) {k : PostKind} {va size data : Nat} {fe : FeQual} {ea : Word} (hb : m.body = .store k va size data fe ea)
    (hpage : page = va / 65536) (h0 : 0 < size) (hline : va % 64 + size ≤ 64) (hu : Claim.Uncarried s m) (hl : s.lowerPart m = none)
    (hirr : (s.page page).irrevocable = true) (hbox : s.inFmbox va = false) (hp : s.gPoisonedPart va size = false)
    (hroom : (s.die (dieOf (s.page page).home)).hold.length < 4096) :
    ∃ t, exec (.homeAccess m.id) s = .next t ∧ Claim.Answered s t m (.ack k m.id) ∧ t.gmem = s.gmem ∧
      (t.die (dieOf (s.page page).home)).hold = (s.die (dieOf (s.page page).home)).hold ++
        [{ va := va, size := size, data := data % 256 ^ size, split := s.seals.split, poison := false, writer := some (m.src, m.launch, ea) }] := by
  have hat : s.pageAt va = s.page page := by rw [hpage]; rfl
  obtain ⟨t, ht, hk, hhold⟩ := homeWrite_irrevocable m data (some (m.src, m.launch, ea)) h0 (by omega) (by rw [hat]; exact hirr) hbox
    (by rw [hat]; exact hroom)
  rw [hat] at hhold
  refine ⟨_, homeAccess_store h hd hres hdis hb hl hp ht (hk.carried hu), answered_answerTo hk.net _, (gmem_answerTo ..).trans hk.gmem, ?_⟩
  rw [← hhold]
  exact congrArg (fun d => (tget Die.reset d (dieOf (s.page page).home)).hold) (dies_answerTo t m _)
end AtHome
end Sys2Proof.ModuleParts

namespace Sys2Proof.ModuleParts
open Sys2Proof Sys2Proof.Machine Sys2Proof.Safety

/-! ### A context that waits for a page (R107, R394, R395) -/

section PageWait
variable {s : State} {m : Msg} {page : Nat}

theorem sameBytes_modCtx (s : State) (c : CtxId) (f : Ctx → Ctx) : Claim.SameBytes s (s.modCtx c f) := sameBytes_of_eq rfl rfl

theorem sameBytes_killFrom (s : State) (c : CtxId) (q : Packet) : Claim.SameBytes s (s.killFrom c q) := by
  unfold State.killFrom State.modPipe
  dsimp only
  refine sameBytes_trans (sameBytes_modCore s _ _ fun k => ?_) (sameBytes_modCtx ..)
  exact ⟨rfl, rfl, rfl⟩

theorem sameBytes_forget (s : State) (c : CtxId) : Claim.SameBytes s (s.forget c) := by
  unfold State.forget
  refine sameBytes_trans (foldl_rel (R := Claim.SameBytes) sameBytes_refl sameBytes_trans (fun t m => ?_) _ s) (sameBytes_of_eq rfl rfl)
  cases m.dest
  case core k => exact sameBytes_modCore t k _ fun _ => ⟨rfl, rfl, rfl⟩
  all_goals exact sameBytes_refl t

/-- Where a context goes when its pipe is killed from a packet on. -/
theorem pc_forget_killFrom (s : State) (c : CtxId) (q : Packet) :
    ((((s.killFrom c q).forget c).modCtx c Ctx.again).ctx c).pc = q.addr := by
  have hkill : ((s.killFrom c q).ctx c).pc = q.addr := by
    unfold State.killFrom
    dsimp only
    rw [State.ctx_modCtx_same]
  have hforget : ((s.killFrom c q).forget c).ctx c = (s.killFrom c q).ctx c := congrArg (tget Ctx.reset · c) (ctxs_forget ..)
  rw [State.ctx_modCtx_same, hforget, ← hkill]
  unfold Ctx.again
  split <;> rfl

/-- A context that has a page-wait mark waits while the port holds it in its record of the page. -/
def pageWaits (s : State) (c : CtxId) (page : Nat) (x : Ctx) : Ctx :=
  if (s.page page).waiters.contains c then x.wait (.page page) else { x with run := .active }

theorem run_pageWaits (s : State) (c : CtxId) (page : Nat) (x : Ctx) :
    (pageWaits s c page x).run = if (s.page page).waiters.contains c then .waiting (.page page) else .active := by
  unfold pageWaits
  split
  · exact Ctx.wait_run ..
  · rfl

theorem pc_pageWaits (s : State) (c : CtxId) (page : Nat) (x : Ctx) : (pageWaits s c page x).pc = x.pc := by
  unfold pageWaits Ctx.wait
  split
  · split <;> rfl
  · rfl

/-- PAGE_WAIT with the one mark that its context has. -/
theorem pageWait_eq {of_ : Nat} {f : Flags} (hm : m ∈ s.net) (hb : m.body = .reply of_ page f .pageWait)
    (hone : ∀ q ∈ s.net, q.src = m.src → (∃ o p g, q.body = .reply o p g .pageWait) → q = m)
    (hsaved : s.savedFor (coreOf m.src) m.launch = false) (hord : s.inOrder m = true) (hpres : s.present m = true) :
    exec (.pageWait m.src) s = .next ((match (s.core (coreOf m.src)).pipe.asking of_ with
      | some q => (((s.dropMsg m.id).killFrom m.src q).forget m.src).modCtx m.src Ctx.again
      | none => s.dropMsg m.id).modCtx m.src (pageWaits s m.src page)) := by
  change execPageWait m.src s = _
  unfold execPageWait
  split
  · next hnone =>
    have h := List.find?_eq_none.1 hnone m hm
    simp [hsaved, hord, hb] at h
  · next q hsome =>
    have hq := List.find?_some hsome
    simp only [Bool.and_eq_true, beq_iff_eq] at hq
    obtain ⟨⟨⟨hsrc, -⟩, -⟩, hmark⟩ := hq
    obtain rfl : q = m := by
      refine hone q (List.mem_of_find?_eq_some hsome) hsrc ?_
      split at hmark
      · next o p g e => exact ⟨o, p, g, e⟩
      · cases hmark
    rw [if_neg (by simp [hpres]), hb] <;> rfl

theorem pageWait {of_ : Nat} {f : Flags} (hm : m ∈ s.net) (hb : m.body = .reply of_ page f .pageWait)
    (hone : ∀ q ∈ s.net, q.src = m.src → (∃ o p g, q.body = .reply o p g .pageWait) → q = m)
    (hsaved : s.savedFor (coreOf m.src) m.launch = false) (hord : s.inOrder m = true) (hpres : s.present m = true) :
    ∃ t, exec (.pageWait m.src) s = .next t ∧ Claim.SameBytes s t ∧ (t.ctx m.src).run =
      (if (s.page page).waiters.contains m.src then .waiting (.page page) else .active) ∧
      ((s.core (coreOf m.src)).pipe.asking of_ = none → Claim.Taken s t m ∧ (t.ctx m.src).pc = (s.ctx m.src).pc) ∧
      (∀ q, (s.core (coreOf m.src)).pipe.asking of_ = some q → (t.ctx m.src).pc = q.addr) := by
  refine ⟨_, pageWait_eq hm hb hone hsaved hord hpres, ?_, ?_, fun h => ?_, fun q h => ?_⟩
  · refine sameBytes_trans ?_ (sameBytes_modCtx ..)
    have hdrop : Claim.SameBytes s (s.dropMsg m.id) := sameBytes_of_eq rfl rfl
    split
    · next q _ =>
      exact sameBytes_trans (sameBytes_trans (sameBytes_trans hdrop (sameBytes_killFrom _ m.src q)) (sameBytes_forget ..)) (sameBytes_modCtx ..)
    · exact hdrop
  · rw [State.ctx_modCtx_same, run_pageWaits]
  · rw [State.ctx_modCtx_same, pc_pageWaits, h]
    exact ⟨rfl, rfl⟩
  · rw [State.ctx_modCtx_same, pc_pageWaits, h]
    exact pc_forget_killFrom ..

/-! ### The wake (R107, R396) -/

theorem ctx_foldl_modCtx {f : Ctx → Ctx} (hf : ∀ x, f (f x) = f x) (l : List CtxId) (s : State) (c : CtxId) :
    (l.foldl (fun t d => t.modCtx d f) s).ctx c = if c ∈ l then f (s.ctx c) else s.ctx c := by
  induction l generalizing s with
  | nil => simp
  | cons d r ih =>
    rw [List.foldl_cons, ih, State.ctx_modCtx]
    by_cases h : c = d
    · subst h; simp [hf]
    · simp [h]

theorem wake_wake (page : Nat) (x : Ctx) : (x.wake page).wake page = x.wake page := by
  unfold Ctx.wake
  by_cases h : x.run = .waiting (.page page) <;> simp [h]

theorem run_wake (page : Nat) (x : Ctx) : (x.wake page).run = if x.run = .waiting (.page page) then .active else x.run := by
  unfold Ctx.wake
  split <;> rfl

/-- A page that is given a frame keeps all else that its entry holds. -/
theorem bringIn_spec (s : State) (page : Nat) : Claim.SameBytes s (s.bringIn page) ∧ (s.bringIn page).ctxs = s.ctxs ∧
    ∃ f, (s.bringIn page).page page = { s.page page with frame := f } := by
  unfold State.bringIn
  split
  · exact ⟨sameBytes_refl s, rfl, _, rfl⟩
  · exact ⟨sameBytes_of_eq rfl rfl, rfl, _, State.page_modPage_same ..⟩

/-- The state with the page's entry as its arrival leaves it. -/
def pageArrived (s : State) (page : Nat) (discard : Bool) : State :=
  (if discard then s else s.bringIn page).modPage page fun p => { p with resident := true, discarded := p.discarded || discard, waiters := [] }

theorem pageArrived_spec (s : State) (page : Nat) (discard : Bool) :
    Claim.SameBytes s (pageArrived s page discard) ∧ (pageArrived s page discard).ctxs = s.ctxs ∧
      ∃ f, (pageArrived s page discard).page page =
        { s.page page with frame := f, resident := true, discarded := (s.page page).discarded || discard, waiters := [] } := by
  have hframe : Claim.SameBytes s (if discard then s else s.bringIn page) ∧ (if discard then s else s.bringIn page).ctxs = s.ctxs ∧
      ∃ f, (if discard then s else s.bringIn page).page page = { s.page page with frame := f } := by
    cases discard
    · exact bringIn_spec s page
    · exact ⟨sameBytes_refl s, rfl, _, rfl⟩
  obtain ⟨hbytes, hctxs, f, hp⟩ := hframe
  refine ⟨sameBytes_trans hbytes (sameBytes_of_eq rfl rfl), hctxs, f, ?_⟩
  rw [pageArrived, State.page_modPage_same, hp]

theorem pageWake (s : State) (page : Nat) (discard : Bool) : ∃ t, exec (.pageWake page discard) s = .next t ∧ Claim.SameBytes s t ∧
    (t.page page).resident = true ∧ (t.page page).waiters = [] ∧ (t.page page).discarded = ((s.page page).discarded || discard) ∧
    ∀ c, (t.ctx c).run = if c ∈ (s.page page).waiters ∧ (s.ctx c).run = .waiting (.page page) then .active else (s.ctx c).run := by
  obtain ⟨hbytes, hctxs, f, hp⟩ := pageArrived_spec s page discard
  have hkeep := foldl_keeps (fun t : State => (t.gmem, t.cores, t.pages)) (f := fun t c => t.modCtx c (Ctx.wake page)) (fun _ _ => rfl)
    (s.page page).waiters (pageArrived s page discard)
  simp only [Prod.mk.injEq] at hkeep
  obtain ⟨hgmem, hcores, hpages⟩ := hkeep
  refine ⟨_, rfl, sameBytes_trans hbytes (sameBytes_of_eq hgmem hcores), ?_⟩
  have hpage : ((s.page page).waiters.foldl (fun t c => t.modCtx c (Ctx.wake page)) (pageArrived s page discard)).page page =
      (pageArrived s page discard).page page := congrArg (tget Page.reset · page) hpages
  have hctx (c : CtxId) : (pageArrived s page discard).ctx c = s.ctx c := congrArg (tget Ctx.reset · c) hctxs
  refine ⟨?_, ?_, ?_, fun c => ?_⟩
  · exact (congrArg Page.resident (hpage.trans hp) :)
  · exact (congrArg Page.waiters (hpage.trans hp) :)
  · exact (congrArg Page.discarded (hpage.trans hp) :)
  · have hrun := congrArg Ctx.run (ctx_foldl_modCtx (wake_wake page) (s.page page).waiters (pageArrived s page discard) c)
    refine hrun.trans ?_
    rw [hctx]
    by_cases hc : c ∈ (s.page page).waiters
    · rw [if_pos hc, run_wake]
      simp only [hc, true_and]
    · rw [if_neg hc, if_neg fun h => hc h.1]
end PageWait
end Sys2Proof.ModuleParts

namespace Sys2Proof.ModuleParts
open Sys2Proof Sys2Proof.Machine Sys2Proof.Safety

/-! ### A page's home moves (R106) -/

section HomeMove
variable {s : State} {page : Nat} {port : ClusterId}

theorem resvKept_losePageResvs (s : State) (page : Nat) : ResvKept s (s.losePageResvs page) := by
  unfold State.losePageResvs
  refine resvKept_foldl (fun t r => ?_) _ s
  split
  · exact resvKept_loseResv ..
  · exact .refl t

/-- The updates of a page that the port of its home holds and has in its ring. -/
def updatesOf (s : State) (page : Nat) (old : ClusterId) : List Update :=
  ((s.cluster old).holding ++ (s.cluster old).ring).filter fun u => pageOf u.va == page

/-- The updates of a page move to a port whose buffer has room for all of them. -/
theorem moveUpdates_room {old : ClusterId} (hne : port ≠ old)
    (h : (updatesOf s page old).length + (s.cluster port).holding.length ≤ 16) :
    ∃ t, s.moveUpdates page old port = some t ∧ t.gmem = s.gmem ∧ t.cores = s.cores ∧ t.pages = s.pages := by
  unfold State.moveUpdates
  dsimp only
  rw [State.cluster_modCluster_other _ _ hne, List.drop_eq_nil_of_le (by unfold updatesOf at h; omega)]
  exact ⟨_, rfl, rfl, rfl, rfl⟩

/-- The held writes of a page move without any write to memory. -/
theorem moveHeld_spec (s : State) (page : Nat) (port : ClusterId) : (s.moveHeld page port).gmem = s.gmem ∧
    (s.moveHeld page port).cores = s.cores ∧ (s.moveHeld page port).pages = s.pages := by
  have hheld (t : State) (w : HeldWrite) : (fun u : State => (u.gmem, u.cores, u.pages)) (t.holdWrite (dieOf port) w) = (t.gmem, t.cores, t.pages) := by
    unfold State.holdWrite State.requestSeal
    dsimp only
    split
    · split <;> rfl
    · rfl
  unfold State.moveHeld
  dsimp only
  split
  · exact ⟨rfl, rfl, rfl⟩
  · have h := foldl_keeps (fun u : State => (u.gmem, u.cores, u.pages)) (f := fun t w => t.holdWrite (dieOf port) w) hheld (s.heldOf page)
      (s.modDie (dieOf (s.page page).home) fun d => { d with hold := d.hold.filter fun w => pageOf w.va != page })
    simp only [Prod.mk.injEq] at h
    exact h

theorem homeMove (hroom : (updatesOf s page (s.page page).home).length + (s.cluster port).holding.length ≤ 16)
    (hhold : dieOf (s.page page).home = dieOf port ∨ (s.heldOf page).length + (s.die (dieOf port)).hold.length ≤ 4096) :
    ∃ t, exec (.homeMove page port) s = .next t ∧ Claim.SameBytes s t ∧ (t.page page).home = port ∧
      ∀ p, p ≠ page → (t.page p).home = (s.page p).home := by
  change ∃ t, execHomeMove page port s = .next t ∧ _
  unfold execHomeMove
  dsimp only
  split
  · next e => exact ⟨s, rfl, sameBytes_refl s, e, fun _ _ => rfl⟩
  · next hne =>
    have hr := resvKept_losePageResvs s page
    obtain ⟨l, hport⟩ := hr.cluster port
    obtain ⟨l', hold⟩ := hr.cluster (s.page page).home
    obtain ⟨u, hu, hgmem, hcores, hpages⟩ := moveUpdates_room (s := s.losePageResvs page) (page := page) (port := port)
      (old := (s.page page).home) (Ne.symm hne) (by rw [updatesOf, hold, hport]; exact hroom)
    obtain ⟨hgmem', hcores', hpages'⟩ := moveHeld_spec u page port
    have hall : (u.moveHeld page port).pages = s.pages := hpages'.trans (hpages.trans hr.pages)
    rw [if_neg (by omega), hu]
    refine ⟨_, rfl, sameBytes_trans hr.sameBytes (sameBytes_of_eq (hgmem'.trans hgmem) (hcores'.trans hcores)), ?_, fun p hp => ?_⟩
    · exact congrArg Page.home (State.page_modPage_same (u.moveHeld page port) page fun p => { p with home := port })
    · have hother := State.page_modPage_other (u.moveHeld page port) (fun p => { p with home := port }) hp
      have hsame : (u.moveHeld page port).page p = s.page p := congrArg (tget Page.reset · p) hall
      exact congrArg Page.home (hother.trans hsame)
end HomeMove

/-- Settles O41: each message is performed where it arrives and answered to its sender, and a page's entry says where that is. -/
theorem messagesAtCoresAndHomes : Obligations.MessagesAtCoresAndHomes := by
  unfold Obligations.MessagesAtCoresAndHomes
  intro s m core page
  refine ⟨fun h hu hroom => ⟨fun k off size data ea hb hs hp => ?_, fun k i v hb => ?_⟩, fun h off size low at_ hb hc => ?_,
    fun off size low at_ g w hm hb hw hctx hmsg hoff hsize hfull hg hall hsaved hc => ?_, retryNotice,
    fun h hd hres hdis => ⟨fun va size low at_ hb _ hhold hp hc => ?_, fun k va size data fe ea hb hpage h0 hline hu hl =>
      ⟨fun hirr hp hroom hframe hf => ?_, fun hirr hbox hp hroom => ?_⟩⟩,
    fun h hd hres va size low at_ hb => ?_, fun of_ f hm hb hone hsaved hord hpres => ?_, pageWake s page, fun port hroom hhold => ?_⟩
  · exact remoteWriteArrival_store h hu hroom hb hs hp
  · exact remoteWriteArrival_mbInc h hu hb
  · exact remoteRequestArrival_load h hb hc
  · exact fullEmptyServe_load hm hb hw hctx hmsg hoff hsize hfull hg hall hsaved hc
  · exact homeAccess_load h hd hres hdis hb hhold hp hc
  · exact homeAccess_store_ordinary h hd hres hdis hb hpage h0 hline hu hl hirr hp hroom hframe hf
  · exact homeAccess_store_irrevocable h hd hres hdis hb hpage h0 hline hu hl hirr hbox hp hroom
  · exact homeAccess_mark h hd hres hb
  · exact pageWait hm hb hone hsaved hord hpres
  · exact homeMove hroom hhold
end Sys2Proof.ModuleParts

namespace Sys2Proof.CoreFlow
open Sys2Proof Sys2Proof.Machine Sys2Proof.Safety

/-! ### Branches and jumps (R64, R171 to R173) -/

/-- A displacement counts words: four bytes each (R149). -/
theorem targetOf_eq (addr : Word) (disp : BitVec 32) : targetOf addr disp = addr + 4 * disp.signExtend 64 := by
  unfold targetOf
  bv_omega

/-- A branch goes to its target when it is taken, and on after its 12 bytes when it is not. -/
theorem branch_goes {s : State} {i : Instr} {taken : Prop} [Decidable taken] {disp : BitVec 32}
    (h : exec i s = s.branch (decide taken) disp) :
    (taken → exec i s = .next (branched s (s.me.pc + 4 * disp.signExtend 64))) ∧ (¬taken → exec i s = .next (passed s 12)) := by
  rw [h, ← targetOf_eq]
  refine ⟨fun ht => ?_, fun hn => ?_⟩
  · rw [decide_eq_true ht]; rfl
  · rw [decide_eq_false hn]; rfl

/-- A jump that writes a link: the target is read before the link is written. -/
theorem linked_goto (s : State) (target link : Word) (d : GReg) :
    Claim.Linked s (s.modMe fun x => (x.goto target).writeG d link) target d link := by
  obtain ⟨g, hg, hr⟩ := writeG_reads (s.me.goto target) d link
  exact ⟨g, congrArg (s.setCtx s.cur) hg, hr⟩

/-- Settles O8: each instruction is a branch on its condition, or a jump. -/
theorem branchesAndJumps : Obligations.BranchesAndJumps := by
  unfold Obligations.BranchesAndJumps
  intro s d a b disp
  refine ⟨branch_goes rfl, branch_goes rfl, branch_goes rfl, branch_goes rfl, branch_goes rfl, branch_goes rfl, branch_goes rfl,
    rfl, ⟨_, rfl, ?_⟩, ⟨_, rfl, linked_goto ..⟩⟩
  rw [← targetOf_eq]
  exact linked_goto ..

/-! ### Loops (R64, R174, R373) -/

/-- Pinning the body of the context whose state has just been written. -/
theorem pin_setCtx (s : State) (c : CtxId) (x : Ctx) :
    ∃ buf, (s.setCtx c x).pin c = s.setCtx c { x with pinned := true, loopBuf := buf } := by
  refine ⟨(s.setCtx c x).captureBody c x.loopEnd.toNat codeFuel (blockOf x.loopStart.toNat) [], ?_⟩
  rw [State.pin, State.ctx_setCtx_same, State.setCtx_setCtx]

/-- A refusal in a state whose current context has just been written. -/
theorem refuse_setCtx (s : State) {x : Ctx} (hl : x.hl = false) (cause : BitVec 8) (ceaddr : Word) :
    ∃ t, (s.setCtx s.cur x).refuse cause ceaddr = .next t ∧ Trapped (s.setCtx s.cur x) t cause ceaddr x.pc := by
  have hme : (s.setCtx s.cur x).me = x := State.ctx_setCtx_same ..
  refine ⟨_, ?_, trap_trapped (by rw [hme]; exact hl) cause ceaddr x.pc⟩
  rw [State.refuse, hme]

/-- A loop's outcomes are those of its count and of the pinning of its body. -/
theorem startLoop_sets {s : State} {i : Instr} {n : BitVec 32} {disp : BitVec 32} (h : exec i s = s.startLoop n disp) :
    let stop : Word := s.me.pc + 4 * disp.signExtend 64
    (n = 0 → exec i s = .next (branched s stop)) ∧
    (n ≠ 0 → s.pinning s.cur s.me.pc.toNat (s.me.pc + 12).toNat stop.toNat = .fits →
      ∃ buf, exec i s = .next (s.setCtx s.cur
        { s.me with pc := s.me.pc + 12, run := .active, kick := none, loopCount := n, loopStart := s.me.pc + 12,
                    loopEnd := stop, pinned := true, loopBuf := buf })) ∧
    (n ≠ 0 → s.pinning s.cur s.me.pc.toNat (s.me.pc + 12).toNat stop.toNat = .missing →
      ∃ t, exec i s = .next t ∧ Waits s t .fetch) ∧
    (∀ r, n ≠ 0 → s.me.hl = false →
      s.pinning s.cur s.me.pc.toNat (s.me.pc + 12).toNat stop.toNat = .refused r →
      ∃ t, exec i s = .next t ∧ Trapped (s.setCtx s.cur { s.me with loopCount := 0 }) t r.1 r.2 s.me.pc) := by
  rw [h, ← targetOf_eq]
  refine ⟨fun hn => if_pos hn, fun hn hp => ?_, fun hn hp => ?_, fun r hn hl hp => ?_⟩
  all_goals
    unfold State.startLoop
    rw [if_neg hn, hp]
  · obtain ⟨buf, hbuf⟩ := pin_setCtx s s.cur
      { s.me with pc := s.me.pc + 12, run := .active, kick := none, loopCount := n, loopStart := s.me.pc + 12,
                  loopEnd := targetOf s.me.pc disp }
    exact ⟨buf, congrArg Host.Outcome.next hbuf⟩
  · exact ⟨_, rfl, waits_waits s .fetch⟩
  · exact refuse_setCtx s (x := { s.me with loopCount := 0 }) hl r.1 r.2

/-- Settles O9. -/
theorem loopsSetUpTheirState : Obligations.LoopsSetUpTheirState := by
  unfold Obligations.LoopsSetUpTheirState
  intro s a cnt disp
  exact ⟨startLoop_sets rfl, startLoop_sets rfl, fun h => ⟨_, if_pos h, rfl⟩⟩

/-! ### Instructions of handler level (R159, R177, R374) -/

/-- A write of a CSR that only handler level may write is refused at task level. -/
theorem csrWrite_privileged {s : State} {csr : Csr} (hl : s.me.hl = false) (h : Csr.taskWritable csr = false) (d : GReg)
    (new : Word → Word) : s.csrWrite d csr new = s.refuse 0x03 (BitVec.ofNat 64 (Csr.code csr)) := by
  unfold State.csrWrite
  rw [hl, h]
  rfl

/-- A context image is refused at task level. -/
theorem imageRefusal_privileged {s : State} (hl : s.me.hl = false) (a : GReg) : s.imageRefusal a = some (0x03, 0) := by
  unfold State.imageRefusal
  rw [hl]
  rfl

/-- An instruction of handler level is refused at task level. -/
theorem exec_privileged {i : Instr} {ceaddr : Word} (h : Instr.privileged i = some ceaddr) {s : State} (hl : s.me.hl = false) :
    exec i s = s.refuse 0x03 ceaddr := by
  have hn : (!s.me.hl) = true := by rw [hl]; rfl
  have hcsr (csr : Csr) (d : GReg) (new : Word → Word)
      (h : (if Csr.taskWritable csr then none else some (BitVec.ofNat 64 (Csr.code csr))) = some ceaddr) :
      s.csrWrite d csr new = s.refuse 0x03 ceaddr := by
    obtain ⟨hw, he⟩ := Option.ite_none_left_eq_some.1 h
    rw [csrWrite_privileged hl (Bool.eq_false_iff.2 hw), Option.some.inj he]
  unfold Instr.privileged at h
  dsimp only at h
  split at h
  next d csr a => exact hcsr csr d (fun _ => s.me.readG a) h
  next d csr a => exact hcsr csr d (fun old => old ||| s.me.readG a) h
  next d csr a => exact hcsr csr d (fun old => old &&& ~~~s.me.readG a) h
  next => cases h; exact if_pos hn
  next a => cases h; change execCtxsave a s = _; rw [execCtxsave, imageRefusal_privileged hl]
  next a => cases h; change execCtxload a s = _; rw [execCtxload, imageRefusal_privileged hl]
  next => cases h; exact if_pos hn
  next => cases h; exact if_pos hn
  next => cases h

/-- An instruction of handler level is charged 1 (R290). -/
theorem charge_privileged {i : Instr} {ceaddr : Word} (h : Instr.privileged i = some ceaddr) : Instr.charge i = 1 := by
  unfold Instr.privileged at h
  dsimp only at h
  split at h
  case h_9 => cases h
  all_goals rfl

theorem not_taskWritable {csr : Csr} (h : csr ∉ ([.cstat, .cmode, .cfemask, .cwlim] : List Csr)) : Csr.taskWritable csr = false := by
  cases csr
  case cstat | cmode | cfemask | cwlim => exact absurd (by decide) h
  all_goals rfl

/-! ### Traps and the return (R64, R180, R182, R353) -/

/-- Capturing the body of a context whose state has just been written changes its loop buffer at most. -/
theorem recapture_setCtx (s : State) (c : CtxId) (x : Ctx) :
    ∃ buf, (s.setCtx c x).recapture c = s.setCtx c { x with loopBuf := buf } := by
  unfold State.recapture
  rw [State.ctx_setCtx_same]
  split
  · next h =>
    obtain ⟨buf, hbuf⟩ := pin_setCtx s c x
    exact ⟨buf, by rw [hbuf, h]⟩
  · exact ⟨x.loopBuf, rfl⟩

/-- RTE at handler level. -/
theorem rte_returns {s : State} (hl : s.me.hl = true) :
    let target : Word := s.me.cepc ++ 0#2
    let count := if s.me.pinned then 0 else s.me.loopCount
    let inside := decide (s.me.loopStart.toNat ≤ target.toNat ∧ target.toNat < s.me.loopEnd.toNat ∧ count ≠ 0)
    ∃ buf, exec .rte s = .next (s.setCtx s.cur
      { s.me with pc := target, hl := false, run := .active, kick := none, loopCount := count, pinned := inside,
                  loopBuf := buf, bpArmed := s.me.bps }) := by
  intro target count inside
  obtain ⟨buf, hbuf⟩ := recapture_setCtx s s.cur s.me.rte
  have hexec : exec .rte s = .next ((s.setCtx s.cur s.me.rte).recapture s.cur) := if_neg (by simp [hl])
  have hin : s.me.rte.pinned = inside := by
    change (decide (s.me.loopStart.toNat ≤ target.toNat ∧ target.toNat < s.me.loopEnd.toNat) && count != 0) = inside
    simp [inside, bne, Bool.beq_eq_decide_eq, Bool.and_assoc]
  exact ⟨buf, by rw [hexec, hbuf, ← hin]; rfl⟩

/-- Settles O10. -/
theorem trapReturnAndPrivilege : Obligations.TrapReturnAndPrivilege := by
  unfold Obligations.TrapReturnAndPrivilege
  intro s n d a b sd csr
  refine ⟨fun hl => ⟨⟨_, rfl, trap_trapped hl ..⟩, ⟨_, rfl, trap_trapped hl ..⟩⟩, rte_returns, fun hl => ?_⟩
  have htraps {i : Instr} {ceaddr : Word} (h : Instr.privileged i = some ceaddr) : Traps i s 0x03 ceaddr s.me.pc :=
    refuse_trapped hl (exec_privileged h hl)
  simp only [List.forall_mem_cons, List.not_mem_nil, false_imp_iff, implies_true, and_true]
  refine ⟨⟨htraps rfl, htraps rfl, htraps rfl, htraps rfl, htraps rfl⟩, fun hcsr => ?_⟩
  have hw : (if Csr.taskWritable csr then none else some (BitVec.ofNat 64 (Csr.code csr))) = some (BitVec.ofNat 64 (Csr.code csr)) := by
    rw [not_taskWritable (by simpa using hcsr)]
    rfl
  exact ⟨htraps hw, htraps hw, htraps hw⟩
end Sys2Proof.CoreFlow

namespace Sys2Proof.CoreFlow
open Sys2Proof Sys2Proof.Machine Sys2Proof.Safety

/-! ### The step of a context (R36, R63, R64, R366, R370 to R372) -/

/-- Words that decode begin with the start of an instruction: neither filler nor a continuation word. -/
theorem head_of_decode {ws : List Nat} {r : Instr × Nat} (h : decode ws = .ok r) : ws.headD 0 ≠ 0 ∧ ws.headD 0 % 8 ≠ 4 := by
  have hw : ws.getD 0 0 = ws.headD 0 := by cases ws <;> rfl
  have h4 : ws.headD 0 % 4 ≠ 0 := fun e => by
    have herr : decode ws = .error ⟨9, 0, 0⟩ := if_pos (by rw [← hw] at e; exact e)
    rw [herr] at h
    cases h
  omega

/-- The turn of a context with nothing pending and no packet in the pipe, which may issue: its next instruction, or the one it waits at. -/
theorem turn_eligible {u : State} (run : Instr → State → Out) (hstep : u.me.stepping = false) (helig : u.eligible u.cur = true)
    (himp : u.me.imprecise = []) (hwin : u.windowEmpty u.cur = true) :
    (u.me.run = .active → u.turn run = (State.settle u.cur fillerFuel u).issueAt run) ∧
    (∀ w i n, u.me.run = .waiting w → decode (u.me.ir.map BitVec.toNat) = .ok (i, n) → u.turn run = run i u) := by
  unfold State.turn
  simp only [hstep, Bool.false_eq_true, if_false, hwin, himp, helig, List.isEmpty_nil, Bool.not_true, Bool.false_and]
  refine ⟨fun hrun => ?_, fun w i n hrun hdec => ?_⟩
  · simp only [hrun]
  · simp only [hrun, hdec]

theorem me_takeTag (s : State) (c : CtxId) : (s.takeTag c).me = s.me := rfl

theorem me_latch (s : State) (ws : List Nat) (n : Nat) :
    (s.latch ws n).me = ({ s.me with ir := ws.map (BitVec.ofNat 32) } : Ctx).charge n := by
  rw [State.latch, me_takeTag, State.me_modMe]

/-- The issue of an instruction leaves the pc and the level of its context. -/
theorem me_issue (t : State) (ws : List Nat) (n : Nat) :
    ((t.modMe Ctx.skipped).latch ws n).me.pc = t.me.pc ∧ ((t.modMe Ctx.skipped).latch ws n).me.hl = t.me.hl := by
  have hcharge (x : Ctx) : (x.charge n).pc = x.pc ∧ (x.charge n).hl = x.hl := by
    unfold Ctx.charge; split <;> exact ⟨rfl, rfl⟩
  have hskip (x : Ctx) : x.skipped.pc = x.pc ∧ x.skipped.hl = x.hl := by
    unfold Ctx.skipped; split <;> exact ⟨rfl, rfl⟩
  rw [me_latch, State.me_modMe]
  exact ⟨(hcharge _).1.trans (hskip _).1, (hcharge _).2.trans (hskip _).2⟩


/-- The entry of a context at an address whose first word may be fetched, with no comparator to stop it. -/
theorem entry_eq {t : State} {c : CtxId} (halign : (t.ctx c).pc.toNat % 4 = 0)
    (hres : (t.page (pageOf (t.codeVa c (t.ctx c).pc.toNat))).resident = true)
    (hbp : ((t.ctx c).bps && (t.ctx c).bpArmed) = true ∨ (t.core (coreOf c)).matching c (t.ctx c).pc = none)
    (hfetch : t.fetchCheck c (t.ctx c).pc.toNat = none)
    (hwords : t.fetchChecks c (t.ctx c).pc.toNat (takenWords (t.codeWords c (t.ctx c).pc.toNat)).length = none) :
    t.entry c = if (t.codeWords c (t.ctx c).pc.toNat).headD 0 = 0 then .absent
      else if (t.codeWords c (t.ctx c).pc.toNat).headD 0 % 8 = 4 then .marked causeEntry (t.ctx c).pc (t.ctx c).pc []
      else t.entryWords c (t.codeWords c (t.ctx c).pc.toNat) := by
  have hpc : (t.ctx c).pc - BitVec.ofNat 64 ((t.ctx c).pc.toNat % 4) = (t.ctx c).pc := by rw [halign]; exact BitVec.sub_zero _
  have hmatch : (if ((t.ctx c).bps && (t.ctx c).bpArmed) = true then none else (t.core (coreOf c)).matching c (t.ctx c).pc) = none := by
    obtain h | h := hbp
    · rw [if_pos h]
    · rw [h, ite_self]
  unfold State.entry
  dsimp only
  rw [hpc, hfetch]
  dsimp only
  rw [if_neg (not_not_intro rfl), hres, if_neg (by simp), hwords, hmatch]

/-- Words that hold no poison come to their instruction, to the trap of its level, or to the refusal of their encoding. -/
theorem entryWords_eq {t : State} {c : CtxId} {ws : List Nat}
    (hpoison : ∀ n < (takenWords ws).length, t.fetchPoisoned c ((t.ctx c).pc.toNat + 4 * n) 4 = false) :
    t.entryWords c ws = match decode ws with
      | .error e => .marked causeIllegal (e.ceaddr 0) (t.ctx c).pc (takenWords ws)
      | .ok (i, _) => match if (t.ctx c).hl then none else Instr.privileged i with
        | some ceaddr => .marked causePrivileged ceaddr (t.ctx c).pc (takenWords ws)
        | none => .instr i (takenWords ws) := by
  have hnone : (span 0 (takenWords ws).length).find? (fun n => t.fetchPoisoned c ((t.ctx c).pc.toNat + 4 * n) 4) = none :=
    List.find?_eq_none.2 fun n hn => by
      have := (ModuleParts.mem_span.1 hn).2
      simp [hpoison n (by omega)]
  unfold State.entryWords
  dsimp only
  rw [hnone] <;> rfl

/-- The issue of a context whose entry is an instruction or a refusal of its words: what level refuses, the instruction itself refuses. -/
theorem issueAt_decoded {t v : State} (hv : v.fetchHits v.cur = t) {ws : List Nat} {i : Instr} {n : Nat} (hdec : decode ws = .ok (i, n))
    (hentry : t.entry t.cur = t.entryWords t.cur ws)
    (hpoison : ∀ n < (takenWords ws).length, t.fetchPoisoned t.cur (t.me.pc.toNat + 4 * n) 4 = false) :
    v.issueAt exec = exec i ((t.modMe Ctx.skipped).latch (takenWords ws) (Instr.charge i)) := by
  obtain ⟨hpc, hhl⟩ := me_issue t (takenWords ws) (Instr.charge i)
  unfold State.issueAt
  dsimp only
  rw [hv, hentry, entryWords_eq hpoison, hdec]
  dsimp only
  cases hp : if (t.ctx t.cur).hl then none else Instr.privileged i with
  | none => rfl
  | some ceaddr =>
    obtain ⟨hl, hp⟩ := Option.ite_none_left_eq_some.1 hp
    rw [exec_privileged hp (hhl.trans (Bool.eq_false_iff.2 hl)), State.refuse, hpc, charge_privileged hp]
    rfl

/-- The issue of a context whose words are no instruction. -/
theorem issueAt_illegal {t v : State} (hv : v.fetchHits v.cur = t) {ws : List Nat} {e : Illegal} (hdec : decode ws = .error e)
    (hentry : t.entry t.cur = t.entryWords t.cur ws)
    (hpoison : ∀ n < (takenWords ws).length, t.fetchPoisoned t.cur (t.me.pc.toNat + 4 * n) 4 = false) :
    v.issueAt exec = .next (((t.modMe Ctx.skipped).latch (takenWords ws) 1).trap 0x01 (e.ceaddr 0) t.me.pc) := by
  unfold State.issueAt
  dsimp only
  rw [hv, hentry, entryWords_eq hpoison, hdec]
  rfl

theorem issueAt_absent {t v : State} (hv : v.fetchHits v.cur = t) (hentry : t.entry t.cur = .absent) (run : Instr → State → Out) :
    v.issueAt run = .next t := by
  unfold State.issueAt
  dsimp only
  rw [hv, hentry]

/-- The step of a context that has its turn. -/
theorem step_turn {s u : State}
    (h : (s.agenda = [] ∧ u = s) ∨ ∃ c r, s.agenda = .context c :: r ∧ u = { s with agenda := r, cur := c }) : step s = u.turn exec := by
  unfold step
  obtain ⟨ha, rfl⟩ | ⟨c, r, ha, rfl⟩ := h <;> rw [ha]

/-- Settles O56. -/
theorem stepRunsDecodedInstruction : Obligations.StepRunsDecodedInstruction := by
  unfold Obligations.StepRunsDecodedInstruction
  refine fun s => ⟨fun i r ha hi => ?_, fun u hu hstep helig himp hwin => ?_⟩
  · unfold step
    rw [ha]
    exact if_pos hi
  · obtain ⟨hactive, hwaiting⟩ := turn_eligible exec hstep helig himp hwin
    rw [step_turn hu]
    refine ⟨fun hrun => ?_, hwaiting⟩
    rw [hactive hrun]
    generalize State.settle u.cur fillerFuel u = v
    intro v' t pc ws issued halign hres hbp hfetch hwords hpoison
    have hv : v.fetchHits v.cur = t := rfl
    clear_value t
    have hentry := entry_eq halign hres hbp hfetch hwords
    refine ⟨fun i n hdec => ?_, fun e hdec h0 h4 => ?_, fun h0 => ?_⟩
    · obtain ⟨h0, h4⟩ := head_of_decode hdec
      exact issueAt_decoded hv hdec (hentry.trans ((if_neg h0).trans (if_neg h4))) hpoison
    · exact issueAt_illegal hv hdec (hentry.trans ((if_neg h0).trans (if_neg h4))) hpoison
    · exact issueAt_absent hv (hentry.trans (if_pos h0)) exec
end Sys2Proof.CoreFlow

namespace Sys2Proof.CoreFlow
open Sys2Proof Sys2Proof.Machine

/-! ### The cycle of an identifier that is no core's (O46)

The clause on a cycle of the pipe speaks of every `core : CoreId`, a number. `ctxsOf 1` are the contexts of core 0, and what they have at
the tape stands in the pipe of core 0, of which the clause says nothing; but what issues in the cycle of 1 enters the pipe kept under 1. -/

/-- A packet of context 0 with no operands. -/
def barePacket (tag : Nat) (i : Instr) (part : Nat) : Packet :=
  { ctx := 0, tag := tag, instr := i, words := [0], addr := 0, srcs := [], dsts := [], launched := true, performed := false,
    complete := false, asks := none, parked := false, mark := none, issued := 0, laps := 0, limit := 0, loop := (0, 0, 0),
    halts := false, part := part, seen := [] }

/-- An identifier that names context 1 of core 0. -/
def strayCore : CoreId := 1

/-- Context 0, idle at handler level, has in the retire queue of core 0 a YIELD that stands where a VSTX goes on and an RTE; one launched
packet stands at stage 2 of the pipe kept under `strayCore`. -/
def strayState : State :=
  (((State.reset.modCtx 0 fun x => { x with hl := true }).modPipe 0 fun p =>
    { p with retire := [barePacket 2 .yield 1, barePacket 3 .rte 0], tags := [(0, [3])] }).modPipe strayCore fun p =>
    { p with instrs := [(2, barePacket 5 .nop 0)] })

/-- How many packets the stages of `strayCore` hold after a step. -/
def strayPackets : Out → Nat
  | .next t => (t.core strayCore).pipe.instrs.length
  | .fault _ => 0
  | .refused _ => 0

/-- The tape performs the YIELD, which puts context 0 aside, and then the RTE, which brings it back with no shadow: it issues in this cycle,
and its packet enters beside the one that climbs. -/
theorem strayPackets_pipeCycle : strayPackets (exec (.pipeCycle strayCore) strayState) = 2 := by decide +kernel

/-- Every context that `strayCore` names is idle, with no limit on a wait. -/
theorem strayState_idle : ∀ d ∈ ctxsOf strayCore, (strayState.ctx d).run = .idle ∧ (strayState.ctx d).waitLimit = 0 := by decide

/-- Refutes O46, at its clause on a cycle with one launched packet: under an identifier that is not a core's own, a context that was idle
issues in the cycle, and two packets stand where the clause has the one. -/
theorem not_pipeEvents : ¬ Obligations.PipeEvents := by
  unfold Obligations.PipeEvents
  intro h
  obtain ⟨-, hcycle, -⟩ := h strayState strayCore 0 .alu
  obtain ⟨-, hone⟩ := hcycle (by decide)
  obtain ⟨t, hstep, hinstrs, -⟩ := hone 2 (barePacket 5 .nop 0) (by decide) rfl rfl rfl rfl rfl rfl rfl rfl rfl rfl
    fun d hd => ⟨.inl (strayState_idle d hd).1, (strayState_idle d hd).2⟩
  have htwo := strayPackets_pipeCycle
  rw [hstep, strayPackets, hinstrs] at htwo
  exact absurd htwo (by decide)

end Sys2Proof.CoreFlow

namespace Sys2Proof.WorkHierarchy
open Sys2Proof Sys2Proof.Machine Sys2Proof.Safety Sys2Proof.ModuleParts

/-! ### Lanes of a vector register (R213, R214) -/

theorem span_eq_range' (lo n : Nat) : span lo n = List.range' lo n := by
  induction n generalizing lo with
  | zero => rfl
  | succ n ih => rw [span, ih, List.range'_succ]

theorem span_zero (n : Nat) : span 0 n = List.range n := by rw [span_eq_range', List.range_eq_range']

theorem laneOf_vec (x : Ctx) (w : Nat) (r : VReg) (i : Nat) : laneOf w (x.vec r) i = (Claim.lane w (x.readV r) i).toNat := by
  rw [Claim.lane, BitVec.extractLsb'_toNat, Nat.shiftRight_eq_div_pow]
  rfl

theorem active_eq (x : Ctx) (m : Option KReg) : x.active m = Claim.active x m := by
  funext i
  cases m <;> rfl

theorem packLanes_lt (w : Nat) (l : List Nat) : packLanes w l < 2 ^ (w * l.length) := by
  induction l with
  | nil => exact Nat.one_pos
  | cons x r ih =>
    have hx : x % 2 ^ w < 2 ^ w := Nat.mod_lt _ (Nat.two_pow_pos w)
    have hr : 2 ^ w * (packLanes w r + 1) ≤ 2 ^ w * 2 ^ (w * r.length) := Nat.mul_le_mul_left _ ih
    rw [packLanes, List.length_cons, Nat.mul_succ, Nat.add_comm (w * r.length), Nat.pow_add]
    rw [Nat.mul_succ] at hr
    omega

theorem laneOf_packLanes (w : Nat) (l : List Nat) {i : Nat} (h : i < l.length) : laneOf w (packLanes w l) i = l.getD i 0 % 2 ^ w := by
  induction l generalizing i with
  | nil => cases h
  | cons x r ih =>
    have hw : 0 < 2 ^ w := Nat.two_pow_pos w
    cases i with
    | zero => rw [laneOf, packLanes, Nat.mul_zero, Nat.pow_zero, Nat.div_one, Nat.add_mul_mod_self_left, Nat.mod_mod]; rfl
    | succ i =>
      rw [List.getD_cons_succ, ← ih (Nat.lt_of_succ_lt_succ h), laneOf, laneOf, packLanes, Nat.mul_succ, Nat.add_comm (w * i), Nat.pow_add,
        ← Nat.div_div_eq_div_mul, Nat.add_mul_div_left _ _ hw, Nat.div_eq_of_lt (Nat.mod_lt _ hw), Nat.zero_add]

/-- A register packed from as many lanes as it has room for. -/
theorem toNat_packed {w : Nat} {l : List Nat} (hfit : w * l.length ≤ 512) : (BitVec.ofNat 512 (packLanes w l)).toNat = packLanes w l := by
  rw [BitVec.toNat_ofNat, Nat.mod_eq_of_lt (lt_of_lt_of_le (packLanes_lt w l) (Nat.pow_le_pow_right (by decide) hfit))]

theorem lane_packed {w : Nat} {l : List Nat} (hfit : w * l.length ≤ 512) {i : Nat} (h : i < l.length) :
    Claim.lane w (BitVec.ofNat 512 (packLanes w l)) i = BitVec.ofNat w (l.getD i 0) := by
  apply BitVec.eq_of_toNat_eq
  rw [Claim.lane, BitVec.extractLsb'_toNat, Nat.shiftRight_eq_div_pow, toNat_packed hfit, BitVec.toNat_ofNat]
  exact laneOf_packLanes w l h

theorem ofNat_laneOf (x : Ctx) (w : Nat) (r : VReg) (i : Nat) : BitVec.ofNat w (laneOf w (x.vec r) i) = Claim.lane w (x.readV r) i := by
  rw [laneOf_vec, BitVec.ofNat_toNat, BitVec.setWidth_eq]

/-! ### Conversions (R222, R223) -/

/-- The flags of lanes of which the inactive ones raise none. -/
theorem flagsOf_active (x : Ctx) (m : Option KReg) (n : Nat) (f : Nat → Res) (old : Nat → Nat) :
    flagsOf ((span 0 n).map fun i => if x.active m i then f i else (old i, 0)) = Claim.laneFlags x m n fun i => (f i).2 := by
  rw [span_zero, flagsOf, List.foldl_map, Claim.laneFlags, active_eq]
  congr 1
  funext g i
  cases Claim.active x m i
  · exact BitVec.or_zero
  · rfl

/-- A conversion of n lanes that fit into v[d] and raise no enabled flag. -/
theorem convert_lanes {i : Instr} {s : State} {n ws wd : Nat} {d a : VReg} {m : Option KReg} {f : Nat → Res}
    (he : exec i s = s.convert n ws wd d a m f) (hfit : wd * n ≤ 512)
    (hclear : (Claim.laneFlags s.me m n fun j => (f (Claim.lane ws (s.me.readV a) j).toNat).2) &&& s.me.enabled = 0) :
    ∃ v, ComputesVFlags i s 8 d v (Claim.laneFlags s.me m n fun j => (f (Claim.lane ws (s.me.readV a) j).toNat).2) ∧
      (∀ j < n, Claim.lane wd v j = if Claim.active s.me m j then BitVec.ofNat wd (f (Claim.lane ws (s.me.readV a) j).toNat).1
        else Claim.lane wd (s.me.readV d) j) ∧ v.toNat < 2 ^ (wd * n) := by
  have hflags := flagsOf_active s.me m n (fun i => f (laneOf ws (s.me.vec a) i)) (laneOf wd (s.me.vec d))
  simp only [laneOf_vec s.me ws a] at hflags
  refine ⟨BitVec.ofNat 512 (packLanes wd ((span 0 n).map fun i =>
    (if s.me.active m i then f (laneOf ws (s.me.vec a) i) else (laneOf wd (s.me.vec d) i, 0)).1)), ⟨_, ?_, finishV_wrote ..⟩, fun j hj => ?_, ?_⟩
  · rw [he, State.convert]
    simp only [laneOf_vec s.me ws a, hflags, List.map_map]
    exact finish_clear hclear
  · rw [lane_packed (by simpa [length_span] using hfit) (by simpa [length_span] using hj), span_zero]
    simp only [List.getD_eq_getElem?_getD, List.getElem?_map, List.getElem?_range hj, Option.map_some, Option.getD_some, active_eq,
      laneOf_vec s.me ws a]
    split
    · rfl
    · exact ofNat_laneOf ..
  · have hlt := packLanes_lt wd ((span 0 n).map fun i =>
      (if s.me.active m i then f (laneOf ws (s.me.vec a) i) else (laneOf wd (s.me.vec d) i, 0)).1)
    rw [toNat_packed (by simpa [length_span] using hfit)]
    simpa [length_span] using hlt

/-! ### Reductions and scans (R87, R220) -/

theorem actives_eq (x : Ctx) (ty : ElemTy) (a : VReg) (m : Option KReg) :
    x.actives ty a m = (((List.range (512 / ElemTy.width ty)).filter fun j => Claim.active x m j).map fun j =>
      (Claim.lane (ElemTy.width ty) (x.readV a) j).toNat) := by
  rw [Ctx.actives, span_zero, active_eq]
  exact List.map_congr_left fun i _ => laneOf_vec ..

/-- A scan has a value for each of the values scanned. -/
theorem length_scanFrom (op : RedOp) (ty : ElemTy) (xs : List Nat) (o : Option Res) : (scanFrom op ty o xs).length = xs.length := by
  induction xs generalizing o with
  | nil => cases o <;> rfl
  | cons x r ih =>
    cases o with
    | none => rw [scanFrom, List.length_cons, ih]; rfl
    | some v =>
      rw [scanFrom, List.length_cons, List.length_cons]
      split
      next he => rw [List.isEmpty_iff.1 he]; rfl
      next => exact congrArg (· + 1) (ih _)

theorem length_scanList (op : RedOp) (ty : ElemTy) (xs : List Nat) : (scanList op ty xs).length = xs.length := length_scanFrom ..

/-- The integer types of a vector. -/
def integer (ty : ElemTy) : Prop := ty ∈ Claim.signedTypes ++ Claim.unsignedTypes

theorem fmt_of_integer {ty : ElemTy} (h : integer ty) : ElemTy.fmt ty = none := by
  simp only [integer, Claim.signedTypes, Claim.unsignedTypes, List.cons_append, List.nil_append, List.mem_cons, List.not_mem_nil, or_false] at h
  rcases h with rfl | rfl | rfl | rfl | rfl | rfl | rfl | rfl <;> rfl

theorem intOf_emod (ty : ElemTy) (x : Nat) : ElemTy.intOf ty x % 2 ^ ElemTy.width ty = (x : Int) % 2 ^ ElemTy.width ty := by
  have hcast : ((x % 2 ^ ElemTy.width ty : Nat) : Int) = (x : Int) % 2 ^ ElemTy.width ty := by push_cast; rfl
  unfold ElemTy.intOf signedOf
  dsimp only
  split
  · split
    · rw [hcast, Int.emod_emod]
    · rw [hcast, Int.sub_emod_right, Int.emod_emod]
  · rw [hcast, Int.emod_emod]

/-- The sum of two elements of an integer type is that of their values modulo 2^w. -/
theorem elemAdd_integer {ty : ElemTy} (h : integer ty) (x y : Nat) : elemAdd ty x y = ((x + y) % 2 ^ ElemTy.width ty, 0) := by
  rw [elemAdd, elem2, fmt_of_integer h]
  dsimp only
  rw [unsignedOf, Int.add_emod, intOf_emod, intOf_emod, ← Int.add_emod]
  congr 1

section Sums
variable {ty : ElemTy}

/-- Elements of a width whose sum is that of other elements modulo 2^w. -/
def SumsTo (w : Nat) (l : List Res) (n : Nat) : Prop := (∀ r ∈ l, r.1 < 2 ^ w) ∧ (l.map Prod.fst).sum % 2 ^ w = n % 2 ^ w

/-- The combination of two partial results of a sum. -/
def addRes (ty : ElemTy) (a b : Res) : Res := ((elemRed .add ty a.1 b.1).1, a.2 ||| b.2 ||| (elemRed .add ty a.1 b.1).2)

theorem addRes_integer (h : integer ty) (a b : Res) : (addRes ty a b).1 = (a.1 + b.1) % 2 ^ ElemTy.width ty :=
  congrArg Prod.fst (elemAdd_integer h a.1 b.1)

/-- A level of the tree keeps the sum. -/
theorem sumsTo_pairUp (h : integer ty) (l : List Res) {n : Nat} (hl : SumsTo (ElemTy.width ty) l n) :
    SumsTo (ElemTy.width ty) (pairUp (addRes ty) l) n := by
  induction l using pairUp.induct generalizing n with
  | case1 a b r ih =>
    obtain ⟨hlt, hsum⟩ := hl
    obtain ⟨hlt', hsum'⟩ := ih (n := (r.map Prod.fst).sum) ⟨fun x hx => hlt x (by simp [hx]), rfl⟩
    refine ⟨?_, ?_⟩
    · rw [pairUp, List.forall_mem_cons]
      exact ⟨addRes_integer h a b ▸ Nat.mod_lt _ (Nat.two_pow_pos _), hlt'⟩
    · rw [pairUp, List.map_cons, List.sum_cons, addRes_integer h, Nat.mod_add_mod, Nat.add_mod, hsum', ← Nat.add_mod, ← hsum]
      simp [Nat.add_assoc]
  | case2 l hne => rwa [pairUp.eq_2 _ _ hne]

theorem length_pairUp {α : Type} (f : α → α → α) (l : List α) : (pairUp f l).length = (l.length + 1) / 2 := by
  induction l using pairUp.induct with
  | case1 a b r ih => rw [pairUp, List.length_cons, ih]; simp only [List.length_cons]; omega
  | case2 l hne =>
    rw [pairUp.eq_2 _ _ hne]
    match l, hne with
    | [], _ => simp
    | [_], _ => simp
    | a :: b :: r, hne => exact absurd rfl (hne a b r)

/-- The tree over elements of an integer type is their sum modulo 2^w. -/
theorem treeFuel_sum (h : integer ty) (fuel : Nat) (l : List Res) {n : Nat} (hf : l.length ≤ fuel + 1) (hl : SumsTo (ElemTy.width ty) l n) :
    (treeFuel (addRes ty) (0, 0) fuel l).1 = n % 2 ^ ElemTy.width ty := by
  induction fuel generalizing l with
  | zero =>
    match l, hf, hl with
    | [], _, hl => exact hl.2 ▸ (Nat.zero_mod _).symm
    | [a], _, hl => simpa [treeFuel, Nat.mod_eq_of_lt (hl.1 a (by simp))] using hl.2
  | succ fuel ih =>
    match l, hf, hl with
    | [], _, hl => exact hl.2 ▸ (Nat.zero_mod _).symm
    | [a], _, hl => simpa [treeFuel, Nat.mod_eq_of_lt (hl.1 a (by simp))] using hl.2
    | a :: b :: r, hf, hl =>
      refine ih (pairUp (addRes ty) (a :: b :: r)) ?_ (sumsTo_pairUp h _ hl)
      rw [length_pairUp]
      omega

theorem reduceList_add (h : integer ty) {xs : List Nat} (hx : ∀ x ∈ xs, x < 2 ^ ElemTy.width ty) :
    (reduceList .add ty xs).1 = xs.sum % 2 ^ ElemTy.width ty := by
  refine treeFuel_sum h _ (xs.map fun x => ((x, 0) : Res)) (by omega) ⟨fun r hr => ?_, ?_⟩
  · obtain ⟨x, hmem, rfl⟩ := List.mem_map.1 hr
    exact hx x hmem
  · rw [List.map_map]
    congr 1
    exact congrArg List.sum (List.map_id' xs)

/-- Each value of a scan of sums is the sum of what stands before it. -/
theorem scanFrom_add (h : integer ty) (xs : List Nat) (r : Res) (hr : r.1 < 2 ^ ElemTy.width ty) {j : Nat} (hj : j < xs.length) :
    ((scanFrom .add ty (some r) xs).getD j (0, 0)).1 = (r.1 + (xs.take j).sum) % 2 ^ ElemTy.width ty := by
  induction xs generalizing r j with
  | nil => cases hj
  | cons x xs ih =>
    cases j with
    | zero => simp [scanFrom, Nat.mod_eq_of_lt hr]
    | succ j =>
      have hne : xs.isEmpty = false := by cases xs <;> simp at hj ⊢
      have hsum : (elemRed .add ty r.1 x).1 = (r.1 + x) % 2 ^ ElemTy.width ty := congrArg Prod.fst (elemAdd_integer h r.1 x)
      rw [scanFrom, if_neg (by simp [hne]), List.getD_cons_succ, ih _ (hsum ▸ Nat.mod_lt _ (Nat.two_pow_pos _)) (Nat.lt_of_succ_lt_succ hj)]
      dsimp only
      rw [hsum, Nat.mod_add_mod, List.take_succ_cons, List.sum_cons, Nat.add_assoc]

theorem scanList_add (h : integer ty) {xs : List Nat} (hx : ∀ x ∈ xs, x < 2 ^ ElemTy.width ty) {j : Nat} (hj : j < xs.length) :
    ((scanList .add ty xs).getD j (0, 0)).1 = (xs.take j).sum % 2 ^ ElemTy.width ty := by
  cases xs with
  | nil => cases hj
  | cons x xs =>
    cases j with
    | zero => rfl
    | succ j => exact scanFrom_add h xs (x, 0) (hx x (by simp)) (Nat.lt_of_succ_lt_succ hj)
end Sums

/-! #### The lanes that a scan writes -/

theorem spread_off {act : Nat → Bool} {i : Nat} (h : act i = false) (o : Nat) (os vs : List Nat) :
    spread act (o :: os) vs i = o :: spread act os vs (i + 1) := by simp [spread, h]

theorem spread_on {act : Nat → Bool} {i : Nat} (h : act i = true) (o : Nat) (os : List Nat) (v : Nat) (r : List Nat) :
    spread act (o :: os) (v :: r) i = v :: spread act os r (i + 1) := by simp [spread, h]

theorem spread_out {act : Nat → Bool} {i : Nat} (h : act i = true) (o : Nat) (os : List Nat) :
    spread act (o :: os) [] i = o :: spread act os [] (i + 1) := by simp [spread, h]

theorem length_spread (act : Nat → Bool) (old vs : List Nat) (i : Nat) : (spread act old vs i).length = old.length := by
  induction old generalizing vs i with
  | nil => rfl
  | cons o os ih =>
    cases h : act i with
    | false => simp [spread_off h, ih]
    | true =>
      cases vs with
      | nil => simp [spread_out h, ih]
      | cons v r => simp [spread_on h, ih]

theorem spread_inactive (act : Nat → Bool) (old vs : List Nat) (i : Nat) {k : Nat} (h : act (i + k) = false) :
    (spread act old vs i).getD k 0 = old.getD k 0 := by
  induction old generalizing vs i k with
  | nil => rfl
  | cons o os ih =>
    cases k with
    | zero => rw [spread_off (i := i) h]; rfl
    | succ k =>
      have h' : act (i + 1 + k) = false := by rw [← h]; congr 1; omega
      cases hi : act i with
      | false => rw [spread_off hi]; exact ih _ _ h'
      | true =>
        cases vs with
        | nil => rw [spread_out hi]; exact ih _ _ h'
        | cons v r => rw [spread_on hi]; exact ih _ _ h'

theorem spread_active (act : Nat → Bool) (old vs : List Nat) (i : Nat) (hv : vs.length = ((List.range' i old.length).filter act).length)
    {j : Nat} (hj : j < vs.length) :
    (spread act old vs i).getD (((List.range' i old.length).filter act).getD j 0 - i) 0 = vs.getD j 0 := by
  induction old generalizing vs i j with
  | nil => rw [hv] at hj; cases hj
  | cons o os ih =>
    have hlater {j : Nat} (hj : j < ((List.range' (i + 1) os.length).filter act).length) :
        ((List.range' (i + 1) os.length).filter act).getD j 0 - i = ((List.range' (i + 1) os.length).filter act).getD j 0 - (i + 1) + 1 := by
      have hmem := List.mem_filter.1 (List.getElem_mem hj)
      have hge := (List.mem_range'_1.1 hmem.1).1
      rw [List.getD_eq_getElem _ _ hj]
      omega
    rw [List.length_cons, List.range'_succ] at hv ⊢
    by_cases ha : act i = true
    · rw [List.filter_cons_of_pos ha] at hv ⊢
      cases vs with
      | nil => cases hj
      | cons v r =>
        rw [List.length_cons, List.length_cons, Nat.add_right_cancel_iff] at hv
        rw [spread_on ha]
        cases j with
        | zero => simp
        | succ j =>
          have hj' : j < r.length := Nat.lt_of_succ_lt_succ hj
          rw [List.getD_cons_succ, List.getD_cons_succ, hlater (hv ▸ hj'), List.getD_cons_succ]
          exact ih r (i + 1) hv hj'
    · rw [List.filter_cons_of_neg ha] at hv ⊢
      rw [spread_off (Bool.not_eq_true _ ▸ ha), hlater (hv ▸ hj), List.getD_cons_succ]
      exact ih vs (i + 1) hv hj

/-- VSCAN with no enabled flag raised. -/
theorem vscan_lanes {op : RedOp} {ty : ElemTy} {d a : VReg} {m : Option KReg} {s : State} {act : List Nat} {scan : List Res}
    (hact : act = (List.range (512 / ElemTy.width ty)).filter fun j => Claim.active s.me m j)
    (hscan : scan = scanList op ty (s.me.actives ty a m)) (hlen : scan.length = act.length) (hclear : flagsOf scan &&& s.me.enabled = 0) :
    ∃ v, ComputesVFlags (.vscan op ty d a m) s 8 d v (flagsOf scan) ∧
      (∀ j < 512 / ElemTy.width ty, Claim.active s.me m j = false →
        Claim.lane (ElemTy.width ty) v j = Claim.lane (ElemTy.width ty) (s.me.readV d) j) ∧
      ∀ j < act.length, Claim.lane (ElemTy.width ty) v (act.getD j 0) = BitVec.ofNat (ElemTy.width ty) (scan.getD j (0, 0)).1 := by
  have hfit : ElemTy.width ty * (spread (s.me.active m) ((span 0 (512 / ElemTy.width ty)).map (laneOf (ElemTy.width ty) (s.me.vec d)))
      (scan.map Prod.fst) 0).length ≤ 512 := by
    rw [length_spread, List.length_map, length_span]
    exact Nat.mul_div_le ..
  have hn {j : Nat} (hj : j < 512 / ElemTy.width ty) : j < (spread (s.me.active m)
      ((span 0 (512 / ElemTy.width ty)).map (laneOf (ElemTy.width ty) (s.me.vec d))) (scan.map Prod.fst) 0).length := by
    rwa [length_spread, List.length_map, length_span]
  refine ⟨BitVec.ofNat 512 (packLanes (ElemTy.width ty) (spread (s.me.active m)
    ((span 0 (512 / ElemTy.width ty)).map (laneOf (ElemTy.width ty) (s.me.vec d))) (scan.map Prod.fst) 0)), ⟨_, ?_, finishV_wrote ..⟩,
    fun j hj hoff => ?_, fun j hj => ?_⟩
  · subst hscan
    exact finish_clear hclear
  · rw [lane_packed hfit (hn hj), spread_inactive _ _ _ _ (by rw [Nat.zero_add, active_eq, hoff]), span_zero]
    simp only [List.getD_eq_getElem?_getD, List.getElem?_map, List.getElem?_range hj, Option.map_some, Option.getD_some]
    exact ofNat_laneOf ..
  · have hold : ((List.range' 0 ((span 0 (512 / ElemTy.width ty)).map (laneOf (ElemTy.width ty) (s.me.vec d))).length).filter (s.me.active m)) =
        act := by
      rw [List.length_map, length_span, ← List.range_eq_range', active_eq, hact]
    have hin : act.getD j 0 < 512 / ElemTy.width ty := by
      rw [List.getD_eq_getElem _ _ hj]
      have hmem : act[j] ∈ (List.range (512 / ElemTy.width ty)).filter fun j => Claim.active s.me m j := hact ▸ List.getElem_mem hj
      exact List.mem_range.1 (List.mem_filter.1 hmem).1
    have hspread := spread_active (s.me.active m) ((span 0 (512 / ElemTy.width ty)).map (laneOf (ElemTy.width ty) (s.me.vec d)))
      (scan.map Prod.fst) 0 (by rw [hold, List.length_map, hlen]) (j := j) (by rw [List.length_map, hlen]; exact hj)
    rw [hold, Nat.sub_zero] at hspread
    rw [lane_packed hfit (hn hin), hspread, List.getD_eq_getElem?_getD, List.getElem?_map, List.getD_eq_getElem?_getD,
      List.getElem?_eq_getElem (hlen ▸ hj)]
    rfl

/-! #### An enabled flag -/

/-- The instruction whose enabled flag is an FP exception at task level. -/
theorem finish_traps {i : Instr} {s : State} {f : Flags} {w : Ctx → Ctx} (he : exec i s = s.finish 8 f w) (hl : s.me.hl = false)
    (hf : f &&& s.me.enabled ≠ 0) :
    ∃ u, exec i s = .next u ∧ Trapped (s.setCtx s.cur { s.me with cstat := s.me.cstat ||| f }) u 0x07 (f.setWidth 64) s.me.pc :=
  ⟨_, he.trans (finish_enabled hf), trap_trapped (s := s.modMe (·.raise f)) (by rw [State.me_modMe]; exact hl) ..⟩

/-- Settles O31: VRED and VSCAN end with the tree and the scan over the active lanes, the conversions with one lane for each source lane. -/
theorem vectorReductionsAndConversions : Obligations.VectorReductionsAndConversions := by
  unfold Obligations.VectorReductionsAndConversions
  intro s op ty ty2 d a g m w n x act red scan scanFlags converts
  have hactives : s.me.actives ty a m = act.map x := actives_eq ..
  have hred : exec (.vred op ty g a m) s = s.finish 8 red.2 (·.writeG g (ElemTy.extend ty red.1)) := by
    change s.finish 8 (reduceList op ty (s.me.actives ty a m)).2 _ = _
    rw [hactives]
  have hscan : scan = scanList op ty (s.me.actives ty a m) := by rw [hactives]
  have hlen : scan.length = act.length := (length_scanList ..).trans (List.length_map _)
  have hlt : ∀ y ∈ act.map x, y < 2 ^ w := fun y hy => by
    obtain ⟨j, -, rfl⟩ := List.mem_map.1 hy
    exact BitVec.isLt _
  refine ⟨fun e he hl hf => ?_, fun hclear => ⟨_, hred.trans (finish_clear hclear), finishG_wrote ..⟩, vscan_lanes rfl hscan hlen,
    fun hop hty => ?_, convert_lanes rfl ?_, fun hty => ⟨convert_lanes rfl ?_, convert_lanes rfl ?_⟩⟩
  · simp only [List.mem_cons, List.not_mem_nil, or_false] at he
    rcases he with rfl | rfl
    · exact finish_traps hred hl hf
    · rw [show scanFlags = flagsOf (scanList op ty (s.me.actives ty a m)) by rw [hactives]; rfl] at hf ⊢
      exact finish_traps rfl hl hf
  · subst hop
    exact ⟨reduceList_add hty hlt, hlen, fun j hj => scanList_add hty hlt (by rwa [List.length_map])⟩
  · exact (Nat.mul_le_mul_left _ (Nat.div_le_div_left (Nat.le_max_right ..) (by cases ty <;> decide))).trans (Nat.mul_div_le ..)
  · simp only [List.mem_cons, List.not_mem_nil, or_false] at hty
    rcases hty with rfl | rfl | rfl <;> decide
  · decide
end Sys2Proof.WorkHierarchy

namespace Sys2Proof.WorkHierarchy
open Sys2Proof Sys2Proof.Machine Sys2Proof.Safety Sys2Proof.ModuleParts

/-! ### What a word that dispatch writes leaves as it was (R66, R106, R116)

A write at the home of a page logs a line or enters a hold queue, changes bytes of global memory, tests the WAITVALs of every queue and
breaks reservations. Dispatch's tables and everything else that a context or a core holds stay. -/

/-- The parts of the state that no write of global memory touches. -/
structure Fixed where
  cur : CtxId
  net : List Msg
  squads : SMap (Option Squad)
  launches : SMap (Option Launch)
  graphs : SMap (Option Graph)
  saved : SMap (List (Core × SMap Ctx))
  nextLaunch : Nat
  nextGraph : Nat
  served : SMap Nat

def fixedOf (s : State) : Fixed :=
  { cur := s.cur, net := s.net, squads := s.squads, launches := s.launches, graphs := s.graphs, saved := s.saved,
    nextLaunch := s.nextLaunch, nextGraph := s.nextGraph, served := s.served }

/-- A change of commands that marks WAITVALs as met, and nothing else (R285). -/
def MetOnly (f : Pending → Pending) : Prop := ∀ p, f p = p ∨ (p.cmd.op = 3 ∧ f p = { p with met := true })

/-- A state after writes of global memory. -/
structure Written (s t : State) : Prop where
  fixed : fixedOf t = fixedOf s
  ctx : ∀ c, ∃ r, t.ctx c = { s.ctx c with resv := r } ∧ ((s.ctx c).resv = none → r = none)
  core : ∀ c, ∃ l, t.core c = { s.core c with resvs := l }
  cluster : ∀ c, ∃ l, t.cluster c = { s.cluster c with resvs := l }
  die : ∀ d, ∃ u h, t.die d = { s.die d with undo := u, hold := h }
  job : ∀ n, ∃ f, MetOnly f ∧ t.job n = (s.job n).map fun j => j.mapCmds f

/-! #### The commands of a job -/

/-- A read of a table in which every value has been changed in its place. -/
theorem tget_map {α : Type} (f : Nat → α → α) (m : List (Nat × Option α)) (k : Nat) :
    tget none (m.map fun e => (e.1, e.2.map (f e.1))) k = (tget none m k).map (f k) := by
  induction m with
  | nil => rfl
  | cons e r ih =>
    rw [List.map_cons, tget, tget]
    split
    next h => rw [h]
    next => exact ih

theorem mapCmds_self (j : Job) : j.mapCmds (fun p => p) = j := by
  have h : ∀ m : SMap (Option Queue), (m.map fun e => (e.1, e.2.map fun q => { q with cmds := q.cmds.map fun p => p })) = m := fun m => by
    induction m with
    | nil => rfl
    | cons e r ih =>
      obtain ⟨n, o⟩ := e
      rw [List.map_cons, ih]
      cases o with
      | none => rfl
      | some q => simp
  unfold Job.mapCmds
  rw [h]

theorem mapCmds_mapCmds (j : Job) (f g : Pending → Pending) : (j.mapCmds f).mapCmds g = j.mapCmds (g ∘ f) := by
  unfold Job.mapCmds
  simp only [List.map_map]
  congr 1
  refine List.map_congr_left fun e _ => ?_
  cases h : e.2 <;> simp [h]

theorem queue_mapCmds (j : Job) (f : Pending → Pending) (n : Nat) :
    (j.mapCmds f).queue n = (j.queue n).map fun q => { q with cmds := q.cmds.map f } :=
  tget_map (fun _ (q : Queue) => { q with cmds := q.cmds.map f }) j.queues n

theorem metOnly_self : MetOnly fun p => p := fun _ => .inl rfl

theorem MetOnly.comp {f g : Pending → Pending} (hg : MetOnly g) (hf : MetOnly f) : MetOnly (g ∘ f) := fun p => by
  obtain hp | ⟨hop, hp⟩ := hf p
  · rw [Function.comp_apply, hp]; exact hg p
  · obtain hq | ⟨-, hq⟩ := hg { p with met := true }
    · exact .inr ⟨hop, by rw [Function.comp_apply, hp, hq]⟩
    · exact .inr ⟨hop, by rw [Function.comp_apply, hp, hq]⟩

/-- A command that is no WAITVAL stays as it is. -/
theorem MetOnly.eq_self {f : Pending → Pending} (h : MetOnly f) {p : Pending} (hp : p.cmd.op ≠ 3) : f p = p :=
  (h p).resolve_right fun h => hp h.1

theorem metOnly_testPending (s : State) (job va n : Nat) : MetOnly (s.testPending job va n) := fun p => by
  unfold State.testPending
  dsimp only
  split
  next h =>
    simp only [Pending.watches, Bool.and_eq_true, beq_iff_eq] at h
    exact .inr ⟨h.1.1.1.1.1, rfl⟩
  next => exact .inl rfl

/-! #### The parts of a write -/

theorem Written.refl (s : State) : Written s s :=
  ⟨rfl, fun _ => ⟨_, rfl, id⟩, fun _ => ⟨_, rfl⟩, fun _ => ⟨_, rfl⟩, fun _ => ⟨_, _, rfl⟩, fun n => ⟨_, metOnly_self, by
    simp only [mapCmds_self, Option.map_id']⟩⟩

theorem Written.trans {s t u : State} (h : Written s t) (h' : Written t u) : Written s u := by
  refine ⟨h'.fixed.trans h.fixed, fun c => ?_, fun c => ?_, fun c => ?_, fun d => ?_, fun n => ?_⟩
  · obtain ⟨r, hr, hn⟩ := h.ctx c
    obtain ⟨r', hr', hn'⟩ := h'.ctx c
    rw [hr] at hr' hn'
    exact ⟨r', hr', hn' ∘ hn⟩
  · obtain ⟨l, hl⟩ := h.core c
    obtain ⟨l', hl'⟩ := h'.core c
    exact ⟨l', by rw [hl', hl]⟩
  · obtain ⟨l, hl⟩ := h.cluster c
    obtain ⟨l', hl'⟩ := h'.cluster c
    exact ⟨l', by rw [hl', hl]⟩
  · obtain ⟨a, b, hl⟩ := h.die d
    obtain ⟨a', b', hl'⟩ := h'.die d
    exact ⟨a', b', by rw [hl', hl]⟩
  · obtain ⟨f, hf, hj⟩ := h.job n
    obtain ⟨g, hg, hj'⟩ := h'.job n
    exact ⟨g ∘ f, hg.comp hf, by rw [hj', hj, Option.map_map]; congr 1; funext j; exact mapCmds_mapCmds j f g⟩

/-- An update of none of the tables that `Written` speaks of. -/
theorem written_of_eq {s t : State} (hf : fixedOf t = fixedOf s) (hx : t.ctxs = s.ctxs) (hk : t.cores = s.cores) (hq : t.clusters = s.clusters)
    (hd : t.dies = s.dies) (hj : t.jobs = s.jobs) : Written s t := by
  have h := Written.refl s
  exact ⟨hf, fun c => by rw [State.ctx, hx]; exact h.ctx c, fun c => by rw [State.core, hk]; exact h.core c,
    fun c => by rw [State.cluster, hq]; exact h.cluster c, fun d => by rw [State.die, hd]; exact h.die d,
    fun n => by rw [State.job, hj]; exact h.job n⟩

theorem Written.foldl {β : Type} {f : State → β → State} (h : ∀ t b, Written t (f t b)) (l : List β) (s : State) : Written s (l.foldl f s) :=
  foldl_rel Written.refl Written.trans h l s

theorem written_loseResv (s : State) (c : CtxId) : Written s (s.loseResv c) := by
  have hr := resvKept_loseResv s c
  have hrest : fixedOf (s.loseResv c) = fixedOf s ∧ (s.loseResv c).jobs = s.jobs := by
    unfold State.loseResv
    split
    · exact ⟨rfl, rfl⟩
    · dsimp only
      split <;> exact ⟨rfl, rfl⟩
  refine ⟨hrest.1, fun d => ?_, hr.core, hr.cluster, fun d => ⟨(s.die d).undo, (s.die d).hold, by rw [State.die, hr.dies]; rfl⟩, fun n => ?_⟩
  · by_cases e : d = c
    · subst e; exact ⟨none, ctx_loseResv s d, fun _ => rfl⟩
    · exact ⟨_, ctx_loseResv_other s e, id⟩
  · rw [State.job, hrest.2]
    exact (Written.refl s).job n

theorem written_breakResvs (s : State) (h : Holder) (a n : Nat) (writer : Option CtxId) : Written s (s.breakResvs h a n writer) := by
  unfold State.breakResvs
  refine Written.foldl (fun t r => ?_) _ s
  split
  · exact written_loseResv ..
  · exact .refl t

theorem written_requestSeal (s : State) (capacity : Bool) : Written s (s.requestSeal capacity) := by
  unfold State.requestSeal
  split <;> exact written_of_eq rfl rfl rfl rfl rfl rfl

/-- An entry enters the undo region or the hold queue of a die. -/
theorem written_modDie (s : State) (n : Nat) (f : Die → Die) (h : ∀ d, ∃ u w, f d = { d with undo := u, hold := w }) :
    Written s (s.modDie n f) := by
  have hs := Written.refl s
  refine ⟨rfl, hs.ctx, hs.core, hs.cluster, fun d => ?_, hs.job⟩
  by_cases e : d = n
  · subst e; rw [State.die_modDie_same]; exact h _
  · rw [State.die_modDie_other _ _ e]; exact hs.die d

theorem written_gWriteRaw (s : State) (a n v : Nat) : Written s (s.gWriteRaw a n v) := by
  obtain ⟨g, p, h⟩ := gWriteRaw_eq s a n v
  rw [h]
  exact written_of_eq rfl rfl rfl rfl rfl rfl

theorem written_testWaits (s : State) (va n : Nat) : Written s (s.testWaits va n) := by
  have hs := Written.refl s
  exact ⟨rfl, hs.ctx, hs.core, hs.cluster, hs.die, fun k => ⟨_, metOnly_testPending s k va n, tget_map (fun k (j : Job) => j.mapCmds (s.testPending k va n)) s.jobs k⟩⟩

theorem undoBytes_cons (e : UndoEntry) (l : List UndoEntry) (h : e.core = none) : undoBytes (e :: l) = undoBytes l + 72 := by
  have hacc : ∀ (l : List UndoEntry) (n : Nat), l.foldl (fun n e => n + if e.core.isSome then 144 else 72) n = n + undoBytes l := fun l => by
    induction l with
    | nil => intro n; rfl
    | cons e r ih => intro n; rw [undoBytes, List.foldl_cons, ih, List.foldl_cons, ih]; omega
  rw [undoBytes, List.foldl_cons, hacc, h]
  exact Nat.add_comm ..

/-- A die's undo region takes an entry of global memory. -/
structure Logged (s t : State) : Prop extends Written s t where
  pages : t.pages = s.pages
  gmem : t.gmem = s.gmem
  owed : t.owed = s.owed
  undo : ∀ d, undoBytes (t.die d).undo ≤ undoBytes (s.die d).undo + 72

theorem logged_logDie {s t : State} {die : Nat} {e : UndoEntry} (he : e.core = none) (h : s.logDie die e = some t) : Logged s t := by
  simp only [State.logDie, Option.ite_none_right_eq_some, Option.some.injEq] at h
  obtain ⟨-, rfl⟩ := h
  have hw : Written s (s.modDie die fun d => { d with undo := e :: d.undo }) := written_modDie s die _ fun _ => ⟨_, _, rfl⟩
  have hu (d : Nat) : undoBytes ((s.modDie die fun d => { d with undo := e :: d.undo }).die d).undo ≤ undoBytes (s.die d).undo + 72 := by
    by_cases hd : d = die
    · subst hd; rw [State.die_modDie_same]; exact (undoBytes_cons e _ he).le
    · rw [State.die_modDie_other _ _ hd]; omega
  unfold State.watchUndo
  split
  · refine ⟨hw.trans (written_requestSeal ..), ?_, ?_, ?_, fun d => ?_⟩
    · unfold State.requestSeal; split <;> rfl
    · unfold State.requestSeal; split <;> rfl
    · unfold State.requestSeal; split <;> rfl
    · have hdie : ((s.modDie die fun d => { d with undo := e :: d.undo }).requestSeal true).die d =
          (s.modDie die fun d => { d with undo := e :: d.undo }).die d := by unfold State.requestSeal; split <;> rfl
      rw [hdie]
      exact hu d
  · exact ⟨hw, rfl, rfl, rfl, hu⟩

theorem logged_logG {s t : State} {line : Nat} (h : s.logG line = some t) : Logged s t := by
  unfold State.logG at h
  dsimp only at h
  split at h
  · obtain rfl := Option.some.inj h
    exact ⟨.refl s, rfl, rfl, rfl, fun _ => Nat.le_add_right ..⟩
  · obtain ⟨u, hu, rfl⟩ := Option.map_eq_some_iff.1 h
    have hl := logged_logDie rfl hu
    exact ⟨hl.toWritten.trans (written_of_eq rfl rfl rfl rfl rfl rfl), hl.pages, hl.gmem, hl.owed, hl.undo⟩

theorem written_logGRange {s t : State} {va n : Nat} (h : s.logGRange va n = some t) : Written s t :=
  foldl_bind_rel (f := fun u l => u.logG l) Written.refl Written.trans (fun h => (logged_logG h).toWritten) _ h

theorem logged_logGRange {s t : State} {va n : Nat} (h0 : 0 < n) (hline : va % 64 + n ≤ 64) (h : s.logGRange va n = some t) : Logged s t := by
  rw [State.logGRange, linesOf_within h0 hline] at h
  exact logged_logG h

theorem written_holdWrite (s : State) (die : Nat) (w : HeldWrite) : Written s (s.holdWrite die w) := by
  unfold State.holdWrite
  dsimp only
  have hm : Written s (s.modDie die fun d => { d with hold := d.hold ++ [w] }) := written_modDie s die _ fun _ => ⟨_, _, rfl⟩
  split
  · exact hm.trans (written_requestSeal ..)
  · exact hm

theorem written_homeWrite {s t : State} {va n v : Nat} {w : Option (CtxId × Nat × Word)} (h : s.homeWrite va n v w = .yes t) : Written s t := by
  unfold State.homeWrite at h
  dsimp only at h
  split at h
  · split at h
    · cases h
      exact (Written.foldl (fun u w => written_holdWrite u _ w) _ s).trans (written_testWaits ..)
    · cases h
  · split at h
    · cases h
    · next u hu =>
      cases h
      exact (((written_logGRange hu).trans (written_gWriteRaw ..)).trans (written_testWaits ..)).trans (written_breakResvs ..)

theorem written_tryWord {s t : State} {va v : Nat} {clock : SMap Nat} (h : s.tryWord va v clock = some t) : Written s t := by
  unfold State.tryWord at h
  split at h
  · exact Option.some.inj h ▸ .refl s
  · split at h
    · next hu =>
      obtain rfl := Option.some.inj h
      exact (written_homeWrite hu).trans (written_of_eq rfl rfl rfl rfl rfl rfl)
    · cases h

theorem written_putWord (s : State) (job : Nat) (a : Word) (v : Nat) : Written s (s.putWord job a v) := by
  unfold State.putWord
  dsimp only
  split
  · exact written_of_eq rfl rfl rfl rfl rfl rfl
  · cases h : s.tryWord (jaddr job a.toNat) v s.dispatchClock with
    | none => exact (written_requestSeal s true).trans (written_of_eq rfl rfl rfl rfl rfl rfl)
    | some t => exact written_tryWord h

/-! #### A doubleword that its home has room for -/

/-- A doubleword of global memory, byte by byte. -/
theorem gRead_word (s : State) {a : Nat} (h : a % 8 = 0) : s.gRead a 8 = (List.range 8).foldr (fun i v => s.gRead (a + i) 1 + 256 * v) 0 := by
  have hphys {i : Nat} (hi : i < 8) : s.phys (a + i) = (s.phys a).map (· + i) := by
    have hp : pageOf (a + i) = pageOf a := by unfold pageOf; omega
    have hm : (a + i) % 2 ^ 16 = a % 2 ^ 16 + i := by omega
    rw [State.phys, State.phys, hp, hm, Option.map_map]
    congr 1
    funext f
    exact (Nat.add_assoc ..).symm
  rw [State.gRead, partsOn_within (by decide) (by omega)]
  simp only [List.foldr_cons, List.foldr_nil, Nat.mul_zero, Nat.add_zero]
  cases hq : s.phys a with
  | none => simp [gRead_byte, hphys, hq, List.range_succ]
  | some q => simp [gRead_byte, hphys, hq, List.range_succ, Memory.read, Nat.add_assoc]

/-- A doubleword whose home can log and perform a write of it now. -/
structure Room (s : State) (va n : Nat) : Prop where
  aligned : va % 8 = 0
  kept : (s.pageAt va).discarded = false
  plain : (s.pageAt va).irrevocable = false
  frame : (s.pageAt va).frame ≠ none
  frames : FramesOk s
  free : s.owes va = false
  room : undoBytes (s.die (dieOf (s.pageAt va).home)).undo + 72 * n ≤ 2 ^ 30

theorem room_of_writable {s : State} {job : Nat} {a : Word} (h : Claim.Writable s job a) : Room s (jaddr job a.toNat) 4 := by
  obtain ⟨h1, h2, h3, h4, h5, h6, h7⟩ := h
  exact ⟨h1, h2, h3, h4, h5, h6, h7⟩

theorem Room.mono {s : State} {va m n : Nat} (h : Room s va n) (hm : m ≤ n) : Room s va m :=
  ⟨h.aligned, h.kept, h.plain, h.frame, h.frames, h.free, by have := h.room; omega⟩

/-- A doubleword has been written. -/
structure Put (s t : State) (va v : Nat) : Prop extends Written s t where
  pages : t.pages = s.pages
  owed : t.owed = s.owed
  undo : ∀ d, undoBytes (t.die d).undo ≤ undoBytes (s.die d).undo + 72
  word : t.gRead va 8 = v % 2 ^ 64
  bytes : FramesOk s → ∀ b, t.gRead b 1 = if va ≤ b ∧ b < va + 8 then v / 256 ^ (b - va) % 256 else s.gRead b 1

theorem framesOk_of_pages {s t : State} (h : t.pages = s.pages) (hf : FramesOk s) : FramesOk t := fun p q f hp hq =>
  hf p q f (by rw [← hp, State.page, State.page, h]) (by rw [← hq, State.page, State.page, h])

theorem Room.of_eq {s t : State} {a n : Nat} (h : Room s a n) (hp : t.pages = s.pages) (hd : t.dies = s.dies) (ho : t.owed = s.owed) :
    Room t a n := by
  have hpage : t.pageAt a = s.pageAt a := congrArg (tget Page.reset · (pageOf a)) hp
  have hdie (d : Nat) : t.die d = s.die d := congrArg (tget Die.reset · d) hd
  refine ⟨h.aligned, hpage ▸ h.kept, hpage ▸ h.plain, hpage ▸ h.frame, framesOk_of_pages hp h.frames, ?_, ?_⟩
  · rw [State.owes, ho]; exact h.free
  · rw [hpage, hdie]; exact h.room

theorem logGRange_some {s : State} {va n : Nat} (h0 : 0 < n) (hline : va % 64 + n ≤ 64)
    (hroom : undoBytes (s.die (dieOf (s.pageAt va).home)).undo + 72 ≤ 2 ^ 30) : ∃ t, s.logGRange va n = some t := by
  have hpage : pageOf (64 * (va / 64)) = pageOf va := by unfold pageOf; omega
  rw [State.logGRange, linesOf_within h0 hline]
  change ∃ t, s.logG (va / 64) = some t
  unfold State.logG
  dsimp only
  split
  · exact ⟨s, rfl⟩
  · rw [hpage]
    exact ⟨_, congrArg (Option.map _) (if_pos hroom)⟩

theorem owed_loseResv (s : State) (c : CtxId) : (s.loseResv c).owed = s.owed := by
  unfold State.loseResv
  split
  · rfl
  · dsimp only
    split <;> rfl

theorem owed_breakResvs (s : State) (h : Holder) (a n : Nat) (writer : Option CtxId) : (s.breakResvs h a n writer).owed = s.owed := by
  unfold State.breakResvs
  refine foldl_keeps State.owed (fun t r => ?_) _ s
  split
  · exact owed_loseResv ..
  · rfl

/-- A doubleword of an ordinary page is written at its home. -/
theorem homeWrite_word {s : State} {va : Nat} (v : Nat) (w : Option (CtxId × Nat × Word)) (h8 : va % 8 = 0) (hplain : (s.pageAt va).irrevocable = false)
    (hframe : (s.pageAt va).frame ≠ none) (hroom : undoBytes (s.die (dieOf (s.pageAt va).home)).undo + 72 ≤ 2 ^ 30) :
    ∃ t, s.homeWrite va 8 v w = .yes t ∧ Put s t va v := by
  have hline : va % 64 + 8 ≤ 64 := by omega
  obtain ⟨u, hu⟩ := logGRange_some (n := 8) (by decide) hline hroom
  have hl := logged_logGRange (by decide) hline hu
  obtain ⟨f, hf⟩ := Option.ne_none_iff_exists'.1 hframe
  have hpage (p : Nat) : u.page p = s.page p := congrArg (tget Page.reset · p) hl.pages
  have hphys : u.phys va = some (2 ^ 16 * f + va % 2 ^ 16) := by
    rw [State.phys, hpage]
    exact congrArg (Option.map _) hf
  have hraw := gWriteRaw_within (s := u) v (by decide : 0 < 8) (by omega : va % 2 ^ 16 + 8 ≤ 2 ^ 16) hphys
  have hr := resvKept_breakResvs ((u.gWriteRaw va 8 v).testWaits va 8) (.home (s.pageAt va).home) va 8 (w.map Prod.fst)
  have ht : s.homeWrite va 8 v w =
      .yes (((u.gWriteRaw va 8 v).testWaits va 8).breakResvs (.home (s.pageAt va).home) va 8 (w.map Prod.fst)) := by
    rw [State.homeWrite]
    dsimp only
    rw [if_neg (by simp [hplain]), hu]
  have howed : (((u.gWriteRaw va 8 v).testWaits va 8).breakResvs (.home (s.pageAt va).home) va 8 (w.map Prod.fst)).owed =
      ((u.gWriteRaw va 8 v).testWaits va 8).owed := owed_breakResvs ..
  refine ⟨_, ht, written_homeWrite ht, ?_, ?_, fun d => ?_, ?_, fun hfr b => ?_⟩
  · rw [hr.pages]
    change (u.gWriteRaw va 8 v).pages = _
    rw [hraw]
    exact hl.pages
  · rw [howed]
    change (u.gWriteRaw va 8 v).owed = _
    rw [hraw]
    exact hl.owed
  · rw [State.die, hr.dies]
    change undoBytes ((u.gWriteRaw va 8 v).die d).undo ≤ _
    rw [hraw]
    exact hl.undo d
  · rw [gRead_congr hr.gmem hr.pages]
    change (u.gWriteRaw va 8 v).gRead va 8 = _
    have hsame : ({ u with gmem := u.gmem.write 64 (2 ^ 16 * f + va % 2 ^ 16) 8 v } : State).phys va = some (2 ^ 16 * f + va % 2 ^ 16) := hphys
    rw [hraw, State.gRead, partsOn_within (by decide) (by omega), List.foldr_cons, List.foldr_nil, hsame, Nat.mul_zero, Nat.add_zero]
    exact read_write ..
  · rw [gRead_congr hr.gmem hr.pages]
    change (u.gWriteRaw va 8 v).gRead b 1 = _
    rw [gRead_gWriteRaw_within (framesOk_of_pages hl.pages hfr) v (by decide) (by omega) (by rw [hpage]; exact hframe) b,
      gRead_congr hl.gmem hl.pages]

/-! #### The words of counters -/

theorem tryWord_room {s : State} {va n : Nat} (v : Nat) (clock : SMap Nat) (h : Room s va (n + 1)) :
    ∃ t, s.tryWord va v clock = some t ∧ Put s t va v := by
  obtain ⟨t, ht, hput⟩ := homeWrite_word v none h.aligned h.plain h.frame (by have := h.room; omega)
  refine ⟨t.applyClock (pageOf va) clock, ?_, ⟨hput.toWritten.trans (written_of_eq rfl rfl rfl rfl rfl rfl), hput.pages, hput.owed, hput.undo,
    hput.word, hput.bytes⟩⟩
  rw [State.tryWord, if_neg (by simp [h.kept]), ht]

/-- A word of dispatch is written at once where there is room for it. -/
theorem put_putWord {s : State} {job : Nat} {a : Word} {n : Nat} (v : Nat) (h : Room s (jaddr job a.toNat) (n + 1)) :
    Put s (s.putWord job a v) (jaddr job a.toNat) v := by
  obtain ⟨t, ht, hput⟩ := tryWord_room v s.dispatchClock h
  have he : s.putWord job a v = t := by
    rw [State.putWord, if_neg (by simp [h.free]), ht]
    rfl
  rwa [he]

section After
variable {s t : State} {va v : Nat}

/-- Room for one word less is left after a word has been written. -/
theorem Put.room (h : Put s t va v) {a n : Nat} (hr : Room s a (n + 1)) : Room t a n := by
  have hp (a : Nat) : t.pageAt a = s.pageAt a := congrArg (tget Page.reset · (pageOf a)) h.pages
  refine ⟨hr.aligned, hp a ▸ hr.kept, hp a ▸ hr.plain, hp a ▸ hr.frame, framesOk_of_pages h.pages hr.frames, ?_, ?_⟩
  · rw [State.owes, h.owed]
    exact hr.free
  · have hroom := hr.room
    have hundo := h.undo (dieOf (s.pageAt a).home)
    rw [hp]
    omega

/-- Another doubleword keeps its value. -/
theorem Put.word_other (h : Put s t va v) (hf : FramesOk s) (h8 : va % 8 = 0) {a : Nat} (ha : a % 8 = 0) (hne : a ≠ va) :
    t.gRead a 8 = s.gRead a 8 := by
  rw [gRead_word t ha, gRead_word s ha]
  refine List.foldr_ext _ _ _ fun i hi x => ?_
  have hi8 := List.mem_range.1 hi
  rw [h.bytes hf, if_neg (by omega)]

theorem Put.bytes_other (h : Put s t va v) (hf : FramesOk s) {b : Nat} (hb : ∀ j < 8, b ≠ va + j) : t.gRead b 1 = s.gRead b 1 := by
  rw [h.bytes hf, if_neg fun ⟨h1, h2⟩ => hb (b - va) (by omega) (by omega)]
end After

theorem counterWord_lt (st : CState) (n : Nat) : counterWord st n < 2 ^ 64 := by
  have h : n % 2 ^ 32 < 2 ^ 32 := Nat.mod_lt _ (by decide)
  cases st <;> simp only [counterWord, CState.code] <;> omega
end Sys2Proof.WorkHierarchy

namespace Sys2Proof.WorkHierarchy
open Sys2Proof Sys2Proof.Machine Sys2Proof.Safety Sys2Proof.ModuleParts

/-! ### O40: the end of a unit (R65, R67, R70 to R72) -/

/-! #### The end of a launch -/

section
variable (s : State)

theorem launches_putWord (job : Nat) (a : Word) (v : Nat) : (s.putWord job a v).launches = s.launches :=
  congrArg Fixed.launches (written_putWord s job a v).fixed

theorem launches_phaseMember (job phase : Nat) (complete : Bool) : (s.phaseMember job phase complete).launches = s.launches := by
  unfold State.phaseMember
  split
  · rfl
  · split
    · rfl
    · exact launches_putWord ..

theorem launches_graphMember (g : Nat) (complete : Bool) : (s.graphMember g complete).launches = s.launches := by
  unfold State.graphMember
  split
  · rfl
  · next q hq =>
    have hcnt (v : Nat) (q1 : Graph) : (match q.cnt with
        | none => s.setGraph g (some q1)
        | some a => (s.setGraph g (some q1)).putWord q.job a v).launches = s.launches := by
      cases q.cnt with
      | none => rfl
      | some a => exact launches_putWord ..
    have hphase (st : CState) (t : State) (ht : t.launches = s.launches) :
        (if st = .running then t else t.phaseMember q.job q.phase (st == CState.complete)).launches = s.launches := by
      split
      · exact ht
      · exact (launches_phaseMember ..).trans ht
    exact hphase _ _ (hcnt ..)

variable {s}

/-- A launch that has ended stays as it is when another ends. -/
theorem launch_endOne_ended {l : Nat} {q : Launch} (h : s.launch l = some q) (hq : q.state ≠ .running) (k : Nat) (st : CState) :
    (s.endOne k st).launch l = some q := by
  unfold State.endOne
  cases hk : s.launch k with
  | none => exact h
  | some p =>
    dsimp only
    split
    · exact h
    · next hp =>
      have hne : l ≠ k := fun e => hp (by rw [e, hk] at h; cases h; exact hq)
      rw [State.launch, launches_graphMember, launches_putWord]
      exact (State.launch_setLaunch ..).trans ((if_neg hne).trans h)

theorem launch_cancelFollowers_ended {l : Nat} {q : Launch} (h : s.launch l = some q) (hq : q.state ≠ .running) (ls : List Nat) :
    (s.cancelFollowers ls).launch l = some q := by
  unfold State.cancelFollowers
  induction ls generalizing s with
  | nil => exact h
  | cons k r ih =>
    rw [List.foldl_cons]
    refine ih ?_
    split
    · exact h
    · split
      · exact launch_endOne_ended h hq ..
      · exact h

/-- A running launch ends in the state that it is given. -/
theorem launch_endOne {l : Nat} {q : Launch} (h : s.launch l = some q) (hq : q.state = .running) (st : CState) :
    (s.endOne l st).launch l = some { q with state := st } := by
  unfold State.endOne
  rw [h]
  dsimp only
  rw [if_neg (by simp [hq]), State.launch, launches_graphMember, launches_putWord]
  exact State.launch_setLaunch_same ..

theorem launch_endLaunch {l : Nat} {q : Launch} (h : s.launch l = some q) (hq : q.state = .running) {st : CState} (hst : st ≠ .running) :
    (s.endLaunch l st).launch l = some { q with state := st } := by
  have h1 := launch_endOne h hq st
  unfold State.endLaunch
  dsimp only
  split
  · exact h1
  · exact launch_cancelFollowers_ended h1 hst _
end

/-! #### A context without a launch -/

/-- Only the tables of the contexts and of the cores have changed. -/
def Local (s t : State) : Prop := ∃ cx co, t = { s with ctxs := cx, cores := co }

theorem Local.refl (s : State) : Local s s := ⟨_, _, rfl⟩

theorem Local.trans {s t u : State} (h : Local s t) (h' : Local t u) : Local s u := by
  obtain ⟨_, _, rfl⟩ := h
  obtain ⟨_, _, rfl⟩ := h'
  exact ⟨_, _, rfl⟩

theorem Local.cur {s t : State} (h : Local s t) : t.cur = s.cur := by
  obtain ⟨_, _, rfl⟩ := h
  rfl

theorem Local.gmem {s t : State} (h : Local s t) : t.gmem = s.gmem := by
  obtain ⟨_, _, rfl⟩ := h
  rfl

theorem Local.pages {s t : State} (h : Local s t) : t.pages = s.pages := by
  obtain ⟨_, _, rfl⟩ := h
  rfl

theorem Local.job {s t : State} (h : Local s t) (n : Nat) : t.job n = s.job n := by
  obtain ⟨_, _, rfl⟩ := h
  rfl

theorem Local.launches {s t : State} (h : Local s t) : t.launches = s.launches := by
  obtain ⟨_, _, rfl⟩ := h
  rfl

section
variable (s : State)

theorem local_modCtx (c : CtxId) (f : Ctx → Ctx) : Local s (s.modCtx c f) := ⟨_, _, rfl⟩
theorem local_modCore (c : CoreId) (f : Core → Core) : Local s (s.modCore c f) := ⟨_, _, rfl⟩

theorem local_purgePipe (c : CtxId) : Local s (s.purgePipe c) := by
  unfold State.purgePipe
  split
  · exact .refl s
  · exact local_modCore ..

theorem local_restKilled (c : CtxId) : Local s (s.restKilled c) := by
  unfold State.restKilled
  split
  · exact local_modCtx ..
  · exact .refl s

theorem local_remask (core : CoreId) : Local s (s.remask core) :=
  foldl_rel Local.refl Local.trans (fun t _ => local_modCtx t ..) _ s

theorem local_unbindCtx (c : CtxId) : Local s (s.unbindCtx c) :=
  ((((local_purgePipe s c).trans (local_modCore ..)).trans (local_modCtx ..)).trans (local_restKilled ..)).trans (local_remask ..)

/-- New masks change the slots of a context and nothing else of it. -/
theorem ctx_remask (core : CoreId) (c : CtxId) :
    ∃ m, (s.remask core).ctx c = { s.ctx c with row := { (s.ctx c).row with slots := m } } := by
  refine foldl_rel (R := fun s t => ∃ m, t.ctx c = { s.ctx c with row := { (s.ctx c).row with slots := m } }) (fun t => ⟨_, rfl⟩)
    (fun {_ _ _} h h' => ?_) (fun t e => ?_) _ s
  · obtain ⟨_, h⟩ := h
    obtain ⟨m, h'⟩ := h'
    exact ⟨m, by rw [h', h]⟩
  · by_cases hc : c = e.1
    · subst hc; exact ⟨_, State.ctx_modCtx_same ..⟩
    · exact ⟨_, State.ctx_modCtx_other _ _ hc⟩

theorem ctx_purgePipe (c d : CtxId) : (s.purgePipe c).ctx d = s.ctx d := by
  unfold State.purgePipe
  split <;> rfl

/-- A context that was not killed, once no launch binds it. -/
theorem ctx_unbindCtx {c : CtxId} (h : (s.ctx c).run ≠ .killed) :
    ∃ m, (s.unbindCtx c).ctx c = { (s.ctx c).unbind with row := { Row.zero with slots := m } } := by
  have hu : (((s.purgePipe c).freeClaims c).modCtx c Ctx.unbind).ctx c = (s.ctx c).unbind :=
    (State.ctx_modCtx_same ..).trans (congrArg Ctx.unbind (ctx_purgePipe s c c))
  have hrun : (s.ctx c).unbind.run = .idle := if_neg h
  obtain ⟨m, hm⟩ := ctx_remask ((((s.purgePipe c).freeClaims c).modCtx c Ctx.unbind).restKilled c) (coreOf c) c
  refine ⟨m, ?_⟩
  rw [State.unbindCtx, hm, State.restKilled, if_neg (by rw [hu, hrun]; simp), hu]
  rfl
end

/-! #### The start of a unit -/

/-- A general register of a context at the first instruction of a unit. -/
theorem readG_startUnit (x : Ctx) (c : CtxId) (r : LaunchRec) (handler : Word) (task : Nat) (i : GReg) :
    (x.startUnit c r handler task).readG i =
      if i.val = 1 then BitVec.ofNat 64 task else if i.val = 2 then BitVec.ofNat 64 c else if i.val = 3 then r.arg
      else if 4 ≤ i.val ∧ i.val ≤ 11 then r.initg.getD (i.val - 4) 0 else 0 := by
  have hg : (x.startUnit c r handler task).g = (span 0 8).foldl (fun m i => tset 0 m (4 + i) (r.initg.getD i 0))
      (tset 0 (tset 0 (tset 0 [] 1 (BitVec.ofNat 64 task)) 2 (BitVec.ofNat 64 c)) 3 r.arg) := rfl
  have hspan : span 0 8 = [0, 1, 2, 3, 4, 5, 6, 7] := rfl
  rw [Ctx.readG, hg, hspan]
  simp only [List.foldl_cons, List.foldl_nil, tget_tset]
  by_cases h : i.val ≤ 11
  · obtain ⟨i, hi⟩ := i
    interval_cases i <;> rfl
  · have hne (n : Nat) (hn : n ≤ 11) : i.val ≠ n := by omega
    have h0 : i ≠ 0 := fun e => hne 0 (by decide) (congrArg Fin.val e)
    simp [h0, hne, h, tget]

/-- The next task of a context has started. -/
structure Started (s t : State) (l : Nat) (q : Launch) (c : CtxId) (n : Nat) : Prop where
  cur : t.cur = s.cur
  same : Claim.SameBytes s t
  gmem : t.gmem = s.gmem
  pages : t.pages = s.pages
  launch : ∃ ran, t.launch l = some { q with ran := ran }
  ctx : ∃ handler, (∀ j, s.job q.job = some j → handler = j.handler) ∧ t.ctx c = { (s.ctx c).startUnit c q.record handler n with
    row := if q.record.det then (s.ctx c).row else { (s.ctx c).row with task := BitVec.ofNat 32 n } }
  stage : q.begunOn (coreOf c) = false → (t.core (coreOf c)).stage = 0

theorem sameBytes_setLaunch (s : State) (l : Nat) (q : Option Launch) : Claim.SameBytes s (s.setLaunch l q) := sameBytes_of_eq rfl rfl

theorem launches_loseResv (s : State) (c : CtxId) : (s.loseResv c).launches = s.launches :=
  congrArg Fixed.launches (written_loseResv s c).fixed

/-- The first unit of a launch on a core finds the stage counter at 0 (R251). -/
def stageCleared (s : State) (q : Launch) (c : CtxId) : State :=
  if q.begunOn (coreOf c) then s else s.modCore (coreOf c) fun k => { k with stage := 0 }

/-- A context goes to the first instruction of a unit, and its die learns what dispatch knows. -/
def unitBegun (s : State) (q : Launch) (c : CtxId) (handler : Word) (n : Nat) : State :=
  let s2 := (s.loseResv c).modCtx c fun y => y.startUnit c q.record handler n
  let s3 := if q.record.det then s2 else s2.modCtx c fun y => { y with row := { y.row with task := BitVec.ofNat 32 n } }
  s3.modDie (dieOf c) fun e => { e with clock := mergeClocks e.clock s3.dispatchClock }

/-- The context of a unit that has begun. -/
def beginCtx (x : Ctx) (q : Launch) (c : CtxId) (handler : Word) (n : Nat) : Ctx :=
  { x.startUnit c q.record handler n with row := if q.record.det then x.row else { x.row with task := BitVec.ofNat 32 n } }

/-- A tile has started one task more. -/
def taskTaken (q : Launch) (tile : Nat) : Launch := { q with ran := tset 0 q.ran tile (tget 0 q.ran tile + 1) }

theorem startTask_eq {s : State} {l : Nat} {q : Launch} {c : CtxId} {n : Nat} (hq : s.launch l = some q) (hm : s.mayStart l q c = true)
    (hn : q.nextTask (s.ctx c).tile = some n) : ∃ handler, (∀ j, s.job q.job = some j → handler = j.handler) ∧
      s.startTask l c = unitBegun ((stageCleared s q c).setLaunch l (some (taskTaken q (s.ctx c).tile))) q c handler n := by
  unfold State.startTask
  rw [hq]
  dsimp only
  rw [if_pos hm, hn]
  exact ⟨_, fun j hj => by rw [hj], rfl⟩

theorem unitBegun_eq (s : State) (q : Launch) (c : CtxId) (handler : Word) (n : Nat) :
    ∃ dies, unitBegun s q c handler n = { (s.loseResv c).setCtx c (beginCtx (s.ctx c) q c handler n) with dies := dies } := by
  have h2 : (s.loseResv c).modCtx c (fun y => y.startUnit c q.record handler n) =
      (s.loseResv c).setCtx c ((s.ctx c).startUnit c q.record handler n) := by
    rw [State.modCtx, ctx_loseResv]
    rfl
  have h3 : (if q.record.det then (s.loseResv c).setCtx c ((s.ctx c).startUnit c q.record handler n)
      else ((s.loseResv c).setCtx c ((s.ctx c).startUnit c q.record handler n)).modCtx c fun y =>
        { y with row := { y.row with task := BitVec.ofNat 32 n } }) = (s.loseResv c).setCtx c (beginCtx (s.ctx c) q c handler n) := by
    unfold beginCtx
    split
    · rfl
    · rw [State.modCtx, State.ctx_setCtx_same, State.setCtx_setCtx]
      rfl
  rw [unitBegun, h2]
  dsimp only
  rw [h3]
  exact ⟨_, rfl⟩

/-- A unit of a launch, one of whose tiles has taken a task, has begun. -/
theorem started_unitBegun (s : State) (l : Nat) (q : Launch) (c : CtxId) (handler : Word) (n : Nat)
    (hh : ∀ j, s.job q.job = some j → handler = j.handler) (hstage : q.begunOn (coreOf c) = false → (s.core (coreOf c)).stage = 0) :
    Started s (unitBegun (s.setLaunch l (some (taskTaken q (s.ctx c).tile))) q c handler n) l q c n := by
  obtain ⟨dies, hu⟩ := unitBegun_eq (s.setLaunch l (some (taskTaken q (s.ctx c).tile))) q c handler n
  have hr := resvKept_loseResv (s.setLaunch l (some (taskTaken q (s.ctx c).tile))) c
  rw [hu]
  refine ⟨cur_loseResv .., sameBytes_trans (sameBytes_trans (sameBytes_setLaunch ..) hr.sameBytes) (sameBytes_of_eq rfl rfl), hr.gmem, hr.pages, ⟨(taskTaken q (s.ctx c).tile).ran, ?_⟩,
    ⟨handler, hh, State.ctx_setCtx_same ..⟩, fun hb => ?_⟩
  · change tget none (State.loseResv _ c).launches l = _
    rw [launches_loseResv]
    exact State.launch_setLaunch_same ..
  · obtain ⟨r, hr⟩ := hr.core (coreOf c)
    exact (congrArg Core.stage hr).trans (hstage hb)

theorem sameBytes_stageCleared (s : State) (q : Launch) (c : CtxId) : Claim.SameBytes s (stageCleared s q c) := by
  unfold stageCleared
  split
  · exact sameBytes_refl s
  · exact sameBytes_modCore s _ _ fun _ => ⟨rfl, rfl, rfl⟩

theorem local_stageCleared (s : State) (q : Launch) (c : CtxId) : Local s (stageCleared s q c) := by
  unfold stageCleared
  split
  · exact .refl s
  · exact local_modCore ..

theorem ctx_stageCleared (s : State) (q : Launch) (c d : CtxId) : (stageCleared s q c).ctx d = s.ctx d := by
  unfold stageCleared
  split <;> rfl

theorem stage_stageCleared (s : State) {q : Launch} {c : CtxId} (h : q.begunOn (coreOf c) = false) :
    ((stageCleared s q c).core (coreOf c)).stage = 0 := by
  rw [stageCleared, if_neg (by simp [h]), State.core_modCore, if_pos rfl]

/-- A context's next task has started. -/
theorem started_startTask {s : State} {l : Nat} {q : Launch} {c : CtxId} {n : Nat} (hq : s.launch l = some q) (hm : s.mayStart l q c = true)
    (hn : q.nextTask (s.ctx c).tile = some n) : Started s (s.startTask l c) l q c n := by
  obtain ⟨handler, hh, ht⟩ := startTask_eq hq hm hn
  have hsame := sameBytes_stageCleared s q c
  have hctx := ctx_stageCleared s q c c
  have hstage := stage_stageCleared s (q := q) (c := c)
  have hl := local_stageCleared s q c
  rw [ht, ← hctx]
  generalize stageCleared s q c = u at *
  have hs := started_unitBegun u l q c handler n (fun j hj => hh j (by rwa [hl.job] at hj)) hstage
  obtain ⟨k, hk, hx⟩ := hs.ctx
  exact ⟨hs.cur.trans hl.cur, sameBytes_trans hsame hs.same, hs.gmem.trans hl.gmem, hs.pages.trans hl.pages, hs.launch,
    ⟨k, fun j hj => hk j (by rw [hl.job, hj]), by rw [hx, hctx]⟩, hs.stage⟩

/-! #### TEND -/

/-- A context after its TEND. -/
def afterTend (x : Ctx) : Ctx := { x with resv := none, pc := x.pc + 8, run := .idle, kick := none }

/-- The state in which the context has performed TEND. -/
def tendPerformed (s : State) : State := ((s.loseResv s.cur).done 8 fun x => x).modMe fun x => { x with run := .idle }

/-- A unit of a launch is done, and its tile is given its next task. -/
def taskGiven (q : Launch) (tile : Nat) : Launch := Launch.give { q with done := q.done + 1 } tile

/-- A unit of a launch is counted done in dispatch's table, as a release of the unit's accesses. -/
def unitGiven (s : State) (l : Nat) (q : Launch) (c : CtxId) : State :=
  ({ s with dispatchClock := mergeClocks s.dispatchClock (s.die (dieOf c)).clock } : State).setLaunch l (some (taskGiven q (s.ctx c).tile))

/-- A unit of a launch is counted done, and the counter is written. -/
def unitCounted (s : State) (l : Nat) (q : Launch) (c : CtxId) : State :=
  (unitGiven s l q c).putWord q.job q.record.cntaddr (counterWord q.state (q.done + 1))

/-- What a tile goes on to once its unit is counted. -/
def tileGoesOn (s : State) (l : Nat) (c : CtxId) (next : Option Nat) (det : Bool) : State :=
  if next.isNone then s.endTile l c else if det then s.startTask l c else s

/-- The state in which a unit is counted and its tile has gone on. -/
def unitEnded (s : State) (l : Nat) (q : Launch) (c : CtxId) : State :=
  tileGoesOn (unitCounted s l q c) l c ((taskGiven q (s.ctx c).tile).nextTask (s.ctx c).tile) q.record.det

theorem taskGiven_eq (q : Launch) (tile : Nat) :
    ∃ given next, taskGiven q tile = { q with done := q.done + 1, given := given, next := next } := by
  unfold taskGiven Launch.give
  split
  · exact ⟨_, _, rfl⟩
  · exact ⟨_, _, rfl⟩

theorem done_taskGiven (q : Launch) (tile : Nat) : (taskGiven q tile).done = q.done + 1 := by
  obtain ⟨_, _, h⟩ := taskGiven_eq q tile
  rw [h]

theorem record_taskGiven (q : Launch) (tile : Nat) : (taskGiven q tile).record = q.record := by
  obtain ⟨_, _, h⟩ := taskGiven_eq q tile
  rw [h]

theorem state_taskGiven (q : Launch) (tile : Nat) : (taskGiven q tile).state = q.state := by
  obtain ⟨_, _, h⟩ := taskGiven_eq q tile
  rw [h]

theorem endUnit_eq {s : State} {c : CtxId} {q : Launch} (hq : s.launch (s.ctx c).row.launch.toNat = some q) :
    s.endUnit c = if q.done + 1 = q.record.tasks then (unitEnded s (s.ctx c).row.launch.toNat q c).endLaunch (s.ctx c).row.launch.toNat .complete
      else unitEnded s (s.ctx c).row.launch.toNat q c := by
  have hd := done_taskGiven q (s.ctx c).tile
  have hr := record_taskGiven q (s.ctx c).tile
  unfold State.endUnit
  dsimp only
  rw [hq]
  dsimp only
  rw [taskGiven] at hd hr
  rw [hd, hr]
  rfl

theorem quiet_iff (s : State) : s.quiet = true ↔ (s.me.near = 0 ∧ s.me.far = 0 ∧ s.me.mem = 0) ∧ s.commandsOf s.cur = [] := by
  simp [State.quiet, Ctx.drained, and_assoc]

theorem drained_iff (x : Ctx) : x.drained = true ↔ x.near = 0 ∧ x.far = 0 ∧ x.mem = 0 := by
  simp [Ctx.drained, and_assoc]

/-- A due entry of the current launch's schedule on the current core that has not fired. -/
def DueEntry (s : State) : Prop :=
  ∃ q ∈ (s.core s.myCore).sched, q.launch = s.me.row.launch.toNat ∧ s.scheduleDue s.myCore q = true

theorem exec_tend_waits {s : State} (h : s.quiet = false ∨ DueEntry s) : exec .tend s = .next s.waitsQuiet := by
  change execTend s = _
  unfold execTend
  refine if_neg ?_
  rcases h with h | ⟨q, hq, hl, hd⟩
  · simp [h]
  · have hany : ((s.core s.myCore).sched.any fun q => q.launch == s.me.row.launch.toNat && s.scheduleDue s.myCore q) = true :=
      List.any_eq_true.2 ⟨q, hq, by simp [hl, hd]⟩
    simp [hany]

theorem exec_tend_performed {s : State} (h : s.quiet = true) (hd : ¬DueEntry s) :
    exec .tend s = .next ((tendPerformed s).endUnit s.cur) := by
  change execTend s = _
  unfold execTend
  have hany : ((s.core s.myCore).sched.any fun q => q.launch == s.me.row.launch.toNat && s.scheduleDue s.myCore q) = false := by
    rw [Bool.eq_false_iff]
    intro hc
    obtain ⟨q, hq, hc⟩ := List.any_eq_true.1 hc
    rw [Bool.and_eq_true, beq_iff_eq] at hc
    exact hd ⟨q, hq, hc⟩
  exact if_pos (by simp [h, hany])

theorem waits_waitsQuiet {s : State} {w : Wait} (h : (if s.me.drained then Wait.commands else .counters) = w) : Waits s s.waitsQuiet w := by
  rw [State.waitsQuiet, h]
  exact waits_waits s w

/-! The state in which the context has performed TEND. -/
section Performed
variable (s : State)

theorem cur_tendPerformed : (tendPerformed s).cur = s.cur := cur_loseResv s s.cur

theorem ctx_tendPerformed : (tendPerformed s).ctx s.cur = afterTend s.me := by
  have hme : (tendPerformed s).me = (tendPerformed s).ctx s.cur := congrArg (tendPerformed s).ctx (cur_tendPerformed s)
  have hl : (s.loseResv s.cur).me = { s.me with resv := none } := by
    rw [State.me, cur_loseResv, ctx_loseResv]
    rfl
  rw [← hme, tendPerformed, State.me_modMe, State.me_done, hl]
  rfl

theorem launches_tendPerformed : (tendPerformed s).launches = s.launches := launches_loseResv s s.cur
theorem gmem_tendPerformed : (tendPerformed s).gmem = s.gmem := (resvKept_loseResv s s.cur).gmem
theorem pages_tendPerformed : (tendPerformed s).pages = s.pages := (resvKept_loseResv s s.cur).pages
theorem dies_tendPerformed : (tendPerformed s).dies = s.dies := (resvKept_loseResv s s.cur).dies
theorem owed_tendPerformed : (tendPerformed s).owed = s.owed := owed_loseResv s s.cur
end Performed

/-! The state in which a unit has been counted and its tile has gone on. -/
section Ended
variable {s : State} {l : Nat} {q : Launch} {c : CtxId}

theorem launch_unitCounted : (unitCounted s l q c).launch l = some (taskGiven q (s.ctx c).tile) := by
  rw [State.launch, unitCounted, launches_putWord]
  exact State.launch_setLaunch_same ..

theorem ctx_unitCounted (h : (s.ctx c).resv = none) : (unitCounted s l q c).ctx c = s.ctx c := by
  obtain ⟨r, hr, hn⟩ := (written_putWord (unitGiven s l q c) q.job q.record.cntaddr (counterWord q.state (q.done + 1))).ctx c
  have hr0 : r = none := hn h
  refine hr.trans ?_
  change { s.ctx c with resv := r } = s.ctx c
  rw [hr0, ← h]

/-- The launch, global memory and the page table once the tile has gone on. -/
structure GoneOn (s t : State) (l : Nat) (q : Launch) : Prop where
  cur : t.cur = s.cur
  gmem : t.gmem = s.gmem
  pages : t.pages = s.pages
  launch : ∃ q', t.launch l = some q' ∧ q'.done = q.done ∧ q'.state = q.state ∧ q'.record = q.record

theorem launch_endTile (h : s.launch l = some q) (c : CtxId) :
    (s.endTile l c).launch l = some { q with finished := q.finished ++ [(s.ctx c).tile] } := by
  have hl := local_unbindCtx (s.modLaunch l fun q => { q with finished := q.finished ++ [(s.ctx c).tile] }) c
  rw [State.endTile, State.launch, hl.launches]
  refine (tget_tset_same ..).trans ?_
  rw [h]
  rfl

theorem ctx_endTile (l : Nat) {c : CtxId} (h : (s.ctx c).run ≠ .killed) :
    ∃ m, (s.endTile l c).ctx c = { (s.ctx c).unbind with row := { Row.zero with slots := m } } :=
  ctx_unbindCtx (s.modLaunch l fun q => { q with finished := q.finished ++ [(s.ctx c).tile] }) h

theorem goneOn_tileGoesOn (h : s.launch l = some q) (c : CtxId) (next : Option Nat) (det : Bool) :
    GoneOn s (tileGoesOn s l c next det) l q := by
  have hself : GoneOn s s l q := ⟨rfl, rfl, rfl, q, h, rfl, rfl, rfl⟩
  unfold tileGoesOn
  split
  · have hl := local_unbindCtx (s.modLaunch l fun q => { q with finished := q.finished ++ [(s.ctx c).tile] }) c
    exact ⟨hl.cur, hl.gmem, hl.pages, _, launch_endTile h c, rfl, rfl, rfl⟩
  · split
    · by_cases hm : s.mayStart l q c = true
      · cases hn : q.nextTask (s.ctx c).tile with
        | none =>
          have ht : s.startTask l c = s := by
            unfold State.startTask
            rw [h]
            dsimp only
            rw [if_pos hm, hn]
          rw [ht]; exact hself
        | some n =>
          have hs := started_startTask h hm hn
          obtain ⟨ran, hran⟩ := hs.launch
          exact ⟨hs.cur, hs.gmem, hs.pages, _, hran, rfl, rfl, rfl⟩
      · have ht : s.startTask l c = s := by
          unfold State.startTask
          rw [h]
          dsimp only
          rw [if_neg hm]
        rw [ht]; exact hself
    · exact hself
end Ended

/-! The context has performed TEND, its launch being `q`. -/
section Counted
variable {s : State} {l : Nat} {q : Launch}

theorem ctx_counted : (unitCounted (tendPerformed s) l q s.cur).ctx s.cur = afterTend s.me := by
  rw [ctx_unitCounted (by rw [ctx_tendPerformed]; rfl), ctx_tendPerformed]

theorem cur_counted : (unitCounted (tendPerformed s) l q s.cur).cur = s.cur :=
  (congrArg Fixed.cur (written_putWord ..).fixed).trans (cur_tendPerformed s)

theorem tile_tendPerformed : ((tendPerformed s).ctx s.cur).tile = s.me.tile := by rw [ctx_tendPerformed]; rfl

/-- The counter holds the new count, and no other byte has changed. -/
theorem put_counted (h : Room s (jaddr q.job q.record.cntaddr.toNat) 1) :
    (unitCounted (tendPerformed s) l q s.cur).gRead (jaddr q.job q.record.cntaddr.toNat) 8 = counterWord q.state (q.done + 1) ∧
    ∀ b, (∀ j < 8, b ≠ jaddr q.job q.record.cntaddr.toNat + j) →
      (unitCounted (tendPerformed s) l q s.cur).gRead b 1 = s.gRead b 1 := by
  have hg : (unitGiven (tendPerformed s) l q s.cur).gmem = s.gmem := gmem_tendPerformed s
  have hp : (unitGiven (tendPerformed s) l q s.cur).pages = s.pages := pages_tendPerformed s
  have hr : Room (unitGiven (tendPerformed s) l q s.cur) (jaddr q.job q.record.cntaddr.toNat) 1 := h.of_eq hp (dies_tendPerformed s) (owed_tendPerformed s)
  have hput := put_putWord (counterWord q.state (q.done + 1)) hr
  exact ⟨hput.word.trans (Nat.mod_eq_of_lt (counterWord_lt _ _)), fun b hb => (hput.bytes_other hr.frames hb).trans (gRead_congr hg hp b 1)⟩

theorem mayStart_counted (hv : s.me.row.v = true) (hl : l = s.me.row.launch.toNat) (hst : q.state = .running) (hb : q.bound = true)
    (hpre : q.prepared.contains s.myCore = true) (hph : s.phaseKnown (dieOf s.cur) q.job q.phase = true) (hdbg : s.me.dbgHalt = false)
    (hseal : (s.die (dieOf s.cur)).prepared = false) :
    (unitCounted (tendPerformed s) l q s.cur).mayStart l (taskGiven q s.me.tile) s.cur = true := by
  obtain ⟨u, w, hdie⟩ : ∃ u w, (unitCounted (tendPerformed s) l q s.cur).die (dieOf s.cur) = { s.die (dieOf s.cur) with undo := u, hold := w } := by
    obtain ⟨u, w, h⟩ := (written_putWord (unitGiven (tendPerformed s) l q s.cur) q.job q.record.cntaddr (counterWord q.state (q.done + 1))).die (dieOf s.cur)
    exact ⟨u, w, h.trans (by rw [State.die, State.die, ← dies_tendPerformed s]; rfl)⟩
  obtain ⟨given, next, hq1⟩ := taskGiven_eq q s.me.tile
  have hphase : (unitCounted (tendPerformed s) l q s.cur).phaseKnown (dieOf s.cur) q.job q.phase = true := by
    rw [State.phaseKnown, hdie]
    exact hph
  unfold State.mayStart
  dsimp only
  rw [ctx_counted, hq1, hdie]
  unfold afterTend
  simp only [hv, ← hl, hst, hb, hseal, hphase, hdbg, beq_self_eq_true, Bool.false_and, Bool.not_false, Bool.and_true, Bool.true_and]
  exact hpre
end Counted

section Cases
variable {s : State} {l : Nat} {q : Launch}

theorem exec_tend_ended (hquiet : s.quiet = true) (hd : ¬DueEntry s) (hl : l = s.me.row.launch.toNat) (hq : s.launch l = some q) :
    exec .tend s = .next (if q.done + 1 = q.record.tasks then (unitEnded (tendPerformed s) l q s.cur).endLaunch l .complete
      else unitEnded (tendPerformed s) l q s.cur) := by
  have hrow : ((tendPerformed s).ctx s.cur).row.launch.toNat = l := by rw [ctx_tendPerformed, hl]; rfl
  rw [exec_tend_performed hquiet hd, endUnit_eq (q := q)]
  · rw [hrow]
  · rw [hrow, State.launch, launches_tendPerformed]
    exact hq

theorem unitEnded_eq : unitEnded (tendPerformed s) l q s.cur =
    tileGoesOn (unitCounted (tendPerformed s) l q s.cur) l s.cur ((taskGiven q s.me.tile).nextTask s.me.tile) q.record.det := by
  rw [unitEnded, tile_tendPerformed]

theorem goneOn_unitEnded :
    GoneOn (unitCounted (tendPerformed s) l q s.cur) (unitEnded (tendPerformed s) l q s.cur) l (taskGiven q s.me.tile) := by
  rw [unitEnded_eq]
  refine goneOn_tileGoesOn ?_ _ _ _
  rw [launch_unitCounted, tile_tendPerformed]

theorem me_unitEnded : (unitEnded (tendPerformed s) l q s.cur).me = (unitEnded (tendPerformed s) l q s.cur).ctx s.cur :=
  congrArg (State.ctx _) (goneOn_unitEnded.cur.trans cur_counted)

theorem launch_counted : (unitCounted (tendPerformed s) l q s.cur).launch l = some (taskGiven q s.me.tile) := by
  rw [launch_unitCounted, tile_tendPerformed]

/-- A tile without a further task is unbound and has finished. -/
theorem unitEnded_last (hn : (taskGiven q s.me.tile).nextTask s.me.tile = none) :
    let t := unitEnded (tendPerformed s) l q s.cur
    t.me.run = .idle ∧ t.me.resv = none ∧ t.me.row.v = false ∧
      t.launch l = some { taskGiven q s.me.tile with finished := (taskGiven q s.me.tile).finished ++ [s.me.tile] } := by
  have ht : unitEnded (tendPerformed s) l q s.cur = (unitCounted (tendPerformed s) l q s.cur).endTile l s.cur := by
    rw [unitEnded_eq, hn]; rfl
  obtain ⟨m, hm⟩ := ctx_endTile (s := unitCounted (tendPerformed s) l q s.cur) (c := s.cur) l (by rw [ctx_counted]; exact nofun)
  have hend := launch_endTile (launch_counted (s := s) (l := l) (q := q)) s.cur
  rw [ctx_counted] at hm hend
  dsimp only
  rw [me_unitEnded, ht, hm, hend]
  exact ⟨rfl, rfl, rfl, rfl⟩

/-- With DET = 0 the context waits, idle, for its further task. -/
theorem unitEnded_given {n : Nat} (hn : (taskGiven q s.me.tile).nextTask s.me.tile = some n) (hdet : q.record.det = false) :
    let t := unitEnded (tendPerformed s) l q s.cur
    t.me = afterTend s.me ∧ t.launch l = some (taskGiven q s.me.tile) := by
  have ht : unitEnded (tendPerformed s) l q s.cur = unitCounted (tendPerformed s) l q s.cur := by
    rw [unitEnded_eq, hn, hdet]; rfl
  dsimp only
  rw [me_unitEnded, ht]
  exact ⟨ctx_counted, launch_counted⟩

/-- With DET = 1 the next task starts at once, if it may. -/
theorem started_unitEnded {n : Nat} (hn : (taskGiven q s.me.tile).nextTask s.me.tile = some n) (hdet : q.record.det = true)
    (hm : (unitCounted (tendPerformed s) l q s.cur).mayStart l (taskGiven q s.me.tile) s.cur = true) :
    Started (unitCounted (tendPerformed s) l q s.cur) (unitEnded (tendPerformed s) l q s.cur) l (taskGiven q s.me.tile) s.cur n := by
  have ht : unitEnded (tendPerformed s) l q s.cur = (unitCounted (tendPerformed s) l q s.cur).startTask l s.cur := by
    rw [unitEnded_eq, hn, hdet]; rfl
  rw [ht]
  exact started_startTask launch_counted hm (by rw [ctx_counted]; exact hn)
end Cases

/-- O40, first part: what TEND waits for (R67). -/
theorem tend_waits (s : State) :
    (¬(s.me.near = 0 ∧ s.me.far = 0 ∧ s.me.mem = 0) → ∃ t, exec .tend s = .next t ∧ Waits s t .counters) ∧
    (s.me.near = 0 ∧ s.me.far = 0 ∧ s.me.mem = 0 → s.commandsOf s.cur ≠ [] ∨ DueEntry s →
      ∃ t, exec .tend s = .next t ∧ Waits s t .commands) := by
  refine ⟨fun h => ⟨_, exec_tend_waits (.inl ?_), waits_waitsQuiet (if_neg (by rwa [drained_iff]))⟩,
    fun h hc => ⟨_, exec_tend_waits (hc.imp_left fun hc => ?_), waits_waitsQuiet (if_pos ((drained_iff _).2 h))⟩⟩
  · rw [Bool.eq_false_iff]
    exact fun hq => h ((quiet_iff s).1 hq).1
  · rw [Bool.eq_false_iff]
    exact fun hq => hc ((quiet_iff s).1 hq).2

/-- O40: a unit that is not the last of its launch. -/
theorem tend_counted {s : State} {l : Nat} {q : Launch} (hquiet : s.quiet = true) (hd : ¬DueEntry s) (hl : l = s.me.row.launch.toNat)
    (hq : s.launch l = some q) (hmore : q.done + 1 ≠ q.record.tasks) (hroom : Room s (jaddr q.job q.record.cntaddr.toNat) 1) :
    let t := unitEnded (tendPerformed s) l q s.cur
    exec .tend s = .next t ∧ t.gRead (jaddr q.job q.record.cntaddr.toNat) 8 = counterWord q.state (q.done + 1) ∧
      ∀ b, (∀ j < 8, b ≠ jaddr q.job q.record.cntaddr.toNat + j) → t.gRead b 1 = s.gRead b 1 := by
  have hg := goneOn_unitEnded (s := s) (l := l) (q := q)
  obtain ⟨hword, hbytes⟩ := put_counted (l := l) hroom
  refine ⟨by rw [exec_tend_ended hquiet hd hl hq, if_neg hmore], ?_, fun b hb => ?_⟩
  · rw [gRead_congr hg.gmem hg.pages, hword]
  · rw [gRead_congr hg.gmem hg.pages, hbytes b hb]

/-- O40: the last unit of a running launch makes it COMPLETE. -/
theorem tend_completes {s : State} {l : Nat} {q : Launch} (hquiet : s.quiet = true) (hd : ¬DueEntry s) (hl : l = s.me.row.launch.toNat)
    (hq : s.launch l = some q) (hlast : q.done + 1 = q.record.tasks) (hrun : q.state = .running) :
    ∃ t q', exec .tend s = .next t ∧ t.launch l = some q' ∧ q'.done = q.record.tasks ∧ q'.state = .complete := by
  obtain ⟨q', hq', hdone, hstate, -⟩ := (goneOn_unitEnded (s := s) (l := l) (q := q)).launch
  rw [state_taskGiven] at hstate
  rw [done_taskGiven] at hdone
  exact ⟨_, _, (exec_tend_ended hquiet hd hl hq).trans (congrArg _ (if_pos hlast)),
    launch_endLaunch hq' (hstate.trans hrun) (by decide), hdone.trans hlast, rfl⟩

/-- O40: a context whose launch no longer exists. -/
theorem tend_without_launch {s : State} (hquiet : s.quiet = true) (hd : ¬DueEntry s) (hq : s.launch s.me.row.launch.toNat = none) :
    ∃ t, exec .tend s = .next t ∧ t.me.run = .idle ∧ t.me.resv = none := by
  have he : (tendPerformed s).endUnit s.cur = tendPerformed s := by
    have hn : (tendPerformed s).launch ((tendPerformed s).ctx s.cur).row.launch.toNat = none := by
      rw [ctx_tendPerformed, State.launch, launches_tendPerformed]
      exact hq
    unfold State.endUnit
    dsimp only
    rw [hn]
  have hme : (tendPerformed s).me = afterTend s.me := by rw [State.me, cur_tendPerformed, ctx_tendPerformed]
  exact ⟨_, (exec_tend_performed hquiet hd).trans (congrArg _ he), by rw [hme]; rfl, by rw [hme]; rfl⟩

/-- Settles O40: TEND's waits, the counted unit with its three continuations (unbound, given a task, started at once), the completion
of the launch and the context without a launch. -/
theorem taskEnd : Obligations.TaskEnd := by
  unfold Obligations.TaskEnd
  intro s
  have hwaits := tend_waits s
  dsimp only
  refine ⟨hwaits.1, fun h hc => hwaits.2 h (.inl hc), fun ⟨h1, h2, h3, _⟩ hd => hwaits.2 ⟨h1, h2, h3⟩ (.inr hd), ?_, ?_⟩
  · rintro q ⟨h1, h2, h3, h4⟩ hd hq
    have hquiet : s.quiet = true := (quiet_iff s).2 ⟨⟨h1, h2, h3⟩, h4⟩
    refine ⟨fun hmore h8 hkept hplain hframe hfree hframes hroom => ?_, tend_completes hquiet hd rfl hq⟩
    obtain ⟨hexec, hword, hbytes⟩ := tend_counted hquiet hd rfl hq hmore ⟨h8, hkept, hplain, hframe, hframes, hfree, hroom⟩
    obtain ⟨q', hq', hdone, hstate, -⟩ := (goneOn_unitEnded (s := s) (l := s.me.row.launch.toNat) (q := q)).launch
    have hfin : (taskGiven q s.me.tile).finished = q.finished := by
      obtain ⟨_, _, h⟩ := taskGiven_eq q s.me.tile
      rw [h]
    refine ⟨_, q', hexec, hq', hdone.trans (done_taskGiven ..), hstate.trans (state_taskGiven ..), hword, hbytes,
      fun hn => ?_, fun hn hdet => ?_, fun n hn hdet hv hrun hb hpre hph hdbg hseal => ?_⟩
    · obtain ⟨hidle, hresv, hrow, hlaunch⟩ := unitEnded_last hn
      rw [hq'] at hlaunch
      refine ⟨hidle, hresv, hrow, ?_⟩
      rw [Option.some.inj hlaunch, ← hfin]
    · obtain ⟨n, hn⟩ := Option.ne_none_iff_exists'.1 hn
      obtain ⟨hme, hlaunch⟩ := unitEnded_given hn hdet
      rw [hq'] at hlaunch
      rw [hme, Option.some.inj hlaunch]
      exact ⟨rfl, rfl, rfl, rfl, hfin, readG_of_g rfl⟩
    · have hs := started_unitEnded hn hdet (mayStart_counted hv rfl hrun hb hpre hph hdbg hseal)
      obtain ⟨handler, -, hctx⟩ := hs.ctx
      rw [record_taskGiven, if_pos hdet, ctx_counted] at hctx
      rw [me_unitEnded, hctx]
      refine ⟨rfl, rfl, rfl, rfl, ?_, ?_, rfl, rfl⟩
      · exact (readG_of_g rfl _).trans (readG_startUnit ..)
      · exact (readG_of_g rfl _).trans (readG_startUnit ..)
  · rintro ⟨h1, h2, h3, h4⟩ hd hq
    exact tend_without_launch ((quiet_iff s).2 ⟨⟨h1, h2, h3⟩, h4⟩) hd hq

end Sys2Proof.WorkHierarchy

namespace Sys2Proof.WorkHierarchy
open Sys2Proof Sys2Proof.Machine Sys2Proof.Safety Sys2Proof.ModuleParts

/-! ### O45: squads (R83 to R88, R408) -/

/-! #### Contexts wherever they are held -/

/-- Only contexts, on their cores or in saved images, have changed. -/
def HeldOnly (s t : State) : Prop := ∃ cx sv, t = { s with ctxs := cx, saved := sv }

theorem HeldOnly.refl (s : State) : HeldOnly s s := ⟨_, _, rfl⟩

theorem HeldOnly.trans {s t u : State} (h : HeldOnly s t) (h' : HeldOnly t u) : HeldOnly s u := by
  obtain ⟨_, _, rfl⟩ := h
  obtain ⟨_, _, rfl⟩ := h'
  exact ⟨_, _, rfl⟩

theorem heldOnly_modHeld (s : State) (c : CtxId) (launch : Nat) (f : Ctx → Ctx) : HeldOnly s (s.modHeld c launch f) := by
  unfold State.modHeld
  split
  · exact ⟨_, _, rfl⟩
  · split
    · exact ⟨_, _, rfl⟩
    · exact .refl s

/-! #### What leaves the directory entries and the bytes as they are -/

/-- The squad directory and the bytes of every memory are as before. -/
structure SquadsKept (s t : State) : Prop where
  squads : t.squads = s.squads
  same : Claim.SameBytes s t

theorem SquadsKept.refl (s : State) : SquadsKept s s := ⟨rfl, sameBytes_refl s⟩

theorem SquadsKept.trans {s t u : State} (h : SquadsKept s t) (h' : SquadsKept t u) : SquadsKept s u :=
  ⟨h'.squads.trans h.squads, sameBytes_trans h.same h'.same⟩

theorem SquadsKept.squad {s t : State} (h : SquadsKept s t) (n : Nat) : t.squad n = s.squad n := congrArg (tget none · n) h.squads

theorem squadsKept_of_eq {s t : State} (hs : t.squads = s.squads) (hg : t.gmem = s.gmem) (hc : t.cores = s.cores) : SquadsKept s t :=
  ⟨hs, sameBytes_of_eq hg hc⟩

theorem HeldOnly.squadsKept {s t : State} (h : HeldOnly s t) : SquadsKept s t := by
  obtain ⟨_, _, rfl⟩ := h
  exact squadsKept_of_eq rfl rfl rfl

section
variable (s : State)

theorem squads_received (m : Msg) : (s.received m).squads = s.squads := by
  unfold State.received
  cases m.dest
  case core c => dsimp only; split <;> rfl
  all_goals rfl

theorem squadsKept_answerTo (m : Msg) (body : Body) : SquadsKept s (s.answerTo m body) :=
  ⟨squads_received s m, sameBytes_answerTo s m body⟩

theorem squadsKept_fresh (n : Nat) : SquadsKept s { s with fresh := n } := squadsKept_of_eq rfl rfl rfl

theorem squadsKept_tell (m : Msg) (k : Kept) (r : SquadReq) : SquadsKept s (s.tell m k r) := by
  unfold State.tell
  split
  · exact squadsKept_answerTo ..
  · split
    · exact squadsKept_answerTo ..
    · split
      · exact squadsKept_answerTo ..
      · exact (squadsKept_fresh s _).trans (squadsKept_answerTo _ m _)

theorem squadsKept_closeColl (h : Nat) (gen : BitVec 16) (mixed : Bool) : SquadsKept s (s.closeColl h gen mixed) := by
  unfold State.closeColl
  split
  · exact .refl s
  · dsimp only
    split
    · exact squadsKept_of_eq rfl rfl rfl
    · refine SquadsKept.trans ?_ (foldl_rel SquadsKept.refl SquadsKept.trans (fun t p => (heldOnly_modHeld t ..).squadsKept) _ _)
      exact squadsKept_of_eq rfl rfl rfl

theorem squadsKept_withdrawParts (h : Nat) (c : CtxId) (launch : Nat) : SquadsKept s (s.withdrawParts h c launch) := by
  unfold State.withdrawParts
  refine SquadsKept.trans (u := _) (t := { s with colls := s.colls.map fun g => if g.handle = h then g.without c launch else g })
    (squadsKept_of_eq rfl rfl rfl) (foldl_rel SquadsKept.refl SquadsKept.trans (fun t g => ?_) _ _)
  exact foldl_rel SquadsKept.refl SquadsKept.trans (fun t p => (heldOnly_modHeld t ..).squadsKept) _ _

theorem squadsKept_restKilled (c : CtxId) : SquadsKept s (s.restKilled c) := by
  unfold State.restKilled
  split
  · exact squadsKept_of_eq rfl rfl rfl
  · exact .refl s

theorem squadsKept_numberAt (die : Nat) (d : Dest) : SquadsKept s (s.numberAt die d) := squadsKept_of_eq rfl rfl rfl

theorem sameBytes_setSquad (n : Nat) (q : Option Squad) : Claim.SameBytes s (s.setSquad n q) := sameBytes_of_eq rfl rfl
end

/-! #### A barrier -/

/-- The member of a context under a launch after its entry has been replaced. -/
theorem member_setMember {q : Squad} {c : CtxId} {launch : Nat} {p p' : Member} (h : q.member c launch = some p) (hc : p'.ctx = p.ctx)
    (hl : p'.launch = p.launch) : (q.setMember p').member c launch = some p' := by
  obtain ⟨hpc, hpl⟩ : p.ctx = c ∧ p.launch = launch := by
    have hp := List.find?_some h
    simpa using hp
  unfold Squad.member at h ⊢
  change ((q.members.map fun m => if m.ctx == p'.ctx && m.launch == p'.launch then p' else m).find? _) = _
  rw [hc, hl, hpc, hpl, List.find?_map]
  have hf : (((fun m : Member => m.ctx == c && m.launch == launch) ∘ fun m : Member => if m.ctx == c && m.launch == launch then p' else m)) =
      fun m : Member => m.ctx == c && m.launch == launch := by
    funext m
    rw [Function.comp_apply]
    split
    · next hm => rw [hm, hc, hl, hpc, hpl]; simp
    · rfl
  rw [hf, h, Option.map_some]
  simp [hpc, hpl]

/-- A barrier of a member that may arrive waits at the directory with its arrival counted (R84). -/
theorem exec_barrier {s : State} {m : Msg} {h : BitVec 16} {q : Squad} {p : Member} (ha : Claim.Arrives s m) (hbody : m.body = .squad h .bar)
    (hq : s.squadIn (s.jobFor m) h = some q) (hp : q.member m.src m.launch = some p) (hk : ∀ k ∈ q.kept, k.ctx ≠ m.src) (hu : p.unseen = none)
    (hl : p.leaving = none) (hgen : q.ahead p.next ≤ 1) :
    exec (.squadMessageArrival m.id) s = .next (((s.applied_ m).setSquad h.toNat (some (q.arrive p true none))).holdMsg m) := by
  obtain ⟨hm, hready, -, -⟩ := ha
  have hkept : (q.kept.find? fun k => k.ctx == m.src && k.launch == m.launch) = none := by
    rw [List.find?_eq_none]
    intro k hk'
    simp [hk k hk']
  have hserve : s.serveArrival m h q .bar true = ((s.applied_ m).setSquad h.toNat (some (q.arrive p true none))).holdMsg m := by
    unfold State.serveArrival
    dsimp only
    rw [if_pos rfl, hkept]
    dsimp only
    rw [hp]
    dsimp only
    rw [if_neg (by simp [hu]), if_neg (by simp [hl]), if_neg (by omega), if_pos rfl]
    rfl
  change execSquadMessageArrival m.id s = _
  unfold execSquadMessageArrival
  rw [hm]
  dsimp only
  rw [hbody]
  dsimp only
  rw [if_pos (by simp [hready]), State.serveSquad]
  · rw [hq]
    exact congrArg _ hserve
  · nofun

/-- O45, first part. -/
theorem barrier_arrives {s : State} {m : Msg} {h : BitVec 16} {q : Squad} {p : Member} (ha : Claim.Arrives s m)
    (hbody : m.body = .squad h .bar) (hq : s.squadIn (s.jobFor m) h = some q) (hp : q.member m.src m.launch = some p)
    (hk : ∀ k ∈ q.kept, k.ctx ≠ m.src) (hu : p.unseen = none) (hl : p.leaving = none) (hgen : q.ahead p.next ≤ 1) :
    ∃ t q', exec (.squadMessageArrival m.id) s = .next t ∧ t.squad h.toNat = some q' ∧ q'.gen = q.gen ∧
      q'.member m.src m.launch = some { p with arrivals := p.arrivals + 1, unseen := some p.next } ∧ q'.contribs = q.contribs ∧
      ∀ x ∈ t.net, x.id = m.id → x.recorded = true := by
  refine ⟨_, q.arrive p true none, exec_barrier ha hbody hq hp hk hu hl hgen, State.squad_setSquad_same (s.applied_ m) h.toNat (some (q.arrive p true none)), rfl, member_setMember hp rfl rfl, rfl,
    fun x hx hid => ?_⟩
  obtain ⟨y, -, rfl⟩ := List.mem_map.1 hx
  dsimp only at hid ⊢
  split at hid
  · next hy => rw [if_pos hy]
  · next hy => exact absurd hid (by simpa using hy)

/-! #### A complete generation -/

/-- A squad whose generation has completed, with the results that it keeps (R83, R85). -/
def generationOver (q : Squad) (kept : List Kept) : Squad :=
  { q with
    gen := q.gen + 1, formed := true
    members := (q.members.filter fun m => m.leaving != some q.gen).map fun m =>
      { m with unseen := if m.unseen = some q.gen then none else m.unseen, active := m.active || m.first == q.gen + 1 }
    contribs := q.contribs.filter fun c => c.gen != q.gen, kept := kept }

theorem completeGeneration_squad (s : State) (h : BitVec 16) (q : Squad) :
    ∃ kept, SquadsKept (s.setSquad h.toNat (some (generationOver q kept))) (s.completeGeneration h q) := by
  let kept := q.kept ++ (q.members.filter fun m => m.unseen == some q.gen &&
    !(s.awaiting h q q.gen).any fun e => e.1.src == m.ctx && e.1.launch == m.launch).map fun m => q.outcome q.gen s.fresh m.ctx m.launch
  let s1 := (s.setSquad h.toNat (some (generationOver q kept))).closeColl h.toNat q.gen (!((q.contribsOf q.gen).all fun c => c.cmd.isSome))
  let s2 : State := if q.proxy then { s1 with fresh := s.fresh + 1 + (q.contribsOf q.gen).length } else s1
  have h2 : SquadsKept s1 s2 := by
    simp only [s2]
    split
    · exact squadsKept_fresh ..
    · exact .refl s1
  have h3 : SquadsKept s2 (s.completeGeneration h q) :=
    foldl_rel (f := fun t (e : Msg × SquadReq) => t.tell e.1 (q.outcome q.gen s.fresh e.1.src e.1.launch) e.2) SquadsKept.refl SquadsKept.trans
      (fun t e => squadsKept_tell t ..) (s.awaiting h q q.gen) s2
  exact ⟨kept, ((squadsKept_closeColl ..).trans h2).trans h3⟩

/-- O45, second part. -/
theorem generation_completes {s : State} {h : BitVec 16} {q : Squad} (hq : s.squad h.toNat = some q) (hc : q.complete = true) :
    ∃ t q', exec (.generationComplete h) s = .next t ∧ t.squad h.toNat = some q' ∧ q'.gen = q.gen + 1 ∧ q'.formed = true ∧ Claim.SameBytes s t ∧
      (∀ c, (∃ p ∈ q'.members, p.ctx = c) ↔ ∃ p ∈ q.members, p.ctx = c ∧ p.leaving ≠ some q.gen) ∧
      (∀ c ∈ q'.contribs, c.gen ≠ q.gen) ∧ ∀ c, c ∈ q.contribs → c.gen ≠ q.gen → c ∈ q'.contribs := by
  obtain ⟨kept, hkept⟩ := completeGeneration_squad s h q
  have hexec : exec (.generationComplete h) s = .next (s.completeGeneration h q) := by
    change execGenerationComplete h s = _
    unfold execGenerationComplete
    rw [hq]
    exact if_pos hc
  refine ⟨_, _, hexec, (hkept.squad _).trans (State.squad_setSquad_same ..), rfl, rfl, sameBytes_trans (sameBytes_setSquad ..) hkept.same, fun c => ?_,
    fun c hc => ?_, fun c hc hg => ?_⟩
  · simp only [generationOver, List.mem_map, List.mem_filter, bne_iff_ne, ne_eq]
    constructor
    · rintro ⟨_, ⟨p, ⟨hp, hl⟩, rfl⟩, rfl⟩
      exact ⟨p, hp, rfl, hl⟩
    · rintro ⟨p, hp, rfl, hl⟩
      exact ⟨_, ⟨p, ⟨hp, hl⟩, rfl⟩, rfl⟩
  · simpa using (List.mem_filter.1 hc).2
  · exact List.mem_filter.2 ⟨hc, by simpa using hg⟩

/-! #### A departure -/

/-- The squad of a member that departs records it (R408). -/
theorem squad_depart (s : State) (h : Nat) (q : Squad) (m : Member) :
    (∃ q', (s.depart h q m).squad h = some q' ∧ q'.departed = true) ∧ Claim.SameBytes s (s.depart h q m) := by
  unfold State.depart
  dsimp only
  have hw (t : State) := squadsKept_withdrawParts t h m.ctx m.launch
  split
  · exact ⟨⟨_, ((hw _).squad h).trans (State.squad_setSquad_same ..), rfl⟩, sameBytes_trans (sameBytes_setSquad ..) (hw _).same⟩
  · exact ⟨⟨_, ((hw _).squad h).trans (State.squad_setSquad_same ..), rfl⟩,
      sameBytes_trans (sameBytes_trans (squadsKept_numberAt s ..).same (sameBytes_setSquad ..)) (hw _).same⟩

/-- O45, third part. -/
theorem departure_recorded {s : State} {h : BitVec 16} {q : Squad} {p : Member} {c : CtxId} (hq : s.squad h.toNat = some q)
    (hp : s.departing q c = some p) (hk : (s.ctx c).run = .killed) :
    ∃ t q', exec (.squadDeparture c h) s = .next t ∧ t.squad h.toNat = some q' ∧ q'.departed = true ∧ Claim.SameBytes s t := by
  obtain ⟨⟨q', hq', hd⟩, hsame⟩ := squad_depart s h.toNat q p
  have hr := squadsKept_restKilled (s.depart h.toNat q p) c
  have hexec : exec (.squadDeparture c h) s = .next ((s.depart h.toNat q p).restKilled c) := by
    change execSquadDeparture c h s = _
    unfold execSquadDeparture
    rw [hq]
    dsimp only
    rw [hp]
    exact if_pos hk
  exact ⟨_, q', hexec, (hr.squad _).trans hq', hd, sameBytes_trans hsame hr.same⟩

/-! ### O45: deterministic updates and rounds (R97, R197, R198) -/

section
variable (s : State) (m : Msg)

theorem clusters_received : (s.received m).clusters = s.clusters := by
  unfold State.received
  cases m.dest
  case core c => dsimp only; split <;> rfl
  all_goals rfl

theorem launches_received : (s.received m).launches = s.launches := by
  unfold State.received
  cases m.dest
  case core c => dsimp only; split <;> rfl
  all_goals rfl

theorem cluster_answerTo (body : Body) (c : ClusterId) : (s.answerTo m body).cluster c = s.cluster c :=
  congrArg (tget Cluster.reset · c) (clusters_received s m)

theorem launch_took (l : Nat) : (s.took m).launch l = s.launch l := congrArg (tget none · l) (launches_received s m)
end

/-- O45, fourth part: an update enters the port's buffer and is acknowledged. -/
theorem update_arrives {s : State} {m : Msg} {port : ClusterId} {op : AmoOp} {va : Nat} {x cmp ea : Word} {l tile round : Nat}
    (ha : Claim.Arrives s m) (hdest : m.dest = .port port) (hbody : m.body = .det op va x cmp ea l tile round)
    (hres : (s.pageAt va).resident = true) (hroom : (s.cluster port).holding.length < 16) (hc : Claim.Uncarried s m) :
    ∃ t u, exec (.deterministicUpdateArrival m.id) s = .next t ∧ Claim.Answered s t m (.ack .mem m.id) ∧
      (t.cluster port).holding = (s.cluster port).holding ++ [u] ∧ u.launch = l ∧ u.round = round ∧ u.tile = tile ∧
      u.op = op ∧ u.va = va ∧ u.x = x ∧ u.cmp = cmp ∧ u.ctx = m.src ∧ t.gmem = s.gmem := by
  obtain ⟨hm, hready, -, -⟩ := ha
  let u : Update := { launch := l, round := round, tile := tile, seq := (s.cluster port).nextSeq l tile round, ctx := m.src,
                      op := op, va := va, x := x, cmp := cmp, ea := ea }
  let t := s.modCluster port fun q => { q with holding := q.holding ++ [u] }
  have hport : m.portOf = some port := by rw [Msg.portOf, hdest]
  have hexec : exec (.deterministicUpdateArrival m.id) s = .next (t.answerTo m (.ack .mem m.id)) := by
    change execDeterministicUpdateArrival m.id s = _
    unfold execDeterministicUpdateArrival
    rw [hm]
    dsimp only
    rw [if_neg (by simp [hready]), hport]
    dsimp only
    rw [hbody]
    dsimp only
    rw [if_neg (by simp [hres]), if_pos hroom]
    exact congrArg _ (ack_uncarried (t := t) (uncarried_of_dies hc rfl) .mem)
  refine ⟨_, u, hexec, answered_answerTo rfl _, ?_, rfl, rfl, rfl, rfl, rfl, rfl, rfl, rfl, gmem_answerTo ..⟩
  rw [cluster_answerTo]
  exact congrArg Cluster.holding (State.cluster_modCluster_same ..)

/-- O45, fifth part: a vote counts the tile's round. -/
theorem vote_counted {s : State} {m : Msg} {tile round : Nat} {q : Launch} (hm : s.msg m.id = some m) (hready : s.ready m = true)
    (hbody : m.body = .vote tile round) (hq : s.launch m.launch = some q) :
    ∃ t, exec (.roundCloseVote m.id) s = .next t ∧ Claim.Taken s t m ∧ t.launch m.launch =
      some { q with votes := tset 0 q.votes tile (max (tget 0 q.votes tile) (round + 1)) } := by
  let f (q : Launch) : Launch := { q with votes := tset 0 q.votes tile (max (tget 0 q.votes tile) (round + 1)) }
  have hexec : exec (.roundCloseVote m.id) s = .next ((s.took m).modLaunch m.launch f) := by
    change execRoundCloseVote m.id s = _
    unfold execRoundCloseVote
    rw [hm]
    dsimp only
    rw [hbody]
    exact if_neg (by simp [hready])
  refine ⟨_, hexec, net_took s m, ?_⟩
  rw [State.modLaunch, State.launch_setLaunch_same, launch_took, hq]
  rfl

theorem modLaunch_eq {s : State} {l : Nat} {q : Launch} (hq : s.launch l = some q) (f : Launch → Launch) :
    s.modLaunch l f = s.setLaunch l (some (f q)) := by rw [State.modLaunch, hq]; rfl

theorem mem_portsOf (s : State) (l round : Nat) (p : ClusterId) :
    p ∈ s.portsOf l round ↔ ∃ e ∈ s.clusters, e.1 = p ∧ ∃ u ∈ e.2.holding ++ e.2.ring, u.launch = l ∧ u.round = round := by
  simp only [State.portsOf, List.mem_map, List.mem_filter, List.any_eq_true, Bool.and_eq_true, beq_iff_eq]
  constructor
  · rintro ⟨e, ⟨he, u, hu, h⟩, rfl⟩
    exact ⟨e, he, rfl, u, hu, h⟩
  · rintro ⟨e, he, rfl, u, hu, h⟩
    exact ⟨e, ⟨he, u, hu, h⟩, rfl⟩

/-- O45, sixth part: the round closes once every tile has voted or finished. -/
theorem round_closes {s : State} {l : Nat} {q : Launch} (hq : s.launch l = some q) (hs : s.seals.committing = false) (hopen : q.closing = none)
    (hb : q.bound = true) (hv : ∀ i < q.record.ntiles, q.round < tget 0 q.votes i ∨ i ∈ q.finished) :
    exec (.roundClose l) s = .next (s.setLaunch l (some { q with closing := some (q.round, s.portsOf l q.round) })) := by
  have hall : q.allVoted q.record.ntiles = true := List.all_eq_true.2 fun i hi => by
    simpa using hv i (by have := (mem_span.1 hi).2; omega)
  change execRoundClose l s = _
  unfold execRoundClose
  rw [hq]
  dsimp only
  rw [if_neg (by simp [hs, hopen, hb, hall]), modLaunch_eq hq]

/-- O45, last part: with every port's report the next round opens. -/
theorem round_completes {s : State} {l : Nat} {q : Launch} {round : Nat} (hq : s.launch l = some q) (hs : s.seals.committing = false)
    (hc : q.closing = some (round, [])) :
    exec (.roundComplete l) s = .next (s.setLaunch l (some { q with closing := none, round := round + 1 })) := by
  have hbind : ((s.launch l).bind fun q => q.closing) = some (round, []) := by rw [hq]; exact hc
  change execRoundComplete l s = _
  unfold execRoundComplete
  rw [hbind]
  dsimp only
  rw [if_neg (by simp [hs]), modLaunch_eq hq]

/-! #### The application of a round at a port -/

/-- The update belongs to a round of a launch. -/
def inRound (l round : Nat) (u : Update) : Bool := u.launch == l && u.round == round

/-- The updates of a round at a port, in the order in which they are applied. -/
def roundUpdates (s : State) (port : ClusterId) (l round : Nat) : List Update :=
  ((s.cluster port).updates.filter (inRound l round)).foldl (fun l u => byIssuer u l) []

/-- The port has applied its updates of a round, and has reported. -/
def roundReported (t : State) (port : ClusterId) (l round : Nat) (ports : List ClusterId) : State :=
  (t.modCluster port fun q => { q with holding := q.holding.filter fun u => !inRound l round u,
                                       ring := q.ring.filter fun u => !inRound l round u }).modLaunch l fun q =>
    { q with closing := some (round, ports.filter (· != port)) }

theorem launch_roundReported {t : State} {l : Nat} {q : Launch} (h : t.launch l = some q) (port : ClusterId) (round : Nat) (ports : List ClusterId) :
    (roundReported t port l round ports).launch l = some { q with closing := some (round, ports.filter (· != port)) } := by
  refine (State.launch_setLaunch_same ..).trans ?_
  change (t.launch l).map _ = _
  rw [h]
  rfl

theorem cluster_roundReported (t : State) (port : ClusterId) (l round : Nat) (ports : List ClusterId) :
    (roundReported t port l round ports).cluster port =
      { t.cluster port with holding := (t.cluster port).holding.filter fun u => !inRound l round u,
                            ring := (t.cluster port).ring.filter fun u => !inRound l round u } :=
  State.cluster_modCluster_same t port fun q => { q with holding := q.holding.filter fun u => !inRound l round u,
                                                         ring := q.ring.filter fun u => !inRound l round u }

theorem exec_roundApply {s t : State} {l round : Nat} {q : Launch} {port : ClusterId} {ports : List ClusterId} (hq : s.launch l = some q)
    (hs : s.seals.committing = false) (hc : q.closing = some (round, ports)) (hp : port ∈ ports)
    (ht : s.applyUpdates (roundUpdates s port l round) = some t) :
    exec (.roundApply l port) s = .next (roundReported t port l round ports) := by
  have hbind : ((s.launch l).bind fun q => q.closing) = some (round, ports) := by rw [hq]; exact hc
  change execRoundApply l port s = _
  unfold execRoundApply
  rw [hbind]
  dsimp only
  rw [if_neg (by simp [hs, hp])]
  change (match s.applyUpdates (roundUpdates s port l round) with
    | none => Host.Outcome.next s.pressed
    | some t => Host.Outcome.next (roundReported t port l round ports)) = _
  rw [ht]

theorem mem_byIssuer {u v : Update} {l : List Update} : v ∈ byIssuer u l ↔ v = u ∨ v ∈ l := by
  induction l with
  | nil => simp [byIssuer]
  | cons w r ih =>
    rw [byIssuer]
    split
    · simp
    · rw [List.mem_cons, ih, List.mem_cons]
      tauto

theorem mem_foldl_byIssuer {v : Update} (l acc : List Update) : v ∈ l.foldl (fun l u => byIssuer u l) acc ↔ v ∈ l ∨ v ∈ acc := by
  induction l generalizing acc with
  | nil => simp
  | cons u r ih =>
    rw [List.foldl_cons, ih, mem_byIssuer, List.mem_cons]
    tauto

/-- An update that meets an irrevocable or a discarded page is dropped and reported. -/
theorem applyUpdate_irrevocable {s : State} {u : Update} (hr : (s.pageAt u.va).resident = true) (hi : (s.pageAt u.va).irrevocable = true) :
    ∃ t, s.applyUpdate u = some t ∧ HeldOnly s t := by
  unfold State.applyUpdate
  dsimp only
  rw [if_neg (by simp [hr])]
  split
  · exact ⟨_, rfl, heldOnly_modHeld ..⟩
  · exact ⟨_, rfl, heldOnly_modHeld ..⟩

theorem applyUpdates_irrevocable {us : List Update} {s : State}
    (h : ∀ u ∈ us, (s.pageAt u.va).resident = true ∧ (s.pageAt u.va).irrevocable = true) :
    ∃ t, s.applyUpdates us = some t ∧ HeldOnly s t := by
  induction us generalizing s with
  | nil => exact ⟨s, rfl, .refl s⟩
  | cons u r ih =>
    obtain ⟨hr, hi⟩ := h u List.mem_cons_self
    obtain ⟨t, ht, hst⟩ := applyUpdate_irrevocable hr hi
    have hpage (va : Nat) : t.pageAt va = s.pageAt va := by
      obtain ⟨_, _, rfl⟩ := hst
      rfl
    obtain ⟨t', ht', htt⟩ := ih (s := t) fun v hv => by
      rw [hpage]
      exact h v (List.mem_cons_of_mem _ hv)
    exact ⟨t', by rw [State.applyUpdates, ht]; exact ht', hst.trans htt⟩

/-- O45: a port drops the updates of a closed round that meet irrevocable pages, and reports. -/
theorem round_dropped {s : State} {l round : Nat} {q : Launch} {port : ClusterId} {ports : List ClusterId} (hq : s.launch l = some q)
    (hs : s.seals.committing = false) (hc : q.closing = some (round, ports)) (hp : port ∈ ports)
    (hu : ∀ u ∈ (s.cluster port).holding ++ (s.cluster port).ring, u.launch = l → u.round = round →
      (s.pageAt u.va).resident = true ∧ (s.pageAt u.va).irrevocable = true) :
    ∃ t, exec (.roundApply l port) s = .next t ∧ t.gmem = s.gmem ∧
      t.launch l = some { q with closing := some (round, ports.filter (· != port)) } ∧
      ∀ u, u ∈ (t.cluster port).holding ++ (t.cluster port).ring ↔
        u ∈ (s.cluster port).holding ++ (s.cluster port).ring ∧ ¬(u.launch = l ∧ u.round = round) := by
  obtain ⟨t, ht, hst⟩ := applyUpdates_irrevocable (us := roundUpdates s port l round) (s := s) fun u hmem => by
    rw [roundUpdates, mem_foldl_byIssuer, List.mem_filter, inRound, Bool.and_eq_true, beq_iff_eq, beq_iff_eq] at hmem
    obtain ⟨hin, hl, hr⟩ := hmem.resolve_right List.not_mem_nil
    exact hu u hin hl hr
  obtain ⟨cx, sv, rfl⟩ := hst
  refine ⟨_, exec_roundApply hq hs hc hp ht, rfl, ?_, fun u => ?_⟩
  · exact launch_roundReported hq ..
  · rw [cluster_roundReported]
    change u ∈ (s.cluster port).holding.filter _ ++ (s.cluster port).ring.filter _ ↔ _
    simp only [← List.filter_append, List.mem_filter, inRound, Bool.not_eq_true', Bool.and_eq_false_imp, beq_iff_eq, beq_eq_false_iff_ne]
    tauto

/-- Correcting single-bit errors changes nothing but marks of global memory. -/
theorem readBackG_eq (s : State) (a n : Nat) : ∃ g, g.cells = s.gmem.cells ∧ s.readBackG a n = { s with gmem := g } := by
  unfold State.readBackG
  split
  · refine foldl_rel (R := fun s t : State => ∃ g : Mem, g.cells = s.gmem.cells ∧ t = { s with gmem := g }) (fun s => ⟨_, rfl, rfl⟩)
      (fun {_ _ _} h h' => ?_) (fun t p => ?_) (partsOn a n) s
    · obtain ⟨_, hg, rfl⟩ := h
      obtain ⟨g', hg', rfl⟩ := h'
      exact ⟨g', hg'.trans hg, rfl⟩
    · split
      · next q _ => exact ⟨t.gmem.writeBack 64 q p.2, rfl, rfl⟩
      · exact ⟨t.gmem, rfl, rfl⟩
  · exact ⟨s.gmem, rfl, rfl⟩

/-- A single addition to a doubleword in memory is performed. -/
theorem applyUpdate_add {s : State} {u : Update} (hop : u.op = .add) (h8 : u.va % 8 = 0) (hf : (s.pageAt u.va).frame ≠ none)
    (hr : (s.pageAt u.va).resident = true) (hd : (s.pageAt u.va).discarded = false) (hi : (s.pageAt u.va).irrevocable = false)
    (hp : s.gPoisoned u.va 8 = false) (hroom : undoBytes (s.die (dieOf (s.pageAt u.va).home)).undo + 72 ≤ 2 ^ 30) :
    ∃ t, s.applyUpdate u = some t ∧ t.gRead u.va 8 = (s.gRead u.va 8 + u.x.toNat) % 2 ^ 64 ∧
      ∀ c, ∃ l, t.cluster c = { s.cluster c with resvs := l } := by
  obtain ⟨g, hg, hb⟩ := readBackG_eq s u.va 8
  let new : Nat := (BitVec.ofNat 64 (s.gRead u.va 8) + u.x).toNat
  obtain ⟨t, ht, hput⟩ := homeWrite_word (s := s.readBackG u.va 8) new (some (u.ctx, u.launch, u.ea)) h8 (by rw [hb]; exact hi) (by rw [hb]; exact hf)
    (by rw [hb]; exact hroom)
  obtain ⟨cx, sv, hh⟩ := heldOnly_modHeld t u.ctx u.launch (·.raise 0)
  have happly : s.applyUpdate u = some (t.modHeld u.ctx u.launch (·.raise 0)) := by
    unfold State.applyUpdate
    dsimp only
    rw [hop]
    change (if _ then _ else if _ then _ else if _ then _ else if s.gPoisoned u.va 8 = true then _ else
      match (s.readBackG u.va 8).homeWrite u.va 8 new (some (u.ctx, u.launch, u.ea)) with
        | .yes t => some (t.modHeld u.ctx u.launch (·.raise 0))
        | .full _ => none) = _
    rw [if_neg (by simp [hr]), if_neg (by simp [hd]), if_neg (by simp [hi]), if_neg (by simp [hp]), ht]
  refine ⟨_, happly, ?_, fun c => ?_⟩
  · rw [hh]
    change t.gRead u.va 8 = _
    rw [hput.word]
    have hnew : new = (s.gRead u.va 8 + u.x.toNat) % 2 ^ 64 := by
      simp only [new, BitVec.toNat_add, BitVec.toNat_ofNat]
      omega
    rw [hnew, Nat.mod_mod]
  · obtain ⟨l, hl⟩ := hput.cluster c
    refine ⟨l, ?_⟩
    rw [hh]
    exact hl.trans (by rw [hb]; rfl)

/-- O45: a port with one addition of a closed round performs it. -/
theorem round_added {s : State} {l round : Nat} {q : Launch} {port : ClusterId} {ports : List ClusterId} {u : Update} (hq : s.launch l = some q)
    (hs : s.seals.committing = false) (hc : q.closing = some (round, ports)) (hp : port ∈ ports) (hhold : (s.cluster port).holding = [u])
    (hring : (s.cluster port).ring = []) (hl : u.launch = l) (hr : u.round = round) {t : State} {v : Nat} (ht : s.applyUpdate u = some t)
    (hv : t.gRead u.va 8 = v) (hcl : ∀ c, ∃ l, t.cluster c = { s.cluster c with resvs := l }) :
    ∃ t, exec (.roundApply l port) s = .next t ∧ t.gRead u.va 8 = v ∧ (t.cluster port).holding = [] := by
  have hin : inRound l round u = true := by simp [inRound, hl, hr]
  have hus : roundUpdates s port l round = [u] := by simp [roundUpdates, Cluster.updates, hhold, hring, hin, byIssuer]
  have happly : s.applyUpdates (roundUpdates s port l round) = some t := by
    rw [hus, State.applyUpdates, ht]
    rfl
  obtain ⟨r, hr⟩ := hcl port
  refine ⟨_, exec_roundApply hq hs hc hp happly, hv, ?_⟩
  rw [cluster_roundReported, hr]
  change (s.cluster port).holding.filter _ = []
  rw [hhold]
  simp [hin]

/-- Settles O45: the barrier, the completed generation, the departure, the update's arrival, the vote and the four events of a round. -/
theorem squadGenerationsAndRounds : Obligations.SquadGenerationsAndRounds := by
  unfold Obligations.SquadGenerationsAndRounds
  intro s m h l port
  refine ⟨fun q p => barrier_arrives, fun q => generation_completes, fun q p c => departure_recorded,
    fun op va x cmp ea tile round => update_arrives, fun tile round q => vote_counted, fun q hq hs => ⟨fun hopen hb hv => ?_,
    fun round ports hc hp hu => round_dropped hq hs hc hp hu,
    fun round ports u hc hp hhold hring hl hr hop h8 hf hres hd hi hpoison hroom => ?_, fun round hc => round_completes hq hs hc⟩⟩
  · exact ⟨_, round_closes hq hs hopen hb hv, mem_portsOf s l q.round⟩
  · obtain ⟨t, ht, hv, hcl⟩ := applyUpdate_add hop h8 hf hres hd hi hpoison hroom
    exact round_added hq hs hc hp hhold hring hl hr ht hv hcl

end Sys2Proof.WorkHierarchy

namespace Sys2Proof.WorkHierarchy
open Sys2Proof Sys2Proof.Machine Sys2Proof.Safety Sys2Proof.ModuleParts

/-! ### O51: command queues (R281 to R288) -/

/-! #### What dispatch's reads leave as it was -/

/-- Dispatch has served a queue or read memory: only the turns and the marks of memory may have changed. -/
def ReadOnly (s t : State) : Prop := ∃ (g : Mem) (v : SMap Nat), g.cells = s.gmem.cells ∧ t = { s with gmem := g, served := v }

theorem ReadOnly.refl (s : State) : ReadOnly s s := ⟨s.gmem, s.served, rfl, rfl⟩

theorem ReadOnly.trans {s t u : State} (h : ReadOnly s t) (h' : ReadOnly t u) : ReadOnly s u := by
  obtain ⟨_, _, hg, rfl⟩ := h
  obtain ⟨g, v, hg', rfl⟩ := h'
  exact ⟨g, v, hg'.trans hg, rfl⟩

theorem readOnly_serve (s : State) (which level key : Nat) : ReadOnly s (s.serve which level key) := ⟨s.gmem, _, rfl, rfl⟩

theorem readOnly_readBackG (s : State) (a n : Nat) : ReadOnly s (s.readBackG a n) := by
  obtain ⟨g, hg, h⟩ := readBackG_eq s a n
  exact ⟨g, s.served, hg, h⟩

theorem readOnly_readBackD (s : State) (job a n : Nat) : ReadOnly s (s.readBackD job a n) := by
  unfold State.readBackD
  split
  · exact .refl s
  · exact readOnly_readBackG ..

theorem readOnly_recordRead (s : State) (job : Nat) (addr : Word) : ReadOnly s (s.recordRead job addr) := by
  unfold State.recordRead
  dsimp only
  split
  · exact (readOnly_readBackD ..).trans (readOnly_readBackD ..)
  · exact readOnly_readBackD ..

theorem readOnly_graphRead (s : State) (job addr : Nat) : ReadOnly s (s.graphRead job addr) := by
  have hfold := foldl_rel (R := ReadOnly) (f := fun t (e : Word × Nat) => t.recordRead job e.1) ReadOnly.refl ReadOnly.trans
    fun t e => readOnly_recordRead t job e.1
  exact (readOnly_readBackD ..).trans (hfold _ _)

section
variable {s t : State} (h : ReadOnly s t)
include h

theorem ReadOnly.sameBytes : Claim.SameBytes s t := by
  obtain ⟨g, v, hg, rfl⟩ := h
  exact ⟨fun a => congrArg (Memory.byte · a) hg, fun c a => ⟨rfl, rfl, rfl⟩⟩

theorem ReadOnly.gRead (a n : Nat) : t.gRead a n = s.gRead a n := by
  obtain ⟨g, v, hg, rfl⟩ := h
  unfold State.gRead
  dsimp only
  rw [hg]
  rfl

theorem ReadOnly.job (n : Nat) : t.job n = s.job n := by
  obtain ⟨g, v, -, rfl⟩ := h
  rfl

theorem ReadOnly.fixed : fixedOf t = { fixedOf s with served := t.served } := by
  obtain ⟨g, v, -, rfl⟩ := h
  rfl

theorem ReadOnly.pages : t.pages = s.pages := by
  obtain ⟨g, v, -, rfl⟩ := h
  rfl

theorem ReadOnly.dies : t.dies = s.dies := by
  obtain ⟨g, v, -, rfl⟩ := h
  rfl

theorem ReadOnly.owed : t.owed = s.owed := by
  obtain ⟨g, v, -, rfl⟩ := h
  rfl
end

theorem Room.readOnly {s t : State} {a n : Nat} (hr : Room s a n) (h : ReadOnly s t) : Room t a n := hr.of_eq h.pages h.dies h.owed

/-! #### The commands of a queue -/

theorem queue_setQueue (j : Job) (n : Nat) (x : Queue) : (j.setQueue n x).queue n = some x :=
  tget_tset_same none j.queues n (some x)

theorem queue_modQueue {s : State} {job n : Nat} {x : Queue} (h : s.queue job n = some x) (f : Queue → Queue) :
    (s.modQueue job n f).queue job n = some (f x) := by
  obtain ⟨j, hj, hx⟩ := Option.bind_eq_some_iff.1 h
  rw [State.queue, State.modQueue, State.job_modJob, if_pos rfl, hj, Option.map_some, Option.bind_some, hx]
  exact queue_setQueue ..

theorem queue_modJob (s : State) (job n : Nat) {f : Job → Job} (hf : ∀ j, (f j).queues = j.queues) :
    (s.modJob job f).queue job n = s.queue job n := by
  rw [State.queue, State.queue, State.job_modJob, if_pos rfl, Option.bind_map]
  congr 1
  funext j
  exact congrArg (tget none · n) (hf j)

/-- The queue holds these commands. -/
def CmdsAt (s : State) (job n : Nat) (l : List Pending) : Prop := ∃ x, s.queue job n = some x ∧ x.cmds = l

section
variable {s : State} {job n : Nat} {p : Pending}

theorem queue_modPending {x : Queue} (h : s.queue job n = some x) (hc : x.cmds = [p]) (g : Pending → Pending) :
    (s.modPending job n p g).queue job n = some { x with cmds := [g p] } := by
  have hm : markFirst (fun y => y == p) g x.cmds = [g p] := by rw [hc, markFirst, if_pos (beq_self_eq_true p)]
  rw [← hm]
  exact queue_modQueue h _

theorem queue_trim {x : Queue} (h : s.queue job n = some x) (hc : x.cmds = [p]) (hd : p.done = true) :
    (s.trim job n).queue job n = some { x with cmds := [] } := by
  have hdone : s.cmdDone p = true := by simp [State.cmdDone, hd]
  have hm : x.cmds.dropWhile s.cmdDone = [] := by rw [hc, List.dropWhile_cons_of_pos hdone, List.dropWhile_nil]
  rw [← hm]
  exact queue_modQueue h _

theorem queue_actedNow {x : Queue} (h : s.queue job n = some x) (hc : x.cmds = [p]) :
    (s.actedNow job n p).queue job n = some { x with cmds := [] } :=
  queue_trim (x := { x with cmds := [{ p with accepted := true, started := true, done := true }] }) (queue_modPending h hc _) rfl rfl

theorem cmdsAt_modPending (h : CmdsAt s job n [p]) (g : Pending → Pending) : CmdsAt (s.modPending job n p g) job n [g p] := by
  obtain ⟨x, hx, hc⟩ := h
  exact ⟨_, queue_modPending hx hc g, rfl⟩

theorem cmdsAt_trim (h : CmdsAt s job n [p]) (hd : p.done = true) : CmdsAt (s.trim job n) job n [] := by
  obtain ⟨x, hx, hc⟩ := h
  exact ⟨_, queue_trim hx hc hd, rfl⟩

theorem cmdsAt_actedNow (h : CmdsAt s job n [p]) : CmdsAt (s.actedNow job n p) job n [] := by
  obtain ⟨x, hx, hc⟩ := h
  exact ⟨_, queue_actedNow hx hc, rfl⟩

theorem CmdsAt.readOnly {t : State} {l : List Pending} (h : CmdsAt s job n l) (hr : ReadOnly s t) : CmdsAt t job n l := by
  unfold CmdsAt State.queue at h ⊢
  rwa [hr.job]

/-- The only command of a queue, waiting to be started, is under way. -/
theorem currentIn_single {q : Queue} (hq : q.cmds = [p]) (hd : p.done = false) (ha : p.accepted = true) {op : BitVec 8} (hop : p.cmd.op = op)
    {b : Bool} (hs : p.started = b) : s.currentIn q op b = some p := by
  simp [State.currentIn, State.cmdsOf, hq, State.startsFrom, hd, ha, hop, hs]

theorem unaccepted_single {q : Queue} (hq : q.cmds = [p]) (ha : p.accepted = false) {op : BitVec 8} (hop : p.cmd.op = op) :
    q.unaccepted op = some p := by
  simp [Queue.unaccepted, hq, ha, hop]
end

/-! #### What the ends of launches leave of the queues -/

/-- The queues of a job and its CANCEL. -/
def queuesOf (j : Job) : SMap (Option Queue) × Bool := (j.queues, j.cancelled)

/-- The queues of every job are as before but for WAITVALs that have been met. -/
structure CmdsKept (s t : State) : Prop where
  job : ∀ n, ∃ f, MetOnly f ∧ (t.job n).map queuesOf = ((s.job n).map fun j => j.mapCmds f).map queuesOf

theorem queuesOf_mapCmds {i j : Job} (h : queuesOf i = queuesOf j) (f : Pending → Pending) : queuesOf (i.mapCmds f) = queuesOf (j.mapCmds f) := by
  obtain ⟨hq, hc⟩ := Prod.mk.inj h
  simp only [queuesOf, Job.mapCmds, hq, hc]

theorem CmdsKept.refl (s : State) : CmdsKept s s := ⟨fun n => ⟨_, metOnly_self, by simp only [mapCmds_self, Option.map_id']⟩⟩

theorem CmdsKept.trans {s t u : State} (h : CmdsKept s t) (h' : CmdsKept t u) : CmdsKept s u := by
  refine ⟨fun n => ?_⟩
  obtain ⟨f, hf, hj⟩ := h.job n
  obtain ⟨g, hg, hj'⟩ := h'.job n
  refine ⟨g ∘ f, hg.comp hf, hj'.trans ?_⟩
  cases ht : t.job n with
  | none =>
    cases hs : s.job n with
    | none => rfl
    | some i => rw [ht, hs] at hj; cases hj
  | some j =>
    cases hs : s.job n with
    | none => rw [ht, hs] at hj; cases hj
    | some i =>
      rw [ht, hs] at hj
      simp only [Option.map_some, Option.some.injEq] at hj ⊢
      rw [queuesOf_mapCmds hj, mapCmds_mapCmds]

theorem Written.cmdsKept {s t : State} (h : Written s t) : CmdsKept s t := by
  refine ⟨fun n => ?_⟩
  obtain ⟨f, hf, hj⟩ := h.job n
  exact ⟨f, hf, by rw [hj]⟩

theorem cmdsKept_of_eq {s t : State} (h : t.jobs = s.jobs) : CmdsKept s t := by
  refine ⟨fun n => ?_⟩
  rw [State.job, h]
  exact (CmdsKept.refl s).job n

theorem cmdsKept_setJob {s : State} {job : Nat} {j j' : Job} (h : s.job job = some j) (hq : queuesOf j' = queuesOf j) :
    CmdsKept s (s.setJob job (some j')) := by
  refine ⟨fun n => ⟨_, metOnly_self, ?_⟩⟩
  simp only [mapCmds_self, Option.map_id']
  by_cases e : n = job
  · subst e
    rw [State.job_setJob_same, h]
    exact congrArg some hq
  · rw [State.job_setJob_other _ _ e]

section
variable {s t : State} {job n : Nat}

/-- The queue of a job keeps a command that is no WAITVAL. -/
theorem CmdsKept.cmdsAt (h : CmdsKept s t) {p : Pending} (hp : p.cmd.op ≠ 3) (hs : CmdsAt s job n [p]) : CmdsAt t job n [p] := by
  obtain ⟨f, hf, hj⟩ := h.job job
  obtain ⟨x, hx, hc⟩ := hs
  obtain ⟨i, hi, hx⟩ := Option.bind_eq_some_iff.1 hx
  rw [hi, Option.map_some, Option.map_some] at hj
  obtain ⟨j, hj, hq⟩ := Option.map_eq_some_iff.1 hj
  have hqueue : j.queue n = (i.mapCmds f).queue n := congrArg (tget none · n) (Prod.mk.inj hq).1
  rw [queue_mapCmds, hx] at hqueue
  exact ⟨_, Option.bind_eq_some_iff.2 ⟨j, hj, hqueue⟩, by
    change x.cmds.map f = [p]
    rw [hc, List.map_singleton, hf.eq_self hp]⟩

theorem CmdsKept.cancelled (h : CmdsKept s t) (hs : ∃ j, s.job job = some j ∧ j.cancelled = true) :
    ∃ j, t.job job = some j ∧ j.cancelled = true := by
  obtain ⟨f, -, hj⟩ := h.job job
  obtain ⟨i, hi, hc⟩ := hs
  rw [hi, Option.map_some, Option.map_some] at hj
  obtain ⟨j, hj, hq⟩ := Option.map_eq_some_iff.1 hj
  exact ⟨j, hj, (Prod.mk.inj hq).2.trans hc⟩
end

section
variable (s : State)

theorem cmdsKept_phaseMember (job phase : Nat) (complete : Bool) : CmdsKept s (s.phaseMember job phase complete) := by
  unfold State.phaseMember
  split
  · exact .refl s
  · next j hj =>
    split
    · exact .refl s
    · exact (cmdsKept_setJob (j' := j.setPhase phase { j.phase phase with done := (j.phase phase).done + 1 }) hj rfl).trans
        (written_putWord ..).cmdsKept

theorem cmdsKept_graphMember (g : Nat) (complete : Bool) : CmdsKept s (s.graphMember g complete) := by
  unfold State.graphMember
  split
  · exact .refl s
  · next q hq =>
    have hcnt (v : Nat) (q1 : Graph) : CmdsKept s (match q.cnt with
        | none => s.setGraph g (some q1)
        | some a => (s.setGraph g (some q1)).putWord q.job a v) := by
      cases q.cnt with
      | none => exact cmdsKept_of_eq rfl
      | some a => exact (cmdsKept_of_eq (s := s) (t := s.setGraph g (some q1)) rfl).trans (written_putWord ..).cmdsKept
    have hphase (st : CState) (t : State) (ht : CmdsKept s t) :
        CmdsKept s (if st = .running then t else t.phaseMember q.job q.phase (st == CState.complete)) := by
      split
      · exact ht
      · exact ht.trans (cmdsKept_phaseMember ..)
    exact hphase _ _ (hcnt ..)

theorem cmdsKept_endOne (l : Nat) (st : CState) : CmdsKept s (s.endOne l st) := by
  unfold State.endOne
  split
  · exact .refl s
  · next q _ =>
    split
    · exact .refl s
    · exact ((cmdsKept_of_eq (s := s) (t := s.setLaunch l (some { q with state := st })) rfl).trans
        (written_putWord ..).cmdsKept).trans (cmdsKept_graphMember ..)

theorem cmdsKept_endLaunch (l : Nat) (st : CState) : CmdsKept s (s.endLaunch l st) := by
  unfold State.endLaunch
  dsimp only
  split
  · exact cmdsKept_endOne ..
  · refine (cmdsKept_endOne s l st).trans (foldl_rel CmdsKept.refl CmdsKept.trans (fun t k => ?_) _ _)
    split
    · exact .refl t
    · split
      · exact cmdsKept_endOne ..
      · exact .refl t
end

/-! #### The order of service (R288) -/

theorem mem_of_tget {α : Type} {m : List (Nat × Option α)} {k : Nat} {v : α} (h : tget none m k = some v) : (k, some v) ∈ m := by
  induction m with
  | nil => cases h
  | cons e r ih =>
    rw [tget] at h
    split at h
    next he => subst he; rw [← h]; exact List.mem_cons_self
    next => exact List.mem_cons_of_mem _ (ih h)

theorem turnAmong_mem {last k : Nat} {keys : List Nat} (h : turnAmong last keys = some k) : k ∈ keys := by
  unfold turnAmong at h
  dsimp only at h
  rw [Option.orElse_eq_or, Option.or_eq_some_iff] at h
  rcases h with h | ⟨-, h⟩
  · exact (List.mem_filter.1 (List.mem_of_find?_eq_some h)).1
  · exact List.mem_of_find?_eq_some h

/-- The queue that is served next is one of the candidates, and of the lowest level among them. -/
theorem nextServed_least {s : State} {which level key : Nat} {cands : List (Nat × Nat)} (h : s.nextServed which cands = some (level, key)) :
    (level, key) ∈ cands ∧ ∀ e ∈ cands, level ≤ e.1 := by
  have hrange : [0, 1, 2, 3] = List.range 4 := rfl
  unfold State.nextServed at h
  obtain ⟨l, hl, h⟩ := Option.bind_eq_some_iff.1 h
  obtain ⟨k, hk, h⟩ := Option.map_eq_some_iff.1 h
  cases h
  rw [hrange, List.find?_range_eq_some] at hl
  obtain ⟨-, hl4, hmin⟩ := hl
  refine ⟨?_, fun e he => ?_⟩
  · obtain ⟨e, he, rfl⟩ := List.mem_map.1 (turnAmong_mem hk)
    obtain ⟨he, hlev⟩ := List.mem_filter.1 he
    rwa [← beq_iff_eq.1 hlev]
  · by_contra hlt
    have hno := hmin e.1 (by omega)
    rw [Bool.not_eq_true', List.any_eq_false] at hno
    exact hno e he (beq_self_eq_true e.1)

section
variable {s : State} {job n : Nat} {j : Job} {q : Queue}

theorem mem_readies (hj : s.job job = some j) (hq : j.queue n = some q) (hr : s.readyIn job j q = true) :
    (q.prio.toNat, queueKey job n) ∈ s.readies := by
  refine List.mem_flatten.2 ⟨_, List.mem_map.2 ⟨(job, some j), mem_of_tget hj, rfl⟩, ?_⟩
  exact List.mem_filterMap.2 ⟨(n, some q), mem_of_tget hq, if_pos hr⟩

theorem readable_of (hstop : q.stopped = false) (hbell : q.doorbell ≠ q.consumed) (hc : j.cancelled = false)
    (hall : ∀ p ∈ q.cmds, p.accepted = true) : q.readable j = true := by
  simp only [Queue.readable, hstop, hc, Bool.not_false, Bool.true_and, Bool.and_true, Bool.and_eq_true, bne_iff_ne, ne_eq, List.all_eq_true]
  exact ⟨hbell, hall⟩

/-- The state in which dispatch serves a queue. -/
def servedState (s : State) (job n : Nat) (q : Queue) : State := s.serve 0 q.prio.toNat (queueKey job n)

theorem inTurn_served (hj : s.job job = some j) (hq : j.queue n = some q)
    (hs : s.nextServed 0 s.readies = some (q.prio.toNat, queueKey job n)) (f : Job → Queue → State → Option State) :
    s.inTurn job n f = .next ((f j q (servedState s job n q)).getD s) := by
  unfold State.inTurn
  rw [hj]
  dsimp only
  rw [hq]
  exact if_pos hs

theorem inTurn_idle (hj : s.job job = some j) (hq : j.queue n = some q)
    (hs : s.nextServed 0 s.readies ≠ some (q.prio.toNat, queueKey job n)) (f : Job → Queue → State → Option State) :
    s.inTurn job n f = .next s := by
  unfold State.inTurn
  rw [hj]
  dsimp only
  rw [hq]
  exact if_neg hs

theorem queue_eq (hj : s.job job = some j) (hq : j.queue n = some q) : s.queue job n = some q := by
  rw [State.queue, hj]
  exact hq

/-- O51: out of its queue's turn dispatch does nothing. -/
theorem exec_out_of_turn (hj : s.job job = some j) (hq : j.queue n = some q)
    (hs : s.nextServed 0 s.readies ≠ some (q.prio.toNat, queueKey job n)) :
    ∀ i ∈ [Instr.commandRead job n, .launch job n, .graph job n, .waitval job n, .commandFence job n], exec i s = .next s := by
  simp only [List.forall_mem_cons, List.not_mem_nil, false_imp_iff, implies_true, and_true]
  have hidle := inTurn_idle hj hq hs
  refine ⟨?_, ?_, ?_, ?_, ?_⟩
  · change execCommandRead job n s = _
    unfold execCommandRead
    rw [queue_eq hj hq]
    exact hidle _
  · exact (hidle _ : execLaunch job n s = _)
  · exact (hidle _ : execGraph job n s = _)
  · exact (hidle _ : execWaitval job n s = _)
  · exact (hidle _ : execCommandFence job n s = _)

/-! #### COMMAND_READ (R283, R284) -/

theorem op_ofBytes (b slot : Nat) : (Command.ofBytes b slot).op.toNat = b / 2 ^ 56 % 2 ^ 8 := by
  change (BitVec.ofNat 8 (bits (recDw b 0) 56 8)).toNat = _
  rw [BitVec.toNat_ofNat, bits, recDw]
  omega

theorem addr_ofBytes (b slot : Nat) : (Command.ofBytes b slot).addr.toNat = b / 2 ^ 64 % 2 ^ 64 := by
  change (BitVec.ofNat 64 (recDw b 8)).toNat = _
  rw [BitVec.toNat_ofNat, recDw, Nat.mod_mod]
  rfl

theorem value_ofBytes (b slot : Nat) : (Command.ofBytes b slot).value.toNat = b / 2 ^ 128 % 2 ^ 64 := by
  change (BitVec.ofNat 64 (recDw b 16)).toNat = _
  rw [BitVec.toNat_ofNat, recDw, Nat.mod_mod]
  rfl

/-- The slot that a queue's consumed count names. -/
def slotOf (q : Queue) : Nat := q.consumed.toNat % 2 ^ q.logn.toNat

/-- The command in the next slot of a queue. -/
def nextCommand (s : State) (job : Nat) (q : Queue) : Command :=
  Command.ofBytes (s.dread job (q.base.toNat + 64 * slotOf q) 64) (slotOf q)

/-- JOBEND waits for one command less of a queue. -/
def slotPassed (n : Nat) (q : Queue) (j : Job) : Job :=
  { j with endPosted := j.endPosted.map fun l => l.filter fun e => !(e.1 == n && e.2 == q.consumed + 1) }

/-- The next slot of a queue has been read. -/
def slotTaken (s : State) (job n : Nat) (q : Queue) : State :=
  (((servedState s job n q).readBackD job (q.base.toNat + 64 * slotOf q) 64).modQueue job n fun x =>
    { x with consumed := x.consumed + 1 }).modJob job (slotPassed n q)

/-- A command enters its queue. -/
def commandQueued (s : State) (job n : Nat) (c : Command) : State :=
  s.modQueue job n fun x => { x with cmds := x.cmds ++ [Pending.fresh c] }

theorem exec_commandRead (hj : s.job job = some j) (hq : j.queue n = some q)
    (hs : s.nextServed 0 s.readies = some (q.prio.toNat, queueKey job n)) (hr : q.readable j = true) (hseal : s.seals.committing = false) :
    exec (.commandRead job n) s = .next (if (nextCommand s job q).bad j then (slotTaken s job n q).refuseCmd job n (nextCommand s job q)
      else nextOf (slotTaken s job n q)
        ((commandQueued (slotTaken s job n q) job n (nextCommand s job q)).actOn job n (nextCommand s job q))) := by
  change execCommandRead job n s = _
  unfold execCommandRead
  rw [queue_eq hj hq]
  dsimp only
  rw [inTurn_served hj hq hs, if_neg (by simp [hseal, hr])]
  rfl

theorem readOnly_servedState (s : State) (job n : Nat) (q : Queue) : ReadOnly s (servedState s job n q) := readOnly_serve ..

theorem ReadOnly.queue {s t : State} (h : ReadOnly s t) (job n : Nat) : t.queue job n = s.queue job n := by
  rw [State.queue, h.job]
  rfl

theorem queue_slotTaken (hj : s.job job = some j) (hq : j.queue n = some q) :
    (slotTaken s job n q).queue job n = some { q with consumed := q.consumed + 1 } := by
  have hr := (readOnly_servedState s job n q).trans (readOnly_readBackD (servedState s job n q) job (q.base.toNat + 64 * slotOf q) 64)
  have hqueue := (hr.queue job n).trans (queue_eq hj hq)
  rw [slotTaken, queue_modJob (f := slotPassed n q) _ _ _ fun _ => rfl]
  exact queue_modQueue hqueue _

theorem queue_commandQueued (hj : s.job job = some j) (hq : j.queue n = some q) (c : Command) :
    (commandQueued (slotTaken s job n q) job n c).queue job n =
      some { q with consumed := q.consumed + 1, cmds := q.cmds ++ [Pending.fresh c] } :=
  queue_modQueue (queue_slotTaken hj hq) _

/-- O51: a command that is no CANCEL and no SEALREQ enters its queue. -/
theorem command_read (hj : s.job job = some j) (hq : j.queue n = some q)
    (hs : s.nextServed 0 s.readies = some (q.prio.toNat, queueKey job n)) (hr : q.readable j = true) (hseal : s.seals.committing = false)
    (hb : (nextCommand s job q).bad j = false) (h5 : (nextCommand s job q).op ≠ 5) (h6 : (nextCommand s job q).op ≠ 6) :
    exec (.commandRead job n) s = .next (commandQueued (slotTaken s job n q) job n (nextCommand s job q)) := by
  have hact : (commandQueued (slotTaken s job n q) job n (nextCommand s job q)).actOn job n (nextCommand s job q) =
      .next (commandQueued (slotTaken s job n q) job n (nextCommand s job q)) := by
    rw [State.actOn, if_neg h6, if_pos h5]
  rw [exec_commandRead hj hq hs hr hseal, if_neg (by simp [hb]), hact]
  rfl

theorem queue_refuseCmd {t : State} {x : Queue} (h : t.queue job n = some x) {c : Command} (h1 : c.op ≠ 1) (h2 : c.op ≠ 2) :
    (t.refuseCmd job n c).queue job n = some { x with stopped := true, cmds := x.cmds.filter fun p => p.accepted } := by
  obtain ⟨g, p, hn⟩ := notice_eq t job 2 0 0 (BitVec.ofNat 64 (2 ^ 32 * n + c.slot))
  unfold State.refuseCmd
  dsimp only
  rw [if_neg h2, if_neg fun h => h1 h.1]
  dsimp only
  rw [queue_modJob (f := fun j => j.endRead n) _ _ _ fun _ => rfl, hn]
  exact queue_modQueue (s := { t with gmem := g, pages := p }) h _

/-- O51: a malformed command stops its queue. -/
theorem command_refused (hj : s.job job = some j) (hq : j.queue n = some q)
    (hs : s.nextServed 0 s.readies = some (q.prio.toNat, queueKey job n)) (hr : q.readable j = true) (hseal : s.seals.committing = false)
    (hall : ∀ p ∈ q.cmds, p.accepted = true) (hb : (nextCommand s job q).bad j = true) (h1 : (nextCommand s job q).op ≠ 1)
    (h2 : (nextCommand s job q).op ≠ 2) :
    ∃ t x, exec (.commandRead job n) s = .next t ∧ t.queue job n = some x ∧ x.stopped = true ∧ x.cmds = q.cmds := by
  refine ⟨_, _, by rw [exec_commandRead hj hq hs hr hseal, if_pos hb], queue_refuseCmd (queue_slotTaken hj hq) h1 h2, rfl, ?_⟩
  exact List.filter_eq_self.2 hall
end

/-! #### SEALREQ (R115, R285) -/

theorem mem_terase {α : Type} {m : List (Nat × α)} {k : Nat} {e : Nat × α} (h : e ∈ terase m k) : e ∈ m := by
  induction m with
  | nil => exact h
  | cons f r ih =>
    obtain ⟨i, v⟩ := f
    rw [terase] at h
    split at h
    · exact List.mem_cons_of_mem _ (ih h)
    · rcases List.mem_cons.1 h with rfl | h
      · exact List.mem_cons_self
      · exact List.mem_cons_of_mem _ (ih h)

theorem mem_tinsert {α : Type} {m : List (Nat × α)} {k : Nat} {v : α} {e : Nat × α} (h : e ∈ tinsert m k v) : e = (k, v) ∨ e ∈ m := by
  induction m with
  | nil => exact .inl (List.mem_singleton.1 h)
  | cons f r ih =>
    rw [tinsert] at h
    split at h
    · exact List.mem_cons.1 h
    · rcases List.mem_cons.1 h with rfl | h
      · exact .inr List.mem_cons_self
      · exact (ih h).imp_right (List.mem_cons_of_mem _)

theorem mem_tset {α : Type} [DecidableEq α] {d : α} {m : List (Nat × α)} {k : Nat} {v : α} {e : Nat × α} (h : e ∈ tset d m k v) :
    e = (k, v) ∨ e ∈ m := by
  unfold tset at h
  split at h
  · exact .inr (mem_terase h)
  · exact (mem_tinsert h).imp_right mem_terase

/-- No replica phase runs because of a change of a job that keeps its digests' state. -/
theorem replicaPhase_modJob {s : State} (h : s.replicaPhase = false) (job : Nat) {f : Job → Job} (hrep : ∀ j, (f j).rep = j.rep)
    (hm : ∀ j, (f j).matched = j.matched) : (s.modJob job f).replicaPhase = false := by
  unfold State.replicaPhase at h ⊢
  rw [List.any_eq_false] at h ⊢
  intro e he
  rcases mem_tset he with rfl | he
  · cases hj : s.job job with
    | none => simp
    | some j =>
      have hold := h _ (mem_of_tget hj)
      rw [Option.map_some]
      dsimp only at hold ⊢
      rwa [hrep, hm]
  · exact h e he

theorem replicaPhase_modQueue {s : State} (h : s.replicaPhase = false) (job n : Nat) (f : Queue → Queue) :
    (s.modQueue job n f).replicaPhase = false := by
  refine replicaPhase_modJob h job (fun j => ?_) fun j => ?_
  · split <;> rfl
  · split <;> rfl

theorem ReadOnly.replicaPhase {s t : State} (h : ReadOnly s t) : t.replicaPhase = s.replicaPhase := by
  obtain ⟨g, v, -, rfl⟩ := h
  rfl

section
variable {s : State} {job n : Nat} {x : Queue} {p : Pending}

/-- A SEALREQ that has been read requests a seal and is complete. -/
theorem sealreq_acts (hx : s.queue job n = some x) (hc : x.cmds = [p]) (ha : p.accepted = false) (hop : p.cmd.op = 6)
    (hr : s.replicaPhase = false) : ∃ t, execSealreq job n s = .next t ∧ t.queue job n = some { x with cmds := [] } ∧
      t.seals.requested = true := by
  have hseal : s.requestSeal false = { s with seals := { s.seals with requested := true } } := if_neg (by simp [hr])
  have hq : (s.requestSeal false).queue job n = some x := by rw [hseal]; exact hx
  refine ⟨(s.requestSeal false).actedNow job n p, ?_, queue_actedNow hq hc, ?_⟩
  · unfold execSealreq
    rw [hx, Option.bind_some, unaccepted_single hc ha hop]
  · change (s.requestSeal false).seals.requested = true
    rw [hseal]

/-! #### CANCEL (R65, R74, R281) -/

/-- The event of a CANCEL acts as one that has just been read does. -/
theorem exec_cancel {c : Command} (hop : c.op = 5) :
    exec (if c.mode = 0 then .cancelLaunch job n else if c.mode = 1 then .cancelGraph job n
      else if c.mode = 2 then .cancelPhase job n else .cancelJob job n) s = s.actOn job n c := by
  have hact : c.op ≠ 6 ∧ ¬c.op ≠ 5 := by rw [hop]; decide
  rw [State.actOn, if_neg hact.1, if_neg hact.2]
  split
  · rfl
  · split
    · rfl
    · split <;> rfl

/-- What a CANCEL names, of a launch and the counter of its graph. -/
def Names (c : Command) (q : Launch) (a : Word) : Prop :=
  if c.mode = 0 then q.record.cntaddr = c.addr else if c.mode = 1 then a = c.addr else if c.mode = 2 then q.phase = c.phase.toNat else True

theorem launchesOf_single {l : Nat} {q : Launch} (h : s.launches = [(l, some q)]) (hj : q.job = job) {f : Launch → Option Graph → Bool}
    (hf : f q (s.graph q.graph) = true) : s.launchesOf job f = [l] := by
  rw [State.launchesOf, h]
  simp [hj, hf]

/-- The launches that a CANCEL names are ended, and it is complete. -/
theorem cancelFor_single {l : Nat} {q : Launch} (h : s.launch l = some q) (hrun : q.state = .running) (hb : q.bound = false)
    (hc : CmdsAt s job n [p]) (hop : p.cmd.op = 5) : ∃ t, s.cancelFor job n p [l] = .next t ∧ CmdsAt t job n [] ∧
      t.launch l = some { q with state := .cancelled } ∧
      ((∃ j, s.job job = some j ∧ j.cancelled = true) → ∃ j, t.job job = some j ∧ j.cancelled = true) := by
  have hkept := cmdsKept_endLaunch s l .cancelled
  have hcancel : s.cancelLaunches [l] = s.endLaunch l .cancelled := by
    change s.cancelLaunch l = _
    unfold State.cancelLaunch
    rw [h]
    dsimp only
    rw [if_neg (by simp [hrun]), if_neg (by simp [hb])]
  refine ⟨_, by rw [State.cancelFor, hcancel], cmdsAt_actedNow (hkept.cmdsAt (by rw [hop]; decide) hc), launch_endLaunch h hrun (by decide),
    fun hj => ?_⟩
  have hflag {t : State} (ht : ∃ j, t.job job = some j ∧ j.cancelled = true) (f : Queue → Queue) :
      ∃ j, (t.modQueue job n f).job job = some j ∧ j.cancelled = true := by
    obtain ⟨j, hj, hc⟩ := ht
    rw [State.modQueue, State.job_modJob, if_pos rfl, hj]
    refine ⟨_, rfl, ?_⟩
    dsimp only
    split
    · exact hc
    · exact hc
  exact hflag (hflag (hkept.cancelled hj) _) _

theorem mode_three {m : BitVec 2} (h0 : m ≠ 0) (h1 : m ≠ 1) (h2 : m ≠ 2) : m = 3 := by
  have hm := m.isLt
  rw [ne_eq, BitVec.toNat_eq] at h0 h1 h2
  rw [BitVec.toNat_eq]
  have h0 : m.toNat ≠ 0 := h0
  have h1 : m.toNat ≠ 1 := h1
  have h2 : m.toNat ≠ 2 := h2
  change m.toNat = 3
  omega

theorem cancelCmd_single (hc : CmdsAt s job n [p]) (ha : p.accepted = false) (hop : p.cmd.op = 5) {mode : BitVec 2} (hm : p.cmd.mode = mode) :
    s.cancelCmd job n mode = some p := by
  obtain ⟨x, hx, hx1⟩ := hc
  rw [State.cancelCmd, hx, Option.bind_some, unaccepted_single hx1 ha hop]
  simp [hm]

/-- O51: a CANCEL ends the launch that it names as CANCELLED and is complete. -/
theorem cancel_acts {l : Nat} {q : Launch} {g : Graph} {a : Word} (hl : s.launches = [(l, some q)]) (hj : q.job = job)
    (hrun : q.state = .running) (hb : q.bound = false) (hg : s.graph q.graph = some g) (hcnt : g.cnt = some a)
    (hc : CmdsAt s job n [p]) (ha : p.accepted = false) (hop : p.cmd.op = 5) (hn : Names p.cmd q a) :
    ∃ t q', s.actOn job n p.cmd = .next t ∧ CmdsAt t job n [] ∧ t.launch l = some q' ∧ q'.state = .cancelled ∧
      (p.cmd.mode = 3 → ∃ y, t.job job = some y ∧ y.cancelled = true) := by
  have hlaunch : s.launch l = some q := by rw [State.launch, hl]; exact if_pos rfl
  have hact : p.cmd.op ≠ 6 ∧ ¬p.cmd.op ≠ 5 := by rw [hop]; decide
  unfold Names at hn
  unfold State.actOn
  rw [if_neg hact.1, if_neg hact.2]
  by_cases h0 : p.cmd.mode = 0
  · rw [if_pos h0] at hn ⊢
    obtain ⟨t, ht, hcm, hlt, -⟩ := cancelFor_single hlaunch hrun hb hc hop
    refine ⟨t, _, ?_, hcm, hlt, rfl, fun h3 => absurd (h3.symm.trans h0) (by decide)⟩
    unfold execCancelLaunch
    rw [cancelCmd_single hc ha hop h0]
    dsimp only
    rw [launchesOf_single hl hj (by simp [hn]), ht]
  · rw [if_neg h0] at hn ⊢
    by_cases h1 : p.cmd.mode = 1
    · rw [if_pos h1] at hn ⊢
      obtain ⟨t, ht, hcm, hlt, -⟩ := cancelFor_single hlaunch hrun hb hc hop
      refine ⟨t, _, ?_, hcm, hlt, rfl, fun h3 => absurd (h3.symm.trans h1) (by decide)⟩
      unfold execCancelGraph
      rw [cancelCmd_single hc ha hop h1]
      dsimp only
      rw [launchesOf_single hl hj (by simp [hg, hcnt, hn]), ht]
    · rw [if_neg h1] at hn ⊢
      by_cases h2 : p.cmd.mode = 2
      · rw [if_pos h2] at hn ⊢
        obtain ⟨t, ht, hcm, hlt, -⟩ := cancelFor_single hlaunch hrun hb hc hop
        refine ⟨t, _, ?_, hcm, hlt, rfl, fun h3 => absurd (h3.symm.trans h2) (by decide)⟩
        unfold execCancelPhase
        rw [cancelCmd_single hc ha hop h2]
        dsimp only
        rw [launchesOf_single hl hj (by simp [hn]), ht]
      · rw [if_neg h2]
        have hq : (s.modJob job fun j => { j with cancelled := true }).queue job n = s.queue job n :=
          queue_modJob (f := fun j => { j with cancelled := true }) _ _ _ fun _ => rfl
        have hcm' : CmdsAt (s.modJob job fun j => { j with cancelled := true }) job n [p] := by
          unfold CmdsAt
          rw [hq]
          exact hc
        obtain ⟨t, ht, hcm, hlt, hflag⟩ := cancelFor_single (s := s.modJob job fun j => { j with cancelled := true }) hlaunch hrun hb hcm' hop
        refine ⟨t, _, ?_, hcm, hlt, rfl, fun _ => hflag ?_⟩
        · unfold execCancelJob
          rw [cancelCmd_single hc ha hop (mode_three h0 h1 h2)]
          dsimp only
          rw [launchesOf_single hl hj rfl, ht]
        · obtain ⟨x, hx, -⟩ := hc
          obtain ⟨j, hj, -⟩ := Option.bind_eq_some_iff.1 hx
          rw [State.job_modJob, if_pos rfl, hj]
          exact ⟨_, rfl, rfl⟩
end

end Sys2Proof.WorkHierarchy

namespace Sys2Proof.WorkHierarchy
open Sys2Proof Sys2Proof.Machine Sys2Proof.Safety Sys2Proof.ModuleParts

/-! #### WAITVAL, WRITEVAL and FENCE (R285) -/

theorem holds_iff (c : Command) (v : Word) : c.holds v = true ↔
    if c.mode = 0 then v = c.value else if c.mode = 1 then c.value.toNat ≤ v.toNat else (v - c.value).toNat < 2 ^ 63 := by
  unfold Command.holds
  by_cases h0 : c.mode = 0
  · rw [h0]
    exact beq_iff_eq
  · by_cases h1 : c.mode = 1
    · rw [h1]
      exact decide_eq_true_iff
    · by_cases h2 : c.mode = 2
      · rw [h2]
        exact decide_eq_true_iff
      · rw [mode_three h0 h1 h2]
        exact decide_eq_true_iff

section
variable {s : State} {job n : Nat} {j : Job} {q : Queue} {p : Pending}

theorem sameBytes_modQueue (s : State) (job n : Nat) (f : Queue → Queue) : Claim.SameBytes s (s.modQueue job n f) := sameBytes_of_eq rfl rfl

/-- A WAITVAL whose condition holds, or has held, completes; another one waits. -/
theorem testWait_spec (hc : CmdsAt s job n [p]) :
    Claim.SameBytes s (s.testWait job n p) ∧
    ((p.met || p.cmd.holds (s.dword job p.cmd.addr.toNat)) = true → CmdsAt (s.testWait job n p) job n []) ∧
    (¬(p.met || p.cmd.holds (s.dword job p.cmd.addr.toNat)) = true → CmdsAt (s.testWait job n p) job n [{ p with started := true }]) := by
  have hr := readOnly_readBackD s job p.cmd.addr.toNat 8
  have hc' := hc.readOnly hr
  unfold State.testWait
  dsimp only
  split
  · next hm =>
    refine ⟨?_, fun _ => ?_, fun h => absurd hm h⟩
    · exact sameBytes_trans hr.sameBytes (sameBytes_of_eq rfl rfl)
    · exact cmdsAt_trim (cmdsAt_modPending (s := { s.readBackD job p.cmd.addr.toNat 8 with dispatchClock := _ }) hc' _) rfl
  · next hm =>
    exact ⟨sameBytes_trans hr.sameBytes (sameBytes_modQueue ..), fun h => absurd h hm, fun _ => cmdsAt_modPending hc' _⟩

theorem cmdsAt_of (hj : s.job job = some j) (hq : j.queue n = some q) {l : List Pending} (hl : q.cmds = l) : CmdsAt s job n l :=
  ⟨q, queue_eq hj hq, hl⟩

/-- O51: a WAITVAL that starts, and one that is tested again, go by the value and by what a write has met. -/
theorem waitval_tested (hj : s.job job = some j) (hq : j.queue n = some q) (hl : q.cmds = [p]) (hd : p.done = false)
    (ha : p.accepted = true) (hop : p.cmd.op = 3) {i : Instr × Bool} (hi : i ∈ [(Instr.waitval job n, false), (.waitvalSatisfied job n, true)])
    (hs : i.2 = false → s.nextServed 0 s.readies = some (q.prio.toNat, queueKey job n)) (hst : p.started = i.2) :
    ∃ t, exec i.1 s = .next t ∧ Claim.SameBytes s t ∧
      ((p.met || p.cmd.holds (s.dword job p.cmd.addr.toNat)) = true → CmdsAt t job n []) ∧
      (¬(p.met || p.cmd.holds (s.dword job p.cmd.addr.toNat)) = true → CmdsAt t job n [{ p with started := true }]) := by
  have hc := cmdsAt_of hj hq hl
  rcases List.mem_cons.1 hi with rfl | hi
  · have hr := readOnly_servedState s job n q
    obtain ⟨hsame, hmet, hnot⟩ := testWait_spec (hc.readOnly hr)
    refine ⟨(servedState s job n q).testWait job n p, ?_, sameBytes_trans hr.sameBytes hsame, hmet, hnot⟩
    change execWaitval job n s = _
    unfold execWaitval
    rw [inTurn_served hj hq (hs rfl), currentIn_single hl hd ha hop hst]
    rfl
  · obtain rfl := List.mem_singleton.1 hi
    refine ⟨s.testWait job n p, ?_, testWait_spec hc⟩
    change execWaitvalSatisfied job n s = _
    unfold execWaitvalSatisfied
    rw [State.current, queue_eq hj hq, Option.bind_some, currentIn_single hl hd ha hop hst]

/-- O51: a WRITEVAL writes its value. -/
theorem writeval_written (hj : s.job job = some j) (hq : j.queue n = some q) (hl : q.cmds = [p]) (hd : p.done = false)
    (hs : s.nextServed 0 s.readies = some (q.prio.toNat, queueKey job n)) (ha : p.accepted = true) (hst : p.started = false)
    (hop : p.cmd.op = 4) (hw : Claim.Writable s job p.cmd.addr) :
    ∃ t, exec (.writeval job n) s = .next t ∧ CmdsAt t job n [] ∧ t.gRead (jaddr job p.cmd.addr.toNat) 8 = p.cmd.value.toNat := by
  have hroom := room_of_writable hw
  have hr := readOnly_servedState s job n q
  have hroom' := hroom.readOnly hr
  obtain ⟨t0, ht0, -⟩ := tryWord_room p.cmd.value.toNat s.dispatchClock hroom
  obtain ⟨t, ht, hput⟩ := tryWord_room p.cmd.value.toNat (servedState s job n q).dispatchClock hroom'
  have hdone0 : s.writevalDone job p.cmd = some t0 := (if_neg (by simp [hroom.free])).trans ht0
  have hdone : (servedState s job n q).writevalDone job p.cmd = some t := (if_neg (by simp [hroom'.free])).trans ht
  have hc : CmdsAt t job n [p] := hput.toWritten.cmdsKept.cmdsAt (by rw [hop]; decide) ((cmdsAt_of hj hq hl).readOnly hr)
  refine ⟨(t.modPending job n p fun y => { y with started := true, done := true }).trim job n, ?_,
    cmdsAt_trim (cmdsAt_modPending hc _) rfl, ?_⟩
  · change execWriteval job n s = _
    unfold execWriteval
    rw [State.current, queue_eq hj hq, Option.bind_some, currentIn_single hl hd ha hop hst]
    dsimp only
    rw [if_neg (by simp [hdone0]), inTurn_served hj hq hs, hdone]
    rfl
  · exact hput.word.trans (Nat.mod_eq_of_lt p.cmd.value.isLt)

/-- O51: a FENCE that is the oldest command which is not complete completes. -/
theorem fence_completes (hj : s.job job = some j) (hq : j.queue n = some q) (hl : q.cmds = [p]) (hd : p.done = false)
    (hs : s.nextServed 0 s.readies = some (q.prio.toNat, queueKey job n)) (hop : p.cmd.op = 7) :
    ∃ t, exec (.commandFence job n) s = .next t ∧ CmdsAt t job n [] := by
  have hr := readOnly_servedState s job n q
  have hnot : ¬(servedState s job n q).cmdDone p = true := by simp [State.cmdDone, hd, Command.isWork, hop]
  have hfence : (servedState s job n q).fenceIn q = some p := by
    rw [State.fenceIn, hl, List.dropWhile_cons_of_neg hnot]
    simp [hop]
  refine ⟨((servedState s job n q).modPending job n p fun y => { y with started := true, done := true }).trim job n, ?_,
    cmdsAt_trim (cmdsAt_modPending ((cmdsAt_of hj hq hl).readOnly hr) _) rfl⟩
  change execCommandFence job n s = _
  unfold execCommandFence
  rw [inTurn_served hj hq hs, hfence]
  rfl
end

/-! #### LAUNCH and GRAPH (R65, R68, R72, R73) -/

/-- A graph of one launch as dispatch accepts it. -/
def oneGraph (job n phase : Nat) (cnt : Option Word) (l : Nat) : Graph :=
  { job := job, queue := n, phase := phase, cnt := cnt, launches := [l], state := .running, done := 0 }

/-- A graph enters dispatch's table. -/
def graphEntered (s : State) (job n phase : Nat) (cnt : Option Word) : State :=
  { s with nextGraph := s.nextGraph + 1 }.setGraph s.nextGraph (some (oneGraph job n phase cnt s.nextLaunch))

/-- Its launch enters dispatch's table. -/
def launchEntered (s : State) (job phase graph : Nat) (prio : BitVec 2) (r : LaunchRec) (tl : List Nat) : State :=
  { s with nextLaunch := s.nextLaunch + 1 }.setLaunch s.nextLaunch (some (Launch.fresh job phase graph [] r tl prio))

/-- Its launch is placed, its counter at 0. -/
def launchPlaced (s : State) (job phase graph : Nat) (prio : BitVec 2) (r : LaunchRec) (tl : List Nat) : State :=
  (launchEntered s job phase graph prio r tl).putWord job r.cntaddr (counterWord .running 0)

/-- A graph's own counter is at 0. -/
def counterOpened (s : State) (job : Nat) (cnt : Option Word) : State :=
  match cnt with
  | none => s
  | some a => s.putWord job a (counterWord .running 0)

/-- A graph is one of its phase, whose baton is abandoned. -/
def graphMembered (phase graph : Nat) (j : Job) : Job :=
  { j.setPhase phase { j.phase phase with graphs := (j.phase phase).graphs ++ [graph], baton := none } with highRead := max j.highRead (phase + 1) }

/-- A graph of one launch is placed. -/
def onePlaced (s : State) (job n phase : Nat) (cnt : Option Word) (prio : BitVec 2) (r : LaunchRec) (tl : List Nat) : State :=
  counterOpened (launchPlaced ((graphEntered s job n phase cnt).openPhase job phase) job phase s.nextGraph prio r tl) job cnt

/-- A command has been accepted, its graph being placed. -/
def workAccepted (s : State) (job n : Nat) (p : Pending) (graph : Nat) : State :=
  (s.modJob job (graphMembered p.cmd.phase.toNat graph)).modPending job n p fun y => { y with accepted := true, graph := graph }

theorem placeGraph_single (s : State) (job n : Nat) (p : Pending) (cnt : Option Word) (prio : BitVec 2) (r : LaunchRec) (tl : List Nat) :
    s.placeGraph job n p cnt prio [(r, tl, [])] =
      if (s.job job).any fun j => j.cancelled then
        (workAccepted (onePlaced s job n p.cmd.phase.toNat cnt prio r tl) job n p s.nextGraph).cancelLaunches [s.nextLaunch]
      else workAccepted (onePlaced s job n p.cmd.phase.toNat cnt prio r tl) job n p s.nextGraph := by
  unfold State.placeGraph
  dsimp only
  rw [List.length_singleton, State.placeLaunches, State.placeLaunches]
  rfl

section
variable {s t : State} {job n phase : Nat} {j : Job} {p : Pending} {cnt : Option Word}

theorem Written.launch (h : Written s t) (l : Nat) : t.launch l = s.launch l := congrArg (fun f : Fixed => tget none f.launches l) h.fixed
theorem Written.graph (h : Written s t) (g : Nat) : t.graph g = s.graph g := congrArg (fun f : Fixed => tget none f.graphs g) h.fixed

/-- What opening a phase leaves room for. -/
theorem openPhase_spec (hj : s.job job = some j) (hopen : (j.phase phase).graphs = [] →
      Room s (jaddr job (j.phaseCtr + BitVec.ofNat 64 (8 * phase)).toNat) 4) :
    Written s (s.openPhase job phase) ∧ ∀ a m, Room s a (m + 1) → Room (s.openPhase job phase) a m := by
  unfold State.openPhase
  rw [hj]
  dsimp only
  split
  · next he =>
    have hput := put_putWord (n := 3) (counterWord .running 0) (hopen (List.isEmpty_iff.1 he))
    exact ⟨hput.toWritten, fun a m h => hput.room h⟩
  · exact ⟨.refl s, fun a m h => h.mono (Nat.le_succ m)⟩

theorem launchPlaced_spec {prio : BitVec 2} {r : LaunchRec} {tl : List Nat} {graph : Nat} (hroom : Room s (jaddr job r.cntaddr.toNat) 1) :
    CmdsKept s (launchPlaced s job phase graph prio r tl) ∧ (launchPlaced s job phase graph prio r tl).graphs = s.graphs ∧
    (launchPlaced s job phase graph prio r tl).launch s.nextLaunch = some (Launch.fresh job phase graph [] r tl prio) ∧
    (launchPlaced s job phase graph prio r tl).gRead (jaddr job r.cntaddr.toNat) 8 = 0 ∧
    ∀ a m, Room s a (m + 1) → Room (launchPlaced s job phase graph prio r tl) a m := by
  have hr : Room (launchEntered s job phase graph prio r tl) (jaddr job r.cntaddr.toNat) 1 := hroom.of_eq rfl rfl rfl
  have hput := put_putWord (counterWord .running 0) hr
  refine ⟨(cmdsKept_of_eq (s := s) (t := launchEntered s job phase graph prio r tl) rfl).trans hput.toWritten.cmdsKept, congrArg Fixed.graphs hput.fixed,
    ?_, hput.word, fun a m h => hput.room (h.of_eq rfl rfl rfl)⟩
  exact (hput.toWritten.launch _).trans (State.launch_setLaunch_same ..)

theorem counterOpened_spec (hroom : ∀ a, cnt = some a → Room s (jaddr job a.toNat) 1) {b : Nat} (hb : b % 8 = 0) (hz : s.gRead b 8 = 0) :
    Written s (counterOpened s job cnt) ∧ (counterOpened s job cnt).gRead b 8 = 0 := by
  cases cnt with
  | none => exact ⟨.refl s, hz⟩
  | some a =>
    have hr := hroom a rfl
    have hput := put_putWord (counterWord .running 0) hr
    refine ⟨hput.toWritten, ?_⟩
    by_cases hab : b = jaddr job a.toNat
    · subst hab
      exact hput.word
    · exact (hput.word_other hr.frames hr.aligned hb hab).trans hz

/-- A launch that is placed runs, unbound, in its graph, with its counter at 0. -/
structure OnePlaced (s t : State) (job n phase : Nat) (cnt : Option Word) (prio : BitVec 2) (r : LaunchRec) (tl : List Nat) : Prop where
  cmds : CmdsKept s t
  launch : t.launch s.nextLaunch = some (Launch.fresh job phase s.nextGraph [] r tl prio)
  graph : t.graph s.nextGraph = some (oneGraph job n phase cnt s.nextLaunch)
  word : t.gRead (jaddr job r.cntaddr.toNat) 8 = 0

theorem onePlaced_spec (hj : s.job job = some j) (hopen : (j.phase phase).graphs = [] →
      Room s (jaddr job (j.phaseCtr + BitVec.ofNat 64 (8 * phase)).toNat) 4) (prio : BitVec 2) {r : LaunchRec} (tl : List Nat)
    (hr : Room s (jaddr job r.cntaddr.toNat) 4) (hcnt : ∀ a, cnt = some a → Room s (jaddr job a.toNat) 4) :
    OnePlaced s (onePlaced s job n phase cnt prio r tl) job n phase cnt prio r tl := by
  have he (a m : Nat) (h : Room s a m) : Room (graphEntered s job n phase cnt) a m := h.of_eq rfl rfl rfl
  obtain ⟨ho, hroomo⟩ := openPhase_spec (s := graphEntered s job n phase cnt) (phase := phase) (j := j) hj fun h => he _ _ (hopen h)
  have hnext : ((graphEntered s job n phase cnt).openPhase job phase).nextLaunch = s.nextLaunch := congrArg Fixed.nextLaunch ho.fixed
  have hgraph : ((graphEntered s job n phase cnt).openPhase job phase).graph s.nextGraph = some (oneGraph job n phase cnt s.nextLaunch) :=
    (ho.graph _).trans (State.graph_setGraph_same ..)
  obtain ⟨hc, hg, hl, hz, hroomp⟩ := launchPlaced_spec (phase := phase) (prio := prio) (r := r) (tl := tl) (graph := s.nextGraph)
    ((hroomo _ _ (he _ _ hr)).mono (by decide : 1 ≤ 3))
  rw [hnext] at hl
  obtain ⟨hw, hz'⟩ := counterOpened_spec (cnt := cnt) (fun a ha => (hroomp _ _ (hroomo _ _ (he _ _ (hcnt a ha)))).mono (by decide : 1 ≤ 2)) hr.aligned hz
  refine ⟨(((cmdsKept_of_eq (s := s) (t := graphEntered s job n phase cnt) rfl).trans ho.cmdsKept).trans hc).trans hw.cmdsKept, (hw.launch _).trans hl, ?_, hz'⟩
  exact ((hw.graph _).trans (congrArg (tget none · s.nextGraph) hg)).trans hgraph

theorem cmdsAt_workAccepted (h : CmdsAt s job n [p]) (graph : Nat) :
    CmdsAt (workAccepted s job n p graph) job n [{ p with accepted := true, graph := graph }] := by
  refine cmdsAt_modPending ?_ _
  unfold CmdsAt
  rw [queue_modJob (f := graphMembered p.cmd.phase.toNat graph) _ _ _ fun _ => rfl]
  exact h
end

section
variable {s : State} {job n : Nat} {j : Job} {q : Queue} {p : Pending} {cnt : Option Word} {r : LaunchRec} {tl : List Nat}

/-- A LAUNCH, or a GRAPH of one launch, that a job still running places. -/
theorem placeGraph_running (h : OnePlaced s (onePlaced s job n p.cmd.phase.toNat cnt q.prio r tl) job n p.cmd.phase.toNat cnt q.prio r tl)
    (hj : s.job job = some j) (hc : j.cancelled = false) (hp : CmdsAt s job n [p]) (hop : p.cmd.op ≠ 3) :
    let t := s.placeGraph job n p cnt q.prio [(r, tl, [])]
    t.launch s.nextLaunch = some (Launch.fresh job p.cmd.phase.toNat s.nextGraph [] r tl q.prio) ∧
      t.graph s.nextGraph = some (oneGraph job n p.cmd.phase.toNat cnt s.nextLaunch) ∧ t.gRead (jaddr job r.cntaddr.toNat) 8 = 0 ∧
      CmdsAt t job n [{ p with accepted := true, graph := s.nextGraph }] := by
  have ht : s.placeGraph job n p cnt q.prio [(r, tl, [])] =
      workAccepted (onePlaced s job n p.cmd.phase.toNat cnt q.prio r tl) job n p s.nextGraph := by
    rw [placeGraph_single, hj, if_neg (by simp [hc])]
  dsimp only
  rw [ht]
  exact ⟨h.launch, h.graph, h.word, cmdsAt_workAccepted (h.cmds.cmdsAt hop hp) _⟩

/-- What a cancelled job still places is cancelled at once. -/
theorem placeGraph_cancelled (h : OnePlaced s (onePlaced s job n p.cmd.phase.toNat cnt q.prio r tl) job n p.cmd.phase.toNat cnt q.prio r tl)
    (hj : s.job job = some j) (hc : j.cancelled = true) :
    (s.placeGraph job n p cnt q.prio [(r, tl, [])]).launch s.nextLaunch =
      some { Launch.fresh job p.cmd.phase.toNat s.nextGraph [] r tl q.prio with state := .cancelled } := by
  have hl : (workAccepted (onePlaced s job n p.cmd.phase.toNat cnt q.prio r tl) job n p s.nextGraph).launch s.nextLaunch =
      some (Launch.fresh job p.cmd.phase.toNat s.nextGraph [] r tl q.prio) := h.launch
  rw [placeGraph_single, hj, if_pos (by simp [hc])]
  change (State.cancelLaunch _ _).launch _ = _
  unfold State.cancelLaunch
  rw [hl]
  exact launch_endLaunch hl rfl (by decide)

/-- What O51 states of a placed launch. -/
def Placed (s t : State) (job n : Nat) (j : Job) (q : Queue) (p : Pending) (r : LaunchRec) (cnt : Option Word) : Prop :=
  if j.cancelled then ∃ l, t.launch s.nextLaunch = some l ∧ l.record = r ∧ l.state = .cancelled
  else ∃ l g, t.launch s.nextLaunch = some l ∧ l.record = r ∧ l.state = .running ∧ l.bound = false ∧ l.done = 0 ∧ l.job = job ∧
    l.phase = p.cmd.phase.toNat ∧ l.prio = q.prio ∧ l.graph = s.nextGraph ∧ t.graph s.nextGraph = some g ∧ g.launches = [s.nextLaunch] ∧
    g.cnt = cnt ∧ g.state = .running ∧ t.gRead (jaddr job r.cntaddr.toNat) 8 = 0 ∧
    CmdsAt t job n [{ p with accepted := true, graph := s.nextGraph }]

theorem placed_placeGraph {u : State} (hu : ReadOnly s u) (hj : s.job job = some j) (hp : CmdsAt s job n [p]) (hop : p.cmd.op ≠ 3)
    (hopen : (j.phase p.cmd.phase.toNat).graphs = [] → Claim.Writable s job (j.phaseCtr + BitVec.ofNat 64 (8 * p.cmd.phase.toNat)))
    (r : LaunchRec) (tl : List Nat) (hr : Claim.Writable s job r.cntaddr) (hcnt : ∀ a, cnt = some a → Claim.Writable s job a) :
    Placed s (u.placeGraph job n p cnt q.prio [(r, tl, [])]) job n j q p r cnt := by
  have hju : u.job job = some j := (hu.job job).trans hj
  have hspec := onePlaced_spec (n := n) hju (fun h => (room_of_writable (hopen h)).readOnly hu) q.prio tl ((room_of_writable hr).readOnly hu)
    fun a ha => (room_of_writable (hcnt a ha)).readOnly hu
  have hnl : u.nextLaunch = s.nextLaunch := congrArg Fixed.nextLaunch hu.fixed
  have hng : u.nextGraph = s.nextGraph := congrArg Fixed.nextGraph hu.fixed
  unfold Placed
  rw [← hnl, ← hng]
  split
  · next hc => exact ⟨_, placeGraph_cancelled hspec hju hc, rfl, rfl⟩
  · next hc =>
    obtain ⟨hl, hg, hz, hcm⟩ := placeGraph_running hspec hju (by simpa using hc) (hp.readOnly hu) hop
    exact ⟨_, _, hl, rfl, rfl, rfl, rfl, rfl, rfl, rfl, rfl, hg, rfl, rfl, rfl, hz, hcm⟩

theorem late_iff (c : Command) (j : Job) : c.late j = true ↔ c.phase.toNat < j.ended := decide_eq_true_iff

/-- O51: a LAUNCH of a phase that has ended is refused. -/
theorem launch_late (hj : s.job job = some j) (hq : j.queue n = some q) (hl : q.cmds = [p])
    (hs : s.nextServed 0 s.readies = some (q.prio.toNat, queueKey job n)) (ha : p.accepted = false) (hop : p.cmd.op = 1)
    (hlate : p.cmd.phase.toNat < j.ended) (haddr : p.cmd.addr.toNat % 256 ≠ 0) :
    ∃ t x, exec (.launch job n) s = .next t ∧ t.queue job n = some x ∧ x.stopped = true ∧ x.cmds = [] ∧ t.launches = s.launches := by
  have hr := (readOnly_servedState s job n q).trans (readOnly_recordRead (servedState s job n q) job p.cmd.addr)
  have hexec : exec (.launch job n) s = .next (((servedState s job n q).recordRead job p.cmd.addr).refuseCmd job n p.cmd) := by
    change execLaunch job n s = _
    unfold execLaunch
    rw [inTurn_served hj hq hs, unaccepted_single hl ha hop, Option.map_some]
    dsimp only
    rw [if_pos ((late_iff ..).2 hlate)]
    rfl
  obtain ⟨u, hu⟩ : ∃ u, (servedState s job n q).recordRead job p.cmd.addr = u := ⟨_, rfl⟩
  rw [hu] at hr hexec
  obtain ⟨g, pg, hn⟩ := notice_eq u job 2 0 0 (BitVec.ofNat 64 (2 ^ 32 * n + p.cmd.slot))
  have href : u.refuseCmd job n p.cmd = (({ u with gmem := g, pages := pg } : State).modQueue job n fun x =>
      { x with stopped := true, cmds := x.cmds.filter fun p => p.accepted }).modJob job fun j => j.endRead n := by
    unfold State.refuseCmd
    dsimp only
    rw [if_neg (by rw [hop]; decide), if_neg fun h => haddr h.2, hn]
  refine ⟨_, { q with stopped := true, cmds := q.cmds.filter fun p => p.accepted }, hexec.trans (congrArg _ href), ?_, rfl, ?_,
    congrArg Fixed.launches hr.fixed⟩
  · rw [queue_modJob (f := fun j => j.endRead n) _ _ _ fun _ => rfl]
    exact queue_modQueue (s := { u with gmem := g, pages := pg }) ((hr.queue job n).trans (queue_eq hj hq)) _
  · simp [hl, ha]

/-- O51: a LAUNCH is placed. -/
theorem launch_placed (hj : s.job job = some j) (hq : j.queue n = some q) (hl : q.cmds = [p])
    (hs : s.nextServed 0 s.readies = some (q.prio.toNat, queueKey job n)) (ha : p.accepted = false) (hop : p.cmd.op = 1)
    (hphase : j.ended ≤ p.cmd.phase.toNat)
    (hopen : (j.phase p.cmd.phase.toNat).graphs = [] → Claim.Writable s job (j.phaseCtr + BitVec.ofNat 64 (8 * p.cmd.phase.toNat)))
    {r : LaunchRec} {tl : List Nat} (hrec : s.readRecord job j p.cmd.addr = some (r, tl)) (hr : Claim.Writable s job r.cntaddr) :
    ∃ t, exec (.launch job n) s = .next t ∧ Placed s t job n j q p r none := by
  have hread : (servedState s job n q).readRecord job j p.cmd.addr = some (r, tl) := hrec
  refine ⟨((servedState s job n q).recordRead job p.cmd.addr).placeGraph job n p none q.prio [(r, tl, [])], ?_,
    placed_placeGraph ((readOnly_servedState s job n q).trans (readOnly_recordRead ..)) hj (cmdsAt_of hj hq hl) (by rw [hop]; decide) hopen r tl hr
      nofun⟩
  change execLaunch job n s = _
  unfold execLaunch
  rw [inTurn_served hj hq hs, unaccepted_single hl ha hop, Option.map_some]
  dsimp only
  rw [if_neg (by rw [late_iff]; omega), hread]
  rfl

/-- O51: a GRAPH of one launch is placed. -/
theorem graph_placed (hj : s.job job = some j) (hq : j.queue n = some q) (hl : q.cmds = [p])
    (hs : s.nextServed 0 s.readies = some (q.prio.toNat, queueKey job n)) (ha : p.accepted = false) (hop : p.cmd.op = 2)
    (hphase : j.ended ≤ p.cmd.phase.toNat)
    (hopen : (j.phase p.cmd.phase.toNat).graphs = [] → Claim.Writable s job (j.phaseCtr + BitVec.ofNat 64 (8 * p.cmd.phase.toNat)))
    {r : LaunchRec} {tl : List Nat} (hrec : s.readGraph job j p.cmd.addr.toNat = some [(r, tl, [])]) (hr : Claim.Writable s job r.cntaddr)
    (hcnt : Claim.Writable s job p.cmd.cnt) :
    ∃ t, exec (.graph job n) s = .next t ∧ Placed s t job n j q p r (some p.cmd.cnt) := by
  have hread : (servedState s job n q).readGraph job j p.cmd.addr.toNat = some [(r, tl, [])] := hrec
  refine ⟨((servedState s job n q).graphRead job p.cmd.addr.toNat).placeGraph job n p (some p.cmd.cnt) q.prio [(r, tl, [])], ?_,
    placed_placeGraph ((readOnly_servedState s job n q).trans (readOnly_graphRead ..)) hj (cmdsAt_of hj hq hl) (by rw [hop]; decide) hopen r tl hr
      fun a h => Option.some.inj h ▸ hcnt⟩
  change execGraph job n s = _
  unfold execGraph
  rw [inTurn_served hj hq hs, unaccepted_single hl ha hop, Option.map_some]
  dsimp only
  rw [if_neg (by rw [late_iff]; omega), hread]
  rfl

theorem sealreq_read (hj : s.job job = some j) (hq : j.queue n = some q)
    (hs : s.nextServed 0 s.readies = some (q.prio.toNat, queueKey job n)) (hr : q.readable j = true) (hseal : s.seals.committing = false)
    (hb : (nextCommand s job q).bad j = false) (hop : (nextCommand s job q).op = 6) (hl : q.cmds = []) (hrep : s.replicaPhase = false) :
    ∃ t x, exec (.commandRead job n) s = .next t ∧ t.queue job n = some x ∧ x.consumed = q.consumed + 1 ∧ x.cmds = [] ∧
      t.seals.requested = true := by
  have hro := (readOnly_servedState s job n q).trans (readOnly_readBackD (servedState s job n q) job (q.base.toNat + 64 * slotOf q) 64)
  have hrep' : (commandQueued (slotTaken s job n q) job n (nextCommand s job q)).replicaPhase = false := by
    refine replicaPhase_modQueue (replicaPhase_modJob (replicaPhase_modQueue (hro.replicaPhase.trans hrep) ..) _ ?_ ?_) ..
    · exact fun _ => rfl
    · exact fun _ => rfl
  obtain ⟨t, ht, hx, hreq⟩ := sealreq_acts (p := Pending.fresh (nextCommand s job q)) (queue_commandQueued hj hq (nextCommand s job q))
    (by rw [hl]; rfl) (by simp [Pending.fresh, hop]) hop hrep'
  have hact : (commandQueued (slotTaken s job n q) job n (nextCommand s job q)).actOn job n (nextCommand s job q) = .next t := by
    rw [State.actOn, if_pos hop, ht]
  refine ⟨t, _, ?_, hx, rfl, rfl, hreq⟩
  rw [exec_commandRead hj hq hs hr hseal, if_neg (by simp [hb]), hact]
  rfl

/-- O51: a CANCEL acts as soon as it is read. -/
theorem cancel_read {l : Nat} {x : Launch} {g : Graph} {a : Word} (hj : s.job job = some j) (hq : j.queue n = some q)
    (hs : s.nextServed 0 s.readies = some (q.prio.toNat, queueKey job n)) (hr : q.readable j = true) (hseal : s.seals.committing = false)
    (hb : (nextCommand s job q).bad j = false) (hop : (nextCommand s job q).op = 5) (hl : q.cmds = []) (hla : s.launches = [(l, some x)])
    (hxj : x.job = job) (hrun : x.state = .running) (hbound : x.bound = false) (hg : s.graph x.graph = some g) (hcnt : g.cnt = some a)
    (hn : Names (nextCommand s job q) x a) :
    ∃ t x', exec (.commandRead job n) s = .next t ∧ CmdsAt t job n [] ∧ t.launch l = some x' ∧ x'.state = .cancelled ∧
      ((nextCommand s job q).mode = 3 → ∃ y, t.job job = some y ∧ y.cancelled = true) := by
  have hro := (readOnly_servedState s job n q).trans (readOnly_readBackD (servedState s job n q) job (q.base.toNat + 64 * slotOf q) 64)
  have hc : CmdsAt (commandQueued (slotTaken s job n q) job n (nextCommand s job q)) job n [Pending.fresh (nextCommand s job q)] :=
    ⟨_, queue_commandQueued hj hq _, by rw [hl]; rfl⟩
  have hla' : (commandQueued (slotTaken s job n q) job n (nextCommand s job q)).launches = [(l, some x)] :=
    (congrArg Fixed.launches hro.fixed).trans hla
  have hg' : (commandQueued (slotTaken s job n q) job n (nextCommand s job q)).graph x.graph = some g :=
    (congrArg (fun f : Fixed => tget none f.graphs x.graph) hro.fixed).trans hg
  obtain ⟨t, x', ht, hcm, hx', hst, hflag⟩ := cancel_acts (p := Pending.fresh (nextCommand s job q)) hla' hxj hrun hbound hg' hcnt hc
    (by simp [Pending.fresh, hop]) hop hn
  have hact : (commandQueued (slotTaken s job n q) job n (nextCommand s job q)).actOn job n (nextCommand s job q) = .next t := ht
  refine ⟨t, x', ?_, hcm, hx', hst, hflag⟩
  rw [exec_commandRead hj hq hs hr hseal, if_neg (by simp [hb]), hact]
  rfl
end

/-- Settles O51: the order of service, the reading of a slot, the placing of a LAUNCH or GRAPH, the tests of a WAITVAL, the WRITEVAL, FENCE
and SEALREQ, and the CANCEL both as its event and as it is read. -/
theorem queueCommandEvents : Obligations.QueueCommandEvents := by
  unfold Obligations.QueueCommandEvents
  intro s job n j q hj hq
  have hqueue := queue_eq hj hq
  dsimp only
  refine ⟨fun level key h => nextServed_least h, exec_out_of_turn hj hq, ?_, ?_, ?_, ?_⟩
  · rintro ⟨hstop, hbell, hc, hall, hseal⟩
    exact mem_readies hj hq (by simp [State.readyIn, readable_of hstop hbell hc hall, hseal])
  · rintro ⟨hstop, hbell, hc, hall, hseal⟩ hs
    have hr := readable_of hstop hbell hc hall
    refine ⟨⟨op_ofBytes .., addr_ofBytes .., value_ofBytes ..⟩, fun hb h5 h6 => ?_, fun hb hop hl hrep => sealreq_read hj hq hs hr hseal hb hop hl hrep,
      fun hb h1 h2 => command_refused hj hq hs hr hseal hall hb h1 h2⟩
    exact ⟨_, _, Pending.fresh (nextCommand s job q), command_read hj hq hs hr hseal hb h5 h6, queue_commandQueued hj hq _, rfl, rfl, rfl, rfl, rfl,
      rfl, rfl⟩
  · intro p hl hd
    refine ⟨fun hs ha hop => ⟨fun hlate haddr => launch_late hj hq hl hs ha hop hlate haddr,
      fun hphase hopen r tl hrec hr => launch_placed hj hq hl hs ha hop hphase hopen hrec hr⟩,
      fun hs ha hop hphase hopen r tl hrec hr hcnt => graph_placed hj hq hl hs ha hop hphase hopen hrec hr hcnt,
      fun ha hop i hi hs hst => ?_, fun hs ha hst hop hw => writeval_written hj hq hl hd hs ha hst hop hw,
      fun hs hop => fence_completes hj hq hl hd hs hop, fun ha hop hrep => ?_⟩
    · obtain ⟨t, ht, hsame, hmet, hnot⟩ := waitval_tested hj hq hl hd ha hop hi hs hst
      rw [Bool.or_eq_true, holds_iff] at hmet hnot
      exact ⟨fun h => ⟨t, ht, hmet h, hsame⟩, fun h => ⟨t, ht, hnot h, hsame⟩⟩
    · obtain ⟨t, ht, hx, hreq⟩ := sealreq_acts hqueue hl ha hop hrep
      exact ⟨t, ht, ⟨_, hx, rfl⟩, hreq⟩
  · intro l x g a hla hxj hrun hbound hg _ hcnt _
    refine ⟨fun p hl ha hop hn => ?_, ?_⟩
    · rw [exec_cancel hop]
      exact cancel_acts hla hxj hrun hbound hg hcnt (cmdsAt_of hj hq hl) ha hop hn
    · rintro ⟨hstop, hbell, hc, hall, hseal⟩ hs hl hb hop hn
      exact cancel_read hj hq hs (readable_of hstop hbell hc hall) hseal hb hop hl hla hxj hrun hbound hg hcnt hn

end Sys2Proof.WorkHierarchy

namespace Sys2Proof.WorkHierarchy
open Sys2Proof Sys2Proof.Machine Sys2Proof.Safety Sys2Proof.ModuleParts

/-! ### O52: launches, phases and jobs (R70 to R77, R281) -/

/-! #### The binding of a launch (R32, R71, R288) -/

theorem order_order (q : Cluster) (n : Nat) : (q.order n).order n = q.order n := rfl

theorem ordered_order (q : Cluster) (n : Nat) : (q.order n).ordered = n := by
  unfold Cluster.ordered Cluster.order
  dsimp only
  split
  · next h => exact h.1
  · rfl

section
variable {s : State} {l : Nat} {q : Launch} {c : CtxId}

/-- O52: the clusters of a deterministic job come to the lowest step of theirs first. -/
theorem launch_evens {j : Job} (hq : s.launch l = some q) (hr : s.launchReady q = true) (hs : s.seals.committing = false)
    (ht : s.startTurn q = true) (hj : s.job q.job = some j) (hu : s.uneven j = true) :
    ∃ t, exec (.launchStart l) s = .next t ∧ t.launch l = some q ∧ ∀ d ∈ j.rect, (t.cluster d).ordered = s.lowestStep j := by
  refine ⟨s.evenSteps j, ?_, ?_, fun d hd => ?_⟩
  · change execLaunchStart l s = _
    unfold execLaunchStart
    rw [hq]
    dsimp only
    rw [if_neg (by simp [hs, hr, ht]), hj, Option.filter_some, if_pos hu]
  · unfold State.evenSteps
    dsimp only
    rw [foldl_modCluster]
    exact hq
  · unfold State.evenSteps
    dsimp only
    rw [cluster_foldl_modCluster (f := fun q => q.order (s.lowestStep j)) (fun q => order_order q _), if_pos hd]
    exact ordered_order ..

theorem local_foldl_remask (l : List CoreId) (s : State) : Local s (l.foldl (fun t core => t.remask core) s) :=
  foldl_rel Local.refl Local.trans (fun t core => local_remask t core) l s

/-- New masks on several cores change the slots of a context only. -/
theorem ctx_foldl_remask (l : List CoreId) (s : State) (c : CtxId) :
    ∃ m, (l.foldl (fun t core => t.remask core) s).ctx c = { s.ctx c with row := { (s.ctx c).row with slots := m } } := by
  refine foldl_rel (R := fun s t => ∃ m, t.ctx c = { s.ctx c with row := { (s.ctx c).row with slots := m } }) (fun t => ⟨_, rfl⟩)
    (fun {_ _ _} h h' => ?_) (fun t core => ctx_remask t core c) l s
  obtain ⟨_, h⟩ := h
  obtain ⟨m, h'⟩ := h'
  exact ⟨m, by rw [h', h]⟩

/-- The contexts of a launch that may begin are not killed. -/
theorem not_killed_of_launchReady (hr : s.launchReady q = true) (hc : c ∈ q.record.ctxIds) : (s.ctx c).run ≠ .killed := by
  rw [State.launchReady, Bool.and_eq_true, Bool.and_eq_true] at hr
  obtain ⟨⟨-, hfree⟩, -⟩ := hr
  rw [State.coresFree, Bool.and_eq_true] at hfree
  have hall := List.all_eq_true.1 hfree.1 c hc
  rw [Bool.and_eq_true, bne_iff_ne] at hall
  exact hall.2

/-- A context that has been bound to a tile of a launch; its slots come with the masks. -/
def tileBound (x : Ctx) (l : Nat) (q : Launch) (t : Nat) : Ctx :=
  { x.unbind with
    row := { v := true, prio := q.prio, lap := q.record.lap, pre := false, slots := 0,
             task := BitVec.ofNat 32 ((q.nextTask t).getD 0), job := BitVec.ofNat 16 q.job, launch := BitVec.ofNat 32 l }
    lap := q.record.lap, tile := t, round := 0, quota := q.record.quota, resv := none, dbgHalt := false, stepping := false, mask := 0 }

/-- A launch of one context is bound. -/
def oneBound (s : State) (l : Nat) (q : Launch) (c : CtxId) : State :=
  q.record.coreIds.foldl (fun t core => t.remask core)
    ((((s.loseResv c).bindTile l q c 0)).setLaunch l (some { q with bound := true }))

theorem ctx_oneBound (s : State) (l : Nat) (q : Launch) (c : CtxId) : ∃ m, (oneBound s l q c).ctx c =
    { tileBound ((s.loseResv c).ctx c) l q 0 with row := { (tileBound ((s.loseResv c).ctx c) l q 0).row with slots := m } } := by
  obtain ⟨m, hm⟩ := ctx_foldl_remask q.record.coreIds (((s.loseResv c).bindTile l q c 0).setLaunch l (some { q with bound := true })) c
  have hbind : (((s.loseResv c).bindTile l q c 0).setLaunch l (some { q with bound := true })).ctx c = tileBound ((s.loseResv c).ctx c) l q 0 :=
    State.ctx_modCtx_same (s.loseResv c) c fun x => tileBound x l q 0
  rw [hbind] at hm
  exact ⟨m, hm⟩

theorem serve_of_graph (t : State) (q : Launch) (o : Option Graph) : ∃ v, (match o with
    | none => t
    | some g => t.serve 1 q.prio.toNat (queueKey q.job g.queue)) = { t with served := v } := by
  cases o with
  | none => exact ⟨t.served, rfl⟩
  | some g => exact ⟨_, rfl⟩

theorem exec_launchStart_one {task : Nat} (hq : s.launch l = some q) (hr : s.launchReady q = true) (hs : s.seals.committing = false)
    (ht : s.startTurn q = true) (hu : ∀ j, s.job q.job = some j → s.uneven j = false) (hc : q.record.ctxIds = [c])
    (hn : q.nextTask 0 = some task) : exec (.launchStart l) s = .next (match s.graph q.graph with
      | none => oneBound s l q c
      | some g => (oneBound s l q c).serve 1 q.prio.toNat (queueKey q.job g.queue)) := by
  have hfilter : (s.job q.job).filter s.uneven = none := by
    rw [Option.filter_eq_none_iff]
    intro j hj
    rw [hu j hj]
    decide
  change execLaunchStart l s = _
  unfold execLaunchStart
  rw [hq]
  dsimp only
  rw [if_neg (by simp [hs, hr, ht]), hfilter, hc]
  dsimp only
  have hidle : (span 0 [c].length).filter (fun t => (q.nextTask t).isNone) = [] := by simp [span, hn]
  rw [hidle]
  rfl

/-- O52: a launch of one context is bound. -/
theorem launch_binds {task : Nat} (hq : s.launch l = some q) (hr : s.launchReady q = true) (hs : s.seals.committing = false)
    (ht : s.startTurn q = true) (hu : ∀ j, s.job q.job = some j → s.uneven j = false) (hc : q.record.ctxIds = [c])
    (hn : q.nextTask 0 = some task) : ∃ t, exec (.launchStart l) s = .next t ∧
      t.launch l = some { q with bound := true } ∧ (t.ctx c).row.v = true ∧ (t.ctx c).row.job.toNat = q.job % 2 ^ 16 ∧
      (t.ctx c).row.launch.toNat = l % 2 ^ 32 ∧ (t.ctx c).row.task.toNat = task % 2 ^ 32 ∧ (t.ctx c).row.prio = q.prio ∧
      (t.ctx c).tile = 0 ∧ (t.ctx c).run = .idle := by
  have hrun : ((s.loseResv c).ctx c).run ≠ .killed := by
    rw [ctx_loseResv]
    exact not_killed_of_launchReady hr (by rw [hc]; exact List.mem_singleton_self c)
  have hlaunch : (oneBound s l q c).launch l = some { q with bound := true } := by
    rw [State.launch, oneBound, (local_foldl_remask _ _).launches]
    exact State.launch_setLaunch_same ..
  obtain ⟨m, hm⟩ := ctx_oneBound s l q c
  obtain ⟨v, hv⟩ := serve_of_graph (oneBound s l q c) q (s.graph q.graph)
  have hctx : ({ oneBound s l q c with served := v } : State).ctx c = { tileBound ((s.loseResv c).ctx c) l q 0 with
      row := { (tileBound ((s.loseResv c).ctx c) l q 0).row with slots := m } } := hm
  refine ⟨_, (exec_launchStart_one hq hr hs ht hu hc hn).trans (congrArg _ hv), hlaunch, ?_⟩
  rw [hctx]
  refine ⟨rfl, BitVec.toNat_ofNat .., BitVec.toNat_ofNat .., ?_, rfl, rfl, if_neg hrun⟩
  change (BitVec.ofNat 32 ((q.nextTask 0).getD 0)).toNat = _
  rw [hn]
  exact BitVec.toNat_ofNat ..

/-! #### The start of a unit (R71, R177) -/

/-- O52: a unit starts. -/
theorem unit_starts {task : Nat} {j : Job} (hq : s.launch l = some q) (hl : l = (s.ctx c).row.launch.toNat) (hv : (s.ctx c).row.v = true)
    (hidle : (s.ctx c).run = .idle) (hdbg : (s.ctx c).dbgHalt = false) (hrun : q.state = .running) (hb : q.bound = true)
    (hp : coreOf c ∈ q.prepared) (hseal : (s.die (dieOf c)).prepared = true → (s.die (dieOf c)).committed = true)
    (hk : s.phaseKnown (dieOf c) q.job q.phase = true) (hn : q.nextTask (s.ctx c).tile = some task) (hj : s.job q.job = some j) :
    ∃ t, exec (.unitStart c) s = .next t ∧
      (∀ g : GReg, (t.ctx c).readG g = if g.val = 1 then BitVec.ofNat 64 task else if g.val = 2 then BitVec.ofNat 64 c
        else if g.val = 3 then q.record.arg else if 4 ≤ g.val ∧ g.val ≤ 11 then q.record.initg.getD (g.val - 4) 0 else 0) ∧
      (t.ctx c).pc = q.record.entry ∧ (t.ctx c).run = .active ∧ (t.ctx c).hl = false ∧ (t.ctx c).cstat = 0 ∧ (t.ctx c).cfemask = 0 ∧
      (t.ctx c).cwlim = q.record.wlim ∧ (t.ctx c).cquota = q.record.quota ∧ (t.ctx c).cvec = j.handler.extractLsb' 2 62 ∧
      (q.begunOn (coreOf c) = false → (t.core (coreOf c)).stage = 0) ∧
      (t.ctx c).sendSeq = 0 ∧ (t.ctx c).loopCount = 0 ∧ (t.ctx c).resv = none ∧ Claim.SameBytes s t := by
  have hseal' : ((s.die (dieOf c)).prepared && !(s.die (dieOf c)).committed) = false := by
    cases hd : (s.die (dieOf c)).prepared with
    | false => rfl
    | true => simp [hseal hd]
  have hm : s.mayStart l q c = true := by
    unfold State.mayStart
    dsimp only
    rw [hv, ← hl, hidle, hrun, hb, hseal', hk, hdbg, List.contains_iff_mem.2 hp]
    simp
  have hs := started_startTask hq hm hn
  obtain ⟨handler, hh, hctx⟩ := hs.ctx
  have hexec : exec (.unitStart c) s = .next (s.startTask l c) := by
    change execUnitStart c s = _
    unfold execUnitStart
    dsimp only
    rw [← hl, hq]
    dsimp only
    rw [if_neg (by simp [hm]), if_neg (by simp [hn])]
  refine ⟨_, hexec, fun g => ?_, ?_⟩
  · rw [hctx]
    exact (readG_of_g rfl g).trans (readG_startUnit (s.ctx c) c q.record handler task g)
  · rw [hctx, ← hh j hj]
    exact ⟨rfl, rfl, rfl, rfl, rfl, rfl, rfl, rfl, hs.stage, rfl, rfl, rfl, hs.same⟩
end

end Sys2Proof.WorkHierarchy

namespace Sys2Proof.WorkHierarchy
open Sys2Proof Sys2Proof.Machine Sys2Proof.Safety Sys2Proof.ModuleParts

/-! #### The end of a phase (R66, R73, R75 to R77) -/

theorem phase_setPhase (j : Job) (p : Nat) (x : Phase) : (j.setPhase p x).phase p = x := tget_tset_same Phase.fresh j.phases p x

/-- Every graph of a phase is complete. -/
def wholePhase (s : State) (p : Phase) : Bool := p.graphs.all fun g => match s.graph g with
  | none => true
  | some x => x.state == CState.complete

/-- The state in which a phase ends. -/
def phaseState (s : State) (p : Phase) : CState := if wholePhase s p then .complete else .cancelled

/-- A job one of whose phases has ended in a state. -/
def phaseOver (j : Job) (phase : Nat) (st : CState) : Job :=
  { j.setPhase phase { j.phase phase with state := st, baton := none } with ended := phase + 1, sealWait := j.rep }

/-- The counters of a phase that has ended and of its job are written. -/
def phaseCounted (s : State) (job phase : Nat) (j : Job) (st : CState) : State :=
  ((s.setJob job (some (phaseOver j phase st))).putWord job (j.phaseCtr + BitVec.ofNat 64 (8 * phase))
    (counterWord st (j.phase phase).done)).putWord job j.jobCtr (counterWord .running (phaseOver j phase st).phasesDone)

theorem foldl_modCore (l : List CoreId) (f : Core → Core) (s : State) : ∃ co, l.foldl (fun t c => t.modCore c f) s = { s with cores := co } := by
  induction l generalizing s with
  | nil => exact ⟨s.cores, rfl⟩
  | cons c r ih =>
    obtain ⟨co, h⟩ := ih (s.modCore c f)
    exact ⟨co, by rw [List.foldl_cons, h]; rfl⟩

theorem endPhase_eq {s : State} {job : Nat} {j : Job} (hj : s.job job = some j) (phase : Nat) (cores : List CoreId) :
    ∃ cl co di, s.endPhase job phase cores =
      { phaseCounted s job phase j (phaseState s (j.phase phase)) with clusters := cl, cores := co, dies := di } := by
  obtain ⟨co, hco⟩ := foldl_modCore cores (fun k => { k with msgCount := 0 })
    (j.rect.foldl (fun u c => u.modCluster c fun q => { q with swapDue := q.swapDue || q.shadow != q.slots })
      (phaseCounted s job phase j (phaseState s (j.phase phase))))
  have h : s.endPhase job phase cores = (cores.foldl (fun u c => u.modCore c fun k => { k with msgCount := 0 })
    (j.rect.foldl (fun u c => u.modCluster c fun q => { q with swapDue := q.swapDue || q.shadow != q.slots })
      (phaseCounted s job phase j (phaseState s (j.phase phase))))).modDie (dieOf (cores.headD (mkId j.cx0 j.cy0 0 0))) fun d =>
        { d with knownEnds := d.knownEnds ++ [(job, phase)] } := by
    unfold State.endPhase
    rw [hj]
    rfl
  rw [h, hco, foldl_modCluster]
  exact ⟨_, co, _, rfl⟩

section
variable {s : State} {job phase : Nat} {j : Job}

theorem job_phaseCounted (s : State) (job phase : Nat) (j : Job) (st : CState) :
    ∃ f, (phaseCounted s job phase j st).job job = some ((phaseOver j phase st).mapCmds f) := by
  obtain ⟨f, -, hf⟩ := ((written_putWord (s.setJob job (some (phaseOver j phase st))) ..).trans (written_putWord ..)).job job
  exact ⟨f, hf.trans (by rw [State.job_setJob_same]; rfl)⟩

/-- The two counters, where both can be written. -/
theorem words_phaseCounted (st : CState) (hp : Claim.Writable s job (j.phaseCtr + BitVec.ofNat 64 (8 * phase)))
    (hc : Claim.Writable s job j.jobCtr) (hne : jaddr job (j.phaseCtr + BitVec.ofNat 64 (8 * phase)).toNat ≠ jaddr job j.jobCtr.toNat) :
    (phaseCounted s job phase j st).gRead (jaddr job j.jobCtr.toNat) 8 = counterWord .running (phaseOver j phase st).phasesDone ∧
    (phaseCounted s job phase j st).gRead (jaddr job (j.phaseCtr + BitVec.ofNat 64 (8 * phase)).toNat) 8 =
      counterWord st (j.phase phase).done := by
  have hr1 : Room (s.setJob job (some (phaseOver j phase st))) (jaddr job (j.phaseCtr + BitVec.ofNat 64 (8 * phase)).toNat) 4 :=
    (room_of_writable hp).of_eq rfl rfl rfl
  have hr2 : Room (s.setJob job (some (phaseOver j phase st))) (jaddr job j.jobCtr.toNat) 4 := (room_of_writable hc).of_eq rfl rfl rfl
  have hput1 := put_putWord (counterWord st (j.phase phase).done) hr1
  have hr3 := hput1.room hr2
  have hput2 := put_putWord (counterWord .running (phaseOver j phase st).phasesDone) hr3
  refine ⟨hput2.word.trans (Nat.mod_eq_of_lt (counterWord_lt _ _)), ?_⟩
  refine (hput2.word_other hr3.frames hr3.aligned hr1.aligned hne).trans ?_
  exact hput1.word.trans (Nat.mod_eq_of_lt (counterWord_lt _ _))

/-- The phase has ended: what O52 states of it. -/
def PhaseEnds (s t : State) (job phase : Nat) (j : Job) : Prop :=
  ∃ y, t.job job = some y ∧ y.ended = phase + 1 ∧ (y.phase phase).baton = none ∧
    t.gRead (jaddr job j.jobCtr.toNat) 8 = counterWord .running y.phasesDone ∧
    ((∀ g ∈ (j.phase phase).graphs, ∀ x, s.graph g = some x → x.state = .complete) → (y.phase phase).state = .complete ∧
      t.gRead (jaddr job (j.phaseCtr + BitVec.ofNat 64 (8 * phase)).toNat) 8 = counterWord .complete (j.phase phase).done)

theorem phaseEnds_endPhase (hj : s.job job = some j) (cores : List CoreId) (hp : Claim.Writable s job (j.phaseCtr + BitVec.ofNat 64 (8 * phase)))
    (hc : Claim.Writable s job j.jobCtr) (hne : jaddr job (j.phaseCtr + BitVec.ofNat 64 (8 * phase)).toNat ≠ jaddr job j.jobCtr.toNat) :
    PhaseEnds s (s.endPhase job phase cores) job phase j := by
  obtain ⟨cl, co, di, ht⟩ := endPhase_eq hj phase cores
  obtain ⟨f, hf⟩ := job_phaseCounted s job phase j (phaseState s (j.phase phase))
  obtain ⟨hw1, hw2⟩ := words_phaseCounted (phaseState s (j.phase phase)) hp hc hne
  have hphase : ((phaseOver j phase (phaseState s (j.phase phase))).mapCmds f).phase phase =
      { j.phase phase with state := phaseState s (j.phase phase), baton := none } := phase_setPhase ..
  unfold PhaseEnds
  rw [ht]
  refine ⟨_, hf, rfl, by rw [hphase], hw1, fun hall => ?_⟩
  have hst : phaseState s (j.phase phase) = .complete := by
    refine if_pos (List.all_eq_true.2 fun g hg => ?_)
    split
    · rfl
    · next x hx => rw [hall g hg x hx]; decide
  rw [hphase]
  refine ⟨hst, hw2.trans ?_⟩
  rw [hst]

/-- A baton that starts a circuit. -/
def Circuit (t : State) (job phase : Nat) (cores : List CoreId) (first : CoreId) : Prop :=
  ∃ y, t.job job = some y ∧ (y.phase phase).baton = some { sum := 0, black := false, todo := cores, first := first }

theorem circuit_setPhase (s : State) (job phase : Nat) (j : Job) (p : Phase) (cores : List CoreId) (first : CoreId)
    (hp : p.baton = some { sum := 0, black := false, todo := cores, first := first }) :
    Circuit (s.setJob job (some (j.setPhase phase p))) job phase cores first :=
  ⟨_, State.job_setJob_same .., by rw [phase_setPhase, hp]⟩

/-- O52: a phase without further work gets its baton, or ends for want of a core. -/
theorem baton_starts (hj : s.job job = some j) (hp : phase = j.ended) (hb : (j.phase phase).baton = none)
    (hc : j.endTaken = true ∨ j.cancelled = true → phase < j.highRead) (hw : s.noFurtherWork j phase = true) :
    exec (.batonStart job phase) s = .next (match s.phaseCores job phase with
      | [] => s.endPhase job phase []
      | d :: rest => s.setJob job (some (j.setPhase phase { j.phase phase with
          baton := some { sum := 0, black := false, todo := d :: rest, first := d } }))) := by
  have hlate : ((j.endTaken || j.cancelled) && decide (j.highRead ≤ phase)) = false := by
    rw [Bool.and_eq_false_imp, Bool.or_eq_true]
    intro h
    simpa using hc h
  change execBatonStart job phase s = _
  unfold execBatonStart
  rw [hj]
  dsimp only
  rw [if_neg (by simp [hp ▸ hb, hp ▸ hlate, hp ▸ hw, hp])]
  cases s.phaseCores job phase <;> rfl

/-- O52: the baton visits a core. -/
theorem baton_visits {b : Baton} {d : CoreId} {rest : List CoreId} (hj : s.job job = some j) (hb : (j.phase phase).baton = some b)
    (htodo : b.todo = d :: rest) : ∃ t y, exec (.batonVisit job phase) s = .next t ∧ t.job job = some y ∧
      (y.phase phase).baton = some { b with sum := b.sum + (s.core d).msgCount, black := b.black || (s.core d).black, todo := rest } ∧
      (t.core d).black = false := by
  let b1 : Baton := { b with sum := b.sum + (s.core d).msgCount, black := b.black || (s.core d).black, todo := rest }
  let y := j.setPhase phase { j.phase phase with baton := some b1 }
  refine ⟨(s.setJob job (some y)).modCore d fun k => { k with black := false }, y, ?_, State.job_setJob_same s job (some y), ?_,
    congrArg Core.black (State.core_modCore_same ..)⟩
  · change execBatonVisit job phase s = _
    unfold execBatonVisit
    rw [hj]
    dsimp only
    rw [hb]
    dsimp only
    rw [htodo]
  · rw [phase_setPhase]

/-- The baton is back at the first core. -/
theorem exec_batonReturn {b : Baton} (hj : s.job job = some j) (hb : (j.phase phase).baton = some b) (htodo : b.todo = []) :
    exec (.batonReturn job phase) s = if j.reading.any fun c => c.phase.toNat == phase then .next s
      else if !b.black && b.sum == 0 && !(s.core b.first).black then .next (s.endPhase job phase (s.phaseCores job phase))
      else .next (s.setJob job (some (j.setPhase phase { j.phase phase with
        baton := some { sum := 0, black := false, todo := s.phaseCores job phase, first := b.first } }))) := by
  change execBatonReturn job phase s = _
  unfold execBatonReturn
  rw [hj]
  dsimp only
  rw [hb]
  dsimp only
  rw [htodo]

theorem awaits_iff : (j.reading.any fun c => c.phase.toNat == phase) = true ↔ ∃ c ∈ j.reading, c.phase.toNat = phase := by
  simp only [List.any_eq_true, beq_iff_eq]

/-- O52: what the return of the baton does. -/
theorem baton_returns {b : Baton} (hj : s.job job = some j) (hb : (j.phase phase).baton = some b) (htodo : b.todo = [])
    (ha : ¬∃ c ∈ j.reading, c.phase.toNat = phase) :
    (b.black = false → b.sum = 0 → (s.core b.first).black = false →
      exec (.batonReturn job phase) s = .next (s.endPhase job phase (s.phaseCores job phase))) ∧
    (b.black = true ∨ b.sum ≠ 0 ∨ (s.core b.first).black = true →
      ∃ t, exec (.batonReturn job phase) s = .next t ∧ Circuit t job phase (s.phaseCores job phase) b.first) := by
  rw [exec_batonReturn hj hb htodo, if_neg (by rwa [awaits_iff])]
  refine ⟨fun h1 h2 h3 => if_pos (by simp [h1, h2, h3]), fun h => ⟨_, if_neg fun hall => ?_, circuit_setPhase s job phase j _ _ _ rfl⟩⟩
  simp only [Bool.and_eq_true, Bool.not_eq_true', beq_iff_eq] at hall
  obtain ⟨⟨h1, h2⟩, h3⟩ := hall
  rcases h with h | h | h
  · rw [h1] at h; cases h
  · exact h h2
  · rw [h3] at h; cases h

/-- O52: a LAUNCH or GRAPH that has been read holds the end of its phase up. -/
theorem baton_awaits {b : Baton} (hj : s.job job = some j) (hb : (j.phase phase).baton = some b)
    (ha : ∃ c ∈ j.reading, c.phase.toNat = phase) : exec (.batonReturn job phase) s = .next s := by
  cases htodo : b.todo with
  | nil => rw [exec_batonReturn hj hb htodo, if_pos (awaits_iff.2 ha)]
  | cons d r =>
    change execBatonReturn job phase s = _
    unfold execBatonReturn
    rw [hj]
    dsimp only
    rw [hb]
    dsimp only
    rw [htodo]

/-- O52: a die learns of an ended phase. -/
theorem phase_end_known (hj : s.job job = some j) (die : Fin 36) (hp : phase < j.ended) :
    ∃ t, exec (.phaseEndNotice job phase die) s = .next t ∧ (job, phase) ∈ (t.die die.val).knownEnds := by
  have hexec : exec (.phaseEndNotice job phase die) s = .next (s.modDie die.val fun d =>
      if d.knownEnds.contains (job, phase) then d else { d with knownEnds := d.knownEnds ++ [(job, phase)] }) := by
    change execPhaseEndNotice job phase die s = _
    unfold execPhaseEndNotice
    rw [hj]
    exact if_pos hp
  refine ⟨_, hexec, ?_⟩
  rw [State.die_modDie_same]
  split
  · next h => exact List.contains_iff_mem.1 h
  · exact List.mem_append_right _ (List.mem_singleton_self _)

/-! #### The end of a job (R281) -/

/-- O52: JOBEND takes effect. -/
theorem jobend_taken (hj : s.job job = some j) (he : j.endPosted = some []) :
    exec (.jobendEffect job) s = .next (s.setJob job (some { j with endTaken := true })) := by
  have hexec : execJobendEffect job s = .next (s.modJob job fun j => { j with endTaken := true }) := by
    unfold execJobendEffect
    rw [hj]
    dsimp only
    rw [he]
  refine Eq.trans hexec (congrArg Host.Outcome.next ?_)
  rw [State.modJob, hj]
  rfl

/-- The tables of memory are as before, and so are the jobs. -/
structure MemJobs (s t : State) : Prop where
  gmem : t.gmem = s.gmem
  pages : t.pages = s.pages
  jobs : t.jobs = s.jobs

theorem MemJobs.refl (s : State) : MemJobs s s := ⟨rfl, rfl, rfl⟩

theorem MemJobs.trans {s t u : State} (h : MemJobs s t) (h' : MemJobs t u) : MemJobs s u :=
  ⟨h'.gmem.trans h.gmem, h'.pages.trans h.pages, h'.jobs.trans h.jobs⟩

theorem Local.memJobs {s t : State} (h : Local s t) : MemJobs s t := by
  obtain ⟨_, _, rfl⟩ := h
  exact ⟨rfl, rfl, rfl⟩

theorem memJobs_freeSquads (s : State) (job : Nat) (tag : BitVec 32) : MemJobs s (s.freeSquads job tag) := by
  unfold State.freeSquads
  refine foldl_rel MemJobs.refl MemJobs.trans (fun t e => ?_) _ s
  split
  · exact .refl t
  · split
    · exact ⟨rfl, rfl, rfl⟩
    · exact .refl t

theorem memJobs_foldl_setCore (l : List (CoreId × Core)) (s : State) : MemJobs s (l.foldl (fun u e => u.setCore e.1 e.2.gated) s) :=
  foldl_rel (f := fun u (e : CoreId × Core) => u.setCore e.1 e.2.gated) MemJobs.refl MemJobs.trans (fun _ _ => ⟨rfl, rfl, rfl⟩) l s

theorem memJobs_foldl_setDie (f : Die → Die) (l : List (Nat × Die)) (s : State) : MemJobs s (l.foldl (fun u e => u.setDie e.1 (f e.2)) s) :=
  foldl_rel (f := fun u (e : Nat × Die) => u.setDie e.1 (f e.2)) MemJobs.refl MemJobs.trans (fun _ _ => ⟨rfl, rfl, rfl⟩) l s

theorem memJobs_gate (s : State) : MemJobs s s.gate := by
  unfold State.gate
  dsimp only
  split
  · exact (memJobs_foldl_setCore _ s).trans ⟨rfl, rfl, rfl⟩
  · exact memJobs_foldl_setCore _ s

/-- The state in which the counter of a job that ends has been written. -/
def jobCounted (s : State) (job : Nat) (j : Job) (st : CState) : State :=
  (if st = .cancelled then s.cancelPhases job j else s).putWord job j.jobCtr (counterWord st (if st = .complete then j.ended else j.phasesDone))

/-- A job that has ended is gone, and memory is as it was when its counter had been written. -/
theorem finishJob_spec (s : State) (job : Nat) (j : Job) (st : CState) :
    (s.finishJob job j st).job job = none ∧ (s.finishJob job j st).gmem = (jobCounted s job j st).gmem ∧
      (s.finishJob job j st).pages = (jobCounted s job j st).pages := by
  let t := jobCounted s job j st
  let t1 := (t.ctxs.filter fun e => e.2.row.v && e.2.row.job.toNat == job).foldl (fun u e => u.unbindCtx e.1) t
  let t2 := t1.freeSquads job j.dtag
  let forget (d : Die) : Die := { d with knownEnds := d.knownEnds.filter fun k => k.1 != job }
  let t3 := t2.dies.foldl (fun u e => u.setDie e.1 (forget e.2)) t2
  have h1 : MemJobs t t1 := foldl_rel (f := fun u (e : CtxId × Ctx) => u.unbindCtx e.1) MemJobs.refl MemJobs.trans
    (fun u e => (local_unbindCtx u e.1).memJobs) _ t
  have h2 : MemJobs t1 t2 := memJobs_freeSquads ..
  have h3 : MemJobs t2 t3 := memJobs_foldl_setDie forget t2.dies t2
  have h4 := memJobs_gate (t3.setJob job none)
  have h := (h1.trans h2).trans h3
  have hend : s.finishJob job j st = (t3.setJob job none).gate := rfl
  rw [hend]
  refine ⟨?_, h4.gmem.trans h.gmem, h4.pages.trans h.pages⟩
  rw [State.job, h4.jobs]
  exact State.job_setJob_same t3 job none

theorem word_finishJob {st : CState} (hs : (if st = .cancelled then s.cancelPhases job j else s) = s) (hc : Claim.Writable s job j.jobCtr) :
    (s.finishJob job j st).gRead (jaddr job j.jobCtr.toNat) 8 = counterWord st (if st = .complete then j.ended else j.phasesDone) := by
  obtain ⟨-, hg, hp⟩ := finishJob_spec s job j st
  have hput := put_putWord (counterWord st (if st = .complete then j.ended else j.phasesDone)) (room_of_writable hc)
  rw [gRead_congr hg hp, jobCounted, hs]
  exact hput.word.trans (Nat.mod_eq_of_lt (counterWord_lt _ _))

theorem exec_jobEnd (hj : s.job job = some j) : exec (.jobEnd job) s = if !j.reading.isEmpty then .next s
    else if j.cancelled then .next (if s.jobBound job then s else s.finishJob job j .cancelled)
    else .next (if j.endTaken && decide (j.highRead ≤ j.ended) then s.finishJob job j .complete else s) := by
  change execJobEnd job s = _
  unfold execJobEnd
  rw [hj]

/-- O52: a job whose phases have ended. -/
theorem job_completes (hj : s.job job = some j) (hc : j.cancelled = false) (he : j.endTaken = true) (hr : j.reading = [])
    (hh : j.highRead ≤ j.ended) (hw : Claim.Writable s job j.jobCtr) :
    ∃ t, exec (.jobEnd job) s = .next t ∧ t.job job = none ∧ t.gRead (jaddr job j.jobCtr.toNat) 8 = counterWord .complete j.ended := by
  refine ⟨s.finishJob job j .complete, ?_, (finishJob_spec ..).1, word_finishJob (if_neg (by decide)) hw⟩
  rw [exec_jobEnd hj, if_neg (by simp [hr]), if_neg (by simp [hc]), if_pos (by simp [he, hh])]

/-- O52: a cancelled job without a bound context. -/
theorem job_cancelled (hj : s.job job = some j) (hc : j.cancelled = true) (hr : j.reading = []) (hb : s.jobBound job = false)
    (hp : ∀ e ∈ j.phases, e.1 < j.ended) (hw : Claim.Writable s job j.jobCtr) :
    ∃ t, exec (.jobEnd job) s = .next t ∧ t.job job = none ∧ t.gRead (jaddr job j.jobCtr.toNat) 8 = counterWord .cancelled j.phasesDone := by
  have hnone : s.cancelPhases job j = s := by
    have hf : (j.phases.filter fun e => decide (j.ended ≤ e.1)) = [] := List.filter_eq_nil_iff.2 fun e he => by
      simpa using hp e he
    rw [State.cancelPhases, hf]
    rfl
  refine ⟨s.finishJob job j .cancelled, ?_, (finishJob_spec ..).1, word_finishJob ((if_pos rfl).trans hnone) hw⟩
  rw [exec_jobEnd hj, if_neg (by simp [hr]), if_pos hc, if_neg (by simp [hb])]
end

end Sys2Proof.WorkHierarchy

namespace Sys2Proof.WorkHierarchy
open Sys2Proof Sys2Proof.Machine Sys2Proof.Safety Sys2Proof.ModuleParts

/-! #### The preparation of a core (R70, R137) -/

/-- A table rewritten in place at each key of a list, by a change that does no more when it is made twice. -/
theorem tget_foldl_modify {α : Type} [DecidableEq α] {d : α} {f : Nat → α → α} (hf : ∀ i a, f i (f i a) = f i a) (l : List Nat)
    (m : List (Nat × α)) (k : Nat) :
    tget d (l.foldl (fun m i => tset d m i (f i (tget d m i))) m) k = if k ∈ l then f k (tget d m k) else tget d m k := by
  induction l generalizing m with
  | nil => simp
  | cons i r ih =>
    rw [List.foldl_cons, ih, tget_tset]
    by_cases hk : k = i
    · subst hk; simp [hf]
    · simp [hk]

/-- A table written at those keys of a list that a predicate picks. -/
theorem tget_foldl_tset_if {α : Type} [DecidableEq α] {d : α} (p : Nat → Bool) (f : Nat → α) (l : List Nat) (m : List (Nat × α)) (k : Nat) :
    tget d (l.foldl (fun m i => if p i then tset d m i (f i) else m) m) k = if k ∈ l ∧ p k = true then f k else tget d m k := by
  induction l generalizing m with
  | nil => simp
  | cons i r ih =>
    rw [List.foldl_cons, ih]
    by_cases hk : k = i
    · subst hk
      cases hp : p k <;> simp
    · cases hp : p i
      · simp [hk]
      · simp [hk, tget_tset]

/-! The fields of a doubleword. -/

@[simp]
theorem bits_mod (x lo n : Nat) : bits x lo n % 2 ^ n = bits x lo n := Nat.mod_mod ..

/-- A one-bit field read as a flag. -/
@[simp]
theorem toNat_flag (x lo : Nat) : (bits x lo 1 == 1).toNat = bits x lo 1 := by
  rcases Nat.mod_two_eq_zero_or_one (x / 2 ^ lo) with h | h <;> rw [bits, pow_one, h] <;> rfl

theorem code_kindOfCode {n : Nat} (h : n < 4) : (kindOfCode n).code = n := by
  interval_cases n <;> rfl

@[simp]
theorem code_kind (x lo : Nat) : (kindOfCode (bits x lo 2)).code = bits x lo 2 := code_kindOfCode (Nat.mod_lt _ (by decide))

/-- Adjacent fields make one. -/
theorem mod_add_bits (x lo n : Nat) : x % 2 ^ lo + 2 ^ lo * bits x lo n = x % 2 ^ (lo + n) := by
  rw [bits, pow_add, Nat.mod_mul]

/-- A tensor table entry as a core's preparation loads it: reserved fields are zero (R6). -/
def tensorOf (dw : Nat → Nat) : Tensor := { Tensor.ofImage dw with rsv := 0 }

/-- Doubleword 0 from its fields, without the reserved bit. -/
theorem dw0_fields (x : Nat) (h : x < 2 ^ 64) : x % 2 ^ 32 + 2 ^ 33 * bits x 33 1 + 2 ^ 34 * bits x 34 2 + 2 ^ 36 * bits x 36 10 +
    2 ^ 46 * bits x 46 8 + 2 ^ 54 * bits x 54 3 + 2 ^ 57 * bits x 57 3 + 2 ^ 60 * bits x 60 1 + 2 ^ 61 * bits x 61 2 + 2 ^ 63 * bits x 63 1 =
    x - 2 ^ 32 * (x / 2 ^ 32 % 2) := by
  have hr : x / 2 ^ 32 % 2 = bits x 32 1 := by rw [bits, pow_one]
  have hx : x % 2 ^ 64 = x := Nat.mod_eq_of_lt h
  rw [hr]
  refine Nat.eq_sub_of_add_eq ?_
  have rsv := mod_add_bits x 32 1
  have order := mod_add_bits x 33 1
  have space := mod_add_bits x 34 2
  have scale := mod_add_bits x 36 10
  have bias := mod_add_bits x 46 8
  have fb := mod_add_bits x 54 3
  have fa := mod_add_bits x 57 3
  have sgn := mod_add_bits x 60 1
  have kind := mod_add_bits x 61 2
  have valid := mod_add_bits x 63 1
  norm_num only at *
  linarith

theorem dw0_tensorOf {dw : Nat → Nat} (h : dw 0 < 2 ^ 64) : Tensor.dw (tensorOf dw) 0 = dw 0 - 2 ^ 32 * (dw 0 / 2 ^ 32 % 2) := by
  rw [← dw0_fields (dw 0) h]
  simp [-Nat.reducePow, tensorOf, Tensor.ofImage, Tensor.dw]

theorem dw1_tensorOf (dw : Nat → Nat) : Tensor.dw (tensorOf dw) 1 = dw 1 % 2 ^ 51 := by
  rw [← mod_add_bits (dw 1) 48 3]
  simp [-Nat.reducePow, tensorOf, Tensor.ofImage, Tensor.dw]

theorem dw2_tensorOf {dw : Nat → Nat} (h : dw 2 < 2 ^ 64) : Tensor.dw (tensorOf dw) 2 = dw 2 := by
  have hb : dw 2 % 2 ^ 32 + 2 ^ 32 * bits (dw 2) 32 32 = dw 2 := (mod_add_bits (dw 2) 32 32).trans (Nat.mod_eq_of_lt h)
  refine Eq.trans ?_ hb
  simp [-Nat.reducePow, tensorOf, Tensor.ofImage, Tensor.dw]

theorem dw3_tensorOf (dw : Nat → Nat) : Tensor.dw (tensorOf dw) 3 = dw 3 % 2 ^ 40 := by
  simp [-Nat.reducePow, tensorOf, Tensor.ofImage, Tensor.dw]

section
variable {s t : State} (h : ReadOnly s t)
include h

theorem ReadOnly.dread (job a n : Nat) : t.dread job a n = s.dread job a n := by
  have hg := h.gRead
  obtain ⟨g, v, -, rfl⟩ := h
  unfold State.dread
  dsimp only
  split
  · next hd => exact (if_pos hd).symm
  · next hd =>
    refine Eq.trans ?_ (if_neg hd).symm
    unfold State.homeRead
    rw [hg]
    rfl

theorem ReadOnly.ctx (c : CtxId) : t.ctx c = s.ctx c := by
  obtain ⟨g, v, -, rfl⟩ := h
  rfl

theorem ReadOnly.core (c : CoreId) : t.core c = s.core c := by
  obtain ⟨g, v, -, rfl⟩ := h
  rfl

theorem ReadOnly.launch (l : Nat) : t.launch l = s.launch l := by
  obtain ⟨g, v, -, rfl⟩ := h
  rfl
end

theorem readOnly_foldl_readBackD (job : Nat) (l : List (Nat × Nat)) (s : State) :
    ReadOnly s (l.foldl (fun u e => u.readBackD job e.1 e.2) s) :=
  foldl_rel (R := ReadOnly) (f := fun u (e : Nat × Nat) => u.readBackD job e.1 e.2) ReadOnly.refl ReadOnly.trans
    (fun u e => readOnly_readBackD u job e.1 e.2) l s

/-- The doublewords of entry i of the tensor table that a record names. -/
def tensorDw (s : State) (job : Nat) (r : LaunchRec) (i n : Nat) : Nat := recDw (s.dread job (r.ttptr.toNat + 32 * i) 32) (8 * n)

theorem tensorDw_eq (s : State) (job : Nat) (r : LaunchRec) (i w : Nat) :
    tensorDw s job r i w = s.dread job (r.ttptr.toNat + 32 * i) 32 / 2 ^ (64 * w) % 2 ^ 64 := by
  rw [tensorDw, recDw, show (256 : Nat) = 2 ^ 8 from rfl, ← pow_mul]
  congr 3
  omega

theorem tensorDw_lt (s : State) (job : Nat) (r : LaunchRec) (i w : Nat) : tensorDw s job r i w < 2 ^ 64 := Nat.mod_lt _ (by decide)

/-- The new contents of an entry of the tensor table of a core without another launch. -/
def entryOf (s : State) (job : Nat) (r : LaunchRec) (i : Nat) (e : Tensor) : Tensor :=
  if i < r.ttcnt then tensorOf (tensorDw s job r i) else { e with valid := false }

section
variable {s : State} {core : CoreId} {l job : Nat} {r : LaunchRec}

theorem loadTensors_eq (ho : ∀ d ∈ ctxsOf core, (s.ctx d).row.v = true → (s.ctx d).row.launch.toNat = l) :
    s.loadTensors core l job r = s.modCore core fun k => { k with
      tt := (span 0 64).foldl (fun m i => tset Tensor.reset m i (entryOf s job r i (tget Tensor.reset m i))) k.tt } := by
  have hother : ((ctxsOf core).any fun c => (s.ctx c).row.v && (s.ctx c).row.launch.toNat != l) = false := by
    rw [List.any_eq_false]
    intro d hd
    rw [Bool.and_eq_true, bne_iff_ne]
    exact fun ⟨hv, hne⟩ => hne (ho d hd hv)
  unfold State.loadTensors
  dsimp only
  rw [hother]
  congr 1
  funext k
  congr 2
  funext m i
  unfold entryOf
  split <;> rfl

theorem tt_loadTensors (ho : ∀ d ∈ ctxsOf core, (s.ctx d).row.v = true → (s.ctx d).row.launch.toNat = l) {i : Nat} (hi : i < 64) :
    tget Tensor.reset ((s.loadTensors core l job r).core core).tt i = entryOf s job r i (tget Tensor.reset (s.core core).tt i) := by
  have hf (i : Nat) (e : Tensor) : entryOf s job r i (entryOf s job r i e) = entryOf s job r i e := by
    unfold entryOf
    split <;> rfl
  rw [loadTensors_eq ho, State.core_modCore_same]
  exact (tget_foldl_modify hf _ _ i).trans (if_pos (mem_span.2 ⟨Nat.zero_le i, by omega⟩))

theorem sameBytes_loadTensors (s : State) (core : CoreId) (l job : Nat) (r : LaunchRec) : Claim.SameBytes s (s.loadTensors core l job r) :=
  sameBytes_modCore s core _ fun _ => ⟨rfl, rfl, rfl⟩

/-- The segment table that a record gives a context. -/
def segsOf (s : State) (job : Nat) (r : LaunchRec) : SMap Seg :=
  (span 0 8).foldl (fun m i => if r.segmask.getLsbD i then
    tset Seg.zero m i (Seg.ofImage (s.dword job (r.segtab.toNat + 16 * i)) (s.dword job (r.segtab.toNat + 16 * i + 8))) else m) []

theorem tget_segsOf (s : State) (job : Nat) (r : LaunchRec) (i : SReg) : tget Seg.zero (segsOf s job r) i.val =
    if r.segmask.getLsbD i.val then
      Seg.ofImage (s.dword job (r.segtab.toNat + 16 * i.val)) (s.dword job (r.segtab.toNat + 16 * i.val + 8)) else Seg.zero := by
  have hi : i.val ∈ span 0 8 := mem_span.2 ⟨Nat.zero_le _, by have := i.isLt; omega⟩
  refine (tget_foldl_tset_if _ (fun i => Seg.ofImage (s.dword job (r.segtab.toNat + 16 * i)) (s.dword job (r.segtab.toNat + 16 * i + 8)))
    _ _ _).trans ?_
  simp only [hi, true_and]
  rfl

/-- The contexts of a core that a record names are prepared. -/
def contextsPrepared (s : State) (core : CoreId) (job : Nat) (r : LaunchRec) (l : List (Nat × Nat)) : State :=
  l.foldl (fun u e => u.prepareCtx job r (ctxOf core e.1) e.2) s

theorem contextsPrepared_eq (core : CoreId) (job : Nat) (r : LaunchRec) (l : List (Nat × Nat)) (s : State) :
    ∃ cx, contextsPrepared s core job r l = { s with ctxs := cx } := by
  refine foldl_rel (R := fun s t : State => ∃ cx, t = { s with ctxs := cx }) (f := fun u (e : Nat × Nat) => u.prepareCtx job r (ctxOf core e.1) e.2)
    (fun s => ⟨s.ctxs, rfl⟩) (fun {_ _ _} h h' => ?_) (fun u e => ⟨_, rfl⟩) l s
  obtain ⟨_, rfl⟩ := h
  obtain ⟨cx, rfl⟩ := h'
  exact ⟨cx, rfl⟩

theorem seg_contextsPrepared (core : CoreId) (job : Nat) (r : LaunchRec) (l : List (Nat × Nat)) (s : State) (d : CtxId)
    (h : (∃ e ∈ l, ctxOf core e.1 = d) ∨ (s.ctx d).seg = segsOf s job r) :
    ((contextsPrepared s core job r l).ctx d).seg = segsOf s job r := by
  induction l generalizing s with
  | nil => exact h.resolve_left fun ⟨e, he, _⟩ => List.not_mem_nil he
  | cons e r' ih =>
    refine ih (s.prepareCtx job r (ctxOf core e.1) e.2) ?_
    by_cases hd : d = ctxOf core e.1
    · subst hd
      exact .inr (congrArg Ctx.seg (State.ctx_modCtx_same ..))
    · rcases h with ⟨f, hf, hfd⟩ | hs
      · rcases List.mem_cons.1 hf with rfl | hf
        · exact absurd hfd.symm hd
        · exact .inl ⟨f, hf, hfd⟩
      · exact .inr ((congrArg Ctx.seg (State.ctx_modCtx_other _ _ hd)).trans hs)
end

theorem mem_bitsSet {n : Nat} {v : BitVec 16} (hn : n < 16) (hv : v.getLsbD n = true) : n ∈ bitsSet 16 v.toNat :=
  List.mem_filter.2 ⟨mem_span.2 ⟨Nat.zero_le n, by omega⟩, hv⟩

/-- A context that a record names, with its rank. -/
theorem mem_ranks {n : Nat} {ks : List Nat} (h : n ∈ ks) : ∃ e ∈ ks.zip (span 0 ks.length), e.1 = n := by
  have hmap : (ks.zip (span 0 ks.length)).map Prod.fst = ks := List.map_fst_zip (by rw [length_span])
  rw [← hmap] at h
  exact List.mem_map.1 h

/-! The steps of a preparation without an S image, in order. -/

/-- The images have been read and the tensor table is loaded. -/
def tensorsPrepared (s : State) (l : Nat) (q : Launch) (core : CoreId) : State :=
  ((s.readBackD q.job q.record.simg.toNat q.record.simglen).readBackD q.job q.record.ttptr.toNat (32 * q.record.ttcnt)).loadTensors core l
    q.job q.record

/-- The contexts' segments and carve-outs are set. -/
def segmentsPrepared (s : State) (l : Nat) (q : Launch) (core : CoreId) : State :=
  contextsPrepared (tensorsPrepared s l q core) core q.job q.record
    ((bitsSet 16 q.record.ctxs.toNat).zip (span 0 (bitsSet 16 q.record.ctxs.toNat).length))

/-- What else of memory a preparation reads: the copy schedule and the segments. -/
def tableReads (r : LaunchRec) : List (Nat × Nat) :=
  (if r.csched = 0 then [] else [(r.csched.toNat, 32 * r.cscnt)]) ++ (bitsSet 8 r.segmask.toNat).map fun i => (r.segtab.toNat + 16 * i, 16)

/-- The core's copy schedules with a new one, those of launches that are no longer on the core being gone. -/
def scheduled (s : State) (l : Nat) (q : Launch) (core : CoreId) (k : Core) : Core :=
  { k with sched := (k.sched.filter fun e => s.onCore core e.launch) ++ [{ launch := l, entries := s.readSched q.job q.record, fired := 0 }] }

/-- The core is prepared. -/
def corePrepared (s : State) (l : Nat) (q : Launch) (core : CoreId) : State :=
  ((((tableReads q.record).foldl (fun u e => u.readBackD q.job e.1 e.2) (segmentsPrepared s l q core)).modCore core
    (scheduled s l q core)).modCluster (clusterOf core) fun x => { x with icache := [] }).modLaunch l fun x =>
      { x with prepared := x.prepared ++ [core] }

section
variable {s : State} {l : Nat} {q : Launch} {core : CoreId}

theorem exec_corePreparation (hq : s.launch l = some q) (hb : q.bound = true) (hp : core ∉ q.prepared) (hc : core ∈ q.record.coreIds)
    (hf : q.record.feclr = false) (hi : q.record.simglen = 0)
    (hd : (s.die (dieOf core)).ready = true → (s.die (dieOf core)).committed = true) :
    exec (.corePreparation l core) s = .next (corePrepared s l q core) := by
  have hseal : ((s.die (dieOf core)).ready && !(s.die (dieOf core)).committed) = false := by
    cases hr : (s.die (dieOf core)).ready with
    | false => rfl
    | true => simp [hd hr]
  have himage : ((if q.record.feclr = true then s.clearFe core else some s).bind fun t => t.copyImage core q.job q.record) = some s := by
    rw [hf]
    exact if_pos hi
  change execCorePreparation l core s = _
  unfold execCorePreparation
  rw [hq]
  dsimp only
  rw [if_neg (by simp [hb, hp, hc, hseal]), himage]
  rfl

theorem readOnly_images (s : State) (q : Launch) : ReadOnly s
    ((s.readBackD q.job q.record.simg.toNat q.record.simglen).readBackD q.job q.record.ttptr.toNat (32 * q.record.ttcnt)) :=
  (readOnly_readBackD ..).trans (readOnly_readBackD ..)

theorem sameBytes_corePrepared (s : State) (l : Nat) (q : Launch) (core : CoreId) : Claim.SameBytes s (corePrepared s l q core) := by
  obtain ⟨cx, hcx⟩ := contextsPrepared_eq core q.job q.record
    ((bitsSet 16 q.record.ctxs.toNat).zip (span 0 (bitsSet 16 q.record.ctxs.toNat).length)) (tensorsPrepared s l q core)
  have htensors : Claim.SameBytes s (tensorsPrepared s l q core) :=
    sameBytes_trans (readOnly_images s q).sameBytes (sameBytes_loadTensors ..)
  have hsegments : Claim.SameBytes s (segmentsPrepared s l q core) := by
    rw [segmentsPrepared, hcx]
    exact sameBytes_trans htensors (sameBytes_of_eq rfl rfl)
  have htables := (readOnly_foldl_readBackD q.job (tableReads q.record) (segmentsPrepared s l q core)).sameBytes
  have hsched := sameBytes_modCore ((tableReads q.record).foldl (fun u e => u.readBackD q.job e.1 e.2) (segmentsPrepared s l q core)) core
    (scheduled s l q core) fun _ => ⟨rfl, rfl, rfl⟩
  exact sameBytes_trans (sameBytes_trans (sameBytes_trans hsegments htables) hsched) (sameBytes_of_eq rfl rfl)

theorem icache_corePrepared (s : State) (l : Nat) (q : Launch) (core : CoreId) :
    ((corePrepared s l q core).cluster (clusterOf core)).icache = [] := by
  have hempty (u : State) : ((u.modCluster (clusterOf core) fun x => { x with icache := [] }).cluster (clusterOf core)).icache = [] :=
    congrArg Cluster.icache (State.cluster_modCluster_same u (clusterOf core) _)
  exact hempty _

theorem core_corePrepared (s : State) (l : Nat) (q : Launch) (core : CoreId) :
    (corePrepared s l q core).core core = scheduled s l q core ((tensorsPrepared s l q core).core core) := by
  obtain ⟨cx, hcx⟩ := contextsPrepared_eq core q.job q.record
    ((bitsSet 16 q.record.ctxs.toNat).zip (span 0 (bitsSet 16 q.record.ctxs.toNat).length)) (tensorsPrepared s l q core)
  have hr := readOnly_foldl_readBackD q.job (tableReads q.record) (segmentsPrepared s l q core)
  refine (State.core_modCore_same _ core (scheduled s l q core)).trans ?_
  rw [hr.core, segmentsPrepared, hcx]
  rfl

theorem launch_corePrepared (hq : s.launch l = some q) :
    (corePrepared s l q core).launch l = some { q with prepared := q.prepared ++ [core] } := by
  obtain ⟨cx, hcx⟩ := contextsPrepared_eq core q.job q.record
    ((bitsSet 16 q.record.ctxs.toNat).zip (span 0 (bitsSet 16 q.record.ctxs.toNat).length)) (tensorsPrepared s l q core)
  have hr := readOnly_foldl_readBackD q.job (tableReads q.record) (segmentsPrepared s l q core)
  have hl : ((tableReads q.record).foldl (fun u e => u.readBackD q.job e.1 e.2) (segmentsPrepared s l q core)).launch l = some q := by
    rw [hr.launch, segmentsPrepared, hcx]
    exact ((readOnly_images s q).launch l).trans hq
  refine (State.launch_setLaunch_same ..).trans ?_
  exact congrArg (Option.map fun x : Launch => { x with prepared := x.prepared ++ [core] }) hl

theorem segs_corePrepared (hn : n < 16) (hc : q.record.ctxs.getLsbD n = true) :
    ((corePrepared s l q core).ctx (ctxOf core n)).seg = segsOf s q.job q.record := by
  have hr := readOnly_foldl_readBackD q.job (tableReads q.record) (segmentsPrepared s l q core)
  obtain ⟨e, he, hen⟩ := mem_ranks (mem_bitsSet hn hc)
  have hseg := seg_contextsPrepared core q.job q.record _ (tensorsPrepared s l q core) (ctxOf core n) (.inl ⟨e, he, by rw [hen]⟩)
  have hsegs : segsOf (tensorsPrepared s l q core) q.job q.record = segsOf s q.job q.record := by
    have hdw (a : Nat) : (tensorsPrepared s l q core).dword q.job a = s.dword q.job a :=
      congrArg (BitVec.ofNat 64) ((readOnly_images s q).dread q.job a 8)
    unfold segsOf
    simp only [hdw]
  have hctx : (corePrepared s l q core).ctx (ctxOf core n) = (segmentsPrepared s l q core).ctx (ctxOf core n) := hr.ctx _
  rw [hctx]
  exact hseg.trans hsegs

/-- An entry of the tensor table after the preparation, as O52 states it. -/
theorem entry_corePrepared (ho : ∀ d ∈ ctxsOf core, (s.ctx d).row.v = true → (s.ctx d).row.launch.toNat = l) {i : Nat} (hi : i < 64) :
    tget Tensor.reset ((corePrepared s l q core).core core).tt i = entryOf s q.job q.record i (tget Tensor.reset (s.core core).tt i) := by
  have hr := readOnly_images s q
  have ho' : ∀ d ∈ ctxsOf core, (((s.readBackD q.job q.record.simg.toNat q.record.simglen).readBackD q.job q.record.ttptr.toNat
      (32 * q.record.ttcnt)).ctx d).row.v = true → (((s.readBackD q.job q.record.simg.toNat q.record.simglen).readBackD q.job
      q.record.ttptr.toNat (32 * q.record.ttcnt)).ctx d).row.launch.toNat = l := fun d hd => by
    rw [hr.ctx]
    exact ho d hd
  have htt := tt_loadTensors (job := q.job) (r := q.record) ho' hi
  rw [hr.core] at htt
  rw [core_corePrepared]
  refine htt.trans ?_
  unfold entryOf tensorDw
  simp only [hr.dread]

/-- O52: the preparation of a core without an S image and full/empty clearing. -/
theorem core_prepares (hq : s.launch l = some q) (hb : q.bound = true) (hp : core ∉ q.prepared) (hc : core ∈ q.record.coreIds)
    (hf : q.record.feclr = false) (hi : q.record.simglen = 0)
    (hd : (s.die (dieOf core)).ready = true → (s.die (dieOf core)).committed = true)
    (ho : ∀ d ∈ ctxsOf core, (s.ctx d).row.v = true → (s.ctx d).row.launch.toNat = l) : ∃ t, exec (.corePreparation l core) s = .next t ∧
      t.launch l = some { q with prepared := q.prepared ++ [core] } ∧ (t.cluster (clusterOf core)).icache = [] ∧
      Claim.SameBytes s t ∧ (∃ e ∈ (t.core core).sched, e.launch = l ∧ e.fired = 0) ∧
      (∀ i < 64, tget Tensor.reset (t.core core).tt i = entryOf s q.job q.record i (tget Tensor.reset (s.core core).tt i)) ∧
      ∀ n < 16, q.record.ctxs.getLsbD n = true → (t.ctx (ctxOf core n)).seg = segsOf s q.job q.record := by
  have hsched : (⟨l, s.readSched q.job q.record, 0⟩ : CopySched) ∈ ((corePrepared s l q core).core core).sched := by
    rw [core_corePrepared]
    exact List.mem_append_right _ (List.mem_singleton_self _)
  exact ⟨_, exec_corePreparation hq hb hp hc hf hi hd, launch_corePrepared hq, icache_corePrepared s l q core,
    sameBytes_corePrepared s l q core, ⟨_, hsched, rfl, rfl⟩, fun i hi => entry_corePrepared ho hi, fun n hn hc => segs_corePrepared hn hc⟩
end

end Sys2Proof.WorkHierarchy

namespace Sys2Proof.WorkHierarchy
open Sys2Proof Sys2Proof.Machine Sys2Proof.Safety Sys2Proof.ModuleParts

/-! #### O52 -/

/-- The doublewords of a table entry that a preparation has loaded, or its VALID off beyond the record's count. -/
theorem dws_entryOf (s : State) (job : Nat) (r : LaunchRec) (i : Nat) (e : Tensor) :
    let raw (w : Nat) : Nat := s.dread job (r.ttptr.toNat + 32 * i) 32 / 2 ^ (64 * w) % 2 ^ 64
    (i < r.ttcnt → Tensor.dw (entryOf s job r i e) 0 = raw 0 - 2 ^ 32 * (raw 0 / 2 ^ 32 % 2) ∧
      Tensor.dw (entryOf s job r i e) 1 = raw 1 % 2 ^ 51 ∧ Tensor.dw (entryOf s job r i e) 2 = raw 2 ∧
      Tensor.dw (entryOf s job r i e) 3 = raw 3 % 2 ^ 40) ∧
    (r.ttcnt ≤ i → entryOf s job r i e = { e with valid := false }) := by
  intro raw
  have hraw (w : Nat) : raw w = tensorDw s job r i w := (tensorDw_eq s job r i w).symm
  refine ⟨fun hi => ?_, fun hi => if_neg (by omega)⟩
  have he : entryOf s job r i e = tensorOf (tensorDw s job r i) := if_pos hi
  simp only [hraw, he]
  exact ⟨dw0_tensorOf (tensorDw_lt ..), dw1_tensorOf _, dw2_tensorOf (tensorDw_lt ..), dw3_tensorOf _⟩

/-- Settles O52: each event of a launch, a unit, a phase and a job through the lemma about its step. -/
theorem launchAndPhaseEvents : Obligations.LaunchAndPhaseEvents := by
  intro s l q core c job phase hq
  refine ⟨fun hr hs ht j hj hu => launch_evens hq hr hs ht hj hu, fun task hr hs ht hu hc hn => launch_binds hq hr hs ht hu hc hn,
    fun hb hp hc hf hi _ hd ho => ?_,
    fun task j hl hv hidle hdbg hrun hb hp hseal hk hn hj => unit_starts hq hl hv hidle hdbg hrun hb hp hseal hk hn hj,
    fun j hj => ⟨fun hp hb hc hw => ?_, fun b hb => ?_, fun die hp => phase_end_known hj die hp, jobend_taken hj,
      fun hc he hr hh hw => job_completes hj hc he hr hh hw, fun hr => ?_, fun hc hr hb hp hw => job_cancelled hj hc hr hb hp hw,
      fun hc hb => ?_⟩⟩
  · obtain ⟨t, hexec, hlaunch, hcache, hbytes, hsched, htt, hseg⟩ := core_prepares hq hb hp hc hf hi hd ho
    refine ⟨t, hexec, hlaunch, hcache, hbytes, hsched, fun i h64 => ?_, fun n hn hbit i => ?_⟩
    · rw [htt i h64]
      exact dws_entryOf s q.job q.record i _
    · rw [Ctx.readSeg, hseg n hn hbit, tget_segsOf]
  · have hstart := baton_starts hj hp hb hc hw
    refine ⟨fun d rest hcores => ?_, fun hcores ⟨hp, hc, hne⟩ => ?_⟩ <;> rw [hcores] at hstart
    · exact ⟨_, hstart, circuit_setPhase s job phase j _ _ _ rfl⟩
    · exact ⟨_, hstart, phaseEnds_endPhase hj [] hp hc hne⟩
  · refine ⟨fun d rest htodo => baton_visits hj hb htodo, fun htodo ha hblack hsum hfirst ⟨hp, hc, hne⟩ => ?_, fun htodo ha h => ?_,
      baton_awaits hj hb⟩
    · exact ⟨_, (baton_returns hj hb htodo ha).1 hblack hsum hfirst, phaseEnds_endPhase hj _ hp hc hne⟩
    · exact (baton_returns hj hb htodo ha).2 h
  · rw [exec_jobEnd hj, if_pos (by simpa using hr)]
  · rw [exec_jobEnd hj, if_pos hc, if_pos hb, ite_self]

end Sys2Proof.WorkHierarchy

/-! ### What a sent message leaves (R100, R188) -/

namespace Sys2Proof.MemorySpaces

open Sys2Proof Sys2Proof.Machine Sys2Proof.Safety Sys2Proof.ModuleParts

/-- A change of the number of messages that cores await leaves every byte. -/
theorem sameBytes_of_msgCount {s t : State} (hg : t.gmem = s.gmem)
    (hc : ∀ c, ∃ n, t.core c = { s.core c with msgCount := n }) : Claim.SameBytes s t := by
  refine ⟨fun a => by rw [hg], fun c a => ?_⟩
  obtain ⟨n, h⟩ := hc c
  rw [h]
  exact ⟨rfl, rfl, rfl⟩

/-- What a sent message leaves of the state: it is last in the network, and its core's count of messages may rise. -/
structure Sent (s t : State) (c : CtxId) (dest : Dest) (body : Body) : Prop where
  net : ∃ q, t.net = s.net ++ [q] ∧ q.src = c ∧ q.dest = dest ∧ q.body = body ∧ q.launch = (s.ctx c).row.launch.toNat
  ctxs : t.ctxs = s.ctxs
  cur : t.cur = s.cur
  gmem : t.gmem = s.gmem
  core : ∀ d, ∃ n, t.core d = { s.core d with msgCount := n }

/-- A sent message, the state with it in the network, and the count of the messages that its core has sent. -/
theorem send_eq (s : State) (c : CtxId) (dest : Dest) (body : Body) : ∃ q dies, q.src = c ∧ q.dest = dest ∧ q.body = body ∧
    q.launch = (s.ctx c).row.launch.toNat ∧ s.send c dest body =
      let u := { s with dies := dies, nextId := s.nextId + 1, net := s.net ++ [q] }
      if q.counted then u.modCore (coreOf c) fun k => { k with msgCount := k.msgCount + 1 } else u :=
  ⟨_, _, rfl, rfl, rfl, rfl, rfl⟩

theorem sent_send (s : State) (c : CtxId) (dest : Dest) (body : Body) : Sent s (s.send c dest body) c dest body := by
  obtain ⟨q, dies, hsrc, hdest, hbody, hlaunch, h⟩ := send_eq s c dest body
  rw [h]
  dsimp only
  split
  · refine ⟨⟨q, rfl, hsrc, hdest, hbody, hlaunch⟩, rfl, rfl, rfl, fun d => ?_⟩
    rw [State.core_modCore]
    split
    · next h => subst h; exact ⟨_, rfl⟩
    · exact ⟨_, rfl⟩
  · exact ⟨⟨q, rfl, hsrc, hdest, hbody, hlaunch⟩, rfl, rfl, rfl, fun _ => ⟨_, rfl⟩⟩

theorem Sent.sameBytes {s t : State} {c : CtxId} {dest : Dest} {body : Body} (h : Sent s t c dest body) : Claim.SameBytes s t :=
  sameBytes_of_msgCount h.gmem h.core

theorem Sent.ctx {s t : State} {c : CtxId} {dest : Dest} {body : Body} (h : Sent s t c dest body) (d : CtxId) : t.ctx d = s.ctx d :=
  congrArg (tget Ctx.reset · d) h.ctxs

/-- The state in which a posted operation of the current context has been performed. -/
theorem ctx_post (s : State) (k : PostKind) (dest : Dest) (body : Body) (c : CtxId) :
    (s.post s.cur k dest body).ctx c = if c = s.cur then s.me.setCount k (s.me.count k + 1) else s.ctx c := by
  have h := sent_send s s.cur dest body
  unfold State.post
  rw [State.ctx_modCtx, h.ctx, h.ctx]
  split <;> rfl

theorem cur_post (s : State) (k : PostKind) (dest : Dest) (body : Body) : (s.post s.cur k dest body).cur = s.cur :=
  (sent_send s s.cur dest body).cur

theorem core_post (s : State) (k : PostKind) (dest : Dest) (body : Body) (c : CoreId) :
    ∃ n, (s.post s.cur k dest body).core c = { s.core c with msgCount := n } := (sent_send s s.cur dest body).core c

/-- A posted operation, and whatever a core then keeps of it beside its memories. -/
theorem posted_done {s t : State} {k : PostKind} {dest : Dest} {body : Body} (hnet : t.net = (s.post s.cur k dest body).net)
    (hctxs : t.ctxs = (s.post s.cur k dest body).ctxs) (hcur : t.cur = s.cur) (hbytes : Claim.SameBytes s t) (n : Nat) :
    Claim.Posted s (t.done n fun x => x) n k dest body ∧ ∀ r, (t.done n fun x => x).me.readG r = s.me.readG r := by
  have hctx (c : CtxId) : t.ctx c = if c = s.cur then s.me.setCount k (s.me.count k + 1) else s.ctx c :=
    (congrArg (tget Ctx.reset · c) hctxs).trans (ctx_post ..)
  have hme : (t.done n fun x => x).me = (s.me.setCount k (s.me.count k + 1)).advance n := by
    rw [State.me_done, State.me, hcur, hctx, if_pos rfl]
  have hother (c : CtxId) (hc : c ≠ s.cur) : (t.done n fun x => x).ctx c = s.ctx c := by
    rw [State.ctx_done _ _ _ (by rwa [hcur]), hctx, if_neg hc]
  obtain ⟨q, hq, hsrc, hdest, hbody, -⟩ := (sent_send s s.cur dest body).net
  have hnet' : (t.done n fun x => x).net = s.net ++ [q] := hnet.trans hq
  refine ⟨⟨⟨q, hnet', hsrc, hdest, hbody⟩, ?_, ?_, ?_, ?_, ?_, ?_, ?_, ?_, sameBytes_trans hbytes (sameBytes_of_eq rfl rfl), hother⟩,
    fun r => ?_⟩
  all_goals rw [hme]; cases k <;> rfl

/-- What an instruction without a result may change of its context beside the pc: the marks of its wait and its pending traps. -/
def Marked (x y : Ctx) : Prop := ∃ b a l, y = { x with met := b, atSeal := a, imprecise := l }

theorem marked_pend (x : Ctx) (cause : BitVec 8) (ceaddr : Word) : Marked x (x.pend cause ceaddr) :=
  ⟨x.met, x.atSeal, (x.pend cause ceaddr).imprecise, pend_eq ..⟩

theorem moved_of_marked {s t : State} {x : Ctx} {n : Nat} (ht : t.me = x.advance n) (hx : Marked s.me x) (hb : Claim.SameBytes s t) :
    Claim.Moved s t n := by
  obtain ⟨b, a, l, rfl⟩ := hx
  refine ⟨?_, ?_, fun _ => ?_, ?_, ?_, ?_, ?_, hb⟩ <;> rw [ht] <;> rfl

end Sys2Proof.MemorySpaces

/-! ### Mailbox counters (R99, R201, R399) -/

namespace Sys2Proof.MemorySpaces

open Sys2Proof Sys2Proof.Machine Sys2Proof.Safety Sys2Proof.ModuleParts

/-- What a put counter leaves of the contexts: it may mark a wait as met. -/
theorem ctx_mbPut (s : State) (core : CoreId) (i : Nat) (v : BitVec 16) (c : CtxId) :
    ∃ b, (s.mbPut core i v).ctx c = { s.ctx c with met := b } := by
  unfold State.mbPut
  rw [ctx_foldl_modCtx (f := fun x => { x with met := true }) fun _ => rfl]
  have h : ((s.modCore core fun k => k.setMailbox i v).testHeads core).ctx c = s.ctx c := rfl
  rw [h]
  split
  · exact ⟨true, rfl⟩
  · exact ⟨(s.ctx c).met, rfl⟩

theorem cur_mbPut (s : State) (core : CoreId) (i : Nat) (v : BitVec 16) : (s.mbPut core i v).cur = s.cur := by
  unfold State.mbPut
  rw [foldl_keeps State.cur (f := fun t c => t.modCtx c fun x => { x with met := true }) fun _ _ => rfl]
  rfl

/-- The counter i of the current core takes the value v, and the context goes on. -/
def Puts (s t : State) (i : Nat) (v : BitVec 16) : Prop :=
  t.net = s.net ∧ Claim.Moved s t 8 ∧ (∀ c, c ≠ s.cur → ∃ b, t.ctx c = { s.ctx c with met := b }) ∧
    ∀ c n, tget 0 (t.core c).mb n = if c = s.myCore ∧ n = i then v else tget 0 (s.core c).mb n

/-- The counter is put in a state that differs from s in what the clocks of dies say. -/
theorem puts_mbPut {s u : State} (hctxs : u.ctxs = s.ctxs) (hcores : u.cores = s.cores) (hgmem : u.gmem = s.gmem) (hnet : u.net = s.net)
    (hcur : u.cur = s.cur) (i : Nat) (v : BitVec 16) : Puts s ((u.mbPut s.myCore i v).done 8 fun x => x) i v := by
  obtain ⟨hpnet, -, hbytes, hmb⟩ := mbPut_spec u s.myCore i v
  have hctx (c : CtxId) : u.ctx c = s.ctx c := congrArg (tget Ctx.reset · c) hctxs
  have hcore (c : CoreId) : u.core c = s.core c := congrArg (tget Core.reset · c) hcores
  have hpcur : (u.mbPut s.myCore i v).cur = s.cur := (cur_mbPut ..).trans hcur
  obtain ⟨b, hme⟩ := ctx_mbPut u s.myCore i v s.cur
  rw [hctx] at hme
  refine ⟨hpnet.trans hnet, moved_of_marked (State.me_done ..) ⟨b, s.me.atSeal, s.me.imprecise, ?_⟩ ?_, fun c hc => ?_, fun c n => ?_⟩
  · rw [State.me, hpcur]
    exact hme
  · exact sameBytes_trans (sameBytes_trans (sameBytes_of_eq hgmem hcores) hbytes) (sameBytes_of_eq rfl rfl)
  · obtain ⟨b, h⟩ := ctx_mbPut u s.myCore i v c
    exact ⟨b, by rw [State.ctx_done _ _ _ (by rwa [hpcur]), h, hctx]⟩
  · rw [← hcore]
    exact hmb c n

/-- An increment at the own core is a put of the sum. -/
theorem puts_increment (s : State) (i : Nat) (v : BitVec 16) :
    Puts s (((s.numberAt (dieOf s.cur) (.core s.myCore)).mbAdd s.myCore i v).done 8 fun x => x) i (tget 0 (s.core s.myCore).mb i + v) :=
  puts_mbPut rfl rfl rfl rfl rfl i _

/-- An acquire at the own core merges clocks, which dies hold. -/
theorem acquireHere_true (s : State) : ∃ dies, s.acquireHere true = { s with dies := dies } := ⟨_, rfl⟩

theorem mbwait_goes {s : State} {i : BitVec 8} {v : BitVec 16}
    (h : s.me.met = true ∨ (tget 0 (s.core s.myCore).mb i.toNat - v).toNat < 2 ^ 15) :
    ∃ t, exec (.mbwait i v) s = .next t ∧ Claim.WentOn s t 8 ∧ t.cores = s.cores ∧ t.net = s.net := by
  obtain ⟨dies, hu⟩ := acquireHere_true s
  refine ⟨({ s with dies := dies } : State).done 8 fun x => { x with met := false }, ?_,
    ⟨moved_of_marked (State.me_done ..) ⟨false, s.me.atSeal, s.me.imprecise, rfl⟩ (sameBytes_of_eq rfl rfl),
      fun c hc => State.ctx_done { s with dies := dies } 8 _ hc⟩, rfl, rfl⟩
  rw [← hu]
  exact if_pos (by simp only [reached, Bool.or_eq_true, decide_eq_true_eq]; exact h)

theorem mbwait_waits {s : State} {i : BitVec 8} {v : BitVec 16} (hmet : s.me.met = false)
    (h : 2 ^ 15 ≤ (tget 0 (s.core s.myCore).mb i.toNat - v).toNat) : exec (.mbwait i v) s = .next (s.waits (.mailbox i.toNat)) :=
  if_neg (by simp only [reached, hmet, Bool.false_or, decide_eq_true_eq]; exact Nat.not_lt.2 h)

variable {s : State} {a : GReg} {i : BitVec 8} {v : BitVec 16} {id : Nat}

theorem mbincRemote_own (hid : (s.me.readG a).toNat % 2 ^ 32 = id) (h : coreOf id = s.myCore) :
    exec (.mbincRemote i v a) s = exec (.mbinc i v) s := by
  subst hid
  exact if_pos h

theorem mbincRemote_outside (hid : (s.me.readG a).toNat % 2 ^ 32 = id) (h : coreOf id ≠ s.myCore) (hr : s.reaches s.cur id = false) :
    exec (.mbincRemote i v a) s = .next ((s.dropped s.cur (outsideCeaddr id i.toNat)).done 8 fun x => x) := by
  subst hid
  exact (if_neg h).trans (if_pos (by rw [hr]; rfl))

theorem mbincRemote_posts (hid : (s.me.readG a).toNat % 2 ^ 32 = id) (h : coreOf id ≠ s.myCore) (hr : s.reaches s.cur id = true)
    (hroom : s.me.countRoom (kindTo s.cur (coreOf id)) = true) :
    exec (.mbincRemote i v a) s = .next ((s.post s.cur (kindTo s.cur (coreOf id)) (.core (coreOf id))
      (.mbInc (kindTo s.cur (coreOf id)) i v)).done 8 fun x => x) := by
  subst hid
  exact ((if_neg h).trans (if_neg (by rw [hr]; decide))).trans (if_pos hroom)

end Sys2Proof.MemorySpaces

namespace Sys2Proof.MemorySpaces

open Sys2Proof Sys2Proof.Machine Sys2Proof.Safety Sys2Proof.ModuleParts

theorem me_dropped (s : State) (ceaddr : Word) : (s.dropped s.cur ceaddr).me = s.me.pend causeDropped ceaddr :=
  State.ctx_modCtx_same ..

/-- Settles O23: an own counter is put, and one of another core is told by a posted message or reported as dropped. -/
theorem mailboxInstructions : Obligations.MailboxInstructions := by
  intro s d a i v
  refine ⟨⟨_, rfl, puts_increment ..⟩, ⟨_, rfl, puts_mbPut rfl rfl rfl rfl rfl i.toNat v⟩, computes_of_setG rfl,
    mbwait_goes, fun hm h => ⟨_, mbwait_waits hm h, waits_waits ..⟩,
    fun h => ⟨_, mbincRemote_own rfl h, puts_increment ..⟩, fun h hr => ?_,
    fun h hr => ⟨_, mbincRemote_outside rfl h hr, rfl, ⟨?_, ?_⟩, ?_, fun _ _ => rfl⟩⟩
  case refine_1 =>
    intro kind hroom
    have hp := core_post s kind (.core (coreOf ((s.me.readG a).toNat % 2 ^ 32))) (.mbInc kind i v)
    obtain ⟨hposted, hregs⟩ := posted_done (s := s) (k := kind) rfl rfl (cur_post ..) (sent_send s s.cur _ _).sameBytes 8
    refine ⟨_, mbincRemote_posts rfl h hr hroom, hposted, hregs, fun c n => ?_⟩
    obtain ⟨x, hx⟩ := hp c
    change tget 0 ((s.post s.cur kind (.core (coreOf ((s.me.readG a).toNat % 2 ^ 32))) (.mbInc kind i v)).core c).mb n = _
    rw [hx]
  case refine_2 =>
    refine moved_of_marked (State.me_done ..) ?_ (sameBytes_of_eq rfl rfl)
    rw [me_dropped]
    exact marked_pend ..
  case refine_3 => exact fun c hc => (State.ctx_done (s.dropped s.cur _) 8 _ hc).trans (State.ctx_modCtx_other _ _ hc)
  case refine_4 =>
    obtain ⟨p, hp, hcause, -⟩ := pend_mem s.me (outsideCeaddr ((s.me.readG a).toNat % 2 ^ 32) i.toNat)
    refine ⟨p, ?_, hcause⟩
    rw [State.me_done, me_dropped]
    exact hp

end Sys2Proof.MemorySpaces

/-! ### Seals at an instruction (R115, R212) -/

namespace Sys2Proof.MemorySpaces

open Sys2Proof Sys2Proof.Machine Sys2Proof.Safety Sys2Proof.ModuleParts

variable (s : State)

/-- A request for a seal changes nothing but what the state says of seals. -/
theorem requestSeal_eq (capacity : Bool) : ∃ q, s.requestSeal capacity = { s with seals := q } := by
  unfold State.requestSeal
  split
  · exact ⟨_, rfl⟩
  · exact ⟨_, rfl⟩

theorem requestSeal_free (h : s.replicaPhase = false) (capacity : Bool) :
    s.requestSeal capacity = { s with seals := { s.seals with requested := true } } := by
  simp [State.requestSeal, h]

/-- The context stands still at its instruction for a seal, and nothing else of the module but what it says of seals has changed. -/
def StopsForSeal (t : State) (w : Wait) : Prop :=
  t.me.run = .waiting w ∧ t.me.atSeal = true ∧ t.me.pc = s.me.pc ∧ (∀ r, t.me.readG r = s.me.readG r) ∧
    Claim.SameBytes s t ∧ t.net = s.net

theorem stopForSeal_stops {u : State} {q : SealCtl} (hu : u = { s with seals := q }) (requested : Bool) (n : Word) :
    StopsForSeal s (u.stopForSeal requested n) (.seal requested n) := by
  subst hu
  have hme : (State.stopForSeal { s with seals := q } requested n).me =
      { s.me.wait (.seal requested n) with atSeal := true } := State.me_modMe ..
  refine ⟨by rw [hme]; exact Ctx.wait_run .., by rw [hme], ?_, fun r => ?_, sameBytes_of_eq rfl rfl, rfl⟩
  · rw [hme]; unfold Ctx.wait; split <;> rfl
  · rw [hme]; unfold Ctx.wait; split <;> rfl

/-- An instruction that goes on and ends the context's stop for a seal. -/
theorem pastSeal_wentOn : Claim.WentOn s (s.done 8 fun x => { x with atSeal := false }) 8 ∧
    (s.done 8 fun x => { x with atSeal := false }).me.atSeal = false := by
  refine ⟨⟨moved_of_marked (State.me_done ..) ⟨s.me.met, false, s.me.imprecise, rfl⟩ (sameBytes_of_eq rfl rfl),
    fun c hc => State.ctx_done s 8 _ hc⟩, ?_⟩
  rw [State.me_done]
  rfl

variable {s}

theorem sealpt_stops (h : ((s.die (dieOf s.cur)).prepared && !(s.die (dieOf s.cur)).committed) = true)
    (hw : ∀ r n, s.me.run ≠ .waiting (.seal r n)) :
    exec .sealpt s = .next (s.stopForSeal false (s.seals.split + 1)) := by
  change execSealpt s = _
  rw [execSealpt, if_pos h]
  split
  case h_1 r n hrun => exact absurd hrun (hw r n)
  all_goals rfl

/-- The split whose commit a request of now joins. -/
def joined (s : State) : Word :=
  if s.seals.running ∧ ¬(s.seals.committing = true ∧ s.seals.commitRecord = s.seals.split) then s.seals.split + 2
  else s.seals.split + 1

theorem seal_asks (hw : ∀ n, s.me.run ≠ .waiting (.seal true n)) :
    exec .seal s = .next ((s.requestSeal false).stopForSeal true (joined s)) := by
  have hn : joined s = if s.seals.running && !(s.seals.committing && s.seals.commitRecord == s.seals.split) then
      s.seals.split + 2 else s.seals.split + 1 := by
    simp [joined, Classical.or_iff_not_imp_left]
  rw [hn]
  change execSeal s = _
  unfold execSeal
  split
  case h_1 n hrun => exact absurd hrun (hw n)
  all_goals rfl

theorem seal_asked {n : Word} (hrun : s.me.run = .waiting (.seal true n)) :
    exec .seal s = if n.toNat ≤ s.seals.split.toNat then .next (s.done 8 fun x => { x with atSeal := false }) else .next s := by
  change execSeal s = _
  simp only [execSeal, hrun]

/-- Settles O26: the two instructions by what the die has prepared and by what the context waits for. -/
theorem splitInstructions : Obligations.SplitInstructions := by
  intro s
  refine ⟨fun h => ?_, fun h hw => ?_, fun hw => ⟨?_, ?_⟩, fun n hrun => ⟨fun hn => ?_, fun hn => ?_⟩⟩
  · exact ⟨_, if_neg (by simp [h]), pastSeal_wentOn s⟩
  · exact ⟨_, sealpt_stops h hw, stopForSeal_stops s (q := s.seals) rfl ..⟩
  · obtain ⟨q, hq⟩ := requestSeal_eq s false
    exact ⟨_, seal_asks hw, stopForSeal_stops s hq true (joined s)⟩
  · exact ⟨_, seal_asks hw, fun hr => by rw [requestSeal_free s hr]; rfl⟩
  · exact ⟨_, (seal_asked hrun).trans (if_pos hn), pastSeal_wentOn s⟩
  · exact (seal_asked hrun).trans (if_neg (by omega))

end Sys2Proof.MemorySpaces

/-! ### Accesses that leave the core (R91, R100 to R103, R109, R188) -/

namespace Sys2Proof.MemorySpaces

open Sys2Proof Sys2Proof.Machine Sys2Proof.Safety Sys2Proof.ModuleParts

/-- Where an access that leaves its core is sent: to a core that the mesh reaches, or to the home of a page of global memory. -/
inductive LeavesTo (s : State) (p : Place) (fe : FeQual) : Dest → Option CoreId → Nat → PostKind → FeQual → Prop
  | core {core : CoreId} {off : Nat} (h : p = .other core off) :
    LeavesTo s p fe (.core core) (some core) off (kindTo s.cur core) fe
  | home {va : Nat} (h : p = .glob va) : LeavesTo s p fe (.home (pageOf va)) none va .mem .plain

/-- The instruction has become a request whose answer the context awaits. -/
theorem asked_ask (s : State) (i : Instr) (dest : Dest) (body : Body) : Claim.Asked s (s.ask i dest body) i dest body := by
  have h := sent_send s s.cur dest body
  obtain ⟨q, hq, hsrc, hdest, hbody, hlaunch⟩ := h.net
  refine ⟨⟨q, hq, hsrc, hdest, hbody, hlaunch⟩, ?_, sameBytes_trans h.sameBytes (sameBytes_of_eq rfl rfl), fun c => ?_⟩
  · unfold State.ask
    rw [State.me_modMe, State.me, h.cur, h.ctx]
    rfl
  · obtain ⟨n, hc⟩ := h.core c
    exact (congrArg Core.fe hc :)

/-- A posted store of the current context enters the store buffer of its core. -/
theorem posted_postStore (s : State) (k : PostKind) (dest : Dest) (core : Option CoreId) (addr size data : Nat) (fe : FeQual) (ea : Word)
    (n : Nat) :
    let t := (s.postStore s.cur k dest core addr size data fe ea []).done n id
    Claim.Posted s t n k dest (.store k addr size data fe ea) ∧ (∀ r, t.me.readG r = s.me.readG r) ∧
      ∃ b, (t.core s.myCore).storeBuf = (s.core s.myCore).storeBuf ++ [b] ∧ b.ctx = s.cur ∧ b.core = core ∧ b.addr = addr ∧
        b.size = size ∧ b.data = data := by
  intro t
  have hbytes : Claim.SameBytes s (s.postStore s.cur k dest core addr size data fe ea []) :=
    sameBytes_trans (sent_send s s.cur dest _).sameBytes
      (sameBytes_trans (sameBytes_of_eq rfl rfl) (sameBytes_modCore _ (coreOf s.cur) _ fun _ => ⟨rfl, rfl, rfl⟩))
  obtain ⟨hposted, hregs⟩ := posted_done (s := s) (t := s.postStore s.cur k dest core addr size data fe ea []) (k := k) (dest := dest) (body := .store k addr size data fe ea) rfl rfl (cur_post s k dest (.store k addr size data fe ea)) hbytes n
  obtain ⟨x, hx⟩ := core_post s k dest (.store k addr size data fe ea) s.myCore
  have hcore : t.core s.myCore = (s.postStore s.cur k dest core addr size data fe ea []).core s.myCore := rfl
  refine ⟨hposted, hregs, ⟨s.nextId, s.cur, core, addr, size, data⟩, ?_, rfl, rfl, rfl, rfl, rfl⟩
  rw [hcore, State.postStore, State.myCore, State.core_modCore_same, ← State.myCore, hx]

section Sending
variable {s : State} {i : Instr} {r : MemRef} (hr : Instr.ref i = some r)
  (ok : s.me.accessRefusal r.m r.kind (MemAddr.ea r.m s.me r.off).toNat r.size = none) (wc : s.me.waitCountZero r.m.wc = true)
  {dest : Dest} {core : Option CoreId} {off : Nat} {kind : PostKind} {fe : FeQual}
  (hp : LeavesTo s (s.place s.cur r.m (MemAddr.ea r.m s.me r.off).toNat r.size) r.m.fe dest core off kind fe)
include hr ok wc hp

theorem load_leaves (hk : r.kind = .load) (h : s.rfsLoad r core off = none) :
    exec i s = .next (s.ask i dest (.load off r.size fe 0 0)) := by
  rw [exec_of_ref hr, hk]
  rw [hk] at ok
  cases hp with
  | core hp => simp only [accessOf, State.load, hr, hk, ok, wc, if_true, State.loadAt, hp, h]
  | home hp => simp only [accessOf, State.load, hr, hk, ok, wc, if_true, State.loadAt, hp, h]

theorem load_forwarded (hk : r.kind = .load) {v : Nat} (h : s.rfsLoad r core off = some v) :
    exec i s = .next (s.done r.bytes (r.land v)) := by
  rw [exec_of_ref hr, hk]
  rw [hk] at ok
  cases hp with
  | core hp => simp only [accessOf, State.load, hr, hk, ok, wc, if_true, State.loadAt, hp, h]
  | home hp => simp only [accessOf, State.load, hr, hk, ok, wc, if_true, State.loadAt, hp, h]

theorem store_leaves (hk : r.kind = .store) : exec i s = if s.storeRoom kind then
      .next ((s.postStore s.cur kind dest core off r.size (r.data s.me) fe (MemAddr.ea r.m s.me r.off) []).done r.bytes id)
    else .next (s.waits .postRoom) := by
  rw [exec_of_ref hr, hk]
  rw [hk] at ok
  cases hp with
  | core h => simp only [accessOf, State.store, hr, hk, ok, wc, if_true, State.storeAt, h]
  | home h => simp only [accessOf, State.store, hr, hk, ok, wc, if_true, State.storeAt, h]

theorem atom_leaves (hk : r.kind ≠ .load ∧ r.kind ≠ .store) (hd : ∀ op, r.kind = .amo op true → s.me.da = false) :
    exec i s = .next (s.ask i dest (r.kind.body off (s.me.readG r.b) (s.me.readG (Fin.ofNat 32 r.d)))) := by
  have hupdate : r.isUpdate s.me = none := by
    unfold MemRef.isUpdate
    split
    case h_1 op e => rw [hd op e]; rfl
    all_goals rfl
  have hatom : exec i s = s.atom i := by
    rw [exec_of_ref hr]
    cases h : r.kind with
    | load => exact absurd h hk.1
    | store => exact absurd h hk.2
    | lr | sc | amo => rfl
  rw [hatom]
  cases hp with
  | core h => simp only [State.atom, hr, ok, wc, if_true, State.atomAt, h]
  | home h => simp only [State.atom, hr, ok, wc, if_true, State.atomAt, h, hupdate]

end Sending

/-- What becomes of an access that goes to a destination: a request, an answer from the store buffer, or a posted store. -/
def GoesTo (s : State) (i : Instr) (r : MemRef) (dest : Dest) (core : Option CoreId) (off : Nat) (kind : PostKind) (fe : FeQual) : Prop :=
  (r.kind = .load → s.rfsLoad r core off = none → ∃ t, exec i s = .next t ∧ Claim.Asked s t i dest (.load off r.size fe 0 0)) ∧
  (∀ v, r.kind = .load → s.rfsLoad r core off = some v → v = overlay 0 (s.ownBytes core off r.size) ∧
    exec i s = .next (s.done r.bytes (r.land v))) ∧
  (r.kind = .lr → ∃ t, exec i s = .next t ∧ Claim.Asked s t i dest (.lr off)) ∧
  (r.kind = .sc → ∃ t, exec i s = .next t ∧ Claim.Asked s t i dest (.sc off (s.me.readG r.b).toNat)) ∧
  (∀ op dd, r.kind = .amo op dd → ∃ t, exec i s = .next t ∧
    Claim.Asked s t i dest (.amo op off (s.me.readG r.b) (s.me.readG (Fin.ofNat 32 r.d)))) ∧
  (r.kind = .store → s.storeRoom kind = true → ∃ t, exec i s = .next t ∧
    Claim.Posted s t r.bytes kind dest (.store kind off r.size (r.data s.me) fe (MemAddr.ea r.m s.me r.off)) ∧
    (∀ q, t.me.readG q = s.me.readG q) ∧
    ∃ b, (t.core s.myCore).storeBuf = (s.core s.myCore).storeBuf ++ [b] ∧ b.ctx = s.cur ∧ b.core = core ∧ b.addr = off ∧
      b.size = r.size ∧ b.data = r.data s.me) ∧
  (r.kind = .store → s.storeRoom kind = false → ∃ t, exec i s = .next t ∧ Waits s t .postRoom)

theorem rfsLoad_value {s : State} {r : MemRef} {core : Option CoreId} {off v : Nat} (h : s.rfsLoad r core off = some v) :
    v = overlay 0 (s.ownBytes core off r.size) := by
  unfold State.rfsLoad at h
  dsimp only at h
  split at h
  · exact (Option.some.inj h).symm
  · cases h

theorem goesTo_of_leavesTo {s : State} {i : Instr} {r : MemRef} (hr : Instr.ref i = some r)
    (hd : ∀ op, r.kind = .amo op true → s.me.da = false)
    (ok : s.me.accessRefusal r.m r.kind (MemAddr.ea r.m s.me r.off).toNat r.size = none) (wc : s.me.waitCountZero r.m.wc = true)
    {dest : Dest} {core : Option CoreId} {off : Nat} {kind : PostKind} {fe : FeQual}
    (hp : LeavesTo s (s.place s.cur r.m (MemAddr.ea r.m s.me r.off).toNat r.size) r.m.fe dest core off kind fe) :
    GoesTo s i r dest core off kind fe := by
  refine ⟨fun hk hf => ⟨_, load_leaves hr ok wc hp hk hf, asked_ask ..⟩,
    fun v hk hf => ⟨rfsLoad_value hf, load_forwarded hr ok wc hp hk hf⟩, fun hk => ?_, fun hk => ?_, fun op dd hk => ?_,
    fun hk hroom => ⟨_, ?_, posted_postStore ..⟩, fun hk hroom => ⟨_, ?_, waits_waits ..⟩⟩
  · have he := atom_leaves hr ok wc hp (by simp [hk]) hd
    rw [hk] at he
    exact ⟨_, he, asked_ask ..⟩
  · have he := atom_leaves hr ok wc hp (by simp [hk]) hd
    rw [hk] at he
    exact ⟨_, he, asked_ask ..⟩
  · have he := atom_leaves hr ok wc hp (by simp [hk]) hd
    rw [hk] at he
    exact ⟨_, he, asked_ask ..⟩
  · rw [store_leaves hr ok wc hp hk, if_pos hroom]
  · rw [store_leaves hr ok wc hp hk, if_neg (by simp [hroom])]

/-! #### The places of the four spaces -/

section Places
variable {s : State} {m : MemAddr} {ea size : Nat}

theorem place_clusterS (hm : m.space = .clusterS) (h : s.reaches s.cur (mkId (xOf s.cur) (yOf s.cur) (ea / 2 ^ 18 % 32) 0) = true) :
    s.place s.cur m ea size = .other (mkId (xOf s.cur) (yOf s.cur) (ea / 2 ^ 18 % 32) 0) (ea % 2 ^ 18) := by
  simp only [State.place, hm]
  exact if_pos h

theorem place_remoteS (hm : m.space = .remoteS) (h : s.reaches s.cur ((s.me.readG m.a).toNat % 2 ^ 32) = true) :
    s.place s.cur m ea size = .other (coreNamed ((s.me.readG m.a).toNat % 2 ^ 32)) ea := by
  simp only [State.place, hm]
  exact if_pos h

theorem place_global (hm : m.space = .global) : s.place s.cur m ea size =
    .glob (jaddr s.me.row.job.toNat ((s.me.readSeg m.seg).base.toNat + ea)) := by
  simp only [State.place, hm]
  rfl

/-- In the spill window past the carve-out, an access goes to the overflow area in global memory. -/
theorem place_overflow (hm : m.space = .localS) (hlo : 0x1000000 ≤ ea) (hlim : s.me.carveLimit ≤ ea - 0x1000000) (hsize : 0 < size) :
    s.place s.cur m ea size =
      .glob (jaddr s.me.row.job.toNat (16 * s.me.covf.toNat + (ea - 0x1000000 - s.me.carveLimit))) := by
  have hcovf : (s.me.covf ++ 0#4).toNat = 16 * s.me.covf.toNat := by
    rw [BitVec.toNat_append, BitVec.toNat_ofNat, Nat.zero_mod, Nat.or_zero, Nat.shiftLeft_eq, Nat.mul_comm]
  simp only [State.place, hm]
  rw [if_neg (by simp only [sSize]; omega)]
  change s.me.spillPlace (ea - 0x1000000) size = _
  rw [Ctx.spillPlace, if_neg (by omega), if_pos hlim, hcovf]

end Places

/-- Settles O19: each space places the access at a core that the mesh reaches or in global memory, and there it is sent or posted. -/
theorem accessesBeyondTheCore : Obligations.AccessesBeyondTheCore := by
  intro s i r hr hd ea k ok wc sent
  refine ⟨fun hm => ?_, fun hm => ?_, fun hm => ?_, fun hm hlim hlo => ?_⟩
  · intro core h
    exact goesTo_of_leavesTo hr hd ok wc (.core (place_clusterS hm h))
  · intro id core h
    exact goesTo_of_leavesTo hr hd ok wc (.core (place_remoteS hm h))
  · exact goesTo_of_leavesTo hr hd ok wc (.home (place_global hm))
  · exact goesTo_of_leavesTo hr hd ok wc (.home (place_overflow hm hlo hlim (size_pos_of_ref hr)))

end Sys2Proof.MemorySpaces

/-! ### Accesses of the core's own bank (R90, R187, R191, R192) -/

namespace Sys2Proof.MemorySpaces

open Sys2Proof Sys2Proof.Machine Sys2Proof.Safety Sys2Proof.ModuleParts

/-- Every access is of at most 64 bytes. -/
theorem size_le_of_ref {i : Instr} {r : MemRef} (h : Instr.ref i = some r) : r.size ≤ 64 := by
  unfold Instr.ref at h
  split at h <;> cases h <;> simp [loadRef, storeRef, atomRef]

/-- A signed field of the low bytes that a load takes. -/
theorem sx_eq_signExtend {w : Nat} (h0 : 0 < w) (v : Nat) : sx w v = (BitVec.ofNat w v).signExtend 64 := by
  unfold sx BitVec.signExtend BitVec.toInt
  dsimp only
  have h : 2 ^ w = 2 * 2 ^ (w - 1) := by rw [← Nat.pow_succ']; congr 1; omega
  simp only [BitVec.toNat_ofNat]
  by_cases hlt : v % 2 ^ w < 2 ^ (w - 1)
  · rw [if_pos hlt, if_pos (by omega)]
  · rw [if_neg hlt, if_neg (by omega)]
    norm_cast

theorem zx_eq_setWidth (w v : Nat) : zx w v = (BitVec.ofNat w v).setWidth 64 := by
  apply BitVec.eq_of_toNat_eq
  simp [zx]

theorem land_sx {r : MemRef} {w : Nat} {d : GReg} (hh : r.how = .sx w) (hd : r.d = d.val) (h0 : 0 < w) (v : Nat) (x : Ctx) :
    r.land v x = x.writeG d ((BitVec.ofNat w v).signExtend 64) := by
  rw [MemRef.land, hh, hd, ← sx_eq_signExtend h0]
  simp

theorem land_zx {r : MemRef} {w : Nat} {d : GReg} (hh : r.how = .zx w) (hd : r.d = d.val) (v : Nat) (x : Ctx) :
    r.land v x = x.writeG d ((BitVec.ofNat w v).setWidth 64) := by
  rw [MemRef.land, hh, hd, ← zx_eq_setWidth]
  simp

/-- A scalar load, its length in bytes and its offset: what it reads, and where the value lands. -/
theorem ref_of_loads {d : GReg} {m : MemAddr} {o : BitVec 12} {p : BitVec 40} {e : Instr × Nat × Nat × Word × (Nat → Word)}
    (he : e ∈ Claim.loads d m o p) : ∃ how, Instr.ref e.1 = some (loadRef m e.2.2.2.1 e.2.1 e.2.2.1 d.val how) ∧
      ∀ v x, (loadRef m e.2.2.2.1 e.2.1 e.2.2.1 d.val how).land v x = x.writeG d (e.2.2.2.2 v) := by
  have hs {w : Nat} (off : Word) (size bytes : Nat) (h0 : 0 < w) (v : Nat) (x : Ctx) :
      (loadRef m off size bytes d.val (.sx w)).land v x = x.writeG d ((BitVec.ofNat w v).signExtend 64) := land_sx rfl rfl h0 v x
  have hz (w : Nat) (off : Word) (size bytes : Nat) (v : Nat) (x : Ctx) :
      (loadRef m off size bytes d.val (.zx w)).land v x = x.writeG d ((BitVec.ofNat w v).setWidth 64) := land_zx rfl rfl v x
  have h64 (off : Word) (bytes : Nat) (v : Nat) (x : Ctx) :
      (loadRef m off 8 bytes d.val (.zx 64)).land v x = x.writeG d (BitVec.ofNat 64 v) := by rw [hz, BitVec.setWidth_eq]
  simp only [Claim.loads, List.mem_cons, List.not_mem_nil, or_false] at he
  rcases he with rfl | rfl | rfl | rfl | rfl | rfl | rfl | rfl | rfl | rfl | rfl | rfl | rfl | rfl
  · exact ⟨.sx 8, rfl, hs _ _ _ (by decide)⟩
  · exact ⟨.zx 8, rfl, hz _ _ _ _⟩
  · exact ⟨.sx 16, rfl, hs _ _ _ (by decide)⟩
  · exact ⟨.zx 16, rfl, hz _ _ _ _⟩
  · exact ⟨.sx 32, rfl, hs _ _ _ (by decide)⟩
  · exact ⟨.zx 32, rfl, hz _ _ _ _⟩
  · exact ⟨.zx 64, rfl, h64 _ _⟩
  · exact ⟨.sx 8, rfl, hs _ _ _ (by decide)⟩
  · exact ⟨.zx 8, rfl, hz _ _ _ _⟩
  · exact ⟨.sx 16, rfl, hs _ _ _ (by decide)⟩
  · exact ⟨.zx 16, rfl, hz _ _ _ _⟩
  · exact ⟨.sx 32, rfl, hs _ _ _ (by decide)⟩
  · exact ⟨.zx 32, rfl, hz _ _ _ _⟩
  · exact ⟨.zx 64, rfl, h64 _ _⟩

/-- What a store of a general register, of a pair or of a vector register takes. -/
theorem data_zx (m : MemAddr) (off : Word) (size bytes w : Nat) (d : GReg) (x : Ctx) :
    (storeRef m off size bytes d.val (.zx w)).data x = (x.readG d).toNat % 2 ^ w := by
  simp [MemRef.data, storeRef]

theorem data_zx_64 (m : MemAddr) (off : Word) (size bytes : Nat) (d : GReg) (x : Ctx) :
    (storeRef m off size bytes d.val (.zx 64)).data x = (x.readG d).toNat := by
  rw [data_zx]
  exact Nat.mod_eq_of_lt (x.readG d).isLt

theorem data_pair (m : MemAddr) (off : Word) (size bytes : Nat) (d : GReg) (x : Ctx) :
    (storeRef m off size bytes d.val .pair).data x =
      (x.readG d).toNat + 2 ^ 64 * (x.readG (Fin.ofNat 32 (d.val + 1))).toNat := by
  have hd : Fin.ofNat 32 d.val = d := by simp
  have ha (hi lo : Word) : (hi ++ lo).toNat = lo.toNat + 2 ^ 64 * hi.toNat := by
    rw [BitVec.toNat_append, ← Nat.shiftLeft_add_eq_or_of_lt lo.isLt, Nat.shiftLeft_eq, Nat.mul_comm, Nat.add_comm]
  change (x.readG (pairOf (Fin.ofNat 32 d.val)) ++ x.readG (Fin.ofNat 32 d.val)).toNat = _
  rw [hd, ha]
  rfl

theorem data_vec (m : MemAddr) (off : Word) (size bytes : Nat) (d : VReg) (x : Ctx) :
    (storeRef m off size bytes d.val .vec).data x = (x.readV d).toNat := by
  simp [MemRef.data, storeRef]

/-- A store, its length in bytes and its offset: where it writes, and the data. -/
theorem ref_of_stores {s : State} {d : GReg} {vd : VReg} {m : MemAddr} {o : BitVec 12} {p : BitVec 40}
    {e : Instr × Nat × Nat × Word × Nat} (he : e ∈ Claim.stores s d vd m o p) :
    ∃ n how, Instr.ref e.1 = some (storeRef m e.2.2.2.1 e.2.1 e.2.2.1 n how) ∧
      (storeRef m e.2.2.2.1 e.2.1 e.2.2.1 n how).data s.me = e.2.2.2.2 := by
  simp only [Claim.stores, List.mem_cons, List.not_mem_nil, or_false] at he
  rcases he with rfl | rfl | rfl | rfl | rfl | rfl | rfl | rfl | rfl | rfl | rfl | rfl
  · exact ⟨d.val, .zx 8, rfl, data_zx ..⟩
  · exact ⟨d.val, .zx 16, rfl, data_zx ..⟩
  · exact ⟨d.val, .zx 32, rfl, data_zx ..⟩
  · exact ⟨d.val, .zx 64, rfl, data_zx_64 ..⟩
  · exact ⟨d.val, .pair, rfl, data_pair ..⟩
  · exact ⟨vd.val, .vec, rfl, data_vec ..⟩
  · exact ⟨d.val, .zx 8, rfl, data_zx ..⟩
  · exact ⟨d.val, .zx 16, rfl, data_zx ..⟩
  · exact ⟨d.val, .zx 32, rfl, data_zx ..⟩
  · exact ⟨d.val, .zx 64, rfl, data_zx_64 ..⟩
  · exact ⟨d.val, .pair, rfl, data_pair ..⟩
  · exact ⟨vd.val, .vec, rfl, data_vec ..⟩

section Local
variable {s : State} {i : Instr} {r : MemRef}

/-- An access of local S that is aligned, inside S and whose counter is at zero is refused nothing and waits for nothing. -/
theorem accessRefusal_local {ea : Word} (hl : Claim.LocalAccess s r.m ea r.size) (hk : r.kind = .load ∨ r.kind = .store) :
    s.me.accessRefusal r.m r.kind ea.toNat r.size = none := by
  obtain ⟨hm, halign, hfit, -⟩ := hl
  have hlo : decide (spillLo ≤ ea.toNat) = false := decide_eq_false (by simp only [spillLo]; omega)
  have hs : s.me.spillRefused r.m r.kind ea.toNat r.size = false := by simp [Ctx.spillRefused, hlo]
  have hw : s.me.withinSpace r.m ea.toNat r.size = true := by
    simp only [Ctx.withinSpace, hm]
    exact decide_eq_true (.inl hfit)
  unfold Ctx.accessRefusal
  rw [if_neg (by omega), if_neg (by simp [hw]), if_neg (by simp [hs]), if_neg (by simp [hm])]
  rcases hk with hk | hk <;> rw [hk]

theorem waitCountZero_local {ea : Word} (hl : Claim.LocalAccess s r.m ea r.size) : s.me.waitCountZero r.m.wc = true := by
  obtain ⟨-, -, -, hnear, hfar, hmem⟩ := hl
  cases hw : r.m.wc with
  | none => rfl
  | near => exact beq_iff_eq.2 (hnear hw)
  | far => exact beq_iff_eq.2 (hfar hw)
  | mem => exact beq_iff_eq.2 (hmem hw)

theorem ea_local (hm : r.m.space = .localS) : MemAddr.ea r.m s.me r.off = s.me.readG r.m.a + r.off := by
  simp only [MemAddr.ea, hm]

theorem place_bank {m : MemAddr} {ea size : Nat} (hm : m.space = .localS) (hfit : ea + size ≤ 0x40000) (h0 : 0 < size) :
    s.place s.cur m ea size = .bank ea := by
  simp only [State.place, hm]
  exact if_pos (by simp only [sSize]; omega)

theorem load_local (hr : Instr.ref i = some r) (hk : r.kind = .load) {ea : Word} (hea : s.me.readG r.m.a + r.off = ea)
    (hl : Claim.LocalAccess s r.m ea r.size) :
    exec i s = s.loadBank r ea ea.toNat := by
  subst hea
  have hp := place_bank (s := s) hl.1 hl.2.2.1 (size_pos_of_ref hr)
  have ok := accessRefusal_local hl (.inl hk)
  rw [exec_of_ref hr, hk]
  simp only [accessOf, State.load, hr, ea_local hl.1, ok, waitCountZero_local hl, if_true, State.loadAt, hp]

theorem store_local (hr : Instr.ref i = some r) (hk : r.kind = .store) {ea : Word} (hea : s.me.readG r.m.a + r.off = ea)
    (hl : Claim.LocalAccess s r.m ea r.size) :
    exec i s = s.storeBank r ea ea.toNat r.size (r.data s.me) := by
  subst hea
  have hp := place_bank (s := s) hl.1 hl.2.2.1 (size_pos_of_ref hr)
  have ok := accessRefusal_local hl (.inr hk)
  rw [exec_of_ref hr, hk]
  simp only [accessOf, State.store, hr, ea_local hl.1, ok, waitCountZero_local hl, if_true, State.storeAt, hp]

end Local

end Sys2Proof.MemorySpaces

/-! ### Full/empty bits (R95, R96, R190) -/

namespace Sys2Proof.MemorySpaces

open Sys2Proof Sys2Proof.Machine Sys2Proof.Safety Sys2Proof.ModuleParts

/-- The granule g holds one of the n bytes from a on. -/
def Touched (a n g : Nat) : Prop := a / 16 ≤ g ∧ g ≤ (a + n - 1) / 16

theorem mem_granules {a n g : Nat} (h0 : 0 < n) : g ∈ blocks 16 a n ↔ Touched a n g := by
  have h : a / 16 ≤ (a + n - 1) / 16 := Nat.div_le_div_right (by omega)
  rw [blocks, if_neg (by omega), mem_span, Touched]
  omega

theorem allFe_iff {k : Core} {a n : Nat} (h0 : 0 < n) (full : Bool) :
    k.allFe a n full = true ↔ ∀ g, Touched a n g → tget false k.fe g = full := by
  simp [Core.allFe, mem_granules h0]

/-- With nothing recorded before it, an access has its turn. -/
theorem feTurn_of_nil {k : Core} (h : k.feWait = []) (c : CtxId) (msg : Option Nat) (a n : Nat) : k.feTurn c msg a n = true := by
  simp [Core.feTurn, h]

/-- What an access of the own bank leaves: the context, and what the bank has recorded; its undo buffer may take two lines. -/
structure BankKept (s t : State) : Prop where
  me : t.me = s.me
  cur : t.cur = s.cur
  feWait : (t.core s.myCore).feWait = (s.core s.myCore).feWait
  undo : (t.core s.myCore).undo.length ≤ (s.core s.myCore).undo.length + 2

theorem me_of_ctxs {s t : State} (hctxs : t.ctxs = s.ctxs) (hcur : t.cur = s.cur) : t.me = s.me := by
  unfold State.me State.ctx
  rw [hctxs, hcur]

/-- Logging a line writes to the undo buffer or to the die's region: no context changes. -/
theorem ctxs_logS {s t : State} {core line : Nat} (h : s.logS core line = some t) : t.ctxs = s.ctxs ∧ t.cur = s.cur := by
  unfold State.logS at h
  dsimp only at h
  split at h
  · cases h; exact ⟨rfl, rfl⟩
  split at h
  · cases h; exact ⟨rfl, rfl⟩
  · obtain ⟨u, hu, rfl⟩ := Option.map_eq_some_iff.1 h
    obtain ⟨-, hu⟩ := Option.ite_none_right_eq_some.1 hu
    cases hu
    unfold State.watchUndo
    split
    · obtain ⟨q, hq⟩ := requestSeal_eq (s.modDie (dieOf core) fun d => { d with undo := _ :: d.undo }) true
      rw [hq]
      exact ⟨rfl, rfl⟩
    · exact ⟨rfl, rfl⟩

theorem ctxs_logLines {core : CoreId} (ls : List Nat) {s t : State}
    (h : ls.foldl (fun t l => t.bind fun u : State => u.logS core l) (some s) = some t) : t.ctxs = s.ctxs ∧ t.cur = s.cur := by
  induction ls generalizing s with
  | nil => cases h; exact ⟨rfl, rfl⟩
  | cons l r ih =>
    rw [List.foldl_cons, Option.bind_some] at h
    cases hu : s.logS core l with
    | none =>
      have hnone (r : List Nat) : r.foldl (fun t l => t.bind fun u : State => u.logS core l) none = none := by
        induction r with
        | nil => rfl
        | cons _ _ ih => exact ih
      rw [hu, hnone] at h
      cases h
    | some u =>
      rw [hu] at h
      obtain ⟨hc, hr⟩ := ih h
      obtain ⟨hc', hr'⟩ := ctxs_logS hu
      exact ⟨hc.trans hc', hr.trans hr'⟩

/-- Lines of the own bank are logged while the undo buffer has room. -/
theorem logSRange_room {s : State} {a n : Nat} (hroom : (s.core s.myCore).undo.length + 2 ≤ 112) (hn : n ≤ 64) :
    ∃ t, s.logSRange s.myCore a n = some t ∧ BufferLogged s t s.myCore (blocks 128 a n).length ∧ BankKept s t := by
  have hlen := length_blocks_le (off := a) hn
  obtain ⟨t, ht, hl⟩ := logLines_room (blocks 128 a n) (s := s) (core := s.myCore) (by omega)
  obtain ⟨hctxs, hcur⟩ := ctxs_logLines _ ht
  obtain ⟨u, w, hc, hu⟩ := hl.logged
  exact ⟨t, ht, hl, me_of_ctxs hctxs hcur, hcur, by rw [hc], by rw [hc]; exact hu.trans (by omega)⟩

/-- The full/empty bits of the granules that n bytes touch have a value, and the others are as before. -/
def FeSet (s t : State) (a n : Nat) (v : Bool) : Prop := ∀ g,
  (Touched a n g → tget false (t.core s.myCore).fe g = v) ∧
  (¬Touched a n g → tget false (t.core s.myCore).fe g = tget false (s.core s.myCore).fe g)

/-- Granules of the own bank are filled or emptied while the undo buffer has room for their lines. -/
theorem setFe_room {s : State} {a n : Nat} (hroom : (s.core s.myCore).undo.length + 2 ≤ 112) (h0 : 0 < n) (hn : n ≤ 64) (v : Bool) :
    ∃ t, s.setFe s.myCore a n v = some t ∧ Claim.SameBytes s t ∧ BankKept s t ∧ FeSet s t a n v := by
  obtain ⟨t, ht, hl, hk⟩ := logSRange_room hroom hn
  obtain ⟨u, w, hc, -⟩ := hl.logged
  have hcore : ∀ c, c ≠ s.myCore → t.core c = s.core c := hl.other
  refine ⟨t.modCore s.myCore fun k => { k with fe := (blocks 16 a n).foldl (fun q g => tset false q g v) k.fe },
    by rw [State.setFe, ht, Option.map_some], ⟨fun b => ?_, fun c b => ?_⟩, ⟨hk.me, hk.cur, ?_, ?_⟩, fun g => ?_⟩
  · rw [State.modCore_gmem, hl.gmem]
  · by_cases e : c = s.myCore
    · subst e
      rw [State.core_modCore_same, hc]
      exact ⟨rfl, rfl, rfl⟩
    · rw [State.core_modCore_other _ _ e, hcore c e]
      exact ⟨rfl, rfl, rfl⟩
  · rw [State.core_modCore_same]
    exact hk.feWait
  · rw [State.core_modCore_same]
    exact hk.undo
  · rw [State.core_modCore_same]
    dsimp only
    rw [tget_foldl_tset (fun _ => v), ← mem_granules h0, hc]
    exact ⟨fun h => if_pos h, fun h => if_neg h⟩

/-- Breaking the reservations that a write of a context meets leaves that context's own. -/
theorem me_breakResvs (s : State) (h : Holder) (a n : Nat) :
    (s.breakResvs h a n (some s.cur)).me = s.me ∧ (s.breakResvs h a n (some s.cur)).cur = s.cur := by
  have hfold (l : List Resv) (t : State) (ht : t.cur = s.cur) :
      (l.foldl (fun t r => if (blocks 16 a n).contains (r.granule / 16) && some s.cur != some r.ctx then t.loseResv r.ctx else t) t).ctx s.cur =
        t.ctx s.cur ∧
      (l.foldl (fun t r => if (blocks 16 a n).contains (r.granule / 16) && some s.cur != some r.ctx then t.loseResv r.ctx else t) t).cur =
        s.cur := by
    induction l generalizing t with
    | nil => exact ⟨rfl, ht⟩
    | cons r l ih =>
      rw [List.foldl_cons]
      split
      · next hr =>
        have hne : s.cur ≠ r.ctx := by
          rintro e
          simp [e] at hr
        obtain ⟨h1, h2⟩ := ih (t.loseResv r.ctx) ((cur_loseResv ..).trans ht)
        exact ⟨h1.trans (ctx_loseResv_other _ hne), h2⟩
      · exact ih t ht
  obtain ⟨h1, h2⟩ := hfold (match h with | .bank core => (s.core core).resvs | .home port => (s.cluster port).resvs) s rfl
  refine ⟨?_, h2⟩
  unfold State.me
  rw [show (s.breakResvs h a n (some s.cur)).cur = s.cur from h2]
  exact h1

/-- A store of the current context in its own bank, which has room in its undo buffer. -/
theorem writeS_own {s : State} {a n : Nat} (v : Nat) (hroom : (s.core s.myCore).undo.length ≤ 100) (hn : n ≤ 64) :
    ∃ t, s.writeS s.myCore a n v (some s.cur) = some t ∧ Claim.StoredS s t s.myCore a n v ∧ BankKept s t ∧
      (t.core s.myCore).fe = (s.core s.myCore).fe := by
  obtain ⟨t, ht, -, -, hstored⟩ := writeS_room (off := a) v (some s.cur) hroom hn
  obtain ⟨u, hu, hl, hk⟩ := logSRange_room (a := a) (n := n) (s := s) (by omega) hn
  have hw : t = (u.modCore s.myCore fun k => { k with s := k.s.write 128 a n v }).breakResvs (.bank s.myCore) a n (some s.cur) := by
    rw [State.writeS, hu, Option.map_some] at ht
    exact (Option.some.inj ht).symm
  have hcur : (u.modCore s.myCore fun k => { k with s := k.s.write 128 a n v }).cur = s.cur := hk.cur
  obtain ⟨l, hc⟩ := (resvKept_breakResvs (u.modCore s.myCore fun k => { k with s := k.s.write 128 a n v })
    (.bank s.myCore) a n (some s.cur)).core s.myCore
  have hb := me_breakResvs (u.modCore s.myCore fun k => { k with s := k.s.write 128 a n v }) (.bank s.myCore) a n
  rw [hcur] at hb
  obtain ⟨q, w, hlog, -⟩ := hl.logged
  rw [← hw] at hc hb
  rw [State.core_modCore_same] at hc
  refine ⟨t, ht, hstored, ⟨hb.1.trans hk.me, hb.2, ?_, ?_⟩, ?_⟩
  · rw [hc]; exact hk.feWait
  · rw [hc]; exact hk.undo
  · rw [hc, hlog]

theorem storedS_sameBytes {s t u : State} {core : CoreId} {a n v : Nat} (h : Claim.StoredS s t core a n v) (hu : Claim.SameBytes t u) :
    Claim.StoredS s u core a n v :=
  ⟨fun b => (hu.1 b).trans (h.1 b), fun c b =>
    ⟨(hu.2 c b).1.trans (h.2 c b).1, (hu.2 c b).2.1.trans (h.2 c b).2.1, (hu.2 c b).2.2.trans (h.2 c b).2.2⟩⟩

/-- A recorded access of the current context waits for its first granule, and nothing else of the module has changed. -/
def RecordedWait (s t : State) (a n : Nat) : Prop :=
  t.me.run = .waiting (.granule (a / 16 * 16)) ∧ t.me.pc = s.me.pc ∧ (∀ r, t.me.readG r = s.me.readG r) ∧ Claim.SameBytes s t ∧
    (∃ w, (t.core s.myCore).feWait = [w] ∧ w.ctx = s.cur ∧ w.off = a ∧ w.size = n) ∧
    ∀ g, tget false (t.core s.myCore).fe g = tget false (s.core s.myCore).fe g

theorem waitsGranule_recorded {s : State} (h : (s.core s.myCore).feWait = []) (a n : Nat) (wantFull clear : Bool) (data : Nat) :
    RecordedWait s (s.waitsGranule a n wantFull clear data) a n := by
  have hrec : (s.core s.myCore).record { ctx := s.cur, msg := none, off := a, size := n, wantFull := wantFull, clear := clear, data := data } =
      some { s.core s.myCore with feWait := [⟨s.cur, none, a, n, wantFull, clear, data⟩] } := by
    simp [Core.record, h]
  have hme : (s.waitsGranule a n wantFull clear data).me = s.me.wait (.granule (a / 16 * 16)) := State.me_waits ..
  have hcore : (s.waitsGranule a n wantFull clear data).core s.myCore =
      { s.core s.myCore with feWait := [⟨s.cur, none, a, n, wantFull, clear, data⟩] } := by
    have hc := State.core_modCore_same s s.myCore fun k =>
      (k.record { ctx := s.cur, msg := none, off := a, size := n, wantFull := wantFull, clear := clear, data := data }).getD k
    rw [hrec] at hc
    exact hc
  refine ⟨?_, ?_, fun r => ?_, ?_, ⟨_, by rw [hcore], rfl, rfl, rfl⟩, fun g => by rw [hcore]⟩
  · rw [hme, Ctx.wait_run]
  · rw [hme, Ctx.wait]; split <;> rfl
  · rw [hme, Ctx.wait]; split <;> rfl
  · refine sameBytes_trans (sameBytes_modCore s s.myCore (fun k => (k.record _).getD k) fun k => ?_) (sameBytes_of_eq rfl rfl)
    unfold Core.record
    split
    · exact ⟨rfl, rfl, rfl⟩
    · split <;> exact ⟨rfl, rfl, rfl⟩

end Sys2Proof.MemorySpaces

namespace Sys2Proof.MemorySpaces

open Sys2Proof Sys2Proof.Machine Sys2Proof.Safety Sys2Proof.ModuleParts

section Loads
variable {s : State} {r : MemRef} {ea : Word} {a : Nat}

theorem readBackS_own (s : State) (a n : Nat) : BankKept s (s.readBackS s.myCore a n) ∧
    ((s.readBackS s.myCore a n).core s.myCore).fe = (s.core s.myCore).fe := by
  have hk (k : Core) : (k.readBackS a n).fe = k.fe ∧ (k.readBackS a n).feWait = k.feWait ∧ (k.readBackS a n).undo = k.undo := by
    unfold Core.readBackS
    split <;> exact ⟨rfl, rfl, rfl⟩
  unfold State.readBackS
  split
  · obtain ⟨hfe, hw, hu⟩ := hk (s.core s.myCore)
    refine ⟨⟨rfl, rfl, ?_, ?_⟩, ?_⟩
    · rw [State.core_modCore_same, hw]
    · rw [State.core_modCore_same, hu]; omega
    · rw [State.core_modCore_same, hfe]
  · exact ⟨⟨rfl, rfl, rfl, by omega⟩, rfl⟩

theorem bankLoad_waits (hfe : r.m.fe ≠ .plain) (h : (s.core s.myCore).allFe a r.size true = false) (own : List (Nat × Nat)) :
    s.bankLoad s.cur none s.myCore a r.size r.m.fe own = .wait := by
  unfold State.bankLoad
  dsimp only
  rw [if_pos (by simp [hfe, h])]

section Done
variable (hw : (s.core s.myCore).feWait = []) (h : (s.core s.myCore).allFe a r.size true = true) {own : List (Nat × Nat)}
  (hc : (s.core s.myCore).s.consumes a r.size own = false)
include hw h hc

/-- A .FW load whose granules are full is performed at its bank. -/
theorem bankLoad_first : s.bankLoad s.cur none s.myCore a r.size .first own =
    .done ((s.readBackS s.myCore a r.size).modCore s.myCore fun q => q.unrecord s.cur none)
      (overlay ((s.core s.myCore).s.cells.read a r.size) own) := by
  unfold State.bankLoad
  dsimp only
  rw [if_neg (by simp [h, feTurn_of_nil hw]), if_neg (by simp [hc])]

/-- A .FC load whose granules are full is performed at its bank and empties them. -/
theorem bankLoad_second {t : State} (ht : (s.readBackS s.myCore a r.size).setFe s.myCore a r.size false = some t) :
    s.bankLoad s.cur none s.myCore a r.size .second own =
      .done (t.modCore s.myCore fun q => q.unrecord s.cur none) (overlay ((s.core s.myCore).s.cells.read a r.size) own) := by
  unfold State.bankLoad
  dsimp only
  rw [if_neg (by simp [h, feTurn_of_nil hw]), if_neg (by simp [hc]), ht]

theorem bankLoad_done (hfe : r.m.fe ≠ .plain) (hroom : (s.core s.myCore).undo.length ≤ 100) (h0 : 0 < r.size) (hn : r.size ≤ 64) :
    ∃ t, s.bankLoad s.cur none s.myCore a r.size r.m.fe own = .done t (overlay ((s.core s.myCore).s.cells.read a r.size) own) ∧
      Claim.SameBytes s t ∧ t.me = s.me ∧
      (r.m.fe = .first → (t.core s.myCore).fe = (s.core s.myCore).fe) ∧ (r.m.fe = .second → FeSet s t a r.size false) := by
  obtain ⟨-, -, hbytes, -⟩ := readBackS_spec s s.myCore a r.size
  obtain ⟨hk, hkfe⟩ := readBackS_own s a r.size
  have hmy : (s.readBackS s.myCore a r.size).myCore = s.myCore := congrArg coreOf hk.cur
  have hun (u : State) : Claim.SameBytes u (u.modCore s.myCore fun q => q.unrecord s.cur none) :=
    sameBytes_modCore u s.myCore _ fun _ => ⟨rfl, rfl, rfl⟩
  cases hq : r.m.fe with
  | plain => exact absurd hq hfe
  | first =>
    exact ⟨_, bankLoad_first hw h hc, sameBytes_trans hbytes (hun _), hk.me,
      fun _ => by rw [State.core_modCore_same]; exact hkfe, by simp⟩
  | second =>
    obtain ⟨t, ht, hb, htk, hset⟩ := setFe_room (s := s.readBackS s.myCore a r.size) (a := a) (n := r.size)
      (by rw [hmy]; have := hk.undo; omega) h0 hn false
    rw [hmy] at ht
    refine ⟨_, bankLoad_second hw h hc ht, sameBytes_trans (sameBytes_trans hbytes hb) (hun _), htk.me.trans hk.me, by simp,
      fun _ g => ?_⟩
    rw [State.core_modCore_same]
    have := hset g
    rwa [hmy, hkfe] at this

end Done

/-- What a load of the own bank leaves when it is done. -/
theorem loadBank_done {v : Nat} {t : State} (hacq : r.acquires = true)
    (h : s.bankLoad s.cur none s.myCore a r.size r.m.fe (s.ownBytes (some s.myCore) a r.size) = .done t v) :
    ∃ dies, s.loadBank r ea a = .next (({ t with dies := dies } : State).done r.bytes (r.land v)) := by
  obtain ⟨dies, hd⟩ := acquireHere_true t
  exact ⟨dies, by unfold State.loadBank; dsimp only; rw [h, hacq, ← hd]⟩

theorem loadBank_waits
    (h : s.bankLoad s.cur none s.myCore a r.size r.m.fe (s.ownBytes (some s.myCore) a r.size) = .wait) :
    s.loadBank r ea a = .next (s.waitsGranule a r.size true (r.m.fe == .second) 0) := by
  unfold State.loadBank
  dsimp only
  rw [h]

end Loads

section Stores
variable {s : State} {r : MemRef} {ea : Word} {a n : Nat}

theorem bankStore_waits (h : (s.core s.myCore).allFe a n false = false) (v : Nat) :
    s.bankStore s.cur none s.myCore a n v .second = .wait := by
  unfold State.bankStore
  dsimp only
  rw [if_pos (by simp [h])]

/-- A .SE store, or a .EE store whose granules are empty, is performed at its bank and fills them. -/
theorem bankStore_done {fe : FeQual} (hfe : fe ≠ .plain) (hw : (s.core s.myCore).feWait = [])
    (hroom : (s.core s.myCore).undo.length ≤ 100) (h0 : 0 < n) (hn : n ≤ 64)
    (h : fe = .first ∨ (s.core s.myCore).allFe a n false = true) (hp : (s.core s.myCore).s.poisonedPart a n = false) (v : Nat) :
    ∃ t, s.bankStore s.cur none s.myCore a n v fe = .done t 0 ∧ Claim.StoredS s t s.myCore a n v ∧ t.me = s.me ∧
      FeSet s t a n true := by
  obtain ⟨u, hu, hstored, hk, hkfe⟩ := writeS_own (s := s) (a := a) (n := n) v hroom hn
  have hmy : u.myCore = s.myCore := congrArg coreOf hk.cur
  obtain ⟨t, ht, hb, htk, hset⟩ := setFe_room (s := u) (a := a) (n := n) (by rw [hmy]; have := hk.undo; omega) h0 hn true
  rw [hmy] at ht
  have hfe' : FeSet s t a n true := fun g => by have := hset g; rwa [hmy, hkfe] at this
  have hs : Claim.StoredS s t s.myCore a n v := storedS_sameBytes hstored hb
  unfold State.bankStore
  dsimp only
  cases fe with
  | plain => exact absurd rfl hfe
  | first =>
    refine ⟨t, ?_, hs, htk.me.trans hk.me, hfe'⟩
    rw [if_neg (by simp), if_neg (by simp [hp]), hu]
    dsimp only
    rw [ht]
  | second =>
    have hall : (s.core s.myCore).allFe a n false = true := h.resolve_left (by simp)
    refine ⟨t.modCore s.myCore fun q => q.unrecord s.cur none, ?_,
      storedS_sameBytes hs (sameBytes_modCore t s.myCore _ fun _ => ⟨rfl, rfl, rfl⟩), htk.me.trans hk.me, fun g => ?_⟩
    · rw [if_neg (by simp [hall, feTurn_of_nil hw]), if_neg (by simp [hp]), hu]
      dsimp only
      rw [ht]
    · rw [State.core_modCore_same]
      exact hfe' g

end Stores

/-! #### The two kinds of access with a full/empty qualifier -/

section FullEmpty
variable {s : State} {i : Instr} {r : MemRef} (hr : Instr.ref i = some r) {ea : Word} (hea : s.me.readG r.m.a + r.off = ea)
  (hl : Claim.LocalAccess s r.m ea r.size) (hw : (s.core s.myCore).feWait = [])
include hr hea hl hw

theorem load_recorded (hfe : r.m.fe ≠ .plain) (hk : r.kind = .load)
    (hall : (s.core s.myCore).allFe ea.toNat r.size true = false) :
    ∃ t, exec i s = .next t ∧ RecordedWait s t ea.toNat r.size :=
  ⟨_, (load_local hr hk hea hl).trans (loadBank_waits (bankLoad_waits hfe hall _)), waitsGranule_recorded hw ..⟩

theorem load_performed (hfe : r.m.fe ≠ .plain) (hroom : (s.core s.myCore).undo.length ≤ 100) (hk : r.kind = .load) {d : GReg}
    {val : Nat → Word} (hland : ∀ v x, r.land v x = x.writeG d (val v))
    (hc : (s.core s.myCore).s.consumes ea.toNat r.size
      (s.ownBytes (some s.myCore) ea.toNat r.size) = false)
    (hall : (s.core s.myCore).allFe ea.toNat r.size true = true) :
    ∃ t, exec i s = .next t ∧ Claim.SameBytes s t ∧
      (∀ q, t.me.readG q = if q = d ∧ q ≠ 0 then val (overlay ((s.core s.myCore).s.cells.read ea.toNat r.size)
        (s.ownBytes (some s.myCore) ea.toNat r.size)) else s.me.readG q) ∧
      t.me.pc = s.me.pc + BitVec.ofNat 64 r.bytes ∧ t.me.run = .active ∧
      (r.m.fe = .first → (t.core s.myCore).fe = (s.core s.myCore).fe) ∧
      (r.m.fe = .second → FeSet s t ea.toNat r.size false) := by
  obtain ⟨t, ht, hbytes, hme, hfirst, hsecond⟩ := bankLoad_done hw hall hc hfe hroom (size_pos_of_ref hr) (size_le_of_ref hr)
  have hacq : r.acquires = true := by simp [MemRef.acquires, hk, hfe]
  obtain ⟨dies, hd⟩ := loadBank_done (ea := ea) hacq ht
  let v := overlay ((s.core s.myCore).s.cells.read ea.toNat r.size) (s.ownBytes (some s.myCore) ea.toNat r.size)
  obtain ⟨g, hg, hreads⟩ := writeG_reads s.me d (val v)
  have hme' : (({ t with dies := dies } : State).done r.bytes (r.land v)).me = ({ s.me with g := g } : Ctx).advance r.bytes := by
    rw [State.me_done, hland, ← hg, ← hme]
    rfl
  refine ⟨_, (load_local hr hk hea hl).trans hd, sameBytes_trans hbytes (sameBytes_of_eq rfl rfl), fun q => ?_, ?_, ?_, hfirst, hsecond⟩
  · rw [hme']; exact hreads q
  · rw [hme']; rfl
  · rw [hme']; rfl

theorem store_recorded (hfe : r.m.fe = .second) (hk : r.kind = .store)
    (hp : s.passes ea.toNat r.size = false)
    (hall : (s.core s.myCore).allFe ea.toNat r.size false = false) :
    ∃ t, exec i s = .next t ∧ RecordedWait s t ea.toNat r.size := by
  refine ⟨_, (store_local hr hk hea hl).trans ?_, waitsGranule_recorded hw _ _ false false (r.data s.me)⟩
  unfold State.storeBank
  rw [if_neg (by rw [hp]; decide), hfe, bankStore_waits hall]

theorem store_performed (hfe : r.m.fe ≠ .plain) (hroom : (s.core s.myCore).undo.length ≤ 100) (hk : r.kind = .store)
    (hp : s.passes ea.toNat r.size = false)
    (hpoison : (s.core s.myCore).s.poisonedPart ea.toNat r.size = false)
    (hall : r.m.fe = .first ∨ (s.core s.myCore).allFe ea.toNat r.size false = true) :
    ∃ t, exec i s = .next t ∧ Claim.StoredS s t s.myCore ea.toNat r.size (r.data s.me) ∧
      FeSet s t ea.toNat r.size true ∧ t.me = s.me.advance r.bytes := by
  obtain ⟨t, ht, hstored, hme, hset⟩ := bankStore_done hfe hw hroom (size_pos_of_ref hr) (size_le_of_ref hr) hall hpoison (r.data s.me)
  refine ⟨t.stampHere.done r.bytes id, (store_local hr hk hea hl).trans ?_, storedS_sameBytes hstored (sameBytes_of_eq rfl rfl), hset, ?_⟩
  · unfold State.storeBank
    rw [if_neg (by rw [hp]; decide), ht]
  · rw [State.me_done, ← hme]
    rfl

end FullEmpty

/-- Settles O18: with an empty wait table an access has its turn, so the bits of its granules alone decide. -/
theorem fullEmptyAccesses : Obligations.FullEmptyAccesses := by
  intro s d vd m o p k hw hroom hfe touched all bits waits
  refine ⟨fun e he => ?_, fun e he => ?_⟩
  · intro ea own hl hc
    obtain ⟨how, hr, hland⟩ := ref_of_loads he
    have h0 : 0 < e.2.1 := size_pos_of_ref hr
    refine ⟨fun hall => ?_, fun hall => ?_⟩
    · obtain ⟨t, ht, hb, hg, hpc, hrun, hfirst, hsecond⟩ :=
        load_performed hr rfl hl hw hfe hroom rfl hland hc ((allFe_iff h0 true).2 hall)
      exact ⟨t, ht, hb, hg, hpc, hrun, fun h g => by rw [hfirst h], hsecond⟩
    · exact load_recorded hr rfl hl hw hfe rfl (Bool.eq_false_iff.2 fun h => hall ((allFe_iff h0 true).1 h))
  · intro ea hl hp hpoison
    obtain ⟨n, how, hr, hdata⟩ := ref_of_stores he
    have h0 : 0 < e.2.1 := size_pos_of_ref hr
    refine ⟨fun hall => ?_, fun hsecond hall => ?_⟩
    · obtain ⟨t, ht, hstored, hset, hme⟩ :=
        store_performed hr rfl hl hw hfe hroom rfl hp hpoison (hall.imp_right (allFe_iff h0 false).2)
      rw [hdata] at hstored
      exact ⟨t, ht, hstored, hset, hme⟩
    · exact store_recorded hr rfl hl hw hsecond rfl hp (Bool.eq_false_iff.2 fun h => hall ((allFe_iff h0 false).1 h))

end Sys2Proof.MemorySpaces

/-! ### What comes back to a context (R100, R102, R188, R199, R208) -/

namespace Sys2Proof.MemorySpaces

open Sys2Proof Sys2Proof.Machine Sys2Proof.Safety Sys2Proof.ModuleParts

/-- What the observation of a clock leaves: it may change clocks of dies and what the context has seen. -/
theorem observe_eq (s : State) (c : CtxId) (acquires : Bool) (clock : SMap Nat) :
    (∃ dies, s.observe c acquires clock = { s with dies := dies }) ∨
      ∃ seen, s.observe c acquires clock = s.setCtx c { s.ctx c with seen := seen } := by
  unfold State.observe
  split
  · exact .inl ⟨_, rfl⟩
  · exact .inr ⟨_, rfl⟩

/-- A message has been taken from the network for a context, which may have seen more clocks since. -/
structure TakenFor (s t : State) (m : Msg) : Prop where
  net : t.net = s.net.filter fun q => q.id != m.id
  bytes : Claim.SameBytes s t
  ctx : ∃ seen, t.ctx m.src = { s.ctx m.src with seen := seen }

theorem takenFor_drop (s : State) (m : Msg) : TakenFor s (s.dropMsg m.id) m :=
  ⟨rfl, sameBytes_of_eq rfl rfl, (s.ctx m.src).seen, rfl⟩

theorem takenFor_observe (s : State) (m : Msg) (acquires : Bool) (clock : SMap Nat) :
    TakenFor s ((s.dropMsg m.id).observe m.src acquires clock) m := by
  rcases observe_eq (s.dropMsg m.id) m.src acquires clock with ⟨dies, h⟩ | ⟨seen, h⟩ <;> rw [h]
  · exact ⟨rfl, sameBytes_of_eq rfl rfl, (s.ctx m.src).seen, rfl⟩
  · exact ⟨rfl, sameBytes_of_eq rfl rfl, seen, State.ctx_setCtx_same ..⟩

theorem takenFor_acquire (s : State) (m : Msg) (clock : SMap Nat) : TakenFor s ((s.dropMsg m.id).acquire m.src clock) m :=
  ⟨rfl, sameBytes_of_eq rfl rfl, (s.ctx m.src).seen, rfl⟩

/-- The context of an answer has gone on after `bytes` bytes as y, and nothing was stored. -/
def Resumed (s t : State) (m : Msg) (bytes : Nat) (y : Ctx) : Prop :=
  Claim.Taken s t m ∧ Claim.SameBytes s t ∧ t.ctx m.src = y.advance bytes

theorem resumed_done {s t : State} {m : Msg} (h : TakenFor s t m) (bytes : Nat) (f : Ctx → Ctx) :
    ∃ seen, Resumed s (t.asCtx m.src fun w => w.done bytes f) m bytes (f { s.ctx m.src with seen := seen }) := by
  obtain ⟨hnet, hbytes, seen, hctx⟩ := h
  have hdone : (t.asCtx m.src fun w => w.done bytes f) = t.modCtx m.src fun x => (f x).advance bytes := rfl
  refine ⟨seen, ?_⟩
  rw [hdone]
  exact ⟨hnet, sameBytes_trans hbytes (sameBytes_modCtx ..), by rw [State.ctx_modCtx_same, hctx]⟩

/-- Without flags, what an instruction performs is only its effect on the context. -/
theorem performed_zero (s : State) (bytes : Nat) (f : Ctx → Ctx) : s.performed bytes 0 f = s.done bytes fun x => (f x).raise 0 :=
  if_pos (by simp)

theorem Resumed.goesOn {s t : State} {m : Msg} {bytes : Nat} {y : Ctx} (h : Resumed s t m bytes y) (hpc : y.pc = (s.ctx m.src).pc) :
    Claim.Taken s t m ∧ Claim.SameBytes s t ∧ (t.ctx m.src).pc = (s.ctx m.src).pc + BitVec.ofNat 64 bytes ∧
      (t.ctx m.src).run = .active := by
  obtain ⟨hnet, hbytes, hctx⟩ := h
  exact ⟨hnet, hbytes, by rw [hctx, Ctx.advance_pc, hpc], by rw [hctx]; rfl⟩

theorem count_setCount (x : Ctx) (k : PostKind) (n : BitVec 12) : (x.setCount k n).count k = n := by cases k <;> rfl

section Arrivals
variable {s : State} {m : Msg} (hb : Claim.Back s m)
include hb

/-! #### Acknowledgements -/

/-- A store of a core that has been acknowledged leaves its store buffer. -/
def withoutStore (n : Nat) (q : Core) : Core := { q with storeBuf := q.storeBuf.filter fun e => e.msg != n }

/-- An acknowledgement to a context that the same launch still binds. -/
theorem postedStoreAck {k : PostKind} {n : Nat} (hbody : m.body = .ack k n) (hsaved : s.savedFor (coreOf m.src) m.launch = false)
    (hlaunch : (s.ctx m.src).row.launch.toNat = m.launch) : exec (.postedStoreAck m.id) s =
      .next (((s.modCtx m.src fun x => x.lower k).modCore (coreOf m.src) (withoutStore n)).dropMsg m.id) := by
  obtain ⟨hm, hord⟩ := hb
  have hsender : (s.modSender m fun x => x.lower k) = s.modCtx m.src fun x => x.lower k := by
    rw [State.modSender, State.modHeld, if_neg (by simp [hsaved]), if_pos hlaunch]
  have hsaved' : (s.modCtx m.src fun x => x.lower k).savedFor (coreOf m.src) m.launch = false := hsaved
  change execPostedStoreAck m.id s = _
  simp only [execPostedStoreAck, hm, hbody, hord, if_true, State.acked, hsender, State.modSenderCore, hsaved', Bool.false_eq_true, if_false]
  rfl

/-! #### Replies -/

theorem reply_discarded {of_ v : Nat} {f : Flags} {mark : ReplyMark} (hbody : m.body = .reply of_ v f mark) (hshut : s.shut m = false)
    (hpres : s.present m = false) : exec (.remoteReplyArrival m.id) s = .next (s.dropMsg m.id) := by
  obtain ⟨hm, hord⟩ := hb
  change execRemoteReplyArrival m.id s = _
  simp only [execRemoteReplyArrival, hm, hbody]
  rw [if_neg (by simp [hshut, hord]), if_pos (by simp [hpres])]

theorem reply_taken {of_ v : Nat} {f : Flags} {mark : ReplyMark} {i : Instr} (hbody : m.body = .reply of_ v f mark) (hshut : s.shut m = false)
    (hpres : s.present m = true) (hasking : (s.core (coreOf m.src)).pipe.asking of_ = none) (hrun : (s.ctx m.src).run = .reply i) :
    exec (.remoteReplyArrival m.id) s = .next (s.takeReply m none i v f mark) := by
  obtain ⟨hm, hord⟩ := hb
  have hawaited : s.awaited m.src none = some i := by simp only [State.awaited, hrun]
  change execRemoteReplyArrival m.id s = _
  simp only [execRemoteReplyArrival, hm, hbody, hasking, hawaited]
  rw [if_neg (by simp [hshut, hord]), if_neg (by simp [hpres]), if_neg (by simp)]

theorem reply_loads {d : GReg} {m' : MemAddr} {o : BitVec 12} {p : BitVec 40} {e : Instr × Nat × Nat × Word × (Nat → Word)}
    (he : e ∈ Claim.loads d m' o p) {of_ v : Nat} (hbody : m.body = .reply of_ v 0 .ok) (hshut : s.shut m = false)
    (hpres : s.present m = true) (hasking : (s.core (coreOf m.src)).pipe.asking of_ = none) (hrun : (s.ctx m.src).run = .reply e.1) :
    ∃ t seen, exec (.remoteReplyArrival m.id) s = .next t ∧
      Resumed s t m e.2.2.1 ((({ s.ctx m.src with seen := seen } : Ctx).writeG d (e.2.2.2.2 v)).raise 0) := by
  obtain ⟨how, hr, hland⟩ := ref_of_loads he
  have hlanded (w : State) : w.landed e.1 v 0 = w.done e.2.2.1 fun x => (x.writeG d (e.2.2.2.2 v)).raise 0 := by
    have hnot : ∀ d b m off, e.1 ≠ .vldx d b m off := by
      rintro d b m off h
      rw [h] at hr
      cases hr
    unfold State.landed
    split
    case h_1 h => exact (hnot _ _ _ _ h).elim
    rw [hr]
    dsimp only
    rw [performed_zero]
    simp only [hland]
    rfl
  obtain ⟨seen, h⟩ := resumed_done (takenFor_observe s m (Instr.acquiring e.1) m.clock) e.2.2.1
    fun x => (x.writeG d (e.2.2.2.2 v)).raise 0
  refine ⟨_, seen, reply_taken hb hbody hshut hpres hasking hrun, ?_⟩
  simp only [State.takeReply, State.comeBack, hlanded]
  exact h

/-! #### Fence stamps -/

theorem stampReturn {n : Nat} (hbody : m.body = .stamp n) (hshut : s.shut m = false) (hpres : s.present m = true)
    (hasked : (s.core (coreOf m.src)).pipe.asked (kOf m.src) = none) :
    ∃ t seen, exec (.fenceStampReturn m.id) s = .next t ∧ Resumed s t m 8 { s.ctx m.src with seen := seen } := by
  obtain ⟨hm, hord⟩ := hb
  obtain ⟨seen, h⟩ := resumed_done (takenFor_acquire s m m.clock) 8 id
  refine ⟨_, seen, ?_, h⟩
  change execFenceStampReturn m.id s = _
  simp only [execFenceStampReturn, hm, hbody, hasked, State.comeBack]
  rw [if_neg (by simp [hshut, hord]), if_neg (by simp [hpres])]

/-! #### Squad answers -/

/-- The state in which the answer to an instruction comes to its context. -/
def answering (s : State) (m : Msg) (i : Instr) : State :=
  if observesGeneration i then (s.dropMsg m.id).observe m.src true m.clock else s.dropMsg m.id

omit hb in
theorem takenFor_answering (s : State) (m : Msg) (i : Instr) : TakenFor s (answering s m i) m := by
  unfold answering
  split
  · exact takenFor_observe ..
  · exact takenFor_drop ..

theorem squadAnswer {v st : Word} {reason : Nat} {performed : Bool} {gen : BitVec 16} {i : Instr}
    (hbody : m.body = .answer v st 0 reason performed gen) (hshut : s.shut m = false) (hpres : s.present m = true)
    (hasked : (s.core (coreOf m.src)).pipe.asked (kOf m.src) = none) (hrun : (s.ctx m.src).run = .reply i) (hi : isSquad i = true) :
    exec (.squadAnswer m.id) s =
      .next ((answering s m i).asCtx m.src fun w => w.squadAnswered i v st 0 reason performed gen) := by
  obtain ⟨hm, hord⟩ := hb
  have hawaited : s.awaited m.src none = some i := by simp only [State.awaited, hrun]
  change execSquadAnswer m.id s = _
  simp only [execSquadAnswer, hm, hbody, hasked, hpres, if_true, hawaited, hi]
  rw [if_neg (by simp [hshut, hord])]
  rfl

theorem squadAnswer_lands {v st : Word} {performed : Bool} {gen : BitVec 16} {i : Instr}
    (hbody : m.body = .answer v st 0 0 performed gen) (hshut : s.shut m = false) (hpres : s.present m = true)
    (hasked : (s.core (coreOf m.src)).pipe.asked (kOf m.src) = none) (hrun : (s.ctx m.src).run = .reply i) (hi : isSquad i = true) :
    ∃ t seen, exec (.squadAnswer m.id) s = .next t ∧
      Resumed s t m 8 ((squadLand i v st { s.ctx m.src with seen := seen }).raise 0) := by
  obtain ⟨seen, h⟩ := resumed_done (takenFor_answering s m i) 8 fun x => (squadLand i v st x).raise 0
  have hanswered (w : State) : w.squadAnswered i v st 0 0 performed gen = w.done 8 fun x => (squadLand i v st x).raise 0 := by
    rw [State.squadAnswered, if_pos rfl, performed_zero]
  refine ⟨_, seen, squadAnswer hb hbody hshut hpres hasked hrun hi, ?_⟩
  simp only [hanswered]
  exact h

/-- An answer with a reason is the trap SQUAD of its instruction, with cepc after it when it was performed. -/
theorem squadAnswer_traps {v st : Word} {reason : Nat} {performed : Bool} {gen : BitVec 16} {i : Instr}
    (hbody : m.body = .answer v st 0 reason performed gen) (hshut : s.shut m = false) (hpres : s.present m = true)
    (hasked : (s.core (coreOf m.src)).pipe.asked (kOf m.src) = none) (hrun : (s.ctx m.src).run = .reply i) (hi : isSquad i = true)
    (hreason : reason ≠ 0) (hl : (s.ctx m.src).hl = false) :
    ∃ t, exec (.squadAnswer m.id) s = .next t ∧ (t.ctx m.src).hl = true ∧ (t.ctx m.src).pc = (s.ctx m.src).cvec ++ 0#2 ∧
      (t.ctx m.src).ctrap = 0x0C ∧ (t.ctx m.src).cepc =
        (if performed then (s.ctx m.src).pc + 8 else (s.ctx m.src).pc).extractLsb' 2 62 ∧
      ∀ r, (t.ctx m.src).readG r = (s.ctx m.src).readG r := by
  obtain ⟨-, -, seen, hctx⟩ := takenFor_answering s m i
  let w : State := { answering s m i with cur := m.src }
  have hme : w.me = { s.ctx m.src with seen := seen } := hctx
  have hl' : w.me.hl = false := by rw [hme]; exact hl
  have htrap : w.squadAnswered i v st 0 reason performed gen = w.trap causeSquad (squadCeaddr (w.me.handleOf i) reason gen)
      (if performed then w.me.pc + 8 else w.me.pc) := if_neg hreason
  have hctx' : (((answering s m i).asCtx m.src fun w => w.squadAnswered i v st 0 reason performed gen).ctx m.src) =
      (w.trap causeSquad (squadCeaddr (w.me.handleOf i) reason gen) (if performed then w.me.pc + 8 else w.me.pc)).me := by
    rw [← htrap, State.me, htrap, cur_trap_task hl', ← htrap]
    rfl
  refine ⟨_, squadAnswer hb hbody hshut hpres hasked hrun hi, ?_⟩
  rw [hctx', me_trap_task hl', hme]
  exact ⟨rfl, rfl, rfl, rfl, fun _ => rfl⟩

end Arrivals

/-! #### The registers that an answer writes -/

theorem readG_writeG_ne (x : Ctx) (d : GReg) (v : Word) (r : GReg) : (x.writeG d v).readG r = if r = d ∧ r ≠ 0 then v else x.readG r := by
  rw [Ctx.readG_writeG]
  exact if_congr (and_congr_right fun e => by rw [e]) rfl rfl

/-- An answer that its instruction takes: the context has gone on, and its registers are as given. -/
def AnsweredWith (s t : State) (m : Msg) (hs : HReg → BitVec 16) (g : GReg → Word) : Prop :=
  (Claim.Taken s t m ∧ Claim.SameBytes s t ∧ (t.ctx m.src).pc = (s.ctx m.src).pc + BitVec.ofNat 64 8 ∧ (t.ctx m.src).run = .active) ∧
    (∀ r, (t.ctx m.src).readH r = hs r) ∧ ∀ r, (t.ctx m.src).readG r = g r

theorem Resumed.answeredWith {s t : State} {m : Msg} {y : Ctx} (h : Resumed s t m 8 (y.raise 0)) {hs : HReg → BitVec 16}
    {g : GReg → Word} (hpc : y.pc = (s.ctx m.src).pc) (hh : ∀ r, y.readH r = hs r) (hg : ∀ r, y.readG r = g r) :
    AnsweredWith s t m hs g := by
  refine ⟨h.goesOn hpc, fun r => ?_, fun r => ?_⟩
  · rw [h.2.2]; exact hh r
  · rw [h.2.2]; exact hg r

/-- A squad instruction whose answer writes g[d] := v. -/
def Valued (i : Instr) (d : GReg) : Prop := isSquad i = true ∧ ∀ v st x, squadLand i v st x = x.writeG d v

/-- A squad instruction whose answer writes no register. -/
def Plain (i : Instr) : Prop := isSquad i = true ∧ ∀ v st x, squadLand i v st x = x

/-- Settles O42: what is taken in order comes back to its context, and there the awaited instruction says what it writes. -/
theorem answersAtTheirSenders : Obligations.AnswersAtTheirSenders := by
  intro s m hb x p goesOn
  refine ⟨fun k n hbody hsaved hlaunch hk => ?_, fun d a o w of_ v e he hbody hshut hpres hasking hrun => ?_,
    fun of_ v f mark hbody hshut hpres => reply_discarded hb hbody hshut hpres, fun hbody hready => ?_,
    fun n hbody hshut hpres hasked => ?_, fun v st gen performed reason hbody hshut hpres hasked => ?_⟩
  case refine_1 =>
    refine ⟨_, postedStoreAck hb hbody hsaved hlaunch, rfl, ?_, ?_, ?_⟩
    · have hcore : Claim.SameBytes (s.modCtx m.src fun x => x.lower k)
          ((s.modCtx m.src fun x => x.lower k).modCore (coreOf m.src) (withoutStore n)) :=
        sameBytes_modCore _ _ _ fun _ => ⟨rfl, rfl, rfl⟩
      exact sameBytes_trans (sameBytes_modCtx ..) (sameBytes_trans hcore (sameBytes_of_eq rfl rfl))
    · have hctx := State.ctx_modCtx_same s m.src fun x => x.lower k
      refine (congrArg (Ctx.count · k) hctx).trans ?_
      rw [Ctx.lower, if_neg hk, count_setCount]
    · have hcore := State.core_modCore_same (s.modCtx m.src fun x => x.lower k) (coreOf m.src) (withoutStore n)
      exact (congrArg Core.storeBuf hcore :)
  case refine_2 =>
    obtain ⟨t, seen, ht, h⟩ := reply_loads hb he hbody hshut hpres hasking hrun
    refine ⟨t, ht, h.goesOn (Ctx.writeG_pc ..), fun r => ?_⟩
    rw [h.2.2]
    exact readG_writeG_ne ..
  case refine_3 =>
    obtain ⟨hm, -⟩ := hb
    refine ⟨(({ s with sequencer := ⟨s.sequencer.served + 1, mergeClocks s.sequencer.clock m.clock⟩ }.dropMsg m.id).sendWith m.src m.launch
      .sequencer (.ctx m.src) (.stamp (s.sequencer.served + 1)) (mergeClocks s.sequencer.clock m.clock)), _, ?_, rfl, rfl, rfl, rfl, fun _ => rfl⟩
    change execFenceStampRequest m.id s = _
    simp only [execFenceStampRequest, hm, hbody]
    rw [if_neg (by simp [hready])]
  case refine_4 =>
    obtain ⟨t, seen, ht, h⟩ := stampReturn hb hbody hshut hpres hasked
    refine ⟨t, ht, h.goesOn rfl, fun r => ?_⟩
    rw [h.2.2]
    rfl
  case refine_5 =>
    intro d a b h gang self n vop op ty open_ valued plain answered
    have hvalued : ∀ i ∈ valued, Valued i d := by
      simp only [valued, List.forall_mem_cons]
      exact ⟨⟨rfl, fun _ _ _ => rfl⟩, ⟨rfl, fun _ _ _ => rfl⟩, ⟨rfl, fun _ _ _ => rfl⟩, ⟨rfl, fun _ _ _ => rfl⟩,
        ⟨rfl, fun _ _ _ => rfl⟩, ⟨rfl, fun _ _ _ => rfl⟩, fun _ h => absurd h List.not_mem_nil⟩
    have hplain : ∀ i ∈ plain, Plain i := by
      simp only [plain, List.forall_mem_cons]
      exact ⟨⟨rfl, fun _ _ _ => rfl⟩, ⟨rfl, fun _ _ _ => rfl⟩, ⟨rfl, fun _ _ _ => rfl⟩, ⟨rfl, fun _ _ _ => rfl⟩,
        fun _ h => absurd h List.not_mem_nil⟩
    refine ⟨fun hrun hreason => ?_, fun i hi hrun hreason => ?_, fun i hi hrun hreason => ?_, fun i hi hrun hreason hl => ?_⟩
    · subst hreason
      obtain ⟨t, seen, ht, hres⟩ := squadAnswer_lands hb hbody hshut hpres hasked hrun rfl
      exact ⟨t, ht, hres.answeredWith (Ctx.writeG_pc ..) (fun r => (Ctx.writeG_readH ..).trans (Ctx.readH_writeH ..))
        (fun r => readG_writeG_ne ..)⟩
    · subst hreason
      obtain ⟨hsquad, hland⟩ := hvalued i hi
      obtain ⟨t, seen, ht, hres⟩ := squadAnswer_lands hb hbody hshut hpres hasked hrun hsquad
      rw [hland] at hres
      exact ⟨t, ht, hres.answeredWith (Ctx.writeG_pc ..) (fun r => Ctx.writeG_readH ..) (fun r => readG_writeG_ne ..)⟩
    · subst hreason
      obtain ⟨hsquad, hland⟩ := hplain i hi
      obtain ⟨t, seen, ht, hres⟩ := squadAnswer_lands hb hbody hshut hpres hasked hrun hsquad
      rw [hland] at hres
      exact ⟨t, ht, hres.answeredWith rfl (fun _ => rfl) (fun _ => rfl)⟩
    · have hsquad : isSquad i = true := by
        rcases List.mem_cons.1 hi with rfl | hi
        · rfl
        · rcases List.mem_append.1 hi with hi | hi
          · exact (hvalued i hi).1
          · exact (hplain i hi).1
      exact squadAnswer_traps hb hbody hshut hpres hasked hrun hsquad hreason hl

end Sys2Proof.MemorySpaces

/-! ### Quiescence and the hold of contexts (R113, R114) -/

namespace Sys2Proof.MemorySpaces

open Sys2Proof Sys2Proof.Machine Sys2Proof.Safety Sys2Proof.ModuleParts

/-- The state with other words on seals and on dies, which say nothing of what a context does. -/
def sealing (s : State) (q : SealCtl) (ds : SMap Die) : State := { s with seals := q, dies := ds }

section Quiet
variable (s : State) (q : SealCtl) (ds : SMap Die) (c : CtxId)

theorem modCtx_sealing (f : Ctx → Ctx) : (sealing s q ds).modCtx c f = sealing (s.modCtx c f) q ds := rfl

theorem settle_sealing (fuel : Nat) : State.settle c fuel (sealing s q ds) = sealing (State.settle c fuel s) q ds := by
  induction fuel generalizing s with
  | zero => rfl
  | succ fuel ih =>
    have hcheck (u : State) (pc : Nat) : (sealing u q ds).fetchCheck c pc = u.fetchCheck c pc := rfl
    have hword (u : State) (pc : Nat) : (sealing u q ds).codeWord c pc = u.codeWord c pc := rfl
    have hctx (u : State) : (sealing u q ds).ctx c = u.ctx c := rfl
    unfold State.settle
    dsimp only
    rw [modCtx_sealing, hctx, hcheck, hword]
    split
    · rw [modCtx_sealing, ih]
    · rfl

theorem fetchHits_sealing : (sealing s q ds).fetchHits c = sealing (s.fetchHits c) q ds := by
  have hbuf : (sealing s q ds).ctx c = s.ctx c := rfl
  have hcl : (sealing s q ds).cluster (clusterOf c) = s.cluster (clusterOf c) := rfl
  have hw : (sealing s q ds).fetchWindow c = s.fetchWindow c := rfl
  unfold State.fetchHits
  dsimp only
  rw [hbuf, hcl, hw]
  split <;> rfl

theorem entryWords_sealing (ws : List Nat) : (sealing s q ds).entryWords c ws = s.entryWords c ws := by
  have hctx : (sealing s q ds).ctx c = s.ctx c := rfl
  have hp (off n : Nat) : (sealing s q ds).fetchPoisoned c off n = s.fetchPoisoned c off n := rfl
  unfold State.entryWords
  simp only [hctx, hp]

theorem fetchChecks_sealing (pc n : Nat) : (sealing s q ds).fetchChecks c pc n = s.fetchChecks c pc n := by
  have hcheck (pc : Nat) : (sealing s q ds).fetchCheck c pc = s.fetchCheck c pc := rfl
  induction n generalizing pc with
  | zero => rfl
  | succ n ih => simp only [State.fetchChecks, hcheck, ih]

theorem entry_sealing : (sealing s q ds).entry c = s.entry c := by
  have hctx : (sealing s q ds).ctx c = s.ctx c := rfl
  have hva (off : Nat) : (sealing s q ds).codeVa c off = s.codeVa c off := rfl
  have hcheck (pc : Nat) : (sealing s q ds).fetchCheck c pc = s.fetchCheck c pc := rfl
  have hpage (p : Nat) : (sealing s q ds).page p = s.page p := rfl
  have hwords (pc : Nat) : (sealing s q ds).codeWords c pc = s.codeWords c pc := rfl
  have hcore (k : CoreId) : (sealing s q ds).core k = s.core k := rfl
  unfold State.entry
  simp only [hctx, hva, hcheck, hpage, hwords, fetchChecks_sealing, hcore, entryWords_sealing]

theorem stalled_sealing : (sealing s q ds).stalled c = s.stalled c := by
  have hcore (k : CoreId) : (sealing s q ds).core k = s.core k := rfl
  have hnow (k : CoreId) : (sealing s q ds).now k = s.now k := rfl
  unfold State.stalled
  simp only [settle_sealing, fetchHits_sealing, entry_sealing, hcore, hnow]

theorem asleepIn_sealing : (sealing s q ds).asleepIn c = s.asleepIn c := by
  have hw : (sealing s q ds).waitsAtTape c = s.waitsAtTape c := rfl
  have hg (p : Packet) : (sealing s q ds).granuleWait c p = s.granuleWait c p := rfl
  unfold State.asleepIn
  rw [hw]
  simp only [stalled_sealing, hg]
  rfl

theorem waitInstr_sealing : (sealing s q ds).waitInstr c = s.waitInstr c := by
  unfold State.waitInstr
  rw [asleepIn_sealing]
  rfl

theorem restful_sealing : (sealing s q ds).restful c = s.restful c := by
  have hr : (sealing s q ds).recordedLoad c = s.recordedLoad c := rfl
  have hc : (sealing s q ds).committed c = s.committed c := rfl
  unfold State.restful
  rw [waitInstr_sealing, asleepIn_sealing, hr, hc]
  rfl

/-- Whether a context is quiescent does not depend on the seals and dies. -/
theorem sealQuiet_sealing : (sealing s q ds).sealQuiet c = s.sealQuiet c := by
  have hc : (sealing s q ds).commandsOf c = s.commandsOf c := rfl
  have hw : (sealing s q ds).windowEmpty c = s.windowEmpty c := rfl
  unfold State.sealQuiet
  rw [restful_sealing, asleepIn_sealing, hc, hw]
  rfl

end Quiet
end Sys2Proof.MemorySpaces

/-! ### Tables that a seal walks through -/

namespace Sys2Proof.MemorySpaces

open Sys2Proof Sys2Proof.Machine Sys2Proof.Safety Sys2Proof.ModuleParts

section Tables
variable {α : Type} {d : α} {m : List (Nat × α)}

theorem mem_terase_of_ne {k j : Nat} {v : α} (h : (k, v) ∈ m) (hk : k ≠ j) : (k, v) ∈ terase m j := by
  induction m with
  | nil => exact h
  | cons e r ih =>
    obtain ⟨i, w⟩ := e
    rw [terase]
    rcases List.mem_cons.1 h with he | hr
    · cases he
      rw [if_neg hk]
      exact List.mem_cons_self
    · split
      · exact ih hr
      · exact List.mem_cons_of_mem _ (ih hr)

theorem mem_tinsert_of_mem {k j : Nat} {v w : α} (h : (k, v) ∈ m) : (k, v) ∈ tinsert m j w := by
  induction m with
  | nil => exact absurd h List.not_mem_nil
  | cons e r ih =>
    rw [tinsert]
    split
    · exact List.mem_cons_of_mem _ h
    · rcases List.mem_cons.1 h with he | hr
      · exact he ▸ List.mem_cons_self
      · exact List.mem_cons_of_mem _ (ih hr)

theorem mem_of_tget_ne {k : Nat} (h : tget d m k ≠ d) : ∃ v, (k, v) ∈ m := by
  by_contra hk
  refine h (tget_of_not_mem fun hm => hk ?_)
  obtain ⟨e, he, rfl⟩ := List.mem_map.1 hm
  exact ⟨e.2, he⟩

variable [DecidableEq α]

/-- A write at another key leaves what a table lists. -/
theorem mem_tset_of_ne {k j : Nat} {v : α} (w : α) (h : (k, v) ∈ m) (hk : k ≠ j) : (k, v) ∈ tset d m j w := by
  unfold tset
  split
  · exact mem_terase_of_ne h hk
  · exact mem_tinsert_of_mem (mem_terase_of_ne h hk)

/-- After a write its key is listed with the value written, if at all. -/
theorem eq_of_mem_tset {k : Nat} {v w : α} (h : (k, w) ∈ tset d m k v) : w = v := by
  unfold tset at h
  split at h
  · exact absurd h (terase_not_mem m k w)
  · rcases WorkHierarchy.mem_tinsert h with h | h
    · exact (Prod.mk.inj h).2
    · exact absurd h (terase_not_mem m k w)

/-- A walk through a list that replaces each entry by a function of it. -/
theorem tget_foldl_replace (f : α → α) (l m : List (Nat × α)) (k : Nat) :
    (∃ v, (k, v) ∈ l ∧ tget d (l.foldl (fun m e => tset d m e.1 (f e.2)) m) k = f v) ∨
      (k ∉ l.map Prod.fst ∧ tget d (l.foldl (fun m e => tset d m e.1 (f e.2)) m) k = tget d m k) := by
  induction l generalizing m with
  | nil => exact .inr ⟨List.not_mem_nil, rfl⟩
  | cons e r ih =>
    obtain ⟨i, w⟩ := e
    rw [List.foldl_cons]
    rcases ih (tset d m i (f w)) with ⟨v, hv, h⟩ | ⟨hk, h⟩
    · exact .inl ⟨v, List.mem_cons_of_mem _ hv, h⟩
    · by_cases e : k = i
      · exact .inl ⟨w, by rw [e]; exact List.mem_cons_self, by rw [h, e, tget_tset_same]⟩
      · exact .inr ⟨by simp [e, hk], by rw [h, tget_tset_other _ _ _ e]⟩

end Tables

theorem foldl_modCtx (l : List CtxId) (f : Ctx → Ctx) (s : State) : ∃ xs, l.foldl (fun t c => t.modCtx c f) s = { s with ctxs := xs } := by
  induction l generalizing s with
  | nil => exact ⟨s.ctxs, rfl⟩
  | cons c r ih =>
    obtain ⟨xs, h⟩ := ih (s.modCtx c f)
    exact ⟨xs, by rw [List.foldl_cons, h]; rfl⟩

theorem foldl_setDie (l : List (Nat × Die)) (f : Die → Die) (s : State) : l.foldl (fun t e => t.setDie e.1 (f e.2)) s =
    { s with dies := l.foldl (fun m e => tset Die.reset m e.1 (f e.2)) s.dies } := by
  induction l generalizing s with
  | nil => rfl
  | cons e r ih => rw [List.foldl_cons, ih]; rfl

end Sys2Proof.MemorySpaces

/-! ### The hold of quiescent contexts, and PREPARE (R113, R114) -/

namespace Sys2Proof.MemorySpaces

open Sys2Proof Sys2Proof.Machine Sys2Proof.Safety Sys2Proof.ModuleParts

/-- What the hold of a context leaves: seals, dies and every other context; the context itself is listed as another one. -/
structure OnlyCtx (s t : State) (c : CtxId) : Prop where
  seals : t.seals = s.seals
  dies : t.dies = s.dies
  bytes : Claim.SameBytes s t
  ctx : ∀ k, k ≠ c → t.ctx k = s.ctx k
  listed : ∀ k x, k ≠ c → (k, x) ∈ s.ctxs → (k, x) ∈ t.ctxs

theorem OnlyCtx.refl (s : State) (c : CtxId) : OnlyCtx s s c :=
  ⟨rfl, rfl, sameBytes_refl s, fun _ _ => rfl, fun _ _ _ h => h⟩

theorem OnlyCtx.trans {s t u : State} {c : CtxId} (h : OnlyCtx s t c) (h' : OnlyCtx t u c) : OnlyCtx s u c :=
  ⟨h'.seals.trans h.seals, h'.dies.trans h.dies, sameBytes_trans h.bytes h'.bytes, fun k hk => (h'.ctx k hk).trans (h.ctx k hk),
    fun k x hk hx => h'.listed k x hk (h.listed k x hk hx)⟩

theorem onlyCtx_modCtx (s : State) (c : CtxId) (f : Ctx → Ctx) : OnlyCtx s (s.modCtx c f) c :=
  ⟨rfl, rfl, sameBytes_modCtx .., fun _ hk => State.ctx_modCtx_other _ _ hk, fun _ _ hk h => mem_tset_of_ne _ h hk⟩

theorem onlyCtx_killFrom (s : State) (c : CtxId) (q : Packet) : OnlyCtx s (s.killFrom c q) c := by
  have hpipe (f : Pipe → Pipe) : OnlyCtx s (s.modPipe (coreOf c) f) c :=
    ⟨rfl, rfl, sameBytes_modCore s (coreOf c) _ fun _ => ⟨rfl, rfl, rfl⟩, fun _ _ => rfl, fun _ _ _ h => h⟩
  unfold State.killFrom
  exact (hpipe _).trans (onlyCtx_modCtx ..)

theorem onlyCtx_standAside (s : State) (c : CtxId) : OnlyCtx s (s.standAside c) c := by
  unfold State.standAside
  split
  · exact .refl s c
  · dsimp only
    exact (onlyCtx_killFrom s c _).trans (onlyCtx_modCtx ..)

/-- A context is held at its boundary. -/
def heldAside (s : State) (c : CtxId) : State := (s.standAside c).modCtx c fun x => { x with sealHeld := true }

theorem onlyCtx_heldAside (s : State) (c : CtxId) : OnlyCtx s (heldAside s c) c := (onlyCtx_standAside s c).trans (onlyCtx_modCtx ..)

/-- Contexts are held one after the other. -/
theorem foldl_heldAside (l : List CtxId) (s : State) :
    (l.foldl heldAside s).seals = s.seals ∧ (l.foldl heldAside s).dies = s.dies ∧ Claim.SameBytes s (l.foldl heldAside s) ∧
      (∀ k, k ∈ l ∨ (s.ctx k).sealHeld = true → ((l.foldl heldAside s).ctx k).sealHeld = true) ∧
      ∀ k, k ∉ l → (l.foldl heldAside s).ctx k = s.ctx k ∧ ∀ x, (k, x) ∈ s.ctxs → (k, x) ∈ (l.foldl heldAside s).ctxs := by
  induction l generalizing s with
  | nil => exact ⟨rfl, rfl, sameBytes_refl s, fun k h => h.resolve_left List.not_mem_nil, fun _ _ => ⟨rfl, fun _ h => h⟩⟩
  | cons c r ih =>
    have hc := onlyCtx_heldAside s c
    obtain ⟨hseals, hdies, hbytes, hheld, hother⟩ := ih (heldAside s c)
    rw [List.foldl_cons]
    refine ⟨hseals.trans hc.seals, hdies.trans hc.dies, sameBytes_trans hc.bytes hbytes, fun k h => hheld k ?_, fun k hk => ?_⟩
    · by_cases e : k = c
      · subst e
        exact .inr (congrArg Ctx.sealHeld (State.ctx_modCtx_same ..))
      · rw [hc.ctx k e]
        exact h.imp_left fun h => (List.mem_cons.1 h).resolve_left e
    · obtain ⟨hkc, hkr⟩ := not_or.1 (mt List.mem_cons.2 hk)
      obtain ⟨hctx, hlisted⟩ := hother k hkr
      exact ⟨hctx.trans (hc.ctx k hkc), fun x hx => hlisted x (hc.listed k x hkc hx)⟩

section Hold
variable {s : State} {d : Nat}

theorem mem_liveOn {k : CtxId} : k ∈ s.liveOn d ↔ ∃ x, (k, x) ∈ s.ctxs ∧ x.row.v = true ∧ dieOf k = d := by
  simp [State.liveOn]

theorem holdQuiet_eq (s : State) (d : Nat) :
    s.holdQuiet d = ((s.liveOn d).filter fun c => !(s.ctx c).sealHeld && s.sealQuiet c).foldl heldAside s := rfl

theorem seals_holdQuiet (s : State) (d : Nat) : (s.holdQuiet d).seals = s.seals ∧ (s.holdQuiet d).dies = s.dies ∧
    Claim.SameBytes s (s.holdQuiet d) := by
  obtain ⟨hseals, hdies, hbytes, -, -⟩ := foldl_heldAside ((s.liveOn d).filter fun c => !(s.ctx c).sealHeld && s.sealQuiet c) s
  exact ⟨hseals, hdies, hbytes⟩

/-- Every quiescent live context of the die is held. -/
theorem sealHeld_holdQuiet {k : CtxId} (hk : k ∈ s.liveOn d) (hq : s.sealQuiet k = true) : ((s.holdQuiet d).ctx k).sealHeld = true := by
  obtain ⟨-, -, -, hheld, -⟩ := foldl_heldAside ((s.liveOn d).filter fun c => !(s.ctx c).sealHeld && s.sealQuiet c) s
  refine hheld k ?_
  cases h : (s.ctx k).sealHeld with
  | true => exact .inr rfl
  | false => exact .inl (List.mem_filter.2 ⟨hk, by simp [h, hq]⟩)

/-- A live context that is not quiescent is not held. -/
theorem holdQuiet_unquiet {k : CtxId} (hk : k ∈ s.liveOn d) (hh : (s.ctx k).sealHeld = false) (hq : s.sealQuiet k = false) :
    k ∈ (s.holdQuiet d).liveOn d ∧ ((s.holdQuiet d).ctx k).sealHeld = false := by
  obtain ⟨-, -, -, -, hother⟩ := foldl_heldAside ((s.liveOn d).filter fun c => !(s.ctx c).sealHeld && s.sealQuiet c) s
  obtain ⟨hctx, hlisted⟩ := hother k fun h => by simp [hq] at h
  obtain ⟨x, hx, hv, hd⟩ := mem_liveOn.1 hk
  exact ⟨mem_liveOn.2 ⟨x, hlisted x hx, hv, hd⟩, (congrArg Ctx.sealHeld hctx).trans hh⟩

theorem holdQuiet_of_none (h : s.liveOn d = []) : s.holdQuiet d = s := by
  rw [holdQuiet_eq, h]
  rfl

end Hold

/-- The die has taken PREPARE. -/
def prepared (x : Die) : Die := { x with prepared := true, ready := false, committed := false }

section Prepare
variable {s : State} {d : Fin 36}

theorem sealPrepare_begins (hreq : s.seals.requested = true) (hrun : s.seals.running = false) (hrep : s.replicaPhase = false)
    (hprep : (s.die d.val).prepared = false) (hoff : (s.die d.val).off = false) :
    exec (.sealPrepare d) s = .next (((s.beginSeal false).modDie d.val prepared).holdQuiet d.val) := by
  have hbegun : (if (s.seals.requested || s.mgmt.mdom != 0) && !s.seals.running && !s.replicaPhase then s.beginSeal false else s) =
      s.beginSeal false := if_pos (by simp [hreq, hrun, hrep])
  have hdie : (s.beginSeal false).die d.val = s.die d.val := rfl
  change execSealPrepare d s = _
  unfold execSealPrepare
  dsimp only
  rw [hbegun, hdie, hprep, hoff]
  rfl

theorem sealPrepare (hreq : s.seals.requested = true) (hrun : s.seals.running = false) (hrep : s.replicaPhase = false)
    (hprep : (s.die d.val).prepared = false) (hoff : (s.die d.val).off = false) :
    ∃ t, exec (.sealPrepare d) s = .next t ∧ t.seals.running = true ∧ t.seals.requested = false ∧ (t.die d.val).prepared = true ∧
      (t.die d.val).ready = false ∧ Claim.SameBytes s t ∧
      ∀ k ∈ s.liveOn d.val, s.sealQuiet k = true → (t.ctx k).sealHeld = true := by
  have hu : (s.beginSeal false).modDie d.val prepared =
      sealing s (s.beginSeal false).seals ((s.beginSeal false).modDie d.val prepared).dies := rfl
  obtain ⟨hseals, hdies, hbytes⟩ := seals_holdQuiet ((s.beginSeal false).modDie d.val prepared) d.val
  have hdie : ((((s.beginSeal false).modDie d.val prepared).holdQuiet d.val).die d.val) = prepared (s.die d.val) :=
    (congrArg (tget Die.reset · d.val) hdies).trans (State.die_modDie_same (s.beginSeal false) d.val prepared)
  refine ⟨_, sealPrepare_begins hreq hrun hrep hprep hoff, by rw [hseals]; rfl, by rw [hseals]; rfl, by rw [hdie]; rfl, by rw [hdie]; rfl,
    sameBytes_trans (sameBytes_of_eq rfl rfl) hbytes, fun k hk hq => sealHeld_holdQuiet hk ?_⟩
  rw [hu, sealQuiet_sealing, hq]

theorem sealInterval {job : Nat} {j : Job} (hj : s.job job = some j) (hint : j.sealInt ≠ 0) (hrep : s.replicaPhase = false) :
    exec (.sealInterval job) s = .next { s with seals := { s.seals with requested := true } } := by
  change execSealInterval job s = _
  simp only [execSealInterval, hj, if_neg hint]
  rw [requestSeal_free s hrep]

theorem provisionalSeal (hreq : s.seals.requested = true) (hrun : s.seals.running = false) (hrep : s.replicaPhase = true)
    (hprov : s.seals.provisional = false) : exec .provisionalSeal s = .next (s.beginSeal true) :=
  if_pos (by simp [hreq, hrun, hrep, hprov])

/-- A prepared die with a live context that is not quiescent does not become ready. -/
theorem dieReady_blocked (hrun : s.seals.running = true) (hcom : s.seals.committing = false) (hprep : (s.die d.val).prepared = true)
    (hready : (s.die d.val).ready = false) {k : CtxId} (hk : k ∈ s.liveOn d.val) (hh : (s.ctx k).sealHeld = false)
    (hq : s.sealQuiet k = false) : ∃ t, exec (.dieReady d) s = .next t ∧ (t.die d.val).ready = false := by
  obtain ⟨hlive, hheld⟩ := holdQuiet_unquiet hk hh hq
  obtain ⟨-, hdies, -⟩ := seals_holdQuiet s d.val
  refine ⟨s.holdQuiet d.val, ?_, by rw [State.die, hdies]; exact hready⟩
  have hall : (((s.holdQuiet d.val).liveOn d.val).all fun c => ((s.holdQuiet d.val).ctx c).sealHeld) = false :=
    List.all_eq_false.2 ⟨k, hlive, by simp [hheld]⟩
  change execDieReady d s = _
  unfold execDieReady
  dsimp only
  rw [if_neg (by simp [hrun, hcom, hprep, hready]), if_neg (by simp [hall])]

end Prepare
end Sys2Proof.MemorySpaces

/-! ### READY: the flush of the holding buffers (R114, steps 3 to 5) -/

namespace Sys2Proof.MemorySpaces

open Sys2Proof Sys2Proof.Machine Sys2Proof.Safety Sys2Proof.ModuleParts

/-- What a die's flush leaves: memories, contexts, images and messages; its undo region takes n bytes at most. -/
structure Flushes (s t : State) (die n : Nat) : Prop where
  gmem : t.gmem = s.gmem
  cores : t.cores = s.cores
  ctxs : t.ctxs = s.ctxs
  saved : t.saved = s.saved
  net : t.net = s.net
  undo : undoBytes (t.die die).undo ≤ undoBytes (s.die die).undo + n

theorem Flushes.refl (s : State) (die : Nat) : Flushes s s die 0 := ⟨rfl, rfl, rfl, rfl, rfl, Nat.le_refl _⟩

theorem Flushes.trans {s t u : State} {die n k : Nat} (h : Flushes s t die n) (h' : Flushes t u die k) : Flushes s u die (n + k) :=
  ⟨h'.gmem.trans h.gmem, h'.cores.trans h.cores, h'.ctxs.trans h.ctxs, h'.saved.trans h.saved, h'.net.trans h.net,
    by have := h.undo; have := h'.undo; omega⟩

theorem watchUndo_eq (s : State) (die : Nat) : ∃ q, s.watchUndo die = { s with seals := q } := by
  unfold State.watchUndo
  split
  · exact requestSeal_eq s true
  · exact ⟨s.seals, rfl⟩

/-- A line of a ring is logged while the die's undo region has room. -/
theorem logRing_room {s : State} {port : ClusterId} (h : undoBytes (s.die (dieOf port)).undo + 72 ≤ 2 ^ 30) :
    ∃ t, s.logRing port = some t ∧ Flushes s t (dieOf port) 72 ∧ t.clusters = s.clusters := by
  unfold State.logRing
  dsimp only
  split
  · exact ⟨s, rfl, ⟨rfl, rfl, rfl, rfl, rfl, by omega⟩, rfl⟩
  · let e : UndoEntry := { core := none, line := 64 * (s.ringAddr port / 64), old := 0, fe := 0, tenancy := 0 }
    obtain ⟨q, hq⟩ := watchUndo_eq (s.modDie (dieOf port) fun d => { d with undo := e :: d.undo }) (dieOf port)
    have hlog : s.logDie (dieOf port) e = some { (s.modDie (dieOf port) fun d => { d with undo := e :: d.undo }) with seals := q } := by
      rw [← hq]
      exact if_pos h
    have hdie := State.die_modDie_same s (dieOf port) fun d => { d with undo := e :: d.undo }
    let u : State := { (s.modDie (dieOf port) fun d => { d with undo := e :: d.undo }) with seals := q }
    refine ⟨{ u with gwritten := tset false u.gwritten (s.ringAddr port / 64) true }, by rw [hlog]; rfl,
      ⟨rfl, rfl, rfl, rfl, rfl, le_of_eq ?_⟩, rfl⟩
    exact (congrArg (fun d : Die => undoBytes d.undo) hdie :).trans (WorkHierarchy.undoBytes_cons e _ rfl)

/-- An update enters a ring that has room. -/
theorem ringPut_room {s : State} {port : ClusterId} (u : Update) (hring : (s.cluster port).ring.length < 65536)
    (h : undoBytes (s.die (dieOf port)).undo + 72 ≤ 2 ^ 30) : ∃ t, s.ringPut port u = some t ∧ Flushes s t (dieOf port) 72 ∧
      (t.cluster port).ring = (s.cluster port).ring ++ [u] ∧ ∀ q, q ≠ port → t.cluster q = s.cluster q := by
  obtain ⟨t, ht, hf, hcl⟩ := logRing_room h
  have hc (q : ClusterId) : t.cluster q = s.cluster q := congrArg (tget Cluster.reset · q) hcl
  refine ⟨t.modCluster port fun q => { q with ring := q.ring ++ [u], ringAt := q.ringAt + 1 }, ?_,
    ⟨hf.gmem, hf.cores, hf.ctxs, hf.saved, hf.net, hf.undo⟩, ?_, fun q hq => ?_⟩
  · rw [State.ringPut, if_neg (by omega), ht, Option.map_some]
  · rw [State.cluster_modCluster_same, hc]
  · rw [State.cluster_modCluster_other _ _ hq, hc]

/-- The updates of a holding buffer enter their ring one after the other. -/
theorem ringPuts_room {port : ClusterId} (us : List Update) {s : State} (hring : (s.cluster port).ring.length + us.length ≤ 65536)
    (h : undoBytes (s.die (dieOf port)).undo + 72 * us.length ≤ 2 ^ 30) :
    ∃ t, us.foldl (fun (p : Option State) u => p.bind fun t => t.ringPut port u) (some s) = some t ∧
      Flushes s t (dieOf port) (72 * us.length) ∧ (t.cluster port).ring = (s.cluster port).ring ++ us ∧
      ∀ q, q ≠ port → t.cluster q = s.cluster q := by
  induction us generalizing s with
  | nil => exact ⟨s, rfl, .refl s _, (List.append_nil _).symm, fun _ _ => rfl⟩
  | cons u r ih =>
    rw [List.length_cons] at hring h
    obtain ⟨t, ht, hf, hr, ho⟩ := ringPut_room (s := s) (port := port) u (by omega) (by omega)
    obtain ⟨t', ht', hf', hr', ho'⟩ := ih (s := t) (by rw [hr, List.length_append, List.length_singleton]; omega)
      (by have := hf.undo; omega)
    refine ⟨t', by rw [List.foldl_cons, Option.bind_some, ht, ht'], ?_, ?_, fun q hq => (ho' q hq).trans (ho q hq)⟩
    · rw [List.length_cons, Nat.mul_add, Nat.add_comm]
      exact hf.trans hf'
    · rw [hr', hr, List.append_assoc]
      rfl

/-- A port's holding buffer goes to its ring and is empty. -/
def flushPort (o : Option State) (e : Nat × Cluster) : Option State :=
  (e.2.holding.foldl (fun (p : Option State) u => p.bind fun t => t.ringPut e.1 u) o).map fun t =>
    t.modCluster e.1 fun q => { q with holding := [] }

theorem flushPort_room {s : State} {e : Nat × Cluster} (hs : s.cluster e.1 = e.2) (hring : e.2.ring.length + e.2.holding.length ≤ 65536)
    (h : undoBytes (s.die (dieOf e.1)).undo + 72 * e.2.holding.length ≤ 2 ^ 30) :
    ∃ t, flushPort (some s) e = some t ∧ Flushes s t (dieOf e.1) (72 * e.2.holding.length) ∧
      (t.cluster e.1).holding = [] ∧ (t.cluster e.1).ring = e.2.ring ++ e.2.holding ∧ ∀ q, q ≠ e.1 → t.cluster q = s.cluster q := by
  obtain ⟨t, ht, hf, hr, ho⟩ := ringPuts_room (port := e.1) e.2.holding (s := s) (by rw [hs]; exact hring) h
  refine ⟨t.modCluster e.1 fun q => { q with holding := [] }, by rw [flushPort, ht, Option.map_some],
    ⟨hf.gmem, hf.cores, hf.ctxs, hf.saved, hf.net, hf.undo⟩, ?_, ?_, fun q hq => ?_⟩
  · rw [State.cluster_modCluster_same]
  · rw [State.cluster_modCluster_same]
    rw [hs] at hr
    exact hr
  · rw [State.cluster_modCluster_other _ _ hq, ho q hq]

/-- Ports of one die are flushed one after the other. -/
theorem flushPorts_room {die : Nat} (l : List (Nat × Cluster)) {s : State} (hnodup : (l.map Prod.fst).Nodup)
    (hl : ∀ e ∈ l, dieOf e.1 = die ∧ s.cluster e.1 = e.2 ∧ e.2.ring.length + e.2.holding.length ≤ 65536)
    (h : undoBytes (s.die die).undo + 72 * (l.map fun e => e.2.holding.length).sum ≤ 2 ^ 30) :
    ∃ t n, l.foldl flushPort (some s) = some t ∧ Flushes s t die n ∧
      (∀ e ∈ l, (t.cluster e.1).holding = [] ∧ (t.cluster e.1).ring = e.2.ring ++ e.2.holding) ∧
      ∀ q, q ∉ l.map Prod.fst → t.cluster q = s.cluster q := by
  induction l generalizing s with
  | nil => exact ⟨s, 0, rfl, .refl s _, fun _ he => absurd he List.not_mem_nil, fun _ _ => rfl⟩
  | cons e r ih =>
    obtain ⟨hdie, hs, hring⟩ := hl e List.mem_cons_self
    rw [List.map_cons, List.sum_cons] at h
    rw [List.map_cons, List.nodup_cons] at hnodup
    obtain ⟨t, ht, hf, hempty, hr, ho⟩ := flushPort_room hs hring (by rw [hdie]; omega)
    rw [hdie] at hf
    have hne {f : Nat × Cluster} (hf : f ∈ r) : f.1 ≠ e.1 := fun h => hnodup.1 (h ▸ List.mem_map_of_mem hf)
    obtain ⟨t', n, ht', hf', hflushed, ho'⟩ := ih (s := t) hnodup.2
      (fun f hf => by
        obtain ⟨hd, hfs, hfr⟩ := hl f (List.mem_cons_of_mem _ hf)
        exact ⟨hd, (ho f.1 (hne hf)).trans hfs, hfr⟩)
      (by have := hf.undo; omega)
    refine ⟨t', _, by rw [List.foldl_cons, ht, ht'], hf.trans hf', fun f hf => ?_, fun q hq => ?_⟩
    · rcases List.mem_cons.1 hf with rfl | hf
      · rw [ho' f.1 hnodup.1]
        exact ⟨hempty, hr⟩
      · exact hflushed f hf
    · rw [List.map_cons, List.mem_cons, not_or] at hq
      rw [ho' q hq.2, ho q hq.1]

/-- The keys of a canonical table are listed once. -/
theorem nodup_of_twf {α : Type} [DecidableEq α] {d : α} {m : List (Nat × α)} {a : Nat} (h : twfFrom d a m = true) :
    (m.map Prod.fst).Nodup := by
  induction m generalizing a with
  | nil => exact List.nodup_nil
  | cons e r ih =>
    obtain ⟨k, v⟩ := e
    simp only [twfFrom, Bool.and_eq_true, decide_eq_true_eq] at h
    rw [List.map_cons, List.nodup_cons]
    refine ⟨fun hk => ?_, ih h.2⟩
    obtain ⟨f, hf, hk⟩ := List.mem_map.1 hk
    have : k + 1 ≤ f.1 := (tget_of_mem (v := f.2) h.2 hf).2
    omega

/-- A die with room flushes every holding buffer of its ports. -/
theorem flushHolding_room {s : State} {die : Nat} (hwf : twf Cluster.reset s.clusters = true)
    (hring : ∀ q, dieOf q = die → (s.cluster q).ring.length + (s.cluster q).holding.length ≤ 65536)
    (h : undoBytes (s.die die).undo + 72 * (s.clusters.map fun e => e.2.holding.length).sum ≤ 2 ^ 30) :
    ∃ t n, s.flushHolding die = some t ∧ Flushes s t die n ∧
      ∀ q, dieOf q = die → (t.cluster q).holding = [] ∧ (t.cluster q).ring = (s.cluster q).ring ++ (s.cluster q).holding := by
  let l := s.clusters.filter fun e => dieOf e.1 == die && !e.2.holding.isEmpty
  have hsub : l.Sublist s.clusters := List.filter_sublist
  have hval {e : Nat × Cluster} (he : e ∈ s.clusters) : s.cluster e.1 = e.2 := (tget_of_mem (v := e.2) hwf he).1
  have hsum : (l.map fun e => e.2.holding.length).sum ≤ (s.clusters.map fun e => e.2.holding.length).sum :=
    (hsub.map _).sum_le_sum fun _ _ => Nat.zero_le _
  obtain ⟨t, n, ht, hf, hflushed, hother⟩ := flushPorts_room (die := die) l (s := s) ((nodup_of_twf hwf).sublist (hsub.map _))
    (fun e he => by
      have hd : dieOf e.1 = die := by simpa using (Bool.and_eq_true_iff.1 (List.mem_filter.1 he).2).1
      have hs := hval (hsub.subset he)
      exact ⟨hd, hs, hs ▸ hring e.1 hd⟩)
    (by omega)
  refine ⟨t, n, ht, hf, fun q hq => ?_⟩
  by_cases hm : q ∈ l.map Prod.fst
  · obtain ⟨e, he, rfl⟩ := List.mem_map.1 hm
    rw [hval (hsub.subset he)]
    exact hflushed e he
  · have hempty : (s.cluster q).holding = [] := by
      by_contra hne
      obtain ⟨v, hv⟩ := mem_of_tget_ne (d := Cluster.reset) (m := s.clusters) (k := q) fun h => hne (by rw [State.cluster, h])
      have hqv : s.cluster q = v := hval hv
      exact hm (List.mem_map.2 ⟨(q, v), List.mem_filter.2 ⟨hv, by simp [hq, ← hqv, hne]⟩, rfl⟩)
    rw [hother q hm, hempty, List.append_nil]
    exact ⟨rfl, rfl⟩

/-! #### The move of the undo buffers and the save -/

/-- What the saving of a die leaves: memories, contexts, clusters, images and messages. -/
structure DieSaved (s t : State) : Prop where
  bytes : Claim.SameBytes s t
  clusters : t.clusters = s.clusters
  ctxs : t.ctxs = s.ctxs
  saved : t.saved = s.saved
  net : t.net = s.net
  jobs : t.jobs = s.jobs
  launches : t.launches = s.launches
  split : t.seals.split = s.seals.split

theorem DieSaved.refl (s : State) : DieSaved s s := ⟨sameBytes_refl s, rfl, rfl, rfl, rfl, rfl, rfl, rfl⟩

theorem DieSaved.trans {s t u : State} (h : DieSaved s t) (h' : DieSaved t u) : DieSaved s u :=
  ⟨sameBytes_trans h.bytes h'.bytes, h'.clusters.trans h.clusters, h'.ctxs.trans h.ctxs, h'.saved.trans h.saved, h'.net.trans h.net,
    h'.jobs.trans h.jobs, h'.launches.trans h.launches, h'.split.trans h.split⟩

theorem dieSaved_watchUndo (s : State) (die : Nat) : DieSaved s (s.watchUndo die) := by
  have hreq : (s.requestSeal true).seals.split = s.seals.split := by unfold State.requestSeal; split <;> rfl
  unfold State.watchUndo
  split
  · obtain ⟨q, hq⟩ := requestSeal_eq s true
    have hs : q.split = s.seals.split := by rw [← hreq, hq]
    rw [hq]
    exact ⟨sameBytes_of_eq rfl rfl, rfl, rfl, rfl, rfl, rfl, rfl, hs⟩
  · exact .refl s

theorem dieSaved_drainUndo (s : State) (die : Nat) : DieSaved s (s.drainUndo die) := by
  unfold State.drainUndo
  refine DieSaved.trans (foldl_rel DieSaved.refl DieSaved.trans (fun t e => ?_) _ s) (dieSaved_watchUndo ..)
  exact ⟨sameBytes_trans (sameBytes_of_eq rfl rfl)
    (sameBytes_modCore (t.modDie die fun d => { d with undo := e.2.undo ++ d.undo }) e.1 _ fun _ => ⟨rfl, rfl, rfl⟩),
    rfl, rfl, rfl, rfl, rfl, rfl, rfl⟩

theorem dieSaved_saveDie (s : State) (die : Nat) : DieSaved s (s.saveDie die) :=
  ⟨sameBytes_of_eq rfl rfl, rfl, rfl, rfl, rfl, rfl, rfl, rfl⟩

theorem carry_of_empty {s : State} (h : s.net = []) (die : Nat) : s.carry die = s := by
  unfold State.carry
  dsimp only
  rw [h]
  rfl

section Ready
variable {s : State} {d : Fin 36}

/-- A prepared die without live contexts, messages and images becomes ready. -/
theorem dieReady_empty (hrun : s.seals.running = true) (hcom : s.seals.committing = false) (hprep : (s.die d.val).prepared = true)
    (hready : (s.die d.val).ready = false) (hlive : s.liveOn d.val = []) (hnet : s.net = []) (hsaved : s.saved = []) {u : State}
    (hu : s.flushHolding d.val = some u) {n : Nat} (hf : Flushes s u d.val n) :
    ∃ t, exec (.dieReady d) s = .next t ∧ (t.die d.val).ready = true ∧ Claim.SameBytes s t ∧ t.clusters = u.clusters := by
  have hs : DieSaved u ((u.drainUndo d.val).saveDie d.val) := (dieSaved_drainUndo ..).trans (dieSaved_saveDie ..)
  have hcarry : ((u.drainUndo d.val).saveDie d.val).carry d.val = (u.drainUndo d.val).saveDie d.val :=
    carry_of_empty (hs.net.trans (hf.net.trans hnet)) _
  have hdrained : ((u.drainUndo d.val).saveDie d.val).dieDrained d.val = true := by
    have hl : ((u.drainUndo d.val).saveDie d.val).liveOn d.val = [] := by
      rw [State.liveOn, hs.ctxs, hf.ctxs]
      exact hlive
    have hi : ((u.drainUndo d.val).saveDie d.val).saved = [] := hs.saved.trans (hf.saved.trans hsaved)
    rw [State.dieDrained, hl, hi]
    rfl
  refine ⟨((u.drainUndo d.val).saveDie d.val).modDie d.val fun x => { x with ready := true }, ?_,
    congrArg Die.ready (State.die_modDie_same ..), ?_, hs.clusters⟩
  · change execDieReady d s = _
    unfold execDieReady
    dsimp only
    rw [if_neg (by simp [hrun, hcom, hprep, hready]), holdQuiet_of_none hlive, if_pos (by rw [hlive]; rfl), hu]
    dsimp only
    rw [hcarry, if_pos hdrained]
  · exact sameBytes_trans (sameBytes_of_eq hf.gmem hf.cores) (sameBytes_trans hs.bytes (sameBytes_of_eq rfl rfl))

/-! #### The commit record -/

theorem flushHolding_empty (h : ∀ e ∈ s.clusters, e.2.holding = []) (die : Nat) : s.flushHolding die = some s := by
  have hl : (s.clusters.filter fun e => dieOf e.1 == die && !e.2.holding.isEmpty) = [] :=
    List.filter_eq_nil_iff.2 fun e he => by simp [h e he]
  unfold State.flushHolding
  rw [hl]
  rfl

/-- With nothing held back, every die saves. -/
theorem saveDies_empty (l : List Nat) (h : ∀ e ∈ s.clusters, e.2.holding = []) :
    ∃ t, l.foldl (fun (o : Option State) d => o.bind fun t => (t.flushHolding d).map fun u => (u.drainUndo d).saveDie d) (some s) = some t ∧
      DieSaved s t := by
  induction l generalizing s with
  | nil => exact ⟨s, rfl, .refl s⟩
  | cons d r ih =>
    have hs : DieSaved s ((s.drainUndo d).saveDie d) := (dieSaved_drainUndo ..).trans (dieSaved_saveDie ..)
    obtain ⟨t, ht, hd⟩ := ih (s := (s.drainUndo d).saveDie d) (by rw [hs.clusters]; exact h)
    exact ⟨t, by rw [List.foldl_cons, Option.bind_some, flushHolding_empty h]; exact ht, hs.trans hd⟩

theorem powered_iff {n : Nat} : n ∈ s.poweredDies ↔ n < 36 ∧ (s.die n).off = false := by
  simp [State.poweredDies, mem_span]

theorem sealReady_commits (hrun : s.seals.running = true) (hcom : s.seals.committing = false)
    (hall : ∀ n < 36, (s.die n).ready = true ∨ (s.die n).off = true) (hhold : ∀ e ∈ s.clusters, e.2.holding = [])
    (hans : ∀ m ∈ s.net, ∀ v st f r p g, m.body ≠ .answer v st f r p g) :
    ∃ t, exec .sealReady s = .next t ∧ t.seals.committing = true ∧ t.seals.commitRecord = s.seals.split + 1 ∧
      t.seals.split = s.seals.split ∧ t.jobs = s.jobs ∧ t.seals.nextArea.jobs = s.jobs ∧ t.seals.nextArea.launches = s.launches := by
  obtain ⟨t, ht, hd⟩ := saveDies_empty s.poweredDies hhold
  have hsave : s.saveAll = some t := ht
  have hready : (s.poweredDies.all fun d => (s.die d).ready) = true := by
    refine List.all_eq_true.2 fun n hn => ?_
    obtain ⟨hlt, hoff⟩ := powered_iff.1 hn
    exact (hall n hlt).resolve_right (by simp [hoff])
  have hgo (answered : Bool) (h : answered = false) :
      (s.seals.running && !s.seals.committing && !answered && s.poweredDies.all fun d => (s.die d).ready) = true := by
    rw [hrun, hcom, h, hready]
    rfl
  change ∃ t, execSealReady s = .next t ∧ _
  unfold execSealReady
  dsimp only
  rw [if_pos (hgo _ ?_), hsave]
  · exact ⟨_, rfl, rfl, congrArg (· + 1) hd.split, hd.split, hd.jobs, hd.jobs, hd.launches⟩
  · refine List.any_eq_false.2 fun m hm => ?_
    cases hb : m.body with
    | answer v st f r p g => exact absurd hb (hans m hm v st f r p g)
    | _ => simp

theorem sealReady_waits {n : Nat} (hn : n < 36) (hready : (s.die n).ready = false) (hoff : (s.die n).off = false) :
    exec .sealReady s = .next s := by
  have hall : (s.poweredDies.all fun d => (s.die d).ready) = false :=
    List.all_eq_false.2 ⟨n, powered_iff.2 ⟨hn, hoff⟩, by simp [hready]⟩
  change execSealReady s = _
  unfold execSealReady
  dsimp only
  rw [hall, Bool.and_false, if_neg (by decide)]

end Ready
end Sys2Proof.MemorySpaces

/-! ### COMMIT (R114, step 7; R116, R117) -/

namespace Sys2Proof.MemorySpaces

open Sys2Proof Sys2Proof.Machine Sys2Proof.Safety Sys2Proof.ModuleParts

/-! #### The write that leaves -/

theorem cells_taint (ws : List Nat) (m : Mem) : (m.taint ws).cells = m.cells := by
  induction ws generalizing m with
  | nil => rfl
  | cons w r ih => exact (ih (m.setMark w .poisoned)).trans rfl

/-- The poison of a write changes marks only. -/
theorem taintG_eq (s : State) (old : Mem) (va n : Nat) (poison : Bool) :
    ∃ g, s.taintG old va n poison = { s with gmem := g } ∧ g.cells = s.gmem.cells := by
  have hfold (l : List (Nat × Nat)) (t : State) : ∃ g, l.foldl (fun (t : State) p => match t.phys p.1 with
      | some q => { t with gmem := t.gmem.taint (old.stillPoisoned q p.2 poison) }
      | none => t) t = { t with gmem := g } ∧ g.cells = t.gmem.cells := by
    induction l generalizing t with
    | nil => exact ⟨t.gmem, rfl, rfl⟩
    | cons p r ih =>
      rw [List.foldl_cons]
      cases t.phys p.1 with
      | none => exact ih t
      | some q =>
        obtain ⟨g, hg, hc⟩ := ih { t with gmem := t.gmem.taint (old.stillPoisoned q p.2 poison) }
        exact ⟨g, hg, hc.trans (cells_taint ..)⟩
  exact hfold (partsOn va n) s

theorem gRead_of_cells {s t : State} (hc : t.gmem.cells = s.gmem.cells) (hp : t.pages = s.pages) (a : Nat) : t.gRead a 1 = s.gRead a 1 := by
  rw [gRead_byte, gRead_byte, State.phys, State.phys, State.page, State.page, hc, hp]

section Release
variable {s : State} {w : HeldWrite}

/-- A held write that finds no poisoned word is performed and goes out. -/
theorem releaseWrite_eq (hp : s.gPoisonedPart w.va w.size = false) : s.releaseWrite w =
    let t := (s.gWriteRaw w.va w.size w.data).taintG s.gmem w.va w.size w.poison
    if (s.pageAt w.va).window then { t with toWindow := t.toWindow ++ [(w.va % 2 ^ 16, w.size, w.data)] }
    else { t with outside := w :: t.outside } := by
  unfold State.releaseWrite
  rw [hp]
  cases w.writer <;> rfl

/-- The bytes of a write within a line, on a page with a frame. -/
theorem gRead_gWriteRaw_line (hf : FramesOk s) (hline : w.va % 64 + w.size ≤ 64) (hframe : (s.pageAt w.va).frame ≠ none) :
    (s.gWriteRaw w.va w.size w.data).pages = s.pages ∧ ∀ a, (s.gWriteRaw w.va w.size w.data).gRead a 1 =
      if w.va ≤ a ∧ a < w.va + w.size then w.data / 256 ^ (a - w.va) % 256 else s.gRead a 1 := by
  rcases Nat.eq_zero_or_pos w.size with h0 | h0
  · have hnone : s.gWriteRaw w.va w.size w.data = s := by rw [h0]; rfl
    rw [hnone]
    exact ⟨rfl, fun a => (if_neg (by omega)).symm⟩
  · have hpage : w.va % 2 ^ 16 + w.size ≤ 2 ^ 16 := by omega
    obtain ⟨f, hf'⟩ := Option.ne_none_iff_exists'.1 hframe
    have hphys : s.phys w.va = some (2 ^ 16 * f + w.va % 2 ^ 16) := by
      rw [State.phys, show (s.page (pageOf w.va)).frame = some f from hf', Option.map_some]
    exact ⟨by rw [gWriteRaw_within w.data h0 hpage hphys], gRead_gWriteRaw_within hf w.data h0 hpage hframe⟩

/-- What the release of a write leaves, and where it has gone. -/
theorem releaseWrite_spec (hp : s.gPoisonedPart w.va w.size = false) (hf : FramesOk s) (hline : w.va % 64 + w.size ≤ 64)
    (hframe : (s.pageAt w.va).frame ≠ none) : ∃ g out win, s.releaseWrite w = { s with gmem := g, outside := out, toWindow := win } ∧
      ((s.pageAt w.va).window = false → out = w :: s.outside ∧ win = s.toWindow) ∧
      ((s.pageAt w.va).window = true → out = s.outside ∧ win = s.toWindow ++ [(w.va % 2 ^ 16, w.size, w.data)]) ∧
      ∀ a, (s.releaseWrite w).gRead a 1 =
        if w.va ≤ a ∧ a < w.va + w.size then w.data / 256 ^ (a - w.va) % 256 else s.gRead a 1 := by
  obtain ⟨g, p, hw⟩ := gWriteRaw_eq s w.va w.size w.data
  obtain ⟨hpages, hread⟩ := gRead_gWriteRaw_line hf hline hframe
  obtain ⟨g', ht, hcells⟩ := taintG_eq (s.gWriteRaw w.va w.size w.data) s.gmem w.va w.size w.poison
  have hp' : p = s.pages := by rw [hw] at hpages; exact hpages
  have hr := releaseWrite_eq hp
  rw [ht] at hr
  dsimp only at hr
  rw [hw, hp'] at hr
  have hgread (a : Nat) : (s.releaseWrite w).gRead a 1 = (s.gWriteRaw w.va w.size w.data).gRead a 1 := by
    refine gRead_of_cells ?_ ?_ a
    · rw [hr]; split <;> exact hcells
    · rw [hr, hpages]; split <;> rfl
  cases hwin : (s.pageAt w.va).window with
  | true =>
    rw [hwin, if_pos rfl] at hr
    exact ⟨g', s.outside, _, hr, by simp, fun _ => ⟨rfl, rfl⟩, fun a => (hgread a).trans (hread a)⟩
  | false =>
    rw [hwin, if_neg (by decide)] at hr
    exact ⟨g', _, s.toWindow, hr, fun _ => ⟨rfl, rfl⟩, by simp, fun a => (hgread a).trans (hread a)⟩

end Release

/-! #### The die takes the commit -/

/-- What the state is once a die has taken the commit and before its contexts resume. -/
structure Taking (s t : State) (d : Nat) : Prop where
  seals : t.seals = { s.seals with split := s.seals.commitRecord }
  owed : t.owed = s.owed
  committed : (t.die d).committed = true
  other : ∀ n, n ≠ d → t.die n = s.die n
  logs : ∀ k, dieOf k = d → (t.core k).undo = [] ∧ (t.core k).written = []
  live : ∀ k ∈ s.liveOn d, k ∈ t.liveOn d

/-- What the commit itself leaves: memory, and the writes that are held or have gone out. -/
structure Leaves (s t : State) (d : Nat) : Prop where
  bytes : Claim.SameBytes s t
  gmem : t.gmem = s.gmem
  pages : t.pages = s.pages
  outside : t.outside = s.outside
  toWindow : t.toWindow = s.toWindow
  hold : (t.die d).hold = (s.die d).hold

theorem row_sealLater (next : Word) (x : Ctx) : (x.sealLater next).row = x.row := by
  unfold Ctx.sealLater
  split
  · split <;> rfl
  all_goals rfl

/-- The split that begins is the module's; contexts keep their rows. -/
theorem beginSplit_eq (s : State) (next : Word) : ∃ xs im, s.beginSplit next =
    { s with seals := { s.seals with split := next }, ctxs := xs, saved := im } ∧
    ∀ k x, (k, x) ∈ s.ctxs → ∃ y, (k, y) ∈ xs ∧ y.row = x.row := by
  unfold State.beginSplit
  dsimp only
  split
  · refine ⟨_, _, rfl, fun k x hx => ⟨x.sealLater next, ?_, row_sealLater next x⟩⟩
    exact List.mem_map.2 ⟨(k, x), hx, rfl⟩
  · exact ⟨s.ctxs, s.saved, rfl, fun k x hx => ⟨x, hx, rfl⟩⟩

/-- A core whose logs are freed. -/
def freed (k : Core) : Core := { k with undo := [], written := [] }

theorem foldl_freed (l : List (Nat × Core)) (s : State) : l.foldl (fun t e => t.modCore e.1 freed) s =
    { s with cores := (l.map Prod.fst).foldl (fun m c => tset Core.reset m c (freed (tget Core.reset m c))) s.cores } := by
  induction l generalizing s with
  | nil => rfl
  | cons e r ih => rw [List.foldl_cons, ih, List.map_cons, List.foldl_cons]; rfl

theorem modDie_modDie (s : State) (d : Nat) (f g : Die → Die) : (s.modDie d f).modDie d g = s.modDie d fun x => g (f x) := by
  have hdie : (s.modDie d f).die d = f (s.die d) := State.die_modDie_same ..
  unfold State.modDie at hdie ⊢
  rw [hdie]
  unfold State.setDie
  simp only [tset_tset]

/-- The table of the cores, those of a die with their logs freed. -/
def freedCores (s : State) (d : Nat) : SMap Core :=
  ((s.cores.filter fun e => dieOf e.1 == d).map Prod.fst).foldl (fun m c => tset Core.reset m c (freed (tget Core.reset m c))) s.cores

theorem core_freed (s : State) (d : Nat) (c : CoreId) :
    (tget Core.reset (freedCores s d) c = s.core c ∨ tget Core.reset (freedCores s d) c = freed (s.core c)) ∧
      (dieOf c = d → (tget Core.reset (freedCores s d) c).undo = [] ∧ (tget Core.reset (freedCores s d) c).written = []) := by
  have hcs : tget Core.reset (freedCores s d) c = if c ∈ (s.cores.filter fun e => dieOf e.1 == d).map Prod.fst then freed (s.core c) else s.core c :=
    tget_foldl_update (f := freed) (fun _ => rfl) ..
  rw [hcs]
  split
  · exact ⟨.inr rfl, fun _ => ⟨rfl, rfl⟩⟩
  · next hc =>
    refine ⟨.inl rfl, fun hd => ?_⟩
    have hreset : s.core c = Core.reset := by
      by_contra hne
      obtain ⟨k, hk⟩ := mem_of_tget_ne hne
      exact hc (List.mem_map.2 ⟨(c, k), List.mem_filter.2 ⟨hk, by simp [hd]⟩, rfl⟩)
    rw [hreset]
    exact ⟨rfl, rfl⟩

/-- A die whose undo region is free, and which keeps it behind a provisional seal. -/
def logsFreed (s : State) (d : Nat) (x : Die) : Die :=
  { x with keptUndo := if s.seals.runProvisional then s.imageUndo d ++ x.undo ++ x.keptUndo else [], undo := [] }

theorem freeLogs_eq (s : State) (d : Nat) : ∃ im gw, s.freeLogs d =
    { s.modDie d (logsFreed s d) with saved := im, gwritten := gw, cores := freedCores s d } := by
  have hfold := foldl_freed (s.cores.filter fun e => dieOf e.1 == d) (s.modDie d (logsFreed s d))
  unfold freed logsFreed at hfold
  refine ⟨?im, ?gw, ?eq⟩
  case eq =>
    unfold State.freeLogs
    dsimp only
    rw [hfold]
    exact rfl

/-- A die takes the commit: the split begins, its logs are freed and it has committed. -/
def committedDie (x : Die) : Die := { x with committed := true }

def taken (s : State) (d : Nat) : State := ((s.beginSplit s.seals.commitRecord).freeLogs d).modDie d committedDie

theorem taken_eq (s : State) (d : Nat) : ∃ xs im gw f, taken s d = { s.modDie d f with
      seals := { s.seals with split := s.seals.commitRecord }, ctxs := xs, saved := im, gwritten := gw, cores := freedCores s d } ∧
    (∀ k x, (k, x) ∈ s.ctxs → ∃ y, (k, y) ∈ xs ∧ y.row = x.row) ∧ ∀ x, (f x).hold = x.hold ∧ (f x).committed = true := by
  obtain ⟨xs, im, hu, hrows⟩ := beginSplit_eq s s.seals.commitRecord
  obtain ⟨im', gw, hfree⟩ := freeLogs_eq (s.beginSplit s.seals.commitRecord) d
  refine ⟨xs, im', gw, fun x => committedDie (logsFreed (s.beginSplit s.seals.commitRecord) d x), ?_, hrows, fun _ => ⟨rfl, rfl⟩⟩
  have hdie := modDie_modDie (s.beginSplit s.seals.commitRecord) d (logsFreed (s.beginSplit s.seals.commitRecord) d) committedDie
  unfold taken
  rw [hfree]
  change { ((s.beginSplit s.seals.commitRecord).modDie d (logsFreed (s.beginSplit s.seals.commitRecord) d)).modDie d committedDie with
    saved := im', gwritten := gw, cores := freedCores (s.beginSplit s.seals.commitRecord) d } = _
  rw [hdie, hu]
  rfl

theorem taken_spec (s : State) (d : Nat) : Taking s (taken s d) d ∧ Leaves s (taken s d) d := by
  obtain ⟨xs, im, gw, f, h, hrows, hf⟩ := taken_eq s d
  have hdie (n : Nat) : (taken s d).die n = (s.modDie d f).die n := by rw [h]; rfl
  have hcore (c : CoreId) : (taken s d).core c = tget Core.reset (freedCores s d) c := by rw [h]; rfl
  refine ⟨⟨by rw [h], by rw [h]; rfl, ?_, fun n hn => ?_, fun k hk => ?_, fun k hk => ?_⟩,
    ⟨⟨fun a => by rw [h]; rfl, fun c a => ?_⟩, by rw [h]; rfl, by rw [h]; rfl, by rw [h]; rfl, by rw [h]; rfl, ?_⟩⟩
  · rw [hdie, State.die_modDie_same]
    exact (hf _).2
  · rw [hdie, State.die_modDie_other _ _ hn]
  · rw [hcore]
    exact (core_freed s d k).2 hk
  · obtain ⟨x, hx, hv, hd⟩ := mem_liveOn.1 hk
    obtain ⟨y, hy, hrow⟩ := hrows k x hx
    exact mem_liveOn.2 ⟨y, by rw [h]; exact hy, by rw [hrow]; exact hv, hd⟩
  · rw [hcore]
    obtain ⟨hc | hc, -⟩ := core_freed s d c <;> rw [hc] <;> exact ⟨rfl, rfl, rfl⟩
  · rw [hdie, State.die_modDie_same]
    exact (hf _).1

end Sys2Proof.MemorySpaces

/-! #### The held writes leave, the contexts resume and the last die ends the seal -/

namespace Sys2Proof.MemorySpaces

open Sys2Proof Sys2Proof.Machine Sys2Proof.Safety Sys2Proof.ModuleParts

theorem payOwed_nil {s : State} (h : s.owed = []) (die : Nat) : s.payOwed die = s := by
  unfold State.payOwed
  rw [h, List.foldl_nil, ← h]

/-- A die keeps the held writes of the split that begins. -/
def keepsHeld (next : Word) (x : Die) : Die := { x with hold := x.hold.filter fun w => w.split == next }

theorem releaseWrites_eq {s : State} {d : Nat} {next : Word} {ws : List HeldWrite} (h : ((s.die d).hold.filter fun w => w.split != next) = ws) :
    s.releaseWrites d next = (ws.foldl State.releaseWrite s).modDie d (keepsHeld next) := by
  subst h
  rfl

/-- A die that takes no part in a seal. -/
def atRest (x : Die) : Die := { x with prepared := false, ready := false, committed := false }

/-- Every die takes no part in a seal any more. -/
def diesAtRest (s : State) : SMap Die := s.dies.foldl (fun m e => tset Die.reset m e.1 (atRest e.2)) s.dies

theorem foldl_atRest (s : State) : s.dies.foldl (fun t e => t.setDie e.1 (atRest e.2)) s = { s with dies := diesAtRest s } := foldl_setDie ..

/-- The end of a seal: the area that was written becomes current. -/
theorem endSeal_eq (s : State) : ∃ js q, s.endSeal = { s with dies := diesAtRest s, jobs := js, seals := q } ∧
    q.split = s.seals.split ∧ q.running = false ∧ q.committing = false ∧ q.area = s.seals.nextArea ∧ q.aborts = 0 := by
  have h := foldl_atRest s
  unfold atRest at h
  refine ⟨?js, ?q, ?eq, ?_⟩
  case eq =>
    unfold State.endSeal
    dsimp only
    rw [h]
  exact ⟨rfl, rfl, rfl, rfl, rfl⟩

theorem hold_diesAtRest {s : State} {d : Nat} (hone : ∀ v, (d, v) ∈ s.dies → v = s.die d) :
    (tget Die.reset (diesAtRest s) d).hold = (s.die d).hold := by
  unfold diesAtRest
  rcases tget_foldl_replace (d := Die.reset) atRest s.dies s.dies d with ⟨v, hv, h⟩ | ⟨-, h⟩
  · rw [h, hone v hv]
    rfl
  · exact congrArg Die.hold h

/-- What a die's commit comes to, with global memory and the writes that have gone out as given; u is the state in which the die has taken
the commit. -/
structure Commits (s u t : State) (d : Nat) (g : Mem) (out : List HeldWrite) (win : List (Nat × Nat × Nat)) : Prop where
  gmem : t.gmem = g
  pages : t.pages = s.pages
  cores : t.cores = u.cores
  outside : t.outside = out
  toWindow : t.toWindow = win
  split : t.seals.split = s.seals.commitRecord
  hold : (t.die d).hold = (s.die d).hold.filter fun w => w.split == s.seals.commitRecord
  resumed : ∀ k ∈ s.liveOn d, (t.ctx k).sealHeld = false
  ended : (∀ n < 36, n ≠ d → (s.die n).committed = true ∨ (s.die n).off = true) →
    t.seals.running = false ∧ t.seals.committing = false ∧ t.seals.area = s.seals.nextArea ∧ t.seals.aborts = 0

/-- The last die ends the seal. -/
def endsIfLast (s : State) : State := if (span 0 36).all fun i => (s.die i).committed || (s.die i).off then s.endSeal else s

/-- A context that a seal held goes on. -/
def resumed (x : Ctx) : Ctx := { x with sealHeld := false }

theorem resumeDie_eq (s : State) (d : Nat) : s.resumeDie d = (s.liveOn d).foldl (fun t c => t.modCtx c resumed) s := rfl

theorem sealHeld_resumeDie {s : State} {d : Nat} {k : CtxId} (hk : k ∈ s.liveOn d) : ((s.resumeDie d).ctx k).sealHeld = false := by
  rw [resumeDie_eq, ctx_foldl_modCtx (f := resumed) (fun _ => rfl), if_pos hk]
  rfl

/-- The state in which the held writes of a die have left, from that in which it has taken the commit. -/
def writesLeft (u : State) (d : Nat) (next : Word) (g : Mem) (out : List HeldWrite) (win : List (Nat × Nat × Nat)) : State :=
  { u.modDie d (keepsHeld next) with gmem := g, outside := out, toWindow := win }

section Tail
variable {s u : State} {d : Nat} {next : Word} {g : Mem} {out : List HeldWrite} {win : List (Nat × Nat × Nat)}

theorem die_writesLeft : (writesLeft u d next g out win).die d = keepsHeld next (u.die d) := State.die_modDie_same ..

theorem die_writesLeft_other {n : Nat} (hn : n ≠ d) : (writesLeft u d next g out win).die n = u.die n := State.die_modDie_other u _ hn

theorem mem_writesLeft {v : Die} (hv : (d, v) ∈ (writesLeft u d next g out win).dies) : v = (writesLeft u d next g out win).die d :=
  (eq_of_mem_tset hv).trans die_writesLeft.symm

/-- Every die has committed or is off, when the others have. -/
theorem all_committed (htaking : Taking s u d) (hother : ∀ n < 36, n ≠ d → (s.die n).committed = true ∨ (s.die n).off = true) :
    ((span 0 36).all fun i => ((writesLeft u d next g out win).die i).committed || ((writesLeft u d next g out win).die i).off) = true := by
  refine List.all_eq_true.2 fun n hn => Bool.or_eq_true_iff.2 ?_
  by_cases e : n = d
  · rw [e, die_writesLeft]
    exact .inl htaking.committed
  · rw [die_writesLeft_other e, htaking.other n e]
    exact hother n (by have := mem_span.1 hn; omega) e

theorem writesLeft_commits (htaking : Taking s u d) (hleaves : Leaves s u d) :
    Commits s u (endsIfLast ((writesLeft u d s.seals.commitRecord g out win).resumeDie d)) d g out win := by
  obtain ⟨xs, hxs⟩ := foldl_modCtx ((writesLeft u d s.seals.commitRecord g out win).liveOn d) resumed (writesLeft u d s.seals.commitRecord g out win)
  have hctx (k : CtxId) (hk : k ∈ s.liveOn d) := sealHeld_resumeDie (s := writesLeft u d s.seals.commitRecord g out win) (htaking.live k hk)
  have hsplit : u.seals.split = s.seals.commitRecord := congrArg SealCtl.split htaking.seals
  have harea : u.seals.nextArea = s.seals.nextArea := by rw [htaking.seals]
  have hhold : ((writesLeft u d s.seals.commitRecord g out win).die d).hold = (s.die d).hold.filter fun w => w.split == s.seals.commitRecord := by
    rw [die_writesLeft, keepsHeld, hleaves.hold]
  rw [resumeDie_eq, hxs] at hctx ⊢
  unfold endsIfLast
  split
  · obtain ⟨js, q, heq, hq, hrun, hcom, hqarea, haborts⟩ := endSeal_eq { writesLeft u d s.seals.commitRecord g out win with ctxs := xs }
    rw [heq]
    exact ⟨rfl, hleaves.pages, rfl, rfl, rfl, hq.trans hsplit, (hold_diesAtRest fun v hv => mem_writesLeft hv).trans hhold, hctx,
      fun _ => ⟨hrun, hcom, hqarea.trans harea, haborts⟩⟩
  next hnot => exact ⟨rfl, hleaves.pages, rfl, rfl, rfl, hsplit, hhold, hctx, fun hother => absurd (all_committed (g := g) (out := out) (win := win) htaking hother) hnot⟩

end Tail

section Commit
variable {s : State} {d : Fin 36}

/-- The carried writes of a die and the counter writes that wait at its homes are performed. -/
def carriedDone (s : State) (d : Nat) (t : State) : State := ((s.die d).carried.foldl State.performCarried t).payOwed d

theorem carriedDone_none {t : State} (h : (s.die d.val).carried = []) (howed : t.owed = []) : carriedDone s d.val t = t := by
  rw [carriedDone, h]
  exact payOwed_nil howed _

theorem execSealCommit_eq (hcom : s.seals.committing = true) (hready : (s.die d.val).ready = true) (hnot : (s.die d.val).committed = false) :
    execSealCommit d s = .next (endsIfLast ((carriedDone s d.val
      ((carriedDone s d.val (taken s d.val)).releaseWrites d.val s.seals.commitRecord)).resumeDie d.val)) :=
  if_neg (by simp [hcom, hready, hnot])

theorem sealCommit_eq (hcom : s.seals.committing = true) (hready : (s.die d.val).ready = true) (hnot : (s.die d.val).committed = false)
    (hcarried : (s.die d.val).carried = []) (howed : s.owed = []) {g : Mem} {out : List HeldWrite} {win : List (Nat × Nat × Nat)}
    (hleft : (taken s d.val).releaseWrites d.val s.seals.commitRecord = writesLeft (taken s d.val) d.val s.seals.commitRecord g out win) :
    exec (.sealCommit d) s = .next (endsIfLast ((writesLeft (taken s d.val) d.val s.seals.commitRecord g out win).resumeDie d.val)) := by
  have htaken : (taken s d.val).owed = [] := (taken_spec s d.val).1.owed.trans howed
  have hwrites : (writesLeft (taken s d.val) d.val s.seals.commitRecord g out win).owed = [] := htaken
  refine (execSealCommit_eq hcom hready hnot).trans ?_
  rw [carriedDone_none hcarried htaken, hleft, carriedDone_none hcarried hwrites]

/-- Nothing is held: the commit changes no byte. -/
theorem releaseWrites_none (hhold : (s.die d.val).hold = []) : (taken s d.val).releaseWrites d.val s.seals.commitRecord =
    writesLeft (taken s d.val) d.val s.seals.commitRecord s.gmem s.outside s.toWindow := by
  obtain ⟨-, hleaves⟩ := taken_spec s d.val
  rw [releaseWrites_eq (ws := []) (by rw [hleaves.hold, hhold]; rfl), writesLeft, ← hleaves.gmem, ← hleaves.outside, ← hleaves.toWindow]
  rfl

theorem gPoisonedPart_congr {t : State} (hg : t.gmem = s.gmem) (hp : t.pages = s.pages) (va n : Nat) :
    t.gPoisonedPart va n = s.gPoisonedPart va n := by
  unfold State.gPoisonedPart State.gMarked State.phys State.page
  rw [hg, hp]

/-- One write of the split that closes is held: it leaves. -/
theorem releaseWrites_one {w : HeldWrite} (hhold : (s.die d.val).hold = [w]) (hsplit : w.split ≠ s.seals.commitRecord)
    (hline : w.va % 64 + w.size ≤ 64) (hpoison : s.gPoisonedPart w.va w.size = false) (hframe : (s.pageAt w.va).frame ≠ none)
    (hf : FramesOk s) : ∃ g out win, (taken s d.val).releaseWrites d.val s.seals.commitRecord = writesLeft (taken s d.val) d.val s.seals.commitRecord g out win ∧
      ((s.pageAt w.va).window = false → out = w :: s.outside ∧ win = s.toWindow) ∧
      ((s.pageAt w.va).window = true → out = s.outside ∧ win = s.toWindow ++ [(w.va % 2 ^ 16, w.size, w.data)]) ∧
      ∀ t : State, t.gmem = g → t.pages = s.pages → ∀ a, t.gRead a 1 =
        if w.va ≤ a ∧ a < w.va + w.size then w.data / 256 ^ (a - w.va) % 256 else s.gRead a 1 := by
  obtain ⟨-, hleaves⟩ := taken_spec s d.val
  have hpage : (taken s d.val).pageAt w.va = s.pageAt w.va := congrArg (tget Page.reset · (pageOf w.va)) hleaves.pages
  obtain ⟨g, out, win, hrel, hout, hwin, hread⟩ := releaseWrite_spec (s := taken s d.val) (w := w)
    ((gPoisonedPart_congr hleaves.gmem hleaves.pages ..).trans hpoison) (WorkHierarchy.framesOk_of_pages hleaves.pages hf) hline
    (by rw [hpage]; exact hframe)
  rw [hpage, hleaves.outside, hleaves.toWindow] at hout hwin
  have hws : (((taken s d.val).die d.val).hold.filter fun w => w.split != s.seals.commitRecord) = [w] := by
    rw [hleaves.hold, hhold]
    simp [hsplit]
  refine ⟨g, out, win, ?_, hout, hwin, fun t hg hp a => ?_⟩
  · rw [releaseWrites_eq hws]
    change ((taken s d.val).releaseWrite w).modDie d.val _ = _
    rw [hrel]
    rfl
  · have hsame : t.gRead a 1 = ((taken s d.val).releaseWrite w).gRead a 1 :=
      gRead_congr (by rw [hrel]; exact hg) (by rw [hrel]; exact hp.trans hleaves.pages.symm) a 1
    rw [hsame, hread, gRead_congr hleaves.gmem hleaves.pages]

theorem keptHold_one {w : HeldWrite} {next : Word} (hsplit : w.split ≠ next) : ([w].filter fun w => w.split == next) = [] := by
  simp [hsplit]

end Commit
end Sys2Proof.MemorySpaces

/-! ### ABORT, and the events of a seal (R111, R113 to R117, R427, R431) -/

namespace Sys2Proof.MemorySpaces

open Sys2Proof Sys2Proof.Machine Sys2Proof.Safety Sys2Proof.ModuleParts

section Commit
variable {s : State} {d : Fin 36}

/-- A die that holds no write takes the commit. -/
theorem sealCommit_none (hcom : s.seals.committing = true) (hready : (s.die d.val).ready = true) (hnot : (s.die d.val).committed = false)
    (hcarried : (s.die d.val).carried = []) (howed : s.owed = []) (hhold : (s.die d.val).hold = []) :
    ∃ t, exec (.sealCommit d) s = .next t ∧ t.seals.split = s.seals.commitRecord ∧ Claim.SameBytes s t ∧
      (∀ k ∈ s.liveOn d.val, (t.ctx k).sealHeld = false) ∧
      (∀ k, dieOf k = d.val → (t.core k).undo = [] ∧ (t.core k).written = []) ∧
      ((∀ n < 36, n ≠ d.val → (s.die n).committed = true ∨ (s.die n).off = true) →
        t.seals.running = false ∧ t.seals.committing = false ∧ t.seals.area = s.seals.nextArea ∧ t.seals.aborts = 0) := by
  obtain ⟨htaking, hleaves⟩ := taken_spec s d.val
  have hc := writesLeft_commits (g := s.gmem) (out := s.outside) (win := s.toWindow) htaking hleaves
  refine ⟨_, sealCommit_eq hcom hready hnot hcarried howed (releaseWrites_none hhold), hc.split,
    sameBytes_trans hleaves.bytes (sameBytes_of_eq (hc.gmem.trans hleaves.gmem.symm) hc.cores), hc.resumed, fun k hk => ?_, hc.ended⟩
  rw [State.core, hc.cores]
  exact htaking.logs k hk

/-- A die that holds one write of the split that closes takes the commit, and the write leaves. -/
theorem sealCommit_one (hcom : s.seals.committing = true) (hready : (s.die d.val).ready = true) (hnot : (s.die d.val).committed = false)
    (hcarried : (s.die d.val).carried = []) (howed : s.owed = []) {w : HeldWrite} (hhold : (s.die d.val).hold = [w])
    (hsplit : w.split ≠ s.seals.commitRecord) (hline : w.va % 64 + w.size ≤ 64) (hpoison : s.gPoisonedPart w.va w.size = false)
    (hframe : (s.pageAt w.va).frame ≠ none) (hf : FramesOk s) :
    ∃ t, exec (.sealCommit d) s = .next t ∧ (t.die d.val).hold = [] ∧
      ((s.pageAt w.va).window = false → t.outside = w :: s.outside ∧ t.toWindow = s.toWindow) ∧
      ((s.pageAt w.va).window = true → t.outside = s.outside ∧ t.toWindow = s.toWindow ++ [(w.va % 2 ^ 16, w.size, w.data)]) ∧
      ∀ a, t.gRead a 1 = if w.va ≤ a ∧ a < w.va + w.size then w.data / 256 ^ (a - w.va) % 256 else s.gRead a 1 := by
  obtain ⟨htaking, hleaves⟩ := taken_spec s d.val
  obtain ⟨g, out, win, hleft, hout, hwin, hread⟩ := releaseWrites_one hhold hsplit hline hpoison hframe hf
  have hc := writesLeft_commits (g := g) (out := out) (win := win) htaking hleaves
  refine ⟨_, sealCommit_eq hcom hready hnot hcarried howed hleft, ?_, fun h => ?_, fun h => ?_, hread _ hc.gmem hc.pages⟩
  · rw [hc.hold, hhold, keptHold_one hsplit]
  · rw [hc.outside, hc.toWindow]
    exact hout h
  · rw [hc.outside, hc.toWindow]
    exact hwin h

end Commit

/-! #### The kill of a context leaves seals and dies -/

/-- The words of seals and dies are as before. -/
structure SealKept (s t : State) : Prop where
  seals : t.seals = s.seals
  dies : t.dies = s.dies

theorem SealKept.refl (s : State) : SealKept s s := ⟨rfl, rfl⟩

theorem SealKept.trans {s t u : State} (h : SealKept s t) (h' : SealKept t u) : SealKept s u :=
  ⟨h'.seals.trans h.seals, h'.dies.trans h.dies⟩

theorem sealKept_foldl {β : Type} {f : State → β → State} (h : ∀ t b, SealKept t (f t b)) (l : List β) (s : State) :
    SealKept s (l.foldl f s) := foldl_rel SealKept.refl SealKept.trans h l s

section Kill
variable (s : State) (c : CtxId)

theorem sealKept_purgePipe : SealKept s (s.purgePipe c) := by
  unfold State.purgePipe
  split
  · exact .refl s
  · exact ⟨rfl, rfl⟩

theorem sealKept_forget : SealKept s (s.forget c) := by
  unfold State.forget
  refine SealKept.trans (sealKept_foldl (fun t m => ?_) _ s) ⟨rfl, rfl⟩
  cases m.dest
  case core => exact ⟨rfl, rfl⟩
  all_goals exact .refl t

theorem sealKept_loseResv : SealKept s (s.loseResv c) := by
  unfold State.loseResv
  split
  · exact .refl s
  next r _ => cases hr : r.holder <;> exact ⟨rfl, rfl⟩

theorem sealKept_modCtx (f : Ctx → Ctx) : SealKept s (s.modCtx c f) := ⟨rfl, rfl⟩

theorem sealKept_modCore (core : CoreId) (f : Core → Core) : SealKept s (s.modCore core f) := ⟨rfl, rfl⟩

theorem sealKept_modCluster (q : ClusterId) (f : Cluster → Cluster) : SealKept s (s.modCluster q f) := ⟨rfl, rfl⟩

theorem sealKept_withdraw : SealKept s (s.withdraw c) := (sealKept_modCore s ..).trans (sealKept_modCtx ..)

theorem sealKept_testHeads (core : CoreId) : SealKept s (s.testHeads core) := by
  unfold State.testHeads
  exact (sealKept_modCore s ..).trans (sealKept_modCluster ..)

theorem sealKept_dropCmd (core : CoreId) (m : Cmd) : SealKept s (s.dropCmd core m) := by
  unfold State.dropCmd
  exact (((sealKept_modCore s ..).trans (sealKept_modCluster ..)).trans (sealKept_foldl sealKept_testHeads _ _)).trans (sealKept_testHeads ..)

theorem sealKept_dropCommands : SealKept s (s.dropCommands c) := sealKept_foldl (fun t m => sealKept_dropCmd t _ m) _ s

theorem sealKept_restKilled : SealKept s (s.restKilled c) := by
  unfold State.restKilled
  split
  · exact ⟨rfl, rfl⟩
  · exact .refl s

theorem sealKept_killCtx : SealKept s (s.killCtx c) :=
  ((((((sealKept_purgePipe s c).trans (sealKept_forget ..)).trans (sealKept_withdraw ..)).trans (sealKept_loseResv ..)).trans
    (sealKept_dropCommands ..)).trans (sealKept_modCtx ..)).trans (sealKept_restKilled ..)

theorem sealKept_notice (job kind : Nat) (cause : BitVec 8) (id : Nat) (info : Word) : SealKept s (s.notice job kind cause id info) := by
  obtain ⟨g, p, h⟩ := notice_eq s job kind cause id info
  rw [h]
  exact ⟨rfl, rfl⟩

end Kill

/-! #### ABORT -/

theorem foldl_resumeDie (l : List Nat) (s : State) : ∃ xs, l.foldl (fun t d => t.resumeDie d) s = { s with ctxs := xs } := by
  induction l generalizing s with
  | nil => exact ⟨s.ctxs, rfl⟩
  | cons d r ih =>
    obtain ⟨xs, hxs⟩ := foldl_modCtx (s.liveOn d) resumed s
    obtain ⟨ys, hys⟩ := ih (s.resumeDie d)
    refine ⟨ys, ?_⟩
    rw [List.foldl_cons, hys, resumeDie_eq, hxs]

theorem prepared_diesAtRest (s : State) (n : Nat) : (tget Die.reset (diesAtRest s) n).prepared = false := by
  unfold diesAtRest
  rcases tget_foldl_replace (d := Die.reset) atRest s.dies s.dies n with ⟨v, -, h⟩ | ⟨hn, h⟩
  · rw [h]
    rfl
  · exact congrArg Die.prepared (h.trans (tget_of_not_mem hn))

/-- A seal that stops keeps the split, the area and a request. -/
theorem stopSeal_spec (s : State) : s.stopSeal.seals.running = false ∧ s.stopSeal.seals.split = s.seals.split ∧
    s.stopSeal.seals.area = s.seals.area ∧ s.stopSeal.seals.requested = s.seals.requested ∧ ∀ n, (s.stopSeal.die n).prepared = false := by
  obtain ⟨xs, hxs⟩ := foldl_resumeDie (s.dies.map Prod.fst) s
  have hrest := foldl_atRest { s with ctxs := xs }
  unfold atRest at hrest
  unfold State.stopSeal
  dsimp only
  rw [hxs, hrest]
  exact ⟨rfl, rfl, rfl, rfl, fun n => prepared_diesAtRest { s with ctxs := xs } n⟩

/-- The notices and kills of an abort leave seals and dies. -/
theorem abort_kept (t : State) (bs : List CtxId) (l : List (Nat × CtxId)) (third : Bool) :
    SealKept t (l.foldl (fun t e => t.notice e.1 7 0 e.2 (bit third)) (if third then bs.foldl State.killCtx t else t)) := by
  refine SealKept.trans ?_ (sealKept_foldl (fun t e => sealKept_notice t ..) l _)
  cases third with
  | false => exact .refl t
  | true => exact sealKept_foldl sealKept_killCtx bs t

theorem sealAbort {s : State} (hrun : s.seals.running = true) (hcom : s.seals.committing = false) :
    ∃ t, exec .sealAbort s = .next t ∧ t.seals.running = false ∧ t.seals.split = s.seals.split ∧ t.seals.area = s.seals.area ∧
      (∀ n, (t.die n).prepared = false) ∧ t.seals.aborts = (if 2 ≤ s.seals.aborts then 0 else s.seals.aborts + 1) ∧
      t.seals.rearm = decide (s.seals.aborts < 2) ∧ t.seals.requested = (s.seals.requested || decide (2 ≤ s.seals.aborts)) := by
  obtain ⟨hstop, hsplit, harea, hreq, hprep⟩ := stopSeal_spec s
  obtain ⟨hseals, hdies⟩ := abort_kept s.stopSeal s.blockers (s.jobsOf s.blockers) (decide (2 ≤ s.seals.aborts))
  refine ⟨_, if_neg (by simp [hrun, hcom]), ?_, ?_, ?_, fun n => ?_, by simp, ?_, ?_⟩
  · exact (congrArg SealCtl.running hseals).trans hstop
  · exact (congrArg SealCtl.split hseals).trans hsplit
  · exact (congrArg SealCtl.area hseals).trans harea
  · exact (congrArg (fun m => (tget Die.reset m n).prepared) hdies).trans (hprep n)
  · by_cases h : s.seals.aborts < 2
    · simp [h, Nat.not_le.2 h]
    · simp [h, Nat.not_lt.1 h]
  · exact congrArg (· || _) ((congrArg SealCtl.requested hseals).trans hreq)

theorem resealTimer {s : State} (h : s.seals.rearm = true) :
    exec .resealTimer s = .next { s with seals := { s.seals with rearm := false, requested := true } } := if_pos h

/-- Settles O49, from one lemma for each event and what it meets: the interval and the provisional seal, PREPARE, READY, COMMIT, the
abort and the timer. -/
theorem sealEvents : Obligations.SealEvents := by
  unfold Obligations.SealEvents
  intro s d x c
  refine ⟨fun job j hj hint hrep => sealInterval hj hint hrep, fun hreq hrun hrep hprov => ?_,
    fun hreq hrun hrep hprep hoff => sealPrepare hreq hrun hrep hprep hoff, fun hrun hcom hprep hready => ⟨?_, ?_⟩,
    fun hrun hcom => ⟨fun hall hhold hans => sealReady_commits hrun hcom hall hhold hans, ?_⟩,
    fun hcom hready hnot hcarried howed => ⟨fun hhold => sealCommit_none hcom hready hnot hcarried howed hhold, ?_⟩,
    fun hrun hcom => ?_, fun h => resealTimer h⟩
  · exact ⟨_, provisionalSeal hreq hrun hrep hprov, rfl, rfl, rfl⟩
  · rintro ⟨k, hk, hh, hq⟩
    exact dieReady_blocked hrun hcom hprep hready hk hh hq
  · intro hlive hnet hsaved hwf hring hroom
    obtain ⟨u, n, hu, hf, hflushed⟩ := flushHolding_room hwf hring hroom
    obtain ⟨t, ht, hr, hbytes, hclusters⟩ := dieReady_empty hrun hcom hprep hready hlive hnet hsaved hu hf
    refine ⟨t, ht, hr, hbytes, fun q hq => ?_⟩
    rw [show t.cluster q = u.cluster q from congrArg (tget Cluster.reset · q) hclusters]
    exact hflushed q hq
  · rintro ⟨n, hn, hready, hoff⟩
    exact sealReady_waits hn hready hoff
  · intro w hhold hsplit _ hline hpoison hframe hf
    exact sealCommit_one hcom hready hnot hcarried howed hhold hsplit hline hpoison hframe hf
  · obtain ⟨t, ht, hstop, hsplit, harea, hprep, haborts, hrearm, hreq⟩ := sealAbort hrun hcom
    refine ⟨t, ht, hstop, hsplit, harea, hprep, haborts, hrearm, fun h => ?_, fun _ => hreq⟩
    rw [hreq]
    exact Bool.or_eq_true_iff.2 (h.imp_right decide_eq_true)

end Sys2Proof.MemorySpaces
